-- ==== Sys2Proof/Word.lean ====
section
/-! DEFINITION. The words of the Q9 (R7): byte, half, word, dword, quad, and the plainest readings of them as integers. -/

namespace Sys2Proof

/-- A byte, 8 bits (R7). -/
abbrev Byte := BitVec 8
/-- A half, 16 bits (R7). -/
abbrev Half := BitVec 16
/-- A word, 32 bits (R7). -/
abbrev Word := BitVec 32
/-- A dword, 64 bits (R7). -/
abbrev Dword := BitVec 64
/-- Four words, the width of a quad operand (R192). -/
abbrev Quad := BitVec 128

/-- The low word of a dword: the even register of a pair (R18). -/
def Dword.lo (d : Dword) : Word := d.setWidth 32
/-- The high word of a dword: the odd register of a pair (R18). -/
def Dword.hi (d : Dword) : Word := (d >>> 32).setWidth 32
/-- The pair `hi : lo` as one dword (R18). -/
def pairOf (lo hi : Word) : Dword := hi ++ lo

@[simp] theorem pairOf_lo (lo hi : Word) : (pairOf lo hi).lo = lo := by
  ext i h
  simp only [pairOf, Dword.lo, BitVec.getElem_setWidth, BitVec.getLsbD_append, h, if_true, BitVec.getLsbD_eq_getElem]

@[simp] theorem pairOf_hi (lo hi : Word) : (pairOf lo hi).hi = hi := by
  ext i h
  have : ¬ (32 + i < 32) := by omega
  simp only [pairOf, Dword.hi, BitVec.getElem_setWidth, BitVec.getLsbD_ushiftRight, BitVec.getLsbD_append, this,
    if_false, Nat.add_sub_cancel_left, h, BitVec.getLsbD_eq_getElem]

end Sys2Proof
end

