-- ==== Sys2Proof/Machine/Causes.lean ====
section
/-! DEFINITION. The cause codes (R125, R194, R233, R263, R334). -/

namespace Sys2Proof.Machine.Cause

/-- A cause code, 7 bits (R334). -/
abbrev Code := BitVec 7
def illegalOp : Code := 0x01
def illegalMod : Code := 0x02
def badOperand : Code := 0x03
def brTarget : Code := 0x04
def pcSlot : Code := 0x05
def lineFormat : Code := 0x06
def lineParity : Code := 0x07
def stallShort : Code := 0x08
def trapInsn : Code := 0x09
def syscall : Code := 0x0A
def breakpoint : Code := 0x0B
def step : Code := 0x0C
def watch : Code := 0x0D
def doubleTrap : Code := 0x0E
def rettBad : Code := 0x0F
def addrHigh : Code := 0x10
def fetchFault : Code := 0x11
def rangeMiss : Code := 0x12
def rangePerm : Code := 0x13
def pageFault : Code := 0x14
def pagePerm : Code := 0x15
def storeDeferred : Code := 0x16
def misaligned : Code := 0x17
def tileSpan : Code := 0x18
def tileShape : Code := 0x19
def leafRange : Code := 0x1A
def scopeUndecl : Code := 0x1B
def pteFormat : Code := 0x1C
def leaseGone : Code := 0x1D
def storeLost : Code := 0x1E
def parkLimit : Code := 0x1F
def peerDown : Code := 0x20
def peerTimeout : Code := 0x21
def cxlErr : Code := 0x22
def hostErr : Code := 0x23
def dirFault : Code := 0x24
def chanMask : Code := 0x25
def tierDemote : Code := 0x26
def leaseRecall : Code := 0x27
def accRange : Code := 0x40
def obRes : Code := 0x41
def obRecord : Code := 0x42
def paramBad : Code := 0x43
def cmdScope : Code := 0x44
def engFault : Code := 0x45
def queueBad : Code := 0x46
def copyFault : Code := 0x47
def engLost : Code := 0x48
def engTeam : Code := 0x49
def futDouble : Code := 0x50
def futBad : Code := 0x51
def barBad : Code := 0x52
def phBad : Code := 0x53
def phMode : Code := 0x54
def growImpossible : Code := 0x55
def forkLimit : Code := 0x56
def spawnBad : Code := 0x57
def bandSplit : Code := 0x58
def launchReject : Code := 0x59
def launchEvent : Code := 0x5A
def privSreg : Code := 0x60
def privInsn : Code := 0x61
def preempted : Code := 0x62
def restored : Code := 0x63
def coreHalted : Code := 0x64
def jacketFault : Code := 0x65
def frameFull : Code := 0x66
def vfReset : Code := 0x67
def meterSnap : Code := 0x68
def mcPoison : Code := 0x70
def mcLostLine : Code := 0x71
def mcRegfile : Code := 0x72
def mcScratch : Code := 0x73
def mcEngine : Code := 0x74
def mcLink : Code := 0x75
def mcStitch : Code := 0x76
def mcThermal : Code := 0x77
def mcPower : Code := 0x78
def mcFatal : Code := 0x79
def mcCorrected : Code := 0x7A
def mcHbm : Code := 0x7B
def mcLlc : Code := 0x7C
def mcWatchdog : Code := 0x7D
def mcCxl : Code := 0x7E
def mcFirmware : Code := 0x7F

end Sys2Proof.Machine.Cause
end

