-- ==== Sys2Proof/Config.lean ====
section
/-! DEFINITION. What the manual fixes for the module as counts, and the free values it leaves open. A free value has no body,
so nothing can be proved of it: a claim about a result that rests on one holds whatever it is. -/

namespace Sys2Proof.Config

/-- Cores of a package (chapter 1). -/
def coresPerPkg : Nat := 384
/-- Cores of a cluster (chapter 1). -/
def coresPerCluster : Nat := 4
/-- Cores of a compute die: 12 clusters of 4 (chapter 1). -/
def coresPerDie : Nat := 48
/-- Fibre slots of a core (R20). -/
def fibreSlots : Nat := 2048
/-- Team slots of a core (R20). -/
def teamSlots : Nat := 32
/-- Main-file registers of a core (R19). -/
def mainRegs : Nat := 131072
/-- Scratchpad leaves of a core (R25). -/
def leavesPerCore : Nat := 512
/-- Accumulator tiles of a core (R29). -/
def tilesPerCore : Nat := 64
/-- Issue ports of a core (R14). -/
def issuePorts : Nat := 4
/-- How long an owned word of an L1 waits before it is written back, at the latest, in clk: R307 bounds the time and gives no
number (DESIGN CHOICE, log 17). -/
def writeBackLimit : Nat := 16384

/-- A free choice of one of two outcomes: which of the old and the new value an early read returns (R22, R117), which of the
old and the new translation or code line a fetch meets (R104, R362). Its first argument is the counter of the state, its
second and third say which lane and operand asks. -/
opaque freeBit : Nat → Nat → Nat → Bool
/-- A free number: which free slot of a node a phaser takes (R276), or a field that an event, a packet or a register receives and the manual
does not fix (log 2). -/
opaque freeNat : Nat → Nat → Nat
/-- The distance, in units in the last place of the result, of an FP32 approximate function from the correctly rounded value
(R179). It is used only where it stays within the bound that R179 states. Arguments: the function's number, the operand. -/
opaque approxOffset : Nat → Word → Int
/-- $BOOTID of a package, by the count of its resets (R378): random, so free. -/
opaque bootId : Nat → Nat → Dword
/-- The attestation signature over a digest (R395): its bytes come from a key the manual does not give. -/
opaque signature : Nat → List Byte → List Byte

end Sys2Proof.Config
end

