-- ==== Sys2Proof/Machine/Bits.lean ====
section
/-! DEFINITION. Bit-field, sign-extension, byte-order and parity helpers over natural numbers (R5, R7, R105). -/

namespace Sys2Proof.Machine

/-- Bits [hi:lo] of a natural number (R5). -/
def bits (n hi lo : Nat) : Nat := n / 2 ^ lo % 2 ^ (hi + 1 - lo)
/-- Bit i of a natural number. -/
def bitAt (n i : Nat) : Bool := n / 2 ^ i % 2 == 1
/-- The low n bits of x as a signed number. -/
def toSigned (n x : Nat) : Int :=
  let r := x % 2 ^ n
  if n = 0 then 0 else if r < 2 ^ (n - 1) then r else (r : Int) - 2 ^ n
/-- The n-bit pattern of an integer, modulo 2^n (R141). -/
def wrap (n : Nat) (x : Int) : Nat := (x % (2 ^ n : Nat)).toNat
/-- Ones among the low n bits of x. -/
def popcount : Nat → Nat → Nat
  | 0, _ => 0
  | n + 1, x => x % 2 + popcount n (x / 2)
/-- Leading zeros of the n-bit x. -/
def leadingZeros : Nat → Nat → Nat
  | 0, _ => 0
  | n + 1, x => if bitAt x n then 0 else 1 + leadingZeros n x
/-- Trailing zeros of the n-bit x. -/
def trailingZeros : Nat → Nat → Nat
  | 0, _ => 0
  | n + 1, x => if x % 2 = 1 then 0 else 1 + trailingZeros n (x / 2)
/-- The n bits of x in reverse order. -/
def reverseBits : Nat → Nat → Nat
  | 0, _ => 0
  | n + 1, x => x % 2 * 2 ^ n + reverseBits n (x / 2)
/-- n copies of a bit. -/
def fillBit (n : Nat) (b : Bool) : Nat := if b then 2 ^ n - 1 else 0
/-- x with bits [pos+w-1:pos] replaced by the low w bits of f. -/
def insertBits (x f pos w : Nat) : Nat :=
  x % 2 ^ pos + f % 2 ^ w * 2 ^ pos + x / 2 ^ (pos + w) * 2 ^ (pos + w)

/-- The k lowest bytes of a natural number, lowest first (R7). -/
def toBytes : Nat → Nat → List Byte
  | 0, _ => []
  | k + 1, n => BitVec.ofNat 8 n :: toBytes k (n / 256)
/-- The number that little-endian bytes hold (R7). -/
def ofBytes : List Byte → Nat
  | [] => 0
  | b :: bs => b.toNat + 256 * ofBytes bs

@[simp] theorem toBytes_length (k n : Nat) : (toBytes k n).length = k := by
  induction k generalizing n with
  | zero => rfl
  | succ k ih => simp [toBytes, ih]

theorem ofBytes_toBytes (k n : Nat) : ofBytes (toBytes k n) = n % 256 ^ k := by
  induction k generalizing n with
  | zero => simp [toBytes, ofBytes, Nat.mod_one]
  | succ k ih =>
    have h : (BitVec.ofNat 8 n).toNat = n % 256 := by simp
    rw [toBytes, ofBytes, ih, h, Nat.pow_succ', Nat.mod_mul]

/-- True when the low n bits of x hold an even number of ones (R105). -/
def evenParity (n x : Nat) : Bool := popcount n x % 2 == 0

/-- One advance of the 32-bit generator of R86 and R94. -/
def xorshift (x : Word) : Word :=
  let a := x ^^^ (x <<< 13)
  let b := a ^^^ (a >>> 17)
  b ^^^ (b <<< 5)

/-- Floor of the base-2 logarithm; 0 for 0. -/
def log2 (n : Nat) : Nat := Nat.log2 n

end Sys2Proof.Machine
end

