-- ==== Sys2Proof/Syntax.lean ====
section
/-! DEFINITION. The instructions and machine steps of the Q9 as data: the modifier layouts of R118, and one constructor of
`Instr` for each row of the opcode table. The first part of `Instr` is what a fetch-line slot can hold; the second part is
the machine's own steps (the ordering machine, front ends, engines, fabric, stitch network, board controller). -/

namespace Sys2Proof

/-- The register files (R17), in the order of their selectors. -/
inductive File where
  | main | operand | last | team
  deriving DecidableEq, Repr

/-- A 10-bit operand field (R112): a register field is selector : index, a predicate field is six zeros and a number. -/
abbrev Field := BitVec 10

/-- The file a register field selects (R17). -/
def Field.file (f : Field) : File :=
  if f.toNat / 256 = 0 then .main else if f.toNat / 256 = 1 then .operand else if f.toNat / 256 = 2 then .last else .team
/-- The register index of a register field (R112). -/
def Field.idx (f : Field) : Nat := f.toNat % 256
/-- The predicate number of a predicate field (R112). -/
def Field.pred (f : Field) : Nat := f.toNat % 16

/-- ITYPE (R119). -/
inductive IType where
  | s32 | n32 | s64 | n64 | s16 | n16 | s8 | n8
  deriving DecidableEq, Repr

/-- FTYPE (R119). -/
inductive FType where
  | f32 | f16 | bf16
  deriving DecidableEq, Repr

/-- COND (R119). -/
inductive Cond where
  | eq | ne | lt | le | gt | ge
  deriving DecidableEq, Repr

/-- CTYPE of the compare immediate layout (R118). -/
inductive CType where
  | s32 | n32 | s64 | n64
  deriving DecidableEq, Repr

/-- FCOND (R119). -/
inductive FCond where
  | eq | ne | lt | le | gt | ge | un | ord
  deriving DecidableEq, Repr

/-- Rounding field (R84). -/
inductive Rnd where
  | rne | rtz | rup | rdn | rna | sr | dyn
  deriving DecidableEq, Repr

/-- ORD (R120). -/
inductive Ord where
  | rlx | acq | rel | ar
  deriving DecidableEq, Repr

/-- EVICT (R120). -/
inductive Evict where
  | default | keep | llc | ro | evf | stream | last
  deriving DecidableEq, Repr

/-- SIZE (R120). -/
inductive Size where
  | b1 | b2 | b4 | b8 | b16
  deriving DecidableEq, Repr

/-- The bytes of a SIZE (R120). -/
def Size.bytes : Size → Nat
  | .b1 => 1 | .b2 => 2 | .b4 => 4 | .b8 => 8 | .b16 => 16

/-- AOP (R121). -/
inductive Aop where
  | add | min | max | and | or | xor | exch | incw | decw | faddOrd | faddAny | fmin | fmax
  deriving DecidableEq, Repr

/-- The fields every instruction has beside OPC and MOD (R111). -/
structure Head where
  stall : BitVec 4
  gp : BitVec 4
  gi : Bool
  dst : Field
  sa : Field
  sb : Field
  sc : Field
  deriving DecidableEq, Repr

/-- Integer register layout (R118). -/
structure IntMod where
  ty : IType
  sat : Bool
  cond : Cond
  pred : BitVec 4
  pinv : Bool
  deriving DecidableEq, Repr

/-- Integer immediate layout (R118). -/
structure ImmMod where
  imm : Word
  ty : IType
  sat : Bool
  deriving DecidableEq, Repr

/-- Compare immediate layout (R118). -/
structure CmpImmMod where
  imm : Word
  ty : CType
  cond : Cond
  deriving DecidableEq, Repr

/-- Special layout, RDS (R118). -/
structure SpecialMod where
  sreg : BitVec 8
  deriving DecidableEq, Repr

/-- Float register layout (R118). -/
structure FloatMod where
  ty : FType
  rnd : Rnd
  ftz : Bool
  fcond : FCond
  deriving DecidableEq, Repr

/-- Float immediate layout (R118); the type is FP32. -/
structure FloatImmMod where
  imm : Word
  rnd : Rnd
  ftz : Bool
  deriving DecidableEq, Repr

/-- Conversion layout (R118). Format codes keep the manual's six bits (R73). -/
structure ConvMod where
  dfmt : BitVec 6
  sfmt : BitVec 6
  rnd : Rnd
  sat : Bool
  ftz : Bool
  cti : BitVec 2
  dint : Bool
  dity : IType
  sint : Bool
  sity : IType
  deriving DecidableEq, Repr

/-- Global memory layout (R118). -/
structure GlobalMod where
  ord : Ord
  scope : BitVec 3
  evict : Evict
  size : Size
  sx : Bool
  off : BitVec 24
  deriving DecidableEq, Repr

/-- Scratchpad layout (R118). -/
structure ScratchMod where
  size : Size
  sx : Bool
  cidx : BitVec 2
  off : BitVec 23
  deriving DecidableEq, Repr

/-- Atomic layout (R118). -/
structure AtomicMod where
  ord : Ord
  scope : BitVec 3
  evict : Evict
  size : Size
  sgn : Bool
  aop : Aop
  off : BitVec 21
  deriving DecidableEq, Repr

/-- Engine layout (R118). -/
structure EngineMod where
  ord : Ord
  scope : BitVec 3
  evict : Evict
  arg8 : BitVec 8
  deriving DecidableEq, Repr

/-- Branch layout (R118). -/
structure BranchMod where
  tslot : BitVec 3
  ldisp : BitVec 29
  deriving DecidableEq, Repr

/-- Sync layout (R118). -/
structure SyncMod where
  subop : BitVec 4
  optype : BitVec 4
  pred : BitVec 4
  pinv : Bool
  imm24 : BitVec 24
  deriving DecidableEq, Repr

/-- Fold layout, NOP (R118). -/
structure FoldMod where
  live : BitVec 9
  deriving DecidableEq, Repr

/-- System layout (R118). -/
structure SystemMod where
  sreg : BitVec 8
  code : BitVec 8
  deriving DecidableEq, Repr

/-- A fabric flit as its receiver meets it (R397): its link header, how many bytes of each interleave are in error, whether
the CRC holds once FEC has been applied, and the messages whose last beat it carries. -/
structure Flit where
  lseq : Nat
  lack : Nat
  ftype : Nat
  evenErrors : Nat
  oddErrors : Nat
  crcHolds : Bool
  messages : List Nat
  deriving DecidableEq, Repr

/-- The registers that R428 lets a write narrow. -/
inductive NarrowField where
  | pclu | pcol0 | pcol1 | pchan
  deriving DecidableEq, Repr

/-- The two registers of a queue slot (R378). -/
inductive BindField where
  | qdesc | qeng
  deriving DecidableEq, Repr

/-- What completes an access with an error (R334, R423): the memory that the expander port attaches, the host's memory, the pod's directory. -/
inductive AccessError where
  | attached | host | directory
  deriving DecidableEq, Repr
/-- Where an uncorrectable error lies (R334, R418): a word of global memory, a line of a slice that owns none of it, an access under way, by
its number, or, of a team, its registers, its leaves, or its part of an engine store. -/
inductive ErrPlace where
  | word (key : Nat)
  | line (ia : Nat)
  | access (id : Nat) (by_ : AccessError)
  | regfile (tid : Nat)
  | leaf (tid : Nat)
  | engine (tid : Nat)
  deriving DecidableEq, Repr

/-- What fails while a reset brings a package up (R425): its firmware's measurement, the training of an HBM stack. -/
inductive BootFault where
  | none | firmware | hbm (stack : Nat)
  deriving DecidableEq, Repr

/-- What happens to a host port (R420, R422): the board controller writes PCIEONLY, or the link goes down or trains. -/
inductive HostLink where
  | pcieonly (set : Bool)
  | lost
  | trained
  deriving DecidableEq, Repr

/-- What the patrol scrub finds at a word (R418). -/
inductive ScrubOutcome where
  | clean | corrected | uncorrectable
  deriving DecidableEq, Repr

/-- The instructions of R123, one constructor for each row of the opcode table, and the machine's steps, one for each
further row. An instruction holds its common fields and its modifier layout; a machine step holds what it acts on. -/
inductive Instr where
  /-- MOV (R144): Copies register A into the destination, extended by type. -/
  | mov (h : Head) (m : IntMod)
  /-- MOVI (R144): Writes the immediate, extended under R140, to the destination. -/
  | movi (h : Head) (m : ImmMod)
  /-- MOVHI (R144): Writes the immediate to the odd register of a destination pair. -/
  | movhi (h : Head) (m : ImmMod)
  /-- RDS (R153): Reads a special register into a main or operand register or pair. -/
  | rds (h : Head) (m : SpecialMod)
  /-- ADD (R144): Register form: adds A and B with optional saturation. -/
  | add (h : Head) (m : IntMod)
  /-- ADD_IMM (R144): Immediate form: adds A and the immediate with optional saturation. -/
  | addImm (h : Head) (m : ImmMod)
  /-- ADDC (R146): Adds 32-bit words with a predicate carry-in and writes a carry-out predicate. -/
  | addc (h : Head) (m : IntMod)
  /-- SUB (R144): Register form: subtracts B from A. -/
  | sub (h : Head) (m : IntMod)
  /-- SUB_IMM (R144): Immediate form: subtracts the immediate from A. -/
  | subImm (h : Head) (m : ImmMod)
  /-- SUBB (R146): Subtracts 32-bit words with a predicate borrow-in and writes a borrow-out predicate. -/
  | subb (h : Head) (m : IntMod)
  /-- MUL (R144): Register form: multiplies A and B, keeping the low N bits. -/
  | mul (h : Head) (m : IntMod)
  /-- MUL_IMM (R144): Immediate form: multiplies A by the immediate. -/
  | mulImm (h : Head) (m : ImmMod)
  /-- MULHI (R144): Register form: writes the upper half of the 2N-bit product. -/
  | mulhi (h : Head) (m : IntMod)
  /-- MULHI_IMM (R144): Immediate form: writes the upper half of A times the immediate. -/
  | mulhiImm (h : Head) (m : ImmMod)
  /-- MAD (R144): Register form: computes A times B plus C. -/
  | mad (h : Head) (m : IntMod)
  /-- MAD_IMM (R144): Immediate form: computes A times the immediate plus C. -/
  | madImm (h : Head) (m : ImmMod)
  /-- MADW (R144): Register form: 32-bit product plus a 64-bit addend into a pair. -/
  | madw (h : Head) (m : IntMod)
  /-- MADW_IMM (R144): Immediate form of the widening multiply-add. -/
  | madwImm (h : Head) (m : ImmMod)
  /-- DIV (R145): Register form: truncating division with defined zero and overflow results. -/
  | div (h : Head) (m : IntMod)
  /-- DIV_IMM (R145): Immediate form of integer division. -/
  | divImm (h : Head) (m : ImmMod)
  /-- REM (R145): Register form: remainder with the sign of A. -/
  | rem (h : Head) (m : IntMod)
  /-- REM_IMM (R145): Immediate form of integer remainder. -/
  | remImm (h : Head) (m : ImmMod)
  /-- ABS (R144): Writes the absolute value of a signed A. -/
  | abs (h : Head) (m : IntMod)
  /-- NEG (R144): Writes the negation of a signed A. -/
  | neg (h : Head) (m : IntMod)
  /-- MIN (R144): Register form: writes the smaller of A and B. -/
  | min (h : Head) (m : IntMod)
  /-- MIN_IMM (R144): Immediate form: writes the smaller of A and the immediate. -/
  | minImm (h : Head) (m : ImmMod)
  /-- MAX (R144): Register form: writes the larger of A and B. -/
  | max (h : Head) (m : IntMod)
  /-- MAX_IMM (R144): Immediate form: writes the larger of A and the immediate. -/
  | maxImm (h : Head) (m : ImmMod)
  /-- CLAMP (R144): Writes A clamped between B and C. -/
  | clamp (h : Head) (m : IntMod)
  /-- AND (R147): Register form: bitwise AND. -/
  | and (h : Head) (m : IntMod)
  /-- AND_IMM (R147): Immediate form: bitwise AND. -/
  | andImm (h : Head) (m : ImmMod)
  /-- OR (R147): Register form: bitwise OR. -/
  | or (h : Head) (m : IntMod)
  /-- OR_IMM (R147): Immediate form: bitwise OR. -/
  | orImm (h : Head) (m : ImmMod)
  /-- XOR (R147): Register form: bitwise XOR. -/
  | xor (h : Head) (m : IntMod)
  /-- XOR_IMM (R147): Immediate form: bitwise XOR. -/
  | xorImm (h : Head) (m : ImmMod)
  /-- ANDN (R147): Register form: A AND NOT B. -/
  | andn (h : Head) (m : IntMod)
  /-- ANDN_IMM (R147): Immediate form: A AND NOT immediate. -/
  | andnImm (h : Head) (m : ImmMod)
  /-- ORN (R147): Register form: A OR NOT B. -/
  | orn (h : Head) (m : IntMod)
  /-- ORN_IMM (R147): Immediate form: A OR NOT immediate. -/
  | ornImm (h : Head) (m : ImmMod)
  /-- SHL (R147): Register form: logical shift left by B[7:0]. -/
  | shl (h : Head) (m : IntMod)
  /-- SHL_IMM (R147): Immediate form: logical shift left. -/
  | shlImm (h : Head) (m : ImmMod)
  /-- SHR (R147): Register form: logical shift right. -/
  | shr (h : Head) (m : IntMod)
  /-- SHR_IMM (R147): Immediate form: logical shift right. -/
  | shrImm (h : Head) (m : ImmMod)
  /-- SAR (R147): Register form: arithmetic shift right. -/
  | sar (h : Head) (m : IntMod)
  /-- SAR_IMM (R147): Immediate form: arithmetic shift right. -/
  | sarImm (h : Head) (m : ImmMod)
  /-- ROTL (R147): Register form: rotate left by c mod N. -/
  | rotl (h : Head) (m : IntMod)
  /-- ROTL_IMM (R147): Immediate form: rotate left. -/
  | rotlImm (h : Head) (m : ImmMod)
  /-- FSHL (R147): Register form: funnel shift of A and C. -/
  | fshl (h : Head) (m : IntMod)
  /-- FSHL_IMM (R147): Immediate form: funnel shift of A and C. -/
  | fshlImm (h : Head) (m : ImmMod)
  /-- BFX (R148): Register form: extracts a bit field, sign- or zero-extended. -/
  | bfx (h : Head) (m : IntMod)
  /-- BFX_IMM (R148): Immediate form of bit-field extract. -/
  | bfxImm (h : Head) (m : ImmMod)
  /-- BFI (R148): Register form: inserts A into a field of C. -/
  | bfi (h : Head) (m : IntMod)
  /-- BFI_IMM (R148): Immediate form of bit-field insert. -/
  | bfiImm (h : Head) (m : ImmMod)
  /-- BREV (R147): Reverses the N bits of A. -/
  | brev (h : Head) (m : IntMod)
  /-- POPC (R147): Counts the one bits of A. -/
  | popc (h : Head) (m : IntMod)
  /-- CLZ (R147): Counts the leading zeros of A. -/
  | clz (h : Head) (m : IntMod)
  /-- CTZ (R147): Counts the trailing zeros of A. -/
  | ctz (h : Head) (m : IntMod)
  /-- BYTEP (R149): Register form: builds each byte from selected bytes of C:A. -/
  | bytep (h : Head) (m : IntMod)
  /-- BYTEP_IMM (R149): Immediate form of the byte permute. -/
  | bytepImm (h : Head) (m : ImmMod)
  /-- SEL (R151): Writes A or B according to a predicate. -/
  | sel (h : Head) (m : IntMod)
  /-- CMP (R150): Register form: compares A and B and writes a predicate, optionally ANDed with a predicate. -/
  | cmp (h : Head) (m : IntMod)
  /-- CMP_IMM (R150): Immediate form: compares A with the immediate and writes a predicate. -/
  | cmpImm (h : Head) (m : CmpImmMod)
  /-- PAND (R151): Writes the AND of two predicates. -/
  | pand (h : Head) (m : IntMod)
  /-- POR (R151): Writes the OR of two predicates. -/
  | por (h : Head) (m : IntMod)
  /-- PXOR (R151): Writes the XOR of two predicates. -/
  | pxor (h : Head) (m : IntMod)
  /-- PNOT (R151): Writes the inverse of a predicate. -/
  | pnot (h : Head) (m : IntMod)
  /-- LEA (R152): Register form: forms A plus extended C times stride B as a 64-bit address. -/
  | lea (h : Head) (m : IntMod)
  /-- LEA_IMM (R152): Immediate form: forms an address with an immediate stride. -/
  | leaImm (h : Head) (m : ImmMod)
  /-- FADD (R173): Register form: rounded floating-point addition. -/
  | fadd (h : Head) (m : FloatMod)
  /-- FADD_IMM (R173): Immediate form: FP32 addition with an FP32 immediate. -/
  | faddImm (h : Head) (m : FloatImmMod)
  /-- FSUB (R173): Register form: rounded floating-point subtraction. -/
  | fsub (h : Head) (m : FloatMod)
  /-- FSUB_IMM (R173): Immediate form: FP32 subtraction. -/
  | fsubImm (h : Head) (m : FloatImmMod)
  /-- FMUL (R173): Register form: rounded floating-point multiplication. -/
  | fmul (h : Head) (m : FloatMod)
  /-- FMUL_IMM (R173): Immediate form: FP32 multiplication. -/
  | fmulImm (h : Head) (m : FloatImmMod)
  /-- FFMA (R173): Register form: fused multiply-add with one rounding. -/
  | ffma (h : Head) (m : FloatMod)
  /-- FFMA_IMM (R173): Immediate form: FP32 fused multiply-add. -/
  | ffmaImm (h : Head) (m : FloatImmMod)
  /-- FMIN (R175): Writes the smaller operand, with -0 below +0 and NaN rules. -/
  | fmin (h : Head) (m : FloatMod)
  /-- FMAX (R175): Writes the larger operand, with NaN rules. -/
  | fmax (h : Head) (m : FloatMod)
  /-- FCMP (R177): Compares two floating-point values and writes a predicate. -/
  | fcmp (h : Head) (m : FloatMod)
  /-- FCLASS (R178): Writes a one-hot class mask of A. -/
  | fclass (h : Head) (m : FloatMod)
  /-- FDIV (R173): Correctly rounded floating-point division. -/
  | fdiv (h : Head) (m : FloatMod)
  /-- FSQRT (R173): Correctly rounded square root. -/
  | fsqrt (h : Head) (m : FloatMod)
  /-- FRCP (R173): Correctly rounded reciprocal. -/
  | frcp (h : Head) (m : FloatMod)
  /-- FRSQ (R179): Approximate reciprocal square root within its bound. -/
  | frsq (h : Head) (m : FloatMod)
  /-- FEXP2 (R179): Approximate base-2 exponential. -/
  | fexp2 (h : Head) (m : FloatMod)
  /-- FLOG2 (R179): Approximate base-2 logarithm. -/
  | flog2 (h : Head) (m : FloatMod)
  /-- FSIN (R179): Approximate sine in radians. -/
  | fsin (h : Head) (m : FloatMod)
  /-- FCOS (R179): Approximate cosine in radians. -/
  | fcos (h : Head) (m : FloatMod)
  /-- FTANH (R179): Approximate hyperbolic tangent. -/
  | ftanh (h : Head) (m : FloatMod)
  /-- FRND (R173): Rounds A to an integral value in its own format. -/
  | frnd (h : Head) (m : FloatMod)
  /-- FSCALE (R173): Multiplies A by 2 to the signed integer B with one rounding. -/
  | fscale (h : Head) (m : FloatMod)
  /-- FABS (R176): Clears the sign bit of A. -/
  | fabs (h : Head) (m : FloatMod)
  /-- FNEG (R176): Inverts the sign bit of A. -/
  | fneg (h : Head) (m : FloatMod)
  /-- CVT (R183): Converts one element between formats and integer types. -/
  | cvt (h : Head) (m : ConvMod)
  /-- CVTBLK (R185): Quantises 16 values into one block with a shared scale. -/
  | cvtblk (h : Head) (m : ConvMod)
  /-- DEQBLK (R186): Expands a scaled block back into 16 wide values. -/
  | deqblk (h : Head) (m : ConvMod)
  /-- HADD2 (R189): Adds two packed 16-bit halves, each rounded once. -/
  | hadd2 (h : Head) (m : ConvMod)
  /-- HFMA2 (R189): Packed 16-bit fused multiply-add on both halves. -/
  | hfma2 (h : Head) (m : ConvMod)
  /-- DOT2 (R189): Two-element 16-bit dot product with an FP32 addend. -/
  | dot2 (h : Head) (m : ConvMod)
  /-- DOT4 (R189): Four-element 8-bit dot product with an addend. -/
  | dot4 (h : Head) (m : ConvMod)
  /-- LD (R197): Loads 1 to 16 bytes from global memory, with optional acquire. -/
  | ld (h : Head) (m : GlobalMod)
  /-- ST (R197): Stores 1 to 16 bytes to global memory through the write queue, with optional release. -/
  | st (h : Head) (m : GlobalMod)
  /-- LDB (R201): Band-coalesced load of whole lines shared out to the band's lanes. -/
  | ldb (h : Head) (m : GlobalMod)
  /-- LDS (R204): Loads from the team's scratchpad. -/
  | lds (h : Head) (m : ScratchMod)
  /-- STS (R204): Stores to the team's scratchpad. -/
  | sts (h : Head) (m : ScratchMod)
  /-- LDN (R205): Reads a neighbour core's scratchpad over the cluster network. -/
  | ldn (h : Head) (m : ScratchMod)
  /-- TLD (R211): Moves a tile from global memory into the scratchpad as one indivisible step. -/
  | tld (h : Head) (m : GlobalMod)
  /-- TST (R211): Moves a tile from the scratchpad to global memory as one indivisible step. -/
  | tst (h : Head) (m : GlobalMod)
  /-- PREF (R217): Prefetches a line toward the core without faulting. -/
  | pref (h : Head) (m : GlobalMod)
  /-- CWB (R218): Writes owned words of a range back to the scope point. -/
  | cwb (h : Head) (m : GlobalMod)
  /-- LEAFWT (R207): Waits until every leaf of a range is thread-owned. -/
  | leafwt (h : Head) (m : ScratchMod)
  /-- LEAFTST (R207): Writes a predicate saying whether every leaf of a range is thread-owned. -/
  | leaftst (h : Head) (m : ScratchMod)
  /-- ATOM (R219): Indivisible read-modify-write at the word's home, returning the old value. -/
  | atom (h : Head) (m : AtomicMod)
  /-- CAS (R219): Compare-and-swap at the word's home, returning the old value. -/
  | cas (h : Head) (m : AtomicMod)
  /-- RED (R219): Indivisible read-modify-write at the home with no returned value. -/
  | red (h : Head) (m : AtomicMod)
  /-- FENCE (R224): Performs a release, an acquire or both at a scope point. -/
  | fence (h : Head) (m : GlobalMod)
  /-- OBRES (R234): Reserves a zeroed operand-buffer range from a record and returns its number or a status. -/
  | obres (h : Head) (m : EngineMod)
  /-- OBREL (R237): Releases an operand-buffer reservation. -/
  | obrel (h : Head) (m : EngineMod)
  /-- MMA (R241): Issues a matrix command from a parameter block. -/
  | mma (h : Head) (m : EngineMod)
  /-- ACCZ (R243): Issues a command that zeroes accumulator tiles. -/
  | accz (h : Head) (m : EngineMod)
  /-- ACCRD (R244): Issues a command writing accumulator tiles to leaves, optionally converted. -/
  | accrd (h : Head) (m : EngineMod)
  /-- CTAB (R238): Issues a write of a code table from a 32-byte block. -/
  | ctab (h : Head) (m : EngineMod)
  /-- TCOPY (R247): Issues a box copy of up to five dimensions from a descriptor. -/
  | tcopy (h : Head) (m : EngineMod)
  /-- TGATH (R249): Issues a compressed-sparse-row gather into leaves. -/
  | tgath (h : Head) (m : EngineMod)
  /-- QPUSH (R251): Claims a queue slot, writes a packet and publishes its header. -/
  | qpush (h : Head) (m : EngineMod)
  /-- CTRADD (R257): Adds to a timeline counter at its home. -/
  | ctradd (h : Head) (m : EngineMod)
  /-- CTRWAIT (R258): Waits at the counter's home until it reaches a value. -/
  | ctrwait (h : Head) (m : EngineMod)
  /-- CTRTEST (R257): Tests a counter against a value into a predicate. -/
  | ctrtest (h : Head) (m : EngineMod)
  /-- BRA (R154): Direct branch to a line displacement and slot. -/
  | bra (h : Head) (m : BranchMod)
  /-- BRX (R154): Indirect branch to the PC in a register pair. -/
  | brx (h : Head) (m : SyncMod)
  /-- CALL (R154): Direct call that writes the return PC to a pair. -/
  | call (h : Head) (m : BranchMod)
  /-- CALLX (R154): Indirect call that writes the return PC to a pair. -/
  | callx (h : Head) (m : SyncMod)
  /-- RET (R155): Returns to the PC in a register pair. -/
  | ret (h : Head) (m : SyncMod)
  /-- NOP (R156): Does nothing; at a fold point it carries the live window. -/
  | nop (h : Head) (m : FoldMod)
  /-- YIELD (R156): Makes the fibre not ready for n clk without a Wait. -/
  | yieldN (h : Head) (m : SyncMod)
  /-- SLEEP (R157): Immediate form: suspends the fibre in Wait for n clk. -/
  | sleep (h : Head) (m : SyncMod)
  /-- SLEEP_REG (R157): Register form: suspends the fibre for the clk count in A. -/
  | sleepReg (h : Head) (m : SyncMod)
  /-- VOTE_ANY (R160): Band collective giving the OR of a predicate over the segment. -/
  | voteAny (h : Head) (m : SyncMod)
  /-- VOTE_ALL (R160): Band collective giving the AND of a predicate over the segment. -/
  | voteAll (h : Head) (m : SyncMod)
  /-- VOTE_BALLOT (R160): Band collective giving a ballot mask of a predicate. -/
  | voteBallot (h : Head) (m : SyncMod)
  /-- VOTE_COUNT (R160): Band collective counting lanes with the predicate true. -/
  | voteCount (h : Head) (m : SyncMod)
  /-- SHFL (R161): Band collective fetching a value from another lane of the segment. -/
  | shfl (h : Head) (m : SyncMod)
  /-- BREDUCE (R162): Band collective reduction over each segment. -/
  | breduce (h : Head) (m : SyncMod)
  /-- BSCAN (R162): Band collective prefix scan over each segment. -/
  | bscan (h : Head) (m : SyncMod)
  /-- MATCH_LEAD (R163): Band collective grouping lanes by value and giving leader, count and rank. -/
  | matchLead (h : Head) (m : SyncMod)
  /-- MATCH_UNI (R163): Band collective testing whether all contributing lanes hold one value. -/
  | matchUni (h : Head) (m : SyncMod)
  /-- BSYNC (R164): Gathers the band with no other effect. -/
  | bsync (h : Head) (m : SyncMod)
  /-- BSYNC_MASK (R164): Gathers the band and writes the participant mask. -/
  | bsyncMask (h : Head) (m : SyncMod)
  /-- BARALLOC (R265): Register form: allocates a named barrier with an arrival count from A. -/
  | baralloc (h : Head) (m : SyncMod)
  /-- BARALLOC_IMM (R265): Immediate form: allocates a named barrier with an immediate count. -/
  | barallocImm (h : Head) (m : SyncMod)
  /-- BARFREE (R265): Returns an idle hardware barrier to the grant. -/
  | barfree (h : Head) (m : SyncMod)
  /-- BARARV (R267): Releases and arrives at a barrier, returning the generation token. -/
  | bararv (h : Head) (m : SyncMod)
  /-- BARWT (R267): Waits until the barrier generation passes the token, then acquires. -/
  | barwt (h : Head) (m : SyncMod)
  /-- BARSYNC (R267): Arrives at a barrier and waits for the generation to pass. -/
  | barsync (h : Head) (m : SyncMod)
  /-- FUTSET (R270): Resolves a future with a value and delivers its continuations. -/
  | futset (h : Head) (m : SyncMod)
  /-- FUTSET_FAIL (R270): Sets a future to faulted with a value and delivers its continuations. -/
  | futsetFail (h : Head) (m : SyncMod)
  /-- FUTWAIT_PARK (R270): Waits until a future is resolved or faulted and returns its value. -/
  | futwaitPark (h : Head) (m : SyncMod)
  /-- FUTWAIT_CONT (R270): Registers a continuation record on a future, or delivers it at once if late. -/
  | futwaitCont (h : Head) (m : SyncMod)
  /-- FUTTEST (R270): Tests whether a future is resolved or faulted. -/
  | futtest (h : Head) (m : SyncMod)
  /-- FSPAWN (R273): Places a fibre record into a spawn bin of the core, or returns no-slot. -/
  | fspawn (h : Head) (m : SyncMod)
  /-- FFORK (R271): Register form: creates n new fibres in the team. -/
  | ffork (h : Head) (m : SyncMod)
  /-- FFORK_IMM (R271): Immediate form: creates n new fibres in the team. -/
  | fforkImm (h : Head) (m : SyncMod)
  /-- FEND (R272): Ends the issuing fibre. -/
  | fend (h : Head) (m : SyncMod)
  /-- GROW (R272): Enlarges the fibre's window, waiting for registers if needed. -/
  | grow (h : Head) (m : SyncMod)
  /-- SHRINK (R272): Shrinks the fibre's window at once. -/
  | shrink (h : Head) (m : SyncMod)
  /-- LAUNCH (R274): Releases and appends a launch record to the pending-launch queue, or returns FULL. -/
  | launch (h : Head) (m : SyncMod)
  /-- PHREG_CREATE (R278): Creates a hardware phaser and registers the team on it. -/
  | phregCreate (h : Head) (m : SyncMod)
  /-- PHREG_JOIN (R278): Registers the team on an existing phaser. -/
  | phregJoin (h : Head) (m : SyncMod)
  /-- PHDROP (R279): Removes parties or a waiter registration from a phaser. -/
  | phdrop (h : Head) (m : SyncMod)
  /-- PHSIG (R281): Makes one arrival on a counting phaser after its release. -/
  | phsig (h : Head) (m : SyncMod)
  /-- PHWAIT (R283): Waits until the phaser reaches a target phase, then acquires. -/
  | phwait (h : Head) (m : SyncMod)
  /-- PHANY (R282): Makes one arrival with a payload on an any-of phaser. -/
  | phany (h : Head) (m : SyncMod)
  /-- PHTEST (R283): Tests whether the phaser has reached a target. -/
  | phtest (h : Head) (m : SyncMod)
  /-- PHTEST_RD (R283): Reads the phaser's current phase. -/
  | phtestRd (h : Head) (m : SyncMod)
  /-- TRAP (R336): Raises a software cause or TRAP_INSN. -/
  | trap (h : Head) (m : SystemMod)
  /-- SYSC (R336): Raises SYSCALL with a code. -/
  | sysc (h : Head) (m : SystemMod)
  /-- RETT (R330): Returns from a trap handler to the trapping PC. -/
  | rett (h : Head) (m : SystemMod)
  /-- RETT_NEXT (R330): Returns from a trap handler to the PC after the trapping one. -/
  | rettNext (h : Head) (m : SystemMod)
  /-- MTS (R337): Writes a special or system register; also the write of registers with no behaviour of their own. -/
  | mts (h : Head) (m : SystemMod)
  /-- MFS (R337): Reads a privileged system register. -/
  | mfs (h : Head) (m : SystemMod)
  /-- EVPOP (R333): Removes the oldest event record of the level's queue. -/
  | evpop (h : Head) (m : SystemMod)
  /-- WFE (R333): Waits until the level's event queue holds a record. -/
  | wfe (h : Head) (m : SystemMod)
  /-- ICINV (R339): Drops instruction-cache lines of a range on every core of the partition. -/
  | icinv (h : Head) (m : SystemMod)
  /-- XINV (R340): Removes translations of intermediate pages from every home agent. -/
  | xinv (h : Head) (m : SystemMod)
  /-- JKSAVE (R342): Saves a resident team to a jacket frame and holds it. -/
  | jksave (h : Head) (m : SystemMod)
  /-- JKLOAD (R342): Marks a held team ready to restore. -/
  | jkload (h : Head) (m : SystemMod)
  /-- BKPT (R336): Raises BREAKPOINT with a code. -/
  | bkpt (h : Head) (m : SystemMod)
  /-- HALTC (R343): Halts every fibre of the core. -/
  | haltc (h : Head) (m : SystemMod)
  /-- UNASSIGNED_OPCODE (R124): A fibre issues a slot whose opcode is absent from the map and raises ILLEGAL_OP with no other effect. -/
  | unassignedOpcode (w : BitVec 96)
  /-- LINE_FILL (R105): A fetch line arrives, parity is checked and a second fetch is made on mismatch. -/
  | lineFill (tid : Nat) (fid : Nat)
  /-- BAND_SPLIT (R45): All enrolled fibres of a band wait at collectives at different addresses and each traps. -/
  | bandSplit (tid : Nat) (band : Nat)
  /-- RESULT_ARRIVAL (R116): A variable-latency result arrives and releases its interlock. -/
  | resultArrival (tid : Nat) (fid : Nat) (id : Nat)
  /-- YIELD_EXPIRY (R156): A yielding fibre's count runs out and it becomes ready. -/
  | yieldExpiry (tid : Nat) (fid : Nat)
  /-- SLEEP_EXPIRY (R157): A sleeping fibre's time runs out and it becomes ready. -/
  | sleepExpiry (tid : Nat) (fid : Nat)
  /-- LONG_WAIT_EXPIRY (R64): A team has waited $WAITLIM clk and is sent to its jacket. -/
  | longWaitExpiry (tid : Nat)
  /-- GROW_DEADLOCK_JACKET (R69): All teams are blocked on GROW or FFORK and one is jacketed. -/
  | growDeadlockJacket (pkg : Nat) (core : Nat)
  /-- GROW_GRANT (R68): The head GROW request is granted once free registers cover it. -/
  | growGrant (tid : Nat) (fid : Nat)
  /-- FFORK_GRANT (R271): A pending FFORK is granted and its fibres are created. -/
  | fforkGrant (tid : Nat) (fid : Nat)
  /-- JACKET_SAVE (R65): Once engine commands drain, a team's whole state is written to its jacket frame. -/
  | jacketSave (tid : Nat)
  /-- JACKET_RESTORE (R66): A jacketed team whose condition holds is restored to its core when resources fit. -/
  | jacketRestore (tid : Nat)
  /-- FOLD_STOP (R350): During folding a fibre reaches a fold-point slot and stops. -/
  | foldStop (tid : Nat) (fid : Nat)
  /-- GRACE_EXPIRY (R351): The grace timer expires and unfolded fibres are forced to save. -/
  | graceExpiry (pkg : Nat) (part : Nat)
  /-- TEAM_PLACE (R52): The front end places a team or gang when resources fit, with the team-start acquire. -/
  | teamPlace (launch : Nat) (cores : List Nat)
  /-- TEAM_END (R47): A team ends once all fibres have ended and its engine commands completed. -/
  | teamEnd (tid : Nat)
  /-- LAUNCH_RECORD_CHECK (R56): The front end examines a launch record and rejects an invalid one. -/
  | launchRecordCheck (launch : Nat)
  /-- LAUNCH_ACCEPT (R57): A held record's preconditions are met and it is accepted. -/
  | launchAccept (launch : Nat)
  /-- LAUNCH_PRE_FAULT (R57): A held record's precondition becomes impossible and it is rejected. -/
  | launchPreFault (launch : Nat)
  /-- LAUNCH_COMPLETE (R58): The last team of a launch ends and DONECTR and DONEFUT are written. -/
  | launchComplete (launch : Nat)
  /-- SPAWN_BIN_TIMEOUT (R61): A spawn bin's timer reaches $SPAWNLIM and the bin fires. -/
  | spawnBinTimeout (pkg : Nat) (core : Nat) (bin : Nat)
  /-- SPAWN_TEAM_PLACE (R61): A fired bin's team is placed once resources fit. -/
  | spawnTeamPlace (pkg : Nat) (core : Nat) (bin : Nat)
  /-- CONTINUATION_DELIVER (R270): A continuation record decrements its join counter and enters a spawn bin or is dropped. -/
  | continuationDeliver (id : Nat)
  /-- ENGINE_COMMAND_COMPLETE (R230): An engine command's last write is acknowledged and its leaves return to thread. -/
  | engineCommandComplete (id : Nat)
  /-- ENGINE_ABORT (R232): An engine command fails an access, aborts and records an engine fault. -/
  | engineAbort (id : Nat)
  /-- NEIGHBOUR_FETCH (R242): An MMA reads a neighbour core's scratchpad as one step of its order. -/
  | neighbourFetch (id : Nat) (opB : Bool)
  /-- CTAB_TABLE_WRITE (R100): After earlier commands drain, the code table is written and its version incremented. -/
  | ctabTableWrite (id : Nat)
  /-- OB_RANGE_RETURN (R237): A released reservation's range returns once earlier commands complete. -/
  | obRangeReturn (pkg : Nat) (core : Nat) (num : Nat)
  /-- DRAIN (R290): A write-queue entry is written into L1 as owned and a registration is sent. -/
  | drain (id : Nat)
  /-- REGISTER (R289): A registration reaches its scope point, records the owner and stales other copies. -/
  | register (id : Nat)
  /-- ACKNOWLEDGE (R289): An acknowledgement arrives and the registration counts as acknowledged. -/
  | acknowledge (id : Nat)
  /-- READ (R291): A load takes its read step from the write queue, L1 or a fill. -/
  | read (id : Nat)
  /-- FILL (R289): A scope point draws in owned values and sends a line to a missing cache. -/
  | fill (pkg : Nat) (core : Nat) (ia : Nat)
  /-- WRITE_BACK (R289): An owned word is sent up and registered at the next point. -/
  | writeBack (pkg : Nat) (core : Nat) (ia : Nat)
  /-- AGE_OUT (R289): A valid or stale L1 word becomes invalid, at latest 16,384 clk after its fill. -/
  | ageOut (pkg : Nat) (core : Nat) (ia : Nat)
  /-- ATOMIC_STEP (R296): One indivisible read-modify-write is applied at the word's home. -/
  | atomicStep (id : Nat)
  /-- TILE_STEP (R297): A tile's bytes move together once all clasps are held. -/
  | tileStep (id : Nat)
  /-- DELIVER (R301): A fabric channel delivers one message in flight. -/
  | deliver (id : Nat)
  /-- RELEASE_COMPLETE (R293): A release completes once earlier entries drain and registrations are acknowledged. -/
  | releaseComplete (tid : Nat) (fid : Nat) (seq : Nat)
  /-- CLASP_GRANT (R319): A home agent grants a line's clasp to the oldest waiting tile. -/
  | claspGrant (pkg : Nat) (line : Nat)
  /-- PARK_LIMIT (R367): A page's oldest parked request reaches $PARKLIM and an event is sent. -/
  | parkLimit (pkg : Nat) (page : Nat)
  /-- PGREADY (R366): A page-ready write makes home agents walk the page again and replay or discard its requests. -/
  | pgready (pkg : Nat) (part : Nat) (page : Nat)
  /-- INGRESS_LEASE_EXPIRY (R408): An ingress atomic cache line's 2,048-clk lease ends and it is written back. -/
  | ingressLeaseExpiry (pkg : Nat) (line : Nat)
  /-- PACKET_TAKE (R254): A bulk copy engine takes a packet whose SEQ matches, with an acquire. -/
  | packetTake (pkg : Nat) (part : Nat) (queue : Nat) (engine : Nat)
  /-- COPY_CHUNK (R256): A COPY or FILL chunk completes, or faults and halts the queue. -/
  | copyChunk (id : Nat)
  /-- PACKET_FINISH (R255): A packet's effect is acknowledged, its completion action runs and STATE is written. -/
  | packetFinish (id : Nat)
  /-- CHAIN_HOP (R409): A CHAINSTORE target writes its bytes, awaits acknowledgement and forwards. -/
  | chainHop (id : Nat)
  /-- FRONT_END_PACKET_TAKE (R316): A front end takes a LAUNCH packet, checks the record and finishes the slot. -/
  | frontEndPacketTake (pkg : Nat) (part : Nat) (queue : Nat)
  /-- SPAWN_PACKET_TAKE (R275): A front end takes a SPAWN packet and places its record in a bin. -/
  | spawnPacketTake (pkg : Nat) (part : Nat) (queue : Nat) (core : Nat)
  /-- BOUND_ARRIVAL_RELEASE (R416): A .bound arrival leaves the package once covered fabric writes are acknowledged. -/
  | boundArrivalRelease (id : Nat)
  /-- STITCH_ARRIVAL (R414): An arrival message is combined, filtered or applied at a stitch node. -/
  | stitchArrival (id : Nat)
  /-- PHASE_BROADCAST (R415): A phase broadcast reaches a node, updates slots and releases waiters. -/
  | phaseBroadcast (id : Nat)
  /-- STITCH_JOIN (R413): A join message travels to the home slot and is applied. -/
  | stitchJoin (id : Nat)
  /-- STITCH_DROP (R413): A drop message travels to the home slot and is applied. -/
  | stitchDrop (id : Nat)
  /-- STITCH_LINK_FAIL (R412): The active stitch link fails and traffic moves to the other link. -/
  | stitchLinkFail (pkg : Nat)
  /-- FLIT_RECEIVE (R398): A flit arrives, FEC and CRC are applied and a replay is requested on error. -/
  | flitReceive (pkg : Nat) (port : Nat) (flit : Flit)
  /-- REPLAY_REQUEST (R398): A replay request arrives and the sender resends from its buffer. -/
  | replayRequest (pkg : Nat) (port : Nat) (lack : Nat)
  /-- LANE_FAIL (R396): A fabric lane fails. -/
  | laneFail (pkg : Nat) (port : Nat) (lane : Nat)
  /-- PORT_RETRAIN (R396): A port retrains at 4 lanes or goes down. -/
  | portRetrain (pkg : Nat) (port : Nat)
  /-- MESSAGE_RECEIVE (R400): A message is accepted, dropped as duplicate or dropped above the window. -/
  | messageReceive (id : Nat)
  /-- E2E_RETRY_TIMEOUT (R400): No acknowledgement within RETRY, so the message is resent or the operation fails. -/
  | e2eRetryTimeout (id : Nat)
  /-- GET (R407): A miss request for a peer line arrives at the home. -/
  | get (id : Nat)
  /-- GETX (R407): An exclusive request for a clasp arrives at the home. -/
  | getx (id : Nat)
  /-- REG (R407): A pod-level registration arrives at the home. -/
  | reg (id : Nat)
  /-- WB (R407): A write-back of owned words of a peer line arrives at the home. -/
  | wb (id : Nat)
  /-- STALE (R407): A directory message marks copies of a line stale. -/
  | stale (id : Nat)
  /-- DRAW (R407): A directory message makes the slice write back its owned words. -/
  | draw (id : Nat)
  /-- ATM (R407): A remote atomic arrives at the ingress atomic cache. -/
  | atm (id : Nat)
  /-- CLASP (R407): A clasp request arrives at a line's home agent. -/
  | clasp (id : Nat)
  /-- UNCLASP (R407): A clasp release arrives at a line's home agent. -/
  | unclasp (id : Nat)
  /-- CHAIN (R407): A chain-forwarded store message arrives at a target. -/
  | chain (id : Nat)
  /-- LEASE (R407): A lease engine message arrives. -/
  | lease (id : Nat)
  /-- DATA (R407): A data response completes a request. -/
  | data (id : Nat)
  /-- ACK (R407): An acknowledgement response completes a request. -/
  | ack (id : Nat)
  /-- NACK (R407): A negative response with a cause completes a request. -/
  | nack (id : Nat)
  /-- REDIRECT (R407): A redirect response sends a held request to the spill area. -/
  | redirect (id : Nat)
  /-- SRSEED_WRITE (R23): A write of $SRSEED reloads the stochastic-rounding state. -/
  | srseedWrite (pkg : Nat) (core : Nat) (v : Word)
  /-- PREQ_SAVE (R350): A SAVE write to $PREQ starts folding and the grace timer. -/
  | preqSave (pkg : Nat) (part : Nat)
  /-- PREQ_RESUME (R352): A RESUME write makes every held team of the partition ready to restore. -/
  | preqResume (pkg : Nat) (part : Nat)
  /-- LEASE_OPEN (R373): An open command offers a lease record and activates matching leases. -/
  | leaseOpen (pkg : Nat) (index : Nat)
  /-- LEASE_RECALL_CMD (R373): A recall command starts recalling an active lease. -/
  | leaseRecallCmd (pkg : Nat) (index : Nat)
  /-- LEASE_CLOSE (R373): A close command frees a returned or revoked lease record. -/
  | leaseClose (pkg : Nat) (index : Nat)
  /-- LEASE_SPILL (R375): The recall deadline passes and the lender copies remaining pages to the spill area. -/
  | leaseSpill (pkg : Nat) (index : Nat)
  /-- TIER_CLOCK_STEP (R370): The tier clock examines the next owned frame's leaf and ages it. -/
  | tierClockStep (pkg : Nat) (tier : Nat)
  /-- PAGE_DEMOTE (R371): A victim page is copied to a lower tier and its leaf rewritten. -/
  | pageDemote (pkg : Nat) (tier : Nat) (record : Nat)
  /-- METER_SNAP (R394): A SNAP write takes a meter snapshot and writes it to the ring. -/
  | meterSnap (pkg : Nat) (part : Nat)
  /-- SPDM_GET_MEASUREMENTS (R395): An SPDM request takes a fresh snapshot and returns it, optionally signed. -/
  | spdmGetMeasurements (pkg : Nat) (part : Nat) (index : Nat) (signed : Bool)
  /-- PARTITION_ENABLE (R380): A write setting EN is checked against other partitions and enables or is refused. -/
  | partitionEnable (pkg : Nat) (part : Nat) (v : Word)
  /-- PARTITION_DISABLE (R380): A write clearing EN is checked for live work and disables or is refused. -/
  | partitionDisable (pkg : Nat) (part : Nat) (v : Word)
  /-- PBAND_WRITE (R380): A $PBAND write is checked and takes effect at the next window. -/
  | pbandWrite (pkg : Nat) (part : Nat) (v : Dword)
  /-- PARTITION_NARROW (R428): A narrowing write to clusters, colours or channel groups is checked and applied. -/
  | partitionNarrow (pkg : Nat) (part : Nat) (field : NarrowField) (v : Dword)
  /-- QUEUE_BIND (R382): A $QDESC or $QENG write binds a queue slot. -/
  | queueBind (pkg : Nat) (part : Nat) (field : BindField) (v : Dword)
  /-- FPCTL_WRITE (R410): A $FPCTL write enables ports or takes ports down. -/
  | fpctlWrite (pkg : Nat) (v : Word)
  /-- FPOOL_WRITE (R410): A $FPOOL write is checked and sets the watermarks or POOLREF. -/
  | fpoolWrite (pkg : Nat) (v : Word)
  /-- FFLOOR_WRITE (R410): A $FFLOOR write is checked and sets the floor or FLOORREF. -/
  | ffloorWrite (pkg : Nat) (v : Word)
  /-- SNCTL_WRITE (R410): A $SNCTL write selects the active stitch link. -/
  | snctlWrite (pkg : Nat) (v : Word)
  /-- COLCTL_UNFREEZE (R420): Writing 1 to FROZEN lets colophon records be written again. -/
  | colctlUnfreeze (pkg : Nat)
  /-- TIME_SLICE_EXPIRY (R385): The active member's quantum expires and the group rotates. -/
  | timeSliceExpiry (pkg : Nat) (group : Nat)
  /-- BANDWIDTH_WINDOW (R388): A new 3,300-clk bandwidth window starts and counts reset. -/
  | bandwidthWindow (pkg : Nat)
  /-- HBM_REQUEST_START (R388): A channel group's controller chooses which partition's request to start. -/
  | hbmRequestStart (pkg : Nat) (group : Nat)
  /-- CORRECTED_ERROR (R418): A correctable error is corrected and logged in the colophon. -/
  | correctedError (pkg : Nat) (part : Nat) (core : Nat)
  /-- UNCORRECTABLE_ERROR (R418): An uncorrectable error poisons global words or ends a team. -/
  | uncorrectableError (pkg : Nat) (place : ErrPlace)
  /-- PATROL_SCRUB (R418): The patrol scrub reads HBM words, corrects or poisons them. -/
  | patrolScrub (pkg : Nat) (word : Nat) (outcome : ScrubOutcome)
  /-- LLC_TAG_PARITY_ERROR (R390): A tag parity error invalidates a line and may fail partitions. -/
  | llcTagParityError (pkg : Nat) (ia : Nat) (owned1 : Bool) (owned2 : Bool)
  /-- FATAL_DUMP (R421): On MC_FATAL the board controller freezes, halts and dumps the device. -/
  | fatalDump (pkg : Nat)
  /-- THERMAL_LIMIT (R427): A power or temperature limit is crossed and the module throttles or fails. -/
  | thermalLimit (pkg : Nat) (temp : Nat) (overPower : Bool)
  /-- POWER_FAULT (R427): The 54 V feed leaves its limits and MC_POWER is raised. -/
  | powerFault (pkg : Nat)
  /-- WATCHDOG_EXPIRY (R425): The board controller watchdog expires and a warm reset follows. -/
  | watchdogExpiry (pkg : Nat)
  /-- COLD_RESET (R425): A cold reset runs the full bring-up sequence. -/
  | coldReset (pkg : Nat) (fault : BootFault)
  /-- WARM_RESET (R426): A warm reset keeps the colophon and listed registers and advances the epoch. -/
  | warmReset (pkg : Nat) (cause : Nat) (fault : BootFault)
  /-- FUNCTION_LEVEL_RESET (R381): A virtual function's reset ends its partition's work and releases its objects. -/
  | functionLevelReset (pkg : Nat) (part : Nat)
  /-- HOST_LINK_TRAINING (R422): The host port trains as CXL 3.1 or PCIe 6.0, or the board controller writes PCIEONLY for its next training. -/
  | hostLinkTraining (pkg : Nat) (up : HostLink) (accepts : Bool)
  /-- HOST_ACCESS (R287): A host or CXL.mem request reads or writes device memory at the system scope point. -/
  | hostAccess (pkg : Nat) (addr : Nat) (size : Nat) (write : Option Dword)
  /-- CORE_RESUME (R343): The board controller resumes a core halted by HALTC. -/
  | coreResume (pkg : Nat) (core : Nat)
  /-- STITCH_LINK_UP (R412): A stitch link that was down comes up again, so waiting pod-level arrivals and broadcasts can flow. -/
  | stitchLinkUp (pkg : Nat) (linkB : Bool)
  /-- STITCH_NODE_FAIL (R412): A stitch node or a die link fails, MC_STITCH is raised and phasers in that node stop advancing. -/
  | stitchNodeFail (pkg : Nat) (node : Nat)
  /-- EXPANDER_FATAL_ERROR (R423): The CXL expander port reports a fatal error and MC_CXL is raised. -/
  | expanderFatalError (pkg : Nat)
  /-- THROTTLE_END (R427): Power and junction temperature fall back within limits, THROTTLE clears and idle issue cycles stop. -/
  | throttleEnd (pkg : Nat)
  deriving DecidableEq, Repr

end Sys2Proof
end

