-- ==== Sys2Proof/Machine/State.lean ====
section
/-! DEFINITION. The state of the machine: every piece of state the manual names, and the model's own schedule (log 1) and
free-value counter (log 2), as plain data. Keyed lists hold the parts of the pod that differ from their reset value. -/

namespace Sys2Proof.Machine

/-- Why a step stops with a fault. The manual gives the Q9 no such stop: every cause is a trap or an event (R334), so this
type has no constructor and no step faults (safe: nothing is cut off). -/
inductive Fault where
  deriving DecidableEq, Repr

/-- Why a step is refused. -/
inductive Refusal where
  /-- Raised by an arm of `exec` that has no meaning yet. Safe: nothing is claimed of such an instruction. -/
  | notModelled (mnemonic : String)
  deriving DecidableEq, Repr

/-- Privilege levels (R325). -/
inductive Level where
  | user | supervisor | monitor
  deriving DecidableEq, Repr

/-- The number of a level (R325). -/
def Level.num : Level → Nat
  | .user => 0 | .supervisor => 1 | .monitor => 2

/-- Scope points (R51), from narrow to wide. -/
inductive Point where
  | core | package | pod | system
  deriving DecidableEq, Repr

/-- The number of a scope point in a launch record (R54). -/
def Point.num : Point → Nat
  | .core => 0 | .package => 1 | .pod => 2 | .system => 3

/-- One level of a launch (R48, R50, R51): its EXTENT, DOMAIN code and scope point. -/
structure Lvl where
  extent : Nat
  dom : Nat
  pt : Point
  deriving DecidableEq, Repr

/-- One copy of the trap registers (R327). -/
structure TrapRegs where
  epc : Dword := 0
  cause : BitVec 7 := 0
  val : Dword := 0
  ppriv : Level := .user
  nest : Bool := false
  deriving DecidableEq, Repr

/-- What a result that has not arrived was written to (R115, R116, R22). -/
inductive RegName where
  | main (i : Nat) | operand (i : Nat) | y (i : Nat) | pred (i : Nat) | scalar (i : Nat)
  deriving DecidableEq, Repr

/-- A result not yet arrived (R115, R116): where, the value before its producer, the clk from which reads meet the latency
(none for a variable-latency producer), and the producer's number. -/
structure Pend where
  reg : RegName
  old : Word
  due : Option Nat
  id : Nat
  deriving DecidableEq, Repr

/-- What a fibre suspended in Wait waits on (R64). -/
inductive WaitOn where
  | barrier (num : Nat) (token : Word)
  | memBarrier (sp : Nat) (ia : Nat) (token : Word)
  | counter (sp : Nat) (ia : Nat) (target : Dword)
  | future (sp : Nat) (ia : Nat)
  | phaser (handle : Dword) (phase : Word)
  | memPhaser (sp : Nat) (ia : Nat) (phase : Word)
  | parked (req : Nat)
  | answer (bytes : List Byte)
  | failed (cause : BitVec 7) (value : Dword)
  | leaf (lo : Nat) (hi : Nat)
  | grow (regs : Nat)
  | fork (count : Nat) (entry : Dword)
  | sleep (till : Nat)
  | wfe
  | ldn (team : Nat)
  deriving DecidableEq, Repr

/-- A suspension in Wait: on what, whether the condition has become true, and the clk at which it began. -/
structure Wait where
  on : WaitOn
  met : Bool := false
  since : Nat := 0
  deriving DecidableEq, Repr

/-- Why a fibre is not ready without being in Wait: its release (R293), its tile (R211), its XINV (R340), its JKSAVE (R342) or its
YIELD (R156). -/
inductive Hold where
  | release (seq : Nat) (done : Bool)
  | tile (id : Nat) (done : Bool)
  | inv (sp : Nat) (page : Nat) (count : Nat) (done : Bool)
  | jksave (tid : Nat) (dst : Field) (result : Option Word)
  | yield (till : Nat)
  deriving DecidableEq, Repr

/-- A release in progress (R293): its number, and the scope point it releases at. -/
structure Release where
  seq : Nat
  pt : Point
  deriving DecidableEq, Repr

/-- What is left of a fibre that has ended before its releases (R260, R293): the number its outstanding work goes under, the releases,
and the registrations whose writes it had read. -/
structure Tail where
  tid : Nat
  fid : Nat
  rels : List Release
  seen : List Nat
  deriving DecidableEq, Repr

/-- A fibre (R16) and what the machine keeps about it. -/
structure Fibre where
  /-- $FID -/
  fid : Nat
  pc : Dword := 0
  /-- p0 to p15; bit 0 is never read (R16) -/
  preds : BitVec 16 := 1
  /-- the main window, v0 upward; its length is $WIN -/
  regs : List Word := []
  /-- the window's base in the core's main file (R16, R19); none while the fibre is not resident -/
  base : Option Nat := none
  /-- o0 to o7 -/
  ops : List Word := [0, 0, 0, 0, 0, 0, 0, 0]
  y0 : Word := 0
  y1 : Word := 0
  level : Level := .user
  userCopy : TrapRegs := { }
  supCopy : TrapRegs := { }
  monCopy : TrapRegs := { }
  /-- recorded store fault and the stores lost after it (R199, R331) -/
  storeFault : Option Dword := none
  storesLost : Nat := 0
  /-- recorded engine fault and the aborts counted after it (R232) -/
  engineFault : Option Dword := none
  abortsLost : Nat := 0
  wait : Option Wait := none
  /-- the address or handle waited on (R346) -/
  waitAt : Dword := 0
  hold : Option Hold := none
  /-- at a band-collective (R44) -/
  gathered : Bool := false
  /-- halted (R329, R338) -/
  halted : Bool := false
  /-- stopped at a fold point (LIVE) or an instruction boundary (R350, R351) -/
  stopped : Option (Option Nat) := none
  /-- its first fetch is still to be checked (R107) -/
  fresh : Bool := false
  /-- earliest clk of its next issue (R114) -/
  readyAt : Nat := 0
  /-- the clk since when it has been ready and unissued (R39, R41) -/
  readySince : Nat := 0
  /-- results not yet arrived, newest first -/
  pend : List Pend := []
  /-- releases in progress (R293) -/
  rels : List Release := []
  /-- registrations of others whose writes it has read (R293) -/
  seen : List Nat := []
  /-- ranges (space, address, length) that its atomics and tiles have met at a home, and from when: no copy older than that is
  returned to it again (R292) -/
  floor : List (Nat × Nat × Nat × Nat) := []
  /-- an operation on a barrier, future or phaser that has issued and has no effect yet: its object, and its place (R260) -/
  turn : Option (Nat × Nat) := none
  /-- its STEP trap waits for results on their way (R329, R334) -/
  stepDue : Bool := false
  deriving DecidableEq, Repr

/-- Where a team is (R65, R342 to R352). -/
inductive Residence where
  | resident
  | saving (reason : Nat)
  | abandoned
  | kept
  | jacketed (frame : Nat) (held : Bool) (ready : Bool)
  deriving DecidableEq, Repr

/-- A named barrier (R261, R265). -/
structure Barrier where
  live : Bool := false
  exp : Nat := 0
  cnt : Nat := 0
  gen : Word := 0
  deriving DecidableEq, Repr

/-- A team's phaser registration (R278, R345). -/
structure PhReg where
  handle : Dword
  sigp : Nat
  wt : Bool
  deriving DecidableEq, Repr

/-- A result of one fibre in a team-scalar register, not yet complete (R22). -/
structure ScalarPend where
  idx : Nat
  fid : Nat
  old : Word
  due : Option Nat
  id : Nat
  deriving DecidableEq, Repr

/-- Flags of an instruction not yet complete (R172). -/
structure FlagPend where
  fid : Nat
  due : Option Nat
  id : Nat
  flags : BitVec 5
  deriving DecidableEq, Repr

/-- A team (R46). -/
structure Team where
  /-- the model's own name for the team -/
  tid : Nat
  slot : Nat := 0
  core : Nat := 0
  pkg : Nat := 0
  part : Nat := 0
  res : Residence := .resident
  prio : Nat := 0
  levels : List Lvl := []
  tlevel : Nat := 0
  /-- $TEAM -/
  index : Word := 0
  /-- the team's $LVLm for m from TEAMLVL up -/
  upper : List Word := []
  /-- card form: $EXTt reads 0 (R59) -/
  card : Bool := false
  rmode : BitVec 3 := 0
  fflags : BitVec 5 := 0
  flagPend : List FlagPend := []
  fibres : List Fibre := []
  /-- s0 to s63 -/
  scalars : List Word := List.replicate 64 0
  scalarPend : List ScalarPend := []
  /-- the newest write to each team-scalar: register, producer, lane (R22) -/
  scalarOrder : List (Nat × Nat × Nat) := []
  /-- engine commands outstanding and the leaves each names (R26) -/
  claims : List (Nat × List Nat) := []
  /-- the gang's teams that LDN reaches on cores 0 to 3 of the cluster (R27) -/
  neighbours : List (Option Nat) := []
  /-- LEAVES, BARS and ACCT -/
  leaves : Nat := 0
  bars : Nat := 0
  acct : Nat := 0
  /-- scratchpad bytes that are not zero, by team offset -/
  scratch : List Host.Cell := []
  /-- accumulators that are not zero, by 1,024 x tile + 32 x row + column -/
  accs : List (Nat × Word) := []
  barriers : List Barrier := []
  phasers : List PhReg := []
  utvec : Dword := 0
  sdeleg : List Word := [0, 0, 0, 0]
  dbgctl : BitVec 5 := 0
  watcha : Dword := 0
  /-- the launch it belongs to, if any (R58) -/
  launch : Option Nat := none
  /-- gang unit: teams of one launch with equal gang numbers share a core or cluster (R52) -/
  gang : Nat := 0
  /-- the launch's SPWIN (or WIN), SPLEAVES and SPSCOPE, for FSPAWN (R60) -/
  spwin : Nat := 0
  spleaves : Nat := 0
  spscope : Point := .core
  /-- the clk since when the team has been waiting (R64) -/
  waitSince : Option Nat := none
  /-- when it was placed or last restored (R69) -/
  placed : Nat := 0
  /-- saved by a JKSAVE: only a JKLOAD restores it (R342) -/
  jkHeld : Bool := false
  deriving DecidableEq, Repr

/-- A 16-byte event record (R332). -/
structure Event where
  cause : BitVec 7
  core : Nat := 0x1FF
  slot : Nat := 0
  fid : Nat := 0
  aux : Word := 0
  value : Dword := 0
  deriving DecidableEq, Repr

/-- States of a cache word's byte (R288); an invalid one is not listed. -/
inductive CSt where
  | valid | stale | owned
  deriving DecidableEq, Repr

/-- A fibre that wrote a byte, and the virtual address it used (R198, R293); `cmd` where an engine command of it did (R299). -/
structure Writer where
  tid : Nat
  fid : Nat
  va : Dword
  part : Nat := 0
  level : Level := .user
  cmd : Bool := false
  deriving DecidableEq, Repr

/-- A byte of a cache (R286, R288): the address space (the home's partition), the intermediate address, its state and value,
when it was filled, and who wrote it. `pt` is the widest scope point whose ownership registry names this cache as the byte's owner: the
registries of R286 are held here, one entry with each owned byte (log 31). `ver` numbers the fill or write that made the copy: the
copies of one fill share it (R200), and a smaller one is older at the home (R292). -/
structure CByte where
  sp : Nat
  ia : Nat
  st : CSt
  val : Byte
  filled : Nat := 0
  pt : Point := .core
  wr : List Writer := []
  ver : Nat := 0
  deriving DecidableEq, Repr

/-- A line that a cache has allocated (R31, R386), by its space and its address over 128: protected by EVICT .keep, or in a read-only
way (R196). A cache keeps its lines in the order of their use, the newest first. -/
structure CLine where
  sp : Nat
  line : Nat
  kept : Bool := false
  ro : Bool := false
  deriving DecidableEq, Repr

/-- A write-queue entry (R286): its place in the fibre's program order is `order`; `cmd` names an engine command. -/
structure WEntry where
  id : Nat
  core : Nat
  tid : Nat
  fid : Nat
  cmd : Option Nat := none
  order : Nat
  part : Nat
  sp : Nat
  ia : Nat
  bytes : List Byte
  pt : Point
  va : Dword
  level : Level := .user
  /-- where its lines go once it is registered (R196) -/
  evict : Evict := .default
  deriving DecidableEq, Repr

/-- A registration not yet acknowledged (R289): parked at its home since a clk (R363), or registered and awaiting its
acknowledgement. -/
structure Reg where
  entry : WEntry
  parked : Option Nat := none
  registered : Bool := false
  deriving DecidableEq, Repr

/-- What a pending access of a fibre does; a prefetch (R217) belongs to no fibre any more. -/
inductive ReqKind where
  | load | atomic | tileLoad | tileStore | line | pref
  deriving DecidableEq, Repr

/-- A pending access of a fibre: a load awaiting its read step (R291), an atomic awaiting its step (R296), a tile awaiting its
clasps and its step (R297), or a line asked of another package. -/
structure Req where
  id : Nat
  kind : ReqKind
  tid : Nat
  fid : Nat
  core : Nat
  part : Nat
  order : Nat
  level : Level := .user
  va : Dword
  sp : Nat
  ia : Nat
  key : Nat := 0
  size : Nat
  pt : Point
  rel : Option Nat := none
  acq : Bool := false
  dst : Option Field := none
  sx : Bool := false
  evict : Evict := .default
  aop : Aop := .add
  sgn : Bool := false
  cas : Bool := false
  b : Quad := 0
  c : Quad := 0
  /-- tile: scratchpad offset; its bytes in order as runs within one page (space, intermediate address, length); the data
  of a store, or what a load has read -/
  off : Nat := 0
  segs : List (Nat × Nat × Nat) := []
  data : List Byte := []
  /-- the parked place in its page's order (R363) -/
  parked : Option Nat := none
  /-- a message to the home has been sent -/
  sent : Bool := false
  /-- a tile whose Tile step has been taken (R297): it holds its pages no longer (R213) -/
  moved : Bool := false
  /-- a line of code (R103) -/
  code : Bool := false
  /-- merged into another fadd.any (R222): that request, and the contributions that stand before this one's -/
  into : Option Nat := none
  pre : Word := 0
  deriving DecidableEq, Repr

/-- A clasp asked of a home agent (R286, R319): the request that asks, whether it holds the line, the package it asks from, and whether
the line's exclusive ownership goes with it (R212). -/
structure Clasp where
  sp : Nat
  line : Nat
  req : Nat
  held : Bool := false
  pkg : Nat := 0
  excl : Bool := false
  deriving DecidableEq, Repr

/-- What a fabric message asks or answers (R407). -/
inductive MsgOp where
  | get (req : Nat)
  | getx (req : Nat) (sp : Nat) (line : Nat)
  | reg (reg : Nat)
  | wb (sp : Nat) (ia : Nat) (bytes : List CByte)
  | stale (sp : Nat) (ia : Nat) (len : Nat)
  | draw (sp : Nat) (ia : Nat) (len : Nat)
  | atm (req : Nat)
  | clasp (req : Nat) (sp : Nat) (line : Nat)
  | unclasp (req : Nat) (sp : Nat) (line : Nat)
  | chain (pkt : Nat) (hop : Nat) (bytes : List Byte)
  | lease (op : Nat) (lid : Nat) (page : Nat)
  | data (req : Nat) (bytes : List Byte)
  | ack (of : Nat)
  | nack (of : Nat) (cause : BitVec 7)
  | redirect (of : Nat)
  deriving DecidableEq, Repr

/-- Where a message is (R399 to R401): a copy in flight, accepted and not yet applied, or applied and kept. -/
inductive MsgStage where
  | flying | accepted | applied
  deriving DecidableEq, Repr

/-- A fabric message kept by its sender (R399, R400). -/
structure Msg where
  id : Nat
  src : Nat
  dst : Nat
  eseq : Nat
  epoch : Nat
  tag : Nat := 0
  op : MsgOp
  stage : MsgStage := .flying
  sends : Nat := 1
  sentAt : Nat := 0
  /-- the response or acknowledgement has reached the sender -/
  answered : Bool := false
  deriving DecidableEq, Repr

/-- A fabric port (R396 to R398, R405): 0 down, 1 training, 2 up at 8 lanes, 3 up at 4 lanes; the flits of its replay buffer
by LSEQ with the messages they end; failed lanes; replays of one flit in a row; the ingress buffer's entries (R405) by the class they are
charged to (0 to 95 the floor of a partition, 96 the shared pool, 97 responses), with the messages whose last beat they hold. -/
structure Port where
  state : Nat := 0
  switch : Nat := 0
  replays : Nat := 0
  inRow : Nat := 0
  lastGood : Nat := 0
  lseq : Nat := 0
  buffer : List (Nat × List Nat) := []
  /-- a replay request has been sent and the flit it names has not come (R398) -/
  asking : Bool := false
  badLanes : List Nat := []
  ingress : List (Nat × List Nat) := []
  xoff : Bool := false
  deriving DecidableEq, Repr

/-- The state of a phaser (R277): a memory object's fields, which a hardware slot holds too. -/
structure Ph where
  phase : Word := 0
  any : Bool := false
  parties : Nat := 0
  arrived : Nat := 0
  arrnext : Nat := 0
  joinnext : Nat := 0
  dropnext : Nat := 0
  waiters : Nat := 0
  payload : Word := 0
  apkg : Nat := 0
  deriving DecidableEq, Repr

/-- What the place that holds a team's count on a phaser knows of it (R280): parties counted in the current phase, arrivals
toward the current and the next phase, parties that join from a phase on, parties that leave at the next phase, and, on an
any-of phaser, arrivals still to come that count toward earlier phases. The engine pool has no team (R278). -/
structure PhCount where
  team : Option Nat
  cur : Nat := 0
  here : Nat := 0
  next : Nat := 0
  joins : List (Word × Nat) := []
  drop : Nat := 0
  owed : Nat := 0
  wt : Bool := false
  deriving DecidableEq, Repr

/-- A phaser slot of a stitch node (R276): die nodes 0 to 7, the package node 8. A slot that is not live keeps its TAG. The
handle names the phaser; at a package other than the creating one the slot is a copy. -/
structure PhSlot where
  node : Nat
  idx : Nat
  live : Bool := false
  tag : Nat := 1
  handle : Dword := 0
  ph : Ph := { }
  counts : List PhCount := []
  /-- the last phase for which an any-of arrival has gone on from here (R322) -/
  passed : Option Word := none
  deriving DecidableEq, Repr

/-- What a memory phaser's home keeps of the parties on it (R280), by space and address. -/
structure MemPh where
  sp : Nat
  ia : Nat
  counts : List PhCount := []
  deriving DecidableEq, Repr

/-- A node of the stitch network (R411). -/
inductive Node where
  | die (pkg : Nat) (die : Nat)
  | pkg (pkg : Nat)
  | switch (n : Nat)
  | root
  deriving DecidableEq, Repr

/-- What a stitch message carries (R413): an arrival with its payload, a join or drop of parties, or a phase broadcast. -/
inductive StitchKind where
  | arrival | join | drop
  | broadcast (phase : Word) (payload : Word) (apkg : Nat) (winner : Option Nat)
  deriving DecidableEq, Repr

/-- A stitch message (R413), or an arrival on its way to a memory phaser. -/
structure Stitch where
  id : Nat
  kind : StitchKind
  handle : Dword
  /-- a memory phaser's object (space, intermediate address), and the access it is checked as (partition, level) -/
  object : Option (Nat × Nat) := none
  part : Nat := 0
  level : Level := .user
  any : Bool := false
  /-- the nodes still to be reached, the next one first -/
  path : List Node := []
  /-- the team, or none for engine parties; the issuing team, fibre, core and package it comes from -/
  team : Option Nat := none
  issuer : Nat := 0
  fid : Nat := 0
  core : Nat := 0
  spkg : Nat := 0
  /-- the child port by which it entered the node that it waits in -/
  port : Nat := 0
  parties : Nat := 0
  wt : Bool := false
  payload : Word := 0
  /-- a drop's parties: the phase from which each leaves, whether they had not begun to count, how many -/
  parts : List (Word × Bool × Nat) := []
  /-- the phase that an arrival counts toward, once fixed (R281) -/
  phase : Option Word := none
  /-- waits in a node for its phase (R280, R323), or is taken up again there -/
  parked : Bool := false
  woken : Bool := false
  /-- has been handled where the team's count is held (R281) -/
  counted : Bool := false
  /-- the release it waits for, and the writes that hold a .bound arrival (R416) -/
  rel : Option Nat := none
  marks : List Nat := []
  bound : Bool := false
  dst : Option Field := none
  order : Nat := 0
  deriving DecidableEq, Repr

/-- A reservation of a core's operand buffer (R28, R234, R236): sizes and offsets in bytes but LEN and the base in KiB;
`gone` is the place in the engine order at which it was released (R237). -/
structure Resv where
  num : Nat
  tid : Nat
  base : Nat
  len : Nat
  efmt : BitVec 6
  scaled : Bool
  blkl : Bool
  ct : Nat
  estr : Nat
  sstr : Nat
  soff : Nat
  gone : Option Nat := none
  deriving DecidableEq, Repr

/-- One range register set (R354): units of 64 KiB, and PERM. -/
structure Range where
  base : Nat := 0
  lim : Nat := 0
  off : Nat := 0
  perm : BitVec 7 := 0
  deriving DecidableEq, Repr

/-- Kinds of the commands in a core's engine order (R226, R227). -/
inductive CmdKind where
  | mma | accz | accrd | ctab | tcopy | tgath
  deriving DecidableEq, Repr

/-- A command in a core's engine order (R227, R229): its number is its place; what it captured at issue; how far it is. -/
structure Cmd where
  id : Nat
  core : Nat
  tid : Nat
  fid : Nat
  part : Nat
  level : Level := .user
  kind : CmdKind
  /-- parameter block or descriptor -/
  block : List Byte := []
  /-- first tile, tile count, leaf offset, ARG8, table number -/
  tile : Nat := 0
  tiles : Nat := 0
  off : Nat := 0
  arg8 : Nat := 0
  rmode : BitVec 3 := 0
  pt : Point := .core
  acq : Bool := false
  rel : Option Nat := none
  evict : Evict := .default
  resA : Option Resv := none
  resB : Option Resv := none
  /-- versions of the code tables its reservations name (R99) -/
  versions : List Nat := []
  /-- neighbour bytes fetched (R242), elements moved (R247, R249), all accesses made -/
  gotA : Bool := false
  gotB : Bool := false
  pos : Nat := 0
  p0 : Nat := 0
  pn : Nat := 0
  moved : Bool := false
  flags : BitVec 5 := 0
  /-- a request for a line of another package, the address at which one failed, and the page it is parked on (space, page, since) -/
  asked : Option Nat := none
  failed : Option Nat := none
  parked : Option (Nat × Nat × Nat) := none
  /-- the partition's ranges as they stood at issue (R355), and whether its acquire has taken effect (R299) -/
  ranges : List Range := []
  acquired : Bool := false
  deriving DecidableEq, Repr

/-- The key of a spawn bin (R60): entry, window in units of 16, leaves, scope point, priority class; and the partition. -/
structure SpawnKey where
  entry : Dword
  win : Nat
  leaves : Nat
  scope : Point
  prio : Nat
  part : Nat
  deriving DecidableEq, Repr

/-- A spawn bin (R60, R61): empty while it holds no record. -/
structure Bin where
  key : SpawnKey := ⟨0, 1, 0, .core, 0, 0⟩
  opened : Nat := 0
  limit : Nat := 2048
  closed : Bool := false
  recs : List (List Byte) := []
  deriving DecidableEq, Repr

/-- A continuation to be delivered (R270): for the agent whose resolution made it, the record and how many more may follow; once
its join counter is counted, the record that waits at a core for a bin. -/
structure Delivery where
  id : Nat
  part : Nat
  level : Level
  pkg : Nat
  va : Dword
  left : Nat
  waiting : Option (Nat × SpawnKey × List Byte) := none
  /-- the fibre that made the resolution; the release at the record's SPSCOPE, begun with its scope point; the record as read -/
  by_ : Option (Nat × Nat) := none
  rel : Option Nat := none
  rec_ : Option (List Byte) := none
  deriving DecidableEq, Repr

/-- Where a launch is (R57, R274, R316): queued, checked and held, accepted, or rejected with a code and its future still to be
set (R56). -/
inductive LaunchStage where
  | queued | held | accepted
  | rejecting (code : Nat)
  deriving DecidableEq, Repr

/-- A launch (R54 to R59): the team whose pending-launch queue it came from, or the front-end slot, 16 being the monitor command queue;
its record, and the record's address where it has one; the teams begun and ended; the gang numbers given. -/
structure Launch where
  id : Nat
  part : Nat
  level : Level := .user
  owner : Option Nat := none
  slot : Option Nat := none
  prio : Nat := 0
  rec_ : List Byte
  va : Option Nat := none
  stage : LaunchStage := .queued
  /-- teams begun, argument records dealt, teams ended, gangs begun -/
  begun : Nat := 0
  dealt : Nat := 0
  ended : Nat := 0
  gangs : Nat := 0
  allBegun : Bool := false
  /-- the model's numbers of its teams; the die given to each unit of a die-bound level; whether DONECTR has been dealt with -/
  tids : List Nat := []
  dies : List (Nat × Nat) := []
  counted : Bool := false
  /-- an action of it has been sent to another package, and the cause with which it failed there (R58, R403) -/
  asked : Bool := false
  opFailed : Option (BitVec 7) := none
  deriving DecidableEq, Repr

/-- The registers and storage of a core beside its teams. -/
structure Core where
  /-- $SRSEED as last written (R23), and the stochastic state (R86) -/
  srseed : Word := 1
  srng : Word := 1
  /-- $WAITLIM and $WAITLIMS -/
  waitlim : Word := 16384
  /-- $SPAWNLIM and $SPAWNLIMS -/
  spawnlim : Word := 2048
  /-- halted by HALTC (R343) -/
  halted : Bool := false
  /-- fetch lines of the code cache (R104, R105): line address and its 64 bytes, by partition -/
  icache : List (Nat × Nat × List Byte) := []
  /-- lines whose first copy failed its parity, by the same names: they are fetched once more (R105) -/
  refetch : List (Nat × Nat) := []
  /-- TAG of each named barrier by 64 x slot + number (R261); 1 where absent -/
  barTags : List (Nat × Nat) := []
  /-- L1 bytes that are not invalid (R31, R288), and the L1's lines by their use (R31, R196) -/
  l1 : List CByte := []
  l1Lines : List CLine := []
  /-- the operand buffer's bytes that are not zero, and its reservations (R28) -/
  ob : List Host.Cell := []
  resvs : List Resv := []
  /-- code tables: 16 BF16 entries each, and versions (R30) -/
  tables : List (List Half) := List.replicate 4 (List.replicate 16 0)
  tableVer : List Nat := [0, 0, 0, 0]
  /-- the 8 spawn bins (R60) -/
  bins : List Bin := List.replicate 8 { }
  /-- issue ports used in the current clk (R39) -/
  portsUsed : Nat := 0
  portsAt : Nat := 0
  deriving DecidableEq, Repr

/-- The lease engine's copy of a lease record (R372, R373): states 1 offered to 6 returned, role 0 lender or 1 borrower. -/
structure Lease where
  index : Nat
  state : Nat
  role : Nat
  lid : Nat
  peer : Nat
  nreg : Nat
  window : Nat
  deadline : Nat
  spill : Nat
  sptier : Nat
  map : Nat
  start : Nat
  deriving DecidableEq, Repr

/-- One cached leaf of a home agent's translation cache (R361): the agent, partition, 64 KiB page of the offset, entry, its address and
its level. -/
structure CachedLeaf where
  agent : Nat
  part : Nat
  page : Nat
  entry : Nat
  addr : Nat
  level : Nat
  deriving DecidableEq, Repr

/-- $PSTAT's phase (R328). -/
inductive PPhase where
  | running | folding | saving | saved
  deriving DecidableEq, Repr

/-- A partition of a package. -/
structure Part where
  stvec : Dword := 0
  mdeleg : List Word := [0xFFFFFFFF, 0xFFFFFFFF, 0xFFFFFFFF, 0x0000FFFF]
  grace : Word := 6600
  phase : PPhase := .running
  forced : Bool := false
  graceEnd : Option Nat := none
  forcedTeams : Nat := 0
  jkbase : Dword := 0
  /-- $RSEL and the 16 ranges -/
  rsel : Nat := 0
  ranges : List Range := List.replicate 16 { }
  /-- $PTROOT, $PODTAG, $PARKLIM, $PRQBASE -/
  ptroot : Dword := 0
  podtag : BitVec 9 := 0
  parklim : Word := 3300000
  prqbase : Dword := 0
  /-- $PCTL, $PCLU, $PCOL0, $PCOL1, $PCHAN, $PBAND, $TSQ -/
  pctl : BitVec 16 := 0
  pclu : BitVec 15 := 0x5F00
  pcol0 : Dword := 0xFFFFFFFFFFFFFFFF
  pcol1 : Dword := 0xFFFFFFFFFFFFFFFF
  pchan : Dword := 0xFFFFFFFFFFFFFFFF
  pband : BitVec 40 := 0x0100000000
  tsq : BitVec 16 := 1000
  /-- $QSEL, and $QDESC, $QENG of the 16 slots -/
  qsel : Nat := 0
  qdesc : List Dword := List.replicate 16 0
  qeng : List (BitVec 48) := List.replicate 16 0
  lquota : BitVec 16 := 0xFFFF
  /-- $MSNAPBASE, $PERR, $METER0 to $METER14, $SNAPSEQ, $PCLK, the DIGEST of the last snapshot (R378, R392, R393) -/
  msnapbase : Dword := 0
  perr : BitVec 2 := 0
  meters : List Dword := List.replicate 15 0
  snapseq : Dword := 0
  pclk : Dword := 0
  digest : List Byte := List.replicate 48 0
  /-- the band in force until the next window where $PBAND has been written (R379), and the bytes counted in this window by channel
  group (R388) -/
  pbandOld : Option (BitVec 40) := none
  counts : List (Nat × Nat) := []
  /-- its own supervisor has written SAVE to it and not RESUME (R385) -/
  selfSaved : Bool := false
  /-- it has failed, and only a function-level reset brings it back (R391); teams that a RESUME has yet to bring back (R352) -/
  failed : Bool := false
  restoring : List Nat := []
  /-- the front end: the cluster of the last placement (R383, R429), the queue last taken at each level (0 none, 1 the device-launch queue, 2 + q slot q), slots whose header failed (R382) -/
  lastCluster : Option Nat := none
  lastQueue : List Nat := [0, 0, 0, 0]
  slotBad : List Nat := []
  events : List Event := []
  dropped : Nat := 0
  deriving DecidableEq, Repr

/-- A time-slice group of a package (R385): its active member and the clk at which that member's quantum began; `turning` while the
active member is being saved for the rotation. -/
structure Group where
  num : Nat
  active : Nat
  since : Nat
  turning : Bool := false
  deriving DecidableEq, Repr

/-- A request of a channel group's controller not yet started (R388): its group, its line, the partition it serves. -/
structure HbmReq where
  pkg : Nat
  group : Nat
  line : Nat
  part : Nat
  write : Bool
  deriving DecidableEq, Repr

/-- A bulk packet taken and not finished (R254 to R256): its queue, its index and slot address, its bytes, the chunk or target it is
at, whether its own effect is done, and a chain's message. -/
structure Packet where
  id : Nat
  pkg : Nat
  part : Nat
  queue : Nat
  engine : Nat
  hdr : Dword
  index : Nat
  slot : Dword
  bytes : List Byte
  chunk : Nat := 0
  effect : Bool := false
  /-- an arrival it has sent (R255), and the cause with which it will finish -/
  arrival : Option Nat := none
  cause : BitVec 7 := 0
  /-- a target of a chain asked and not yet answered (R409) -/
  asked : Bool := false
  /-- its completion action is applied or on its way (R255) -/
  acted : Bool := false
  /-- it has stopped faulted, and will be taken again (R256) -/
  stopped : Bool := false
  /-- the partition's ranges as they stood when it was taken (R355) -/
  ranges : List Range := []
  /-- the cause with which an operation of it has failed elsewhere (R433), and the stop that waits for its queue's pages (R256) -/
  opFailed : Option (BitVec 7) := none
  failing : Option (BitVec 7 × Nat) := none
  deriving DecidableEq, Repr

/-- A colophon record (R419). -/
structure ColRec where
  seq : Nat
  cause : BitVec 7
  part : Nat
  core : Nat
  clk : Nat
  value : Dword
  aux : Word
  epoch : Nat
  deriving DecidableEq, Repr

/-- A package of the pod. -/
structure Pkg where
  /-- model time at its cold reset: $CLK is the time since (R23) -/
  clkBase : Nat := 0
  mtvec : Dword := 0
  /-- the fabric block (R410): $FPKG's PODSZ (PKG is the package's own number), $FEPOCH, $FPCTL, $FPOOL's HI and LO, $FFSEL,
  the floors, $FE2E's RETRY and MAXTRY, $FERR, the ports, $SNCTL's ACT and link states, the cabled child port -/
  podsz : Nat := 0
  fepoch : Nat := 0
  fpctl : Nat := 0x3FFFF
  fhi : Nat := 896
  flo : Nat := 768
  ffsel : Nat := 0
  floors : List (Nat × Nat) := []
  retry : Nat := 200
  maxtry : Nat := 8
  ferr : Nat := 0
  ports : List Port := List.replicate 18 { }
  snact : Bool := false
  slaUp : Bool := false
  slbUp : Bool := false
  /-- stitch slots that are live or have been used (R276) -/
  slots : List PhSlot := []
  /-- stitch nodes of the package (die 0 to 7, package 8) that have failed (R412) -/
  deadNodes : List Nat := []
  /-- $TSEL, $TDESC of tiers 1 to 4, $LTBASE and the lease engines' copies -/
  tsel : Nat := 1
  tdesc : List Dword := [0, 0, 0, 0]
  ltbase : Dword := 0
  leases : List Lease := []
  /-- tiers that demote until USED is at most LO, and the victims taken: tier, frame record, the leaf as MIG was set (R370, R371) -/
  demoting : List Nat := []
  victims : List (Nat × Nat × Option Nat) := []
  /-- the last-level cache's bytes that are not invalid, home lines and peer lines (R286), and its lines by their use (R386) -/
  llc : List CByte := []
  llcLines : List CLine := []
  /-- the clasp table, oldest request first (R286) -/
  clasps : List Clasp := []
  /-- ingress atomic cache lines and their fill clk (R408) -/
  ingress : List (Nat × Nat × Nat) := []
  /-- translation caches (R361) -/
  tlb : List CachedLeaf := []
  /-- pages whose PARK_LIMIT event has been sent, by space and page (R367) -/
  limitSent : List (Nat × Nat) := []
  /-- the colophon's records, newest first, $COLSEQ, $COLCTL's FROZEN and DROPPED, $DUMPBASE, $DUMPSTAT, $RSTCAUSE, $THERM,
  $HOSTCFG (R419, R420) -/
  colophon : List ColRec := []
  colseq : Nat := 0
  frozen : Bool := false
  colDropped : Nat := 0
  dumpbase : Dword := 0
  dumpstat : Nat := 0
  rstcause : Nat := 1
  therm : Nat := 0
  hostcfg : Nat := 0
  /-- a reset record to be written once FROZEN is cleared (R421) -/
  resetDue : Option ColRec := none
  /-- stopped by a fatal error, or kept in reset by a bring-up that failed, until a reset (R421, R425) -/
  down : Bool := false
  /-- for each bulk engine the queue it last took from, as 16 x partition + slot (R384) -/
  engLast : List (Nat × Nat) := []
  /-- the MC_FATAL that the board controller is to act on, or has acted on (R421) -/
  fatal : Option Event := none
  /-- $PSEL, $MONQ (R378), cold resets so far (for $BOOTID), time-slice groups (R385), the start of the bandwidth window, and the
  partitions and groups that have had requests pending since (R388) -/
  psel : BitVec 7 := 0x7F
  monq : Dword := 0
  boots : Nat := 0
  groups : List Group := []
  winStart : Nat := 0
  pressed : List (Nat × Nat) := []
  events : List Event := []
  dropped : Nat := 0
  deriving DecidableEq, Repr

/-- One entry of the schedule (log 1): what the machine does next where the manual allows several steps. -/
inductive Move where
  | issue (tid : Nat) (fids : List Nat)
  | event (i : Instr)
  | tick
  deriving DecidableEq, Repr

/-- The signature being issued (R40), and, once the first slot of a formed pair has issued, the second: its 96 bits, whether it is a
fold point, and its PC (R109). -/
structure Sig where
  tid : Nat := 0
  fids : List Nat := []
  second : Option (BitVec 96 × Bool × Dword) := none
  deriving DecidableEq, Repr

/-- The state of the pod. -/
structure State where
  /-- model time in clk -/
  now : Nat := 0
  /-- fresh numbers -/
  seq : Nat := 0
  /-- the argument of the free values (log 2) -/
  freeCtr : Nat := 0
  /-- the schedule (log 1) -/
  agenda : List Move := []
  /-- the signature being issued -/
  sig : Sig := { }
  /-- memory of every package, attached memory and host memory, by physical key -/
  mem : List Host.Cell := []
  /-- poisoned words (R418), by physical key -/
  poison : List Nat := []
  /-- bytes of the switches' memory-side caches that are not invalid (R286, R287) -/
  memCache : List CByte := []
  teams : List Team := []
  /-- releases of fibres that have ended before them (R260, R293) -/
  tails : List Tail := []
  /-- write queues of all cores, oldest first (R286) -/
  wq : List WEntry := []
  /-- registrations not yet acknowledged (R289) -/
  regs : List Reg := []
  /-- pending accesses of fibres -/
  reqs : List Req := []
  /-- engine commands of all cores, in engine order (R227) -/
  cmds : List Cmd := []
  /-- fabric messages in flight or kept (R286, R400), and the next ESEQ of each ordered pair by 256 x source + destination -/
  msgs : List Msg := []
  eseqs : List (Nat × Nat) := []
  /-- stitch messages (R413) and arrivals on memory phasers, what memory phasers' homes keep, and the filters of the switch nodes
  by node, phaser and last phase let through, newest first (R414) -/
  stitch : List Stitch := []
  memPhs : List MemPh := []
  filters : List (Nat × Nat × Word) := []
  /-- continuations being delivered (R270), and launches not yet complete (R57) -/
  deliveries : List Delivery := []
  /-- pages on which an agent's request waits, by space, page and since (R363) -/
  agentParks : List (Nat × Nat × Nat) := []
  launches : List Launch := []
  /-- bulk packets taken and not finished (R254), and HBM requests not yet started (R388) -/
  packets : List Packet := []
  hbm : List HbmReq := []
  /-- cores by 384 x package + core -/
  cores : List (Nat × Core) := []
  /-- partitions by 96 x package + partition -/
  parts : List (Nat × Part) := []
  pkgs : List (Nat × Pkg) := []
  deriving DecidableEq, Repr

/-- The pod right after cold reset: no team, no work, memory zero (R35), every register at its reset value. -/
def State.reset : State := { }

end Sys2Proof.Machine
end

