-- ==== Sys2Proof/Machine/Store.lean ====
section
/-! DEFINITION. Keyed lists, byte memories in canonical form, and the accessors of the state's parts. An unlisted byte of a
memory reads as zero: device memory, leaves, operand buffers and tiles are zero when granted or reset (R34, R35). -/

namespace Sys2Proof.Machine

/-- The value at a key, or the default. -/
def lookupD {α : Type} (d : α) (k : Nat) : List (Nat × α) → α
  | [] => d
  | (k', v) :: r => if k' = k then v else lookupD d k r
/-- The list with v at key k. -/
def insertAt {α : Type} (k : Nat) (v : α) : List (Nat × α) → List (Nat × α)
  | [] => [(k, v)]
  | (k', v') :: r => if k' = k then (k, v) :: r else (k', v') :: insertAt k v r
/-- The list without key k. -/
def removeKey {α : Type} (k : Nat) (l : List (Nat × α)) : List (Nat × α) := l.filter (fun p => p.1 ≠ k)

/-- The byte at an address; an unlisted one reads as zero (R34, R35; log 5). -/
def Memory.byte (m : List Host.Cell) (a : Nat) : Byte := lookupD 0 a m
/-- One byte written: the list stays sorted by address and lists no zero byte. -/
def Memory.set (m : List Host.Cell) (a : Nat) (b : Byte) : List Host.Cell :=
  match m with
  | [] => if b = 0 then [] else [(a, b)]
  | (a', b') :: r =>
    if a < a' then (if b = 0 then (a', b') :: r else (a, b) :: (a', b') :: r)
    else if a = a' then (if b = 0 then r else (a, b) :: r)
    else (a', b') :: Memory.set r a b
/-- Bytes written at consecutive addresses. -/
def Memory.write (m : List Host.Cell) (a : Nat) : List Byte → List Host.Cell
  | [] => m
  | b :: bs => Memory.write (Memory.set m a b) (a + 1) bs
/-- n bytes read at consecutive addresses. -/
def Memory.read (m : List Host.Cell) (a : Nat) : Nat → List Byte
  | 0 => []
  | n + 1 => Memory.byte m a :: Memory.read m (a + 1) n
/-- The bytes from a up to b are zero afterwards. -/
def Memory.clear (m : List Host.Cell) (a b : Nat) : List Host.Cell := m.filter (fun c => c.1 < a || b ≤ c.1)
/-- The canonical form: addresses strictly rising, and no entry equal to what an unlisted address reads as. -/
def Memory.wfFrom (lo : Nat) : List Host.Cell → Bool
  | [] => true
  | (a, b) :: r => decide (lo ≤ a) && (b != 0) && Memory.wfFrom (a + 1) r
/-- The canonical form of a whole memory. -/
def Memory.wf (m : List Host.Cell) : Bool := Memory.wfFrom 0 m

/-- A fibre of a team, by the team's number and its $FID. -/
structure Lane where
  tid : Nat
  fid : Nat
  deriving DecidableEq, Repr

/-- The team of a number, if there is one. -/
def State.team? (s : State) (tid : Nat) : Option Team := s.teams.find? (fun t => t.tid == tid)
/-- The team of a number (an empty one where there is none). -/
def State.team (s : State) (tid : Nat) : Team := (s.team? tid).getD { tid := tid }
/-- One team changed. -/
def State.modTeam (s : State) (tid : Nat) (f : Team → Team) : State :=
  { s with teams := s.teams.map (fun t => if t.tid = tid then f t else t) }
/-- The fibre of a number, if it exists. -/
def Team.fibre? (t : Team) (fid : Nat) : Option Fibre := t.fibres.find? (fun f => f.fid == fid)
/-- The fibre of a number (a fresh one where there is none). -/
def Team.fibre (t : Team) (fid : Nat) : Fibre := (t.fibre? fid).getD { fid := fid }
/-- One fibre changed. -/
def Team.modFibre (t : Team) (fid : Nat) (g : Fibre → Fibre) : Team :=
  { t with fibres := t.fibres.map (fun f => if f.fid = fid then g f else f) }
/-- The fibre of a lane. -/
def State.fibre (s : State) (l : Lane) : Fibre := (s.team l.tid).fibre l.fid
/-- The fibre of a lane, if it exists. -/
def State.fibre? (s : State) (l : Lane) : Option Fibre := (s.team? l.tid).bind (fun t => t.fibre? l.fid)
/-- One fibre changed. -/
def State.modFibre (s : State) (l : Lane) (g : Fibre → Fibre) : State :=
  s.modTeam l.tid (fun t => t.modFibre l.fid g)

/-- The core of a number, at reset values where it is not listed. -/
def State.coreAt (s : State) (c : Nat) : Core := lookupD { } c s.cores
/-- One core changed. -/
def State.modCore (s : State) (c : Nat) (f : Core → Core) : State :=
  { s with cores := insertAt c (f (s.coreAt c)) s.cores }
/-- A partition at its reset values (R378): partition 0 of a package is enabled. -/
def Part.fresh (p : Nat) : Part := if p % 96 = 0 then { pctl := 1 } else { }
/-- The partition of a number, at reset values where it is not listed. -/
def State.partAt (s : State) (p : Nat) : Part := lookupD (Part.fresh p) p s.parts
/-- One partition changed. -/
def State.modPart (s : State) (p : Nat) (f : Part → Part) : State :=
  { s with parts := insertAt p (f (s.partAt p)) s.parts }
/-- The package of a number, at reset values where it is not listed. -/
def State.pkgAt (s : State) (p : Nat) : Pkg := lookupD { } p s.pkgs
/-- One package changed. -/
def State.modPkg (s : State) (p : Nat) (f : Pkg → Pkg) : State :=
  { s with pkgs := insertAt p (f (s.pkgAt p)) s.pkgs }
/-- The key of a team's core. -/
def Team.coreKey (t : Team) : Nat := Config.coresPerPkg * t.pkg + t.core
/-- The key of a team's partition. -/
def Team.partKey (t : Team) : Nat := 96 * t.pkg + t.part
/-- $CORE (R23). -/
def Team.coreReg (t : Team) : Word := BitVec.ofNat 32 (t.core + 65536 * t.pkg)
/-- A fresh number. -/
def State.fresh (s : State) : Nat × State := (s.seq, { s with seq := s.seq + 1 })

end Sys2Proof.Machine
end

