-- ==== Sys2Proof/Machine/Ops.lean ====
section
/-! DEFINITION. The operations that every family shares: advancing a fibre, sending an event, taking an exception, returning
from one, and running the lanes of a signature one after another. -/

namespace Sys2Proof.Machine

/-- The next PC in sequence (R103). -/
def nextPc (pc : Dword) : Dword := if pc.toNat % 64 = 48 then pc + 16 else pc + 12
/-- True when a PC names a slot (R103). -/
def pcSlotOk (pc : Dword) : Bool := let b := pc.toNat % 64; b == 0 || b == 12 || b == 24 || b == 36 || b == 48
/-- The line address of a PC (R103). -/
def lineOf (pc : Dword) : Nat := pc.toNat / 64 * 64
/-- The slot number of a PC (R103). -/
def slotOf (pc : Dword) : Nat := pc.toNat % 64 / 12
/-- True when bits [63:56] of an address are not all zero (R33). -/
def addrHighBad (a : Dword) : Bool := a.toNat / 2 ^ 56 != 0

/-- A record put into a queue of at most 256 (R332): kept, or counted as dropped. -/
def pushEvent (q : List Event) (dropped : Nat) (e : Event) : List Event × Nat :=
  if q.length < 256 then (q ++ [e], dropped) else (q, min (dropped + 1) 0xFFFF)
/-- A record of the colophon (R419): the oldest of 2,048 goes first, and none is written while it is frozen (R420). -/
def Pkg.record (p : Pkg) (now part : Nat) (e : Event) : Pkg :=
  if p.frozen then { p with colDropped := min (p.colDropped + 1) 0xFFFF }
  else { p with
    colophon := (⟨p.colseq, e.cause, part, e.core, now - p.clkBase, e.value, e.aux, p.fepoch⟩ :: p.colophon).take 2048
    colseq := (p.colseq + 1) % 2 ^ 32 }
/-- Events of causes 0x70 to 0x7F are written into the colophon (R419). The first MC_FATAL is kept for the board controller (R421). -/
def State.logEvent (s : State) (pkg part : Nat) (e : Event) : State :=
  if 0x70 ≤ e.cause.toNat then s.modPkg pkg (fun p =>
    let q := p.record s.now part e
    if e.cause = Cause.mcFatal && p.fatal.isNone then { q with fatal := some e } else q)
  else s
/-- An event for the monitor's queue of a package (R332), of a partition or, with 0x7F, of none. -/
def State.monitorEvent (s : State) (pkg : Nat) (e : Event) (part : Nat := 0x7F) : State :=
  (s.logEvent pkg part e).modPkg pkg (fun p =>
    let r := pushEvent p.events p.dropped e; { p with events := r.1, dropped := r.2 })
/-- An event for the supervisor's queue of a partition (R332). -/
def State.supervisorEvent (s : State) (part : Nat) (e : Event) : State :=
  (s.logEvent (part / 96) (part % 96) e).modPart part (fun p => let r := pushEvent p.events p.dropped e; { p with events := r.1, dropped := r.2 })
/-- True when $MDELEG lets a cause of the partition go to the supervisor (R328). -/
def State.delegated (s : State) (part : Nat) (cause : Cause.Code) : Bool :=
  bitAt ((s.partAt part).mdeleg.getD (cause.toNat / 32) 0).toNat (cause.toNat % 32)
/-- An event of a partition, sent to the queue of the level that R329 would choose, a user route taken as supervisor (R332). -/
def State.sendEvent (s : State) (part : Nat) (e : Event) : State :=
  if s.delegated part e.cause then s.supervisorEvent part e else s.monitorEvent (part / 96) e (part % 96)
/-- A corrected error logged, and MC_CORRECTED sent (R334, R418): to the queue that its partition's $MDELEG gives, or, of no partition, to the
monitor's. -/
def State.corrected (s : State) (pkg part core : Nat) : State :=
  let e : Event := { cause := Cause.mcCorrected, core := core }
  if part = 0x7F then s.monitorEvent pkg e else s.sendEvent (96 * pkg + part) e
/-- The identity that an event about a fibre carries (R332). -/
def Team.event (t : Team) (fid : Nat) (cause : Cause.Code) (aux : Word) (value : Dword) : Event :=
  { cause := cause, core := t.core, slot := t.slot, fid := fid % 65536, aux := aux, value := value }

/-- The trap-register copy of a level (R327). -/
def Fibre.copy (f : Fibre) : Level → TrapRegs
  | .user => f.userCopy | .supervisor => f.supCopy | .monitor => f.monCopy
/-- One copy of the trap registers replaced (R327). -/
def Fibre.setCopy (f : Fibre) (l : Level) (r : TrapRegs) : Fibre :=
  match l with
  | .user => { f with userCopy := r } | .supervisor => { f with supCopy := r } | .monitor => { f with monCopy := r }
/-- $TSTAT of one copy as its level reads it (R327). -/
def Fibre.tstat (f : Fibre) (l : Level) : BitVec 5 :=
  let r := f.copy l
  BitVec.ofNat 5 (f.level.num + 4 * r.ppriv.num + (if r.nest then 16 else 0))

/-- The handler's level that R329 chooses for a cause raised at level L. -/
def State.handlerLevel (s : State) (t : Team) (level : Level) (cause : Cause.Code) : Level :=
  if level = .monitor || cause = Cause.doubleTrap || (cause = Cause.syscall && level = .supervisor) then .monitor
  else if ! s.delegated t.partKey cause then .monitor
  else if level = .user && cause.toNat < 0x60
      && bitAt (t.sdeleg.getD (cause.toNat / 32) 0).toNat (cause.toNat % 32) && t.utvec ≠ 0 then .user
  else .supervisor
/-- The vector of a level (R328). -/
def State.vector (s : State) (t : Team) : Level → Dword
  | .user => t.utvec
  | .supervisor => (s.partAt t.partKey).stvec
  | .monitor => (s.pkgAt t.pkg).mtvec

/-- Every earlier result counts as arrived (R116); the fibre neither waits nor holds. -/
def Fibre.settle (f : Fibre) : Fibre :=
  { f with pend := [], wait := none, hold := none, gathered := false, fresh := false, turn := none, stepDue := false }
/-- A fibre halted under R329 and R338. -/
def State.haltFibre (s : State) (l : Lane) : State :=
  let t := s.team l.tid
  (s.modFibre l (fun f => { f with halted := true, wait := none, hold := none, gathered := false, turn := none })).sendEvent t.partKey
    (t.event l.fid Cause.mcFatal 0 0)
/-- Events that go with the delivery of a recorded fault (R331, R232). -/
def State.lostEvents (s : State) (l : Lane) (cause : Cause.Code) : State :=
  let t := s.team l.tid
  let f := s.fibre l
  if cause = Cause.storeDeferred then
    let s := if f.storesLost = 0 then s
      else s.supervisorEvent t.partKey (t.event l.fid Cause.storeLost (BitVec.ofNat 32 f.storesLost) 0)
    s.modFibre l (fun f => { f with storeFault := none, storesLost := 0 })
  else if cause = Cause.engFault then
    let s := if f.abortsLost = 0 then s
      else s.supervisorEvent t.partKey (t.event l.fid Cause.engLost (BitVec.ofNat 32 f.abortsLost) 0)
    s.modFibre l (fun f => { f with engineFault := none, abortsLost := 0 })
  else s
/-- Taking an exception (R37 RaiseTrap, R329 TakeTrap): the routing by delegation, the double trap, the halt on a nested
monitor trap or a zero vector, the saved registers, the new level and the vector. -/
def State.takeTrap (s : State) (l : Lane) (cause : Cause.Code) (value : Dword) : State :=
  let t := s.team l.tid
  let f := s.fibre l
  let s := s.lostEvents l cause
  let h0 := s.handlerLevel t f.level cause
  let double := (f.copy h0).nest && h0 ≠ .monitor
  let h := if double then .monitor else h0
  let value := if double then cause.zeroExtend 64 else value
  let cause := if double then Cause.doubleTrap else cause
  if (f.copy h).nest then s.haltFibre l
  else
    let s' := s.modFibre l (fun f =>
      { (f.settle.setCopy h { epc := f.pc, cause := cause, val := value, ppriv := f.level, nest := true }) with
        level := h, pc := s.vector t h, readyAt := max f.readyAt (s.now + 1), readySince := max f.readyAt (s.now + 1) })
    if s.vector t h = 0 then s'.haltFibre l else s'

/-- What one lane's instruction comes to: done (the PC moves on), a transfer, a trap, a trap after a part of the effect that
stands, or not yet (the PC stays). -/
inductive LaneRes where
  | done (s : State)
  | goto (pc : Dword) (s : State)
  | trap (cause : Cause.Code) (value : Dword)
  | trapAfter (cause : Cause.Code) (value : Dword) (s : State)
  | stay (s : State)

/-- The PC of a lane set, with the issue rule of R114: the next instruction issues max(stall, 1) clk later. -/
def State.setPc (s : State) (l : Lane) (stall : BitVec 4) (pc : Dword) : State :=
  let due := s.now + max stall.toNat 1
  s.modFibre l (fun f => { f with pc := pc, readyAt := due, readySince := due, fresh := false, gathered := false, turn := none, wait := none })
/-- True while a variable-latency result of the fibre has not arrived (R116). -/
def Fibre.inFlight (f : Fibre) : Bool := f.pend.any (fun p => p.due = none)
/-- The STEP trap after an instruction completed at user privilege (R328, R334): it waits until every result of the fibre has arrived
(R329). -/
def State.stepTrap (s : State) (l : Lane) (level : Level) : State :=
  if level = .user && (s.team l.tid).dbgctl.getLsbD 1 then
    (if (s.fibre l).inFlight then s.modFibre l (fun f => { f with stepDue := true }) else s.takeTrap l Cause.step 0)
  else s
/-- An instruction of a lane completed: the PC moves and STEP is looked at. -/
def State.complete (s : State) (l : Lane) (stall : BitVec 4) (level : Level) (pc : Dword) : State :=
  (s.setPc l stall pc).stepTrap l level
/-- A lane's result applied to the state. A trap waits until every earlier result of the fibre has arrived (R116). -/
def State.finish (s : State) (l : Lane) (h : Head) : LaneRes → State
  | .done t => t.complete l h.stall (s.fibre l).level (nextPc (s.fibre l).pc)
  | .goto pc t => t.complete l h.stall (s.fibre l).level pc
  | .trap c v => if (s.fibre l).inFlight then s else (s.modFibre l (fun f => { f with readyAt := s.now + max h.stall.toNat 1 })).takeTrap l c v
  | .trapAfter c v t => if (s.fibre l).inFlight then s else (t.modFibre l (fun f => { f with readyAt := s.now + max h.stall.toNat 1 })).takeTrap l c v
  | .stay t => t

/-- A fibre put into a list ordered by lane number, $FID mod 32. -/
def insertByLane (f : Nat) : List Nat → List Nat
  | [] => [f]
  | g :: r => if f % 32 ≤ g % 32 then f :: g :: r else g :: insertByLane f r
/-- Fibres in the order of their lane numbers: the highest-numbered lane writes a team-scalar last (R22). -/
def orderByLane : List Nat → List Nat
  | [] => []
  | f :: r => insertByLane f (orderByLane r)
/-- The lanes of the signature being issued, lowest lane number first (R22, R24, R40). -/
def State.sigLanes (s : State) : List Lane := (orderByLane s.sig.fids).map (fun f => ⟨s.sig.tid, f⟩)
end Sys2Proof.Machine
end

