-- ==== Sys2Proof/Machine/Operands.lean ====
section
/-! DEFINITION. Every operand form: reading and writing registers, pairs, quads and predicates (R16 to R18, R112), the guard
(R113), results not yet arrived (R115 to R117), team-scalars (R22) and the last-result file (R21). -/

namespace Sys2Proof.Machine

/-- The register that a file and an index name. -/
def regName (file : File) (idx : Nat) : RegName :=
  match file with
  | .main => .main idx | .operand => .operand idx | .last => .y idx | .team => .scalar idx
/-- The stored value of a register: the newest write in program order (R16, R17). -/
def Team.stored (t : Team) (f : Fibre) : RegName → Word
  | .main i => f.regs.getD i 0
  | .operand i => f.ops.getD i 0
  | .y i => if i = 0 then f.y0 else f.y1
  | .pred i => if i = 0 ∨ f.preds.getLsbD i then 1 else 0
  | .scalar i => t.scalars.getD i 0

/-- The positions from which an instruction reads, for the free choice of an early read. -/
inductive Pos where
  | dst | sa | sb | sc | guard | pred
  deriving DecidableEq, Repr
/-- The number of a position. -/
def Pos.num : Pos → Nat
  | .dst => 0 | .sa => 1 | .sb => 2 | .sc => 3 | .guard => 4 | .pred => 5

/-- The newest result of the fibre in a register that a read at this clk falls short of (R115). -/
def Fibre.early (f : Fibre) (now : Nat) (r : RegName) : Option Pend :=
  f.pend.find? (fun p => p.reg = r && (match p.due with | some d => decide (now < d) | none => false))
/-- The newest write of another fibre to a team-scalar that is not complete (R22). -/
def Team.foreign (t : Team) (now fid : Nat) : RegName → Option ScalarPend
  | .scalar i => t.scalarPend.find? (fun p => p.idx = i && p.fid ≠ fid &&
      (match p.due with | some d => decide (now < d) | none => true))
  | _ => none
/-- A register as a lane reads it at issue: the stored value, or, for a read that comes early, the old or the new one as
the free choice says (R22, R117; log 2). -/
def State.readName (s : State) (l : Lane) (pos : Pos) (off : Nat) (r : RegName) : Word :=
  let t := s.team l.tid
  let f := s.fibre l
  let v := t.stored f r
  match f.early s.now r with
  | some p => if Config.freeBit s.freeCtr l.fid (8 * off + pos.num) then p.old else v
  | none =>
    match t.foreign s.now l.fid r with
    | some p => if Config.freeBit s.freeCtr l.fid (8 * off + pos.num) then p.old else v
    | none => v
/-- The register of an operand field (R37 ReadReg). -/
def State.readReg (s : State) (l : Lane) (pos : Pos) (fld : Field) : Word := s.readName l pos 0 (regName fld.file fld.idx)
/-- Register number off of the run that an operand field begins (R18, R192). -/
def State.readOff (s : State) (l : Lane) (pos : Pos) (fld : Field) (off : Nat) : Word :=
  s.readName l pos off (regName fld.file (fld.idx + off))
/-- A pair (R18). -/
def State.readPair (s : State) (l : Lane) (pos : Pos) (fld : Field) : Dword :=
  pairOf (s.readOff l pos fld 0) (s.readOff l pos fld 1)
/-- A quad (R192). -/
def State.readQuad (s : State) (l : Lane) (pos : Pos) (fld : Field) : Quad :=
  pairOf (s.readOff l pos fld 2) (s.readOff l pos fld 3) ++ pairOf (s.readOff l pos fld 0) (s.readOff l pos fld 1)
/-- A predicate; p0 reads true (R16). -/
def State.readPred (s : State) (l : Lane) (pos : Pos) (n : Nat) : Bool := s.readName l pos 0 (.pred n) != 0
/-- The guard of a lane (R113). -/
def State.guard (s : State) (h : Head) (l : Lane) : Bool := s.readPred l .guard h.gp.toNat != h.gi
/-- PRED under PINV (R143). -/
def State.predIn (s : State) (l : Lane) (pred : BitVec 4) (pinv : Bool) : Bool := s.readPred l .pred pred.toNat != pinv

/-- A result noted as not yet arrived: the entry of an earlier producer of the register leaves (R116). -/
def Fibre.note (f : Fibre) (now : Nat) (r : RegName) (old : Word) (lat : Option Nat) (id : Nat) : Fibre :=
  { f with pend := ⟨r, old, lat.map (now + ·), id⟩ :: f.pend.filter (fun p => p.reg ≠ r) }
/-- A value written into a fibre's own files; a write to p0 or to y0 and y1 as a destination has no effect (R16, R21). -/
def Fibre.put (f : Fibre) (r : RegName) (v : Word) : Fibre :=
  match r with
  | .main i => { f with regs := f.regs.set i v }
  | .operand i => { f with ops := f.ops.set i v }
  | .pred i => if i = 0 then f else
      { f with preds := if v = 0 then f.preds &&& ~~~ (1#16 <<< i) else f.preds ||| (1#16 <<< i) }
  | .y _ => f
  | .scalar _ => f
/-- The value of a team-scalar before a producer's write: that before all its lanes (R22). -/
def Team.scalarOld (t : Team) (i id : Nat) : Word :=
  match t.scalarPend.find? (fun p => p.idx = i && p.id = id) with
  | some p => p.old
  | none => t.scalars.getD i 0
/-- True when a write to a team-scalar has been overtaken: a later one, or one of a higher lane of the same instruction, has its value (R22). -/
def Team.overtaken (t : Team) (i id lane : Nat) : Bool :=
  t.scalarOrder.any (fun x => x.1 = i && (decide (id < x.2.1) || (x.2.1 = id && decide (lane < x.2.2))))
/-- A value written to a team-scalar by a fibre, complete when its producer's latency has elapsed (R22). Where several
lanes of one instruction write it, the value before them all stays the old one. -/
def Team.putScalar (t : Team) (fid now : Nat) (i : Nat) (v : Word) (lat : Option Nat) (id : Nat) : Team :=
  let old := t.scalarOld i id
  { t with
    scalars := t.scalars.set i v
    scalarOrder := (i, id, fid % 32) :: t.scalarOrder.filter (fun x => x.1 ≠ i)
    scalarPend := ⟨i, fid, old, lat.map (now + ·), id⟩ ::
      t.scalarPend.filter (fun p => p.idx ≠ i && (match p.due with | some d => decide (now < d) | none => true)) }
/-- A register written by a lane, with the latency of its producer (R115). -/
def State.writeName (s : State) (l : Lane) (r : RegName) (v : Word) (lat : Option Nat) : State :=
  let old := match r with
    | .scalar i => (s.team l.tid).scalarOld i s.seq
    | _ => (s.team l.tid).stored (s.fibre l) r
  let s' := s.modFibre l (fun f => (f.note s.now r old lat s.seq).put r v)
  match r with
  | .scalar i => s'.modTeam l.tid (fun t => t.putScalar l.fid s.now i v lat s.seq)
  | _ => s'
/-- A destination register written (R37 WriteReg, without the last-result file). -/
def State.writeReg (s : State) (l : Lane) (fld : Field) (v : Word) (lat : Option Nat) : State :=
  s.writeName l (regName fld.file fld.idx) v lat
/-- A destination pair written (R18). -/
def State.writePair (s : State) (l : Lane) (fld : Field) (v : Dword) (lat : Option Nat) : State :=
  (s.writeName l (regName fld.file fld.idx) v.lo lat).writeName l (regName fld.file (fld.idx + 1)) v.hi lat
/-- A predicate written; p0 ignores the write (R16, R112). -/
def State.writePred (s : State) (l : Lane) (n : Nat) (v : Bool) (lat : Option Nat) : State :=
  if n = 0 then s else s.writeName l (.pred n) (if v then 1 else 0) lat

/-- The last-result file after a 32-bit result (R21). A read of it takes the value one clk earlier (R115); y1 then holds
what y0 held, and arrives when that does. -/
def Fibre.shiftLast (f : Fibre) (now : Nat) (v : Word) (lat : Option Nat) (id : Nat) : Fibre :=
  let moved := (f.pend.find? (fun p => p.reg = .y 0)).map (fun p => { p with reg := .y 1, old := f.y1 })
  let rest := f.pend.filter (fun p => p.reg ≠ .y 0 && p.reg ≠ .y 1)
  { f with
    y1 := f.y0, y0 := v
    pend := ⟨.y 0, f.y0, lat.map (fun n => now + (n - 1)), id⟩ :: (moved.toList ++ rest) }
/-- The last-result file after a 64-bit result: y0 takes bits [31:0] and y1 bits [63:32] (R21). -/
def Fibre.setLast (f : Fibre) (now : Nat) (v : Dword) (lat : Option Nat) (id : Nat) : Fibre :=
  let due := lat.map (fun n => now + (n - 1))
  let rest := f.pend.filter (fun p => p.reg ≠ .y 0 && p.reg ≠ .y 1)
  { f with y0 := v.lo, y1 := v.hi, pend := ⟨.y 0, f.y0, due, id⟩ :: ⟨.y 1, f.y1, due, id⟩ :: rest }

/-- A 32-bit result of the arithmetic groups: the register is written and the last-result file shifts (R21). -/
def State.result32 (s : State) (l : Lane) (fld : Field) (v : Word) (lat : Option Nat) : State :=
  (s.writeReg l fld v lat).modFibre l (fun f => f.shiftLast s.now v lat s.seq)
/-- A 64-bit result of the arithmetic groups (R21). -/
def State.result64 (s : State) (l : Lane) (fld : Field) (v : Dword) (lat : Option Nat) : State :=
  (s.writePair l fld v lat).modFibre l (fun f => f.setLast s.now v lat s.seq)
/-- An instruction run for every lane of the signature whose guard is true, one lane after another; a lane whose guard is
false only moves on (R36, R113). Guards and operands are read from the state at issue. -/
def State.runLanes (s0 : State) (h : Head) (body : State → Lane → LaneRes) : State :=
  s0.sigLanes.foldl (fun s l => s.finish l h (if s0.guard h l then body s l else .done s)) s0
/-- After a variable-latency instruction the next producer has a fresh number. -/
def State.bump (s : State) : State := { s with seq := s.seq + 1 }

end Sys2Proof.Machine
end

