-- ==== Sys2Proof/Machine/Flags.lean ====
section
/-! DEFINITION. Number formats (R73 to R83), exact values, rounding and its flags (R84 to R90), block scales (R91, R92), seeded
sparsity (R93, R94), and how flags reach $FFLAGS (R172). -/

namespace Sys2Proof.Machine

/-- The sticky flags of one result (R90): [0] invalid, [1] divide-by-zero, [2] overflow, [3] underflow, [4] inexact. -/
abbrev FFlags := BitVec 5
def flInvalid : FFlags := 1
def flDivZero : FFlags := 2
def flOverflow : FFlags := 4
def flUnderflow : FFlags := 8
def flInexact : FFlags := 16

/-- A value: (-1)^neg x sig x 2^exp, an infinity, or a NaN. -/
inductive FVal where
  | fin (neg : Bool) (sig : Nat) (exp : Int)
  | inf (neg : Bool)
  | nan (signalling : Bool)
  deriving DecidableEq, Repr

/-- The special codes a format has. -/
inductive Specials where
  | ieee | e4m3 | plain | p3109 (ext : Bool)
  deriving DecidableEq, Repr

/-- A floating-point format: its bits, whether it has a sign, its fraction bits and bias, and its special codes. -/
structure Fmt where
  size : Nat
  sgn : Bool
  frac : Nat
  bias : Nat
  spec : Specials
  deriving DecidableEq, Repr

/-- What a format code names (R73). -/
inductive Elem where
  | float (f : Fmt) | int (n : Nat) | table
  deriving DecidableEq, Repr

def fmtF32 : Fmt := ⟨32, true, 23, 127, .ieee⟩
def fmtF16 : Fmt := ⟨16, true, 10, 15, .ieee⟩
def fmtBF16 : Fmt := ⟨16, true, 7, 127, .ieee⟩
/-- The P3109 format of precision p, unsigned or signed, extended or finite (R77). -/
def fmtP3109 (p : Nat) (u ext : Bool) : Fmt :=
  ⟨8, !u, p - 1, 2 ^ ((if u then 9 else 8) - p - 1), .p3109 ext⟩
/-- The format of a code, if the code is assigned (R73, R74, R81). -/
def elemOf (code : Nat) : Option Elem :=
  if code = 0 then some (.float fmtF32)
  else if code = 1 then some (.float fmtF16)
  else if code = 2 then some (.float fmtBF16)
  else if code = 3 then some (.float ⟨8, true, 2, 15, .ieee⟩)
  else if code = 4 then some (.float ⟨8, true, 3, 7, .e4m3⟩)
  else if code = 5 then some (.float ⟨6, true, 2, 3, .plain⟩)
  else if code = 6 then some (.float ⟨6, true, 3, 1, .plain⟩)
  else if code = 7 then some (.float ⟨4, true, 1, 1, .plain⟩)
  else if code = 8 then some (.int 8)
  else if code = 9 then some (.int 4)
  else if code = 10 then some .table
  else if 32 ≤ code ∧ code < 64 ∧ code % 8 ≠ 0 then some (.float (fmtP3109 (code % 8) (bitAt code 4) (!bitAt code 3)))
  else none
/-- Bits of one element (R73). -/
def Elem.bits : Elem → Nat
  | .float f => f.size | .int n => n | .table => 4

/-- The positive code of max finite (R74, R78, R81). -/
def Fmt.maxCode (f : Fmt) : Nat :=
  match f.spec with
  | .ieee => 2 ^ (f.size - 1) - 2 ^ f.frac - 1
  | .e4m3 => 0x7E
  | .plain => 2 ^ (f.size - 1) - 1
  | .p3109 ext => if f.sgn then (if ext then 0x7E else 0x7F) else (if ext then 0xFD else 0xFE)
/-- The code of an infinity, where the format has one (R74, R78, R81). -/
def Fmt.infCode (f : Fmt) (neg : Bool) : Option Nat :=
  match f.spec with
  | .ieee => some (2 ^ (f.size - 1) - 2 ^ f.frac + (if neg then 2 ^ (f.size - 1) else 0))
  | .p3109 true => if f.sgn then some (if neg then 0xFF else 0x7F) else (if neg then none else some 0xFE)
  | _ => none
/-- The NaN that a format delivers: canonical for the wide formats; in E4M3 0x7F, and 0xFF where a negative element overflows, the only
case that asks for a sign (R74, R78, R81, R87). -/
def Fmt.nanCode (f : Fmt) (neg : Bool) : Option Nat :=
  match f.spec with
  | .ieee => some (2 ^ (f.size - 1) - 2 ^ (f.frac - 1))
  | .e4m3 => some (if neg then 0xFF else 0x7F)
  | .p3109 _ => some (if f.sgn then 0x80 else 0xFF)
  | .plain => none
/-- The value of finite fields (R74, R77, R81). -/
def Fmt.finite (f : Fmt) (neg : Bool) (e frac : Nat) : FVal :=
  if e = 0 then .fin neg frac (1 - (f.bias : Int) - f.frac)
  else .fin neg (2 ^ f.frac + frac) ((e : Int) - f.bias - f.frac)
/-- The value of a code (R74, R77, R78, R81). -/
def Fmt.decode (f : Fmt) (c : Nat) : FVal :=
  let neg := f.sgn && bitAt c (f.size - 1)
  let mag := if f.sgn then c % 2 ^ (f.size - 1) else c % 2 ^ f.size
  let e := mag / 2 ^ f.frac
  let frac := mag % 2 ^ f.frac
  let fin := f.finite neg e frac
  match f.spec with
  | .ieee =>
    if e = 2 ^ (f.size - 1 - f.frac) - 1 then
      (if frac = 0 then .inf neg else .nan (f.frac > 2 && frac < 2 ^ (f.frac - 1)))
    else fin
  | .e4m3 => if mag = 0x7F then .nan false else fin
  | .plain => fin
  | .p3109 ext =>
    if c % 256 = (if f.sgn then 0x80 else 0xFF) then .nan false
    else if ext && c % 256 = (if f.sgn then 0x7F else 0xFE) then .inf false
    else if ext && f.sgn && c % 256 = 0xFF then .inf true
    else fin
/-- Max finite as a value. -/
def Fmt.maxFin (f : Fmt) : Nat × Int :=
  match f.decode f.maxCode with
  | .fin _ s e => (s, e)
  | _ => (0, 0)

/-- Rounding modes (R84). -/
inductive RMode where
  | rne | rtz | rup | rdn | rna | sr
  deriving DecidableEq, Repr
/-- $RMODE as a mode (R23). -/
def rmodeOf (r : BitVec 3) : RMode :=
  match r.toNat with
  | 0 => .rne | 1 => .rtz | 2 => .rup | 3 => .rdn | 4 => .rna | _ => .sr
/-- A rounding field resolved; .dyn reads $RMODE (R84). -/
def rndMode (r : Rnd) (rmode : BitVec 3) : RMode :=
  match r with
  | .rne => .rne | .rtz => .rtz | .rup => .rup | .rdn => .rdn | .rna => .rna | .sr => .sr | .dyn => rmodeOf rmode

/-- A magnitude sig x 2^exp as a multiple of 2^q: the multiple after rounding, and whether it is inexact (R84, R86). DESIGN CHOICE
(log 47): under RNE, the even one of two neighbours is the one whose significand is an even multiple; a P3109 format of precision 1 has no
fraction bit, so its significand 1 counts as odd and a tie goes to the larger power of two. -/
def roundAt (mode : RMode) (neg : Bool) (sig : Nat) (exp q : Int) (x : Word) : Nat × Bool :=
  if q ≤ exp then (sig * 2 ^ (exp - q).toNat, false)
  else
    let sh := (q - exp).toNat
    let lo := sig / 2 ^ sh
    let rem := sig % 2 ^ sh
    if rem = 0 then (lo, false)
    else
      let up := match mode with
        | .rne => decide (2 ^ sh < 2 * rem) || (decide (2 * rem = 2 ^ sh) && lo % 2 = 1)
        | .rna => decide (2 ^ sh ≤ 2 * rem)
        | .rtz => false
        | .rup => !neg
        | .rdn => neg
        | .sr => decide (x.toNat * 2 ^ sh < rem * 2 ^ 32)
      (if up then lo + 1 else lo, true)
/-- a x 2^i compared with b x 2^j. -/
def magLt (a : Nat) (i : Int) (b : Nat) (j : Int) : Bool :=
  let lo := min i j
  decide (a * 2 ^ (i - lo).toNat < b * 2 ^ (j - lo).toNat)
/-- True when a mode rounds toward zero for an element of a sign (R87). -/
def towardZero (mode : RMode) (neg : Bool) : Bool :=
  match mode with
  | .rtz => true | .rdn => !neg | .rup => neg | _ => false
/-- The code of n x 2^q, which the format represents. -/
def Fmt.pack (f : Fmt) (neg : Bool) (n : Nat) (q : Int) : Nat :=
  let qmin : Int := 1 - (f.bias : Int) - f.frac
  let top := q + (log2 n : Int)
  let sb := if f.sgn && neg then 2 ^ (f.size - 1) else 0
  if top < 1 - (f.bias : Int) then sb + n * 2 ^ (q - qmin).toNat
  else
    let sig := if log2 n ≤ f.frac then n * 2 ^ (f.frac - log2 n) else n / 2 ^ (log2 n - f.frac)
    sb + (top + f.bias).toNat * 2 ^ f.frac + (sig - 2 ^ f.frac)
/-- Zero of a sign; P3109 has one zero (R85). -/
def Fmt.zero (f : Fmt) (neg : Bool) : Nat :=
  match f.spec with
  | .p3109 _ => 0
  | _ => if neg then 2 ^ (f.size - 1) else 0
/-- Max finite of a sign. -/
def Fmt.maxOf (f : Fmt) (neg : Bool) : Nat := f.maxCode + (if f.sgn && neg then 2 ^ (f.size - 1) else 0)

/-- The rounded multiple and its quantum (R85, R86): under SR a magnitude above max finite lies between max finite and one
unit in the last place more. -/
def Fmt.quantise (f : Fmt) (mode : RMode) (neg : Bool) (sig : Nat) (exp : Int) (x : Word) : Nat × Int × Bool :=
  let mx := f.maxFin
  if mode = .sr && magLt mx.1 mx.2 sig exp then
    let lo := min exp mx.2
    let d := sig * 2 ^ (exp - lo).toNat - mx.1 * 2 ^ (mx.2 - lo).toNat
    (if x.toNat * 2 ^ (mx.2 - lo).toNat < d * 2 ^ 32 then mx.1 + 1 else mx.1, mx.2, true)
  else
    let q := max (exp + (log2 sig : Int) - f.frac) (1 - (f.bias : Int) - f.frac)
    let r := roundAt mode neg sig exp q x
    (r.1, q, r.2)
/-- Overflow delivered (R87, R90). -/
def Fmt.overflow (f : Fmt) (mode : RMode) (sat neg : Bool) : Nat × FFlags :=
  let fl := flOverflow ||| flInexact
  if sat || towardZero mode neg then (f.maxOf neg, fl)
  else match f.infCode neg with
    | some c => (c, fl)
    | none => match f.nanCode neg with
      | some c => (c, fl ||| flInvalid)
      | none => (f.maxOf neg, fl)
/-- Round (R37, R85 to R88): the code and the flags. ftz applies to the wide formats only (R76). -/
def Fmt.round (f : Fmt) (mode : RMode) (sat ftz : Bool) (x : Word) : FVal → Nat × FFlags
  | .nan sig => match f.nanCode false with
    | some c => (c, if sig then flInvalid else 0)
    | none => (0, flInvalid)
  | .inf neg =>
    if neg && !f.sgn then ((if sat then 0 else 0xFF), flInvalid)
    else if sat then (f.maxOf neg, flInvalid)
    else match f.infCode neg with
      | some c => (c, 0)
      | none => match f.nanCode false with
        | some c => (c, flInvalid)
        | none => (f.maxOf neg, flInvalid)
  | .fin neg sig exp =>
    if sig = 0 then (f.zero neg, 0)
    else
      let r := f.quantise mode neg sig exp x
      let n := r.1
      let q := r.2.1
      if neg && !f.sgn then
        (if n = 0 then (0, flUnderflow ||| flInexact)
         else ((if sat then 0 else 0xFF), flInvalid ||| flInexact))
      else if n = 0 then (f.zero neg, flUnderflow ||| flInexact)
      else if magLt f.maxFin.1 f.maxFin.2 n q then f.overflow mode sat neg
      else
        let tiny := magLt n q 1 (1 - (f.bias : Int))
        if tiny && ftz then (f.zero neg, flUnderflow ||| flInexact)
        else (f.pack neg n q, (if r.2.2 then flInexact else 0) ||| (if tiny && r.2.2 then flUnderflow else 0))
/-- Rounding to an integer of n bits, clamped (R87 integer row, R90). -/
def roundInt (n : Nat) (sgn : Bool) (mode : RMode) (x : Word) : FVal → Int × FFlags
  | .nan _ => (0, flInvalid)
  | .inf neg =>
    (if neg then (if sgn then -(2 ^ (n - 1) : Nat) else 0) else (if sgn then (2 ^ (n - 1) : Nat) - 1 else (2 ^ n : Nat) - 1),
      flInvalid)
  | .fin neg sig exp =>
    let lo : Int := if sgn then -(2 ^ (n - 1) : Nat) else 0
    let hi : Int := if sgn then (2 ^ (n - 1) : Nat) - 1 else (2 ^ n : Nat) - 1
    let r := roundAt mode neg sig exp 0 x
    let v : Int := if neg then -(r.1 : Int) else r.1
    let fl := if r.2 then flInexact else 0
    if v < lo then (lo, fl ||| flInvalid ||| flInexact)
    else if hi < v then (hi, fl ||| flInvalid ||| flInexact)
    else (v, fl)

/-- A subnormal operand read as zero of its sign under .ftz (R76). -/
def Fmt.flushIn (f : Fmt) (ftz : Bool) (v : FVal) : FVal :=
  match v with
  | .fin neg sig exp => if ftz && sig ≠ 0 && sig < 2 ^ f.frac then .fin neg 0 exp else v
  | v => v
/-- An operand of a wide format, under .ftz. -/
def Fmt.operand (f : Fmt) (ftz : Bool) (c : Nat) : FVal := f.flushIn ftz (f.decode c)

/-- The signed significand of a finite value at a common exponent. -/
def scaledAt (neg : Bool) (sig : Nat) (exp lo : Int) : Int :=
  let m : Int := sig * (2 ^ (exp - lo).toNat : Nat)
  if neg then -m else m
/-- A sum's sign when it is zero: +0, or -0 under RDN, unless both zeros had one sign (R174; IEEE 754). -/
def zeroSign (mode : RMode) (a b : Bool) : Bool := if a = b then a else mode == .rdn
/-- The exact product, with the flags of R174. -/
def FVal.mul : FVal → FVal → FVal × FFlags
  | .nan s, .nan t => (.nan false, if s || t then flInvalid else 0)
  | .nan s, _ => (.nan false, if s then flInvalid else 0)
  | _, .nan s => (.nan false, if s then flInvalid else 0)
  | .inf a, .inf b => (.inf (a != b), 0)
  | .inf a, .fin b sig _ => if sig = 0 then (.nan false, flInvalid) else (.inf (a != b), 0)
  | .fin a sig _, .inf b => if sig = 0 then (.nan false, flInvalid) else (.inf (a != b), 0)
  | .fin a s e, .fin b t g => (.fin (a != b) (s * t) (e + g), 0)
/-- The exact sum, with the flags of R174. -/
def FVal.add (mode : RMode) : FVal → FVal → FVal × FFlags
  | .nan s, .nan t => (.nan false, if s || t then flInvalid else 0)
  | .nan s, _ => (.nan false, if s then flInvalid else 0)
  | _, .nan s => (.nan false, if s then flInvalid else 0)
  | .inf a, .inf b => if a = b then (.inf a, 0) else (.nan false, flInvalid)
  | .inf a, .fin _ _ _ => (.inf a, 0)
  | .fin _ _ _, .inf b => (.inf b, 0)
  | .fin a s e, .fin b t g =>
    let lo := min e g
    let x := scaledAt a s e lo + scaledAt b t g lo
    if x = 0 then
      (.fin (if s = 0 && t = 0 then zeroSign mode a b else mode == .rdn) 0 lo, 0)
    else (.fin (decide (x < 0)) x.natAbs lo, 0)
/-- The negated value. -/
def FVal.negate : FVal → FVal
  | .fin n s e => .fin (!n) s e
  | .inf n => .inf (!n)
  | .nan s => .nan s
/-- True for a NaN. -/
def FVal.isNan : FVal → Bool
  | .nan _ => true
  | _ => false
/-- True for a signalling NaN. -/
def FVal.isSnan : FVal → Bool
  | .nan s => s
  | _ => false
/-- a < b on numbers, -0 = +0; false where unordered. -/
def FVal.lt : FVal → FVal → Bool
  | .nan _, _ => false
  | _, .nan _ => false
  | .inf a, .inf b => a && !b
  | .inf a, .fin _ _ _ => a
  | .fin _ _ _, .inf b => !b
  | .fin a s e, .fin b t g => let lo := min e g; decide (scaledAt a s e lo < scaledAt b t g lo)
/-- a = b on numbers, -0 = +0; false where unordered. -/
def FVal.eq (a b : FVal) : Bool := !a.isNan && !b.isNan && !a.lt b && !b.lt a

/-- The flags of a lane's result, ORed into the team's $FFLAGS when the instruction completes (R172). -/
def State.raiseFlags (s : State) (l : Lane) (fl : FFlags) (lat : Option Nat) : State :=
  if fl = 0 then s
  else s.modTeam l.tid (fun t =>
    { t with flagPend := t.flagPend ++ [⟨l.fid, lat.map (s.now + ·), s.seq, fl⟩] })
/-- $FFLAGS at a clk: the stored flags and those of instructions completed by then (R172). -/
def Team.flagsAt (t : Team) (now : Nat) : FFlags :=
  t.flagPend.foldl (fun acc p => match p.due with
    | some d => if d ≤ now then acc ||| p.flags else acc
    | none => acc) t.fflags
/-- Completed instructions' flags moved into $FFLAGS. -/
def Team.settleFlags (t : Team) (now : Nat) : Team :=
  { t with
    fflags := t.flagsAt now
    flagPend := t.flagPend.filter (fun p => match p.due with | some d => decide (now < d) | none => true) }

/-- The stochastic state advanced once for one element, and the advanced value (R86). -/
def State.draw (s : State) (core : Nat) (mode : RMode) : Word × State :=
  if mode = .sr then
    let x := xorshift (s.coreAt core).srng
    (x, s.modCore core (fun c => { c with srng := x }))
  else (0, s)

/-- Kept positions of a block (R94): perm with entries i and j exchanged. -/
def swapAt (perm : List Nat) (i j : Nat) : List Nat := (perm.set i (perm.getD j 0)).set j (perm.getD i 0)
/-- k - i further draws of R94. -/
def drawKept : Nat → Nat → Word → List Nat → List Nat
  | 0, _, _, perm => perm
  | n + 1, i, x, perm =>
    let x := xorshift x
    drawKept n (i + 1) x (swapAt perm i (i + x.toNat % (16 - i)))
/-- A number put into a rising list. -/
def insertRising (a : Nat) : List Nat → List Nat
  | [] => [a]
  | b :: r => if a ≤ b then a :: b :: r else b :: insertRising a r
/-- A list in rising order. -/
def sortRising : List Nat → List Nat
  | [] => []
  | a :: r => insertRising a (sortRising r)
/-- The k kept positions of row rho and block kappa (R94). -/
def keptPositions (seed : Word) (rho kappa k : Nat) : List Nat :=
  let x := seed ^^^ (BitVec.ofNat 32 (rho * 0x9E3779B9)) ^^^ (BitVec.ofNat 32 (kappa * 0x85EBCA6B))
  sortRising ((drawKept k 0 (if x = 0 then 1 else x) (List.range 16)).take k)

/-- A value times 2^k. -/
def FVal.scale (k : Int) : FVal → FVal
  | .fin n s e => .fin n s (e + k)
  | v => v
/-- The value of a block scale (R91): none for NaN. -/
def scaleExp (s : Nat) : Option Int := if s = 0xFF then none else some ((s : Int) - 127)

/-- The index that R89 chooses for a value over 16 BF16 entries, and its flags. -/
def tableIndex (entries : List Nat) (v : FVal) : Nat × FFlags :=
  let es : List (Nat × FVal) := (entries.map (fmtBF16.decode ·)).zipIdx.map (fun p => (p.2, p.1))
  let fins := es.filter (fun p => match p.2 with | .fin _ _ _ => true | _ => false)
  let last : Nat × FFlags := ((es.find? (fun p => p.2.isNan)).map (·.1) |>.getD 0, flInvalid)
  -- the lowest index among those no other is better than
  let best := fun (better : FVal → FVal → Bool) =>
    fins.find? (fun p => fins.all (fun q => !better q.2 p.2))
  match v with
  | .nan _ => last
  | .inf neg =>
    match es.find? (fun p => decide (p.2 = .inf neg)) with
    | some p => (p.1, 0)
    | none =>
      match best (fun a b => if neg then a.lt b else b.lt a) with
      | some p => (p.1, flInvalid)
      | none => last
  | .fin _ _ _ =>
    let dist := fun (e : FVal) => match (e.add .rne v.negate).1 with
      | .fin _ s x => (FVal.fin false s x)
      | w => w
    match best (fun a b => (dist a).lt (dist b)) with
    | some p => (p.1, if p.2.eq v then 0 else flInexact)
    | none => last

end Sys2Proof.Machine
end

