-- ==== Sys2Proof/Machine/Integer.lean ====
section
/-! DEFINITION. Group 000: integer, logic and address instructions (R139 to R152), and their operand forms. -/

namespace Sys2Proof.Machine

open Host (Outcome)

/-- The width N of a type (R139). -/
def width : IType → Nat
  | .s32 => 32 | .n32 => 32 | .s64 => 64 | .n64 => 64 | .s16 => 16 | .n16 => 16 | .s8 => 8 | .n8 => 8
/-- True for a signed type (R139). -/
def signed : IType → Bool
  | .s32 => true | .n32 => false | .s64 => true | .n64 => false | .s16 => true | .n16 => false | .s8 => true | .n8 => false
/-- MINV (R141). -/
def minV (ty : IType) : Int := if signed ty then -(2 ^ (width ty - 1) : Nat) else 0
/-- MAXV (R141). -/
def maxV (ty : IType) : Int := if signed ty then (2 ^ (width ty - 1) : Nat) - 1 else (2 ^ width ty : Nat) - 1
/-- The low N bits of a pattern read as the type (R139). -/
def readAs (ty : IType) (x : Nat) : Int := if signed ty then toSigned (width ty) x else (x % 2 ^ width ty : Nat)
/-- x clamped to MINV to MAXV (R141). -/
def clampTo (ty : IType) (x : Int) : Int := if x < minV ty then minV ty else if maxV ty < x then maxV ty else x
/-- What an arithmetic result leaves: clamped under SAT, then the N-bit pattern read as the type (R141). -/
def narrow (ty : IType) (sat : Bool) (x : Int) : Int :=
  readAs ty (wrap (width ty) (if sat then clampTo ty x else x))
/-- The type of a 64-bit addend of the same signedness (R144). -/
def wide64 (ty : IType) : IType := if signed ty then .s64 else .n64

/-- A source read under a type (R139). -/
def State.readInt (s : State) (l : Lane) (pos : Pos) (fld : Field) (ty : IType) : Int :=
  if width ty = 64 then readAs ty (s.readPair l pos fld).toNat else readAs ty (s.readReg l pos fld).toNat
/-- An immediate read under a type (R140). -/
def immAs (ty : IType) (imm : Word) : Int :=
  if width ty = 64 then (if signed ty then imm.toInt else imm.toNat) else readAs ty imm.toNat
/-- A result written under a type: the whole register, or the pair, and the last-result file (R139, R21). -/
def State.writeInt (s : State) (l : Lane) (fld : Field) (ty : IType) (x : Int) (lat : Option Nat) : State :=
  if width ty = 64 then s.result64 l fld (BitVec.ofInt 64 x) lat else s.result32 l fld (BitVec.ofInt 32 x) lat

/-- A register form computing x from A, B and C (R141). -/
def intReg (h : Head) (m : IntMod) (lat : Option Nat) (f : Int → Int → Int → Int) (s : State) :
    Outcome State Fault Refusal :=
  .next (s.runLanes h (fun t l => .done (t.writeInt l h.dst m.ty
    (narrow m.ty m.sat (f (s.readInt l .sa h.sa m.ty) (s.readInt l .sb h.sb m.ty) (s.readInt l .sc h.sc m.ty))) lat)))
/-- An immediate form computing x from A, the immediate and C (R140, R141). -/
def intImm (h : Head) (m : ImmMod) (lat : Option Nat) (f : Int → Int → Int → Int) (s : State) :
    Outcome State Fault Refusal :=
  .next (s.runLanes h (fun t l => .done (t.writeInt l h.dst m.ty
    (narrow m.ty m.sat (f (s.readInt l .sa h.sa m.ty) (immAs m.ty m.imm) (s.readInt l .sc h.sc m.ty))) lat)))
/-- A bit-pattern register form: N, A, the 32-bit B and C as unsigned numbers (R147, R148). -/
def bitReg (h : Head) (m : IntMod) (f : Nat → Nat → Nat → Nat → Nat) (s : State) : Outcome State Fault Refusal :=
  .next (s.runLanes h (fun t l =>
    let n := width m.ty
    let a := (s.readInt l .sa h.sa m.ty % 2 ^ n).toNat
    let c := (s.readInt l .sc h.sc m.ty % 2 ^ n).toNat
    .done (t.writeInt l h.dst m.ty (readAs m.ty (f n a (s.readReg l .sb h.sb).toNat c)) (some 2))))
/-- A bit-pattern immediate form; the immediate stands for the 32-bit B (R140). -/
def bitImm (h : Head) (m : ImmMod) (f : Nat → Nat → Nat → Nat → Nat) (s : State) : Outcome State Fault Refusal :=
  .next (s.runLanes h (fun t l =>
    let n := width m.ty
    let a := (s.readInt l .sa h.sa m.ty % 2 ^ n).toNat
    let c := (s.readInt l .sc h.sc m.ty % 2 ^ n).toNat
    .done (t.writeInt l h.dst m.ty (readAs m.ty (f n a m.imm.toNat c)) (some 2))))
/-- A logic register form: both operands at the type's width (R147). -/
def logicReg (h : Head) (m : IntMod) (f : BitVec 64 → BitVec 64 → BitVec 64) (s : State) : Outcome State Fault Refusal :=
  intReg h m (some 2) (fun a b _ => (f (BitVec.ofInt 64 a) (BitVec.ofInt 64 b)).toInt) s
/-- A logic immediate form (R147, R140). -/
def logicImm (h : Head) (m : ImmMod) (f : BitVec 64 → BitVec 64 → BitVec 64) (s : State) : Outcome State Fault Refusal :=
  intImm h m (some 2) (fun a b _ => (f (BitVec.ofInt 64 a) (BitVec.ofInt 64 b)).toInt) s
/-- A count of A's bits into one 32-bit register (R147). -/
def countReg (h : Head) (m : IntMod) (f : Nat → Nat → Nat) (s : State) : Outcome State Fault Refusal :=
  .next (s.runLanes h (fun t l =>
    let a := (s.readInt l .sa h.sa m.ty % 2 ^ width m.ty).toNat
    .done (t.result32 l h.dst (BitVec.ofNat 32 (f (width m.ty) a)) (some 2))))
/-- Two predicates into one (R151). -/
def predOp (h : Head) (f : Bool → Bool → Bool) (s : State) : Outcome State Fault Refusal :=
  .next (s.runLanes h (fun t l => .done (t.writePred l h.dst.pred
    (f (s.readPred l .sa h.sa.pred) (s.readPred l .sb h.sb.pred)) (some 2))))

/-- The quotient of R145. -/
def divide (ty : IType) (a b : Int) : Int :=
  if b = 0 then (if 0 ≤ a then maxV ty else minV ty)
  else if signed ty && a = minV ty && b = -1 then minV ty
  else a.tdiv b
/-- The remainder of R145. -/
def remainder (ty : IType) (a b : Int) : Int :=
  if b = 0 then a
  else if signed ty && a = minV ty && b = -1 then 0
  else a - a.tdiv b * b
/-- The upper half of the 2N-bit product (R144). -/
def mulHigh (ty : IType) (a b : Int) : Int := (a * b) / (2 ^ width ty : Nat)
/-- Shift left (R147). -/
def shiftLeft (n a b : Nat) : Nat := let c := b % 256; if n ≤ c then 0 else a * 2 ^ c % 2 ^ n
/-- Logical shift right (R147). -/
def shiftRight (n a b : Nat) : Nat := let c := b % 256; if n ≤ c then 0 else a / 2 ^ c
/-- Arithmetic shift right (R147). -/
def shiftArith (n a b : Nat) : Nat :=
  let c := b % 256
  if n ≤ c then fillBit n (bitAt a (n - 1)) else wrap n (toSigned n a / (2 ^ c : Nat))
/-- Rotate left by the count mod N (R147). -/
def rotateLeft (n a b : Nat) : Nat := let c := b % 256 % n; (a * 2 ^ c + a / 2 ^ (n - c)) % 2 ^ n
/-- Funnel shift (R147). -/
def funnel (n a b c : Nat) : Nat := let k := b % 256 % n; (a * 2 ^ n + c) * 2 ^ k / 2 ^ n % 2 ^ n
/-- Bit-field extract (R148). -/
def fieldExtract (ty : IType) (n a b : Nat) : Nat :=
  let pos := b % 256
  let len := b / 256 % 256
  if len = 0 || n ≤ pos then 0
  else
    let w := min len (n - pos)
    let f := a / 2 ^ pos % 2 ^ w
    if signed ty then wrap n (toSigned w f) else f
/-- Bit-field insert (R148). -/
def fieldInsert (n a b c : Nat) : Nat :=
  let pos := b % 256
  let len := b / 256 % 256
  if len = 0 || n ≤ pos then c else insertBits c a pos (min len (n - pos)) % 2 ^ n
/-- Byte permute (R149). -/
def bytePermute (a b c : Nat) : Nat :=
  let src := a + c * 2 ^ 32
  let byte := fun i => let sel := b / 16 ^ i % 16
    if 8 ≤ sel then 0 else src / 256 ^ sel % 256
  byte 0 + 256 * byte 1 + 65536 * byte 2 + 16777216 * byte 3
/-- A compared with B (R119, R150). -/
def condHolds : Cond → Int → Int → Bool
  | .eq, a, b => a == b | .ne, a, b => a != b | .lt, a, b => decide (a < b)
  | .le, a, b => decide (a ≤ b) | .gt, a, b => decide (b < a) | .ge, a, b => decide (b ≤ a)
/-- The ITYPE of a CTYPE (R118). -/
def ctypeOf : CType → IType
  | .s32 => .s32 | .n32 => .n32 | .s64 => .s64 | .n64 => .n64

/-- MOV (R144). -/
def execMov (h : Head) (m : IntMod) (s : State) : Outcome State Fault Refusal :=
  intReg h m (some 2) (fun a _ _ => a) s
/-- MOVI (R144). -/
def execMovi (h : Head) (m : ImmMod) (s : State) : Outcome State Fault Refusal :=
  intImm h m (some 2) (fun _ b _ => b) s
/-- MOVHI (R144): the immediate goes to the odd register; the whole pair is the result under R21. -/
def execMovhi (h : Head) (m : ImmMod) (s : State) : Outcome State Fault Refusal :=
  .next (s.runLanes h (fun t l =>
    let even := s.readReg l .dst h.dst
    let t := t.writeName l (regName h.dst.file (h.dst.idx + 1)) m.imm (some 2)
    .done (t.modFibre l (fun f => f.setLast t.now (pairOf even m.imm) (some 2) t.seq))))
/-- ADD (R144). -/
def execAdd (h : Head) (m : IntMod) (s : State) : Outcome State Fault Refusal :=
  intReg h m (some 2) (fun a b _ => a + b) s
/-- ADD, immediate form (R144). -/
def execAddImm (h : Head) (m : ImmMod) (s : State) : Outcome State Fault Refusal :=
  intImm h m (some 2) (fun a b _ => a + b) s
/-- SUB (R144). -/
def execSub (h : Head) (m : IntMod) (s : State) : Outcome State Fault Refusal :=
  intReg h m (some 2) (fun a b _ => a - b) s
/-- SUB, immediate form (R144). -/
def execSubImm (h : Head) (m : ImmMod) (s : State) : Outcome State Fault Refusal :=
  intImm h m (some 2) (fun a b _ => a - b) s
/-- MUL (R144). -/
def execMul (h : Head) (m : IntMod) (s : State) : Outcome State Fault Refusal :=
  intReg h m (some 4) (fun a b _ => a * b) s
/-- MUL, immediate form (R144). -/
def execMulImm (h : Head) (m : ImmMod) (s : State) : Outcome State Fault Refusal :=
  intImm h m (some 4) (fun a b _ => a * b) s
/-- MULHI (R144). -/
def execMulhi (h : Head) (m : IntMod) (s : State) : Outcome State Fault Refusal :=
  intReg h m (some 4) (fun a b _ => mulHigh m.ty a b) s
/-- MULHI, immediate form (R144). -/
def execMulhiImm (h : Head) (m : ImmMod) (s : State) : Outcome State Fault Refusal :=
  intImm h m (some 4) (fun a b _ => mulHigh m.ty a b) s
/-- MAD (R144). -/
def execMad (h : Head) (m : IntMod) (s : State) : Outcome State Fault Refusal :=
  intReg h m (some 4) (fun a b c => a * b + c) s
/-- MAD, immediate form (R144). -/
def execMadImm (h : Head) (m : ImmMod) (s : State) : Outcome State Fault Refusal :=
  intImm h m (some 4) (fun a b c => a * b + c) s
/-- MADW (R144): a 32-bit product and a 64-bit addend of the same signedness, into a pair modulo 2^64. -/
def execMadw (h : Head) (m : IntMod) (s : State) : Outcome State Fault Refusal :=
  .next (s.runLanes h (fun t l => .done (t.result64 l h.dst (BitVec.ofInt 64
    (s.readInt l .sa h.sa m.ty * s.readInt l .sb h.sb m.ty + s.readInt l .sc h.sc (wide64 m.ty))) (some 4))))
/-- MADW, immediate form (R144). -/
def execMadwImm (h : Head) (m : ImmMod) (s : State) : Outcome State Fault Refusal :=
  .next (s.runLanes h (fun t l => .done (t.result64 l h.dst (BitVec.ofInt 64
    (s.readInt l .sa h.sa m.ty * immAs m.ty m.imm + s.readInt l .sc h.sc (wide64 m.ty))) (some 4))))
/-- DIV (R145). -/
def execDiv (h : Head) (m : IntMod) (s : State) : Outcome State Fault Refusal :=
  intReg h m none (fun a b _ => divide m.ty a b) s
/-- DIV, immediate form (R145). -/
def execDivImm (h : Head) (m : ImmMod) (s : State) : Outcome State Fault Refusal :=
  intImm h m none (fun a b _ => divide m.ty a b) s
/-- REM (R145). -/
def execRem (h : Head) (m : IntMod) (s : State) : Outcome State Fault Refusal :=
  intReg h m none (fun a b _ => remainder m.ty a b) s
/-- REM, immediate form (R145). -/
def execRemImm (h : Head) (m : ImmMod) (s : State) : Outcome State Fault Refusal :=
  intImm h m none (fun a b _ => remainder m.ty a b) s
/-- ABS (R144). -/
def execAbs (h : Head) (m : IntMod) (s : State) : Outcome State Fault Refusal :=
  intReg h m (some 2) (fun a _ _ => a.natAbs) s
/-- NEG (R144). -/
def execNeg (h : Head) (m : IntMod) (s : State) : Outcome State Fault Refusal :=
  intReg h m (some 2) (fun a _ _ => -a) s
/-- MIN (R144). -/
def execMin (h : Head) (m : IntMod) (s : State) : Outcome State Fault Refusal :=
  intReg h m (some 2) (fun a b _ => min a b) s
/-- MIN, immediate form (R144). -/
def execMinImm (h : Head) (m : ImmMod) (s : State) : Outcome State Fault Refusal :=
  intImm h m (some 2) (fun a b _ => min a b) s
/-- MAX (R144). -/
def execMax (h : Head) (m : IntMod) (s : State) : Outcome State Fault Refusal :=
  intReg h m (some 2) (fun a b _ => max a b) s
/-- MAX, immediate form (R144). -/
def execMaxImm (h : Head) (m : ImmMod) (s : State) : Outcome State Fault Refusal :=
  intImm h m (some 2) (fun a b _ => max a b) s
/-- CLAMP (R144): where B > C the result is C. -/
def execClamp (h : Head) (m : IntMod) (s : State) : Outcome State Fault Refusal :=
  intReg h m (some 2) (fun a b c => min (max a b) c) s
/-- AND (R147). -/
def execAnd (h : Head) (m : IntMod) (s : State) : Outcome State Fault Refusal :=
  logicReg h m (fun a b => a &&& b) s
/-- AND, immediate form (R147). -/
def execAndImm (h : Head) (m : ImmMod) (s : State) : Outcome State Fault Refusal :=
  logicImm h m (fun a b => a &&& b) s
/-- OR (R147). -/
def execOr (h : Head) (m : IntMod) (s : State) : Outcome State Fault Refusal :=
  logicReg h m (fun a b => a ||| b) s
/-- OR, immediate form (R147). -/
def execOrImm (h : Head) (m : ImmMod) (s : State) : Outcome State Fault Refusal :=
  logicImm h m (fun a b => a ||| b) s
/-- XOR (R147). -/
def execXor (h : Head) (m : IntMod) (s : State) : Outcome State Fault Refusal :=
  logicReg h m (fun a b => a ^^^ b) s
/-- XOR, immediate form (R147). -/
def execXorImm (h : Head) (m : ImmMod) (s : State) : Outcome State Fault Refusal :=
  logicImm h m (fun a b => a ^^^ b) s
/-- ANDN (R147). -/
def execAndn (h : Head) (m : IntMod) (s : State) : Outcome State Fault Refusal :=
  logicReg h m (fun a b => a &&& ~~~ b) s
/-- ANDN, immediate form (R147). -/
def execAndnImm (h : Head) (m : ImmMod) (s : State) : Outcome State Fault Refusal :=
  logicImm h m (fun a b => a &&& ~~~ b) s
/-- ORN (R147). -/
def execOrn (h : Head) (m : IntMod) (s : State) : Outcome State Fault Refusal :=
  logicReg h m (fun a b => a ||| ~~~ b) s
/-- ORN, immediate form (R147). -/
def execOrnImm (h : Head) (m : ImmMod) (s : State) : Outcome State Fault Refusal :=
  logicImm h m (fun a b => a ||| ~~~ b) s
/-- SHL (R147). -/
def execShl (h : Head) (m : IntMod) (s : State) : Outcome State Fault Refusal :=
  bitReg h m (fun n a b _ => shiftLeft n a b) s
/-- SHL, immediate form (R147); the count is IMM[7:0] (R140). -/
def execShlImm (h : Head) (m : ImmMod) (s : State) : Outcome State Fault Refusal :=
  bitImm h m (fun n a b _ => shiftLeft n a b) s
/-- SHR (R147). -/
def execShr (h : Head) (m : IntMod) (s : State) : Outcome State Fault Refusal :=
  bitReg h m (fun n a b _ => shiftRight n a b) s
/-- SHR, immediate form (R147); the count is IMM[7:0] (R140). -/
def execShrImm (h : Head) (m : ImmMod) (s : State) : Outcome State Fault Refusal :=
  bitImm h m (fun n a b _ => shiftRight n a b) s
/-- SAR (R147). -/
def execSar (h : Head) (m : IntMod) (s : State) : Outcome State Fault Refusal :=
  bitReg h m (fun n a b _ => shiftArith n a b) s
/-- SAR, immediate form (R147); the count is IMM[7:0] (R140). -/
def execSarImm (h : Head) (m : ImmMod) (s : State) : Outcome State Fault Refusal :=
  bitImm h m (fun n a b _ => shiftArith n a b) s
/-- ROTL (R147). -/
def execRotl (h : Head) (m : IntMod) (s : State) : Outcome State Fault Refusal :=
  bitReg h m (fun n a b _ => rotateLeft n a b) s
/-- ROTL, immediate form (R147); the count is IMM[7:0] (R140). -/
def execRotlImm (h : Head) (m : ImmMod) (s : State) : Outcome State Fault Refusal :=
  bitImm h m (fun n a b _ => rotateLeft n a b) s
/-- FSHL (R147). -/
def execFshl (h : Head) (m : IntMod) (s : State) : Outcome State Fault Refusal :=
  bitReg h m funnel s
/-- FSHL, immediate form (R147). -/
def execFshlImm (h : Head) (m : ImmMod) (s : State) : Outcome State Fault Refusal :=
  bitImm h m funnel s
/-- BFX (R148). -/
def execBfx (h : Head) (m : IntMod) (s : State) : Outcome State Fault Refusal :=
  bitReg h m (fun n a b _ => fieldExtract m.ty n a b) s
/-- BFX, immediate form (R148). -/
def execBfxImm (h : Head) (m : ImmMod) (s : State) : Outcome State Fault Refusal :=
  bitImm h m (fun n a b _ => fieldExtract m.ty n a b) s
/-- BFI (R148). -/
def execBfi (h : Head) (m : IntMod) (s : State) : Outcome State Fault Refusal :=
  bitReg h m fieldInsert s
/-- BFI, immediate form (R148). -/
def execBfiImm (h : Head) (m : ImmMod) (s : State) : Outcome State Fault Refusal :=
  bitImm h m fieldInsert s
/-- BREV (R147). -/
def execBrev (h : Head) (m : IntMod) (s : State) : Outcome State Fault Refusal :=
  bitReg h m (fun n a _ _ => reverseBits n a) s
/-- POPC (R147). -/
def execPopc (h : Head) (m : IntMod) (s : State) : Outcome State Fault Refusal :=
  countReg h m popcount s
/-- CLZ (R147). -/
def execClz (h : Head) (m : IntMod) (s : State) : Outcome State Fault Refusal :=
  countReg h m leadingZeros s
/-- CTZ (R147). -/
def execCtz (h : Head) (m : IntMod) (s : State) : Outcome State Fault Refusal :=
  countReg h m trailingZeros s
/-- BYTEP (R149). -/
def execBytep (h : Head) (m : IntMod) (s : State) : Outcome State Fault Refusal :=
  bitReg h m (fun _ a b c => bytePermute a b c) s
/-- BYTEP, immediate form (R149); the selector is IMM[15:0] (R140). -/
def execBytepImm (h : Head) (m : ImmMod) (s : State) : Outcome State Fault Refusal :=
  bitImm h m (fun _ a b c => bytePermute a b c) s
/-- SEL (R151). -/
def execSel (h : Head) (m : IntMod) (s : State) : Outcome State Fault Refusal :=
  .next (s.runLanes h (fun t l => .done (t.writeInt l h.dst m.ty
    (if s.predIn l m.pred m.pinv then s.readInt l .sa h.sa m.ty else s.readInt l .sb h.sb m.ty) (some 2))))
/-- CMP (R150); PRED = 0 with PINV = 0 leaves t, since p0 reads true. -/
def execCmp (h : Head) (m : IntMod) (s : State) : Outcome State Fault Refusal :=
  .next (s.runLanes h (fun t l => .done (t.writePred l h.dst.pred
    (condHolds m.cond (s.readInt l .sa h.sa m.ty) (s.readInt l .sb h.sb m.ty) && s.predIn l m.pred m.pinv) (some 2))))
/-- CMP, immediate form (R150). -/
def execCmpImm (h : Head) (m : CmpImmMod) (s : State) : Outcome State Fault Refusal :=
  .next (s.runLanes h (fun t l => .done (t.writePred l h.dst.pred
    (condHolds m.cond (s.readInt l .sa h.sa (ctypeOf m.ty)) (immAs (ctypeOf m.ty) m.imm)) (some 2))))
/-- The carry-in of R146: 0 where PRED = 0. -/
def State.carryIn (s : State) (l : Lane) (m : IntMod) : Nat :=
  if m.pred = 0 then 0 else if s.predIn l m.pred m.pinv then 1 else 0
/-- ADDC (R146). -/
def execAddc (h : Head) (m : IntMod) (s : State) : Outcome State Fault Refusal :=
  .next (s.runLanes h (fun t l =>
    let x := (s.readReg l .sa h.sa).toNat + (s.readReg l .sb h.sb).toNat + s.carryIn l m
    .done ((t.result32 l h.dst (BitVec.ofNat 32 x) (some 2)).writePred l h.sc.pred (decide (2 ^ 32 ≤ x)) (some 2))))
/-- SUBB (R146). -/
def execSubb (h : Head) (m : IntMod) (s : State) : Outcome State Fault Refusal :=
  .next (s.runLanes h (fun t l =>
    let x : Int := (s.readReg l .sa h.sa).toNat - (s.readReg l .sb h.sb).toNat - s.carryIn l m
    .done ((t.result32 l h.dst (BitVec.ofInt 32 x) (some 2)).writePred l h.sc.pred (decide (x < 0)) (some 2))))
/-- PAND (R151). -/
def execPand (h : Head) (_m : IntMod) (s : State) : Outcome State Fault Refusal := predOp h (fun a b => a && b) s
/-- POR (R151). -/
def execPor (h : Head) (_m : IntMod) (s : State) : Outcome State Fault Refusal := predOp h (fun a b => a || b) s
/-- PXOR (R151). -/
def execPxor (h : Head) (_m : IntMod) (s : State) : Outcome State Fault Refusal := predOp h (fun a b => a != b) s
/-- PNOT (R151). -/
def execPnot (h : Head) (_m : IntMod) (s : State) : Outcome State Fault Refusal := predOp h (fun a _ => !a) s
/-- The index of a LEA: 32 bits, sign- or zero-extended, for .s32 and .n32, and a pair otherwise (R152). -/
def State.leaSum (s : State) (l : Lane) (h : Head) (ty : IType) (stride : Nat) : Dword :=
  BitVec.ofInt 64 ((s.readPair l .sa h.sa).toNat + s.readInt l .sc h.sc ty * stride)
/-- LEA (R152). -/
def execLea (h : Head) (m : IntMod) (s : State) : Outcome State Fault Refusal :=
  .next (s.runLanes h (fun t l =>
    .done (t.result64 l h.dst (s.leaSum l h m.ty (s.readReg l .sb h.sb).toNat) (some 2))))
/-- LEA, immediate form (R152, R140). -/
def execLeaImm (h : Head) (m : ImmMod) (s : State) : Outcome State Fault Refusal :=
  .next (s.runLanes h (fun t l => .done (t.result64 l h.dst (s.leaSum l h m.ty m.imm.toNat) (some 2))))

end Sys2Proof.Machine
end

