-- ==== Sys2Proof/Machine/Translate.lean ====
section
/-! DEFINITION. Both translations: range registers (R353), the home package and its partition (R356, R357), the page walk
(R358, R359, R361) and the page check (R360), and the physical place that a leaf names (R359, R368, R375). -/

namespace Sys2Proof.Machine

/-- Access kinds (R195). -/
inductive Acc where
  | read | write | exec
  deriving DecidableEq, Repr

/-- The PERM or leaf bit number of a kind: 0 read, 1 write, 2 execute. -/
def Acc.num : Acc → Nat
  | .read => 0 | .write => 1 | .exec => 2
/-- The PERM bit of a level and a kind (R353, R354). -/
def permBit (level : Level) (k : Acc) : Nat := (if level = .user then 1 else 4) + k.num
/-- True when a valid range covers an address (R353). -/
def Range.covers (r : Range) (va : Nat) : Bool :=
  r.perm.getLsbD 0 && decide (r.base ≤ bits va 55 16) && decide (bits va 55 16 ≤ r.lim)
/-- Translate's range step over some range registers (R353): the intermediate address, or the cause. -/
def rangeIn (ranges : List Range) (level : Level) (k : Acc) (va : Nat) : Except Cause.Code Nat :=
  match ranges.find? (·.covers va) with
  | none => .error Cause.rangeMiss
  | some r =>
    if r.perm.getLsbD (permBit level k) then .ok ((va + r.off * 65536) % 2 ^ 60) else .error Cause.rangePerm
/-- Translate's range step with a partition's range registers as they stand (R353, R355). -/
def State.rangeCheck (s : State) (part : Nat) (level : Level) (k : Acc) (va : Nat) : Except Cause.Code Nat :=
  rangeIn (s.partAt part).ranges level k va

/-- The home package of an intermediate address (R356). -/
def homePkg (ia : Nat) : Nat := ia / 2 ^ 52 % 256
/-- The package-local offset of an intermediate address (R356). -/
def iaOff (ia : Nat) : Nat := ia % 2 ^ 52
/-- The partition of the home package that translates a request (R357): its own at home, else the lowest-numbered one whose
$PODTAG is enabled and equal in TAG. -/
def State.homePart (s : State) (part ia : Nat) : Option Nat :=
  let h := homePkg ia
  if h = part / 96 then some part
  else
    let tag := (s.partAt part).podtag.toNat % 256
    ((List.range 96).find? (fun q =>
      let t := (s.partAt (96 * h + q)).podtag
      t.getLsbD 8 && decide (t.toNat % 256 = tag))).map (96 * h + ·)

/-- The key of a physical byte: the store (1 local HBM, 3 attached CXL memory, 4 host memory), the package, the address. -/
def physKey (store pkg pa : Nat) : Nat := (store * 256 + pkg) * 2 ^ 52 + pa % 2 ^ 52
/-- Eight bytes read at the system point of a package's HBM (R361). -/
def State.readEntry (s : State) (pkg pa : Nat) : Nat := ofBytes (Memory.read s.mem (physKey 1 pkg pa) 8)

/-- What a page walk finds (R359, R360). -/
inductive Walk where
  | leaf (entry addr level : Nat)
  | absent | invalid | format
  deriving DecidableEq, Repr
/-- The low bit of a level's index in the offset (R358). -/
def levelShift (level : Nat) : Nat := if level = 0 then 16 else if level = 1 then 21 else if level = 2 then 30 else 39
/-- The index of a level (R358). -/
def levelIndex (level off : Nat) : Nat :=
  if level = 0 then bits off 20 16 else if level = 1 then bits off 29 21 else if level = 2 then bits off 38 30
  else bits off 51 39
/-- True when a leaf at a level breaks R359. -/
def leafBad (level e : Nat) : Bool :=
  let tier := bits e 18 16
  level == 3 || tier == 0 || decide (5 ≤ tier) || (tier != 2 && bits e 27 20 != 0) ||
    (bits e 63 28 * 65536 % 2 ^ levelShift level != 0)
/-- The walk below a table of a level, n more levels being allowed (R358, R359). -/
def State.walkFrom (s : State) (pkg off : Nat) : Nat → Nat → Nat → Walk
  | 0, _, _ => .format
  | n + 1, level, table =>
    let addr := table + 8 * levelIndex level off
    let e := s.readEntry pkg addr
    if e % 2 = 0 then (match bits e 2 1 with | 0 => .absent | 1 => .invalid | _ => .format)
    else if bitAt e 1 then (if leafBad level e then .format else .leaf e addr level)
    else if level = 0 || bits e 27 2 != 0 then .format
    else s.walkFrom pkg off n (level - 1) (bits e 63 28 * 65536)
/-- The walk of an offset for a partition of the home package (R358). -/
def State.walk (s : State) (part off : Nat) : Walk :=
  s.walkFrom (part / 96) off 4 3 ((s.partAt part).ptroot.toNat % 2 ^ 52 / 65536 * 65536)
/-- The slice that the published index hash gives for an intermediate address (R386): it is the line's home agent (R356). -/
def sliceOf (ia : Nat) : Nat :=
  (List.range 8).foldl (fun x i => x ^^^ (bits ia 59 7 / 2 ^ (7 * i) % 128)) 0
/-- The walk a request meets: a leaf cached by its home agent, or a fresh walk; where they differ, either (R361, R362; log 2). -/
def State.lookup (s : State) (part off : Nat) : Walk :=
  let fresh := s.walk part off
  match (s.pkgAt (part / 96)).tlb.find? (fun c => c.part = part && c.page = off / 65536 && c.agent = sliceOf (part / 96 * 2 ^ 52 + off)) with
  | some c =>
    let cached := Walk.leaf c.entry c.addr c.level
    if cached = fresh then fresh else if Config.freeBit s.freeCtr part (off / 65536) then cached else fresh
  | none => fresh

/-- The physical address that a leaf gives an offset (R359). -/
def leafPhys (e level off : Nat) : Nat := bits e 63 28 * 65536 + off % 2 ^ levelShift level
/-- Where a request's bytes lie, or why it cannot reach them. -/
inductive PageRes where
  | place (key : Nat)
  | absent
  | held
  | fail (cause : Cause.Code)
  deriving DecidableEq, Repr
/-- The base of the fabric register block, and of the colophon after it (R410, R419). -/
def blockBase : Nat := 0x000FFF0000000000
/-- True when a physical address of HBM lies in the register block or the colophon (R410, R419). -/
def inBlock (pa : Nat) : Bool := decide (blockBase ≤ pa) && decide (pa < blockBase + 131072)
/-- True when a lease's window holds a physical address of the lender. -/
def Lease.holds (x : Lease) (pa : Nat) : Bool := decide (x.window ≤ pa) && decide (pa < x.window + x.nreg * 2 ^ 30)
/-- The place of a tier-2 page (R373, R375, R376): the lender's memory, the spill area after the lease was revoked, or gone once the
borrower's record is closed. A request is held while the window spills, and the lender refuses any package but the one it lends to. -/
def State.lentPlace (s : State) (request : Bool) (home lender pa : Nat) : PageRes :=
  match (s.pkgAt home).leases.find? (fun x => x.role = 1 && x.peer = lender && x.holds pa && decide (2 ≤ x.state)) with
  | none =>
    if (s.pkgAt lender).leases.any (fun y => y.role = 0 && y.peer ≠ home && y.holds pa && decide (2 ≤ y.state) && decide (y.state ≤ 4)) then
      .fail Cause.pagePerm
    else .fail Cause.leaseGone
  | some x =>
    match (s.pkgAt lender).leases.find? (fun y => y.role = 0 && y.peer = home && y.lid = x.lid && y.holds pa && decide (2 ≤ y.state)) with
    | some y =>
      if x.state = 5 || y.state = 5 then .place (physKey x.sptier home (x.spill + (pa - x.window)))
      else if (x.state = 4 || y.state = 4) && request then .held
      else .place (physKey 1 lender pa)
    | none => if x.state = 5 then .place (physKey x.sptier home (x.spill + (pa - x.window))) else .fail Cause.pagePerm
/-- True when a leaf denies a kind at a level (R360). -/
def leafDenies (level : Level) (k : Option Acc) (e : Nat) : Bool :=
  match k with
  | some k => !bitAt e (2 + k.num) || (level = .user && !bitAt e 5)
  | none => false
/-- The place that a leaf names, after the channel check and, where a level and kind are given, the permission check
(R360). -/
def State.leafCheck (s : State) (part : Nat) (level : Level) (k : Option Acc) (e lvl off : Nat) : PageRes :=
  let pa := leafPhys e lvl off
  let tier := bits e 18 16
  if tier = 1 && !(s.partAt part).pchan.getLsbD (bits pa 21 16) then .fail Cause.chanMask
  else if leafDenies level k e || (tier = 1 && inBlock pa) then .fail Cause.pagePerm
  else if bitAt e 19 && k.isSome then .held
  else if tier = 2 then s.lentPlace k.isSome (part / 96) (bits e 27 20) pa
  else .place (physKey tier (part / 96) pa)
/-- The package and offset of a register-block or colophon byte that a request reaches through a tier-1 leaf which grants its
kind (R410). -/
def State.blockAt (s : State) (part : Nat) (level : Level) (k : Acc) (ia : Nat) : Option (Nat × Nat) :=
  match s.homePart part ia with
  | none => none
  | some hp =>
    match s.lookup hp (iaOff ia) with
    | .leaf e _ lvl =>
      let pa := leafPhys e lvl (iaOff ia)
      if bits e 18 16 = 1 && inBlock pa && !leafDenies level (some k) e && (s.partAt hp).pchan.getLsbD (bits pa 21 16) then
        some (hp / 96, pa - blockBase) else none
    | _ => none
/-- The page-grain check of a request at its home agent (R357, R360). -/
def State.pageCheck (s : State) (part : Nat) (level : Level) (k : Option Acc) (ia : Nat) : PageRes :=
  match s.homePart part ia with
  | none => .fail Cause.pagePerm
  | some hp =>
    match s.lookup hp (iaOff ia) with
    | .leaf e _ lvl => s.leafCheck hp level k e lvl (iaOff ia)
    | .absent => .absent
    | .invalid => .fail Cause.pageFault
    | .format => .fail Cause.pteFormat
/-- Both steps for one address: the intermediate address and the place, or the precise cause (R193 steps 4 and 5). An absent
page is PAGE_FAULT for the accesses that do not park (R360). -/
def State.preciseCheck (s : State) (part : Nat) (level : Level) (k : Acc) (va : Nat) : Except Cause.Code Nat :=
  match s.rangeCheck part level k va with
  | .error c => .error c
  | .ok ia =>
    match s.pageCheck part level (some k) ia with
    | .place _ => .ok ia
    | .held => .ok ia
    | .absent => .error Cause.pageFault
    | .fail c => .error c

end Sys2Proof.Machine
end

