-- ==== Sys2Proof/Machine/Cache.lean ====
section
/-! DEFINITION. The parts of the ordering machine (R286 to R288) as operations on bytes: L1 and LLC bytes, the ownership
registries, the memory-side caches of the switches, registering, drawing in, writing back, and the value at a scope point. -/

namespace Sys2Proof.Machine

/-- The package of a core. -/
def corePkg (c : Nat) : Nat := c / Config.coresPerPkg
/-- Two byte ranges share a byte. -/
def overlaps (a n b m : Nat) : Bool := decide (a < b + m) && decide (b < a + n)
/-- The wider of two points. -/
def maxPt (a b : Point) : Point := if a.num < b.num then b else a
/-- True for the pod and system points. -/
def Point.wide (p : Point) : Bool := decide (Point.pod.num ≤ p.num)
/-- The page of an intermediate address (R358). -/
def pageOf (ia : Nat) : Nat := ia / 65536
/-- The first byte address of the word that holds a byte. -/
def wordOf (ia : Nat) : Nat := ia / 4 * 4

/-- The address space of an intermediate address: the home's partition, or the requester's own name where none matches. -/
def State.space (s : State) (part ia : Nat) : Nat := (s.homePart part ia).getD (24576 + part)
/-- The byte of a cache at an address of a space. -/
def findByte (l : List CByte) (sp ia : Nat) : Option CByte := l.find? (fun c => c.sp = sp && c.ia = ia)
/-- A byte put into a cache. -/
def putByte (l : List CByte) (c : CByte) : List CByte := c :: l.filter (fun d => !(d.sp = c.sp && d.ia = c.ia))
/-- A byte taken out of a cache: it is invalid. -/
def dropByte (l : List CByte) (sp ia : Nat) : List CByte := l.filter (fun d => !(d.sp = sp && d.ia = ia))
/-- A byte's state changed. -/
def markByte (l : List CByte) (sp ia : Nat) (g : CByte → CByte) : List CByte :=
  l.map (fun d => if d.sp = sp && d.ia = ia then g d else d)
/-- The bytes of a range that are not owned taken out of a cache. -/
def dropCopies (l : List CByte) (sp ia n : Nat) : List CByte :=
  l.filter (fun d => d.st = .owned || !(d.sp = sp && decide (ia ≤ d.ia) && decide (d.ia < ia + n)))
/-- True for an owned byte. -/
def CByte.isOwned (b : CByte) : Bool := b.st = .owned
/-- A copy that a later registration has superseded (R288). -/
def CByte.older (b : CByte) : CByte := { b with st := .stale, wr := [] }
/-- A copy whose value has gone up to the next point, as it stands there under a number (R289). -/
def CByte.passed (b : CByte) (ver : Nat) : CByte := { b with st := .valid, wr := [], ver := ver }
/-- Copies that one step gave, beside owned bytes: what an access may return together (R200). -/
def coherent (l : List CByte) : Bool :=
  match l.find? (fun b => b.st ≠ .owned) with
  | some x => l.all (fun b => b.st = .owned || b.ver = x.ver)
  | none => true
/-- True when a byte lies in a range of a space. -/
def CByte.within (b : CByte) (sp ia n : Nat) : Bool := b.sp = sp && decide (ia ≤ b.ia) && decide (b.ia < ia + n)

/-- True when a core has a registration of the byte on its way (R288). -/
def State.awaiting (s : State) (core sp ia : Nat) : Bool :=
  s.regs.any (fun r => r.entry.core = core && r.entry.sp = sp && !r.registered &&
    decide (r.entry.ia ≤ ia) && decide (ia < r.entry.ia + r.entry.bytes.length))
/-- True when a core of a package has a registration of the byte on its way to its home. -/
def State.awaitingHome (s : State) (p sp ia : Nat) : Bool :=
  s.regs.any (fun r => corePkg r.entry.core = p && r.entry.pt.wide && r.entry.sp = sp && !r.registered &&
    decide (r.entry.ia ≤ ia) && decide (ia < r.entry.ia + r.entry.bytes.length))

/-- The byte in memory behind the home agent, where its page is present: read without permission, through the leaf that its home agent
uses (R358, R362). -/
def State.sysKey (s : State) (sp ia : Nat) : Option Nat :=
  match s.lookup sp (iaOff ia) with
  | .leaf e _ lvl =>
    match s.leafCheck sp .monitor none e lvl (iaOff ia) with
    | .place k => some k
    | _ => none
  | _ => none
/-- A request for the line of a byte in local HBM, to its channel group's controller (R388), or in tier 3 or 4, kept under the group 64
(R392), unless it is the last one made. -/
def State.hbmNote (s : State) (sp ia : Nat) (write : Bool) : State :=
  match s.sysKey sp ia with
  | some k =>
    let r : HbmReq := ⟨k / 2 ^ 52 % 256, if k / 2 ^ 60 = 1 then bits k 21 16 else 64, k / 128, sp, write⟩
    if s.hbm.getLast? = some r then s else { s with hbm := s.hbm ++ [r] }
  | none => s
/-- The value at the system point, which is memory itself (R287); a page that is gone reads zero. -/
def State.sysByte (s : State) (sp ia : Nat) : Byte :=
  match s.sysKey sp ia with
  | some k => Memory.byte s.mem k
  | none => 0
/-- True when the memory of a home's byte lies behind the switches, in another package's HBM (R368): its line passes a memory-side cache
(log 12). -/
def farKey (h k : Nat) : Bool := k / 2 ^ 60 = 1 && k / 2 ^ 52 % 256 ≠ h
/-- A byte written into memory at the system point. -/
def State.writeSys (s : State) (sp ia : Nat) (v : Byte) : State :=
  match s.sysKey sp ia with
  | some k => { s with mem := Memory.set s.mem k v, memCache := dropByte s.memCache sp ia }.hbmNote sp ia true
  | none => s

/-- The point at which a cache's byte is registered. -/
def ownPt (l : List CByte) (sp ia : Nat) : Point :=
  match findByte l sp ia with
  | some b => if b.isOwned then b.pt else .core
  | none => .core
/-- The widest registration of a byte that a package's caches hold (R286). -/
def State.pkgPt (s : State) (p sp ia : Nat) : Point :=
  s.cores.foldl (fun acc kc => if corePkg kc.1 = p then maxPt acc (ownPt kc.2.l1 sp ia) else acc) (ownPt (s.pkgAt p).llc sp ia)
/-- The core of a package whose L1 the registry at the package's point names as the owner of a byte, with the byte. -/
def State.coreOwner (s : State) (p sp ia : Nat) : Option (Nat × CByte) :=
  s.cores.findSome? (fun kc =>
    if corePkg kc.1 = p then
      match findByte kc.2.l1 sp ia with
      | some b => if b.st = .owned && b.pt ≠ .core then some (kc.1, b) else none
      | none => none
    else none)
/-- The cache outside the home that the registry at the home names as the owner of a byte: its package, its core where it is an L1,
and the byte. -/
def State.farOwner (s : State) (h sp ia : Nat) : Option (Nat × Option Nat × CByte) :=
  let mine := fun (l : List CByte) => match findByte l sp ia with
    | some b => if b.isOwned && b.pt.wide then some b else none
    | none => none
  match s.cores.findSome? (fun kc => if corePkg kc.1 = h then none else (mine kc.2.l1).map (fun b => (corePkg kc.1, some kc.1, b))) with
  | some x => some x
  | none => s.pkgs.findSome? (fun kp => if kp.1 = h then none else (mine kp.2.llc).map (fun b => (kp.1, none, b)))
/-- A registration made at a point for a package (or, with none, by the host or an agent at the system point): every other copy below the
point becomes stale (R289), but an owned one that awaits its own registration. The sender's L1 keeps its copy; its package's slice does
where `slice` says so. A home's own copy goes where another package becomes the owner. At the package point of a home word, what the home
had registered for another package is superseded too. -/
def State.supersede (s : State) (sp ia : Nat) (pt : Point) (p : Option Nat) (core : Option Nat) (slice : Bool) : State :=
  let h := homePkg ia
  let hits := fun (q : Nat) (b : CByte) => pt.wide || p = some q || (p = some h && b.st = .owned && b.pt.wide)
  let inL1 := fun (kc : Nat × Core) (b : CByte) =>
    if core = some kc.1 || !hits (corePkg kc.1) b then b
    else if b.isOwned && s.awaiting kc.1 sp ia then { b with pt := .core } else b.older
  let inSlice := fun (kp : Nat × Pkg) (b : CByte) =>
    if !hits kp.1 b then b
    else if b.isOwned && s.awaitingHome kp.1 sp ia then { b with pt := .package } else b.older
  let slices := fun (kp : Nat × Pkg) =>
    if p = some kp.1 then (if slice then kp.2.llc else dropByte kp.2.llc sp ia)
    else if p.isSome && kp.1 = h && pt.wide then dropByte kp.2.llc sp ia
    else markByte kp.2.llc sp ia (inSlice kp)
  { s with
    cores := s.cores.map (fun kc => (kc.1, { kc.2 with l1 := markByte kc.2.l1 sp ia (inL1 kc) }))
    pkgs := s.pkgs.map (fun kp => (kp.1, { kp.2 with llc := slices kp }))
    memCache := if pt = .system then markByte s.memCache sp ia CByte.older else s.memCache }
/-- One byte registered at a point (R289 Register): the registry names the core's L1, or, where the byte has been sent up already, its
package's slice. A byte that neither still owns has been superseded or stands at the point. -/
def State.registerByte (s : State) (core sp ia : Nat) (pt : Point) : State :=
  let p := corePkg core
  match (findByte (s.coreAt core).l1 sp ia).filter CByte.isOwned, (findByte (s.pkgAt p).llc sp ia).filter CByte.isOwned with
  | some b, _ =>
    let top := maxPt pt (s.pkgPt p sp ia)
    let s := (s.supersede sp ia pt (some p) (some core) false).modCore core (fun k => { k with l1 := markByte k.l1 sp ia (fun d => { d with pt := top }) })
    if pt = .system then s.writeSys sp ia b.val else s
  | none, some b =>
    if pt.num ≤ b.pt.num then s
    else
      let s := (s.supersede sp ia pt (some p) none true).modPkg p (fun k => { k with llc := markByte k.llc sp ia (fun d => { d with pt := pt }) })
      if pt = .system then s.writeSys sp ia b.val else s
  | none, none => s

/-- An owned byte of an L1 sent up and registered at the slice (R289 Write back). -/
def State.backL1 (s : State) (core : Nat) (b : CByte) : State :=
  let p := corePkg core
  let pt := maxPt (maxPt b.pt .package) (s.pkgPt p b.sp b.ia)
  let v := s.seq
  let s := { s with seq := s.seq + 1 }.supersede b.sp b.ia .package (some p) (some core) true
  let s := s.modCore core (fun k => { k with l1 := markByte k.l1 b.sp b.ia (·.passed v) })
  s.modPkg p (fun k => { k with llc := putByte k.llc { b with st := .owned, filled := s.now, pt := pt, ver := v } })
/-- An owned byte of a home slice sent up: to the pod directory, and from there to memory (R287, R289), once its page has a place. -/
def State.backHome (s : State) (p : Nat) (b : CByte) : State :=
  if !b.pt.wide then
    (s.supersede b.sp b.ia .pod (some p) none true).modPkg p (fun k => { k with llc := markByte k.llc b.sp b.ia (fun d => { d with pt := .pod }) })
  else if s.sysKey b.sp b.ia = none then s
  else
    let v := s.seq
    let s := { s with seq := s.seq + 1 }.supersede b.sp b.ia .system (some p) none true
    (s.writeSys b.sp b.ia b.val).modPkg p (fun k => { k with llc := markByte k.llc b.sp b.ia (fun d => { d.passed v with pt := .core }) })
/-- An owned byte of a peer line registered at its home by a write-back (R407): the sender's copy becomes valid. -/
def State.backPeer (s : State) (p : Nat) (b : CByte) : State :=
  let h := homePkg b.ia
  let v := s.seq
  let s := { s with seq := s.seq + 1 }.supersede b.sp b.ia .pod (some h) none true
  let s := s.modPkg p (fun k => { k with llc := markByte k.llc b.sp b.ia (·.passed v) })
  s.modPkg h (fun k => { k with llc := putByte k.llc { b with st := .owned, filled := s.now, pt := maxPt b.pt .pod, ver := v } })
/-- A byte that an L1 owns drawn into its package's slice: the copy in the L1 becomes valid (R289 Fill). -/
def State.drawCore (s : State) (p core : Nat) (b : CByte) : State :=
  let v := s.seq
  ({ s with seq := s.seq + 1 }.modCore core (fun k => { k with l1 := markByte k.l1 b.sp b.ia (·.passed v) })).modPkg p (fun k =>
    { k with llc := putByte k.llc { b with st := .owned, filled := s.now, pt := maxPt b.pt .package, ver := v } })
/-- What the registries below a package's point name as owner of a byte drawn into its slice (R289 Fill). -/
def State.drawIn (s : State) (p sp ia : Nat) : State :=
  match s.coreOwner p sp ia with
  | some x => s.drawCore p x.1 x.2
  | none =>
    if homePkg ia ≠ p then s
    else match s.farOwner p sp ia with
      | some (_, some c, b) => s.drawCore p c b
      | some (q, none, b) =>
        let v := s.seq
        ({ s with seq := s.seq + 1 }.modPkg q (fun k => { k with llc := markByte k.llc sp ia (·.passed v) })).modPkg p (fun k =>
          { k with llc := putByte k.llc { b with st := .owned, filled := s.now, ver := v } })
      | none => s
/-- An owned byte at its home sent to memory, where its page has a place (R289). -/
def State.flushSys (s : State) (sp ia : Nat) : State :=
  let h := homePkg ia
  match findByte (s.pkgAt h).llc sp ia with
  | some b => if b.st = .owned then s.backHome h { b with pt := .pod } else s
  | none => s

/-- The bytes of a home's line that a registry names another cache for: they are filled by drawing in, not from memory. -/
def State.ownedBelow (s : State) (h sp base : Nat) : List Nat :=
  let mine := fun (local_ : Bool) (b : CByte) => b.within sp base 128 && b.st = .owned && (if local_ then b.pt ≠ .core else b.pt.wide)
  (s.cores.flatMap (fun kc => (kc.2.l1.filter (mine (corePkg kc.1 = h))).map (·.ia))) ++
    (s.pkgs.flatMap (fun kp => if kp.1 = h then [] else (kp.2.llc.filter (mine false)).map (·.ia)))
/-- The line of a byte read from memory into its home's slice as valid, every byte that is not owned anew (R289 Fill): through the
memory-side cache of a switch where the memory lies behind one, unless memory's own value is asked for. Poisoned words stay out. -/
def State.fillHome (s : State) (h sp ia : Nat) (own : Bool) : State :=
  let base := ia / 128 * 128
  match s.sysKey sp base with
  | none => s
  | some k =>
    let v := s.seq
    let held := fun (i : Nat) => findByte s.memCache sp (base + i)
    let whole := farKey h k && !own && (List.range 128).all (fun i => (held i).isSome)
    let busy := s.ownedBelow h sp base ++ ((s.pkgAt h).llc.filter (fun b => b.within sp base 128 && b.st = .owned)).map (·.ia)
    let new := (List.range 128).filterMap (fun i =>
      if busy.contains (base + i) || s.poison.contains ((k + i) / 4) then none
      else
        let val := match whole, held i with | true, some b => b.val | _, _ => Memory.byte s.mem (k + i)
        some ({ sp := sp, ia := base + i, st := .valid, val := val, filled := s.now, ver := v } : CByte))
    let s := { s with seq := s.seq + 1, memCache := if farKey h k && !whole then new ++ dropCopies s.memCache sp base 128 else s.memCache }
    (s.hbmNote sp base false).modPkg h (fun p => { p with llc := new ++ dropCopies p.llc sp base 128 })

/-- The value that the package point of a package holds, without its being drawn in: none where a peer line is not cached there. -/
def State.sliceValue (s : State) (p sp ia : Nat) : Option Byte :=
  match s.coreOwner p sp ia with
  | some x => some x.2.val
  | none =>
    if homePkg ia = p then
      match s.farOwner p sp ia with
      | some x => some x.2.2.val
      | none => match findByte (s.pkgAt p).llc sp ia with
        | some b => some b.val
        | none => some (s.sysByte sp ia)
    else (findByte (s.pkgAt p).llc sp ia).map (·.val)
/-- The value at a scope point as seen from a core, an owned byte standing for what would be drawn in (R287, R289, R300). At the system
point what the home holds owned comes before memory; a home's other copies do not. -/
def State.valueAt (s : State) (core sp ia : Nat) (pt : Point) : Byte :=
  let p := corePkg core
  let h := homePkg ia
  let home := (s.sliceValue h sp ia).getD 0
  let slice := (s.sliceValue p sp ia).getD home
  match pt with
  | .core => match findByte (s.coreAt core).l1 sp ia with | some b => b.val | none => slice
  | .package => slice
  | .pod => home
  | .system =>
    if (s.coreOwner h sp ia).isSome || (s.farOwner h sp ia).isSome || (findByte (s.pkgAt h).llc sp ia).any (fun b => b.st = .owned) then home
    else s.sysByte sp ia
/-- Owned bytes drawn to the point at which they are read. -/
def State.drawAt (s : State) (core sp ia : Nat) (pt : Point) : State :=
  match pt with
  | .core => s
  | .package => s.drawIn (corePkg core) sp ia
  | .pod => s.drawIn (homePkg ia) sp ia
  | .system => (s.drawIn (homePkg ia) sp ia).flushSys sp ia
/-- A byte written at a scope point as seen from a core (R287, R297, R300): the point itself owns it, the core's L1 copy takes the value
and every other copy below the point becomes stale. -/
def State.writeAt (s : State) (core sp ia : Nat) (pt : Point) (v : Byte) (wr : List Writer := []) : State :=
  let p := if pt.wide then homePkg ia else corePkg core
  let ver := s.seq
  let had := s.pkgPt p sp ia
  let s := { s with seq := s.seq + 1 }
  let new : CByte := { sp := sp, ia := ia, st := .owned, val := v, filled := s.now, pt := pt, wr := wr, ver := ver }
  match pt with
  | .core => s.modCore core (fun k => { k with l1 := putByte k.l1 { new with pt := ownPt k.l1 sp ia } })
  | _ =>
    let s := s.supersede sp ia pt (some p) (some core) true
    let s := s.modCore core (fun k => { k with l1 := markByte k.l1 sp ia (fun d => { d.passed ver with val := v }) })
    if pt = .system then (s.writeSys sp ia v).modPkg p (fun k => { k with llc := putByte k.llc (new.passed ver) })
    else s.modPkg p (fun k => { k with llc := putByte k.llc { new with pt := maxPt pt had } })
/-- A range of bytes at a scope point. -/
def State.bytesAt (s : State) (core sp ia : Nat) (pt : Point) (n : Nat) : List Byte :=
  (List.range n).map (fun i => s.valueAt core sp (ia + i) pt)
/-- A range of bytes drawn to a scope point. -/
def State.drawRange (s : State) (core sp ia : Nat) (pt : Point) (n : Nat) : State :=
  (List.range n).foldl (fun t i => t.drawAt core sp (ia + i) pt) s
/-- A range of bytes written at a scope point. -/
def State.writeRange (s : State) (core sp ia : Nat) (pt : Point) (bs : List Byte) (wr : List Writer := []) : State :=
  bs.zipIdx.foldl (fun t p => t.writeAt core sp (ia + p.2) pt p.1 wr) s
/-- The current value of a range at the home agent or, for a peer line, at the local slice: what a fetch reads (R104). -/
def State.fetchBytes (s : State) (core sp ia n : Nat) : List Byte := s.bytesAt core sp ia .package n

/-- The cached bytes whose memory lies in a physical range, owned ones alone where asked. -/
def State.cachedAt (s : State) (key n : Nat) (owned : Bool) : List (Nat × Nat) :=
  let hit := fun (b : CByte) => (!owned || b.st = .owned) && overlaps (b.ia % 65536) 1 (key % 65536) n &&
    (s.sysKey b.sp b.ia).any (fun k => decide (key ≤ k) && decide (k < key + n))
  ((s.cores.flatMap (fun kc => kc.2.l1.filter hit)) ++ (s.pkgs.flatMap (fun kp => kp.2.llc.filter hit)) ++ s.memCache.filter hit).map (fun b => (b.sp, b.ia))
/-- Bytes written by physical address at the system point, by an agent of the package or the host: every cached copy becomes stale (R287),
and whole words lose their poison (R418). -/
def State.writePhys (s : State) (key : Nat) (bs : List Byte) : State :=
  let s := (s.cachedAt key bs.length false).foldl (fun t x => t.supersede x.1 x.2 .system none none false) s
  let words := (List.range (bs.length / 4)).map (fun i => (key + 3) / 4 + i)
  { s with mem := Memory.write s.mem key bs, poison := if s.poison.isEmpty then [] else s.poison.filter (fun k => !(words.contains k && decide (4 * k + 4 ≤ key + bs.length))) }
/-- Owned bytes of a physical range drawn to memory, before hardware reads it at the system point (R287). -/
def State.flushPhys (s : State) (key n : Nat) : State :=
  (s.cachedAt key n true).foldl (fun t x => (t.drawIn (homePkg x.2) x.1 x.2).flushSys x.1 x.2) s
/-- A table entry changed by an atomic at the system point (R361, R362). -/
def State.updateEntry (s : State) (key : Nat) (g : Nat → Nat) : State :=
  let s := s.flushPhys key 8
  s.writePhys key (toBytes 8 (g (ofBytes (Memory.read s.mem key 8))))
/-- The first use of a leaf whose A is clear sets A by an atomic at the system point, and the leaf is cached by its home agent, which holds
4,096 entries (R361). -/
def State.touchPage (s : State) (part ia : Nat) : State :=
  match s.homePart part ia with
  | none => s
  | some hp =>
    match s.walk hp (iaOff ia) with
    | .leaf e addr lvl =>
      let s := if bitAt e 6 then s else s.updateEntry (physKey 1 (hp / 96) addr) (fun e => if bitAt e 6 then e else e + 64)
      let a := sliceOf ia
      s.modPkg (hp / 96) (fun p =>
        if p.tlb.any (fun c => c.part = hp && c.page = iaOff ia / 65536 && c.agent = a) then p
        else
          let full := decide (4096 ≤ (p.tlb.filter (fun c => c.agent = a)).length)
          let old := (p.tlb.reverse.find? (fun c => c.agent = a))
          { p with tlb := ⟨a, hp, iaOff ia / 65536, if bitAt e 6 then e else e + 64, addr, lvl⟩ ::
              (if full then p.tlb.filter (fun c => some c ≠ old) else p.tlb) })
    | _ => s
/-- True when a cache on a core's way to a byte's home gives it, or one that the registries name. -/
def State.cached (s : State) (core sp ia : Nat) : Bool :=
  let p := corePkg core
  let h := homePkg ia
  (findByte (s.coreAt core).l1 sp ia).isSome || (findByte (s.pkgAt p).llc sp ia).isSome || (s.coreOwner p sp ia).isSome ||
    (findByte (s.pkgAt h).llc sp ia).isSome || (s.coreOwner h sp ia).isSome || (s.farOwner h sp ia).isSome

/-- A pending access added; its number is the state's fresh one. -/
def State.addReq (s : State) (q : Req) : State := { s with seq := s.seq + 1, reqs := s.reqs ++ [{ q with id := s.seq }] }
/-- A pending access removed. -/
def State.dropReq (s : State) (id : Nat) : State := { s with reqs := s.reqs.filter (fun q => q.id ≠ id) }
/-- A pending access changed. -/
def State.modReq (s : State) (id : Nat) (g : Req → Req) : State :=
  { s with reqs := s.reqs.map (fun q => if q.id = id then g q else q) }
/-- The pending access of a number. -/
def State.req? (s : State) (id : Nat) : Option Req := s.reqs.find? (fun q => q.id = id)

end Sys2Proof.Machine
end

