-- ==== Sys2Proof/Machine/Order.lean ====
section
/-! DEFINITION. The steps of the ordering machine (R289 to R296): enqueueing and draining stores, registering them, parking and
discarding (R198, R363), writing back, the lines of the caches (R31, R196, R386), releases (R293), acquires (R294), and reading (R291). -/

namespace Sys2Proof.Machine

/-- True when a port of one number is up at both packages (R396, R403). -/
def State.reaches (s : State) (src dst : Nat) : Bool :=
  src = dst || (((s.pkgAt src).ports.zip (s.pkgAt dst).ports).any (fun p => decide (2 ≤ p.1.state) && decide (2 ≤ p.2.state)))
/-- A message's flit kept in the replay buffer of the port that it leaves by (R398): the lowest-numbered one that reaches its
destination. -/
def State.keepFlit (s : State) (src dst id : Nat) : State :=
  if src = dst then s
  else match (List.range 18).find? (fun i => decide (2 ≤ ((s.pkgAt src).ports.getD i { }).state) && decide (2 ≤ ((s.pkgAt dst).ports.getD i { }).state)) with
    | none => s
    | some i => s.modPkg src (fun p => { p with ports := p.ports.set i (let q := p.ports.getD i { }
        { q with lseq := (q.lseq + 1) % 4096, buffer := q.buffer ++ [(q.lseq, [id])] }) })
/-- A message put on a channel (R399). -/
def State.send (s : State) (src dst : Nat) (op : MsgOp) : State :=
  let key := 256 * src + dst
  let n := lookupD 0 key s.eseqs
  let s := s.keepFlit src dst s.seq
  { s with
    seq := s.seq + 1
    eseqs := insertAt key ((n + 1) % 2 ^ 32) s.eseqs
    msgs := s.msgs ++ [{ id := s.seq, src := src, dst := dst, eseq := n, epoch := (s.pkgAt src).fepoch, op := op, sentAt := s.now }] }

/-- A store's entry appended to its core's write queue (R289 Enqueue). -/
def State.enqueue (s : State) (e : WEntry) : State :=
  { s with seq := s.seq + 1, wq := s.wq ++ [{ e with id := s.seq, order := s.seq }] }
/-- True when an entry belongs to the same fibre or engine command. -/
def WEntry.sameAs (a b : WEntry) : Bool := a.tid = b.tid && a.fid = b.fid && a.cmd = b.cmd
/-- The releases of a fibre still in progress, also once it has ended. -/
def State.relsOf (s : State) (tid fid : Nat) : List Release :=
  (s.fibre ⟨tid, fid⟩).rels ++ (s.tails.filter (fun x => x.tid = tid && x.fid = fid)).flatMap (·.rels)
/-- The registrations whose writes a fibre has read, also once it has ended (R293). -/
def State.seenBy (s : State) (tid fid : Nat) : List Nat :=
  (s.fibre ⟨tid, fid⟩).seen ++ (s.tails.filter (fun x => x.tid = tid && x.fid = fid)).flatMap (·.seen)
/-- R290: an entry may drain. An earlier load of the fibre to its bytes takes its read step first (R292). -/
def State.mayDrain (s : State) (e : WEntry) : Bool :=
  !(s.wq.any (fun d => d.sameAs e && decide (d.order < e.order) && d.sp = e.sp && overlaps d.ia d.bytes.length e.ia e.bytes.length)) &&
  (s.relsOf e.tid e.fid).all (fun r => decide (e.order < r.seq)) &&
  !(s.reqs.any (fun q => q.tid = e.tid && q.fid = e.fid && decide (q.order < e.order) && q.sp = e.sp &&
      overlaps q.ia q.size e.ia e.bytes.length))

/-- True when some request is parked on a page (R363). -/
def State.parkedOn (s : State) (sp page : Nat) : Bool :=
  s.regs.any (fun r => r.parked.isSome && r.entry.sp = sp && pageOf r.entry.ia = page) ||
  s.reqs.any (fun r => r.parked.isSome && r.sp = sp && pageOf r.ia = page) ||
  s.agentParks.any (fun x => x.1 = sp && x.2.1 = page) ||
  s.cmds.any (fun c => c.parked.any (fun x => x.1 = sp && x.2.1 = page))
/-- True when the home agent of a line holds the 512 parked requests that it can (R363): a further one waits in the network. -/
def State.parkFull (s : State) (ia : Nat) : Bool :=
  let mine := fun (x : Nat) => homePkg x = homePkg ia && sliceOf x = sliceOf ia
  decide (512 ≤ (s.regs.filter (fun r => r.parked.isSome && mine r.entry.ia)).length + (s.reqs.filter (fun r => r.parked.isSome && mine r.ia)).length +
    (s.agentParks.filter (fun x => mine (65536 * x.2.1))).length + (s.cmds.filter (fun c => c.parked.any (fun x => mine (65536 * x.2.1)))).length)
/-- True when a request parked on the page waits for its replay (R363, R366): another store, an agent's access, or a command's. -/
def State.replayDue (s : State) (sp ia : Nat) (but : Nat) : Bool :=
  s.regs.any (fun r => r.parked.isSome && r.entry.sp = sp && pageOf r.entry.ia = pageOf ia && r.entry.id ≠ but) ||
  s.agentParks.any (fun x => x.1 = sp && x.2.1 = pageOf ia) ||
  s.cmds.any (fun c => c.id ≠ but && c.parked.any (fun x => x.1 = sp && x.2.1 = pageOf ia))
/-- True when a load or atomic parked on the page comes before a request (R363). -/
def State.readParked (s : State) (sp ia : Nat) (but : Nat) : Bool :=
  s.reqs.any (fun r => r.parked.isSome && r.sp = sp && pageOf r.ia = pageOf ia && decide (r.id < but))
/-- A page's first parked request of a partition is written into the page-request ring at its home (R364). -/
def State.pageRequest (s : State) (sp ia kind core : Nat) : State :=
  let base := (s.partAt sp).prqbase.toNat % 2 ^ 52 / 4096 * 4096
  if base = 0 then s
  else
    let at_ := fun o => physKey 1 (sp / 96) (base + o)
    let n := ofBytes (Memory.read s.mem (at_ 4096) 8)
    let rec_ := toBytes 8 (ia % 2 ^ 60 / 65536 * 65536 + kind * 2 ^ 60) ++ toBytes 8 core
    (s.writePhys (at_ (16 * (n % 256))) rec_).updateEntry (at_ 4096) (· + 1)
/-- A request of an agent parked on a page (R363), asked for in the ring where the page is absent and this is the first (R364): of kind 2 and
core 0x1FF, or, for a jacket access, of kind 3 and its core. A full park table leaves it in the network. -/
def State.parkAgent (s : State) (sp ia kind core : Nat) (absent : Bool) : State :=
  if s.agentParks.any (fun x => x.1 = sp && x.2.1 = pageOf ia) || s.parkFull ia then s
  else
    let s := if s.parkedOn sp (pageOf ia) || !absent then s else s.pageRequest sp ia kind core
    { s with agentParks := (sp, pageOf ia, s.now) :: s.agentParks }
/-- A registration parked at its home agent (R363). -/
def State.parkReg (s : State) (e : WEntry) (absent : Bool) : State :=
  let first := !s.parkedOn e.sp (pageOf e.ia)
  let s := { s with regs := s.regs.map (fun r => if r.entry.id = e.id && r.parked.isNone then { r with parked := some s.now } else r) }
  if first && absent then s.pageRequest e.sp e.ia (if e.cmd.isSome then 1 else 0) (e.core % Config.coresPerPkg) else s
/-- A store fault recorded against a fibre: the earliest one is kept, later ones are counted (R198, R199); that of an ended fibre
goes to the supervisor (R331). -/
def State.recordStoreFault (s : State) (tid fid part : Nat) (va : Dword) : State :=
  match s.fibre? ⟨tid, fid⟩ with
  | none => s.supervisorEvent part ((s.team tid).event fid Cause.storeLost 0 va)
  | some _ => s.modFibre ⟨tid, fid⟩ (fun f => match f.storeFault with
    | none => { f with storeFault := some va }
    | some _ => { f with storesLost := f.storesLost + 1 })
/-- An engine fault recorded against a fibre (R232): the earliest is kept, later aborts are counted; that of an ended fibre goes
to the supervisor (R331). -/
def State.recordEngineFault (s : State) (tid fid part : Nat) (v : Dword) : State :=
  match s.fibre? ⟨tid, fid⟩ with
  | none => s.supervisorEvent part ((s.team tid).event fid Cause.engTeam 0 v)
  | some _ => s.modFibre ⟨tid, fid⟩ (fun f => match f.engineFault with
    | none => { f with engineFault := some v }
    | some _ => { f with abortsLost := f.abortsLost + 1 })
/-- The words of some entries. -/
def entryWords (es : List WEntry) : List Nat :=
  es.foldl (fun acc e => e.bytes.zipIdx.foldl (fun acc p => if acc.contains (wordOf (e.ia + p.2)) then acc else wordOf (e.ia + p.2) :: acc) acc) []
/-- An entry put into program order. -/
def insertEntry (e : WEntry) : List WEntry → List WEntry
  | [] => [e]
  | d :: r => if e.order ≤ d.order then e :: d :: r else d :: insertEntry e r
/-- The entries that are discarded with some: those whose registrations are on their way from the core and that share a word with one of
them, in so many rounds (R198). -/
def State.lostWith (s : State) (core sp : Nat) : Nat → List WEntry → List WEntry
  | 0, es => es
  | n + 1, es =>
    let ws := entryWords es
    let more := (s.regs.filter (fun r => r.entry.core = core && r.entry.sp = sp && !r.registered && !es.any (fun e => e.id = r.entry.id) &&
      (entryWords [r.entry]).any ws.contains)).map (·.entry)
    if more.isEmpty then es else s.lostWith core sp n (es ++ more)
/-- A store discarded (R198): its words leave the issuing core's L1 with every other owned byte of them, and each write so
discarded is recorded once against its fibre, the earliest first. -/
def State.discard (s : State) (e : WEntry) : State :=
  let es := (s.lostWith e.core e.sp s.regs.length [e]).foldl (fun acc x => insertEntry x acc) []
  let words := entryWords es
  let inWords := fun (b : CByte) => b.sp = e.sp && words.contains (wordOf b.ia)
  let writers := (((s.coreAt e.core).l1.filter (fun b => inWords b && b.isOwned)).flatMap (·.wr)).foldl (fun (acc : List Writer) w =>
    if acc.contains w || es.any (fun x => x.tid = w.tid && x.fid = w.fid && x.va = w.va) then acc else acc ++ [w]) []
  let s := s.modCore e.core (fun c => { c with l1 := c.l1.filter (fun b => !inWords b) })
  let s := { s with regs := s.regs.filter (fun r => !es.any (fun x => x.id = r.entry.id)) }
  let s := es.foldl (fun t x => if x.cmd.isSome then t.recordEngineFault x.tid x.fid x.part x.va else t.recordStoreFault x.tid x.fid x.part x.va) s
  writers.foldl (fun t w => if w.cmd then t.recordEngineFault w.tid w.fid w.part w.va else t.recordStoreFault w.tid w.fid w.part w.va) s

/-- The page of an owned byte never registered above its core is checked when it is first written back (R198). -/
def State.backCheck (s : State) (b : CByte) : PageRes :=
  match b.pt, b.wr with
  | .core, w :: _ => s.pageCheck w.part w.level (some .write) b.ia
  | _, _ => match s.sysKey b.sp b.ia with | some k => .place k | none => .absent
/-- A write that stands for an owned byte of an L1. -/
def CByte.asEntry (b : CByte) (id core : Nat) (ia : Nat) (bytes : List Byte) (pt : Point) : WEntry :=
  let w : Writer := b.wr.headD { tid := 0, fid := 0, va := 0 }
  { id := id, core := core, tid := w.tid, fid := w.fid, cmd := if w.cmd then some id else none, order := 0, part := w.part, sp := b.sp,
    ia := ia, bytes := bytes, pt := pt, va := w.va, level := w.level }
/-- A word that a core sends up for the first time parked at its home agent (R198, R363): its registration there waits for the replay. -/
def State.parkWord (s : State) (ck : Nat) (b : CByte) (absent : Bool) : State :=
  if s.regs.any (fun r => r.parked.isSome && r.entry.core = ck && r.entry.sp = b.sp && wordOf r.entry.ia = wordOf b.ia) || s.parkFull b.ia then s
  else
    let e := b.asEntry s.seq ck (wordOf b.ia) [0, 0, 0, 0] .package
    State.parkReg { s with seq := s.seq + 1, regs := s.regs ++ [{ entry := e }] } e absent
/-- Write back (R289) of the owned bytes of one word, from an L1 or, with core 384, from the package's slice. -/
def State.writeBackWord (s : State) (p core ia : Nat) : State :=
  let mine := fun (c : CByte) => c.isOwned && wordOf c.ia = wordOf ia
  if core < Config.coresPerPkg then
    let ck := Config.coresPerPkg * p + core
    ((s.coreAt ck).l1.filter mine).foldl (fun (t : State) b =>
      if !((t.coreAt ck).l1.contains b) then t
      else match t.backCheck b with
      | .place _ => if b.pt = .core && t.replayDue b.sp b.ia t.seq then t.parkWord ck b false
          else (t.backL1 ck b).touchPage ((b.wr.head?.map (·.part)).getD b.sp) b.ia
      | .absent => t.parkWord ck b true
      | .held => t.parkWord ck b false
      | .fail _ => t.discard (b.asEntry t.seq ck b.ia [b.val] .core)) s
  else
    let bs := ((s.pkgAt p).llc.filter mine)
    match bs with
    | [] => s
    | b :: _ =>
      if homePkg ia = p then bs.foldl (fun t b => t.backHome p b) s
      else if s.msgs.any (fun m => m.src = p && (match m.op with | .wb sp a _ => sp = b.sp && wordOf a = wordOf ia | _ => false)) then s
      else s.send p (homePkg ia) (.wb b.sp ia bs)

/-- A line's use in a cache (R196): it goes to the most-recently-used place, or, with .evf and .last, to the least; .keep protects it, and
.ro puts it into a read-only way. -/
def useLines (ls : List CLine) (sp line : Nat) (ev : Evict) (store : Bool) : List CLine :=
  let same := fun (x : CLine) => x.sp = sp && x.line = line
  let rest := ls.filter (fun x => !same x)
  let x : CLine := { sp := sp, line := line, kept := ev = .keep || (ls.filter same).any (·.kept), ro := (ev = .ro && !store) || (ls.filter same).any (·.ro) }
  if ev = .evf || ev = .last then rest ++ [x] else x :: rest
/-- The line of a set that makes room for another, none where the set has a free way (R31, R196, R386): the least recently used of the
unprotected ones, else of all; a store takes none of the two read-only ways, and a read with .ro one of them once both are taken. -/
def victim (set : List CLine) (ways : Nat) (ev : Evict) (store : Bool) : Option CLine :=
  let ros := set.filter (·.ro)
  if ev = .ro && !store && 2 ≤ ros.length then ros.getLast?
  else if set.length < ways then none
  else
    let may := if store || ev = .ro then set.filter (fun x => !x.ro) else set
    match (may.filter (fun x => !x.kept)).getLast? with
    | some x => some x
    | none => may.getLast?
/-- The lines of a cache that still hold a byte. -/
def liveLines (ls : List CLine) (bytes : List CByte) : List CLine := ls.filter (fun x => bytes.any (fun b => b.within x.sp (128 * x.line) 128))
/-- A line leaves an L1: its owned words are written back first (R289); what cannot go up yet stays. -/
def State.evictL1 (s : State) (core : Nat) (x : CLine) : State :=
  let ws := dedupWords (((s.coreAt core).l1.filter (fun b => b.within x.sp (128 * x.line) 128 && b.isOwned)).map (fun b => wordOf b.ia))
  let s := ws.foldl (fun t w => t.writeBackWord (corePkg core) (core % Config.coresPerPkg) w) s
  s.modCore core (fun c => { c with
    l1 := dropCopies c.l1 x.sp (128 * x.line) 128
    l1Lines := liveLines c.l1Lines (dropCopies c.l1 x.sp (128 * x.line) 128) })
where
  dedupWords : List Nat → List Nat
    | [] => []
    | a :: r => let d := dedupWords r; if d.contains a then d else a :: d
/-- A line of an L1 used, allocated where it is not there (R31): 8 ways, the set by the low 8 bits of the line's number. -/
def State.useL1 (s : State) (core sp ia : Nat) (ev : Evict) (store : Bool) : State :=
  let line := ia / 128
  let c := s.coreAt core
  let set := (liveLines c.l1Lines c.l1).filter (fun x => x.line % 256 = line % 256 && !(x.sp = sp && x.line = line))
  let isNew := !c.l1Lines.any (fun x => x.sp = sp && x.line = line)
  let s := match (if isNew then victim set 8 ev store else none) with | some x => s.evictL1 core x | none => s
  s.modCore core (fun c => { c with l1Lines := useLines c.l1Lines sp line ev store })

/-- The partition of a package that a line's space belongs to there: the home's own, or the lowest-numbered one of the same $PODTAG tag. -/
def State.localPart (s : State) (p sp : Nat) : Nat :=
  if sp / 96 = p then sp
  else
    let tag := (s.partAt sp).podtag.toNat % 256
    96 * p + ((List.range 96).find? (fun q => let t := (s.partAt (96 * p + q)).podtag; t.getLsbD 8 && t.toNat % 256 = tag)).getD 0
/-- The set of its slice that a line lies in (R386): the slice, the colour, the sub-index. -/
def State.llcSet (s : State) (p sp line : Nat) : Nat × Nat × Nat :=
  let part := s.partAt (s.localPart p sp)
  let cs := (List.range 128).filter (fun i => if i < 64 then part.pcol0.getLsbD i else part.pcol1.getLsbD (i - 64))
  (sliceOf (128 * line), cs.getD (if cs.isEmpty then 0 else bits line 24 11 % cs.length) 0, bits line 10 7)
/-- A line leaves a package's slice: owned words go up to memory, or to their home by WB; what cannot go up yet stays. -/
def State.evictSlice (s : State) (p : Nat) (x : CLine) : State :=
  let mine := (s.pkgAt p).llc.filter (fun b => b.within x.sp (128 * x.line) 128 && b.isOwned)
  let s := if homePkg (128 * x.line) = p then mine.foldl (fun t b => t.backHome p { b with pt := .pod }) s
    else mine.foldl (fun t b => t.writeBackWord p 384 b.ia) s
  s.modPkg p (fun k => { k with llc := dropCopies k.llc x.sp (128 * x.line) 128 })
/-- A line of a package's slice used, allocated where it is not there (R386): 16 ways. -/
def State.useSlice (s : State) (p sp ia : Nat) (ev : Evict) : State :=
  let line := ia / 128
  let k := s.pkgAt p
  let isNew := !k.llcLines.any (fun x => x.sp = sp && x.line = line)
  let full := if isNew && 16 ≤ k.llcLines.length then
      let set := (liveLines k.llcLines k.llc).filter (fun x => s.llcSet p x.sp x.line = s.llcSet p sp line)
      victim set 16 ev true
    else none
  let s := match full with | some x => s.evictSlice p x | none => s
  s.modPkg p (fun k => { k with llcLines := useLines (if isNew then liveLines k.llcLines k.llc else k.llcLines) sp line ev true })

/-- One byte of an entry written into L1: it becomes owned (R289 Drain). A registry that names the L1 as owner goes on naming it. -/
def drainByte (l1 : List CByte) (e : WEntry) (now i : Nat) (v : Byte) : List CByte :=
  let w : Writer := { tid := e.tid, fid := e.fid, va := e.va, part := e.part, level := e.level, cmd := e.cmd.isSome }
  let before := match findByte l1 e.sp (e.ia + i) with
    | some c => if c.isOwned then c.wr.filter (fun x => !(x.tid = w.tid && x.fid = w.fid && x.cmd = w.cmd)) else []
    | none => []
  putByte l1 { sp := e.sp, ia := e.ia + i, st := .owned, val := v, filled := now, pt := ownPt l1 e.sp (e.ia + i), wr := w :: before, ver := e.id }
/-- Drain (R289): the bytes enter L1 and a registration for the entry's level starts; at the core point it is made and
acknowledged in this step. A registration at a wider point of another package's word crosses the fabric. -/
def State.drainEntry (s : State) (e : WEntry) : State :=
  let s := { s with wq := s.wq.filter (fun d => d.id ≠ e.id) }.useL1 e.core e.sp e.ia e.evict true
  let s := s.modCore e.core (fun c =>
    { c with l1 := e.bytes.zipIdx.foldl (fun l p => drainByte l e s.now p.2 p.1) c.l1 })
  if e.pt = .core then s
  else
    let s := { s with regs := s.regs ++ [{ entry := e }] }
    if homePkg e.ia ≠ corePkg e.core && e.pt ≠ .package then s.send (corePkg e.core) (homePkg e.ia) (.reg e.id) else s

/-- One byte of a core's path written back until it stands at a scope point (R218, R289). -/
def State.raiseByte (s : State) (core sp ia : Nat) (pt : Point) : State :=
  let p := corePkg core
  let h := homePkg ia
  let s := match findByte (s.coreAt core).l1 sp ia with
    | some b =>
      if b.isOwned && pt ≠ .core then s.writeBackWord p (core % Config.coresPerPkg) ia else s
    | none => s
  let s := match findByte (s.pkgAt p).llc sp ia with
    | some b =>
      if b.isOwned && pt.wide then (if h ≠ p then s.backPeer p b else if !b.pt.wide then s.backHome p b else s) else s
    | none => s
  if pt = .system then (s.drawIn h sp ia).flushSys sp ia else s
/-- The copies of a range of one line placed as an EVICT code says (R196): .llc, .stream and .last do not keep it in L1, .stream not in the
slice either, .last and .evf put the line last in the order of use, and .keep protects it. Owned bytes stay. -/
def State.placeLine (s : State) (core sp ia n : Nat) (ev : Evict) : State :=
  let out := ev = .llc || ev = .stream || ev = .last
  let again := fun (ls : List CLine) => if ls.any (fun x => x.sp = sp && x.line = ia / 128) then useLines ls sp (ia / 128) ev true else ls
  let s := s.modCore core (fun c => { c with
    l1 := if out then dropCopies c.l1 sp ia n else c.l1
    l1Lines := if ev = .keep || ev = .evf then again c.l1Lines else c.l1Lines })
  s.modPkg (corePkg core) (fun k => { k with
    llc := if ev = .stream then dropCopies k.llc sp ia n else k.llc
    llcLines := if ev = .keep || ev = .evf || ev = .last then again k.llcLines else k.llcLines })
/-- A registered store's line placed as its EVICT says (R196): where the L1 does not keep it, its bytes go up to the store's point first. -/
def State.placeStore (s : State) (e : WEntry) : State :=
  if e.evict = .llc || e.evict = .stream || e.evict = .last then
    (e.bytes.zipIdx.foldl (fun t p => t.raiseByte e.core e.sp (e.ia + p.2) e.pt) s).placeLine e.core e.sp e.ia e.bytes.length e.evict
  else s
/-- A local access of the home package ends the lease of an ingress atomic cache's line (R223, R302); its value stands at the home
agent (log 14). -/
def State.endIngress (s : State) (p sp ia : Nat) (n : Nat := 1) : State :=
  let here := fun (x : Nat × Nat × Nat) => x.1 = sp && decide (ia / 128 ≤ x.2.1) && decide (x.2.1 ≤ (ia + n - 1) / 128)
  if (s.pkgAt p).ingress.any here then s.modPkg p (fun k => { k with ingress := k.ingress.filter (fun x => !here x) }) else s
/-- A registration whose page is present is made; its acknowledgement is on its way (R289). -/
def State.makeReg (s : State) (e : WEntry) : State :=
  let s := s.touchPage e.part e.ia
  let s := if corePkg e.core = homePkg e.ia then s.endIngress (homePkg e.ia) e.sp e.ia e.bytes.length else s
  let s := e.bytes.zipIdx.foldl (fun t p => t.registerByte e.core e.sp (e.ia + p.2) e.pt) s
  let s := { s with regs := s.regs.map (fun (r : Reg) => if r.entry.id = e.id then { r with registered := true, parked := none } else r) }
  s.placeStore e
/-- A registration at its scope point (R289 Register, R198, R360, R363): made, parked, left waiting in the network where the park table is
full, or discarded. -/
def State.arriveReg (s : State) (e : WEntry) : State :=
  let park := fun (absent : Bool) => if s.parkFull e.ia then s else s.parkReg e absent
  match s.pageCheck e.part e.level (some .write) e.ia with
  | .absent => park true
  | .held => park false
  | .fail _ => s.discard e
  | .place _ => if s.replayDue e.sp e.ia e.id then park false else s.makeReg e

/-- Bytes a fibre wrote that are owned somewhere and registered only at a narrower point (R293). -/
def State.narrowWrites (s : State) (l : Lane) (pt : Point) : List (Nat × Nat × CByte) :=
  let mine := fun (b : CByte) => b.isOwned && decide (b.pt.num < pt.num) && b.wr.any (fun w => w.tid = l.tid && w.fid = l.fid && !w.cmd)
  (s.cores.flatMap (fun kc => (kc.2.l1.filter mine).map (fun b => (corePkg kc.1, kc.1 % Config.coresPerPkg, b)))) ++
  (s.pkgs.flatMap (fun kp => (kp.2.llc.filter mine).map (fun b => (kp.1, 384, b))))
/-- R293: the release of a fibre at a point, begun at a place of its program order, may complete. -/
def State.releaseReady (s : State) (l : Lane) (order : Nat) (pt : Point) : Bool :=
  !(s.wq.any (fun e => e.tid = l.tid && e.fid = l.fid && e.cmd.isNone && decide (e.order < order))) &&
  (pt = .core ||
    (!(s.regs.any (fun r => r.entry.tid = l.tid && r.entry.fid = l.fid && r.entry.cmd.isNone && decide (r.entry.order < order))) &&
     (s.narrowWrites l pt).isEmpty &&
     !(s.regs.any (fun r => (s.seenBy l.tid l.fid).contains r.entry.id && decide (pt.num ≤ r.entry.pt.num))))) &&
  !(s.reqs.any (fun q => q.tid = l.tid && q.fid = l.fid && decide (q.order < order) && q.rel ≠ some order))
/-- A release begun: its number, with the fibre's later entries ordered after it (R293). -/
def State.beginRelease (s : State) (l : Lane) (pt : Point) : Nat × State :=
  (s.seq, { (s.modFibre l (fun f => { f with rels := f.rels ++ [⟨s.seq, pt⟩] })) with seq := s.seq + 1 })
/-- The fibre waits for its release before the instruction goes on (R197, R211, R224). The second part of the answer is true
when the release has completed. -/
def State.holdRelease (s : State) (l : Lane) (pt : Point) : State × Bool :=
  match (s.fibre l).hold with
  | some (.release _ done) => if done then (s.modFibre l (fun f => { f with hold := none }), true) else (s, false)
  | _ =>
    if s.releaseReady l s.seq pt then (s, true)
    else
      let r := s.beginRelease l pt
      (r.2.modFibre l (fun f => { f with hold := some (.release r.1 false) }), false)
/-- An acquire takes effect (R294): valid and stale bytes below the point become invalid on the core's path. -/
def State.acquire (s : State) (core : Nat) (pt : Point) : State :=
  let p := corePkg core
  match pt with
  | .core => s
  | .package => s.modCore core (fun c => { c with l1 := c.l1.filter CByte.isOwned })
  | .pod => (s.modCore core (fun c => { c with l1 := c.l1.filter CByte.isOwned })).modPkg p (fun k =>
      { k with llc := k.llc.filter (fun b => b.isOwned || homePkg b.ia = p) })
  | .system => { (s.modCore core (fun c => { c with l1 := c.l1.filter CByte.isOwned })).modPkg p (fun k =>
      { k with llc := k.llc.filter CByte.isOwned }) with memCache := [] }
/-- True while an acquire of the fibre has not taken effect: no later access takes a step (R294). -/
def State.acquiring (s : State) (l : Lane) : Bool := s.reqs.any (fun q => q.tid = l.tid && q.fid = l.fid && q.acq)
/-- True while the fibre has a pending load. -/
def State.loading (s : State) (l : Lane) : Bool :=
  s.reqs.any (fun q => q.tid = l.tid && q.fid = l.fid && (q.kind = .load || q.kind = .line))

/-- The fibre's latest earlier write-queue entry that holds a byte (R291 item 1). -/
def State.queuedByte (s : State) (tid fid order sp ia : Nat) : Option Byte :=
  (s.wq.foldl (fun (acc : Option Byte) e =>
    if e.tid = tid && e.fid = fid && e.cmd.isNone && decide (e.order < order) && e.sp = sp &&
      decide (e.ia ≤ ia) && decide (ia < e.ia + e.bytes.length)
    then e.bytes[ia - e.ia]? else acc) none)
/-- The number below which a copy of a byte is older than what a fibre has met at its home (R292). -/
def State.floorOf (s : State) (tid fid sp ia : Nat) : Nat :=
  (s.fibre ⟨tid, fid⟩).floor.foldl (fun m x => if x.1 = sp && decide (x.2.1 ≤ ia) && decide (ia < x.2.1 + x.2.2.1) then max m x.2.2.2 else m) 0
/-- A fibre has met a range at its home: copies that its package made before are older (R292). -/
def State.raiseFloor (s : State) (l : Lane) (core sp ia n : Nat) : State :=
  if homePkg ia = corePkg core then s
  else { (s.modFibre l (fun f => { f with floor := (sp, ia, n, s.seq) :: f.floor.filter (fun x => !(x.1 = sp && x.2.1 = ia && x.2.2.1 = n)) })) with
    seq := s.seq + 1 }
/-- The bytes of a range of one line brought to a package's slice as far as the package reaches without the fabric (R289 Fill, R291): what
the registries name drawn in; at the home, the line from memory where a byte of it is missing or copies of several fills stand in it, and,
at the system point, memory's own line once owned bytes have gone there. -/
def State.bring (s : State) (p sp ia n : Nat) (pt : Point) : State :=
  let s := (List.range n).foldl (fun t i => t.drawIn p sp (ia + i)) s
  if homePkg ia ≠ p then s
  else
    let s := (if pt = .system then (List.range n).foldl (fun t i => t.flushSys sp (ia + i)) s else s).endIngress p sp ia
    let bs := (List.range n).filterMap (fun i => findByte (s.pkgAt p).llc sp (ia + i))
    if pt = .system || bs.length < n || !coherent bs then (s.fillHome p sp ia (pt = .system)).useSlice p sp ia .default else s
/-- The bytes of a range that a package's slice gives to a read of a level (R291), none where another package must be asked: a slice that
holds owned data of a peer word gives it for every level, other copies of peer words for the core and package levels alone. A byte of
the home's that no copy can hold (its page is gone, its word is poisoned) is memory's. -/
def State.sliceBytes (s : State) (p sp ia n : Nat) (pt : Point) (floor : Nat → Nat) : Option (List CByte) :=
  let bs := (List.range n).map (fun i => match findByte (s.pkgAt p).llc sp (ia + i) with
    | some b => if b.isOwned || homePkg ia = p || (!pt.wide && floor b.ia ≤ b.ver) then some b else none
    | none => if homePkg ia = p then some { sp := sp, ia := ia + i, st := .owned, val := s.sysByte sp (ia + i) } else none)
  if bs.all (·.isSome) && coherent (bs.filterMap id) then some (bs.filterMap id) else none
/-- Filled bytes kept in L1 as valid (R289), in place of every copy of them that is not owned, unless the EVICT code keeps them out (R196):
.stream keeps them out of the slice too. -/
def State.keepBytes (s : State) (core sp ia : Nat) (ev : Evict) (bs : List CByte) : State :=
  let v := match bs.find? (fun b => b.st ≠ .owned) with | some b => b.ver | none => s.seq
  let p := corePkg core
  let out := ev = .llc || ev = .stream || ev = .last
  let s := { s with seq := s.seq + 1 }
  let s := if out then s else s.useL1 core sp ia ev false
  let s := s.modCore core (fun c =>
    let l := dropCopies c.l1 sp ia bs.length
    { c with l1 := if out then l else
        ((bs.filter (fun b => (findByte l sp b.ia).isNone)).map (fun b => ({ sp := sp, ia := b.ia, st := .valid, val := b.val, filled := s.now, ver := v } : CByte))) ++ l })
  if ev = .stream && homePkg ia ≠ p then s.modPkg p (fun k => { k with llc := dropCopies k.llc sp ia bs.length })
  else if ev = .last then s.modPkg p (fun k => { k with llcLines := useLines k.llcLines sp (ia / 128) .last false })
  else s
/-- After a read with .last the L1's copy of the line goes, its owned words written back first (R196). -/
def State.dropLast (s : State) (core sp ia : Nat) (ev : Evict) : State :=
  if ev = .last then s.evictL1 core { sp := sp, line := ia / 128 } else s
/-- What a reader brings to a read step: the bytes of its fibre's own undrained entries (R291 item 1), and the number below which a copy
of a byte is older than what the fibre has met (R292), by intermediate address. -/
structure Reader where
  own : Nat → Option Byte
  floor : Nat → Nat
/-- The reader that a fibre is, for an access at a place of its program order. -/
def State.reader (s : State) (tid fid order sp : Nat) : Reader := ⟨s.queuedByte tid fid order sp, s.floorOf tid fid sp⟩
/-- The read step of an access to bytes of one line (R200, R291): each byte from the reader's own entries first; the others from the core's
L1, where it holds them all as one copy; else by a Fill, beside what the L1 itself owns. None where another package must be asked. -/
def State.takeLine (s : State) (core : Nat) (rd : Reader) (sp ia : Nat) (pt : Point) (ev : Evict) (n : Nat) : State × Option (List Byte) :=
  let queued := fun i => rd.own (ia + i)
  let floor := rd.floor
  let need := (List.range n).filter (fun i => (queued i).isNone)
  let copies := need.filterMap (fun i => findByte (s.coreAt core).l1 sp (ia + i))
  if copies.length = need.length && coherent copies && copies.all (fun b => b.isOwned || decide (floor b.ia ≤ b.ver)) then
    let bs := (List.range n).map (fun i => ((queued i).getD (((findByte (s.coreAt core).l1 sp (ia + i)).map (·.val)).getD 0)))
    let t := if need.isEmpty then s else (s.useL1 core sp ia ev false).dropLast core sp ia ev
    ((if (ev = .llc || ev = .stream) && pt.wide && homePkg ia ≠ corePkg core then t.placeLine core sp ia n ev else t), some bs)
  else
    let t := s.bring (corePkg core) sp ia n pt
    match t.sliceBytes (corePkg core) sp ia n pt floor with
    | none => (t, none)
    | some cs =>
      let own := fun i => (findByte (t.coreAt core).l1 sp (ia + i)).filter CByte.isOwned
      let bs := cs.zipIdx.map (fun c => (queued c.2).getD (match own c.2 with | some b => b.val | none => c.1.val))
      ((t.keepBytes core sp ia ev cs).dropLast core sp ia ev, some bs)
/-- The read step of a fibre's access to bytes of one line. -/
def State.take (s : State) (core tid fid order sp ia : Nat) (pt : Point) (ev : Evict) (n : Nat) : State × Option (List Byte) :=
  s.takeLine core (s.reader tid fid order sp) sp ia pt ev n
/-- The pieces of a range that lie in one line each, with their offsets in it. -/
def linePieces (ia n : Nat) : List (Nat × Nat) :=
  (List.range ((ia + n + 127) / 128 - ia / 128)).map (fun i =>
    let a := max ia (128 * (ia / 128 + i))
    (a, min (ia + n) (128 * (ia / 128 + i) + 128) - a))
/-- A read step line by line, for the accesses that read several lines (R201): all of them, or none. -/
def State.takeAll (s : State) (core : Nat) (rd : Reader) (sp ia : Nat) (pt : Point) (ev : Evict) (n : Nat) : State × Option (List Byte) :=
  (linePieces ia n).foldl (fun acc x =>
    let r := acc.1.takeLine core rd sp x.1 pt ev x.2
    (r.1, match acc.2, r.2 with | some a, some b => some (a ++ b) | _, _ => none)) (s, some [])
/-- All bytes of a load, where each has a source. -/
def State.readBytes (s : State) (core tid fid order sp ia : Nat) (pt : Point) (n : Nat) : Option (List Byte) :=
  (s.take core tid fid order sp ia pt .default n).2
/-- Registrations on their way whose writes a read of the bytes may have returned (R293): made ones, those of the core itself, and those of
its package whose bytes have been sent up. The fibre's own stores are not among them; its engine commands' are (R299). -/
def State.witnessed (s : State) (core tid fid sp ia n : Nat) : List Nat :=
  let p := corePkg core
  (s.regs.filter (fun r => !(r.entry.tid = tid && r.entry.fid = fid && r.entry.cmd.isNone) && r.entry.sp = sp &&
    overlaps r.entry.ia r.entry.bytes.length ia n && (r.registered || r.entry.core = core ||
      (corePkg r.entry.core = p && (s.pkgAt p).llc.any (fun b => b.within sp r.entry.ia r.entry.bytes.length))))).map (·.entry.id)
/-- The registrations added to what a fibre has read. -/
def State.noteSeen (s : State) (l : Lane) (ids : List Nat) : State :=
  if ids.isEmpty then s
  else s.modFibre l (fun f => { f with seen := f.seen ++ ids.filter (fun i => !f.seen.contains i) })

end Sys2Proof.Machine
end

