-- ==== Sys2Proof/Machine/Block.lean ====
section
/-! DEFINITION. The fabric register block (R410): its registers, what a load of it reads and what a store to it does; ports
taken down and trained (R396). -/

namespace Sys2Proof.Machine

/-- Free slots of a stitch node (R410, R411). -/
def Pkg.freeSlots (p : Pkg) (node : Nat) : Nat :=
  (if node = 8 then 512 else 256) - (p.slots.filter (fun x => x.live && x.node = node)).length
/-- The sum of the floors (R410). -/
def Pkg.floorSum (p : Pkg) : Nat := p.floors.foldl (fun a x => a + x.2) 0
/-- A dword of a colophon record (R419): slot i holds the newest record whose SEQ is i modulo 2,048. -/
def Pkg.colWord (p : Pkg) (i w : Nat) : Nat :=
  match p.colophon.find? (fun r => r.seq % 2048 = i) with
  | none => 0
  | some r =>
    if w = 0 then r.seq + 2 ^ 32 * (r.cause.toNat + 256 * (r.part % 256) + 65536 * (r.core % 512))
    else if w = 1 then r.clk % 2 ^ 64
    else if w = 2 then r.value.toNat
    else r.aux.toNat + 2 ^ 32 * (r.epoch % 256)
/-- A register of the block (R410, R420), or of the colophon after it. -/
def State.blockReg (s : State) (pkg core off : Nat) : Nat :=
  let p := s.pkgAt pkg
  if off = 0x000 then pkg % 256 + 256 * (p.podsz % 256)
  else if off = 0x008 then p.fepoch % 256
  else if off = 0x010 then p.fpctl % 2 ^ 18
  else if off = 0x018 then p.fhi + 65536 * p.flo
  else if off = 0x020 then p.ffsel
  else if off = 0x028 then lookupD 0 p.ffsel p.floors
  else if off = 0x030 then p.retry % 2 ^ 32 + 2 ^ 32 * (p.maxtry % 256)
  else if off = 0x038 then p.ferr % 8
  else if 0x100 ≤ off && off < 0x190 && off % 8 = 0 then
    let q := p.ports.getD ((off - 0x100) / 8) { }
    q.state + 4 * (q.switch % 256) + 65536 * min q.replays 0xFFFF
  else if off = 0x200 then
    (if p.snact then 1 else 0) + (if p.slaUp then 2 else 0) + (if p.slbUp then 4 else 0)
  else if off = 0x208 then p.freeSlots 8 + 65536 * p.freeSlots (core % Config.coresPerPkg / Config.coresPerDie)
  else if off = 0x300 then p.colseq
  else if off = 0x308 then (if p.frozen then 1 else 0) + 65536 * p.colDropped
  else if off = 0x310 then p.dumpbase.toNat % 2 ^ 52 / 2 ^ 30 * 2 ^ 30
  else if off = 0x318 then p.dumpstat
  else if off = 0x320 then p.rstcause
  else if off = 0x328 then p.therm
  else if off = 0x330 then p.hostcfg
  else if 65536 ≤ off then p.colWord ((off - 65536) / 32) (off % 32 / 8)
  else 0
/-- One port changed. -/
def Pkg.modPort (p : Pkg) (i : Nat) (g : Port → Port) : Pkg :=
  { p with ports := p.ports.set i (g (p.ports.getD i { })) }
/-- A port going down (R396): PORTDOWN is set and MC_LINK goes to the monitor queue. -/
def State.portDown (s : State) (pkg port : Nat) : State :=
  (s.modPkg pkg (fun p => { p.modPort port (fun q => { q with state := 0, inRow := 0, buffer := [] }) with
    ferr := p.ferr ||| 4 })).monitorEvent pkg { cause := Cause.mcLink, aux := BitVec.ofNat 32 port }
/-- $FPCTL written (R410): cleared ports that are not down go down, and set ports that are down may train. -/
def State.setFpctl (s : State) (pkg v : Nat) : State :=
  let before := (s.pkgAt pkg).fpctl
  let v := v % 2 ^ 18
  let s := s.modPkg pkg (fun p => { p with fpctl := v })
  (List.range 18).foldl (fun t i =>
    if bitAt v i then (if bitAt before i then t else t.modPkg pkg (fun p => p.modPort i (fun q =>
      if q.state = 0 then { q with state := 1 } else q)))
    else if ((t.pkgAt pkg).ports.getD i { }).state = 0 then t else t.portDown pkg i) s
/-- $FPOOL written (R410). -/
def State.setFpool (s : State) (pkg v : Nat) : State :=
  s.modPkg pkg (fun p =>
    let hi := bits v 10 0
    let lo := bits v 26 16
    if hi < lo || 1024 - p.floorSum < hi then { p with ferr := p.ferr ||| 2 } else { p with fhi := hi, flo := lo })
/-- $FFLOOR written for the selected partition (R410). -/
def State.setFfloor (s : State) (pkg v : Nat) : State :=
  s.modPkg pkg (fun p =>
    let v := v % 1024
    if 512 < p.floorSum - lookupD 0 p.ffsel p.floors + v then { p with ferr := p.ferr ||| 1 }
    else { p with floors := insertAt p.ffsel v p.floors })
/-- $SNCTL written (R410): a write of ACT to a link that is down is ignored. -/
def State.setSnctl (s : State) (pkg v : Nat) : State :=
  s.modPkg pkg (fun p =>
    let b := v % 2 = 1
    if (if b then p.slbUp else p.slaUp) then { p with snact := b } else p)
/-- FROZEN cleared (R420): a reset record that waits for it is the first one written (R421). -/
def Pkg.unfreeze (p : Pkg) : Pkg :=
  match p.resetDue with
  | some r => { p with
      frozen := false, resetDue := none
      colophon := ({ r with seq := p.colseq } :: p.colophon).take 2048, colseq := (p.colseq + 1) % 2 ^ 32 }
  | none => { p with frozen := false }
/-- A register of the block written (R410). -/
def State.setBlockReg (s : State) (pkg off v : Nat) : State :=
  if off = 0x010 then s.setFpctl pkg v
  else if off = 0x018 then s.setFpool pkg v
  else if off = 0x020 then s.modPkg pkg (fun p => { p with ffsel := v % 128 })
  else if off = 0x028 then s.setFfloor pkg v
  else if off = 0x030 then s.modPkg pkg (fun p =>
    { p with retry := max 20 (min (v % 2 ^ 32) 2000), maxtry := max 1 (bits v 39 32) })
  else if off = 0x038 then s.modPkg pkg (fun p => { p with ferr := p.ferr - (p.ferr &&& (v % 8)) })
  else if off = 0x200 then s.setSnctl pkg v
  else if off = 0x308 then (if v % 2 = 1 then s.modPkg pkg Pkg.unfreeze else s)
  else if off = 0x310 then s.modPkg pkg (fun p => { p with dumpbase := BitVec.ofNat 64 (v % 2 ^ 52 / 2 ^ 30 * 2 ^ 30) })
  else s
/-- A load of 4 or 8 bytes from the block. -/
def State.blockLoad (s : State) (pkg core off size : Nat) : Nat :=
  s.blockReg pkg core (off / 8 * 8) / 2 ^ (8 * (off % 8)) % 2 ^ (8 * size)
/-- A store of 4 or 8 bytes to the block: the other bytes of the register keep what they read, but W1C bits get zero. -/
def State.blockStore (s : State) (pkg core off size v : Nat) : State :=
  let r := off / 8 * 8
  let old := if r = 0x038 || r = 0x308 then 0 else s.blockReg pkg core r
  s.setBlockReg pkg r (insertBits old v (8 * (off % 8)) (8 * size))
/-- Who may reach the block: a fibre at monitor privilege of the same package, with 4 or 8 bytes (R410). -/
def blockOk (pkg : Nat) (level : Level) (core size : Nat) : Bool :=
  level = .monitor && corePkg core = pkg && (size = 4 || size = 8)

end Sys2Proof.Machine
end

