-- ==== Sys2Proof/Machine/Fetch.lean ====
section
/-! DEFINITION. Fetching a fetch line (R102 to R105), its checks (R105, R106, R108, R126) and branch targets (R107, R154). -/

namespace Sys2Proof.Machine

/-- The 96 bits of a slot (R102, R111). -/
def slotBits (line : List Byte) (i : Nat) : Nat := ofBytes ((line.drop (12 * i)).take 12)
/-- The line word (R102). -/
def lineWord (line : List Byte) : Nat := ofBytes ((line.drop 60).take 4)
/-- TGT of a slot (R102, R107). -/
def lineTgt (line : List Byte) (slot : Nat) : Bool := bitAt (lineWord line) slot
/-- FOLD of a slot (R102, R108). -/
def lineFold (line : List Byte) (slot : Nat) : Bool := bitAt (lineWord line) (5 + slot)
/-- PAIR of slots i and i + 1 (R102, R109). -/
def linePair (line : List Byte) (slot : Nat) : Bool := bitAt (lineWord line) (10 + slot)
/-- All six parities of a line hold (R105). -/
def lineParityOk (line : List Byte) : Bool :=
  let w := lineWord line
  evenParity 32 w && (List.range 5).all (fun i => (popcount 96 (slotBits line i) + (if bitAt w (24 + i) then 1 else 0)) % 2 == 0)
/-- The opcode of NOP (R123). -/
def opcNop : Nat := 0x305
/-- The fault of a line, in the order of R126 items 2 to 4: parity, format (version, or FOLD on a slot that is no NOP), a
nonzero reserved field of the line word. -/
def lineFault (line : List Byte) (addr : Nat) : Option (Cause.Code × Dword) :=
  let w := lineWord line
  if !lineParityOk line then some (Cause.lineParity, BitVec.ofNat 64 addr)
  else if bits w 31 30 != 1
      || (List.range 5).any (fun i => bitAt w (5 + i) && slotBits line i / 2 ^ 86 % 1024 != opcNop) then
    some (Cause.lineFormat, BitVec.ofNat 64 addr)
  else if bits w 23 14 != 0 then some (Cause.illegalMod, 128 + 14)
  else none

/-- The name under which a core caches a line: the partition and whether the fibre runs at user privilege. -/
def icacheKey (t : Team) (level : Level) : Nat := 2 * t.partKey + (if level = .user then 0 else 1)
/-- $TVAL of a fetch fault (R103): the PC fetched in [55:0], the failed check's cause in [62:56]. -/
def fetchFaultVal (pc : Dword) (c : Cause.Code) : Dword := BitVec.ofNat 64 (pc.toNat % 2 ^ 56 + c.toNat * 2 ^ 56)
/-- The bytes of a line fetched from the package scope point, or the value of the FETCH_FAULT (R103, R104). A fetch never parks: an absent
page fails it. DESIGN CHOICE (log 54): R363 parks every request at a leaf with MIG set and R103 parks no fetch, so a fetch there reads the line
as it stands. -/
def State.fetchLine (s : State) (t : Team) (level : Level) (pc : Dword) : Except Dword (List Byte) :=
  match s.rangeCheck t.partKey level .exec (lineOf pc) with
  | .error c => .error (fetchFaultVal pc c)
  | .ok ia =>
    match s.pageCheck t.partKey level (some .exec) ia with
    | .absent => .error (fetchFaultVal pc Cause.pageFault)
    | .fail c => .error (fetchFaultVal pc c)
    | .place _ => .ok (s.fetchBytes t.coreKey (s.space t.partKey ia) ia 64)
    | .held => .ok (s.fetchBytes t.coreKey (s.space t.partKey ia) ia 64)
/-- The line that a fetch must bring over the fabric (R103, R407): its home is another package, and the slice of the core's own lacks a byte
of it. -/
def State.lineAway (s : State) (t : Team) (level : Level) (pc : Dword) : Option Nat :=
  match s.rangeCheck t.partKey level .exec (lineOf pc) with
  | .error _ => none
  | .ok ia =>
    if homePkg ia = t.pkg || (List.range 64).all (fun i => (s.sliceValue t.pkg (s.space t.partKey ia) (ia + i)).isSome) then none else some ia
/-- True when a word of a line that comes from memory is poisoned (R103, R418). -/
def State.linePoison (s : State) (t : Team) (level : Level) (pc : Dword) : Bool :=
  match s.preciseCheck t.partKey level .exec (lineOf pc) with
  | .ok ia =>
    let sp := s.space t.partKey ia
    !s.poison.isEmpty && (List.range 64).any (fun i => match s.sysKey sp (ia + i) with
      | some k => s.poison.contains (k / 4) && !s.cached t.coreKey sp (ia + i)
      | none => false)
  | .error _ => false
/-- The line of a cache of code lines. -/
def Core.cachedLine (c : Core) (key addr : Nat) : Option (List Byte) :=
  (c.icache.find? (fun e => e.1 = key && e.2.1 = addr)).map (·.2.2)
/-- The line a fibre issues from: the cached one; after a store to code, the old or the new one (R104; log 2). -/
def State.issueLine (s : State) (t : Team) (level : Level) (pc : Dword) : Option (List Byte) :=
  match (s.coreAt t.coreKey).cachedLine (icacheKey t level) (lineOf pc) with
  | none => none
  | some old =>
    match s.fetchLine t level pc with
    | .error _ => some old
    | .ok new => if old = new then some old else if Config.freeBit s.freeCtr (lineOf pc) 6 then some old else some new
/-- A line put into a core's cache of code lines. -/
def State.cacheLine (s : State) (t : Team) (level : Level) (pc : Dword) (line : List Byte) : State :=
  s.modCore t.coreKey (fun c =>
    { c with icache := (icacheKey t level, lineOf pc, line) ::
        c.icache.filter (fun e => !(e.1 = icacheKey t level && e.2.1 = lineOf pc)) })
/-- The first use of a code line's page (R361). -/
def State.touchCode (s : State) (t : Team) (level : Level) (pc : Dword) : State :=
  match s.rangeCheck t.partKey level .exec (lineOf pc) with
  | .ok ia => s.touchPage t.partKey ia
  | .error _ => s
/-- A fetched line used (R104): the core that has fetched a new one keeps that one. -/
def State.useLine (s : State) (t : Team) (level : Level) (pc : Dword) (line : List Byte) : State :=
  match (s.coreAt t.coreKey).cachedLine (icacheKey t level) (lineOf pc) with
  | some old => if old = line then s else s.cacheLine t level pc line
  | none => s.touchCode t level pc

/-- The line that a transfer reads its target's TGT from (R154): as for an issue where the core caches it, else as the package holds it. -/
def State.targetLine (s : State) (t : Team) (level : Level) (pc : Dword) : Except Dword (List Byte) :=
  match s.issueLine t level pc with
  | some line => .ok line
  | none => s.fetchLine t level pc
/-- The check of a transfer's target (R154): the line read, or the cause and value. -/
def State.targetCheck (s : State) (t : Team) (level : Level) (pc : Dword) : Except (Cause.Code × Dword) (List Byte) :=
  if addrHighBad pc then .error (Cause.addrHigh, pc)
  else if !pcSlotOk pc then .error (Cause.pcSlot, pc)
  else match s.targetLine t level pc with
    | .error v => .error (Cause.fetchFault, v)
    | .ok line => if lineTgt line (slotOf pc) then .ok line else .error (Cause.brTarget, pc)
/-- A target's line that must come over the fabric first (R154, R103). -/
def State.targetAway (s : State) (t : Team) (level : Level) (pc : Dword) : Option Nat :=
  if addrHighBad pc || !pcSlotOk pc || (s.issueLine t level pc).isSome then none
  else match s.fetchLine t level pc with
    | .ok _ => s.lineAway t level pc
    | .error _ => none

end Sys2Proof.Machine
end

