-- ==== Sys2Proof/Machine/Control.lean ====
section
/-! DEFINITION. Control transfers, NOP, YIELD and SLEEP (R154 to R157), and their machine steps. -/

namespace Sys2Proof.Machine

open Host (Outcome)

/-- The direct target of R122. -/
def branchTarget (pc : Dword) (m : BranchMod) : Dword :=
  BitVec.ofInt 64 (pc.toNat / 64 * 64 + m.ldisp.toInt * 64 + 12 * m.tslot.toNat)
/-- A line of code asked of its home package (R103, R404, R407): the fibre waits for it. -/
def State.awaitLine (s : State) (l : Lane) (pc : Dword) (ia : Nat) : State :=
  let tm := s.team l.tid
  (s.addReq {
    id := 0, kind := .line, tid := l.tid, fid := l.fid, core := tm.coreKey, part := tm.partKey, order := s.seq, level := (s.fibre l).level
    va := pc, sp := s.space tm.partKey ia, ia := ia, size := 64, pt := .package, evict := .llc, code := true }).modFibre l (fun f =>
    { f with wait := some { on := .parked s.seq, since := s.now }, waitAt := pc })
/-- A transfer (R154): the checks of the target in order, the link, and the new PC. -/
def transfer (h : Head) (target : State → Lane → Dword) (link : Bool) (s : State) : Outcome State Fault Refusal :=
  .next (s.runLanes h (fun t l =>
    let f := s.fibre l
    let dest := target s l
    match s.targetAway (s.team l.tid) f.level dest, s.targetCheck (s.team l.tid) f.level dest with
    | some ia, _ => .stay (t.awaitLine l dest ia)
    | none, .error c => .trap c.1 c.2
    | none, .ok line =>
      let t := t.useLine (s.team l.tid) f.level dest line
      .goto dest (if link then t.writePair l h.dst (nextPc f.pc) none else t)))
/-- BRA (R155, R122). -/
def execBra (h : Head) (m : BranchMod) (s : State) : Outcome State Fault Refusal :=
  transfer h (fun s l => branchTarget (s.fibre l).pc m) false s
/-- CALL (R155, R122). -/
def execCall (h : Head) (m : BranchMod) (s : State) : Outcome State Fault Refusal :=
  transfer h (fun s l => branchTarget (s.fibre l).pc m) true s
/-- BRX (R155). -/
def execBrx (h : Head) (_m : SyncMod) (s : State) : Outcome State Fault Refusal :=
  transfer h (fun s l => s.readPair l .sa h.sa) false s
/-- CALLX (R155): the target is read before the link is written. -/
def execCallx (h : Head) (_m : SyncMod) (s : State) : Outcome State Fault Refusal :=
  transfer h (fun s l => s.readPair l .sa h.sa) true s
/-- RET has the effect of BRX (R155). -/
def execRet (h : Head) (_m : SyncMod) (s : State) : Outcome State Fault Refusal :=
  transfer h (fun s l => s.readPair l .sa h.sa) false s
/-- NOP has no effect (R156). -/
def execNop (h : Head) (_m : FoldMod) (s : State) : Outcome State Fault Refusal :=
  .next (s.runLanes h (fun t _ => .done t))
/-- YIELD (R156): the fibre is not ready for n clk after its issue. -/
def execYieldN (h : Head) (m : SyncMod) (s : State) : Outcome State Fault Refusal :=
  .next (s.runLanes h (fun t l => .done
    (if m.imm24 = 0 then t else t.modFibre l (fun f => { f with hold := some (.yield (s.now + m.imm24.toNat)) }))))
/-- A fibre begins a Wait on what an address or handle names; its PC stays at the instruction (R37, R64). -/
def State.suspend (s : State) (l : Lane) (on : WaitOn) (addr : Dword := 0) : LaneRes :=
  .stay (s.modFibre l (fun f => { f with wait := some { on := on, met := false, since := s.now }, waitAt := addr, turn := none }))
/-- A fibre's Wait ended. -/
def State.resume (s : State) (l : Lane) : State := s.modFibre l (fun f => { f with wait := none })
/-- SLEEP for n clk (R157): the fibre waits; when its time has run the instruction completes. -/
def sleepLane (s t : State) (l : Lane) (n : Nat) : LaneRes :=
  match (s.fibre l).wait with
  | some w => if w.met then .done (t.resume l) else .stay t
  | none => if n = 0 then .done t else t.suspend l (.sleep (s.now + n))
/-- SLEEP, immediate form (R157). -/
def execSleep (h : Head) (m : SyncMod) (s : State) : Outcome State Fault Refusal :=
  .next (s.runLanes h (fun t l => sleepLane s t l m.imm24.toNat))
/-- SLEEP, register form (R157). -/
def execSleepReg (h : Head) (_m : SyncMod) (s : State) : Outcome State Fault Refusal :=
  .next (s.runLanes h (fun t l => sleepLane s t l (s.readReg l .sa h.sa).toNat))

/-- The condition of a fibre's Wait becomes true (R64, R65): the fibre is ready again, and a jacketed team is ready to be
restored unless it is held. -/
def State.meet (s : State) (l : Lane) : State :=
  (s.modFibre l (fun f => { f with
    wait := f.wait.map (fun w => { w with met := true })
    readySince := max f.readyAt s.now })).modTeam l.tid (fun t =>
      match t.res with
      | .jacketed n false _ => { t with res := .jacketed n false true }
      | _ => t)
/-- YIELD_EXPIRY (R156): the n clk of a YIELD have passed. -/
def execYieldExpiry (tid fid : Nat) (s : State) : Outcome State Fault Refusal :=
  .next (match (s.fibre ⟨tid, fid⟩).hold with
    | some (.yield till) =>
      if till ≤ s.now then s.modFibre ⟨tid, fid⟩ (fun f => { f with hold := none, readySince := max f.readyAt till }) else s
    | _ => s)
/-- SLEEP_EXPIRY (R157): the n clk of a SLEEP have passed. DESIGN CHOICE (log 57): the rule lets the fibre become ready up to 64 clk later; here
it is ready at once. -/
def execSleepExpiry (tid fid : Nat) (s : State) : Outcome State Fault Refusal :=
  .next (match (s.fibre ⟨tid, fid⟩).wait with
    | some ⟨.sleep till, false, _⟩ => if till ≤ s.now then s.meet ⟨tid, fid⟩ else s
    | _ => s)
/-- True while an access of a fibre, or of any fibre of the team, with a producer's number has not been taken. -/
def State.untaken (s : State) (tid : Nat) (fid : Option Nat) (id : Nat) : Bool :=
  s.reqs.any (fun q => q.tid = tid && q.order = id && (fid = none || fid = some q.fid)) ||
  s.stitch.any (fun m => m.issuer = tid && m.order = id && m.dst.isSome && (fid = none || fid = some m.fid))
/-- RESULT_ARRIVAL (R116): a variable-latency result that its producer has made arrives, its flags with it (R172). -/
def execResultArrival (tid fid id : Nat) (s : State) : Outcome State Fault Refusal :=
  .next (if s.untaken tid (some fid) id then s else
    (s.modFibre ⟨tid, fid⟩ (fun f =>
      { f with pend := f.pend.filter (fun p => !(p.id = id && p.due = none)) })).modTeam tid (fun t =>
    { t with
      fflags := t.flagPend.foldl (fun a p => if p.fid = fid && p.id = id && p.due = none then a ||| p.flags else a) t.fflags
      flagPend := t.flagPend.filter (fun p => !(p.fid = fid && p.id = id && p.due = none))
      scalarPend := t.scalarPend.filter (fun p => !(p.id = id && p.due = none && !s.untaken tid none id &&
        !(t.fibre p.fid).pend.any (fun q => q.id = id && q.due = none))) }))
/-- True when what holds a fibre is done with. -/
def Hold.over : Hold → Bool
  | .release _ d => d
  | .tile _ d => d
  | .inv _ _ _ d => d
  | .jksave _ _ r => r.isSome
  | .yield _ => false
/-- A fibre neither suspended in Wait nor held back, its STEP trap taken. -/
def Fibre.awake (f : Fibre) : Bool :=
  (match f.wait with | none => true | some w => w.met) && (match f.hold with | none => true | some h => h.over) && !f.stepDue
/-- True when the team's residence lets the fibre issue: it is resident (stopped fibres excepted), or it is being saved and the fibre
runs at monitor level or completes a tile or an XINV (R342, R350, R351). -/
def Team.lets (t : Team) (f : Fibre) : Bool :=
  match t.res with
  | .resident => f.stopped.isNone || f.level = .monitor
  | .saving _ => f.level = .monitor ||
      (match f.hold with | some (.tile _ d) => d | some (.inv _ _ _ d) => d | _ => false)
  | _ => false
/-- A line that has arrived enters the cache of code lines once its six parities hold (R105): one whose parity fails is discarded and fetched
once more. A good second copy is a corrected error (R418); a bad one stays, and what issues from it raises LINE_PARITY. -/
def State.fillLine (s : State) (t : Team) (level : Level) (pc : Dword) (line : List Byte) : State :=
  let name := (icacheKey t level, lineOf pc)
  let again := (s.coreAt t.coreKey).refetch.contains name
  let s := (s.touchCode t level pc).modCore t.coreKey (fun c => { c with
    refetch := if again || lineParityOk line then c.refetch.filter (· ≠ name) else name :: c.refetch })
  if !lineParityOk line && !again then s
  else if lineParityOk line && again then (s.cacheLine t level pc line).corrected t.pkg t.part t.core
  else s.cacheLine t level pc line
/-- LINE_FILL (R103, R105): the line that a fibre's PC names arrives. A first fetch is checked for ADDR_HIGH and PC_SLOT before it (R126), and a
fetch fault is precise: it is met where the fibre could issue (R39). A line of another package is asked of its home first; a fibre whose met
Wait the fetch would overwrite reads it at once (log 54). -/
def execLineFill (tid fid : Nat) (s : State) : Outcome State Fault Refusal :=
  let l : Lane := ⟨tid, fid⟩
  let t := s.team tid
  let f := s.fibre l
  .next (
    if s.fibre? l = none || f.halted || f.inFlight || f.gathered || !t.lets f || !f.awake || decide (s.now < f.readyAt) then s
    else if addrHighBad f.pc then s.takeTrap l Cause.addrHigh f.pc
    else if !pcSlotOk f.pc then s.takeTrap l Cause.pcSlot f.pc
    else match s.fetchLine t f.level f.pc with
      | .error v => s.takeTrap l Cause.fetchFault v
      | .ok line =>
        match (if f.wait.isNone then s.lineAway t f.level f.pc else none) with
        | some ia => s.awaitLine l f.pc ia
        | none =>
          if s.linePoison t f.level f.pc then s.takeTrap l Cause.mcPoison f.pc
          else s.fillLine t f.level f.pc line)

end Sys2Proof.Machine
end

