-- ==== Sys2Proof/Machine/Access.lean ====
section
/-! DEFINITION. What the memory instructions share: the address checks (R193, R195, R197, R334), data operands (R192),
results that land later (R116, R22), the scratchpad with its owner bits (R25, R26, R203), and parking (R363, R404). -/

namespace Sys2Proof.Machine

/-- The outcome of a check: a value, or the cause and $TVAL of a trap. -/
abbrev Chk (α : Type) := Except (Cause.Code × Dword) α

/-- ScopePoint (R37, R51). -/
def Team.point (t : Team) (lv : Nat) : Chk Point :=
  match t.levels[lv]? with
  | some x => .ok x.pt
  | none => .error (Cause.scopeUndecl, BitVec.ofNat 64 lv)
/-- True when a user access of some kinds touches the watched word (R328, R334). -/
def Team.watched (t : Team) (f : Fibre) (ks : List Acc) (va n : Nat) : Bool :=
  f.level = .user && t.dbgctl.getLsbD 2 && overlaps va n (t.watcha.toNat / 8 * 8) 8 &&
    ks.any (fun k => (k = .read && t.dbgctl.getLsbD 3) || (k = .write && t.dbgctl.getLsbD 4))
/-- Steps 1 to 3 of R193: the scope point, the high bits, and natural alignment. -/
def formChecks (t : Team) (lv : Nat) (va : Dword) (size : Nat) : Chk Point :=
  match t.point lv with
  | .error c => .error c
  | .ok pt =>
    if addrHighBad va then .error (Cause.addrHigh, va)
    else if va.toNat % size ≠ 0 then .error (Cause.misaligned, va)
    else .ok pt
/-- Step 4 of R193 for each kind, then step 5 for each kind, then WATCH. -/
def State.kindChecks (s : State) (t : Team) (f : Fibre) (ks : List Acc) (va : Dword) (n : Nat) : Chk Nat :=
  let range := fun (k : Acc) => match s.rangeCheck t.partKey f.level k va.toNat with | .error c => some (c, va) | .ok _ => none
  let page := fun (k : Acc) => match s.preciseCheck t.partKey f.level k va.toNat with | .error c => some (c, va) | .ok _ => none
  match ks.findSome? range, ks.findSome? page, s.rangeCheck t.partKey f.level (ks.headD .read) va.toNat with
  | some c, _, _ => .error c
  | none, some c, _ => .error c
  | none, none, .error c => .error (c, va)
  | none, none, .ok ia => if t.watched f ks va.toNat n then .error (Cause.watch, va) else .ok ia
/-- Every check of a precise access: the scope point and the intermediate address, or the trap. -/
def State.accessChecks (s : State) (t : Team) (f : Fibre) (lv : Nat) (ks : List Acc) (va : Dword) (n : Nat) :
    Chk (Point × Nat) :=
  match formChecks t lv va n with
  | .error c => .error c
  | .ok pt =>
    match s.kindChecks t f ks va n with
    | .error c => .error c
    | .ok ia => .ok (pt, ia)
/-- The checks of a plain store: its page is checked later (R198). -/
def State.storeChecks (s : State) (t : Team) (f : Fibre) (lv : Nat) (va : Dword) (n : Nat) : Chk (Point × Nat) :=
  match formChecks t lv va n with
  | .error c => .error c
  | .ok pt =>
    match s.rangeCheck t.partKey f.level .write va.toNat with
    | .error c => .error (c, va)
    | .ok ia => if t.watched f [.write] va.toNat n then .error (Cause.watch, va) else .ok (pt, ia)
/-- ENG_FAULT at an engine command, OBREL, CTAB, LEAFWT, LEAFTST or an instruction that performs a release (R232). -/
def Fibre.engFaulted (f : Fibre) : Option (Cause.Code × Dword) := f.engineFault.map (fun v => (Cause.engFault, v))
/-- STORE_DEFERRED, then ENG_FAULT, at an instruction that performs a release (R199, R232). DESIGN CHOICE (log 48): R126 orders no execution
faults among themselves; where both are recorded STORE_DEFERRED comes first. -/
def Fibre.deferred (f : Fibre) : Option (Cause.Code × Dword) :=
  match f.storeFault with
  | some va => some (Cause.storeDeferred, va)
  | none => f.engFaulted
/-- True when a read of some bytes consumes poison (R418): one that it takes from memory, not from its fibre's own entries (R291) nor from a
cache, lies in a poisoned word. -/
def State.poisonedFor (s : State) (core : Nat) (own : Nat → Option Byte) (sp ia n : Nat) : Bool :=
  !s.poison.isEmpty && (List.range n).any (fun i =>
    (match s.sysKey sp (ia + i) with | some k => s.poison.contains (k / 4) | none => false) &&
    (own (ia + i)).isNone && !s.cached core sp (ia + i))
/-- The same for a read that no fibre's entries serve. -/
def State.poisoned (s : State) (core sp ia n : Nat) : Bool := s.poisonedFor core (fun _ => none) sp ia n
/-- Whole words of a range written: their poison goes (R418). -/
def State.cleanWords (s : State) (sp ia n : Nat) : State :=
  if s.poison.isEmpty then s
  else
    let ws := (List.range (n / 4 + 1)).filterMap (fun i =>
      let w := (ia + 3) / 4 * 4 + 4 * i
      if w + 4 ≤ ia + n then (s.sysKey sp w).map (· / 4) else none)
    { s with poison := s.poison.filter (fun k => !ws.contains k) }

/-- The global address of a lane (R193). -/
def State.globalVa (s : State) (l : Lane) (fld : Field) (off : BitVec w) : Dword := s.readPair l .sa fld + off.signExtend 64
/-- A data operand of a size (R192). -/
def State.readData (s : State) (l : Lane) (pos : Pos) (fld : Field) (size : Nat) : Nat :=
  if size ≤ 4 then (s.readReg l pos fld).toNat % 2 ^ (8 * size)
  else if size = 8 then (s.readPair l pos fld).toNat
  else (s.readQuad l pos fld).toNat
/-- The registers that data of a size occupies, and its words (R192). -/
def loadWords (size : Nat) (sx : Bool) (v : Nat) : List Word :=
  if size < 4 then [if sx then BitVec.ofInt 32 (toSigned (8 * size) v) else BitVec.ofNat 32 v]
  else (List.range (size / 4)).map (fun i => BitVec.ofNat 32 (v / 2 ^ (32 * i)))
/-- Words written to consecutive registers with variable latency. -/
def State.writeWords (s : State) (l : Lane) (fld : Field) (ws : List Word) : State :=
  ws.zipIdx.foldl (fun t p => t.writeName l (regName fld.file (fld.idx + p.2)) p.1 none) s
/-- The destination of an access noted as not yet arrived, under a producer's number. -/
def State.expectWords (s : State) (l : Lane) (fld : Field) (n id : Nat) : State :=
  (List.range n).foldl (fun t i =>
    let r := regName fld.file (fld.idx + i)
    t.modFibre l (fun f => f.note s.now r ((s.team l.tid).stored f r) none id)) s
/-- A word landing in its destination: a later write to the register is not overtaken (R116), and of several lanes that write
a team-scalar the highest keeps its value (R22). -/
def State.land (s : State) (l : Lane) (r : RegName) (v : Word) (id : Nat) : State :=
  match r with
  | .scalar i =>
    if (s.team l.tid).overtaken i id (l.fid % 32) then s else s.modTeam l.tid (fun t => t.putScalar l.fid s.now i v none id)
  | _ => s.modFibre l (fun f => if f.pend.any (fun p => p.reg = r && p.id = id) then f.put r v else f)
/-- Words landing in consecutive registers. -/
def State.landWords (s : State) (l : Lane) (fld : Field) (ws : List Word) (id : Nat) : State :=
  ws.zipIdx.foldl (fun t p => t.land l (regName fld.file (fld.idx + p.2)) p.1 id) s

/-- A scratchpad offset (R204). -/
def State.leafOff (s : State) (l : Lane) (fld : Field) (off : BitVec 23) : Nat :=
  (s.readReg l .sa fld + off.signExtend 32).toNat
/-- LEAF_RANGE for a range of team offsets, with the first offset out of range (R25, R194). -/
def leafRange (leaves off n : Nat) : Option (Cause.Code × Dword) :=
  if n = 0 ∨ off + n ≤ 2048 * leaves then none
  else some (Cause.leafRange, BitVec.ofNat 64 (max off (2048 * leaves)))
/-- The leaves that a range touches: the first, and the one after the last. -/
def leafSpan (off n : Nat) : Nat × Nat := if n = 0 then (0, 0) else (off / 2048, (off + n - 1) / 2048 + 1)
/-- True while a leaf of a span is engine-owned (R26). -/
def Team.engineOwned (t : Team) (sp : Nat × Nat) : Bool :=
  t.claims.any (fun c => c.2.any (fun i => decide (sp.1 ≤ i) && decide (i < sp.2)))
/-- An access to leaves of a team goes on when all are thread-owned; else the fibre waits (R26, R64). -/
def State.withLeaves (t : State) (l : Lane) (owner off n : Nat) (k : State → LaneRes) : LaneRes :=
  let sp := leafSpan off n
  if (t.team owner).engineOwned sp then t.suspend l (.leaf sp.1 sp.2) (BitVec.ofNat 64 off) else k (t.resume l)
/-- Bytes of a team's scratchpad, in the core's one order (R203). -/
def Team.readLeaf (t : Team) (off n : Nat) : List Byte := Memory.read t.scratch off n
/-- Bytes written into a team's scratchpad. -/
def Team.writeLeaf (t : Team) (off : Nat) (bs : List Byte) : Team := { t with scratch := Memory.write t.scratch off bs }

/-- A fibre parks on bytes that it cannot reach at once (R64, R201, R215, R404): a request for them is made, and the fibre
is suspended until it is answered. -/
def State.parkOn (s : State) (l : Lane) (q : Req) : State :=
  (s.addReq { q with kind := .line, tid := l.tid, fid := l.fid }).modFibre l (fun f =>
    { f with wait := some { on := .parked s.seq, since := s.now }, waitAt := q.va })

/-- True for a fibre whose parked request has been answered: its instruction goes on (R64). -/
def Fibre.reached (f : Fibre) : Bool := match f.wait with | some ⟨.parked _, true, _⟩ => true | _ => false
/-- True for an access whose home is another package: its fibre waits for the answer (R403, R404). -/
def Req.hard (q : Req) : Bool := homePkg q.ia ≠ corePkg q.core
/-- An access made: an access of another package's memory suspends its fibre at the instruction, any other lets it go on. -/
def State.issueReq (s : State) (l : Lane) (q : Req) : LaneRes :=
  if q.hard then
    .stay ((s.addReq q).modFibre l (fun f => { f with wait := some { on := .parked s.seq, since := s.now }, waitAt := q.va }))
  else .done (s.addReq q)
/-- The fibre's wait answered: the bytes, or the cause that its access failed with (R403). -/
def State.answer (s : State) (l : Lane) (on : WaitOn) : State :=
  (s.modFibre l (fun f => { f with wait := some { on := on, since := s.now } })).meet l
/-- An instruction that finds its wait answered completes with the bytes, or traps. -/
def answered (f : Fibre) (k : List Byte → LaneRes) (other : LaneRes) : LaneRes :=
  match f.wait with
  | some ⟨.answer bs, _, _⟩ => k bs
  | some ⟨.failed c v, _, _⟩ => .trap c v
  | _ => other
/-- The acquire of an answered access (R294), once the fibre's earlier loads have read. -/
def State.acquireAnswered (t : State) (l : Lane) (core : Nat) (acq : Bool) (pt : Option Point) : LaneRes :=
  if acq && t.loading l then .stay t
  else .done ((match acq, pt with | true, some pt => t.acquire core pt | _, _ => t).resume l)

end Sys2Proof.Machine
end

