-- ==== Sys2Proof/Machine/Band.lean ====
section
/-! DEFINITION. Band-collective instructions: gathering (R44, R45), segments (R159), VOTE, SHFL, BREDUCE, BSCAN, MATCH and
BSYNC (R158 to R166). -/

namespace Sys2Proof.Machine

open Host (Outcome)

/-- The band of a fibre (R43). -/
def bandOf (fid : Nat) : Nat := fid / 32
/-- A fibre is parked while it is suspended in Wait (R44). -/
def Fibre.parked (f : Fibre) : Bool := match f.wait with | some w => !w.met | none => false
/-- The enrolled fibres of a band, lowest lane first (R44). -/
def Team.enrolled (t : Team) (b : Nat) : List Nat :=
  orderByLane ((t.fibres.filter (fun f => bandOf f.fid = b && !f.parked)).map (·.fid))
/-- Every enrolled fibre of a band has reached the collective at an address (R44). -/
def Team.bandAt (t : Team) (b : Nat) (pc : Dword) : Bool :=
  (t.enrolled b).all (fun i => (t.fibre i).gathered && (t.fibre i).pc = pc)
/-- Every enrolled fibre of a band has reached some collective, not all at one address (R45). -/
def Team.bandSplit (t : Team) (b : Nat) : Bool :=
  match t.enrolled b with
  | [] => false
  | i :: r => (i :: r).all (fun j => (t.fibre j).gathered) && r.any (fun j => (t.fibre j).pc ≠ (t.fibre i).pc)
/-- The lanes of the signature have reached the collective (R44). -/
def State.reach (s : State) : State :=
  s.sigLanes.foldl (fun t l => t.modFibre l (fun f => { f with gathered := true, wait := none })) s
/-- Numbers without repeats, in order. -/
def dedup : List Nat → List Nat
  | [] => []
  | a :: r => let d := dedup r; if d.contains a then d else a :: d
/-- The bands whose lanes the signature holds. -/
def State.sigBands (s : State) : List Nat := dedup (s.sig.fids.map bandOf)
/-- A collective executed for a band: each contributing lane's effect, from sources read before any is written, and every
participant proceeds (R158). -/
def State.runBand (s : State) (h : Head) (b : Nat) (g : List Lane → State → Lane → LaneRes) : State :=
  let parts := ((s.team s.sig.tid).enrolled b).map (fun i => (⟨s.sig.tid, i⟩ : Lane))
  let contrib := parts.filter (s.guard h ·)
  parts.foldl (fun t l => t.finish l h (if s.guard h l then g contrib t l else .done t)) s
/-- A collective instruction: its lanes are gathered, and each band that is whole executes it once (R44). -/
def collective (h : Head) (g : State → List Lane → State → Lane → LaneRes) (s : State) : Outcome State Fault Refusal :=
  let s1 := s.reach
  .next (s.sigBands.foldl (fun t b =>
    match s.sig.fids.find? (fun i => bandOf i = b) with
    | some i => if (s1.team s.sig.tid).bandAt b (s.fibre ⟨s.sig.tid, i⟩).pc then t.runBand h b (g t) else t
    | none => t) s1)

/-- The segment width of a code (R159). -/
def segWidth (m : SyncMod) : Nat := 32 / 2 ^ (bits m.imm24.toNat 10 8)
/-- The lane number of a lane. -/
def Lane.num (l : Lane) : Nat := l.fid % 32
/-- The contributing lanes in a lane's segment (R159). -/
def segment (m : SyncMod) (contrib : List Lane) (l : Lane) : List Lane :=
  contrib.filter (fun k => k.num / segWidth m = l.num / segWidth m)
/-- VOTE.any (R160). -/
def execVoteAny (h : Head) (m : SyncMod) (s : State) : Outcome State Fault Refusal :=
  collective h (fun s0 c t l => .done (t.writePred l h.dst.pred
    ((segment m c l).any (fun k => s0.readPred k .sa h.sa.pred)) none)) s
/-- VOTE.all (R160). -/
def execVoteAll (h : Head) (m : SyncMod) (s : State) : Outcome State Fault Refusal :=
  collective h (fun s0 c t l => .done (t.writePred l h.dst.pred
    ((segment m c l).all (fun k => s0.readPred k .sa h.sa.pred)) none)) s
/-- The mask of lanes, one bit each. -/
def laneMask (ls : List Lane) : Word := BitVec.ofNat 32 (ls.foldl (fun a k => a + 2 ^ k.num) 0)
/-- VOTE.ballot (R160). -/
def execVoteBallot (h : Head) (m : SyncMod) (s : State) : Outcome State Fault Refusal :=
  collective h (fun s0 c t l => .done (t.writeReg l h.dst
    (laneMask ((segment m c l).filter (fun k => s0.readPred k .sa h.sa.pred))) none)) s
/-- VOTE.count (R160). -/
def execVoteCount (h : Head) (m : SyncMod) (s : State) : Outcome State Fault Refusal :=
  collective h (fun s0 c t l => .done (t.writeReg l h.dst
    (BitVec.ofNat 32 ((segment m c l).filter (fun k => s0.readPred k .sa h.sa.pred)).length) none)) s
/-- The source place of a SHFL in its segment: none when it is out of range (R161). -/
def shflPlace (mode r u w : Nat) : Option Nat :=
  if mode = 0 then some (u % w)
  else if mode = 1 then (if r < u then none else some (r - u))
  else if mode = 2 then (if w - 1 < r + u then none else some (r + u))
  else some (r ^^^ (u % w))
/-- The place that a mode without FILL wraps to (R161). -/
def shflWrap (mode r u w : Nat) : Nat := if mode = 1 then (r + 32 * w - u) % w else (r + u) % w
/-- What a lane receives from SHFL (R161). -/
def shflValue (s0 : State) (h : Head) (m : SyncMod) (c : List Lane) (l : Lane) : Word :=
  let w := segWidth m
  let r := l.num % w
  let u := if m.optype.getLsbD 0 then m.imm24.toNat % 32 else (s0.readReg l .sb h.sb).toNat % 32
  let fill := m.imm24.getLsbD 11
  let own := s0.readReg l .sa h.sa
  let filled := s0.readReg l .sc h.sc
  let from_ := fun (t : Nat) =>
    match c.find? (fun k => k.num = l.num - r + t) with
    | some k => s0.readReg k .sa h.sa
    | none => if fill then filled else own
  match shflPlace m.subop.toNat r u w with
  | some t => from_ t
  | none => if fill then filled else from_ (shflWrap m.subop.toNat r u w)
/-- SHFL (R161). -/
def execShfl (h : Head) (m : SyncMod) (s : State) : Outcome State Fault Refusal :=
  collective h (fun s0 c t l => .done (t.writeReg l h.dst (shflValue s0 h m c l) none)) s
/-- The type of a band combination (R162). -/
def bandType (m : SyncMod) : IType := if m.optype.getLsbD 0 then .n32 else .s32
/-- The combination of two 32-bit values (R162). -/
def combine (op : Nat) (ty : IType) (a b : Word) : Word :=
  if op = 0 then a + b
  else if op = 1 then (if readAs ty a.toNat ≤ readAs ty b.toNat then a else b)
  else if op = 2 then (if readAs ty a.toNat ≤ readAs ty b.toNat then b else a)
  else if op = 3 then a &&& b else if op = 4 then a ||| b else a ^^^ b
/-- The identity of a combination (R162). -/
def identityOf (op : Nat) (ty : IType) : Word :=
  if op = 1 then BitVec.ofInt 32 (maxV ty) else if op = 2 then BitVec.ofInt 32 (minV ty)
  else if op = 3 then 0xFFFFFFFF else 0
/-- The combination over lanes (R162). -/
def combineAll (s0 : State) (h : Head) (m : SyncMod) (ls : List Lane) : Word :=
  ls.foldl (fun a k => combine m.subop.toNat (bandType m) a (s0.readReg k .sa h.sa)) (identityOf m.subop.toNat (bandType m))
/-- BREDUCE (R162). -/
def execBreduce (h : Head) (m : SyncMod) (s : State) : Outcome State Fault Refusal :=
  collective h (fun s0 c t l => .done (t.writeReg l h.dst (combineAll s0 h m (segment m c l)) none)) s
/-- BSCAN (R162): lower lanes, and the lane itself unless .excl. -/
def execBscan (h : Head) (m : SyncMod) (s : State) : Outcome State Fault Refusal :=
  collective h (fun s0 c t l => .done (t.writeReg l h.dst (combineAll s0 h m ((segment m c l).filter (fun k =>
    decide (k.num < l.num) || (decide (k.num = l.num) && !m.optype.getLsbD 1)))) none)) s
/-- The A of MATCH: 32 bits or a pair (R163). -/
def matchKey (s0 : State) (h : Head) (m : SyncMod) (l : Lane) : Dword :=
  if m.optype.getLsbD 0 then s0.readPair l .sa h.sa else (s0.readReg l .sa h.sa).setWidth 64
/-- MATCH.lead (R163): LEAD, NEQ and RANK. -/
def execMatchLead (h : Head) (m : SyncMod) (s : State) : Outcome State Fault Refusal :=
  collective h (fun s0 c t l =>
    let same := (segment m c l).filter (fun k => matchKey s0 h m k = matchKey s0 h m l)
    let lead := same.foldl (fun a k => min a k.num) 31
    .done (t.writeReg l h.dst (BitVec.ofNat 32
      (lead + 32 * same.length + 2048 * (same.filter (fun k => decide (k.num < l.num))).length)) none)) s
/-- MATCH.uni (R163). -/
def execMatchUni (h : Head) (m : SyncMod) (s : State) : Outcome State Fault Refusal :=
  collective h (fun s0 c t l => .done (t.writePred l h.dst.pred
    ((segment m c l).all (fun k => matchKey s0 h m k = matchKey s0 h m l)) none)) s
/-- BSYNC (R164): the gathering alone. -/
def execBsync (h : Head) (_m : SyncMod) (s : State) : Outcome State Fault Refusal :=
  collective h (fun _ _ t _ => .done t) s
/-- BSYNC.mask (R164): the mask of the band's participants, whatever their guards. -/
def execBsyncMask (h : Head) (_m : SyncMod) (s : State) : Outcome State Fault Refusal :=
  collective h (fun s0 _ t l => .done (t.writeReg l h.dst
    (laneMask (((s0.team l.tid).enrolled (bandOf l.fid)).map (fun i => ⟨l.tid, i⟩))) none)) s
/-- BAND_SPLIT (R45): raised in each enrolled fibre of a band all of whose fibres wait at collectives of several addresses. -/
def execBandSplit (tid band : Nat) (s : State) : Outcome State Fault Refusal :=
  let t := s.team tid
  .next (if t.bandSplit band && !(t.enrolled band).any (fun i => (t.fibre i).inFlight) then
      (t.enrolled band).foldl (fun s i => s.takeTrap ⟨tid, i⟩ Cause.bandSplit (BitVec.ofNat 64 band)) s
    else s)

end Sys2Proof.Machine
end

