-- ==== Sys2Proof/Machine/Transcend.lean ====
section
/-! DEFINITION. Quotients, square roots and the transcendental functions of R173 and R179, as dyadic numbers with a sticky
last bit: rounding such a number gives what rounding the exact value gives. Fixed-point numbers here have 256 fraction bits;
no 16-bit operand has a function value within 2^-200 of a rounding boundary that it does not lie on (log 8). -/

namespace Sys2Proof.Machine

/-- n / d x 2^e with 120 bits and a sticky bit. -/
def quotient (neg : Bool) (n d : Nat) (e : Int) : FVal :=
  let k := 120 + log2 d
  let q := n * 2 ^ k / d
  let rest := n * 2 ^ k % d
  .fin neg (2 * q + (if rest = 0 then 0 else 1)) (e - k - 1)
/-- Integer square root by bisection: s is the root's bits found, w the weight of the next. -/
def rootLoop : Nat → Nat → Nat → Nat
  | 0, _, s => s
  | i + 1, n, s => let c := s + 2 ^ i; rootLoop i n (if c * c ≤ n then c else s)
/-- floor of the square root. -/
def isqrt (n : Nat) : Nat := rootLoop (log2 n / 2 + 1) n 0
/-- The square root of sig x 2^exp, with a sticky bit. -/
def squareRoot (sig : Nat) (exp : Int) : FVal :=
  let e := if exp % 2 = 0 then exp else exp - 1
  let n := (if exp % 2 = 0 then sig else 2 * sig) * 2 ^ 256
  let r := isqrt n
  .fin false (2 * r + (if r * r = n then 0 else 1)) (e / 2 - 128 - 1)
/-- 1 / the square root of sig x 2^exp, with a sticky bit. -/
def recipRoot (sig : Nat) (exp : Int) : FVal :=
  let e := if exp % 2 = 0 then exp else exp - 1
  let n := if exp % 2 = 0 then sig else 2 * sig
  -- floor (2^256 / sqrt n) from the square root of 2^512 / n
  let q := 2 ^ 512 / n
  let r := isqrt q
  .fin false (2 * r + (if r * r * n = 2 ^ 512 then 0 else 1)) (-(e / 2) - 256 - 1)

/-- The scale of fixed-point numbers. -/
def one256 : Nat := 2 ^ 256
/-- A Taylor sum: terms t, t y / (i (i+1)), ... with alternating signs, of step 2 (sine and cosine). -/
def trigLoop : Nat → Nat → Nat → Nat → Nat → Int → Int
  | 0, _, _, _, _, acc => acc
  | n + 1, scale, i, t, y, acc =>
    let t' := t * y / scale / (i * (i + 1))
    trigLoop n scale (i + 2) t' y (if i / 2 % 2 = 1 then acc - t' else acc + t')
/-- sin r for 0 <= r < 1 at a scale. -/
def sinFix (scale r : Nat) : Int := trigLoop 60 scale 2 r (r * r / scale) r
/-- cos r for 0 <= r < 1 at a scale. -/
def cosFix (scale r : Nat) : Int :=
  let rec go : Nat → Nat → Nat → Bool → Int → Int
    | 0, _, _, _, acc => acc
    | n + 1, i, t, minus, acc =>
      let t' := t * (r * r / scale) / scale / (i * (i + 1))
      go n (i + 2) t' (!minus) (if minus then acc - t' else acc + t')
  go 60 1 scale true scale
/-- sum of x^(2i+1) / (2i+1), with alternating signs or not (arctangent, inverse hyperbolic tangent). -/
def oddSeries (alt : Bool) : Nat → Nat → Nat → Nat → Bool → Int → Int
  | 0, _, _, _, _, acc => acc
  | n + 1, i, t, y2, minus, acc =>
    oddSeries alt n (i + 2) (t / y2) y2 (if alt then !minus else false) (if minus then acc - (t / i : Nat) else acc + (t / i : Nat))
/-- ln 2 at 2^320: 2 artanh (1/3). -/
def ln2Fix : Nat := (2 * oddSeries false 110 1 (2 ^ 320 / 3) 9 false 0).toNat
/-- pi at 2^512: 16 arctan (1/5) - 4 arctan (1/239). -/
def piFix : Nat :=
  (16 * oddSeries true 115 1 (2 ^ 512 / 5) 25 false 0 - 4 * oddSeries true 36 1 (2 ^ 512 / 239) 57121 false 0).toNat
/-- exp of r, 0 <= r < 1, at 2^256. -/
def expFix (r : Nat) : Nat :=
  let rec go : Nat → Nat → Nat → Nat → Nat
    | 0, _, _, acc => acc
    | n + 1, i, t, acc => let t' := t * r / one256 / i; go n (i + 1) t' (acc + t')
  go 70 1 one256 one256
/-- ln of f, 1 <= f < 2, at 2^256: 2 artanh ((f - 1) / (f + 1)). -/
def lnFix (f : Nat) : Nat :=
  let z := (f - one256) * one256 / (f + one256)
  let z2 := z * z / one256
  let rec go : Nat → Nat → Nat → Nat → Nat
    | 0, _, _, acc => acc
    | n + 1, i, t, acc => go n (i + 2) (t * z2 / one256) (acc + t / i)
  2 * go 90 1 z 0
/-- A positive fixed-point number at 2^256 with a sticky bit, scaled by 2^e. -/
def stickyFix (neg : Bool) (x : Nat) (e : Int) : FVal := .fin neg (2 * x + 1) (e - 257)
/-- floor of a signed value sig x 2^exp at 2^256. -/
def toFix (neg : Bool) (sig : Nat) (exp : Int) : Int :=
  let m : Nat := if 0 ≤ exp + 256 then sig * 2 ^ (exp + 256).toNat else sig / 2 ^ (-(exp + 256)).toNat
  if neg then -(m : Int) else m
/-- 2^A for an A that is no integer. -/
def exp2Num (neg : Bool) (sig : Nat) (exp : Int) : FVal :=
  let a := toFix neg sig exp
  let n := a / (one256 : Int)
  let r := (a % (one256 : Int)).toNat
  stickyFix false (expFix (r * (ln2Fix / 2 ^ 64) / one256)) n
/-- log2 A for a positive A that is no power of two: sign, then magnitude. -/
def log2Num (sig : Nat) (exp : Int) : FVal :=
  let k := log2 sig
  let e := exp + k
  let f := if k ≤ 256 then sig * 2 ^ (256 - k) else sig / 2 ^ (k - 256)
  let frac : Nat := lnFix f * 2 ^ 64 * one256 / ln2Fix
  let v : Int := e * one256 + frac
  if 0 ≤ v then stickyFix false v.toNat 0 else stickyFix true ((-v).toNat - 1) 0
/-- The angle's octant arithmetic: |A| = quarter x pi/2 + rest at 2^256, 0 <= rest < pi/2. -/
def quarterTurns (sig : Nat) (exp : Int) : Nat × Nat :=
  let x : Nat := if 0 ≤ exp + 512 then sig * 2 ^ (exp + 512).toNat else sig / 2 ^ (-(exp + 512)).toNat
  let half := piFix / 2
  (x / half, x % half / 2 ^ 256)
/-- sin of a rest below pi/2, at 2^256. -/
def sinQuarter (r : Nat) : Int :=
  if r < one256 * 3 / 4 then sinFix one256 r else cosFix one256 (piFix / 2 ^ 257 - r)
/-- cos of a rest below pi/2, at 2^256. -/
def cosQuarter (r : Nat) : Int :=
  if r < one256 * 3 / 4 then cosFix one256 r else sinFix one256 (piFix / 2 ^ 257 - r)
/-- The sine of q quarter turns and a rest. -/
def sinAt (q r : Nat) : Int :=
  if q % 4 = 0 then sinQuarter r else if q % 4 = 1 then cosQuarter r else if q % 4 = 2 then -sinQuarter r else -cosQuarter r
/-- A value just below a magnitude: the last of 80 further bits is less by one. -/
def justBelow (neg : Bool) (sig : Nat) (exp : Int) : FVal := .fin neg (sig * 2 ^ 80 - 1) (exp - 80)
/-- True when a magnitude lies below 2^-60: its sine and hyperbolic tangent lie just below it. -/
def tinyArg (sig : Nat) (exp : Int) : Bool := decide (exp + (log2 sig : Int) < -60)
/-- sin A for A not zero. -/
def sinNum (neg : Bool) (sig : Nat) (exp : Int) : FVal :=
  if tinyArg sig exp then justBelow neg sig exp
  else
    let q := quarterTurns sig exp
    let v := sinAt q.1 q.2
    stickyFix (neg != decide (v < 0)) v.natAbs 0
/-- cos A for A not zero. -/
def cosNum (sig : Nat) (exp : Int) : FVal :=
  if tinyArg sig exp then justBelow false 1 0
  else
    let q := quarterTurns sig exp
    let v := sinAt (q.1 + 1) q.2
    stickyFix (decide (v < 0)) v.natAbs 0
/-- tanh A for A not zero, from e^(2A). -/
def tanhNum (neg : Bool) (sig : Nat) (exp : Int) : FVal :=
  if tinyArg sig exp then justBelow neg sig exp
  else if 6 ≤ exp + (log2 sig : Int) then justBelow neg 1 0
  else
    -- 2A / ln 2 = n + r
    let x := (toFix false sig exp).toNat * 2 ^ 65 * one256 / ln2Fix
    let p := expFix (x % one256 * (ln2Fix / 2 ^ 64) / one256) * 2 ^ (x / one256)
    stickyFix neg ((p - one256) * one256 / (p + one256)) 0

end Sys2Proof.Machine
end

