-- ==== Sys2Proof/Machine/Float.lean ====
section
/-! DEFINITION. Group 001: floating-point instructions (R167 to R180). -/

namespace Sys2Proof.Machine

open Host (Outcome)

/-- The format of an FTYPE (R119). -/
def ftypeFmt : FType → Fmt
  | .f32 => fmtF32 | .f16 => fmtF16 | .bf16 => fmtBF16
/-- The code in a register operand of a wide format: the whole register, or bits [15:0] (R167). -/
def State.readCode (s : State) (l : Lane) (pos : Pos) (fld : Field) (f : Fmt) : Nat :=
  (s.readReg l pos fld).toNat % 2 ^ f.size
/-- An operand's value, subnormals flushed under .ftz (R167, R170). -/
def State.readFloat (s : State) (l : Lane) (pos : Pos) (fld : Field) (f : Fmt) (ftz : Bool) : FVal :=
  f.operand ftz (s.readCode l pos fld f)
/-- A result of a lane and its flags delivered: the register, the last-result file and $FFLAGS (R21, R167, R172). -/
def State.deliver (s : State) (l : Lane) (dst : Field) (code : Nat) (fl : FFlags) (lat : Option Nat) : State :=
  (s.result32 l dst (BitVec.ofNat 32 code) lat).raiseFlags l fl lat
/-- An exact result rounded and delivered, with one advance of the stochastic state under SR (R86, R173). -/
def State.deliverRound (s : State) (l : Lane) (dst : Field) (f : Fmt) (mode : RMode) (sat ftz : Bool)
    (v : FVal × FFlags) (lat : Option Nat) : State :=
  let d := s.draw (s.team l.tid).coreKey mode
  let r := f.round mode sat ftz d.1 v.1
  d.2.deliver l dst r.1 (v.2 ||| r.2) lat

/-- A register form of FADD's kind: the exact value of A, B and C, rounded (R173). -/
def floatReg (h : Head) (m : FloatMod) (lat : Option Nat) (g : RMode → FVal → FVal → FVal → FVal × FFlags) (s : State) :
    Outcome State Fault Refusal :=
  .next (s.runLanes h (fun t l =>
    let f := ftypeFmt m.ty
    let mode := rndMode m.rnd (s.team l.tid).rmode
    .done (t.deliverRound l h.dst f mode false m.ftz
      (g mode (s.readFloat l .sa h.sa f m.ftz) (s.readFloat l .sb h.sb f m.ftz) (s.readFloat l .sc h.sc f m.ftz)) lat)))
/-- An immediate form of FADD's kind; the type is FP32 (R168). -/
def floatImm (h : Head) (m : FloatImmMod) (g : RMode → FVal → FVal → FVal → FVal × FFlags) (s : State) :
    Outcome State Fault Refusal :=
  .next (s.runLanes h (fun t l =>
    let mode := rndMode m.rnd (s.team l.tid).rmode
    .done (t.deliverRound l h.dst fmtF32 mode false m.ftz
      (g mode (s.readFloat l .sa h.sa fmtF32 m.ftz) (fmtF32.operand m.ftz m.imm.toNat)
        (s.readFloat l .sc h.sc fmtF32 m.ftz)) (some 4))))

/-- A - B. -/
def FVal.sub (mode : RMode) (a b : FVal) : FVal × FFlags := a.add mode b.negate
/-- A x B + C with one rounding; 0 x inf is invalid whatever C holds (R174). -/
def FVal.fma (mode : RMode) (a b c : FVal) : FVal × FFlags :=
  let p := a.mul b
  let r := p.1.add mode c
  (r.1, p.2 ||| r.2)
/-- A / B (R173, R174). -/
def FVal.div (a b : FVal) : FVal × FFlags :=
  match a, b with
  | .nan s, .nan t => (.nan false, if s || t then flInvalid else 0)
  | .nan s, _ => (.nan false, if s then flInvalid else 0)
  | _, .nan s => (.nan false, if s then flInvalid else 0)
  | .inf _, .inf _ => (.nan false, flInvalid)
  | .inf x, .fin y _ _ => (.inf (x != y), 0)
  | .fin x _ e, .inf y => (.fin (x != y) 0 e, 0)
  | .fin x s e, .fin y t g =>
    if t = 0 then (if s = 0 then (.nan false, flInvalid) else (.inf (x != y), flDivZero))
    else if s = 0 then (.fin (x != y) 0 e, 0)
    else (quotient (x != y) s t (e - g), 0)
/-- The square root (R173, R174). -/
def FVal.sqrt (a : FVal) : FVal × FFlags :=
  match a with
  | .nan s => (.nan false, if s then flInvalid else 0)
  | .inf x => if x then (.nan false, flInvalid) else (.inf false, 0)
  | .fin x s e => if s = 0 then (.fin x 0 e, 0) else if x then (.nan false, flInvalid) else (squareRoot s e, 0)
/-- A x 2^B. Beyond 2^1200 either way the result is the same for every B (R173, R174). -/
def FVal.scaleBy (a : FVal) (b : Int) : FVal × FFlags :=
  match a with
  | .nan s => (.nan false, if s then flInvalid else 0)
  | .inf x => (.inf x, 0)
  | .fin x s e => (.fin x s (e + max (-1200) (min 1200 b)), 0)
/-- A rounded to an integral value: no underflow, no overflow, inexact when it differs (R173). -/
def FVal.integral (mode : RMode) (x : Word) (a : FVal) : FVal × FFlags :=
  match a with
  | .nan s => (.nan false, if s then flInvalid else 0)
  | .inf n => (.inf n, 0)
  | .fin n s e =>
    let r := roundAt mode n s e 0 x
    (if 0 ≤ e then .fin n s e else .fin n r.1 0, if r.2 then flInexact else 0)
/-- FADD (R173). -/
def execFadd (h : Head) (m : FloatMod) (s : State) : Outcome State Fault Refusal :=
  floatReg h m (some 4) (fun mode a b _ => a.add mode b) s
/-- FADD, immediate form (R168, R173). -/
def execFaddImm (h : Head) (m : FloatImmMod) (s : State) : Outcome State Fault Refusal :=
  floatImm h m (fun mode a b _ => a.add mode b) s
/-- FSUB (R173). -/
def execFsub (h : Head) (m : FloatMod) (s : State) : Outcome State Fault Refusal :=
  floatReg h m (some 4) (fun mode a b _ => FVal.sub mode a b) s
/-- FSUB, immediate form (R168, R173). -/
def execFsubImm (h : Head) (m : FloatImmMod) (s : State) : Outcome State Fault Refusal :=
  floatImm h m (fun mode a b _ => FVal.sub mode a b) s
/-- FMUL (R173). -/
def execFmul (h : Head) (m : FloatMod) (s : State) : Outcome State Fault Refusal :=
  floatReg h m (some 4) (fun _ a b _ => a.mul b) s
/-- FMUL, immediate form (R168, R173). -/
def execFmulImm (h : Head) (m : FloatImmMod) (s : State) : Outcome State Fault Refusal :=
  floatImm h m (fun _ a b _ => a.mul b) s
/-- FFMA (R173). -/
def execFfma (h : Head) (m : FloatMod) (s : State) : Outcome State Fault Refusal :=
  floatReg h m (some 4) (FVal.fma) s
/-- FFMA, immediate form (R168, R173). -/
def execFfmaImm (h : Head) (m : FloatImmMod) (s : State) : Outcome State Fault Refusal :=
  floatImm h m (FVal.fma) s
/-- FDIV (R173). -/
def execFdiv (h : Head) (m : FloatMod) (s : State) : Outcome State Fault Refusal :=
  floatReg h m none (fun _ a b _ => a.div b) s
/-- FSQRT (R173). -/
def execFsqrt (h : Head) (m : FloatMod) (s : State) : Outcome State Fault Refusal :=
  floatReg h m none (fun _ a _ _ => a.sqrt) s
/-- FRCP (R173): 1 / A. -/
def execFrcp (h : Head) (m : FloatMod) (s : State) : Outcome State Fault Refusal :=
  floatReg h m none (fun _ a _ _ => (FVal.fin false 1 0).div a) s
/-- FSCALE (R173): B is a 32-bit signed register. -/
def execFscale (h : Head) (m : FloatMod) (s : State) : Outcome State Fault Refusal :=
  .next (s.runLanes h (fun t l =>
    let f := ftypeFmt m.ty
    let mode := rndMode m.rnd (s.team l.tid).rmode
    .done (t.deliverRound l h.dst f mode false m.ftz
      ((s.readFloat l .sa h.sa f m.ftz).scaleBy (s.readReg l .sb h.sb).toInt) (some 4))))
/-- FRND (R173). -/
def execFrnd (h : Head) (m : FloatMod) (s : State) : Outcome State Fault Refusal :=
  .next (s.runLanes h (fun t l =>
    let f := ftypeFmt m.ty
    let mode := rndMode m.rnd (s.team l.tid).rmode
    let d := t.draw (s.team l.tid).coreKey mode
    let r := FVal.integral mode d.1 (s.readFloat l .sa h.sa f m.ftz)
    let c := f.round .rtz false false 0 r.1
    .done (d.2.deliver l h.dst c.1 r.2 (some 4))))
/-- The code chosen by FMIN and FMAX: the smaller or the larger, -0 below +0; the other operand of a NaN (R175). -/
def pickFloat (f : Fmt) (larger : Bool) (ca cb : Nat) (a b : FVal) : Nat :=
  let neg := fun (v : FVal) => match v with | .fin n _ _ => n | .inf n => n | .nan _ => false
  match a.isNan, b.isNan with
  | true, true => (f.nanCode false).getD 0
  | true, false => cb
  | false, true => ca
  | false, false =>
    let less := a.lt b || (a.eq b && neg a && !neg b)
    if less != larger then ca else cb
/-- FMIN and FMAX (R175): operands are read under .ftz, and a signalling NaN sets invalid. -/
def floatPick (h : Head) (m : FloatMod) (larger : Bool) (s : State) : Outcome State Fault Refusal :=
  .next (s.runLanes h (fun t l =>
    let f := ftypeFmt m.ty
    let a := s.readFloat l .sa h.sa f m.ftz
    let b := s.readFloat l .sb h.sb f m.ftz
    let ca := (f.round .rne false false 0 a).1
    let cb := (f.round .rne false false 0 b).1
    .done (t.deliver l h.dst (pickFloat f larger ca cb a b) (if a.isSnan || b.isSnan then flInvalid else 0) (some 4))))
/-- FMIN (R175). -/
def execFmin (h : Head) (m : FloatMod) (s : State) : Outcome State Fault Refusal :=
  floatPick h m false s
/-- FMAX (R175). -/
def execFmax (h : Head) (m : FloatMod) (s : State) : Outcome State Fault Refusal :=
  floatPick h m true s
/-- FABS (R176): the sign bit cleared, every other bit copied. -/
def execFabs (h : Head) (m : FloatMod) (s : State) : Outcome State Fault Refusal :=
  .next (s.runLanes h (fun t l =>
    let f := ftypeFmt m.ty
    .done (t.deliver l h.dst (s.readCode l .sa h.sa f % 2 ^ (f.size - 1)) 0 (some 4))))
/-- FNEG (R176): the sign bit inverted, every other bit copied. -/
def execFneg (h : Head) (m : FloatMod) (s : State) : Outcome State Fault Refusal :=
  .next (s.runLanes h (fun t l =>
    let f := ftypeFmt m.ty
    .done (t.deliver l h.dst (s.readCode l .sa h.sa f ^^^ 2 ^ (f.size - 1)) 0 (some 4))))
/-- A relation of R177 on two values. -/
def fcondHolds (c : FCond) (a b : FVal) : Bool :=
  let un := a.isNan || b.isNan
  match c with
  | .eq => a.eq b
  | .ne => !a.eq b
  | .lt => a.lt b
  | .le => !un && !b.lt a
  | .gt => b.lt a
  | .ge => !un && !a.lt b
  | .un => un
  | .ord => !un
/-- The ordered relations set invalid for a NaN of either kind, the others for a signalling one (R177). -/
def fcondFlags (c : FCond) (a b : FVal) : FFlags :=
  let any := a.isNan || b.isNan
  let sig := a.isSnan || b.isSnan
  match c with
  | .lt => if any then flInvalid else 0
  | .le => if any then flInvalid else 0
  | .gt => if any then flInvalid else 0
  | .ge => if any then flInvalid else 0
  | _ => if sig then flInvalid else 0
/-- FCMP (R177). -/
def execFcmp (h : Head) (m : FloatMod) (s : State) : Outcome State Fault Refusal :=
  .next (s.runLanes h (fun t l =>
    let f := ftypeFmt m.ty
    let a := s.readFloat l .sa h.sa f m.ftz
    let b := s.readFloat l .sb h.sb f m.ftz
    .done ((t.writePred l h.dst.pred (fcondHolds m.fcond a b) (some 2)).raiseFlags l (fcondFlags m.fcond a b) (some 2))))
/-- The class mask of R178. -/
def classMask (f : Fmt) (v : FVal) : Nat :=
  match v with
  | .nan s => if s then 2 ^ 8 else 2 ^ 9
  | .inf n => if n then 1 else 2 ^ 7
  | .fin n s _ =>
    if s = 0 then (if n then 2 ^ 3 else 2 ^ 4)
    else if s < 2 ^ f.frac then (if n then 2 ^ 2 else 2 ^ 5)
    else (if n then 2 else 2 ^ 6)
/-- FCLASS (R178). -/
def execFclass (h : Head) (m : FloatMod) (s : State) : Outcome State Fault Refusal :=
  .next (s.runLanes h (fun t l =>
    let f := ftypeFmt m.ty
    .done (t.deliver l h.dst (classMask f (f.decode (s.readCode l .sa h.sa f))) 0 (some 4))))

/-- The approximate functions of R179. -/
inductive Approx where
  | rsq | exp2 | log2 | sin | cos | tanh
  deriving DecidableEq, Repr
/-- Their numbers for the free values. -/
def Approx.num : Approx → Nat
  | .rsq => 0 | .exp2 => 1 | .log2 => 2 | .sin => 3 | .cos => 4 | .tanh => 5
/-- True when sig is a power of two. -/
def powerOfTwo (sig : Nat) : Bool := sig != 0 && 2 ^ log2 sig = sig
/-- A function's value: exact or with a sticky bit, its flags, and whether it is an exact or special case (R179, R180). -/
def Approx.value (g : Approx) (a : FVal) : FVal × FFlags × Bool :=
  match a with
  | .nan s => (.nan false, if s then flInvalid else 0, true)
  | .inf n =>
    match g with
    | .rsq => if n then (.nan false, flInvalid, true) else (.fin false 0 0, 0, true)
    | .exp2 => (if n then .fin false 0 0 else .inf false, 0, true)
    | .log2 => if n then (.nan false, flInvalid, true) else (.inf false, 0, true)
    | .sin => (.nan false, flInvalid, true)
    | .cos => (.nan false, flInvalid, true)
    | .tanh => (.fin n 1 0, 0, true)
  | .fin n sig e =>
    match g with
    | .rsq =>
      if sig = 0 then (.inf n, flDivZero, true)
      else if n then (.nan false, flInvalid, true)
      else (recipRoot sig e, 0, powerOfTwo sig && (e + Machine.log2 sig) % 2 = 0)
    | .exp2 =>
      let r := roundAt .rtz n sig e 0 0
      if sig = 0 then (.fin false 1 0, 0, true)
      else if 12 ≤ e + (Machine.log2 sig : Int) then (.fin false 1 (if n then -4096 else 4096), 0, false)
      else if r.2 then (exp2Num n sig e, 0, false)
      else (.fin false 1 (if n then -(r.1 : Int) else r.1), 0, true)
    | .log2 =>
      if sig = 0 then (.inf true, flDivZero, true)
      else if n then (.nan false, flInvalid, true)
      else if powerOfTwo sig then
        let j := e + (Machine.log2 sig : Int)
        (.fin (decide (j < 0)) j.natAbs 0, 0, true)
      else (log2Num sig e, 0, false)
    | .sin => if sig = 0 then (.fin n 0 0, 0, true) else (sinNum n sig e, 0, false)
    | .cos => if sig = 0 then (.fin false 1 0, 0, true) else (cosNum sig e, 0, false)
    | .tanh => if sig = 0 then (.fin n 0 0, 0, true) else (tanhNum n sig e, 0, false)
/-- |a - b| <= n x 2^q. -/
def within (a b : FVal) (n : Nat) (q : Int) : Bool :=
  match (a.add .rne b.negate).1 with
  | .fin _ s e => !magLt n q s e
  | _ => false
/-- The bound of R179 for an FP32 result v of an exact value x of operand a: one ulp is FP32's spacing at x. -/
def Approx.inBound (g : Approx) (a x v : FVal) : Bool :=
  let ulp : Int := match x with
    | .fin _ s e => max (e + (Machine.log2 s : Int) - 23) (-149)
    | _ => -149
  match g with
  | .rsq => within v x 1 ulp
  | .exp2 => within v x 2 ulp
  | .log2 => if !a.lt (.fin false 1 (-1)) && !(FVal.fin false 2 0).lt a then within v x 1 (-22) else within v x 2 ulp
  | .sin => if !(FVal.fin false 1 16).lt a && !a.lt (.fin true 1 16) then within v x 1 (-21) else within v (.fin false 0 0) 1 0
  | .cos => if !(FVal.fin false 1 16).lt a && !a.lt (.fin true 1 16) then within v x 1 (-21) else within v (.fin false 0 0) 1 0
  | .tanh => within v x 2 ulp && within v (.fin false 0 0) 1 0
/-- The FP32 code at a distance, in units in the last place, from a code; none where the result would not be finite. -/
def nearCode (c : Nat) (o : Int) : Option Nat :=
  let mag : Int := (c % 2 ^ 31 : Nat)
  let x := (if c < 2 ^ 31 then mag else -mag) + o
  if x.natAbs < 0x7F800000 then some ((if x < 0 then 2 ^ 31 else 0) + x.natAbs) else none
/-- The FP32 code delivered: the correctly rounded one moved by the free offset of Config, where that stays within the bound
(log 9). -/
def Approx.choose (g : Approx) (op : Word) (a x : FVal) (c : Nat) : Nat :=
  match nearCode c (Config.approxOffset g.num op) with
  | some c' => if g.inBound a x (fmtF32.decode c') then c' else c
  | none => c
/-- One lane of an approximate function (R179, R180): the code and the flags. An FP32 result that is no exact case may lie
anywhere within the bound; the flags are those of the delivered value. -/
def Approx.eval (g : Approx) (f : Fmt) (ftz : Bool) (op : Word) : Nat × FFlags :=
  let a := f.operand ftz (op.toNat % 2 ^ f.size)
  let v := g.value a
  let r := f.round .rne false ftz 0 v.1
  if v.2.2 then (r.1, v.2.1 ||| r.2)
  else if f = fmtF32 then
    let c := g.choose op a v.1 r.1
    let w := f.decode c
    let tiny := match w with | .fin _ s _ => decide (s < 2 ^ f.frac) | _ => false
    let z := if tiny && ftz then c / 2 ^ 31 * 2 ^ 31 else c
    (z, v.2.1 ||| flInexact ||| (if w = .inf false || w = .inf true then flOverflow else 0) |||
      (if tiny then flUnderflow else 0))
  else (r.1, v.2.1 ||| r.2 ||| flInexact)
/-- An approximate function (R179). -/
def floatApprox (h : Head) (m : FloatMod) (g : Approx) (s : State) : Outcome State Fault Refusal :=
  .next (s.runLanes h (fun t l =>
    let r := g.eval (ftypeFmt m.ty) m.ftz (s.readReg l .sa h.sa)
    .done (t.deliver l h.dst r.1 r.2 none)))
/-- FRSQ (R179, R180). -/
def execFrsq (h : Head) (m : FloatMod) (s : State) : Outcome State Fault Refusal :=
  floatApprox h m .rsq s
/-- FEXP2 (R179, R180). -/
def execFexp2 (h : Head) (m : FloatMod) (s : State) : Outcome State Fault Refusal :=
  floatApprox h m .exp2 s
/-- FLOG2 (R179, R180). -/
def execFlog2 (h : Head) (m : FloatMod) (s : State) : Outcome State Fault Refusal :=
  floatApprox h m .log2 s
/-- FSIN (R179, R180). -/
def execFsin (h : Head) (m : FloatMod) (s : State) : Outcome State Fault Refusal :=
  floatApprox h m .sin s
/-- FCOS (R179, R180). -/
def execFcos (h : Head) (m : FloatMod) (s : State) : Outcome State Fault Refusal :=
  floatApprox h m .cos s
/-- FTANH (R179, R180). -/
def execFtanh (h : Head) (m : FloatMod) (s : State) : Outcome State Fault Refusal :=
  floatApprox h m .tanh s

end Sys2Proof.Machine
end

