-- ==== Sys2Proof/Machine/Memory.lean ====
section
/-! DEFINITION. The instructions of groups 011 and 100 (R191 to R225): loads, stores, LDB, the scratchpad, tiles, PREF, CWB,
atomics and FENCE. -/

namespace Sys2Proof

/-- True for the orders that release first (R120). -/
def Ord.releases (o : Ord) : Bool := o = .rel || o = .ar
/-- True for the orders that acquire afterwards (R120). -/
def Ord.acquires (o : Ord) : Bool := o = .acq || o = .ar

end Sys2Proof

namespace Sys2Proof.Machine

open Host (Outcome)

/-- An instruction of a lane held back while an earlier acquire of its fibre has not taken effect (R294). -/
def afterAcquire (t : State) (l : Lane) (k : LaneRes) : LaneRes := if t.acquiring l then .stay t else k
/-- An instruction that performs a release: STORE_DEFERRED first (R199). DESIGN CHOICE (log 48): it comes before the instruction's own checks
and before ENG_FAULT, which R126 does not order. -/
def afterDeferred (f : Fibre) (releases : Bool) (k : LaneRes) : LaneRes :=
  match releases, f.deferred with
  | true, some c => .trap c.1 c.2
  | _, _ => k
/-- An instruction at which an engine fault is raised: ENG_FAULT first (R232). -/
def afterEngine (f : Fibre) (k : LaneRes) : LaneRes :=
  match f.engFaulted with
  | some c => .trap c.1 c.2
  | none => k
/-- The fibre waits for its release at a point, then goes on (R197, R211, R224). -/
def withRelease (t : State) (l : Lane) (releases : Bool) (pt : Point) (k : State → LaneRes) : LaneRes :=
  if releases then
    match t.holdRelease l pt with
    | (t', true) => k t'
    | (t', false) => .stay t'
  else k t

/-- A pending access of a lane with what every kind has in common. -/
def newReq (s : State) (tm : Team) (l : Lane) (kind : ReqKind) (va : Dword) (ia size : Nat) (pt : Point) : Req :=
  { id := 0, kind := kind, tid := l.tid, fid := l.fid, core := tm.coreKey, part := tm.partKey, order := s.seq,
    level := (s.fibre l).level, va := va, sp := s.space tm.partKey ia, ia := ia, size := size, pt := pt }

/-- A plain store put into the write queue (R289 Enqueue). -/
def State.enqueueBytes (t s : State) (tm : Team) (l : Lane) (va : Dword) (ia : Nat) (pt : Point) (ev : Evict) (bs : List Byte) : State :=
  t.enqueue
    { id := 0, core := tm.coreKey, tid := l.tid, fid := l.fid, order := 0, part := tm.partKey,
      sp := s.space tm.partKey ia, ia := ia, bytes := bs, pt := pt, va := va, level := (s.fibre l).level, evict := ev }

/-- LD in one lane (R197): the checks, then a load whose read step comes later (R291). -/
def ldLane (h : Head) (m : GlobalMod) (s t : State) (l : Lane) : LaneRes :=
  let tm := s.team l.tid
  let f := s.fibre l
  let n := m.size.bytes
  let va := s.globalVa l h.sa m.off
  answered f (fun bs => (t.writeWords l h.dst (loadWords n m.sx (ofBytes bs))).acquireAnswered l tm.coreKey m.ord.acquires
      (tm.point m.scope.toNat).toOption) (afterAcquire t l (
    match formChecks tm m.scope.toNat va n with
    | .error c => .trap c.1 c.2
    | .ok pt =>
      match (s.rangeCheck tm.partKey f.level .read va.toNat).toOption.bind (s.blockAt tm.partKey f.level .read) with
      | some (pkg, off) =>
        if blockOk pkg f.level tm.coreKey n then
          .done (t.writeWords l h.dst (loadWords n m.sx (s.blockLoad pkg tm.coreKey off n)))
        else .trap Cause.pagePerm va
      | none =>
        match s.kindChecks tm f [.read] va n with
        | .error c => .trap c.1 c.2
        | .ok ia =>
          let sp := s.space tm.partKey ia
          if s.poisonedFor tm.coreKey (s.queuedByte l.tid l.fid s.seq sp) sp ia n then .trap Cause.mcPoison va
          else
            let q := { newReq s tm l .load va ia n pt with dst := some h.dst, sx := m.sx, acq := m.ord.acquires, evict := m.evict }
            (if q.hard then t else t.expectWords l h.dst (loadWords n m.sx 0).length s.seq).issueReq l q))
/-- LD (R197). -/
def execLd (h : Head) (m : GlobalMod) (s : State) : Outcome State Fault Refusal :=
  .next (s.runLanes h (ldLane h m s))
/-- ST in one lane (R197, R198): the checks, the release, then an entry of the write queue. -/
def stLane (h : Head) (m : GlobalMod) (s t : State) (l : Lane) : LaneRes :=
  let tm := s.team l.tid
  let f := s.fibre l
  let n := m.size.bytes
  let va := s.globalVa l h.sa m.off
  let data := s.readData l .sb h.sb n
  afterAcquire t l (afterDeferred f m.ord.releases (
    match s.storeChecks tm f m.scope.toNat va n with
    | .error c => .trap c.1 c.2
    | .ok (pt, ia) => withRelease t l m.ord.releases pt (fun t =>
        match s.blockAt tm.partKey f.level .write ia with
        | some (pkg, off) =>
          if blockOk pkg f.level tm.coreKey n then .done (t.blockStore pkg tm.coreKey off n data)
          else .done (t.enqueueBytes s tm l va ia pt m.evict (toBytes n data))
        | none => .done (t.enqueueBytes s tm l va ia pt m.evict (toBytes n data)))))
/-- ST (R197). -/
def execSt (h : Head) (m : GlobalMod) (s : State) : Outcome State Fault Refusal :=
  .next (s.runLanes h (stLane h m s))


/-- The lane of an LDB block whose bytes lie at an address. -/
def ldbLane (contrib : List Lane) (base n a : Nat) : Option Lane := contrib.find? (fun l => l.num = (a - base) / n)
/-- The own entries that each lane of an LDB brings for its bytes, and what its fibre has met (R201, R291). -/
def State.ldbReader (s : State) (contrib : List Lane) (sp base n : Nat) : Reader :=
  ⟨fun a => (ldbLane contrib base n a).bind (fun l => s.queuedByte l.tid l.fid s.seq sp a),
   fun a => match ldbLane contrib base n a with | some l => s.floorOf l.tid l.fid sp a | none => 0⟩
/-- The checks of an LDB block, line by line (R201, R202), the address being `i` lines above the base. -/
def State.blockChecks (s : State) (tm : Team) (f : Fibre) (own : Nat → Nat → Option Byte) (bb : Dword) : Nat → Nat → Chk Unit
  | 0, _ => .ok ()
  | k + 1, i =>
    let va := bb + BitVec.ofNat 64 (128 * i)
    match s.kindChecks tm f [.read] va 128 with
    | .error c => .error c
    | .ok ia =>
      let sp := s.space tm.partKey ia
      if s.poisonedFor tm.coreKey (own sp) sp ia 128 then .error (Cause.mcPoison, va)
      else s.blockChecks tm f own bb k (i + 1)
/-- A read of an LDB block that another package must answer first, or that a migration holds (R201): its participants wait. -/
def State.ldbPark (t : State) (parts : List Lane) (bb : Dword) (q : Req) : State :=
  (parts.foldl (fun u l => u.modFibre l (fun f =>
    { f with gathered := false, wait := some { on := .parked t.seq, since := t.now }, waitAt := bb })) t).addReq q
/-- LDB executed by a whole band (R201, R202): `t` is the state so far, `s` the one at issue. The checks use the privilege level of the
lowest-numbered contributing lane. DESIGN CHOICE (log 49): R201 takes the block base from that lane and says nothing of the level where the
band's fibres stand at different ones. A trap waits until every earlier result of every contributing lane has arrived (R116), so that all
of them take it. -/
def ldbBand (h : Head) (m : GlobalMod) (s t : State) (b : Nat) : State :=
  let tm := s.team s.sig.tid
  let parts := ((t.team s.sig.tid).enrolled b).map (fun i => (⟨s.sig.tid, i⟩ : Lane))
  let contrib := parts.filter (s.guard h ·)
  match contrib with
  | [] => parts.foldl (fun u l => u.finish l h (.done u)) t
  | first :: _ =>
    let f := s.fibre first
    let n := m.size.bytes
    let bb := s.globalVa first h.sa m.off
    let trapAll := fun (c : Cause.Code × Dword) =>
      if contrib.any (fun l => (t.fibre l).inFlight) then t
      else parts.foldl (fun u l => u.finish l h (if contrib.contains l then .trap c.1 c.2 else .done u)) t
    let failed := parts.findSome? (fun l => match (s.fibre l).wait with | some ⟨.failed c v, _, _⟩ => some (c, v) | _ => none)
    if contrib.any (fun l => t.acquiring l || (m.ord.acquires && t.loading l)) then t
    else match failed with
    | some c => trapAll c
    | none =>
      match formChecks tm m.scope.toNat bb (32 * n) with
      | .error c => trapAll c
      | .ok pt =>
        match s.rangeCheck tm.partKey f.level .read bb.toNat with
        | .error c => trapAll (c, bb)
        | .ok ia =>
          let rd := fun sp => s.ldbReader contrib sp ia n
          match s.blockChecks tm f (fun sp => (rd sp).own) bb (n / 4) 0 with
          | .error c => trapAll c
          | .ok _ =>
            let sp := s.space tm.partKey ia
            let q := { newReq s tm first .line bb ia (32 * n) pt with evict := m.evict }
            if s.pageCheck tm.partKey f.level (some .read) ia = .held then t.ldbPark parts bb q
            else match t.takeAll tm.coreKey (rd sp) sp ia pt m.evict (32 * n) with
              | (u, none) => u.ldbPark parts bb q
              | (u, some bs) =>
                let u := contrib.foldl (fun u l =>
                  (u.writeWords l h.dst (loadWords n m.sx (ofBytes ((bs.drop (l.num * n)).take n)))).noteSeen l
                    (s.witnessed tm.coreKey l.tid l.fid sp (ia + l.num * n) n)) u
                let u := if m.ord.acquires then u.acquire tm.coreKey pt else u
                parts.foldl (fun u l => u.finish l h (.done u)) (u.touchPage tm.partKey ia)
/-- LDB (R201, R202): gathered as a band-collective, then one step for the band. -/
def execLdb (h : Head) (m : GlobalMod) (s : State) : Outcome State Fault Refusal :=
  let s1 := s.reach
  .next (s.sigBands.foldl (fun t b =>
    match s.sig.fids.find? (fun i => bandOf i = b) with
    | some i => if (s1.team s.sig.tid).bandAt b (s.fibre ⟨s.sig.tid, i⟩).pc then ldbBand h m s t b else t
    | none => t) s1)

/-- A scratchpad access of a lane (R204): the range check, then alignment, then the owner bits. -/
def leafAccess (t : State) (l : Lane) (owner leaves off n : Nat) (k : State → LaneRes) : LaneRes :=
  match leafRange leaves off n with
  | some c => .trap c.1 c.2
  | none =>
    if off % n ≠ 0 then .trap Cause.misaligned (BitVec.ofNat 64 off)
    else t.withLeaves l owner off n k
/-- LDS (R204). -/
def execLds (h : Head) (m : ScratchMod) (s : State) : Outcome State Fault Refusal :=
  .next (s.runLanes h (fun t l =>
    let off := s.leafOff l h.sa m.off
    let n := m.size.bytes
    afterAcquire t l (leafAccess t l l.tid (s.team l.tid).leaves off n (fun t =>
      .done (t.writeWords l h.dst (loadWords n m.sx (ofBytes ((t.team l.tid).readLeaf off n))))))))
/-- STS (R204). -/
def execSts (h : Head) (m : ScratchMod) (s : State) : Outcome State Fault Refusal :=
  .next (s.runLanes h (fun t l =>
    let off := s.leafOff l h.sa m.off
    let n := m.size.bytes
    afterAcquire t l (leafAccess t l l.tid (s.team l.tid).leaves off n (fun t =>
      .done (t.modTeam l.tid (·.writeLeaf off (toBytes n (s.readData l .sb h.sb n))))))))
/-- The team that a core index of the cluster names (R27): the reader itself on its own core. -/
def Team.neighbour (t : Team) (idx : Nat) : Option Nat :=
  if t.core % Config.coresPerCluster = idx then some t.tid else (t.neighbours.getD idx none)
/-- True when a launch declares a level bound to cluster (R27). -/
def Team.clusterBound (t : Team) : Bool := t.levels.any (fun x => x.dom = 4)
/-- True while a team is in its jacket (R27, R64). -/
def Team.inJacket (t : Team) : Bool :=
  match t.res with
  | .jacketed .. => true
  | _ => false
/-- LDN (R205, R27): a read of another team's leaves, after a pending acquire of the fibre (R294, R318). -/
def execLdn (h : Head) (m : ScratchMod) (s : State) : Outcome State Fault Refusal :=
  .next (s.runLanes h (fun t l =>
    let tm := s.team l.tid
    let off := s.leafOff l h.sa m.off
    let n := m.size.bytes
    afterAcquire t l (
    if !tm.clusterBound then .trap Cause.scopeUndecl 8
    else match (tm.neighbour m.cidx.toNat).bind t.team? with
      | none => .trap Cause.leafRange (BitVec.ofNat 64 off)
      | some target =>
        if target.inJacket then t.suspend l (.ldn target.tid)
        else leafAccess t l target.tid target.leaves off n (fun t =>
          .done (t.writeWords l h.dst (loadWords n m.sx (ofBytes ((t.team target.tid).readLeaf off n))))))))
/-- LEAFWT (R207). -/
def execLeafwt (h : Head) (m : ScratchMod) (s : State) : Outcome State Fault Refusal :=
  .next (s.runLanes h (fun t l =>
    let off := s.leafOff l h.sa m.off
    let n := (s.readReg l .sb h.sb).toNat
    afterEngine (s.fibre l) (
    match leafRange (s.team l.tid).leaves off n with
    | some c => .trap c.1 c.2
    | none => t.withLeaves l l.tid off n .done)))
/-- LEAFTST (R207). -/
def execLeaftst (h : Head) (m : ScratchMod) (s : State) : Outcome State Fault Refusal :=
  .next (s.runLanes h (fun t l =>
    let off := s.leafOff l h.sa m.off
    let n := (s.readReg l .sb h.sb).toNat
    afterEngine (s.fibre l) (
    match leafRange (s.team l.tid).leaves off n with
    | some c => .trap c.1 c.2
    | none => .done (t.writePred l h.dst.pred (!(t.team l.tid).engineOwned (leafSpan off n)) none))))

/-- The shape of a tile (R208). -/
structure Shape where
  rowb : Nat
  rows : Nat
  stride : Nat
  deriving DecidableEq, Repr
/-- The shape pair read (R208, R209). -/
def readShape (p : Dword) : Option Shape :=
  let x : Shape := ⟨p.toNat % 8192, bits p.toNat 19 13, p.toNat / 2 ^ 32⟩
  if x.rowb = 0 ∨ x.rows = 0 ∨ 64 < x.rows ∨ 4096 < x.rows * x.rowb ∨ bits p.toNat 31 20 ≠ 0 ∨
      (1 < x.rows ∧ x.stride < x.rowb) then none else some x
/-- A run of bytes cut at the 64 KiB boundary inside it. -/
def splitRun (a n : Nat) : List (Nat × Nat) :=
  let k := 65536 - a % 65536
  if n ≤ k then [(a, n)] else [(a, k), (a + k, n - k)]
/-- The bytes of a tile as runs of virtual addresses within one page each, in ascending order (R208). -/
def Shape.runs (x : Shape) (g : Nat) : List (Nat × Nat) :=
  (List.range x.rows).flatMap (fun r => splitRun (g + r * x.stride) x.rowb)
/-- How many 128-byte lines a tile touches (R210). -/
def Shape.lines (x : Shape) (g : Nat) : Nat :=
  (dedup ((List.range x.rows).flatMap (fun r =>
    let a := g + r * x.stride
    (List.range ((a + x.rowb - 1) / 128 + 1 - a / 128)).map (a / 128 + ·)))).length
/-- The checks of a tile before its probe, in the order of R211. -/
def tileChecks (tm : Team) (lv : Nat) (shape g : Dword) (off : Nat) : Chk (Shape × Point) :=
  match readShape shape with
  | none => .error (Cause.tileShape, BitVec.ofNat 64 (shape.toNat % 2 ^ 32))
  | some x =>
    match tm.point lv with
    | .error c => .error c
    | .ok pt =>
      let last := g.toNat + (x.rows - 1) * x.stride + x.rowb - 1
      match leafRange tm.leaves off (x.rows * x.rowb) with
      | some c => .error c
      | none =>
        if addrHighBad g then .error (Cause.addrHigh, g)
        else if 2 ^ 56 ≤ last then .error (Cause.addrHigh, BitVec.ofNat 64 last)
        else if 64 < x.lines g.toNat then .error (Cause.tileSpan, g)
        else .ok (x, pt)
/-- The probe of a tile (R211): the runs as intermediate addresses, or the cause with the lowest faulting address. -/
def State.tileProbe (s : State) (tm : Team) (f : Fibre) (k : Acc) : List (Nat × Nat) → Chk (List (Nat × Nat × Nat))
  | [] => .ok []
  | (va, n) :: r =>
    match s.preciseCheck tm.partKey f.level k va with
    | .error c => .error (c, BitVec.ofNat 64 va)
    | .ok ia =>
      let sp := s.space tm.partKey ia
      if k = .read && s.poisoned tm.coreKey sp ia n then .error (Cause.mcPoison, BitVec.ofNat 64 va)
      else match s.tileProbe tm f k r with
        | .error c => .error c
        | .ok rest => .ok ((sp, ia, n) :: rest)
/-- The first run of a probed tile whose page is being migrated (R363). -/
def State.heldRun (s : State) (tm : Team) (f : Fibre) (k : Acc) (segs : List (Nat × Nat × Nat)) : Option (Nat × Nat × Nat) :=
  segs.find? (fun x => s.pageCheck tm.partKey f.level (some k) x.2.1 = .held)
/-- The lines of a tile by space, in ascending intermediate-address order (R212). -/
def Req.tileLines (q : Req) : List (Nat × Nat) :=
  let all := q.segs.flatMap (fun x => (List.range ((x.2.1 + x.2.2 - 1) / 128 + 1 - x.2.1 / 128)).map (fun i => (x.2.1 / 128 + i, x.1)))
  (all.foldl (fun acc p => ins p acc) []).map (fun p => (p.2, p.1))
where
  /-- one line put into its place, once -/
  ins (p : Nat × Nat) : List (Nat × Nat) → List (Nat × Nat)
    | [] => [p]
    | q :: r => if p = q then q :: r else if p.1 < q.1 then p :: q :: r else q :: ins p r
/-- The next clasp of a tile is asked of its home agent, over the fabric where that is another package (R212, R407). -/
def State.claimNext (s : State) (q : Req) : State :=
  let asked := fun (x : Nat × Nat) =>
    (s.pkgAt (homePkg (x.2 * 128))).clasps.any (fun c => c.sp = x.1 && c.line = x.2 && c.req = q.id)
  match q.tileLines.find? (fun x => !asked x) with
  | none => s
  | some (sp, line) =>
    let home := homePkg (line * 128)
    let src := corePkg q.core
    if home = src then s.modPkg home (fun p => { p with clasps := p.clasps ++ [⟨sp, line, q.id, false, src, q.pt.wide⟩] })
    else if q.pt.wide then s.send src home (.getx q.id sp line)
    else s.send src home (.clasp q.id sp line)
/-- A tile begun: its request stands, the fibre is held, and the first clasp is asked for unless a release comes first. -/
def State.startTile (t : State) (l : Lane) (q : Req) (releases : Bool) : State :=
  let r := t.beginRelease l q.pt
  let t := if releases then r.2 else t
  let q := { q with id := t.seq, rel := if releases then some r.1 else none }
  let t := (t.addReq q).modFibre l (fun f => { f with hold := some (.tile q.id false) })
  if releases then t else t.claimNext q
/-- TLD and TST in one lane (R211): begun, or finished once the Tile step has been taken. -/
def tileLane (h : Head) (m : GlobalMod) (store : Bool) (s t : State) (l : Lane) : LaneRes :=
  let tm := s.team l.tid
  let f := s.fibre l
  answered f (fun _ => .stay t) (match f.hold with
  | some (.tile id fin) =>
    if !fin then .stay t
    else match t.req? id with
      | none => .done (t.modFibre l (fun f => { f with hold := none }))
      | some q =>
        let gone := fun (t : State) => (t.dropReq id).modFibre l (fun f => { f with hold := none })
        if store then .done (gone t)
        else t.withLeaves l l.tid q.off q.data.length (fun t =>
          if q.acq && t.loading l then .stay t
          else
            let t := (gone t).modTeam l.tid (·.writeLeaf q.off q.data)
            .done (if q.acq then t.acquire q.core q.pt else t))
  | _ =>
    let k : Acc := if store then .write else .read
    let g := s.globalVa l h.sa m.off
    let off := (s.readReg l .sb h.sb).toNat
    afterAcquire t l (afterDeferred f m.ord.releases (
      match tileChecks tm m.scope.toNat (s.readPair l .sc h.sc) g off with
      | .error c => .trap c.1 c.2
      | .ok (x, pt) =>
        let runs := x.runs g.toNat
        match s.tileProbe tm f k runs with
        | .error c => .trap c.1 c.2
        | .ok segs =>
          if runs.any (fun r => tm.watched f [k] r.1 r.2) then .trap Cause.watch g
          else
            let n := x.rows * x.rowb
            let q := { newReq s tm l (if store then .tileStore else .tileLoad) g (segs.headD (0, 0, 0)).2.1 n pt with
              off := off, segs := segs, acq := m.ord.acquires }
            match s.heldRun tm f k segs with
            | some seg => .stay (t.parkOn l { newReq s tm l .line g seg.2.1 seg.2.2 pt with sp := seg.1 })
            | none =>
              if store then
                t.withLeaves l l.tid off n (fun t =>
                  .stay (t.startTile l { q with data := (t.team l.tid).readLeaf off n } m.ord.releases))
              else .stay ((t.resume l).startTile l q false))))
/-- TLD (R211). -/
def execTld (h : Head) (m : GlobalMod) (s : State) : Outcome State Fault Refusal :=
  .next (s.runLanes h (tileLane h m false s))
/-- TST (R211). -/
def execTst (h : Head) (m : GlobalMod) (s : State) : Outcome State Fault Refusal :=
  .next (s.runLanes h (tileLane h m true s))
/-- The line of an address fetched toward a core (R217): placed as its EVICT says, asked of its home where the fabric lies between; a line
whose page holds requests back, or that holds poison, is left alone. -/
def State.prefetch (t s : State) (tm : Team) (l : Lane) (va : Dword) (ia : Nat) (pt : Point) (ev : Evict) : State :=
  let sp := s.space tm.partKey ia
  let base := ia / 128 * 128
  if s.pageCheck tm.partKey (s.fibre l).level (some .read) ia = .held || t.poisoned tm.coreKey sp base 128 then t
  else match t.takeLine tm.coreKey ⟨fun _ => none, fun _ => 0⟩ sp base pt ev 128 with
    | (u, some _) => u.touchPage tm.partKey ia
    | (u, none) =>
      let q := { newReq s tm l .pref va base 128 pt with fid := 1024, evict := ev, sent := true }
      (u.addReq q).send (corePkg q.core) (homePkg base) (.get u.seq)
/-- PREF (R217): no fault after decode, no result. -/
def execPref (h : Head) (m : GlobalMod) (s : State) : Outcome State Fault Refusal :=
  .next (s.runLanes h (fun t l =>
    let tm := s.team l.tid
    let va := s.globalVa l h.sa m.off
    match s.accessChecks tm (s.fibre l) m.scope.toNat [.read] va 1 with
    | .error _ => .done t
    | .ok (pt, ia) => if m.evict = .stream then .done t else .done (t.prefetch s tm l va ia pt m.evict)))

/-- The pages of a range that some range register covers, as runs of intermediate addresses, or the lowest address that none
covers (R218). -/
def State.cwbRuns (s : State) (part : Nat) : Nat → Nat → Nat → Chk (List (Nat × Nat))
  | 0, _, _ => .ok []
  | k + 1, va, n =>
    if n = 0 then .ok []
    else if 2 ^ 56 ≤ va then .error (Cause.addrHigh, BitVec.ofNat 64 va)
    else
      match (s.partAt part).ranges.find? (·.covers va) with
      | none => .error (Cause.rangeMiss, BitVec.ofNat 64 va)
      | some r =>
        let step := min n (65536 - va % 65536)
        match s.cwbRuns part k (va + step) (n - step) with
        | .error c => .error c
        | .ok rest => .ok (((va + r.off * 65536) % 2 ^ 60, step) :: rest)
/-- The bytes of a range that the caches of a core below a point hold owned (R218): the L1, the slice, and, below the system point, the
slice of the range's home. -/
def State.ownedIn (s : State) (core sp : Nat) (pt : Point) (run : Nat × Nat) : List (Nat × Nat) :=
  let mine := fun (b : CByte) => b.isOwned && b.within sp run.1 run.2
  let p := corePkg core
  (((s.coreAt core).l1.filter mine) ++ ((s.pkgAt p).llc.filter mine) ++
    (if pt = .system && homePkg run.1 ≠ p then (s.pkgAt (homePkg run.1)).llc.filter mine else [])).map (fun b => (b.sp, b.ia))
/-- What the home agent answers for a page that CWB writes back to (R218, R363). -/
def State.cwbHeld (s : State) (tm : Team) (f : Fibre) (ia : Nat) : Bool := s.pageCheck tm.partKey f.level (some .write) ia = .held
/-- The write-back of CWB (R218), a page that is not present being skipped, and then the placement of its lines (R196). -/
def State.cwbWrite (t : State) (core : Nat) (pt : Point) (ev : Evict) (runs : List (Nat × Nat × Nat)) : State :=
  runs.foldl (fun u x =>
    let u := if u.sysKey x.1 x.2.1 = none then u
      else (u.ownedIn core x.1 pt x.2).foldl (fun u b => u.raiseByte core b.1 b.2 pt) u
    if ev = .default || ev = .ro then u
    else (linePieces x.2.1 x.2.2).foldl (fun u y => u.placeLine core x.1 y.1 y.2 ev) u) t
/-- CWB (R218): a page being migrated holds the fibre until it is ready again (R363). -/
def execCwb (h : Head) (m : GlobalMod) (s : State) : Outcome State Fault Refusal :=
  .next (s.runLanes h (fun t l =>
    let tm := s.team l.tid
    let f := s.fibre l
    let va := s.globalVa l h.sa m.off
    let n := (s.readReg l .sb h.sb).toNat
    afterAcquire t l (afterDeferred f m.ord.releases (
      match tm.point m.scope.toNat with
      | .error c => .trap c.1 c.2
      | .ok pt =>
        match s.cwbRuns tm.partKey 65538 va.toNat n with
        | .error c => .trap c.1 c.2
        | .ok runs => withRelease t l m.ord.releases pt (fun t =>
            let runs := runs.map (fun x => (s.space tm.partKey x.1, x))
            match runs.find? (fun x => s.cwbHeld tm f x.2.1 && !(t.ownedIn tm.coreKey x.1 pt x.2).isEmpty) with
            | some x => .stay (t.parkOn l { newReq s tm l .line va x.2.1 1 pt with sp := x.1 })
            | none => .done ((t.cwbWrite tm.coreKey pt m.evict runs).resume l))))))

/-- An atomic of a lane (R219): its precise checks, then a request that its home applies (R296). -/
def atomicLane (h : Head) (m : AtomicMod) (ks : List Acc) (dst : Option Field) (cas : Bool) (s t : State) (l : Lane) : LaneRes :=
  let tm := s.team l.tid
  let f := s.fibre l
  let n := m.size.bytes
  let va := s.globalVa l h.sa m.off
  answered f (fun bs =>
    (match dst with | some d => t.writeWords l d (loadWords n false (ofBytes bs)) | none => t).acquireAnswered l tm.coreKey
      m.ord.acquires (tm.point m.scope.toNat).toOption) (afterAcquire t l (afterDeferred f m.ord.releases (
    match s.accessChecks tm f m.scope.toNat ks va n with
    | .error c => .trap c.1 c.2
    | .ok (pt, ia) =>
      if s.poisoned tm.coreKey (s.space tm.partKey ia) ia n then .trap Cause.mcPoison va
      else
        let r := t.beginRelease l pt
        let t := if m.ord.releases then r.2 else t
        let q := { newReq s tm l .atomic va ia n pt with
          dst := dst, acq := m.ord.acquires, rel := if m.ord.releases then some r.1 else none, aop := m.aop, sgn := m.sgn, cas := cas,
          b := BitVec.ofNat 128 (s.readData l .sb h.sb n), c := if cas then BitVec.ofNat 128 (s.readData l .sc h.sc n) else 0 }
        match dst with
        | some d => (if q.hard then t else t.expectWords l d (n / 4) s.seq).issueReq l q
        | none => t.issueReq l q)))
/-- ATOM (R219). -/
def execAtom (h : Head) (m : AtomicMod) (s : State) : Outcome State Fault Refusal :=
  .next (s.runLanes h (atomicLane h m [.read, .write] (some h.dst) false s))
/-- CAS (R219). -/
def execCas (h : Head) (m : AtomicMod) (s : State) : Outcome State Fault Refusal :=
  .next (s.runLanes h (atomicLane h m [.read, .write] (some h.dst) true s))
/-- RED (R219). -/
def execRed (h : Head) (m : AtomicMod) (s : State) : Outcome State Fault Refusal :=
  .next (s.runLanes h (atomicLane h m [.write] none false s))
/-- An operation of R220 and R221 on N bits. -/
def atomicOp (op : Aop) (sgn cas : Bool) (n : Nat) (old b c : Nat) : Nat :=
  let key := fun (x : Nat) => if sgn then toSigned n x else (x : Int)
  let ff := fun (larger : Bool) => pickFloat fmtF32 larger old b (fmtF32.decode old) (fmtF32.decode b)
  let fsum := (fmtF32.round .rne false false 0 ((fmtF32.decode old).add .rne (fmtF32.decode b)).1).1
  if cas then (if old = b then c else old)
  else match op with
    | .add => (old + b) % 2 ^ n
    | .min => if key old ≤ key b then old else b
    | .max => if key old ≤ key b then b else old
    | .and => old &&& b
    | .or => old ||| b
    | .xor => old ^^^ b
    | .exch => b
    | .incw => if b ≤ old then 0 else old + 1
    | .decw => if old = 0 ∨ b < old then b else old - 1
    | .faddOrd => fsum
    | .faddAny => fsum
    | .fmin => ff false
    | .fmax => ff true
/-- FENCE (R224): the release, then the acquire. -/
def execFence (h : Head) (m : GlobalMod) (s : State) : Outcome State Fault Refusal :=
  .next (s.runLanes h (fun t l =>
    let tm := s.team l.tid
    afterAcquire t l (afterDeferred (s.fibre l) m.ord.releases (
      match tm.point m.scope.toNat with
      | .error c => .trap c.1 c.2
      | .ok pt => withRelease t l m.ord.releases pt (fun t =>
          if m.ord.acquires then (if t.loading l then .stay t else .done (t.acquire tm.coreKey pt)) else .done t)))))

end Sys2Proof.Machine
end

