-- ==== Sys2Proof/Machine/Coherence.lean ====
section
/-! DEFINITION. The steps of the ordering machine as machine steps (R289 to R297): draining, registering, acknowledging,
reading, filling, writing back, ageing out, atomic and tile steps, releases, clasps, and parked requests (R363 to R367). -/

namespace Sys2Proof.Machine

open Host (Outcome)

/-- DRAIN (R290). -/
def execDrain (id : Nat) (s : State) : Outcome State Fault Refusal :=
  .next (match s.wq.find? (fun e => e.id = id) with
    | some e => if s.mayDrain e then s.drainEntry e else s
    | none => s)
/-- True when a registration crosses the fabric (R302). -/
def WEntry.remote (e : WEntry) : Bool := homePkg e.ia ≠ corePkg e.core && e.pt ≠ .package && e.pt ≠ .core
/-- True while a line's exclusive ownership is another package's (R212): its home lets no access of this one through. -/
def State.barred (s : State) (p sp ia : Nat) : Bool :=
  (s.pkgAt (homePkg ia)).clasps.any (fun c => c.excl && c.held && c.pkg ≠ p && c.sp = sp && c.line = ia / 128)
/-- REGISTER (R289): a registration of the package reaches its point. -/
def execRegister (id : Nat) (s : State) : Outcome State Fault Refusal :=
  .next (match s.regs.find? (fun r => r.entry.id = id) with
    | some r => if r.registered || r.parked.isSome || r.entry.remote || s.readParked r.entry.sp r.entry.ia s.seq ||
          (r.entry.pt.wide && s.barred (corePkg r.entry.core) r.entry.sp r.entry.ia) then s
        else (s.arriveReg r.entry).cleanWords r.entry.sp r.entry.ia r.entry.bytes.length
    | none => s)
/-- An acknowledgement counted (R289). -/
def State.acknowledged (s : State) (id : Nat) : State := { s with regs := s.regs.filter (fun r => r.entry.id ≠ id) }
/-- ACKNOWLEDGE (R289), of a registration made in the package. -/
def execAcknowledge (id : Nat) (s : State) : Outcome State Fault Refusal :=
  .next (match s.regs.find? (fun r => r.entry.id = id) with
    | some r => if r.registered && !r.entry.remote then s.acknowledged id else s
    | none => s)

/-- Fibres that wait on a parked request are ready again (R64, R367). -/
def State.wakeParked (s : State) (tid id : Nat) : State :=
  (s.team tid).fibres.foldl (fun t f =>
    if f.wait.any (fun w => w.on = .parked id) then t.meet ⟨tid, f.fid⟩ else t) s
/-- An earlier access of the fibre to the same bytes has not taken its step (R292). -/
def State.behind (s : State) (q : Req) : Bool :=
  s.reqs.any (fun p => p.tid = q.tid && p.fid = q.fid && decide (p.order < q.order) && p.sp = q.sp && p.kind ≠ .line &&
    overlaps p.ia p.size q.ia q.size)
/-- True when an earlier load of the fibre has not taken its read step. -/
def State.loadsBefore (s : State) (q : Req) : Bool :=
  s.reqs.any (fun p => p.tid = q.tid && p.fid = q.fid && p.id ≠ q.id && p.kind = .load && decide (p.order ≤ q.order))
/-- The acquire of an access that has read (R294): at once, or, while an earlier load of the fibre is pending, later. -/
def State.thenAcquire (s : State) (q : Req) : State :=
  if !q.acq then s.dropReq q.id
  else if s.loadsBefore q then s.modReq q.id (fun q => { q with kind := .load, size := 0, dst := none, rel := none })
  else (s.acquire q.core q.pt).dropReq q.id
/-- A load that has its bytes (R197, R291). -/
def State.finishLoad (s : State) (q : Req) (bs : List Byte) : State :=
  let l : Lane := ⟨q.tid, q.fid⟩
  let s := s.noteSeen l (s.witnessed q.core q.tid q.fid q.sp q.ia q.size)
  if q.hard then (s.dropReq q.id).answer l (.answer bs)
  else
    let s := match q.dst with
      | some d => s.landWords l d (loadWords q.size q.sx (ofBytes bs)) q.order
      | none => s
    s.thenAcquire q
/-- True when a load asks its home agent (R291): some byte of it is in no entry of its fibre and not in its core's L1. -/
def State.asksHome (s : State) (q : Req) : Bool :=
  homePkg q.ia = corePkg q.core && (List.range q.size).any (fun i =>
    (s.queuedByte q.tid q.fid q.order q.sp (q.ia + i)).isNone && (findByte (s.coreAt q.core).l1 q.sp (q.ia + i)).isNone)
/-- True when a load is held at its page's home agent: behind the requests parked there, or by a migration (R363). -/
def State.loadHeld (s : State) (q : Req) : Bool :=
  s.pageCheck q.part q.level (some .read) q.ia = .held ||
  (s.asksHome q && (s.replayDue q.sp q.ia q.id || s.readParked q.sp q.ia q.id))
/-- A request parked at its page's home agent (R363), where the agent has room for it; else it waits in the network. -/
def State.parkReq (s : State) (q : Req) : State :=
  if q.parked.isNone && s.parkFull q.ia then s else s.modReq q.id (fun q => { q with parked := some (q.parked.getD s.now) })
/-- A line asked of its home package, once (R407). -/
def State.askHome (s : State) (q : Req) : State :=
  if q.sent then s else (s.send (corePkg q.core) (homePkg q.ia) (.get q.id)).modReq q.id (fun q => { q with sent := true })
/-- READ of a load (R291): parked while its page is being migrated (R363), asked of its home package where the fabric lies between, and
not before a tile of another package that owns its line has moved (R212, R214). -/
def State.readLoad (s : State) (q : Req) : State :=
  if q.size = 0 then (if s.loadsBefore q then s else (s.acquire q.core q.pt).dropReq q.id)
  else if s.behind q then s
  else if s.loadHeld q then s.parkReq q
  else if s.asksHome q && s.barred (corePkg q.core) q.sp q.ia then s
  else match s.take q.core q.tid q.fid q.order q.sp q.ia q.pt q.evict q.size with
    | (t, some bs) => (t.touchPage q.part q.ia).finishLoad q bs
    | (_, none) => s.askHome q
/-- READ of bytes that fibres wait for (R201, R215). -/
def State.readLine (s : State) (q : Req) : State :=
  if !q.code && s.loadHeld q then s.parkReq q
  else match s.takeAll q.core (s.reader q.tid q.fid q.order q.sp) q.sp q.ia q.pt q.evict q.size with
    | (t, some _) => (t.dropReq q.id).wakeParked q.tid q.id
    | (_, none) => s.askHome q
/-- FILL (R289): the bytes that a pending load of a core misses arrive in its L1 as valid. -/
def execFill (pkg core ia : Nat) (s : State) : Outcome State Fault Refusal :=
  let ck := Config.coresPerPkg * pkg + core
  .next (match s.reqs.find? (fun q => q.kind = .load && q.core = ck && decide (q.size ≠ 0) && wordOf q.ia = wordOf ia) with
    | some q =>
      if s.loadHeld q || s.barred pkg q.sp q.ia then s
      else match s.take ck q.tid q.fid q.order q.sp q.ia q.pt q.evict q.size with
        | (t, some _) => t.touchPage q.part q.ia
        | (_, none) => s
    | none => s)
/-- WRITE_BACK (R289) of the owned bytes of a word; core 384 names the package's slice. -/
def execWriteBack (pkg core ia : Nat) (s : State) : Outcome State Fault Refusal := .next (s.writeBackWord pkg core ia)
/-- AGE_OUT (R289): a valid or stale word of an L1 becomes invalid. -/
def execAgeOut (pkg core ia : Nat) (s : State) : Outcome State Fault Refusal :=
  .next (s.modCore (Config.coresPerPkg * pkg + core) (fun c =>
    { c with l1 := c.l1.filter (fun b => !(wordOf b.ia = wordOf ia && b.st ≠ .owned)) }))

/-- Every owned copy of a byte brought to its home (R219, R296): the one that the home's registry names first, then those registered at
narrower points alone, the issuing core's own path last. -/
def State.gather (s : State) (core sp ia : Nat) : State :=
  let s := s.drawIn (homePkg ia) sp ia
  let s := s.cores.foldl (fun t kc => if kc.1 = core then t else t.raiseByte kc.1 sp ia .pod) s
  let s := s.pkgs.foldl (fun t kp => if kp.1 = corePkg core then t else t.raiseByte (Config.coresPerPkg * kp.1) sp ia .pod) s
  s.raiseByte core sp ia .pod
/-- Bytes drawn to their home agent from every cache: the values there and the state after. -/
def State.homeTake (s : State) (core sp ia n : Nat) : List Byte × State :=
  let s := (List.range n).foldl (fun t i => t.gather core sp (ia + i)) s
  (s.bytesAt core sp ia .pod n, s.drawRange core sp ia .pod n)
/-- Bytes written at their home agent by an indivisible step: the home owns them, every copy below becomes stale, and the issuing core's own
invalid (R296). An agent has none (R300). -/
def State.homePut (s : State) (core : Option Nat) (sp ia : Nat) (bs : List Byte) (w : List Writer) : State :=
  let h := homePkg ia
  let ver := s.seq
  let s := bs.zipIdx.foldl (fun t b =>
    (t.supersede sp (ia + b.2) .pod (some h) none true).modPkg h (fun k => { k with
      llc := putByte k.llc { sp := sp, ia := ia + b.2, st := .owned, val := b.1, filled := s.now, pt := .pod, wr := w, ver := ver } }))
    { s with seq := s.seq + 1 }
  match core with
  | some c => s.modCore c (fun c => { c with l1 := c.l1.filter (fun b => !b.within sp ia bs.length) })
  | none => s
/-- The write of an access, as caches remember it (R293). -/
def Req.writer (q : Req) : Writer := { tid := q.tid, fid := q.fid, va := q.va, part := q.part, level := q.level }
/-- The indivisible read-modify-write of an atomic at its home (R219, R296): the old value and the state after. At the system level its
result is written back to memory in the same step (R289; log 51), where walks (R361) and frame maps (R369) are read. -/
def State.applyAtomic (s : State) (q : Req) : Nat × State :=
  let r := s.homeTake q.core q.sp q.ia q.size
  let old := ofBytes r.1
  let new := atomicOp q.aop q.sgn q.cas (8 * q.size) old q.b.toNat q.c.toNat
  let t := (r.2.homePut (some q.core) q.sp q.ia (toBytes q.size new) [q.writer]).cleanWords q.sp q.ia q.size
  let t := if q.pt = .system then (List.range q.size).foldl (fun t i => t.flushSys q.sp (q.ia + i)) t else t
  (old, t.touchPage q.part q.ia)
/-- The end of an atomic at its fibre (R219): the old value lands, and the acquire follows. -/
def State.finishOne (s : State) (q : Req) (old : Nat) : State :=
  let l : Lane := ⟨q.tid, q.fid⟩
  let s := (s.noteSeen l (s.witnessed q.core q.tid q.fid q.sp q.ia q.size)).raiseFloor l q.core q.sp q.ia q.size
  if q.hard then (s.dropReq q.id).answer l (.answer (toBytes q.size old))
  else
    let s := match q.dst with
      | some d => s.landWords l d (loadWords q.size false old) q.order
      | none => s
    s.thenAcquire q
/-- The end of an atomic and of those merged into it (R222): each of them receives the old value with the contributions that stand before its
own. -/
def State.finishAtomic (s : State) (q : Req) (old : Nat) : State :=
  (s.reqs.filter (fun m => m.into = some q.id)).foldl (fun t m => t.finishOne m (atomicOp .faddAny false false 32 old m.pre.toNat 0)) (s.finishOne q old)
/-- What an atomic waits for before its step (R296): its release, the fibre's own earlier accesses to the word, its page. -/
def State.atomicReady (s : State) (q : Req) : Bool :=
  (match q.rel with | some r => !(s.relsOf q.tid q.fid).any (fun x => x.seq = r) | none => true) &&
  !s.wq.any (fun e => e.tid = q.tid && e.fid = q.fid && decide (e.order < q.order) && e.sp = q.sp && overlaps e.ia e.bytes.length q.ia q.size) &&
  !s.regs.any (fun r => r.entry.tid = q.tid && r.entry.fid = q.fid && !r.registered && decide (r.entry.order < q.order) &&
    r.entry.sp = q.sp && overlaps r.entry.ia r.entry.bytes.length q.ia q.size) &&
  !s.behind q && s.pageCheck q.part q.level (some .write) q.ia ≠ .held && (q.hard || !(s.replayDue q.sp q.ia q.id || s.barred (corePkg q.core) q.sp q.ia))
/-- True for a relaxed fadd.any that no other has taken up and no message carries (R222). -/
def Req.merges (q : Req) : Bool :=
  q.kind = .atomic && q.aop = .faddAny && !q.cas && !q.acq && q.rel.isNone && !q.sent && q.parked.isNone && q.into.isNone
/-- A pending fadd.any of the same die that a router may merge another on the same word into (R222). -/
def State.mergeable (s : State) (q : Req) : Option Req :=
  if !q.merges then none
  else s.reqs.find? (fun p => p.id ≠ q.id && p.merges && corePkg p.core = corePkg q.core && p.sp = q.sp && p.ia = q.ia && p.size = q.size)
/-- One request merged into another (R222), with those merged into it before: the sum so far stands before their contributions. -/
def State.mergeInto (s : State) (p q : Req) : State :=
  let sum := fun (x : Nat) => atomicOp .faddAny false false 32 p.b.toNat x 0
  { s with
    freeCtr := s.freeCtr + 1
    reqs := s.reqs.map (fun (r : Req) =>
      if r.id = p.id then { r with b := BitVec.ofNat 128 (sum q.b.toNat) }
      else if r.id = q.id then { r with into := some p.id, pre := BitVec.ofNat 32 p.b.toNat }
      else if r.into = some q.id then { r with into := some p.id, pre := BitVec.ofNat 32 (sum r.pre.toNat) }
      else r) }
/-- ATOMIC_STEP (R296). For a mergeable fadd.any, whether it is merged is a free choice (R222; log 2). A merged one takes its step with the
request that took it up. -/
def execAtomicStep (id : Nat) (s : State) : Outcome State Fault Refusal :=
  .next (match s.req? id with
    | none => s
    | some q =>
      if q.kind ≠ .atomic || q.into.isSome || !s.atomicReady q then s
      else
        let merge := match s.mergeable q with
          | some p => if Config.freeBit s.freeCtr id 7 then some p else none
          | none => none
        match merge with
        | some p => s.mergeInto p q
        | none =>
          if !q.hard then let r := (s.endIngress (homePkg q.ia) q.sp q.ia).applyAtomic q; r.2.finishAtomic q r.1
          else if q.sent then s
          else (s.send (corePkg q.core) (homePkg q.ia) (.atm q.id)).modReq q.id (fun q => { q with sent := true }))

/-- True when a tile holds every clasp (R212). -/
def State.holdsClasps (s : State) (q : Req) : Bool :=
  q.tileLines.all (fun x => (s.pkgAt (homePkg (x.2 * 128))).clasps.any (fun c =>
    c.sp = x.1 && c.line = x.2 && c.req = q.id && c.held))
/-- True while the fibre's own earlier accesses to a tile's bytes have not taken their steps (R297). -/
def State.tileBehind (s : State) (q : Req) : Bool :=
  q.segs.any (fun x => (!q.hard && s.replayDue x.1 x.2.1 q.id) || (s.wq.any (fun e => e.tid = q.tid && e.fid = q.fid && e.sp = x.1 && overlaps e.ia e.bytes.length x.2.1 x.2.2)) ||
    (s.regs.any (fun r => r.entry.tid = q.tid && r.entry.fid = q.fid && !r.registered && r.entry.sp = x.1 &&
      overlaps r.entry.ia r.entry.bytes.length x.2.1 x.2.2)) ||
    (s.reqs.any (fun p => p.tid = q.tid && p.fid = q.fid && p.id ≠ q.id && p.kind ≠ .line && p.sp = x.1 &&
      overlaps p.ia p.size x.2.1 x.2.2)))
/-- The clasps of a tile released, those of other packages by UNCLASP (R212, R407). -/
def State.unclaspAll (s : State) (q : Req) : State :=
  q.tileLines.foldl (fun t x =>
    let home := homePkg (x.2 * 128)
    if home = corePkg q.core then
      t.modPkg home (fun p => { p with clasps := p.clasps.filter (fun c => c.req ≠ q.id || c.line ≠ x.2 || c.sp ≠ x.1) })
    else t.send (corePkg q.core) home (.unclasp q.id x.1 x.2)) s
/-- The bytes of a tile moved at its scope point (R211, R297): what the issuing core's own path holds owned is written back to the point
first. -/
def State.moveTile (s : State) (q : Req) : State × List Byte :=
  let l : Lane := ⟨q.tid, q.fid⟩
  let s := q.segs.foldl (fun t x => t.touchPage q.part x.2.1) s
  let s := q.segs.foldl (fun t x => (List.range x.2.2).foldl (fun t i => t.raiseByte q.core x.1 (x.2.1 + i) q.pt) t) s
  let met := fun (t : State) => if q.pt.wide then q.segs.foldl (fun t x => t.raiseFloor l q.core x.1 x.2.1 x.2.2) t else t
  if q.kind = .tileLoad then
    let data := q.segs.flatMap (fun x => s.bytesAt q.core x.1 x.2.1 q.pt x.2.2)
    (met (q.segs.foldl (fun t x => t.drawRange q.core x.1 x.2.1 q.pt x.2.2) s), data)
  else
    let r := q.segs.foldl (fun (acc : State × List Byte) x =>
      ((acc.1.writeRange q.core x.1 x.2.1 q.pt (acc.2.take x.2.2) [q.writer]).cleanWords x.1 x.2.1 x.2.2, acc.2.drop x.2.2)) (s, q.data)
    (met r.1, q.data)
/-- TILE_STEP (R297): once every clasp is held, all bytes move together, and the clasps are released. -/
def execTileStep (id : Nat) (s : State) : Outcome State Fault Refusal :=
  .next (match s.req? id with
    | none => s
    | some q =>
      let asked := s.msgs.any (fun m => match m.op with | .ack r => r = q.id | .data r _ => r = q.id | _ => false)
      if (q.kind ≠ .tileLoad && q.kind ≠ .tileStore) || !s.holdsClasps q || asked || s.tileBehind q || !q.data.isEmpty && q.kind = .tileLoad then s
      else
        let r := s.moveTile q
        let l : Lane := ⟨q.tid, q.fid⟩
        let s := q.segs.foldl (fun t x => t.noteSeen l (s.witnessed q.core q.tid q.fid x.1 x.2.1 x.2.2)) r.1
        ((s.unclaspAll q).modReq id (fun q => { q with data := r.2, moved := true })).modFibre l (fun f =>
          { f with hold := some (.tile id true), readySince := max f.readyAt s.now }))
/-- A release of a fibre that has ended is over (R260): once the last of them is, nothing is left of it. -/
def State.endTailRelease (s : State) (tid fid seq : Nat) : State :=
  { s with tails := (s.tails.map (fun (x : Tail) =>
      if x.tid = tid && x.fid = fid then { x with rels := x.rels.filter (fun r => r.seq ≠ seq) } else x)).filter (fun x => !x.rels.isEmpty) }
/-- RELEASE_COMPLETE (R293): the fibre that waits for it goes on, and a tile store begins to take its clasps. -/
def execReleaseComplete (tid fid seq : Nat) (s : State) : Outcome State Fault Refusal :=
  let l : Lane := ⟨tid, fid⟩
  .next (match (s.relsOf tid fid).find? (fun r => r.seq = seq) with
    | none => s
    | some r =>
      if !s.releaseReady l seq r.pt then s
      else
        let s := (s.endTailRelease tid fid seq).modFibre l (fun f => { f with
          rels := f.rels.filter (fun r => r.seq ≠ seq)
          hold := if f.hold = some (.release seq false) then some (.release seq true) else f.hold
          seen := if f.rels.length = 1 then f.seen.filter (fun i => s.regs.any (fun r => r.entry.id = i)) else f.seen
          readySince := if f.hold = some (.release seq false) then max f.readyAt s.now else f.readySince })
        match s.reqs.find? (fun q => q.kind = .tileStore && q.tid = tid && q.fid = fid && q.rel = some seq) with
        | some q => s.claimNext q
        | none => s)
/-- Copies of a line outside the asking package become stale, what the home's registry names drawn in first; owned ones stay owned
(R407). -/
def State.staleLine (s : State) (src home sp line : Nat) : State :=
  let s := (List.range 128).foldl (fun t i => t.drawIn home sp (128 * line + i)) s
  let mark := fun (l : List CByte) => l.map (fun b => if b.within sp (128 * line) 128 && !b.isOwned then b.older else b)
  { s with
    cores := s.cores.map (fun (kc : Nat × Core) => if corePkg kc.1 = src then kc else (kc.1, { kc.2 with l1 := mark kc.2.l1 }))
    pkgs := s.pkgs.map (fun (kp : Nat × Pkg) => if kp.1 = src || kp.1 = home then kp else (kp.1, { kp.2 with llc := mark kp.2.llc })) }
/-- The bytes of the lines that a request touches, from their home's slice at the request's level, owned words drawn in (R289, R407). -/
def State.homeLines (s : State) (h sp ia n : Nat) (pt : Point) : List CByte × State :=
  (linePieces ia n).foldl (fun (acc : List CByte × State) (x : Nat × Nat) =>
    let t := acc.2.bring h sp (x.1 / 128 * 128) 128 pt
    (acc.1 ++ ((t.sliceBytes h sp (x.1 / 128 * 128) 128 pt (fun _ => 0)).getD []), t)) ([], s)
/-- CLASP_GRANT (R319): the oldest waiting tile takes a free line's clasp, with exclusive ownership where it asked for it (R212), and asks
for its next one. Another package's GETX is answered with the line (R407), its CLASP with an acknowledgement. -/
def execClaspGrant (pkg line : Nat) (s : State) : Outcome State Fault Refusal :=
  let cs := (s.pkgAt pkg).clasps
  .next (match cs.find? (fun c => c.line = line && !c.held && !cs.any (fun d => d.held && d.line = line && d.sp = c.sp)) with
    | none => s
    | some c =>
      let s := (s.endIngress pkg c.sp (128 * line)).modPkg pkg (fun p => { p with
        clasps := p.clasps.map (fun d => if d = c then { d with held := true } else d) })
      let s := if c.excl then s.staleLine c.pkg pkg c.sp line else s
      match s.req? c.req with
      | none => s
      | some q =>
        if corePkg q.core = pkg then s.claimNext q
        else if c.excl then
          let x := s.homeLines pkg c.sp (128 * line) 128 q.pt
          x.2.send pkg (corePkg q.core) (.data c.req (x.1.map (·.val)))
        else s.send pkg (corePkg q.core) (.ack c.req))

/-- The clk at which the oldest request parked on a page of a space parked (R363, R367). -/
def State.oldestParked (s : State) (sp page : Nat) : Option Nat :=
  let a := s.regs.filterMap (fun r => if r.entry.sp = sp && pageOf r.entry.ia = page then r.parked else none)
  let b := s.reqs.filterMap (fun r => if r.sp = sp && pageOf r.ia = page then r.parked else none)
  let c := (s.agentParks.filter (fun x => x.1 = sp && x.2.1 = page)).map (·.2.2)
  let d := s.cmds.filterMap (fun m => m.parked.bind (fun x => if x.1 = sp && x.2.1 = page then some x.2.2 else none))
  (a ++ b ++ c ++ d).foldl (fun acc x => some (match acc with | some y => min x y | none => x)) none
/-- True when a page's entry no longer holds requests back (R363, R366): it is neither absent nor being migrated. -/
def State.pageOpen (s : State) (sp page : Nat) : Bool :=
  match s.walk sp (iaOff (65536 * page)) with
  | .absent => false
  | .leaf e _ _ => !bitAt e 19
  | _ => true
/-- PARK_LIMIT (R367) for the pages of a number whose oldest parked request has waited $PARKLIM: one event each. -/
def execParkLimit (pkg page : Nat) (s : State) : Outcome State Fault Refusal :=
  .next ((List.range 96).foldl (fun t q =>
    let sp := 96 * pkg + q
    let lim := (t.partAt sp).parklim.toNat
    match t.oldestParked sp page with
    | some since =>
      if lim ≠ 0 && since + lim ≤ t.now && !t.pageOpen sp page && !(t.pkgAt pkg).limitSent.contains (sp, page) then
        (t.modPkg pkg (fun p => { p with limitSent := (sp, page) :: p.limitSent })).supervisorEvent sp
          { cause := Cause.parkLimit, value := BitVec.ofNat 64 (page * 65536) }
      else t
    | none => t) s)
/-- The parked requests of a page taken up again, the stores in the order in which they parked (R363, R366): made where the page is
present, discarded where it is invalid or denies the write. -/
def State.pageReady (s : State) (sp page : Nat) : State :=
  let waiting := s.regs.filter (fun r => r.parked.isSome && r.entry.sp = sp && pageOf r.entry.ia = page)
  let s := waiting.foldl (fun t r =>
    match t.pageCheck r.entry.part r.entry.level (some .write) r.entry.ia with
    | .place _ =>
      let t := (t.makeReg r.entry).cleanWords sp r.entry.ia r.entry.bytes.length
      if r.entry.remote then t.send (homePkg r.entry.ia) (corePkg r.entry.core) (.ack r.entry.id) else t
    | .fail _ => t.discard r.entry
    | _ => t) s
  if !s.pageOpen sp page then s
  else
    let s := { s with
      agentParks := s.agentParks.filter (fun x => !(x.1 = sp && x.2.1 = page))
      cmds := s.cmds.map (fun (c : Cmd) => if c.parked.any (fun (x : Nat × Nat × Nat) => x.1 = sp && x.2.1 = page) then { c with parked := none } else c) }
    s.modPkg (sp / 96) (fun p => { p with limitSent := p.limitSent.filter (fun x => x ≠ (sp, page)) })
/-- PGREADY (R366). -/
def execPgready (pkg part page : Nat) (s : State) : Outcome State Fault Refusal :=
  .next (if homePkg (page * 65536) = pkg then s.pageReady (96 * pkg + part) page else s)
/-- INGRESS_LEASE_EXPIRY (R223, R408): the line's value already stands at its home agent, so only its record goes (log 14). -/
def execIngressLeaseExpiry (pkg line : Nat) (s : State) : Outcome State Fault Refusal :=
  .next (s.modPkg pkg (fun p => { p with ingress := p.ingress.filter (fun x => !(x.2.1 = line && decide (x.2.2 + 2048 ≤ s.now))) }))

end Sys2Proof.Machine
end

