-- ==== Sys2Proof/Machine/Convert.lean ====
section
/-! DEFINITION. Group 010: conversion, block and packed instructions (R181 to R190), block quantisation (R92). -/

namespace Sys2Proof.Machine

open Host (Outcome)

/-- An integer as a value. -/
def intVal (x : Int) : FVal := .fin (decide (x < 0)) x.natAbs 0
/-- The entries of a core's code table (R30). -/
def Core.table (c : Core) (i : Nat) : List Nat := (c.tables.getD i []).map (·.toNat)
/-- The value of an element code; a code-table index reads the table as BF16 (R82). FTZ acts on the wide formats (R76). -/
def elemValue (e : Elem) (table : List Nat) (ftz : Bool) (c : Nat) : FVal :=
  match e with
  | .float f => f.operand (ftz && f.frac > 6) (c % 2 ^ f.size)
  | .int n => intVal (toSigned n c)
  | .table => fmtBF16.decode (table.getD (c % 16) 0)
/-- The element format of a code in an instruction (decode has refused the reserved ones). -/
def elemD (code : BitVec 6) : Elem := (elemOf code.toNat).getD (.float fmtF32)
/-- CVT's source value (R167, R183). -/
def State.convSource (s : State) (l : Lane) (h : Head) (m : ConvMod) : FVal :=
  if m.sint then intVal (s.readInt l .sa h.sa m.sity)
  else elemValue (elemD m.sfmt) ((s.coreAt (s.team l.tid).coreKey).table m.cti.toNat) m.ftz (s.readReg l .sa h.sa).toNat
/-- CVT (R181 to R184). -/
def execCvt (h : Head) (m : ConvMod) (s : State) : Outcome State Fault Refusal :=
  .next (s.runLanes h (fun t l =>
    let v := s.convSource l h m
    let core := (s.team l.tid).coreKey
    let mode := rndMode m.rnd (s.team l.tid).rmode
    if m.dint then
      let d := t.draw core mode
      let r := roundInt (width m.dity) (signed m.dity) mode d.1 v
      .done ((d.2.writeInt l h.dst m.dity r.1 (some 4)).raiseFlags l r.2 (some 4))
    else match elemD m.dfmt with
      | .table =>
        let r := tableIndex ((s.coreAt core).table m.cti.toNat) v
        .done (t.deliver l h.dst r.1 r.2 (some 4))
      | .int n =>
        let d := t.draw core mode
        let r := roundInt n true mode d.1 v
        .done (d.2.deliver l h.dst (wrap n r.1) r.2 (some 4))
      | .float f => .done (t.deliverRound l h.dst f mode (m.sat && f.size != 32) (m.ftz && f.frac > 6) (v, 0) (some 4))))

/-- Elements of a wide format in a run: one a register, or two (R185). -/
def wideRun (f : Fmt) : Nat := if f.size = 32 then 16 else 8
/-- Packed element registers of a block in a format (R185). -/
def packedRegs (bits : Nat) : Nat := (16 * bits + 31) / 32
/-- Words packed from 16 elements of a number of bits (R83, R185). -/
def packElems (bits : Nat) (es : List Nat) : Nat := es.foldr (fun e acc => e % 2 ^ bits + 2 ^ bits * acc) 0
/-- The words of a packed value, lowest first. -/
def splitWords : Nat → Nat → List Word
  | 0, _ => []
  | n + 1, x => BitVec.ofNat 32 x :: splitWords n (x / 2 ^ 32)
/-- The value of words, lowest first. -/
def joinWords (ws : List Word) : Nat := ws.foldr (fun w acc => w.toNat + 2 ^ 32 * acc) 0
/-- n elements of a number of bits. -/
def splitElems (bits : Nat) : Nat → Nat → List Nat
  | 0, _ => []
  | n + 1, x => x % 2 ^ bits :: splitElems bits n (x / 2 ^ bits)
/-- A run of main registers read (R187). -/
def State.readRun (s : State) (l : Lane) (fld : Field) (n : Nat) : List Word :=
  (List.range n).map (fun i => s.readOff l .sa fld i)
/-- A run of registers written with variable latency; y0 takes the last and y1 the one before it (R187, R188). -/
def State.writeRun (s : State) (l : Lane) (fld : Field) (ws : List Word) : State :=
  let t := ws.zipIdx.foldl (fun t p => t.writeName l (regName fld.file (fld.idx + p.2)) p.1 none) s
  t.modFibre l (fun f => f.setLast s.now (pairOf (ws.getD (ws.length - 1) 0) (ws.getD (ws.length - 2) 0)) none s.seq)

/-- emax of R92: floor of log2 of the target's max finite. -/
def elemEmax (e : Elem) : Int :=
  match e with
  | .float f => f.maxFin.2 + (log2 f.maxFin.1 : Int)
  | .int n => (n : Int) - 2
  | .table => 0
/-- floor of log2 of the largest magnitude; none where every value is zero (R92). -/
def topExponent (vs : List FVal) : Option Int :=
  vs.foldl (fun acc v => match v with
    | .fin _ s e => if s = 0 then acc else
      let k := e + (log2 s : Int)
      some (match acc with | some a => max a k | none => k)
    | _ => acc) none
/-- One element of a block rounded into the target with .sat set (R92). -/
def roundElem (e : Elem) (mode : RMode) (x : Word) (v : FVal) : Nat × FFlags :=
  match e with
  | .float f => f.round mode true false x v
  | .int n => let r := roundInt n true mode x v; (wrap n r.1, r.2)
  | .table => (0, 0)
/-- Elements converted in order, the stochastic state advancing once for each under SR (R86, R92). -/
def State.convertAll (s : State) (core : Nat) (mode : RMode) (g : Word → FVal → Nat × FFlags) :
    List FVal → State × List Nat × FFlags
  | [] => (s, [], 0)
  | v :: vs =>
    let d := s.draw core mode
    let r := g d.1 v
    let rest := d.2.convertAll core mode g vs
    (rest.1, r.1 :: rest.2.1, r.2 ||| rest.2.2)
/-- Quantising 16 values into a block (R92): the state, the scale, the element codes and the flags. -/
def State.quantiseBlock (s : State) (core : Nat) (e : Elem) (mode : RMode) (vs : List FVal) :
    State × Nat × List Nat × FFlags :=
  if vs.any (fun v => match v with | .fin _ _ _ => false | _ => true) then
    let r := s.convertAll core mode (fun _ _ => (0, 0)) vs
    (r.1, 0xFF, r.2.1, flInvalid)
  else
    let sc : Int := match topExponent vs with
      | none => 127
      | some k => min (max (k - elemEmax e + 127) 0) 254
    let r := s.convertAll core mode (fun x v => roundElem e mode x (v.scale (127 - sc))) vs
    (r.1, sc.toNat, r.2.1, r.2.2)
/-- CVTBLK (R185, R187, R188). -/
def execCvtblk (h : Head) (m : ConvMod) (s : State) : Outcome State Fault Refusal :=
  .next (s.runLanes h (fun t l =>
    let e := elemD m.dfmt
    match elemD m.sfmt with
    | .float f =>
      let src := joinWords (s.readRun l h.sa (wideRun f))
      let vs := (splitElems f.size 16 src).map (f.operand m.ftz)
      let q := t.quantiseBlock (s.team l.tid).coreKey e (rndMode m.rnd (s.team l.tid).rmode) vs
      let ws := splitWords (packedRegs e.bits) (packElems e.bits q.2.2.1) ++ [BitVec.ofNat 32 q.2.1]
      .done ((q.1.writeRun l h.dst ws).raiseFlags l q.2.2.2 none)
    | _ => .done t))
/-- DEQBLK (R186 to R188). -/
def execDeqblk (h : Head) (m : ConvMod) (s : State) : Outcome State Fault Refusal :=
  .next (s.runLanes h (fun t l =>
    let e := elemD m.sfmt
    let core := (s.team l.tid).coreKey
    let mode := rndMode m.rnd (s.team l.tid).rmode
    match elemD m.dfmt with
    | .float f =>
      let n := packedRegs e.bits
      let ws := s.readRun l h.sa (n + 1)
      let sc := (ws.getD n 0).toNat % 256
      let table := (s.coreAt core).table m.cti.toNat
      let vs := (splitElems e.bits 16 (joinWords (ws.take n))).map (elemValue e table false)
      let g : Word → FVal → Nat × FFlags := fun x v => match scaleExp sc with
        | none => ((f.nanCode false).getD 0, 0)
        | some k => f.round mode m.sat m.ftz x (v.scale k)
      let r := t.convertAll core mode g vs
      .done ((r.1.writeRun l h.dst (splitWords (wideRun f) (packElems f.size r.2.1))).raiseFlags l r.2.2 none)
    | _ => .done t))

/-- The exact sum of several values with the flags of R174: a NaN among them first, then infinities of both signs. -/
def sumAll (mode : RMode) (vs : List FVal) : FVal × FFlags :=
  if vs.any (·.isNan) then (.nan false, if vs.any (·.isSnan) then flInvalid else 0)
  else if vs.contains (.inf false) && vs.contains (.inf true) then (.nan false, flInvalid)
  else match vs with
    | [] => (.fin false 0 0, 0)
    | v :: r => (r.foldl (fun a b => (a.add mode b).1) v, 0)
/-- Exact products and the addend, summed exactly (R98). -/
def dotSum (mode : RMode) (ps : List (FVal × FVal)) (c : FVal) : FVal × FFlags :=
  let prods := ps.map (fun p => p.1.mul p.2)
  let r := sumAll mode (prods.map (·.1) ++ [c])
  (r.1, prods.foldl (fun f p => f ||| p.2) r.2)
/-- The wide format of a packed instruction. -/
def packedFmt (code : BitVec 6) : Fmt := match elemD code with | .float f => f | _ => fmtF16
/-- HADD2 and HFMA2: each half computed and rounded, low before high (R171, R189). -/
def packedHalves (h : Head) (m : ConvMod) (g : RMode → FVal → FVal → FVal → FVal × FFlags) (s : State) :
    Outcome State Fault Refusal :=
  .next (s.runLanes h (fun t l =>
    let f := packedFmt m.sfmt
    let core := (s.team l.tid).coreKey
    let mode := rndMode m.rnd (s.team l.tid).rmode
    let part := fun (w : Word) (k : Nat) => f.operand m.ftz (w.toNat / 2 ^ (16 * k) % 2 ^ 16)
    let a := s.readReg l .sa h.sa
    let b := s.readReg l .sb h.sb
    let c := s.readReg l .sc h.sc
    let v0 := g mode (part a 0) (part b 0) (part c 0)
    let v1 := g mode (part a 1) (part b 1) (part c 1)
    let d0 := t.draw core mode
    let r0 := f.round mode m.sat m.ftz d0.1 v0.1
    let d1 := d0.2.draw core mode
    let r1 := f.round mode m.sat m.ftz d1.1 v1.1
    .done (d1.2.deliver l h.dst (r0.1 + 2 ^ 16 * r1.1) (v0.2 ||| v1.2 ||| r0.2 ||| r1.2) (some 4))))
/-- HADD2 (R189). -/
def execHadd2 (h : Head) (m : ConvMod) (s : State) : Outcome State Fault Refusal :=
  packedHalves h m (fun mode a b _ => a.add mode b) s
/-- HFMA2 (R189). -/
def execHfma2 (h : Head) (m : ConvMod) (s : State) : Outcome State Fault Refusal :=
  packedHalves h m FVal.fma s
/-- A dot product of n elements of a number of bits into FP32 (R98, R189): SAT acts on 16-bit results only. -/
def dotFloat (h : Head) (m : ConvMod) (n : Nat) (s : State) : Outcome State Fault Refusal :=
  .next (s.runLanes h (fun t l =>
    let e := elemD m.sfmt
    let mode := rndMode m.rnd (s.team l.tid).rmode
    let part := fun (w : Word) (k : Nat) => elemValue e [] m.ftz (w.toNat / 2 ^ (e.bits * k) % 2 ^ e.bits)
    let a := s.readReg l .sa h.sa
    let b := s.readReg l .sb h.sb
    let v := dotSum mode ((List.range n).map (fun k => (part a k, part b k))) (s.readFloat l .sc h.sc fmtF32 m.ftz)
    .done (t.deliverRound l h.dst fmtF32 mode false m.ftz v (some 4))))
/-- DOT2 (R189). -/
def execDot2 (h : Head) (m : ConvMod) (s : State) : Outcome State Fault Refusal := dotFloat h m 2 s
/-- DOT4 (R189): the integer form where DINT is 1. -/
def execDot4 (h : Head) (m : ConvMod) (s : State) : Outcome State Fault Refusal :=
  if m.dint then
    .next (s.runLanes h (fun t l =>
      let byte := fun (w : Word) (k : Nat) => toSigned 8 (w.toNat / 2 ^ (8 * k))
      let a := s.readReg l .sa h.sa
      let b := s.readReg l .sb h.sb
      let sum := (List.range 4).foldl (fun acc k => acc + byte a k * byte b k) (s.readReg l .sc h.sc).toInt
      .done (t.result32 l h.dst (BitVec.ofInt 32 sum) (some 4))))
  else dotFloat h m 4 s

end Sys2Proof.Machine
end

