-- ==== Sys2Proof/Machine/Engine.lean ====
section
/-! DEFINITION. Issuing the instructions of group 101 (R226 to R251, R257 to R259): block operands, operand-buffer
reservations, engine commands with their checks, QPUSH and the timeline counters. -/

namespace Sys2Proof.Machine

open Host (Outcome)

/-- A word of a block (R7). -/
def blockWord (b : List Byte) (off : Nat) : Nat := ofBytes ((b.drop off).take 4)
/-- A dword of a block (R7). -/
def blockDword (b : List Byte) (off : Nat) : Nat := ofBytes ((b.drop off).take 8)
/-- PARAM_BAD at a byte offset (R233). -/
def paramBad (off : Nat) : Cause.Code × Dword := (Cause.paramBad, BitVec.ofNat 64 off)
/-- The first true one of some conditions, with its value. -/
def firstBad (l : List (Bool × Nat)) : Option Nat := (l.find? (·.1)).map (·.2)
/-- A block operand of n bytes (R228): team-scalar registers, or scratchpad bytes in the core's one order, read
after a pending acquire of the fibre (R294). -/
def withBlock (s t : State) (l : Lane) (pos : Pos) (fld : Field) (n : Nat) (k : State → List Byte → LaneRes) : LaneRes :=
  if fld.file = .team then
    k t ((List.range (n / 4)).flatMap (fun i => toBytes 4 (s.readOff l pos fld i).toNat))
  else
    let off := (s.readReg l pos fld).toNat
    if off % n ≠ 0 then .trap Cause.misaligned (BitVec.ofNat 64 off)
    else match leafRange (s.team l.tid).leaves off n with
      | some c => .trap c.1 c.2
      | none => afterAcquire t l (t.withLeaves l l.tid off n (fun t => k t ((t.team l.tid).readLeaf off n)))

/-- The reservations of a core that are live (R28). -/
def Core.liveResv (c : Core) (tid num : Nat) : Option Resv := c.resvs.find? (fun r => r.num = num && r.tid = tid && r.gone = none)
/-- A reservation record's fields (R234). -/
def readResv (b : List Byte) : Resv :=
  let w0 := blockWord b 0
  let w1 := blockWord b 4
  { num := 0, tid := 0, base := 0, len := w0 % 512, efmt := BitVec.ofNat 6 (bits w0 14 9), scaled := bits w0 16 15 = 1,
    blkl := bitAt w0 17, ct := bits w0 19 18, estr := w1 % 65536, sstr := w1 / 65536, soff := blockWord b 8 % 2 ^ 18 }
/-- R235: a record that OBRES refuses. -/
def resvBad (b : List Byte) : Bool :=
  let w0 := blockWord b 0
  let r := readResv b
  let sf := bits w0 16 15
  bits w0 31 20 ≠ 0 || blockWord b 8 / 2 ^ 18 ≠ 0 || blockWord b 12 ≠ 0 || r.len = 0 || decide (256 < r.len) || r.efmt = 0 ||
    (elemOf r.efmt.toNat).isNone || decide (2 ≤ sf) || (sf = 1 && (r.efmt = 1 || r.efmt = 2)) || (r.blkl && sf = 0) ||
    (r.ct ≠ 0 && r.efmt ≠ 0x0A) || (sf = 1 && decide (r.len * 1024 ≤ r.soff))
/-- True when a range of KiB granules meets no reservation. -/
def Core.granulesFree (c : Core) (base len : Nat) : Bool :=
  decide (base + len ≤ 256) && c.resvs.all (fun r => !overlaps base len r.base r.len)
/-- OBRES in one lane (R234). -/
def obresLane (h : Head) (s t : State) (l : Lane) : LaneRes :=
  withBlock s t l .sa h.sa 16 (fun t b =>
    if resvBad b then .trap Cause.obRecord (BitVec.ofNat 64 (blockWord b 0))
    else
      let ck := (s.team l.tid).coreKey
      let c := t.coreAt ck
      let r := readResv b
      match (List.range 16).find? (fun n => c.resvs.all (fun x => x.num ≠ n)) with
      | none => .done (t.writeReg l h.dst 0xFFFFFFFF none)
      | some num =>
        match (List.range 257).find? (fun base => c.granulesFree base r.len) with
        | none => .done (t.writeReg l h.dst 0xFFFFFFFE none)
        | some base =>
          .done ((t.modCore ck (fun c => { c with
            resvs := c.resvs ++ [{ r with num := num, tid := l.tid, base := base }]
            ob := Memory.clear c.ob (1024 * base) (1024 * (base + r.len)) })).writeReg l h.dst (BitVec.ofNat 32 num) none))
/-- OBRES (R234). -/
def execObres (h : Head) (_m : EngineMod) (s : State) : Outcome State Fault Refusal := .next (s.runLanes h (obresLane h s))
/-- OBREL (R237): the number stops being the team's at once. -/
def execObrel (h : Head) (_m : EngineMod) (s : State) : Outcome State Fault Refusal :=
  .next (s.runLanes h (fun t l => afterEngine (s.fibre l) (
    let a := (s.readReg l .sa h.sa).toNat
    let ck := (s.team l.tid).coreKey
    if a / 16 ≠ 0 then .trap Cause.paramBad 0xFFFF
    else match (t.coreAt ck).liveResv l.tid a with
      | none => .trap Cause.obRes (BitVec.ofNat 64 a)
      | some _ => .done ((t.modCore ck (fun c => { c with
          resvs := c.resvs.map (fun r => if r.num = a then { r with gone := some t.seq } else r) })).bump))))

/-- A command put at the end of its core's engine order, its data leaves claimed (R26, R227, R230). -/
def State.issueCmd (t : State) (l : Lane) (c : Cmd) (leaves : List Nat) : State :=
  { (t.modTeam l.tid (fun tm => if leaves.isEmpty then tm else { tm with claims := tm.claims ++ [(t.seq, leaves)] })) with
    seq := t.seq + 1
    cmds := t.cmds ++ [{ c with id := t.seq }] }
/-- A command of a lane with what every kind captures (R229). -/
def newCmd (s : State) (l : Lane) (kind : CmdKind) : Cmd :=
  let tm := s.team l.tid
  { id := 0, core := tm.coreKey, tid := l.tid, fid := l.fid, part := tm.partKey, level := (s.fibre l).level, kind := kind,
    rmode := tm.rmode, ranges := (s.partAt tm.partKey).ranges }
/-- The leaves of a byte range. -/
def leavesOf (off n : Nat) : List Nat := let sp := leafSpan off n; (List.range (sp.2 - sp.1)).map (sp.1 + ·)
/-- The version of the code table that a reservation names, as a command that issues now captures it (R99): every CTAB of the core that has
issued counts, also one that has not yet written (R100). -/
def State.tableVersion (s : State) (ck : Nat) (r : Resv) : List Nat :=
  if r.efmt = 0x0A then
    [((s.coreAt ck).tableVer.getD r.ct 0 + (s.cmds.filter (fun d => d.kind = .ctab && d.core = ck && d.arg8 = r.ct)).length) % 65536]
  else []

/-- The fields of an MMA parameter block (R239). -/
structure MmaParams where
  resa : Nat
  resb : Nat
  loca : Nat
  locb : Nat
  acc : Nat
  zero : Bool
  kept : Nat
  m : Nat
  n : Nat
  k : Nat
  seed : Word
  rowbase : Nat
  kbase : Nat
  noffa : Nat
  noffb : Nat
  deriving DecidableEq, Repr
/-- An MMA parameter block read (R239). -/
def readMma (b : List Byte) : MmaParams :=
  let w0 := blockWord b 0
  let w1 := blockWord b 4
  let w3 := blockWord b 12
  let spk := bits w0 22 21
  ⟨w0 % 16, bits w0 7 4, bits w0 10 8, bits w0 13 11, bits w0 19 14, bitAt w0 20, if spk = 0 then 16 else 2 ^ spk,
    32 * (w1 % 8 + 1), 32 * (bits w1 5 3 + 1), 16 * (bits w1 14 6 + 1), BitVec.ofNat 32 (blockWord b 8), w3 % 65536, w3 / 65536,
    blockWord b 16, blockWord b 20⟩
/-- Bits of one element of a reservation (R73). -/
def Resv.elemBits (r : Resv) : Nat := (elemD r.efmt).bits
/-- Bytes of one unit's element run, `kept` of 16 elements a block (R93, R236). -/
def Resv.runBytes (r : Resv) (kept k : Nat) : Nat :=
  let n := kept * (k / 16)
  if r.elemBits = 6 then 12 * ((n + 15) / 16) else n * r.elemBits / 8
/-- Scale bytes of one unit (R236). -/
def Resv.scaleBytes (r : Resv) (k : Nat) : Nat := if r.blkl then (k / 16 - 1) / 2 + 1 else k / 16
/-- The end of the last byte that a command uses of a reservation of some units (R241). -/
def Resv.used (r : Resv) (units kept k : Nat) : Nat :=
  let e := r.estr * (units - 1) + r.runBytes kept k
  if r.scaled then max e (r.soff + r.sstr * (units - 1) + r.scaleBytes k) else e
/-- R240 item 4: the units and their scales fit the reservation. -/
def Resv.fits (r : Resv) (units kept k : Nat) : Bool :=
  decide (r.used units kept k ≤ 1024 * r.len) &&
    (!r.scaled || decide (r.estr * (units - 1) + r.runBytes kept k ≤ r.soff))
/-- The checks of a neighbour operand (R240 item 6, R27). -/
def State.neighbourCheck (s : State) (tm : Team) (loc noff used : Nat) : Option (Cause.Code × Dword) :=
  if loc < 4 then none
  else if !tm.clusterBound then some (Cause.scopeUndecl, 8)
  else match (tm.neighbour (loc - 4)).bind s.team? with
    | none => some (Cause.leafRange, BitVec.ofNat 64 noff)
    | some x => leafRange x.leaves noff used
/-- MMA in one lane (R239, R240). -/
def mmaLane (h : Head) (s t : State) (l : Lane) : LaneRes :=
  let tm := s.team l.tid
  afterAcquire t l (afterEngine (s.fibre l) (withBlock s t l .sa h.sa 64 (fun t b =>
    let p := readMma b
    let bad := fun (x : Nat) => decide (1 ≤ x) && decide (x ≤ 3)
    match firstBad [(bits (blockWord b 0) 31 23 ≠ 0 || bad p.loca || bad p.locb, 0), (bits (blockWord b 4) 31 15 ≠ 0, 4),
        ((b.drop 24).any (· ≠ 0), 24)] with
    | some o => .trap Cause.paramBad (BitVec.ofNat 64 o)
    | none =>
      let c := t.coreAt tm.coreKey
      match c.liveResv l.tid p.resa, c.liveResv l.tid p.resb with
      | none, _ => .trap Cause.obRes (BitVec.ofNat 64 p.resa)
      | _, none => .trap Cause.obRes (BitVec.ofNat 64 p.resb)
      | some ra, some rb =>
        let tiles := p.m / 32 * (p.n / 32)
        if !ra.fits p.m p.kept p.k || !rb.fits p.n 16 p.k then .trap Cause.paramBad 4
        else if tm.acct < p.acc + tiles then .trap Cause.accRange (BitVec.ofNat 64 (max p.acc tm.acct))
        else match s.neighbourCheck tm p.loca p.noffa (ra.used p.m p.kept p.k) with
          | some c => .trap c.1 c.2
          | none => match s.neighbourCheck tm p.locb p.noffb (rb.used p.n 16 p.k) with
            | some c => .trap c.1 c.2
            | none => .done (t.issueCmd l { newCmd s l .mma with
                block := b, tile := p.acc, tiles := tiles, resA := some ra, resB := some rb
                versions := t.tableVersion tm.coreKey ra ++ t.tableVersion tm.coreKey rb } []))))
/-- MMA (R239). -/
def execMma (h : Head) (_m : EngineMod) (s : State) : Outcome State Fault Refusal := .next (s.runLanes h (mmaLane h s))
/-- A tile control operand (R243): first tile and count, checked against the team's tiles. -/
def tileControl (tm : Team) (a : Nat) : Chk (Nat × Nat) :=
  let first := a % 64
  let count := bits a 13 8 + 1
  if bits a 7 6 ≠ 0 || a / 2 ^ 14 ≠ 0 then .error (Cause.paramBad, 0xFFFF)
  else if tm.acct < first + count then .error (Cause.accRange, BitVec.ofNat 64 (max first tm.acct))
  else .ok (first, count)
/-- ACCZ (R243). -/
def execAccz (h : Head) (_m : EngineMod) (s : State) : Outcome State Fault Refusal :=
  .next (s.runLanes h (fun t l => afterEngine (s.fibre l) (
    match tileControl (s.team l.tid) (s.readReg l .sa h.sa).toNat with
    | .error c => .trap c.1 c.2
    | .ok (first, count) => .done (t.issueCmd l { newCmd s l .accz with tile := first, tiles := count } []))))
/-- Bytes of one element that ACCRD writes (R244). -/
def accrdSize (arg8 : Nat) : Nat := if arg8 % 4 = 0 then 4 else 2
/-- ACCRD (R244). -/
def execAccrd (h : Head) (m : EngineMod) (s : State) : Outcome State Fault Refusal :=
  .next (s.runLanes h (fun t l => afterAcquire t l (afterEngine (s.fibre l) (
    let tm := s.team l.tid
    let off := (s.readReg l .sa h.sa).toNat
    match tileControl tm (s.readReg l .sb h.sb).toNat with
    | .error c => .trap c.1 c.2
    | .ok (first, count) =>
      let n := 1024 * count * accrdSize m.arg8.toNat
      match leafRange tm.leaves off n with
      | some c => .trap c.1 c.2
      | none =>
        if off % accrdSize m.arg8.toNat ≠ 0 then .trap Cause.misaligned (BitVec.ofNat 64 off)
        else .done (t.issueCmd l { newCmd s l .accrd with
          tile := first, tiles := count, off := off, arg8 := m.arg8.toNat } (leavesOf off n))))))
/-- CTAB (R238): the block is read at issue, the write follows in the engine order. -/
def execCtab (h : Head) (m : EngineMod) (s : State) : Outcome State Fault Refusal :=
  .next (s.runLanes h (fun t l => afterEngine (s.fibre l) (withBlock s t l .sa h.sa 32 (fun t b =>
    .done (t.issueCmd l { newCmd s l .ctab with block := b, arg8 := m.arg8.toNat % 4 } [])))))

/-- A TCOPY descriptor (R245). -/
structure Copy where
  gbase : Nat
  dir : Nat
  esz : Nat
  ndim : Nat
  res : Nat
  loff : Nat
  roff : Nat
  /-- EXT, BOX, COORD and GSTR of each dimension -/
  dims : List (Nat × Nat × Int × Nat)
  deriving DecidableEq, Repr
/-- A descriptor read (R245). -/
def readCopy (b : List Byte) : Copy :=
  let w := blockWord b 8
  let nd := bits w 7 5 + 1
  ⟨blockDword b 0, w % 4, 2 ^ (bits w 4 2), nd, bits w 11 8, blockWord b 12, blockWord b 16,
    (List.range (min nd 5)).map (fun d => (blockWord b (0x18 + 16 * d), blockWord b (0x1C + 16 * d) % 65536,
      toSigned 32 (blockWord b (0x20 + 16 * d)), if d = 0 then 2 ^ (bits w 4 2) else blockWord b (0x24 + 16 * d)))⟩
/-- Elements of the box. -/
def Copy.count (c : Copy) : Nat := c.dims.foldl (fun a d => a * d.2.1) 1
/-- Element e of the box (R247): whether it lies inside the tensor, and its global address with coordinates clamped. -/
def Copy.element (c : Copy) (e : Nat) : Bool × Nat :=
  let r := c.dims.foldl (fun (acc : Nat × Bool × Nat) d =>
    let x : Int := d.2.2.1 + (acc.1 % d.2.1 : Nat)
    let q := min (max x 0) (d.1 - 1)
    (acc.1 / d.2.1, acc.2.1 && x = q, acc.2.2 + d.2.2.2 * q.toNat)) (e, true, c.gbase)
  (r.2.1, r.2.2)
/-- R246 item 2: the lowest offset of a bad field. -/
def copyBad (b : List Byte) (m : EngineMod) : Option Nat :=
  let w := blockWord b 8
  let c := readCopy b
  let nd := bits w 7 5
  let ordBad := (m.ord = .acq && c.dir % 2 = 1) || (m.ord = .rel && c.dir ≠ 1) ||
    (c.dir = 3 && (m.scope ≠ 0 || m.evict ≠ .default))
  let dims := (List.range 5).flatMap (fun d =>
    let e := blockWord b (0x18 + 16 * d)
    let x := blockWord b (0x1C + 16 * d)
    let on := decide (d ≤ nd)
    [((if on then e == 0 else e != 0), 0x18 + 16 * d),
     ((if on then x == 0 || decide (65536 ≤ x) else x != 0) || (d = 0 && decide (2 ^ 20 < c.esz * c.count)), 0x1C + 16 * d),
     (!on && blockWord b (0x20 + 16 * d) ≠ 0, 0x20 + 16 * d),
     ((!on || d = 0) && blockWord b (0x24 + 16 * d) ≠ 0, 0x24 + 16 * d)])
  firstBad ([(decide (5 ≤ bits w 4 2) || decide (5 ≤ nd) || bits w 31 12 ≠ 0 || (decide (c.dir < 2) && c.res ≠ 0) || ordBad, 8),
    (blockWord b 0x14 ≠ 0, 0x14)] ++ dims ++ [((b.drop 0x68).any (· ≠ 0), 0x68)])
/-- R246 items 8 and 9: the first global address of the box that fails, element by element: ADDR_HIGH for every address that the command
forms, the range checks for those that it touches. -/
def State.copyRange (s : State) (tm : Team) (f : Fibre) (c : Copy) : Option (Cause.Code × Dword) :=
  let elems := (List.range c.count).map c.element
  match elems.find? (fun x => decide (2 ^ 56 ≤ x.2)) with
  | some x => some (Cause.addrHigh, BitVec.ofNat 64 x.2)
  | none => elems.findSome? (fun x =>
      if c.dir = 1 && !x.1 then none
      else match s.rangeCheck tm.partKey f.level (if c.dir = 1 then .write else .read) x.2 with
        | .error e => some (e, BitVec.ofNat 64 x.2)
        | .ok _ => none)
/-- The reservation that a copy's fields name, where it has one (R246). -/
def copyResv (c : Core) (tid : Nat) (x : Copy) : Chk (Option Resv) :=
  if x.dir < 2 then .ok none
  else match c.liveResv tid x.res with
    | some r => .ok (some r)
    | none => .error (Cause.obRes, BitVec.ofNat 64 x.res)
/-- TCOPY in one lane (R245, R246). -/
def tcopyLane (h : Head) (m : EngineMod) (s t : State) (l : Lane) : LaneRes :=
  let tm := s.team l.tid
  let f := s.fibre l
  afterAcquire t l (afterDeferred f m.ord.releases (afterEngine f (withBlock s t l .sa h.sa 128 (fun t b =>
    match copyBad b m with
    | some o => .trap Cause.paramBad (BitVec.ofNat 64 o)
    | none =>
      let c := readCopy b
      let n := c.esz * c.count
      match (if c.dir = 3 then .ok .core else tm.point m.scope.toNat), copyResv (t.coreAt tm.coreKey) l.tid c with
      | .error e, _ => .trap e.1 e.2
      | .ok _, .error e => .trap e.1 e.2
      | .ok pt, .ok r =>
        match (if c.dir = 2 then none else leafRange tm.leaves c.loff n) with
        | some e => .trap e.1 e.2
        | none =>
          if r.any (fun r => decide (1024 * r.len < c.roff + n)) then .trap Cause.paramBad 0x10
          else match (c.gbase :: c.dims.map (·.2.2.2)).find? (fun a => a % c.esz ≠ 0) with
            | some a => .trap Cause.misaligned (BitVec.ofNat 64 a)
            | none =>
              match (if c.dir = 3 then none else s.copyRange tm f c) with
              | some e => .trap e.1 e.2
              | none =>
                let rl := t.beginRelease l pt
                let t := if m.ord.releases then rl.2 else t
                .done (t.issueCmd l { newCmd s l .tcopy with
                  block := b, pt := pt, acq := m.ord.acquires, rel := if m.ord.releases then some rl.1 else none
                  evict := m.evict, resA := r, versions := r.toList.flatMap (t.tableVersion tm.coreKey) }
                  (if c.dir = 2 then [] else leavesOf c.loff n))))))
/-- TCOPY (R245). -/
def execTcopy (h : Head) (m : EngineMod) (s : State) : Outcome State Fault Refusal := .next (s.runLanes h (tcopyLane h m s))

/-- A TGATH descriptor (R248). -/
structure Gather where
  rowptr : Nat
  cols : Nat
  vals : Nat
  rowst : Nat
  nrow : Nat
  ptroff : Nat
  coloff : Nat
  valoff : Nat
  cap : Nat
  vsz : Nat
  deriving DecidableEq, Repr
/-- A descriptor read (R248). -/
def readGather (b : List Byte) : Gather :=
  ⟨blockDword b 0, blockDword b 8, blockDword b 0x10, blockWord b 0x18, blockWord b 0x1C, blockWord b 0x20, blockWord b 0x24,
    blockWord b 0x28, blockWord b 0x2C, 2 ^ (blockWord b 0x30 % 4)⟩
/-- TGATH in one lane (R248, R249). -/
def tgathLane (h : Head) (m : EngineMod) (s t : State) (l : Lane) : LaneRes :=
  let tm := s.team l.tid
  afterAcquire t l (afterEngine (s.fibre l) (withBlock s t l .sa h.sa 64 (fun t b =>
    let g := readGather b
    match firstBad [(g.nrow = 0 || decide (65536 ≤ g.nrow), 0x1C), (blockWord b 0x30 / 4 ≠ 0, 0x30), ((b.drop 0x34).any (· ≠ 0), 0x34)] with
    | some o => .trap Cause.paramBad (BitVec.ofNat 64 o)
    | none =>
      match tm.point m.scope.toNat with
      | .error e => .trap e.1 e.2
      | .ok pt =>
        match [(g.rowptr, 4), (g.cols, 4), (g.vals, g.vsz), (g.ptroff, 4), (g.coloff, 4), (g.valoff, g.vsz)].find? (fun x => x.1 % x.2 ≠ 0) with
        | some x => .trap Cause.misaligned (BitVec.ofNat 64 x.1)
        | none =>
          let regions := [(g.ptroff, 4 * (g.nrow + 1)), (g.coloff, 4 * g.cap), (g.valoff, g.vsz * g.cap)]
          match regions.findSome? (fun x => leafRange tm.leaves x.1 x.2) with
          | some e => .trap e.1 e.2
          | none => .done (t.issueCmd l { newCmd s l .tgath with
              block := b, pt := pt, acq := m.ord.acquires, evict := m.evict }
              (dedup (regions.flatMap (fun x => leavesOf x.1 x.2)))))))
/-- TGATH (R248). -/
def execTgath (h : Head) (m : EngineMod) (s : State) : Outcome State Fault Refusal := .next (s.runLanes h (tgathLane h m s))

/-- An operation taken at the home of some bytes (R219, R296): the fibre's own earlier stores to them drain first, and where
the home is another package its fibre first waits for the home's answer (R403, R404). -/
def atHome (s t : State) (l : Lane) (va : Dword) (ia n : Nat) (pt : Point) (k : State → LaneRes) : LaneRes :=
  let tm := s.team l.tid
  let f := s.fibre l
  let q := newReq s tm l .line va ia n pt
  let mine := fun (e : WEntry) => e.tid = l.tid && e.fid = l.fid && e.sp = q.sp && overlaps e.ia e.bytes.length ia n
  if t.wq.any mine || t.regs.any (fun r => !r.registered && mine r.entry) || t.behind { q with order := t.seq } ||
      t.barred (corePkg q.core) q.sp ia then .stay t
  else if s.pageCheck tm.partKey f.level (some .read) ia = .held then .stay (t.parkOn l q)
  else if q.hard && !f.reached then answered f (fun _ => .stay t) (.stay (t.parkOn l q))
  else k (t.raiseFloor l q.core q.sp ia n)
/-- QUEUE_BAD (R251): a capacity outside its limits, or a reserved header bit. -/
def queueBad (hd : List Byte) : Bool :=
  let w := blockWord hd 0x20
  decide (w % 32 < 4) || decide (16 < w % 32) || bits w 7 5 ≠ 0 || bits w 31 9 ≠ 0 || blockWord hd 0x24 ≠ 0 || (hd.drop 0x30).any (· ≠ 0)
/-- Stores of 8 bytes made one after another (R251), up to the first that fails its checks: the state, and that failure. -/
def pushStores (s : State) (tm : Team) (l : Lane) (m : EngineMod) : List (Nat × List Byte) → State → State × Option (Cause.Code × Dword)
  | [], t => (t, none)
  | (a, bs) :: r, t =>
    let va := BitVec.ofNat 64 a
    match s.storeChecks tm (s.fibre l) m.scope.toNat va 8 with
    | .error c => (t, some c)
    | .ok (pt, ia) => pushStores s tm l m r (t.enqueueBytes s tm l va ia pt m.evict bs)
/-- The stores of a QPUSH (R251): the body, then, after a release, the header with SEQ, and the index last. -/
def pushPacket (h : Head) (s t : State) (l : Lane) (m : EngineMod) (pt : Point) (slot idx : Nat) (pkt : List Byte) : LaneRes :=
  let tm := s.team l.tid
  let t := if m.ord.releases then (t.beginRelease l pt).2 else t
  match pushStores s tm l m ((List.range 7).map (fun i => ((slot + 8 + 8 * i) % 2 ^ 64, (pkt.drop (8 + 8 * i)).take 8))) t with
  | (t, some c) => .trapAfter c.1 c.2 t
  | (t, none) =>
    match pushStores s tm l m [(slot, pkt.take 4 ++ toBytes 4 (idx + 1))] (t.beginRelease l pt).2 with
    | (t, some c) => .trapAfter c.1 c.2 t
    | (t, none) => .done (t.writePair l h.dst (BitVec.ofNat 64 idx) none)
/-- QPUSH in one lane (R251). -/
def qpushLane (h : Head) (m : EngineMod) (s t : State) (l : Lane) : LaneRes :=
  let tm := s.team l.tid
  let f := s.fibre l
  let va := s.readPair l .sa h.sa
  afterAcquire t l (afterDeferred f true (withBlock s t l .sb h.sb 64 (fun t pkt =>
    match s.accessChecks tm f m.scope.toNat [.read, .write] va 128 with
    | .error c => .trap c.1 c.2
    | .ok (pt, ia) =>
      if pt = .core then .trap Cause.cmdScope (m.scope.setWidth 64)
      else atHome s t l va ia 128 pt (fun t =>
        let sp := s.space tm.partKey ia
        let r := t.homeTake tm.coreKey sp ia 128
        let hd := r.1
        if queueBad hd then .trap Cause.queueBad va
        else
          let wr := blockDword hd 0
          let cap := 2 ^ (blockWord hd 0x20 % 32)
          if cap ≤ (wr + 2 ^ 64 - blockDword hd 8) % 2 ^ 64 then
            .done ((r.2.resume l).writePair l h.dst 0xFFFFFFFFFFFFFFFF none)
          else
            let w : Writer := { tid := l.tid, fid := l.fid, va := va, part := tm.partKey, level := f.level }
            let t := ((r.2.homePut (some tm.coreKey) sp ia (toBytes 8 (wr + 1)) [w]).touchPage tm.partKey ia).resume l
            pushPacket h s t l m pt ((blockDword hd 0x18 + 64 * (wr % cap)) % 2 ^ 64) wr pkt))))
/-- QPUSH (R251). -/
def execQpush (h : Head) (m : EngineMod) (s : State) : Outcome State Fault Refusal := .next (s.runLanes h (qpushLane h m s))
/-- CTRADD (R257), as an ATOM.add of 8 bytes without a result. -/
def execCtradd (h : Head) (m : EngineMod) (s : State) : Outcome State Fault Refusal :=
  .next (s.runLanes h (atomicLane h ⟨m.ord, m.scope, m.evict, .b8, false, .add, 0⟩ [.read, .write] none false s))
/-- What CTRWAIT and CTRTEST do with the counter read at its home (R257, R258). -/
def counterLane (h : Head) (m : EngineMod) (s t : State) (l : Lane)
    (k : State → Nat → Nat → Bool → (State → LaneRes) → LaneRes) : LaneRes :=
  let tm := s.team l.tid
  let f := s.fibre l
  let va := s.readPair l .sa h.sa
  afterAcquire t l (
    match s.accessChecks tm f m.scope.toNat [.read] va 8 with
    | .error c => .trap c.1 c.2
    | .ok (pt, ia) =>
      let sp := s.space tm.partKey ia
      if s.poisoned tm.coreKey sp ia 8 then .trap Cause.mcPoison va
      else atHome s t l va ia 8 pt (fun t =>
        let r := t.homeTake tm.coreKey sp ia 8
        k (r.2.touchPage tm.partKey ia) sp ia (decide ((s.readPair l .sb h.sb).toNat ≤ ofBytes r.1)) (fun t =>
          t.acquireAnswered l tm.coreKey m.ord.acquires (some pt))))
/-- CTRWAIT (R258): released at once, or a watch at the home. -/
def execCtrwait (h : Head) (m : EngineMod) (s : State) : Outcome State Fault Refusal :=
  .next (s.runLanes h (fun t l =>
    match (s.fibre l).wait with
    | some ⟨.counter _ _ _, true, _⟩ =>
      t.acquireAnswered l (s.team l.tid).coreKey m.ord.acquires ((s.team l.tid).point m.scope.toNat).toOption
    | _ => counterLane h m s t l (fun t sp ia ok fin =>
        if ok then fin t else t.suspend l (.counter sp ia (s.readPair l .sb h.sb)) (s.readPair l .sa h.sa))))
/-- CTRTEST (R257). -/
def execCtrtest (h : Head) (m : EngineMod) (s : State) : Outcome State Fault Refusal :=
  .next (s.runLanes h (fun t l => counterLane h m s t l (fun t _ _ ok fin => fin (t.writePred l h.dst.pred ok none))))

end Sys2Proof.Machine
end

