-- ==== Sys2Proof/Machine/Sync.lean ====
section
/-! DEFINITION. Named barriers (R265 to R267) and futures (R268 to R270), with what the sync instructions share: handles (R261),
objects at their homes, and spawn bins with continuation delivery (R60, R61, R270). -/

namespace Sys2Proof

/-- The scope level that OPTYPE[2:0] names (R260). -/
def SyncMod.lv (m : SyncMod) : Nat := m.optype.toNat % 8

end Sys2Proof

namespace Sys2Proof.Machine

open Host (Outcome)

/-- The low word of a handle, the $TVAL of BAR_BAD, PH_BAD and PH_MODE (R263). -/
def handleVal (h : Dword) : Dword := BitVec.ofNat 64 (h.toNat % 2 ^ 32)
/-- The checks of an object of n bytes (R261, R270): high bits, alignment, R193 steps 4 and 5 for each kind. -/
def State.objectChecks (s : State) (tm : Team) (f : Fibre) (ks : List Acc) (va : Dword) (n : Nat) : Chk Nat :=
  if addrHighBad va then .error (Cause.addrHigh, va)
  else if va.toNat % n ≠ 0 then .error (Cause.misaligned, va)
  else match s.kindChecks tm f ks va n with
    | .error c => .error c
    | .ok ia => if s.poisoned tm.coreKey (s.space tm.partKey ia) ia n then .error (Cause.mcPoison, va) else .ok ia
/-- Bytes put at their home in the step that took them, and the page used (R219, R361). -/
def State.putObject (t : State) (tm : Team) (ia : Nat) (bs : List Byte) (w : List Writer := []) : State :=
  (t.homePut (some tm.coreKey) (t.space tm.partKey ia) ia bs w).touchPage tm.partKey ia
/-- The acquire of an instruction that has its answer (R294): the fibre goes on. -/
def acquireThen (t : State) (l : Lane) (core : Nat) (pt : Point) : LaneRes := t.acquireAnswered l core true (some pt)

/-- The write of a lane at a home (R293). -/
def writerOf (tm : Team) (f : Fibre) (l : Lane) (va : Dword) : List Writer := [{ tid := l.tid, fid := l.fid, va := va, part := tm.partKey, level := f.level }]
/-- Operations of one team on one barrier, future or phaser take effect in issue order (R260): one that has issued and had no effect yet is
remembered with its place, and a later one waits for it. -/
def inTurn (s t : State) (l : Lane) (obj : Dword) (k : State → LaneRes) : LaneRes :=
  let n := match (t.fibre l).turn with
    | some x => if x.1 = obj.toNat then x.2 else 32 * s.seq + l.fid % 32
    | none => 32 * s.seq + l.fid % 32
  let t := t.modFibre l (fun f => { f with turn := some (obj.toNat, n) })
  if (t.team l.tid).fibres.any (fun f => f.turn.any (fun x => x.1 = obj.toNat && decide (x.2 < n))) then .stay t else k t

/-- A handle with TAG, KIND, LEVEL, PKG, DIE and SLOT (R261). -/
def mkHandle (tag kind level pkg die slot : Nat) : Dword :=
  BitVec.ofNat 64 (2 ^ 63 + tag % 2 ^ 24 * 2 ^ 32 + kind * 2 ^ 30 + level * 2 ^ 28 + pkg % 256 * 2 ^ 20 + die % 16 * 2 ^ 16 + slot % 512)
/-- The TAG that follows one (R261). -/
def nextTag (tag : Nat) : Nat := if 2 ^ 24 - 1 ≤ tag then 1 else tag + 1
/-- A team's barriers with one set. -/
def Team.setBarrier (t : Team) (i : Nat) (b : Barrier) : Team :=
  { t with barriers := (List.range 64).map (fun j => if j = i then b else t.barriers.getD j { }) }
/-- The TAG of a team's barrier (R261). -/
def State.barTag (s : State) (t : Team) (i : Nat) : Nat := lookupD 1 (64 * t.slot + i) (s.coreAt t.coreKey).barTags
/-- The barrier of a hardware handle in its team's view, or none where the handle is invalid or stale (R261). -/
def State.barSlot (s : State) (tid : Nat) (h : Dword) : Option Nat :=
  let t := s.team tid
  let i := h.toNat % 512
  if decide (i < 64) && (t.barriers.getD i { }).live && h = mkHandle (s.barTag t i) 0 0 0 0 i then some i else none

/-- BARALLOC (R265, R262). -/
def barallocLane (h : Head) (n : Nat) (t : State) (l : Lane) : LaneRes :=
  let tm := t.team l.tid
  if n = 0 || decide (65535 < n) then .trap Cause.barBad (BitVec.ofNat 64 n)
  else match (List.range tm.bars).find? (fun i => !(tm.barriers.getD i { }).live) with
    | none => .done (t.writePair l h.dst 0xFFFFFFFFFFFFFFFF none)
    | some i => .done ((t.modTeam l.tid (·.setBarrier i { live := true, exp := n })).writePair l h.dst
        (mkHandle (t.barTag tm i) 0 0 0 0 i) none)
/-- BARALLOC, register form (R265). -/
def execBaralloc (h : Head) (_m : SyncMod) (s : State) : Outcome State Fault Refusal :=
  .next (s.runLanes h (fun t l => barallocLane h (s.readReg l .sa h.sa).toNat t l)).bump
/-- BARALLOC, immediate form (R265). -/
def execBarallocImm (h : Head) (m : SyncMod) (s : State) : Outcome State Fault Refusal :=
  .next (s.runLanes h (fun t l => barallocLane h m.imm24.toNat t l)).bump

/-- What a barrier operation acts on: a hardware barrier of the team, or an object at an intermediate address. -/
inductive BarAt where
  | hard (i : Nat) | mem (va : Dword) (ia : Nat)
/-- The barrier that a handle names (R261), with the checks of a memory handle. -/
def State.barAt (s t : State) (l : Lane) (h : Dword) : Chk BarAt :=
  if h.toNat / 2 ^ 63 = 1 then
    (match t.barSlot l.tid h with | some i => .ok (.hard i) | none => .error (Cause.barBad, handleVal h))
  else match s.objectChecks (s.team l.tid) (s.fibre l) [.read, .write] h 16 with
    | .error c => .error c
    | .ok ia => .ok (.mem h ia)
/-- A memory barrier that an operation refuses (R266). -/
def barObjBad (b : List Byte) : Bool :=
  let e := blockWord b 0
  e = 0 || decide (65535 < e) || decide (e ≤ blockWord b 4) || blockWord b 12 ≠ 0
/-- One arrival (R267): the count and generation after it. -/
def arriveBar (exp cnt gen : Nat) : Nat × Nat := if cnt + 1 = exp then (0, (gen + 1) % 2 ^ 32) else (cnt + 1, gen)
/-- The arrival step of BARARV and BARSYNC (R267): the token, the generation after it, and what a wait on it watches. -/
def arriveLane (s t : State) (l : Lane) (hnd : Dword) (pt : Point) (b : BarAt)
    (k : State → Word → Bool → WaitOn → LaneRes) : LaneRes :=
  match b with
  | .hard i =>
    let b := (t.team l.tid).barriers.getD i { }
    let r := arriveBar b.exp b.cnt b.gen.toNat
    k (t.modTeam l.tid (·.setBarrier i { b with cnt := r.1, gen := BitVec.ofNat 32 r.2 })) b.gen (b.gen ≠ BitVec.ofNat 32 r.2)
      (.barrier i b.gen)
  | .mem va ia => atHome s t l va ia 16 pt (fun t =>
      let tm := s.team l.tid
      let sp := s.space tm.partKey ia
      let x := t.homeTake tm.coreKey sp ia 16
      if barObjBad x.1 then .trapAfter Cause.barBad (handleVal hnd) x.2
      else
        let gen := blockWord x.1 8
        let r := arriveBar (blockWord x.1 0) (blockWord x.1 4) gen
        k (x.2.putObject tm ia (x.1.take 4 ++ toBytes 4 r.1 ++ toBytes 4 r.2 ++ x.1.drop 12) (writerOf tm (s.fibre l) l va)) (BitVec.ofNat 32 gen)
          (gen ≠ r.2) (.memBarrier sp ia (BitVec.ofNat 32 gen)))
/-- BARARV in one lane (R267). -/
def bararvLane (h : Head) (m : SyncMod) (s t : State) (l : Lane) : LaneRes :=
  let hnd := s.readPair l .sa h.sa
  afterAcquire t l (afterDeferred (s.fibre l) true (
    match (s.team l.tid).point m.lv, s.barAt t l hnd with
    | .error c, _ => .trap c.1 c.2
    | .ok _, .error c => .trap c.1 c.2
    | .ok pt, .ok b => inTurn s t l hnd (fun t => withRelease t l true pt (fun t => arriveLane s t l hnd pt b (fun t tok _ _ =>
        .done ((t.resume l).writeReg l h.dst tok none))))))
/-- BARARV (R267). -/
def execBararv (h : Head) (m : SyncMod) (s : State) : Outcome State Fault Refusal :=
  .next (s.runLanes h (bararvLane h m s)).bump
/-- True for a wait on a barrier's generation. -/
def WaitOn.onBarrier : WaitOn → Bool
  | .barrier .. => true
  | .memBarrier .. => true
  | _ => false
/-- BARWT in one lane (R267). -/
def barwtLane (h : Head) (m : SyncMod) (s t : State) (l : Lane) : LaneRes :=
  let hnd := s.readPair l .sa h.sa
  let tok := s.readReg l .sb h.sb
  let tm := s.team l.tid
  if (s.fibre l).wait.any (fun w => w.on.onBarrier && w.met) then
    (match tm.point m.lv with | .ok pt => acquireThen t l tm.coreKey pt | .error c => .trap c.1 c.2)
  else afterAcquire t l (
    match tm.point m.lv, s.barAt t l hnd with
    | .error c, _ => .trap c.1 c.2
    | .ok _, .error c => .trap c.1 c.2
    | .ok pt, .ok (.hard i) => inTurn s t l hnd (fun t =>
      if ((t.team l.tid).barriers.getD i { }).gen ≠ tok then acquireThen t l tm.coreKey pt else t.suspend l (.barrier i tok) hnd)
    | .ok pt, .ok (.mem va ia) => inTurn s t l hnd (fun t => atHome s t l va ia 16 pt (fun t =>
        let sp := s.space tm.partKey ia
        let x := t.homeTake tm.coreKey sp ia 16
        let t := x.2.touchPage tm.partKey ia
        if barObjBad x.1 then .trapAfter Cause.barBad (handleVal hnd) t
        else if BitVec.ofNat 32 (blockWord x.1 8) ≠ tok then acquireThen t l tm.coreKey pt
        else t.suspend l (.memBarrier sp ia tok) hnd)))
/-- BARWT (R267): a fibre that its barrier has released stays released. -/
def execBarwt (h : Head) (m : SyncMod) (s : State) : Outcome State Fault Refusal :=
  .next (s.runLanes h (barwtLane h m s))
/-- BARSYNC in one lane (R267): the arrival, then the wait on its token. -/
def barsyncLane (h : Head) (m : SyncMod) (s t : State) (l : Lane) : LaneRes :=
  let hnd := s.readPair l .sa h.sa
  let f := s.fibre l
  let ck := (s.team l.tid).coreKey
  if f.wait.any (fun w => w.on.onBarrier) then
    (if f.wait.any (·.met) then
      (match (s.team l.tid).point m.lv with | .ok pt => acquireThen t l ck pt | .error c => .trap c.1 c.2)
    else .stay t)
  else afterAcquire t l (afterDeferred f true (
    match (s.team l.tid).point m.lv, s.barAt t l hnd with
    | .error c, _ => .trap c.1 c.2
    | .ok _, .error c => .trap c.1 c.2
    | .ok pt, .ok b => inTurn s t l hnd (fun t => withRelease t l true pt (fun t => arriveLane s t l hnd pt b (fun t _ passed on =>
        if passed && !t.loading l then acquireThen t l ck pt else t.suspend l on hnd)))))
/-- BARSYNC (R267). -/
def execBarsync (h : Head) (m : SyncMod) (s : State) : Outcome State Fault Refusal :=
  .next (s.runLanes h (barsyncLane h m s))
/-- BARFREE (R265): a hardware barrier goes back to the grant, a memory handle is only checked. -/
def execBarfree (h : Head) (_m : SyncMod) (s : State) : Outcome State Fault Refusal :=
  .next (s.runLanes h (fun t l =>
    let hnd := s.readPair l .sa h.sa
    let tm := t.team l.tid
    match s.barAt t l hnd with
    | .error c => .trap c.1 c.2
    | .ok (.hard i) => inTurn s t l hnd (fun t =>
      if (tm.barriers.getD i { }).cnt ≠ 0 || tm.fibres.any (fun f => f.wait.any (fun w =>
          match w.on with | .barrier j _ => j = i && !w.met | _ => false)) then .trap Cause.barBad (handleVal hnd)
      else .done ((t.modTeam l.tid (·.setBarrier i { })).modCore tm.coreKey (fun c =>
        { c with barTags := insertAt (64 * tm.slot + i) (nextTag (t.barTag tm i)) c.barTags })))
    | .ok (.mem va ia) => afterAcquire t l (inTurn s t l hnd (fun t => atHome s t l va ia 16 .package (fun t =>
        let x := t.homeTake tm.coreKey (s.space tm.partKey ia) ia 16
        let t := (x.2.touchPage tm.partKey ia).resume l
        if barObjBad x.1 then .trapAfter Cause.barBad (handleVal hnd) t else .done t)))))

/-- A future's state, count and head (R268). -/
def readFut (b : List Byte) : Nat × Nat × Nat :=
  let w := blockDword b 0
  (w / 2 ^ 62 % 4, bits w 61 48, w % 2 ^ 48)
/-- A malformed future (R268). -/
def futBad (b : List Byte) : Bool :=
  let r := readFut b
  (r.1 = 1 && r.2.1 = 0) || (r.1 = 0 && (r.2.1 ≠ 0 || r.2.2 ≠ 0))
/-- The bytes of a future (R268). -/
def futBytes (state count head : Nat) (value : Dword) : List Byte :=
  toBytes 8 (state * 2 ^ 62 + count * 2 ^ 48 + head) ++ toBytes 8 value.toNat
/-- A delivery begun (R270): a record and how many of its list may be delivered, for the fibre that made the resolution, if one did. -/
def State.beginDelivery (t : State) (part : Nat) (level : Level) (pkg : Nat) (va : Dword) (left : Nat) (by_ : Option (Nat × Nat) := none) : State :=
  if left = 0 || va = 0 then t
  else { t with
    seq := t.seq + 1
    deliveries := t.deliveries ++ [{ id := t.seq, part := part, level := level, pkg := pkg, va := va, left := left, by_ := by_ }] }
/-- The indivisible step of a resolution at a future's home (R270): the cause of a future that is malformed or already resolved, or
the bytes after it with the head and count of the list to deliver. -/
def resolveFut (b : List Byte) (fail : Bool) (value : Dword) : Except Cause.Code (List Byte × Nat × Nat) :=
  let r := readFut b
  if futBad b then .error Cause.futBad
  else if 2 ≤ r.1 then .error Cause.futDouble
  else .ok (futBytes (if fail then 3 else 2) r.2.1 r.2.2 value, r.2.1, r.2.2)
/-- FUTSET in one lane (R270): its release stands when it traps (R311). -/
def futsetLane (h : Head) (m : SyncMod) (fail : Bool) (s t : State) (l : Lane) : LaneRes :=
  let tm := s.team l.tid
  let f := s.fibre l
  let va := s.readPair l .sa h.sa
  afterAcquire t l (afterDeferred f true (
    match tm.point m.lv, s.objectChecks tm f [.read, .write] va 16 with
    | .error c, _ => .trap c.1 c.2
    | .ok _, .error c => .trap c.1 c.2
    | .ok pt, .ok ia => inTurn s t l va (fun t => withRelease t l true pt (fun t => atHome s t l va ia 16 pt (fun t =>
        let x := t.homeTake tm.coreKey (s.space tm.partKey ia) ia 16
        match resolveFut x.1 fail (s.readPair l .sb h.sb) with
        | .error c => .trapAfter c va x.2
        | .ok (bs, n, head) =>
          .done (((x.2.putObject tm ia bs (writerOf tm f l va)).resume l).beginDelivery tm.partKey f.level tm.pkg
            (BitVec.ofNat 64 (head * 256)) n (some (l.tid, l.fid))))))))
/-- FUTSET (R270). -/
def execFutset (h : Head) (m : SyncMod) (s : State) : Outcome State Fault Refusal :=
  .next (s.runLanes h (futsetLane h m false s))
/-- FUTSET.fail (R270). -/
def execFutsetFail (h : Head) (m : SyncMod) (s : State) : Outcome State Fault Refusal :=
  .next (s.runLanes h (futsetLane h m true s))
/-- The future read at its home for an instruction that only reads it (R270). -/
def futRead (h : Head) (m : SyncMod) (s t : State) (l : Lane) (k : State → Point → Nat → Nat → List Byte → LaneRes) : LaneRes :=
  let tm := s.team l.tid
  let va := s.readPair l .sa h.sa
  afterAcquire t l (
    match tm.point m.lv, s.objectChecks tm (s.fibre l) [.read] va 16 with
    | .error c, _ => .trap c.1 c.2
    | .ok _, .error c => .trap c.1 c.2
    | .ok pt, .ok ia => inTurn s t l va (fun t => atHome s t l va ia 16 pt (fun t =>
        let sp := s.space tm.partKey ia
        let x := t.homeTake tm.coreKey sp ia 16
        let t := x.2.touchPage tm.partKey ia
        if futBad x.1 then .trapAfter Cause.futBad va t else k t pt sp ia x.1)))
/-- FUTWAIT.park (R270): the wait, the acquire, the value and the predicate. -/
def execFutwaitPark (h : Head) (m : SyncMod) (s : State) : Outcome State Fault Refusal :=
  .next (s.runLanes h (fun t l => futRead h m s t l (fun t pt sp ia b =>
    let st := (readFut b).1
    if st < 2 then t.suspend l (.future sp ia) (s.readPair l .sa h.sa)
    else acquireThen ((t.writePair l h.dst (BitVec.ofNat 64 (blockDword b 8)) none).writePred l m.pred.toNat (st = 2) none) l
      (s.team l.tid).coreKey pt))).bump
/-- FUTTEST (R270). -/
def execFuttest (h : Head) (m : SyncMod) (s : State) : Outcome State Fault Refusal :=
  .next (s.runLanes h (fun t l => futRead h m s t l (fun t pt _ _ b =>
    let st := (readFut b).1
    let t := (t.writePred l h.dst.pred (decide (2 ≤ st)) none).writePred l m.pred.toNat (st = 3) none
    if 2 ≤ st then acquireThen t l (s.team l.tid).coreKey pt else .done (t.resume l)))).bump

/-- A continuation record that FUTWAIT.cont refuses (R270). -/
def recordBad (va : Dword) (b : List Byte) : Bool :=
  let w := blockDword b 0x38
  va.toNat % 256 ≠ 0 || bits w 63 43 ≠ 0 || w % 32 = 0 || decide (16 < w % 32) || decide (512 < bits w 14 5)
/-- A record with its location fields (R269). -/
def placeRecord (tm : Team) (b : List Byte) (next : Option Nat) : List Byte :=
  let w := insertBits (insertBits (insertBits (blockDword b 0x38) tm.core 19 9) tm.pkg 28 8) tm.part 36 7
  b.take 0x30 ++ (match next with | some a => toBytes 8 a | none => (b.drop 0x30).take 8) ++ toBytes 8 w
/-- FUTWAIT.cont in one lane (R270): the record's location fields, the release, then the registration as one step at the future's
home, NEXT of the record included; a late one is delivered at once. -/
def futwaitContLane (h : Head) (m : SyncMod) (s t : State) (l : Lane) : LaneRes :=
  let tm := s.team l.tid
  let f := s.fibre l
  let va := s.readPair l .sa h.sa
  let rv := s.readPair l .sb h.sb
  afterAcquire t l (afterDeferred f true (
    match tm.point m.lv, s.objectChecks tm f [.read, .write] va 16 with
    | .error c, _ => .trap c.1 c.2
    | .ok _, .error c => .trap c.1 c.2
    | .ok pt, .ok ia =>
      if addrHighBad rv then .trap Cause.addrHigh rv
      else if rv.toNat % 256 ≠ 0 then .trap Cause.futBad va
      else match s.kindChecks tm f [.read, .write] rv 64 with
        | .error c => .trap c.1 c.2
        | .ok ria => inTurn s t l va (fun t => withRelease t l true pt (fun t => atHome s t l rv ria 64 pt (fun t => atHome s t l va ia 16 pt (fun t =>
            let y := t.homeTake tm.coreKey (s.space tm.partKey ria) ria 64
            if recordBad rv y.1 then .trapAfter Cause.futBad va y.2
            else
              let x := y.2.homeTake tm.coreKey (s.space tm.partKey ia) ia 16
              let r := readFut x.1
              if futBad x.1 then .trapAfter Cause.futBad va x.2
              else
                let put := fun (next : Option Nat) => (x.2.putObject tm ria (placeRecord tm y.1 next) (writerOf tm f l rv)).resume l
                if 2 ≤ r.1 then .done (((put none).touchPage tm.partKey ia).beginDelivery tm.partKey f.level tm.pkg rv 1 (some (l.tid, l.fid)))
                else if r.2.1 = 16383 then .trapAfter Cause.futBad va (put none)
                else .done ((put (some (r.2.2 * 256))).putObject tm ia
                  (futBytes 1 (r.2.1 + 1) (bits rv.toNat 55 8) (BitVec.ofNat 64 (blockDword x.1 8))) (writerOf tm f l va))))))))
/-- FUTWAIT.cont (R270). -/
def execFutwaitCont (h : Head) (m : SyncMod) (s : State) : Outcome State Fault Refusal :=
  .next (s.runLanes h (futwaitContLane h m s))

/-- A record put into a spawn bin of a core (R60, R61), where one accepts it; a bin that holds 32 closes. -/
def Core.intoBin (c : Core) (now : Nat) (key : SpawnKey) (args : List Byte) : Option Core :=
  let add := fun (i : Nat) (b : Bin) => some { c with bins := c.bins.set i b }
  match (List.range 8).find? (fun i => let b := c.bins.getD i { }; !b.recs.isEmpty && !b.closed && b.key = key) with
  | some i =>
    let b := c.bins.getD i { }
    add i { b with recs := b.recs ++ [args], closed := decide (31 ≤ b.recs.length) }
  | none =>
    match (List.range 8).find? (fun i => (c.bins.getD i { }).recs.isEmpty) with
    | some i => add i { key := key, opened := now, limit := c.spawnlim.toNat, recs := [args] }
    | none => none
/-- The 2-bit number of a scope point (R54). -/
def pointOf (n : Nat) : Point := if n % 4 = 0 then .core else if n % 4 = 1 then .package else if n % 4 = 2 then .pod else .system
/-- FSPAWN (R273): its block is checked, and its key is the issuing launch's or, in a spawned team, the team's own. -/
def execFspawn (h : Head) (_m : SyncMod) (s : State) : Outcome State Fault Refusal :=
  .next (s.runLanes h (fun t l => withBlock s t l .sa h.sa 64 (fun t b =>
    let tm := s.team l.tid
    match (List.range 24).find? (fun i => b.getD (0x28 + i) 0 ≠ 0) with
    | some i => .trap Cause.spawnBad (BitVec.ofNat 64 (0x28 + i))
    | none =>
      let key : SpawnKey := ⟨BitVec.ofNat 64 (blockDword b 0), tm.spwin, tm.spleaves, tm.spscope, tm.prio, tm.partKey⟩
      match (t.coreAt tm.coreKey).intoBin t.now key ((b.drop 8).take 32) with
      | some c => .done ((t.modCore tm.coreKey (fun _ => c)).writeReg l h.dst 0 none)
      | none => .done (t.writeReg l h.dst 0xFFFFFFFF none)))).bump

/-- What an agent's access to an address meets under some ranges: its place, a page that is not there yet, or the cause of its failure
(R353, R360, R363). -/
def State.agentReach (s : State) (ranges : List Range) (part : Nat) (level : Level) : List Acc → Nat → Except Cause.Code (Option Nat)
  | [], _ => .ok none
  | k :: r, va =>
    match rangeIn ranges level k va with
    | .error c => .error c
    | .ok ia =>
      if !s.reaches (part / 96) (homePkg ia) then .error Cause.peerDown
      else if s.replayDue (s.space part ia) ia s.seq then .ok none
      else match s.pageCheck part level (some k) ia with
      | .place _ => if r.isEmpty then .ok (some ia) else s.agentReach ranges part level r va
      | .absent => .ok none
      | .held => .ok none
      | .fail c => .error c
/-- An agent's access under its partition's ranges as they stand. -/
def State.agentAccess (s : State) (part : Nat) (level : Level) (ks : List Acc) (va : Nat) : Except Cause.Code (Option Nat) :=
  s.agentReach (s.partAt part).ranges part level ks va
/-- An agent's request parked on a page (R363, R364), with its kind and its core in the ring's record. -/
def State.agentPark (s : State) (part : Nat) (level : Level) (k : Acc) (va : Nat) (kind : Nat := 2) (core : Nat := 0x1FF)
    (ranges : List Range := (s.partAt part).ranges) : State :=
  match rangeIn ranges level k va with
  | .error _ => s
  | .ok ia => s.parkAgent (s.space part ia) ia kind core (s.pageCheck part level (some k) ia = .absent)
/-- The core key under which an agent of a package takes its indivisible steps at a home. -/
def agentCore (pkg : Nat) : Nat := Config.coresPerPkg * pkg
/-- Bytes at their home as an agent reads them (R300). -/
def State.agentTake (s : State) (pkg part ia n : Nat) : List Byte × State :=
  let sp := s.space part ia
  let r := (if pkg = homePkg ia then s.endIngress pkg sp ia n else s).homeTake (agentCore pkg) sp ia n
  (r.1, { (r.2.touchPage part ia) with
    agentParks := s.agentParks.filter (fun x => !(x.1 = sp && x.2.1 = pageOf ia)) })
/-- Bytes written at their home by an agent's indivisible step. -/
def State.agentPut (s : State) (part ia : Nat) (bs : List Byte) (w : List Writer := []) : State :=
  (s.homePut none (s.space part ia) ia bs w).touchPage part ia
/-- EN of a partition (R378). -/
def Part.en (p : Part) : Bool := p.pctl.getLsbD 0
/-- The core that a record names, where it is one of its partition's in the pod (R270): a package of the pod ($FPKG), an enabled
partition, a core of its clusters. -/
def State.recordCore (s : State) (from_ w : Nat) : Option Nat :=
  let core := bits w 27 19
  let pkg := bits w 35 28
  let part := bits w 42 36
  let p := s.partAt (96 * pkg + part)
  let base := p.pclu.toNat % 128
  let lim := bits p.pclu.toNat 14 8
  if decide (pkg ≤ (s.pkgAt from_).podsz) && p.en && decide (core < Config.coresPerPkg) && decide (part < 96) && decide (base ≤ core / 4) && decide (core / 4 ≤ lim) then
    some (Config.coresPerPkg * pkg + core) else none
/-- FUT_BAD for a delivery that cannot proceed (R270). -/
def State.deliveryLost (s : State) (d : Delivery) (aux : Nat) : State :=
  s.supervisorEvent d.part { cause := Cause.futBad, aux := BitVec.ofNat 32 aux, value := d.va }
/-- SPSCOPE of a record (R269). -/
def recordScope (b : List Byte) : Point := pointOf (bits (blockDword b 0x38) 16 15)
/-- One record delivered (R270): the join counter counted, and, where it reaches 0, the record offered to a bin of its core. -/
def State.deliverRecord (s : State) (d : Delivery) (b : List Byte) : State :=
  let w := blockDword b 0x38
  let join := blockDword b 0x28
  let key : SpawnKey := ⟨BitVec.ofNat 64 (blockDword b 0), w % 32, bits w 14 5, recordScope b, bits w 18 17,
    96 * bits w 35 28 + bits w 42 36⟩
  let place := fun (t : State) =>
    match t.recordCore d.pkg w with
    | none => t.deliveryLost d 0
    | some c => { t with seq := t.seq + 1, deliveries := t.deliveries ++ [{ d with
        id := t.seq, left := 0, waiting := some (c, key, (b.drop 8).take 32) }] }
  if join = 0 then place s
  else if 2 ^ 56 ≤ join then s.deliveryLost d Cause.addrHigh.toNat
  else if join % 8 ≠ 0 then s.deliveryLost d Cause.misaligned.toNat
  else match s.agentAccess d.part d.level [.read, .write] join with
    | .error c => s.deliveryLost d c.toNat
    | .ok none => s
    | .ok (some ia) =>
      let x := s.agentTake d.pkg d.part ia 8
      let n := (ofBytes x.1 + 2 ^ 64 - 1) % 2 ^ 64
      let t := x.2.agentPut d.part ia (toBytes 8 n)
      if n = 0 then place t else t
/-- A delivery's join counter lies in a page that is not there yet: the delivery waits (R270, R363). -/
def State.joinAbsent (s : State) (d : Delivery) (join : Nat) : Bool :=
  decide (join ≠ 0) && decide (join < 2 ^ 56) && join % 8 = 0 &&
    (match s.agentAccess d.part d.level [.read, .write] join with | .ok none => true | _ => false)
/-- A delivery changed. -/
def State.modDelivery (s : State) (id : Nat) (g : Delivery → Delivery) : State :=
  { s with deliveries := s.deliveries.map (fun (d : Delivery) => if d.id = id then g d else d) }
/-- A release begun for a fibre, also for one that has ended (R260, R293). -/
def State.beginReleaseOf (s : State) (tid fid : Nat) (pt : Point) : Nat × State :=
  match s.fibre? ⟨tid, fid⟩ with
  | some _ => s.beginRelease ⟨tid, fid⟩ pt
  | none =>
    let r : Release := ⟨s.seq, pt⟩
    (s.seq, { s with
      seq := s.seq + 1
      tails := if s.tails.any (fun x => x.tid = tid && x.fid = fid)
        then s.tails.map (fun (x : Tail) => if x.tid = tid && x.fid = fid then { x with rels := x.rels ++ [r] } else x)
        else s.tails ++ [⟨tid, fid, [r], []⟩] })
/-- The decrement of JOIN is an atomic with release at SPSCOPE (R270): true while that release of the resolving fibre is not complete. -/
def State.deliveryHeld (s : State) (d : Delivery) : Bool :=
  match d.by_, d.rel with
  | some (tid, fid), some r => (s.relsOf tid fid).any (fun x => decide (x.seq ≤ r))
  | _, _ => false
/-- A record that has been read, delivered (R270): with a join counter, its release is begun, and once that is complete the counter is
counted; then the walk goes on to the NEXT that was read. -/
def State.deliverRead (s : State) (d : Delivery) (b : List Byte) : State :=
  let join := blockDword b 0x28
  match join ≠ 0 && d.rel.isNone, d.by_ with
  | true, some (tid, fid) =>
    let r := s.beginReleaseOf tid fid (recordScope b)
    r.2.modDelivery d.id (fun d => { d with rel := some r.1 })
  | _, _ =>
    if s.deliveryHeld d then s
    else if s.joinAbsent d join then s.agentPark d.part d.level .write join
    else
      let gone := { s with deliveries := s.deliveries.filter (fun x => x.id ≠ d.id) }
      (gone.beginDelivery d.part d.level d.pkg (BitVec.ofNat 64 (blockDword b 0x30)) (d.left - 1) d.by_).deliverRecord d b
/-- CONTINUATION_DELIVER (R270): the record is read, then delivered as it was read; a record whose bin was not available enters the first
that is. -/
def execContinuationDeliver (id : Nat) (s : State) : Outcome State Fault Refusal :=
  .next (match s.deliveries.find? (fun d => d.id = id) with
    | none => s
    | some d =>
      let gone := { s with deliveries := s.deliveries.filter (fun x => x.id ≠ id) }
      match d.waiting, d.rec_ with
      | some (c, key, args), _ =>
        (match (s.coreAt c).intoBin s.now key args with
        | some k => gone.modCore c (fun _ => k)
        | none => s)
      | none, some b => s.deliverRead d b
      | none, none =>
        match s.agentAccess d.part d.level [.read] d.va.toNat with
        | .error c => gone.deliveryLost d c.toNat
        | .ok none => s.agentPark d.part d.level .read d.va.toNat
        | .ok (some ia) =>
          let x := s.agentTake d.pkg d.part ia 64
          (x.2.modDelivery id (fun d => { d with rec_ := some x.1 })).deliverRead { d with rec_ := some x.1 } x.1)

end Sys2Proof.Machine
end

