-- ==== Sys2Proof/Machine/Phaser.lean ====
section
/-! DEFINITION. Phasers (R276 to R284): slots of the stitch nodes and memory objects, registrations, arrivals, and the messages of
the stitch network (R411 to R416, R321 to R323). -/

namespace Sys2Proof.Machine

open Host (Outcome)

/-- Phase ph has reached target t (R276). -/
def phaseReached (ph t : Word) : Bool := decide ((ph - t).toNat < 2 ^ 31)
/-- A memory phaser's fields (R277). -/
def readPh (b : List Byte) : Ph :=
  { phase := BitVec.ofNat 32 (blockWord b 0), any := bitAt (blockWord b 4) 0, parties := blockWord b 8, arrived := blockWord b 12
    arrnext := blockWord b 0x10, joinnext := blockWord b 0x14, dropnext := blockWord b 0x18, waiters := blockWord b 0x1C
    payload := BitVec.ofNat 32 (blockWord b 0x20), apkg := blockWord b 0x24 % 256 }
/-- The bytes of a memory phaser (R277). -/
def phBytes (p : Ph) : List Byte :=
  [p.phase.toNat, if p.any then 1 else 0, p.parties, p.arrived, p.arrnext, p.joinnext, p.dropnext, p.waiters, p.payload.toNat,
    p.apkg].flatMap (toBytes 4) ++ toBytes 24 0
/-- A memory phaser that operations refuse (R277). -/
def phObjBad (b : List Byte) : Bool :=
  let p := readPh b
  decide (2 ≤ blockWord b 4) || decide (256 ≤ blockWord b 0x24) || (b.drop 0x28).any (· ≠ 0) || (p.parties ≠ 0 && decide (p.parties ≤ p.arrived))
/-- The next phase opens (R280). -/
def Ph.open_ (p : Ph) (payload : Word) (apkg : Nat) : Ph :=
  { p with
    phase := p.phase + 1, parties := p.parties + p.joinnext - p.dropnext, arrived := p.arrnext, arrnext := 0, joinnext := 0
    dropnext := 0, payload := payload, apkg := apkg }
/-- Phases of a counting phaser complete while every party has arrived (R280): the phaser, and how many completed. -/
def Ph.settle : Nat → Ph → Ph × Nat
  | 0, p => (p, 0)
  | n + 1, p =>
    if !p.any && p.parties ≠ 0 && p.arrived = p.parties then let r := Ph.settle n (p.open_ 0 0); (r.1, r.2 + 1) else (p, 0)

/-- The parties of a count that join at a phase. -/
def PhCount.joining (c : PhCount) (ph : Word) : Nat := ((c.joins.filter (fun j => j.1 = ph)).map (·.2)).sum
/-- A count as the next phase opens, `ph` being its number (R280). -/
def PhCount.open_ (c : PhCount) (any : Bool) (ph : Word) : PhCount :=
  { c with
    owed := if any then c.owed + (c.cur - c.here) else 0, here := c.next, next := 0, cur := c.cur - c.drop + c.joining ph
    drop := 0, joins := c.joins.filter (fun j => j.1 ≠ ph) }
/-- A count without parties or waiter. -/
def PhCount.empty (c : PhCount) : Bool := c.cur = 0 && c.joins.isEmpty && !c.wt && c.drop = 0
/-- Counts as n further phases open after a phase; those left without parties or waiter go. -/
def openCounts (any : Bool) (ph : Word) (cs : List PhCount) : Nat → List PhCount
  | 0 => cs
  | n + 1 => openCounts any (ph + 1) ((cs.map (·.open_ any (ph + 1))).filter (fun c => !c.empty)) n
/-- Where an arrival counts (R280). -/
inductive ArrPlace where
  | current | next | wait | lost
  deriving DecidableEq, Repr
/-- The place of a team's next arrival (R280): toward the lowest phase in which it has fewer arrivals than parties. -/
def PhCount.place (c : PhCount) (any : Bool) (ph : Word) : ArrPlace :=
  if any && decide (0 < c.owed) then .lost
  else if c.here < c.cur then .current
  else if !any && decide (c.next < c.cur - c.drop + c.joining (ph + 1)) then .next
  else .wait
/-- The count with one more arrival at a place. -/
def PhCount.arrive (c : PhCount) : ArrPlace → PhCount
  | .current => { c with here := c.here + 1 }
  | .next => { c with next := c.next + 1 }
  | .lost => { c with owed := c.owed - 1 }
  | .wait => c
/-- The count of a team, or of the engine pool. -/
def countOf (cs : List PhCount) (team : Option Nat) : PhCount := (cs.find? (fun c => c.team = team)).getD { team := team }
/-- A count set; one without parties or waiter goes. -/
def setCount (cs : List PhCount) (c : PhCount) : List PhCount :=
  let rest := cs.filter (fun d => d.team ≠ c.team)
  if c.empty then rest else rest ++ [c]
/-- Parties taken from joins that have not begun to count, in order. -/
def takeJoins : List (Word × Nat) → Nat → List (Word × Nat) × List (Word × Nat)
  | [], _ => ([], [])
  | (p, k) :: r, n =>
    let a := min k n
    let x := takeJoins r (n - a)
    ((if a = 0 then x.1 else (p, a) :: x.1), (if k = a then x.2 else (p, k - a) :: x.2))
/-- n parties dropped from a count (R279), in its order: unarrived ones leave at once, joining ones before they count, arrived ones
at the next phase. Each part: the phase from which they leave, whether they had not begun to count, how many. -/
def PhCount.split (c : PhCount) (ph : Word) (n : Nat) : List (Word × Bool × Nat) × PhCount :=
  let a := min n (c.cur - c.here)
  let x := takeJoins c.joins (n - a)
  let b := (x.1.map (·.2)).sum
  let d := min (n - a - b) (c.here - c.drop)
  ((if a = 0 then [] else [(ph, false, a)]) ++ x.1.map (fun j => (j.1, true, j.2)) ++ (if d = 0 then [] else [(ph + 1, false, d)]),
    { c with cur := c.cur - a, joins := x.2, drop := c.drop + d })
/-- A part of a drop applied to the totals (R279): at once, or from the next phase on. -/
def Ph.dropPart (p : Ph) (x : Word × Bool × Nat) : Ph :=
  if x.1 = p.phase + 1 then
    (if x.2.1 then { p with joinnext := p.joinnext - x.2.2 } else { p with dropnext := p.dropnext + x.2.2 })
  else { p with parties := p.parties - x.2.2 }

/-- The fields of a phaser handle (R261). -/
def phLevel (h : Dword) : Nat := bits h.toNat 29 28
/-- PKG. -/
def phPkg (h : Dword) : Nat := bits h.toNat 27 20
/-- DIE. -/
def phDie (h : Dword) : Nat := bits h.toNat 19 16
/-- The stitch node that holds the home slot: a die node, or the package node 8. -/
def phNode (h : Dword) : Nat := if phLevel h = 0 then phDie h else 8
/-- A slot of a package by its handle. -/
def Pkg.slotOf (p : Pkg) (h : Dword) : Option PhSlot := p.slots.find? (fun x => x.live && x.handle = h)
/-- The home slot that a handle names, where it is live and its TAG matches (R261). -/
def State.homeSlot (s : State) (h : Dword) : Option PhSlot := (s.pkgAt (phPkg h)).slotOf h
/-- A slot of a package changed by its handle. -/
def State.modSlot (s : State) (pkg : Nat) (h : Dword) (g : PhSlot → PhSlot) : State :=
  s.modPkg pkg (fun p => { p with slots := p.slots.map (fun x => if x.live && x.handle = h then g x else x) })
/-- The die of a core. -/
def dieOf (core : Nat) : Nat := core % Config.coresPerPkg / Config.coresPerDie
/-- A handle that a phaser instruction of a team may use (R261, R276). -/
def State.phOk (s : State) (tm : Team) (h : Dword) : Bool :=
  bits h.toNat 63 56 = 128 && bits h.toNat 31 30 = 1 && bits h.toNat 15 9 = 0 && decide (phLevel h ≤ 2) &&
    (phLevel h = 2 || phPkg h = tm.pkg) && (phLevel h ≠ 0 || phDie h = dieOf tm.core) && (s.homeSlot h).isSome
/-- The slot where a package's teams are counted (R281), or else the home slot. -/
def State.countSlot (s : State) (pkg : Nat) (h : Dword) : Option PhSlot :=
  match (s.pkgAt pkg).slotOf h with
  | some x => some x
  | none => s.homeSlot h
/-- A free slot of a stitch node (R276): any of them, as the free choice says (log 2). -/
def State.freeSlot (s : State) (pkg node : Nat) : Option (Nat × Nat) :=
  let p := s.pkgAt pkg
  let free := (List.range (if node = 8 then 512 else 256)).filter (fun i => !p.slots.any (fun x => x.live && x.node = node && x.idx = i))
  match free with
  | [] => none
  | _ :: _ =>
    let i := free.getD (Config.freeNat s.freeCtr node % free.length) 0
    some (i, ((p.slots.find? (fun x => x.node = node && x.idx = i)).map (·.tag)).getD 1)
/-- A slot taken: live, with its handle and phaser. -/
def State.takeSlot (s : State) (pkg : Nat) (x : PhSlot) : State :=
  { (s.modPkg pkg (fun p => { p with slots := x :: p.slots.filter (fun y => !(y.node = x.node && y.idx = x.idx)) })) with
    freeCtr := s.freeCtr + 1 }
/-- A slot freed when its parties and waiters have reached zero: its TAG advances (R261, R276). -/
def PhSlot.freed (x : PhSlot) (home : Bool) : PhSlot :=
  if x.counts.isEmpty && (!home || (x.ph.parties = 0 && x.ph.joinnext = 0 && x.ph.waiters = 0)) then
    { node := x.node, idx := x.idx, tag := nextTag x.tag }
  else x
/-- A phaser's slot at a package looked at for freeing (R276): a registration on its way to it keeps it. -/
def State.freeIdle (s : State) (pkg : Nat) (h : Dword) : State :=
  let home := pkg = phPkg h
  if s.stitch.any (fun m => m.kind = .join && m.handle = h && (home || m.spkg = pkg)) then s
  else s.modSlot pkg h (·.freed home)

/-- A stitch message changed. -/
def State.modStitch (s : State) (id : Nat) (g : Stitch → Stitch) : State :=
  { s with stitch := s.stitch.map (fun m => if m.id = id then g m else m) }
/-- An arrival waits for its phase (R280, R323): those of one place stand in the order in which they reached it. -/
def State.parkStitch (s : State) (id : Nat) : State :=
  { s with stitch := s.stitch.filter (fun m => m.id ≠ id) ++ (s.stitch.filter (fun m => m.id = id)).map (fun (m : Stitch) => { m with parked := true, woken := false }) }
/-- A stitch message gone. -/
def State.dropStitch (s : State) (id : Nat) : State := { s with stitch := s.stitch.filter (fun m => m.id ≠ id) }
/-- A stitch message put on its way. -/
def State.addStitch (s : State) (m : Stitch) : State := { s with seq := s.seq + 1, stitch := s.stitch ++ [{ m with id := s.seq }] }
/-- The nodes from a die of a package, or with none from its package node, to a phaser's home slot (R322, R411). -/
def pathTo (h : Dword) (pkg : Nat) (die : Option Nat) : List Node :=
  let up := (match die with | some d => [Node.die pkg d] | none => [])
  if phLevel h = 0 then [.die (phPkg h) (phDie h)]
  else if phLevel h = 1 || phPkg h = pkg then up ++ [.pkg (phPkg h)]
  else up ++ [.pkg pkg] ++
    (if pkg / 16 = phPkg h / 16 then [.switch (pkg / 16)] else [.switch (pkg / 16), .root, .switch (phPkg h / 16)]) ++ [.pkg (phPkg h)]
/-- The result of an arrival written (R281, R282): the phase, or the predicate. -/
def State.landArrival (s : State) (m : Stitch) (ph : Word) (won : Bool) : State :=
  match m.team, m.dst with
  | some tid, some d =>
    (if m.any then s.land ⟨tid, m.fid⟩ (.pred d.pred) (if won then 1 else 0) m.order
      else s.landWords ⟨tid, m.fid⟩ d [ph] m.order).modStitch m.id (fun m => { m with dst := none })
  | _, _ => s
/-- A fibre that waits on a hardware phaser. -/
def Fibre.awaits (f : Fibre) (h : Dword) : Bool :=
  f.wait.any (fun w => !w.met && (match w.on with | .phaser g _ => g = h | _ => false))
/-- The dies of a package with teams registered as waiters on a phaser (R415), or with fibres that wait on it still, their registration
dropped (R279). -/
def State.waiterDies (s : State) (pkg : Nat) (h : Dword) : List Nat :=
  dedup ((s.teams.filter (fun t => t.pkg = pkg &&
    (t.phasers.any (fun r => r.handle = h && r.wt) || t.fibres.any (·.awaits h)))).map (fun t => dieOf t.core))
/-- The announcement of a phase to the dies of a package (R415). -/
def State.toDies (s : State) (pkg : Nat) (h : Dword) (p : Ph) : State :=
  (s.waiterDies pkg h).foldl (fun t d => t.addStitch
    { id := 0, kind := .broadcast p.phase p.payload p.apkg none, handle := h, path := [.die pkg d] }) s
/-- The arrivals that wait in a node for a phase are taken up again (R323). -/
def State.wakeArrivals (s : State) (h : Dword) (object : Option (Nat × Nat)) (node : Option Node) : State :=
  { s with stitch := s.stitch.map (fun m => if m.parked && m.handle = h && m.object = object && (node.isNone || m.path.head? = node)
      then { m with parked := false, woken := true } else m) }
/-- The node of a home slot. -/
def homeNode (h : Dword) : Node := if phLevel h = 0 then .die (phPkg h) (phDie h) else .pkg (phPkg h)
/-- A phase of a hardware phaser has completed at its home (R280, R415): the phaser stands at `p`, its counts are opened, the winner's
predicate is written where the home is its package, waiting arrivals are taken up, and the phase is announced. -/
def State.completed (s : State) (h : Dword) (p : Ph) (n : Nat) (winner : Option Stitch) : State :=
  if n = 0 then s.modSlot (phPkg h) h (fun x => { x with ph := p })
  else
    let hp := phPkg h
    let s := s.modSlot hp h (fun x => { x with ph := p, counts := openCounts p.any x.ph.phase x.counts n })
    let s := match winner with
      | some m => if m.spkg = hp || phLevel h ≠ 2 then (s.landArrival m p.phase true).dropStitch m.id else s.modStitch m.id (fun m => { m with path := [] })
      | none => s
    let s := s.wakeArrivals h none (some (homeNode h))
    let s := s.toDies hp h p
    ((s.pkgs.filter (fun kp => kp.1 ≠ hp && (kp.2.slotOf h).isSome)).map (·.1)).foldl (fun t q => t.addStitch
      { id := 0, kind := .broadcast p.phase p.payload p.apkg (match winner with | some m => if m.spkg = q then some m.id else none | none => none)
        handle := h, path := [.pkg q] }) s
/-- An arrival whose phase is fixed, at the home slot (R280). -/
def State.applyArrival (s : State) (m : Stitch) (ph : Word) : State :=
  match s.homeSlot m.handle with
  | none => (s.landArrival m ph false).dropStitch m.id
  | some x =>
    let p := x.ph
    if p.any then
      (if ph = p.phase then s.completed m.handle (p.open_ m.payload m.spkg) 1 (some m)
      else (s.landArrival m ph false).dropStitch m.id)
    else
      let p := if ph = p.phase then { p with arrived := p.arrived + 1 } else { p with arrnext := p.arrnext + 1 }
      let r := p.settle 3
      (s.dropStitch m.id).completed m.handle r.1 r.2 none
/-- An arrival at a node that holds a slot of its phaser (R280, R281, R322): its phase is fixed where the team's count is held, it
waits there, is lost there, goes on, or is applied at the home slot. -/
def State.arriveSlot (s : State) (m : Stitch) (pkg : Nat) (x : PhSlot) : State :=
  let home := pkg = phPkg m.handle
  let goOn := fun (s : State) (m : Stitch) (ph : Word) =>
    if home then s.applyArrival m ph
    else if m.any && x.passed = some ph then (s.landArrival m ph false).dropStitch m.id
    else (s.modSlot pkg m.handle (fun x => { x with passed := if m.any then some ph else x.passed })).modStitch m.id (fun m =>
      { m with phase := some ph, counted := true, woken := false, port := 10, path := m.path.drop 1 })
  match m.phase with
  | some ph => goOn s m ph
  | none =>
    let c := countOf x.counts m.team
    let pl := c.place x.ph.any x.ph.phase
    if pl = .wait then s.parkStitch m.id
    else
      let s := s.modSlot pkg m.handle (fun x => { x with counts := setCount x.counts (c.arrive pl) })
      if pl = .lost then (s.landArrival m 0 false).dropStitch m.id
      else
        let ph := if pl = .next then x.ph.phase + 1 else x.ph.phase
        goOn (if m.any then s else s.landArrival m ph false) { m with dst := if m.any then m.dst else none } ph

/-- The number by which a switch node keeps its filter: 16 for the root. -/
def Node.filterNum : Node → Nat
  | .switch n => n
  | _ => 16
/-- An any-of arrival at a switch node (R414, R322): lost where the filter has let an arrival for its phase of this phaser through, else it goes
on. An entry of an earlier phaser that had the same HPKG and SLOT is taken over. -/
def State.filterArrival (s : State) (m : Stitch) (n : Node) (ph : Word) : State :=
  let key := fun (h : Nat) => bits h 27 20 * 512 + h % 512
  let mine := fun (e : Nat × Nat × Word) => e.1 = n.filterNum && key e.2.1 = key m.handle.toNat
  match s.filters.find? mine with
  | some e =>
    if e.2.1 = m.handle.toNat && e.2.2 = ph then (s.landArrival m ph false).dropStitch m.id
    else { (s.modStitch m.id (fun m => { m with path := m.path.drop 1 })) with
      filters := s.filters.map (fun e => if mine e then (e.1, m.handle.toNat, ph) else e) }
  | none =>
    let here := s.filters.filter (fun e => e.1 = n.filterNum)
    let rest := if here.length < 4096 then s.filters
      else match here.getLast? with | some o => s.filters.filter (· ≠ o) | none => s.filters
    { (s.modStitch m.id (fun m => { m with path := m.path.drop 1 })) with filters := (n.filterNum, m.handle.toNat, ph) :: rest }
/-- True when a node of the stitch network works (R412). -/
def State.nodeUp (s : State) : Node → Bool
  | .die p d => !(s.pkgAt p).deadNodes.contains d
  | .pkg p => !(s.pkgAt p).deadNodes.contains 8
  | _ => true
/-- True when a package has a stitch link up (R412). -/
def State.linkUp (s : State) (pkg : Nat) : Bool := (s.pkgAt pkg).slaUp || (s.pkgAt pkg).slbUp
/-- True when a message can take its next hop (R412): to or from a switch node over a stitch link that is up. -/
def State.hopUp (s : State) (m : Stitch) : Bool :=
  match m.path with
  | [] => false
  | n :: _ => s.nodeUp n && (match n with
      | .switch _ => if m.port = 10 then s.linkUp m.spkg else true
      | .pkg p => if p ≠ m.spkg && m.kind = .arrival then s.linkUp p else true
      | _ => true)
/-- The place of an arrival among those taken up again in one hardware node (R282, R323): the port by which it entered the node and, of
those that one die node sent up, their ports there. -/
def Stitch.place (m : Stitch) : Nat := 64 * m.port + (if m.team.isSome then m.core % Config.coresPerDie else 48)
/-- True when another arrival taken up again in the same place goes first: in a node by its ports, then by the order of arrival; at a memory
phaser's home by the order in which they reached it (R280). -/
def State.wokenBefore (s : State) (m : Stitch) : Bool :=
  let same := s.stitch.filter (fun x => x.woken && x.handle = m.handle && x.object = m.object && x.path.head? = m.path.head?)
  let first := same.foldl (fun (acc : Option Stitch) x => match acc with
    | some y => if m.object.isNone && decide (x.place < y.place) then some x else acc
    | none => some x) none
  match first with
  | some x => x.id ≠ m.id
  | none => false
/-- True for a message that an instruction of a team, or its end, has sent; an engine's arrival is not. -/
def Stitch.ofTeam (m : Stitch) : Bool := m.team.isSome || m.kind = .join || m.kind = .drop
/-- True while an operation has had no effect yet (R260): an arrival until it is counted or waits for its phase. -/
def Stitch.undone (m : Stitch) : Bool := m.kind ≠ .arrival || !(m.counted || m.parked)
/-- An earlier operation of the same team on the same phaser has had no effect yet (R260). -/
def State.stitchBefore (s : State) (m : Stitch) : Bool :=
  m.ofTeam && s.stitch.any (fun x => x.ofTeam && x.issuer = m.issuer && x.handle = m.handle && x.object = m.object && x.undone && decide (x.id < m.id))
/-- What holds a message back (R260, R281, R293, R416): its release and every earlier one of its fibre, its .bound hold, earlier operations
of its team. -/
def State.stitchHeld (s : State) (m : Stitch) : Bool :=
  m.bound || (match m.rel with | some r => (s.relsOf m.issuer m.fid).any (fun x => decide (x.seq ≤ r)) | none => false) ||
    (!m.counted && s.stitchBefore m)
/-- What a memory phaser's home keeps (R280). -/
def State.memPh (s : State) (sp ia : Nat) : List PhCount :=
  ((s.memPhs.find? (fun x => x.sp = sp && x.ia = ia)).map (·.counts)).getD []
/-- The counts of a memory phaser set. -/
def State.setMemPh (s : State) (sp ia : Nat) (cs : List PhCount) : State :=
  let rest := s.memPhs.filter (fun x => !(x.sp = sp && x.ia = ia))
  { s with memPhs := if cs.isEmpty then rest else rest ++ [{ sp := sp, ia := ia, counts := cs }] }
/-- A memory phaser's new totals put at its home, its counts opened, waiting arrivals taken up (R277, R280). -/
def State.putPh (s : State) (part : Nat) (h : Dword) (sp ia : Nat) (before p : Ph) (n : Nat) : State :=
  let s := s.agentPut part ia (phBytes p)
  if n = 0 then s
  else (s.setMemPh sp ia (openCounts p.any before.phase (s.memPh sp ia) n)).wakeArrivals h (some (sp, ia)) none
/-- An arrival that cannot be made: a team's reports what it meets; the packet that sent an engine's has failed (R433). -/
def State.failArrival (s : State) (m : Stitch) (cause : BitVec 7) : State :=
  if m.team.isSome then (s.sendEvent m.part { cause := cause, value := m.handle }).dropStitch m.id
  else { s with packets := s.packets.map (fun (x : Packet) => if x.arrival = some m.id then { x with opFailed := some cause } else x) }.dropStitch m.id
/-- An arrival whose phaser is gone: lost, or, of an engine, failed (R433). -/
def State.missArrival (s : State) (m : Stitch) : State :=
  if m.team.isSome then (s.landArrival m 0 false).dropStitch m.id else s.failArrival m Cause.phBad
/-- An arrival at a memory phaser's object (R277, R280, R282). -/
def State.arriveObject (s : State) (m : Stitch) (sp ia : Nat) : State :=
  match s.agentAccess m.part m.level [.read, .write] m.handle.toNat with
  | .ok none => s.agentPark m.part m.level .write m.handle.toNat
  | .error c => s.failArrival m c
  | .ok (some _) =>
    let x := s.agentTake m.spkg m.part ia 64
    let s := x.2
    if phObjBad x.1 then s.missArrival m
    else
      let p := readPh x.1
      let cs := s.memPh sp ia
      let c := countOf cs m.team
      match c.place p.any p.phase with
      | .wait => s.parkStitch m.id
      | .lost => ((s.setMemPh sp ia (setCount cs (c.arrive .lost))).landArrival m 0 false).dropStitch m.id
      | pl =>
        let s := s.setMemPh sp ia (setCount cs (c.arrive pl))
        if p.any then
          ((s.putPh m.part m.handle sp ia p (p.open_ m.payload m.spkg) 1).landArrival m p.phase true).dropStitch m.id
        else
          let q := if pl = .current then { p with arrived := p.arrived + 1 } else { p with arrnext := p.arrnext + 1 }
          let r := q.settle 3
          ((s.putPh m.part m.handle sp ia p r.1 r.2).landArrival m (if pl = .current then p.phase else p.phase + 1) false).dropStitch m.id
/-- A message moves one hop, and enters the next node by a child port (R282): the die from a die node; 10 marks the stitch link. -/
def Stitch.hop (m : Stitch) : Stitch :=
  { m with path := m.path.drop 1, port := match m.path with | .die _ d :: _ => d | .pkg _ :: _ => 10 | _ => 0 }
/-- STITCH_ARRIVAL (R414, R322, R280): an arrival reaches its next node, or its memory phaser. A die node of a wider phaser holds no slot of
it, so the arrival's phase is not fixed yet there; an engine's is fixed at the home slot, where the pool's count is. -/
def execStitchArrival (id : Nat) (s : State) : Outcome State Fault Refusal :=
  .next (match s.stitch.find? (fun m => m.id = id && m.kind = .arrival) with
    | none => s
    | some m =>
      if m.parked || s.stitchHeld m || s.wokenBefore m then s
      else match m.object with
        | some (sp, ia) => s.arriveObject m sp ia
        | none =>
          if !s.hopUp m then s
          else match m.path with
            | [] => s
            | .die p _ :: _ =>
              if phLevel m.handle = 0 then
                (match s.homeSlot m.handle with
                | some x => s.arriveSlot m p x
                | none => s.missArrival m)
              else s.modStitch id (·.hop)
            | .pkg p :: _ =>
              if m.team.isNone && p ≠ phPkg m.handle then s.modStitch id (·.hop)
              else (match (s.pkgAt p).slotOf m.handle with
              | some x => s.arriveSlot m p x
              | none => s.missArrival m)
            | n :: _ => match m.any, m.phase with
              | true, some ph => s.filterArrival m n ph
              | _, _ => s.modStitch id (·.hop))
/-- True for a message that has reached its last node. -/
def Stitch.atEnd (m : Stitch) : Bool := decide (m.path.length ≤ 1)
/-- STITCH_JOIN (R413, R321): parties join at the home slot from the phase after the current one, and the registration stands in every
slot it occupies; then D is written. -/
def execStitchJoin (id : Nat) (s : State) : Outcome State Fault Refusal :=
  .next (match s.stitch.find? (fun m => m.id = id && m.kind = .join) with
    | none => s
    | some m =>
      if s.stitchHeld m || !s.hopUp m then s
      else if !m.atEnd then s.modStitch id (·.hop)
      else match s.homeSlot m.handle with
        | none => s.dropStitch id
        | some x =>
          let from_ := x.ph.phase + 1
          let add := fun (c : PhCount) => { c with joins := if m.parties = 0 then c.joins else c.joins ++ [(from_, m.parties)], wt := c.wt || m.wt }
          let s := s.modSlot (phPkg m.handle) m.handle (fun x => { x with ph := { x.ph with
            joinnext := x.ph.joinnext + m.parties, waiters := x.ph.waiters + (if m.wt then 1 else 0) } })
          let at_ := if m.team.isNone then phPkg m.handle else m.spkg
          let s := s.modSlot at_ m.handle (fun y =>
            let y := if y.counts.isEmpty && at_ ≠ phPkg m.handle then { y with ph := x.ph } else y
            { y with counts := setCount y.counts (add (countOf y.counts m.team)) })
          let s := match m.dst with
            | some d => s.landWords ⟨m.issuer, m.fid⟩ d [m.handle.lo, m.handle.hi] m.order
            | none => s
          ((s.dropStitch id).freeIdle at_ m.handle).freeIdle (phPkg m.handle) m.handle)
/-- A drop at the place that holds the count: the parts are fixed there (R279). -/
def PhSlot.dropFrom (x : PhSlot) (m : Stitch) : List (Word × Bool × Nat) × PhSlot :=
  let c := countOf x.counts m.team
  let r := c.split x.ph.phase m.parties
  (r.1, { x with counts := setCount x.counts { r.2 with wt := r.2.wt && !m.wt } })
/-- A team's registration on a memory phaser dropped at its end (R279), at the object's home. -/
def State.dropObject (s : State) (m : Stitch) (sp ia : Nat) : State :=
  match s.agentAccess m.part m.level [.read, .write] m.handle.toNat with
  | .ok none => s.agentPark m.part m.level .write m.handle.toNat
  | .error c => (s.sendEvent m.part { cause := c, value := m.handle }).dropStitch m.id
  | .ok (some _) =>
    let x := s.agentTake m.spkg m.part ia 64
    let s := x.2.dropStitch m.id
    if phObjBad x.1 then s
    else
      let p := readPh x.1
      let cs := s.memPh sp ia
      let y := (countOf cs m.team).split p.phase m.parties
      let q := y.1.foldl Ph.dropPart p
      let z := { q with waiters := q.waiters - (if m.wt then 1 else 0) }.settle 3
      (s.setMemPh sp ia (setCount cs { y.2 with wt := y.2.wt && !m.wt })).putPh m.part m.handle sp ia p z.1 z.2
/-- STITCH_DROP (R413, R279): the parties leave at the place of the team's count, then at the home slot, which may complete a phase;
a slot without parties and waiters is freed (R276). -/
def execStitchDrop (id : Nat) (s : State) : Outcome State Fault Refusal :=
  .next (match s.stitch.find? (fun m => m.id = id && m.kind = .drop) with
    | none => s
    | some m =>
      if s.stitchHeld m then s
      else match m.object with
      | some (sp, ia) => s.dropObject m sp ia
      | none =>
      if !s.hopUp m then s
      else
        let counts := match m.path.head? with
          | some (.die _ _) => phLevel m.handle = 0
          | some (.pkg p) => (m.team.isNone && m.atEnd) || (m.team.isSome && p = m.spkg)
          | _ => false
        let at_ := if m.atEnd then phPkg m.handle else m.spkg
        let r := if counts && !m.counted then
            match (s.pkgAt at_).slotOf m.handle with
            | some x =>
              let y := x.dropFrom m
              let t := s.modSlot at_ m.handle (fun _ => y.2)
              (if m.atEnd then t else t.freeIdle at_ m.handle, { m with parts := y.1, counted := true })
            | none => (s, m)
          else (s, m)
        if !m.atEnd then r.1.modStitch id (fun _ => r.2.hop)
        else match r.1.homeSlot m.handle with
          | none => r.1.dropStitch id
          | some x =>
            let p := r.2.parts.foldl Ph.dropPart x.ph
            let p := { p with waiters := p.waiters - (if m.wt then 1 else 0) }
            let q := p.settle 3
            ((r.1.dropStitch id).completed m.handle q.1 q.2 none).freeIdle (phPkg m.handle) m.handle)
/-- The fibres of a die that wait on a phaser whose target its phase has reached (R283, R415). -/
def State.releaseDie (s : State) (pkg die : Nat) (h : Dword) (p : Ph) : State :=
  (s.teams.filter (fun t => t.pkg = pkg && dieOf t.core = die)).foldl (fun s t =>
    t.fibres.foldl (fun s f => match f.wait with
      | some ⟨.phaser g target, false, _⟩ =>
        if g = h && phaseReached p.phase target then s.answer ⟨t.tid, f.fid⟩ (.answer (toBytes 4 p.payload.toNat ++ toBytes 4 p.apkg)) else s
      | _ => s) s) s
/-- PHASE_BROADCAST (R415): at a package node it updates the slot, opens its counts, takes waiting arrivals up, writes the winner's
predicate and goes on to the dies; a die node releases its waiters. -/
def execPhaseBroadcast (id : Nat) (s : State) : Outcome State Fault Refusal :=
  .next (match s.stitch.find? (fun m => m.id = id) with
    | none => s
    | some m =>
      match m.kind, m.path with
      | .broadcast ph payload apkg winner, n :: _ =>
        let older := s.stitch.any (fun x => decide (x.id < id) && x.handle = m.handle && x.path = m.path &&
          (match x.kind with | .broadcast .. => true | _ => false))
        if older || !s.nodeUp n then s
        else
          let s := s.dropStitch id
          (match n with
          | .pkg p =>
            if !s.linkUp p then s.addStitch m
            else match (s.pkgAt p).slotOf m.handle with
              | none => s
              | some x =>
                let k := (ph - x.ph.phase).toNat
                if 2 ^ 31 ≤ k then s
                else
                  let q := { x.ph with phase := ph, payload := payload, apkg := apkg }
                  let s := s.modSlot p m.handle (fun x => { x with ph := q, counts := openCounts q.any x.ph.phase x.counts k })
                  let s := match winner.bind (fun w => s.stitch.find? (fun y => y.id = w)) with
                    | some w => (s.landArrival w ph true).dropStitch w.id
                    | none => s
                  let s := (s.wakeArrivals m.handle none (some (.pkg p))).toDies p m.handle q
                  if p = phPkg m.handle then s else s.freeIdle p m.handle
          | .die p d =>
            (match (s.pkgAt p).slotOf m.handle with
            | some x => s.releaseDie p d m.handle x.ph
            | none => s)
          | _ => s)
      | _, _ => s)
/-- BOUND_ARRIVAL_RELEASE (R416): every covered write has been acknowledged. -/
def execBoundArrivalRelease (id : Nat) (s : State) : Outcome State Fault Refusal :=
  .next (match s.stitch.find? (fun m => m.id = id && m.bound) with
    | none => s
    | some m =>
      if m.marks.any (fun i => s.wq.any (·.id = i) || s.regs.any (·.entry.id = i) || s.reqs.any (·.id = i) || s.cmds.any (·.id = i)) then s
      else s.modStitch id (fun m => { m with bound := false, marks := [] }))
/-- STITCH_LINK_FAIL (R412): the active link fails and traffic moves to the other; with both down MC_STITCH is sent. -/
def execStitchLinkFail (pkg : Nat) (s : State) : Outcome State Fault Refusal :=
  let p := s.pkgAt pkg
  let wasUp := if p.snact then p.slbUp else p.slaUp
  .next (if !wasUp then s
    else
      let s := s.modPkg pkg (fun p => if p.snact then { p with slbUp := false, snact := if p.slaUp then false else p.snact }
        else { p with slaUp := false, snact := if p.slbUp then true else p.snact })
      if s.linkUp pkg then s else s.monitorEvent pkg { cause := Cause.mcStitch })
/-- STITCH_LINK_UP (R412). -/
def execStitchLinkUp (pkg : Nat) (linkB : Bool) (s : State) : Outcome State Fault Refusal :=
  .next (s.modPkg pkg (fun p =>
    let none_ := !p.slaUp && !p.slbUp
    if linkB then { p with slbUp := true, snact := if none_ then true else p.snact }
    else { p with slaUp := true, snact := if none_ then false else p.snact }))
/-- STITCH_NODE_FAIL (R412): phasers whose slots the node holds stop advancing. -/
def execStitchNodeFail (pkg node : Nat) (s : State) : Outcome State Fault Refusal :=
  .next ((s.modPkg pkg (fun p => { p with deadNodes := if p.deadNodes.contains node then p.deadNodes else node :: p.deadNodes })).monitorEvent
    pkg { cause := Cause.mcStitch, aux := BitVec.ofNat 32 node })

/-- A team's registration on a phaser (R278). -/
def Team.phReg (t : Team) (h : Dword) : PhReg := (t.phasers.find? (fun r => r.handle = h)).getD ⟨h, 0, false⟩
/-- A team's registration set; one without parties and waiter goes (R278, R279). -/
def Team.setPhReg (t : Team) (r : PhReg) : Team :=
  let rest := t.phasers.filter (fun x => x.handle ≠ r.handle)
  if r.sigp = 0 && !r.wt then { t with phasers := rest }
  else if t.phasers.any (fun x => x.handle = r.handle) then { t with phasers := t.phasers.map (fun x => if x.handle = r.handle then r else x) }
  else { t with phasers := t.phasers ++ [r] }
/-- The mode of PHREG and PHDROP (R278): 0 sig, 1 wt, 2 sw, 3 eng. -/
def phMode (m : SyncMod) : Nat := m.subop.toNat % 4
/-- A registration added to a team's entries (R278); engine parties take none. -/
def Team.register (t : Team) (h : Dword) (mode n : Nat) : Team :=
  let r := t.phReg h
  if mode = 3 then t else t.setPhReg { r with sigp := r.sigp + n, wt := r.wt || decide (1 ≤ mode) }
/-- True when a team may add a registration on a phaser (R262, R278). -/
def Team.mayRegister (t : Team) (h : Dword) (mode : Nat) : Bool :=
  mode = 3 || decide (t.phasers.length < 16) || t.phasers.any (fun r => r.handle = h)
/-- PHREG, creating form, in one lane (R278, R262). -/
def phregCreateLane (h : Head) (m : SyncMod) (t : State) (l : Lane) : LaneRes :=
  let tm := t.team l.tid
  let mode := phMode m
  let n := m.imm24.toNat
  let level := m.optype.toNat % 4
  let node := if level = 0 then dieOf tm.core else 8
  if mode ≠ 3 && decide (16 ≤ tm.phasers.length) then .done (t.writePair l h.dst 0xFFFFFFFFFFFFFFFE none)
  else match t.freeSlot tm.pkg node with
    | none => .done (t.writePair l h.dst 0xFFFFFFFFFFFFFFFF none)
    | some (idx, tag) =>
      let hnd := mkHandle tag 1 level tm.pkg (if level = 0 then node else 0) idx
      let wt := decide (mode = 1) || decide (mode = 2)
      let c : PhCount := { team := if mode = 3 then none else some l.tid, cur := n, wt := wt }
      let slot : PhSlot := {
        node := node, idx := idx, live := true, tag := tag, handle := hnd, counts := setCount [] c
        ph := { any := m.optype.getLsbD 2, parties := n, waiters := if wt then 1 else 0 } }
      .done (((t.takeSlot tm.pkg slot).modTeam l.tid (·.register hnd mode n)).writePair l h.dst hnd none)
/-- PHREG, creating form (R278). -/
def execPhregCreate (h : Head) (m : SyncMod) (s : State) : Outcome State Fault Refusal :=
  .next (s.runLanes h (phregCreateLane h m)).bump
/-- The address of a memory phaser's object, with its checks (R261). -/
def State.phObject (s : State) (l : Lane) (h : Dword) : Chk Nat :=
  s.objectChecks (s.team l.tid) (s.fibre l) [.read, .write] h 64
/-- A memory phaser taken at its home for an instruction (R277), malformed ones refused. -/
def phAtHome (s t : State) (l : Lane) (h : Dword) (ia : Nat) (k : State → Nat → Ph → LaneRes) : LaneRes :=
  atHome s t l h ia 64 .pod (fun t =>
    let tm := s.team l.tid
    let sp := s.space tm.partKey ia
    let x := t.homeTake tm.coreKey sp ia 64
    let t := (x.2.touchPage tm.partKey ia).resume l
    if phObjBad x.1 then .trapAfter Cause.phBad (handleVal h) t else k t sp (readPh x.1))
/-- An operation of the team on the phaser has had no effect yet (R260). -/
def State.phPending (s : State) (tid : Nat) (h : Dword) : Bool :=
  s.stitch.any (fun m => m.ofTeam && m.issuer = tid && m.handle = h && m.undone)
/-- A hardware phaser's message from a team's die. -/
def stitchFrom (s : State) (tm : Team) (l : Lane) (h : Dword) (kind : StitchKind) (eng : Bool) : Stitch :=
  { id := 0, kind := kind, handle := h, path := pathTo h tm.pkg (some (dieOf tm.core)), team := if eng then none else some l.tid, issuer := l.tid,
    fid := l.fid, core := tm.coreKey, spkg := tm.pkg, port := tm.core % Config.coresPerDie, order := s.seq, part := tm.partKey,
    level := (s.fibre l).level }
/-- A copy of a pod phaser's slot at a package (R276), where it needs one: none where the node is full. -/
def State.podCopy (t : State) (pkg : Nat) (h : Dword) (any : Bool) : Option State :=
  if phLevel h ≠ 2 || ((t.pkgAt pkg).slotOf h).isSome then some t
  else (t.freeSlot pkg 8).map (fun x => t.takeSlot pkg
    { node := 8, idx := x.1, live := true, tag := x.2, handle := h, ph := { any := any } })
/-- PHREG, joining form, in one lane (R278, R262). -/
def phregJoinLane (h : Head) (m : SyncMod) (s t : State) (l : Lane) : LaneRes :=
  let tm := t.team l.tid
  let hnd := s.readPair l .sa h.sa
  let mode := phMode m
  let n := m.imm24.toNat
  let adds := (decide (mode = 1) || decide (mode = 2)) && !(tm.phReg hnd).wt
  if hnd.toNat / 2 ^ 63 = 1 then
    (if !t.phOk tm hnd then .trap Cause.phBad (handleVal hnd)
    else if !tm.mayRegister hnd mode then .done (t.writePair l h.dst 0xFFFFFFFFFFFFFFFE none)
    else match (if mode = 3 then some t else t.podCopy tm.pkg hnd ((t.homeSlot hnd).map (·.ph.any) |>.getD false)) with
      | none => .done (t.writePair l h.dst 0xFFFFFFFFFFFFFFFF none)
      | some t => .done (((t.modTeam l.tid (·.register hnd mode n)).expectWords l h.dst 2 s.seq).addStitch
          { stitchFrom s tm l hnd .join (decide (mode = 3)) with parties := n, wt := adds, dst := some h.dst }))
  else afterAcquire t l (match s.phObject l hnd with
    | .error c => .trap c.1 c.2
    | .ok ia => inTurn s t l hnd (fun t =>
      if !tm.mayRegister hnd mode then .done (t.writePair l h.dst 0xFFFFFFFFFFFFFFFE none)
      else if t.phPending l.tid hnd then .stay t
      else phAtHome s t l hnd ia (fun t sp p =>
        let cs := t.memPh sp ia
        let c := countOf cs (if mode = 3 then none else some l.tid)
        let c := { c with joins := if n = 0 then c.joins else c.joins ++ [(p.phase + 1, n)], wt := c.wt || adds }
        let q := { p with joinnext := p.joinnext + n, waiters := p.waiters + (if adds then 1 else 0) }
        .done ((((t.setMemPh sp ia (setCount cs c)).putPh tm.partKey hnd sp ia p q 0).modTeam l.tid
          (·.register hnd mode n)).writePair l h.dst hnd none))))
/-- PHREG, joining form (R278). -/
def execPhregJoin (h : Head) (m : SyncMod) (s : State) : Outcome State Fault Refusal :=
  .next (s.runLanes h (phregJoinLane h m s)).bump
/-- Parties that an engine pool holds. -/
def PhCount.held (c : PhCount) : Nat := c.cur + (c.joins.map (·.2)).sum - c.drop
/-- The engine pool of a hardware phaser as a drop of a team finds it (R279): drops on their way have taken theirs, and the team's own joins
come before it. -/
def State.poolOf (s : State) (tid : Nat) (h : Dword) : PhCount :=
  let c := countOf ((s.homeSlot h).map (·.counts) |>.getD []) none
  let on := s.stitch.filter (fun m => m.handle = h && m.team.isNone)
  { team := none
    cur := c.held + ((on.filter (fun m => m.kind = .join && m.issuer = tid)).map (·.parties)).sum -
      ((on.filter (fun m => m.kind = .drop && !m.counted)).map (·.parties)).sum }
/-- Whether a team, or the engine pool, holds what PHDROP removes (R279). -/
def dropAllowed (r : PhReg) (pool : PhCount) (mode n : Nat) : Bool :=
  if mode = 3 then decide (n ≤ pool.held) else if mode = 1 then r.wt else decide (n ≤ r.sigp)
/-- A registration after PHDROP (R279). -/
def PhReg.dropped (r : PhReg) (mode n : Nat) : PhReg :=
  if mode = 3 then r else if mode = 1 then { r with wt := false } else { r with sigp := r.sigp - n }
/-- PHDROP in one lane (R279). -/
def phdropLane (h : Head) (m : SyncMod) (s t : State) (l : Lane) : LaneRes :=
  let tm := t.team l.tid
  let hnd := s.readPair l .sa h.sa
  let mode := phMode m
  let n := m.imm24.toNat
  let r := tm.phReg hnd
  if hnd.toNat / 2 ^ 63 = 1 then
    (if !t.phOk tm hnd then .trap Cause.phBad (handleVal hnd)
    else if !dropAllowed r (t.poolOf l.tid hnd) mode n then .trap Cause.phMode (handleVal hnd)
    else .done ((t.modTeam l.tid (·.setPhReg (r.dropped mode n))).addStitch
      { stitchFrom s tm l hnd .drop (decide (mode = 3)) with parties := if mode = 1 then 0 else n, wt := decide (mode = 1) }))
  else afterAcquire t l (match s.phObject l hnd with
    | .error c => .trap c.1 c.2
    | .ok ia => inTurn s t l hnd (fun t =>
      if t.phPending l.tid hnd then .stay t
      else phAtHome s t l hnd ia (fun t sp p =>
        let cs := t.memPh sp ia
        let c := countOf cs (if mode = 3 then none else some l.tid)
        if !dropAllowed r c mode n then .trapAfter Cause.phMode (handleVal hnd) t
        else
          let x := c.split p.phase (if mode = 1 then 0 else n)
          let q := x.1.foldl Ph.dropPart p
          let q := if mode = 1 then { q with waiters := q.waiters - 1 } else q
          let z := q.settle 3
          .done (((t.setMemPh sp ia (setCount cs { x.2 with wt := x.2.wt && mode ≠ 1 })).putPh tm.partKey hnd sp ia p z.1 z.2).modTeam
            l.tid (·.setPhReg (r.dropped mode n))))))
/-- PHDROP (R279). -/
def execPhdrop (h : Head) (m : SyncMod) (s : State) : Outcome State Fault Refusal :=
  .next (s.runLanes h (phdropLane h m s))
/-- True for a copy to memory with an element in another package's (R247), at a point outside its own. -/
def Cmd.copiesFar (c : Cmd) : Bool :=
  let x := readCopy c.block
  c.kind = .tcopy && x.dir = 1 && c.pt.wide && (List.range x.count).any (fun i =>
    let e := x.element i
    e.1 && (match rangeIn c.ranges c.level .write (e.2 % 2 ^ 64) with | .ok ia => homePkg ia ≠ corePkg c.core | .error _ => false))
/-- The writes of a team to other packages' memory that have not been acknowledged, its engine commands' among them (R306, R416): a
command that writes is there as a whole, and ends once its writes have been acknowledged. -/
def State.farWrites (s : State) (tid : Nat) : List Nat :=
  ((s.wq.filter (fun e => e.tid = tid && e.remote)).map (·.id)) ++
  ((s.regs.filter (fun r => r.entry.tid = tid && r.entry.remote)).map (·.entry.id)) ++
  ((s.reqs.filter (fun q => q.tid = tid && ((q.kind = .atomic && q.hard) ||
    (q.kind = .tileStore && q.pt.wide && q.segs.any (fun x => homePkg x.2.1 ≠ corePkg q.core))))).map (·.id)) ++
  ((s.cmds.filter (fun c => c.tid = tid && c.copiesFar)).map (·.id))
/-- An arrival that leaves once its release has completed (R281, R282). -/
def arrivalLane (h : Head) (m : SyncMod) (any : Bool) (s t : State) (l : Lane) : LaneRes :=
  let tm := t.team l.tid
  let hnd := s.readPair l .sa h.sa
  let go := fun (t : State) (pt : Point) (object : Option (Nat × Nat)) =>
    let r := t.beginRelease l pt
    let bound := m.optype.getLsbD 3
    let t := if any then (if h.dst.pred = 0 then r.2 else r.2.modFibre l (fun f => f.note s.now (.pred h.dst.pred)
        ((s.team l.tid).stored f (.pred h.dst.pred)) none s.seq)) else r.2.expectWords l h.dst 1 s.seq
    .done (t.addStitch { stitchFrom s tm l hnd .arrival false with
      any := any, object := object, path := if object.isSome then [] else pathTo hnd tm.pkg (some (dieOf tm.core))
      payload := if any then s.readReg l .sb h.sb else 0, rel := some r.1, bound := bound
      marks := if bound then t.farWrites l.tid else [], dst := some h.dst })
  afterAcquire t l (afterDeferred (s.fibre l) true (
    match tm.point m.lv with
    | .error c => .trap c.1 c.2
    | .ok pt =>
      if hnd.toNat / 2 ^ 63 = 1 then
        (if !t.phOk tm hnd || ((t.homeSlot hnd).map (·.ph.any)) ≠ some any then .trap Cause.phBad (handleVal hnd)
        else if (tm.phReg hnd).sigp = 0 then .trap Cause.phMode (handleVal hnd)
        else go t pt none)
      else match s.phObject l hnd with
        | .error c => .trap c.1 c.2
        | .ok ia => inTurn s t l hnd (fun t => phAtHome s t l hnd ia (fun t sp p =>
            if p.any ≠ any then .trapAfter Cause.phBad (handleVal hnd) t
            else if (tm.phReg hnd).sigp = 0 then .trapAfter Cause.phMode (handleVal hnd) t
            else go t pt (some (sp, ia))))))
/-- PHSIG (R281). -/
def execPhsig (h : Head) (m : SyncMod) (s : State) : Outcome State Fault Refusal :=
  .next (s.runLanes h (arrivalLane h m false s)).bump
/-- PHANY (R282). -/
def execPhany (h : Head) (m : SyncMod) (s : State) : Outcome State Fault Refusal :=
  .next (s.runLanes h (arrivalLane h m true s)).bump
/-- What PHWAIT and PHTEST do with a phaser's state (R283), after the team's earlier operations on it (R260). The handle is checked first,
then, for PHWAIT, the team's waiter registration. -/
def phLook (s t : State) (l : Lane) (hnd : Dword) (waits : Bool) (k : State → Option (Nat × Nat) → Ph → LaneRes) : LaneRes :=
  let tm := s.team l.tid
  if hnd.toNat / 2 ^ 63 = 1 then
    (if !t.phOk tm hnd then .trap Cause.phBad (handleVal hnd)
    else if waits && !((t.team l.tid).phReg hnd).wt then .trap Cause.phMode (handleVal hnd)
    else inTurn s t l hnd (fun t =>
      if t.phPending l.tid hnd then .stay t
      else match t.countSlot tm.pkg hnd with
        | some x => k t none x.ph
        | none => .trap Cause.phBad (handleVal hnd)))
  else match s.phObject l hnd with
    | .error c => .trap c.1 c.2
    | .ok ia =>
      if waits && !((t.team l.tid).phReg hnd).wt then .trap Cause.phMode (handleVal hnd)
      else inTurn s t l hnd (fun t =>
        if t.phPending l.tid hnd then .stay t else phAtHome s t l hnd ia (fun t sp p => k t (some (sp, ia)) p))
/-- PHWAIT in one lane (R283). -/
def phwaitLane (h : Head) (m : SyncMod) (s t : State) (l : Lane) : LaneRes :=
  let tm := s.team l.tid
  let hnd := s.readPair l .sa h.sa
  let target := s.readReg l .sb h.sb
  let out := fun (t : State) (pt : Point) (v : Nat) => acquireThen (t.writePair l h.dst (BitVec.ofNat 64 v) none) l tm.coreKey pt
  match tm.point m.lv with
  | .error c => .trap c.1 c.2
  | .ok pt => answered (s.fibre l) (fun bs => out t pt (ofBytes bs)) (afterAcquire t l (
      phLook s t l hnd true (fun t object p =>
        if phaseReached p.phase target then out t pt (p.payload.toNat + 2 ^ 32 * p.apkg)
        else t.suspend l (match object with | some (sp, ia) => .memPhaser sp ia target | none => .phaser hnd target) hnd)))
/-- PHWAIT (R283). -/
def execPhwait (h : Head) (m : SyncMod) (s : State) : Outcome State Fault Refusal :=
  .next (s.runLanes h (phwaitLane h m s)).bump
/-- PHTEST (R283): the acquire follows where the target has been reached. -/
def execPhtest (h : Head) (m : SyncMod) (s : State) : Outcome State Fault Refusal :=
  .next (s.runLanes h (fun t l =>
    match (s.team l.tid).point m.lv with
    | .error c => .trap c.1 c.2
    | .ok pt => afterAcquire t l (phLook s t l (s.readPair l .sa h.sa) false (fun t _ p =>
        let ok := phaseReached p.phase (s.readReg l .sb h.sb)
        let t := t.writePred l h.dst.pred ok none
        if ok then acquireThen t l (s.team l.tid).coreKey pt else .done (t.resume l))))).bump
/-- PHTEST.rd (R283). -/
def execPhtestRd (h : Head) (m : SyncMod) (s : State) : Outcome State Fault Refusal :=
  .next (s.runLanes h (fun t l =>
    match (s.team l.tid).point m.lv with
    | .error c => .trap c.1 c.2
    | .ok _ => afterAcquire t l (phLook s t l (s.readPair l .sa h.sa) false (fun t _ p =>
        .done ((t.writeReg l h.dst p.phase none).resume l))))).bump

/-- A team's registrations dropped at its end (R279), each after the team's earlier operations on its phaser; a memory phaser's at its
object's home. -/
def State.dropRegistrations (s : State) (tm : Team) : State :=
  tm.phasers.foldl (fun s r =>
    let m : Stitch := {
      id := 0, kind := .drop, handle := r.handle, path := pathTo r.handle tm.pkg (some (dieOf tm.core)), part := tm.partKey
      team := some tm.tid, issuer := tm.tid, core := tm.coreKey, spkg := tm.pkg, parties := r.sigp, wt := r.wt }
    if r.handle.toNat / 2 ^ 63 = 1 then s.addStitch m
    else match s.rangeCheck tm.partKey .user .write r.handle.toNat with
      | .ok ia => s.addStitch { m with object := some (s.space tm.partKey ia, ia), path := [] }
      | .error c => s.sendEvent tm.partKey { cause := c, value := r.handle }) s
/-- An engine's arrival on a phaser (R255, R280, R282, R378): a message that enters at the port of the engine's die, or to the object. -/
def State.engineArrival (s : State) (pkg part engine : Nat) (level : Level) (h : Dword) (any : Bool) (payload : Word)
    (object : Option (Nat × Nat)) : State :=
  s.addStitch {
    id := 0, kind := .arrival, handle := h, object := object, part := part, level := level, any := any, spkg := pkg
    port := if engine < 32 then 48 else if engine < 40 then 8 else 9
    path := if object.isSome then [] else pathTo h pkg (if engine < 32 then some (engine / 4) else none), payload := payload }

end Sys2Proof.Machine
end

