-- ==== Sys2Proof/Machine/Tasks.lean ====
section
/-! DEFINITION. Fibres, windows, spawns and teams: GROW, SHRINK, FFORK, FEND, LAUNCH (R68, R271 to R274), the grants, spawned teams
(R61, R62) and the end of a team (R47). -/

namespace Sys2Proof.Machine

open Host (Outcome)

/-- The teams that hold resources on a core (R46, R65). -/
def State.residents (s : State) (ck : Nat) : List Team := s.teams.filter (fun t => t.coreKey = ck && !t.inJacket)
/-- Window registers of a team. -/
def Team.windowRegs (t : Team) : Nat := (t.fibres.map (fun f => f.regs.length)).sum
/-- Free main-file registers of a core (R19). -/
def State.freeRegs (s : State) (ck : Nat) : Nat := Config.mainRegs - ((s.residents ck).map Team.windowRegs).sum
/-- Free fibre slots of a core (R20). -/
def State.freeFibres (s : State) (ck : Nat) : Nat := Config.fibreSlots - ((s.residents ck).map (fun t => t.fibres.length)).sum
/-- Free leaves of a core (R25). -/
def State.freeLeaves (s : State) (ck : Nat) : Nat := Config.leavesPerCore - ((s.residents ck).map (·.leaves)).sum
/-- Free accumulator tiles of a core (R29). -/
def State.freeTiles (s : State) (ck : Nat) : Nat := Config.tilesPerCore - ((s.residents ck).map (·.acct)).sum
/-- The lowest free team slot of a core (R20). -/
def State.freeTeamSlot (s : State) (ck : Nat) : Option Nat :=
  (List.range Config.teamSlots).find? (fun i => !(s.residents ck).any (fun t => t.slot = i))
/-- What a team needs of a core (R20, R46). -/
structure Needs where
  fibres : Nat
  regs : Nat
  leaves : Nat
  tiles : Nat
/-- True when a core's free resources cover a team (R46). -/
def State.fits (s : State) (ck : Nat) (n : Needs) : Bool :=
  (s.freeTeamSlot ck).isSome && decide (n.fibres ≤ s.freeFibres ck) && decide (n.regs ≤ s.freeRegs ck) &&
    decide (n.leaves ≤ s.freeLeaves ck) && decide (n.tiles ≤ s.freeTiles ck)

/-- A pending GROW or FFORK of a core (R68): its class, its time, its fibre, and what it needs. -/
structure Request where
  prio : Nat
  since : Nat
  tid : Nat
  fid : Nat
  regs : Nat
  fibres : Nat
  deriving DecidableEq, Repr
/-- The request of a fibre, if it is blocked in GROW or FFORK (R68, R271). -/
def Fibre.request (f : Fibre) (t : Team) : Option Request :=
  match f.wait with
  | some ⟨.grow n, false, since⟩ => some ⟨t.prio, since, t.tid, f.fid, n - f.regs.length, 0⟩
  | some ⟨.fork n _, false, since⟩ => some ⟨t.prio, since, t.tid, f.fid, n * f.regs.length, n⟩
  | _ => none
/-- The pending requests of a core; a jacketed team's have left the order (R68). -/
def State.requests (s : State) (ck : Nat) : List Request := (s.residents ck).flatMap (fun t => t.fibres.filterMap (fun f => f.request t))
/-- True when a request comes before another (R68): by class, then by time. DESIGN CHOICE (log 52): of two made at the same clk the lower
team number, then the lower $FID, comes first; R68 gives them no order. -/
def Request.before (a b : Request) : Bool :=
  decide (b.prio < a.prio) || (a.prio = b.prio && (decide (a.since < b.since) || (a.since = b.since &&
    (decide (a.tid < b.tid) || (a.tid = b.tid && decide (a.fid < b.fid))))))
/-- The request at the head of a core's order (R68). -/
def State.headRequest (s : State) (ck : Nat) : Option Request :=
  (s.requests ck).foldl (fun acc r => match acc with | some h => if r.before h then some r else acc | none => some r) none
/-- True when the free registers and slots of a core cover a request (R68). -/
def State.covers (s : State) (ck : Nat) (r : Request) : Bool := decide (r.regs ≤ s.freeRegs ck) && decide (r.fibres ≤ s.freeFibres ck)
/-- True when a new request of a class would have another before it. -/
def State.queuedBefore (s : State) (ck prio : Nat) : Bool := (s.requests ck).any (fun r => decide (prio ≤ r.prio))
/-- A window with n registers: zeroed ones at the top, or the top ones discarded (R272). -/
def Fibre.resize (f : Fibre) (n : Nat) : Fibre :=
  { f with
    regs := (f.regs ++ List.replicate (n - f.regs.length) 0).take n
    pend := f.pend.filter (fun p => match p.reg with | .main i => decide (i < n) | _ => true) }
/-- GROW in one lane (R272, R68). -/
def growLane (m : SyncMod) (s t : State) (l : Lane) : LaneRes :=
  let tm := t.team l.tid
  let f := s.fibre l
  let n := m.imm24.toNat
  match f.wait with
  | some w => if w.met then .done (t.resume l) else .stay t
  | none =>
    if n ≤ f.regs.length then .done t
    else if Config.mainRegs < tm.windowRegs - f.regs.length + n then .trap Cause.growImpossible (BitVec.ofNat 64 n)
    else if t.queuedBefore tm.coreKey tm.prio || decide (t.freeRegs tm.coreKey < n - f.regs.length) then t.suspend l (.grow n)
    else .done (t.modFibre l (·.resize n))
/-- GROW (R272). -/
def execGrow (h : Head) (m : SyncMod) (s : State) : Outcome State Fault Refusal :=
  .next (s.runLanes h (growLane m s))
/-- SHRINK (R272). -/
def execShrink (h : Head) (m : SyncMod) (s : State) : Outcome State Fault Refusal :=
  .next (s.runLanes h (fun t l => .done (t.modFibre l (fun f =>
    if m.imm24.toNat < f.regs.length then f.resize m.imm24.toNat else f))))
/-- GROW_GRANT (R68): the head of the core's order, once free registers cover it. -/
def execGrowGrant (tid fid : Nat) (s : State) : Outcome State Fault Refusal :=
  let l : Lane := ⟨tid, fid⟩
  let tm := s.team tid
  let f := s.fibre l
  .next (match f.wait, s.headRequest tm.coreKey with
    | some ⟨.grow n, false, _⟩, some r =>
      if r.tid ≠ tid || r.fid ≠ fid then s
      else if Config.mainRegs < tm.windowRegs - f.regs.length + n then
        (if f.inFlight then s else s.takeTrap l Cause.growImpossible (BitVec.ofNat 64 n))
      else if s.covers tm.coreKey r then (s.modFibre l (·.resize n)).meet l
      else s
    | _, _ => s)

/-- n new fibres of a team (R271): the lowest free $FIDs, v0 the issuing fibre's $FID, v1 the count from 0. -/
def Team.fork (t : Team) (f : Fibre) (n : Nat) (entry : Dword) (now : Nat) : List Nat × Team :=
  let ids := ((List.range 1024).filter (fun i => !t.fibres.any (fun g => g.fid = i))).take n
  (ids, { t with fibres := t.fibres ++ ids.zipIdx.map (fun p =>
    { fid := p.1, pc := entry, fresh := true, readyAt := now, readySince := now
      regs := ([BitVec.ofNat 32 f.fid, BitVec.ofNat 32 p.2] ++ List.replicate (f.regs.length - 2) 0).take f.regs.length }) })
/-- The fibres of an FFORK created, and the lowest $FID (R271). -/
def State.forked (s : State) (l : Lane) (n : Nat) (entry : Dword) : Nat × State :=
  let r := (s.team l.tid).fork (s.fibre l) n entry s.now
  (r.1.headD 0, s.modTeam l.tid (fun _ => r.2))
/-- FFORK in one lane (R271): granted at once, or a pending request (R68). -/
def fforkLane (h : Head) (n : Nat) (s t : State) (l : Lane) : LaneRes :=
  let tm := t.team l.tid
  let f := s.fibre l
  let entry := s.readPair l .sa h.sa
  answered f (fun bs => .done ((t.writeReg l h.dst (BitVec.ofNat 32 (ofBytes bs)) none).resume l)) (
    if f.wait.isSome then .stay t
    else if n = 0 || decide (1024 < n) || decide (1024 < tm.fibres.length + n) then .trap Cause.forkLimit (BitVec.ofNat 64 n)
    else if t.queuedBefore tm.coreKey tm.prio || !t.covers tm.coreKey ⟨0, 0, 0, 0, n * f.regs.length, n⟩ then
      t.suspend l (.fork n entry)
    else
      let r := t.forked l n entry
      .done (r.2.writeReg l h.dst (BitVec.ofNat 32 r.1) none))
/-- FFORK, register form (R271). -/
def execFfork (h : Head) (_m : SyncMod) (s : State) : Outcome State Fault Refusal :=
  .next (s.runLanes h (fun t l => fforkLane h (s.readReg l .sb h.sb).toNat s t l)).bump
/-- FFORK, immediate form (R271). -/
def execFforkImm (h : Head) (m : SyncMod) (s : State) : Outcome State Fault Refusal :=
  .next (s.runLanes h (fforkLane h m.imm24.toNat s)).bump
/-- FFORK_GRANT (R271, R68). -/
def execFforkGrant (tid fid : Nat) (s : State) : Outcome State Fault Refusal :=
  let l : Lane := ⟨tid, fid⟩
  let tm := s.team tid
  .next (match (s.fibre l).wait, s.headRequest tm.coreKey with
    | some ⟨.fork n entry, false, _⟩, some r =>
      if r.tid ≠ tid || r.fid ≠ fid || !s.covers tm.coreKey r then s
      else if 1024 < tm.fibres.length + n then (if (s.fibre l).inFlight then s else s.takeTrap l Cause.forkLimit (BitVec.ofNat 64 n))
      else let x := s.forked l n entry; x.2.answer l (.answer (toBytes 4 x.1))
    | _, _ => s)

/-- What an ended fibre has outstanding goes on under a number of its own, which no fibre has (R272): its stores, accesses, commands,
arrivals, deliveries and results, and its part in the bytes that caches hold. -/
def State.orphan (s : State) (l : Lane) (n : Nat) : State :=
  let mine := fun (tid fid : Nat) => tid = l.tid && fid = l.fid
  let ent := fun (e : WEntry) => if mine e.tid e.fid then { e with fid := n } else e
  let byte := fun (b : CByte) => if b.wr.any (fun w => mine w.tid w.fid) then
    { b with wr := b.wr.map (fun w => if mine w.tid w.fid then { w with fid := n } else w) } else b
  { (s.modTeam l.tid (fun t => { t with
      flagPend := t.flagPend.map (fun p => if p.fid = l.fid then { p with fid := n } else p)
      scalarPend := t.scalarPend.map (fun p => if p.fid = l.fid then { p with fid := n } else p) })) with
    wq := s.wq.map ent
    regs := s.regs.map (fun r => { r with entry := ent r.entry })
    reqs := s.reqs.map (fun q => if mine q.tid q.fid then { q with fid := n } else q)
    cmds := s.cmds.map (fun c => if mine c.tid c.fid then { c with fid := n } else c)
    stitch := s.stitch.map (fun m => if mine m.issuer m.fid then { m with fid := n } else m)
    deliveries := s.deliveries.map (fun d => if d.by_ = some (l.tid, l.fid) then { d with by_ := some (l.tid, n) } else d)
    cores := s.cores.map (fun kc => (kc.1, { kc.2 with l1 := kc.2.l1.map byte }))
    pkgs := s.pkgs.map (fun kp => (kp.1, { kp.2 with llc := kp.2.llc.map byte })) }
/-- A fibre ends (R272, R331): recorded faults are reported, its $FID and window are free, and what it has outstanding goes on, its releases
among them (R260, R293). -/
def State.endFibre (s : State) (l : Lane) : State :=
  let t := s.team l.tid
  let f := s.fibre l
  let s := match f.storeFault with
    | some va => s.supervisorEvent t.partKey (t.event l.fid Cause.storeLost (BitVec.ofNat 32 f.storesLost) va)
    | none => s
  let s := match f.engineFault with
    | some v =>
      let s := s.supervisorEvent t.partKey (t.event l.fid Cause.engTeam 0 v)
      if f.abortsLost = 0 then s else s.supervisorEvent t.partKey (t.event l.fid Cause.engLost (BitVec.ofNat 32 f.abortsLost) 0)
    | none => s
  let n := 65536 * (s.seq + 1) + l.fid
  let s := s.orphan l n
  { (s.modTeam l.tid (fun t => { t with fibres := t.fibres.filter (fun g => g.fid ≠ l.fid) })) with
    seq := s.seq + 1
    tails := if f.rels.isEmpty then s.tails else s.tails ++ [⟨l.tid, n, f.rels, f.seen⟩] }
/-- FEND (R272). -/
def execFend (h : Head) (_m : SyncMod) (s : State) : Outcome State Fault Refusal :=
  .next (s.runLanes h (fun t l => .stay (t.endFibre l)))

/-- The entries of a team's pending-launch queue, in order (R274). -/
def State.pending (s : State) (tid : Nat) : List Launch :=
  s.launches.filter (fun x => x.owner = some tid && (x.stage = .queued || x.stage = .held))
/-- A launch record handed over (R57). -/
def State.addLaunch (s : State) (x : Launch) : State :=
  { s with seq := s.seq + 1, launches := s.launches ++ [{ x with id := s.seq }] }
/-- LAUNCH in one lane (R274): FULL without a release, or the release and then the entry. -/
def launchLane (h : Head) (m : SyncMod) (s t : State) (l : Lane) : LaneRes :=
  let tm := s.team l.tid
  afterAcquire t l (afterDeferred (s.fibre l) true (
    match tm.point m.lv with
    | .error c => .trap c.1 c.2
    | .ok pt => withBlock s t l .sa h.sa 128 (fun t b =>
        if 4 ≤ (t.pending l.tid).length then .done ((t.modFibre l (fun f => { f with hold := none })).writeReg l h.dst 0xFFFFFFFF none)
        else withRelease t l true pt (fun t =>
          .done ((t.addLaunch { id := 0, part := tm.partKey, owner := some l.tid, rec_ := b, prio := bits (blockDword b 0) 9 8 }).writeReg
            l h.dst 0 none)))))
/-- LAUNCH (R274). -/
def execLaunch (h : Head) (m : SyncMod) (s : State) : Outcome State Fault Refusal :=
  .next (s.runLanes h (launchLane h m s)).bump

/-- A jacketed team of a core, ready to be restored and not held, that comes before a placement of a class (R66). -/
def State.restoreFirst (s : State) (ck prio : Nat) : Bool :=
  s.teams.any (fun t => t.coreKey = ck && decide (prio ≤ t.prio) && (match t.res with | .jacketed _ false true => true | _ => false))
/-- SPAWN_BIN_TIMEOUT (R61): a bin whose timer has reached its limit fires. -/
def execSpawnBinTimeout (pkg core bin : Nat) (s : State) : Outcome State Fault Refusal :=
  .next (s.modCore (Config.coresPerPkg * pkg + core) (fun c =>
    let b := c.bins.getD bin { }
    if !b.recs.isEmpty && decide (b.opened + b.limit ≤ s.now) then { c with bins := c.bins.set bin { b with closed := true } } else c))
/-- The fibres of a spawned team (R61): the argument bytes of record i load v0 to v7 of fibre i. -/
def spawnFibres (key : SpawnKey) (now : Nat) (recs : List (List Byte)) : List Fibre :=
  recs.zipIdx.map (fun p =>
    { fid := p.2, pc := key.entry, fresh := true, readyAt := now, readySince := now
      regs := (List.range 8).map (fun i => BitVec.ofNat 32 (blockWord p.1 (4 * i))) ++ List.replicate (16 * key.win - 8) 0 })
/-- SPAWN_TEAM_PLACE (R61, R62, R304): the team of a fired bin, once resources fit, after an acquire at its level 1. -/
def execSpawnTeamPlace (pkg core bin : Nat) (s : State) : Outcome State Fault Refusal :=
  let ck := Config.coresPerPkg * pkg + core
  let b := (s.coreAt ck).bins.getD bin { }
  let n := b.recs.length
  .next (
    if !b.closed || n = 0 || (s.partAt b.key.part).phase ≠ .running || s.restoreFirst ck b.key.prio || (s.coreAt ck).halted ||
      !s.fits ck ⟨n, n * 16 * b.key.win, b.key.leaves, 0⟩ then s
    else
      let s := (s.modCore ck (fun c => { c with bins := c.bins.set bin { } })).acquire ck b.key.scope
      { s with
        seq := s.seq + 1
        teams := s.teams ++ [{
          tid := s.seq, slot := (s.freeTeamSlot ck).getD 0, core := core, pkg := pkg, part := b.key.part % 96, prio := b.key.prio
          levels := [⟨n, 0, .core⟩, ⟨1, 2, b.key.scope⟩], tlevel := 1, upper := [0], fibres := spawnFibres b.key s.now b.recs
          leaves := b.key.leaves, spwin := b.key.win, spleaves := b.key.leaves, spscope := b.key.scope, placed := s.now }] })

/-- A team's end (R47, R265, R274, R279, R237): its queued launches go to the front end, its barriers and registrations are freed,
its reservations released as by OBREL, and its resources return to the core. -/
def State.endTeam (s : State) (tm : Team) : State :=
  let s := s.dropRegistrations tm
  let live := (List.range 64).filter (fun i => (tm.barriers.getD i { }).live)
  let s := s.modCore tm.coreKey (fun c => { c with
    barTags := live.foldl (fun b i => insertAt (64 * tm.slot + i) (nextTag (lookupD 1 (64 * tm.slot + i) b)) b) c.barTags
    resvs := c.resvs.map (fun r => if r.tid = tm.tid && r.gone = none then { r with gone := some s.seq } else r) })
  { s with
    seq := s.seq + 1
    launches := s.launches.map (fun x => if tm.launch = some x.id then { x with ended := x.ended + 1 } else x)
    teams := s.teams.filter (fun t => t.tid ≠ tm.tid) }
/-- TEAM_END (R47): a CTAB is no engine command (R226). -/
def execTeamEnd (tid : Nat) (s : State) : Outcome State Fault Refusal :=
  .next (match s.team? tid with
    | none => s
    | some tm => if tm.fibres.isEmpty && !s.cmds.any (fun c => c.tid = tid && c.kind ≠ .ctab) then s.endTeam tm else s)

end Sys2Proof.Machine
end

