-- ==== Sys2Proof/Machine/Partition.lean ====
section
/-! DEFINITION. Partitions (R377 to R395, R428 to R432): their registers' checks, queue bindings, pre-emption requests, time-slice
groups, bandwidth windows, meters and snapshots. -/

namespace Sys2Proof.Machine

open Host (Outcome)

/-- STRICT. -/
def Part.strict (p : Part) : Bool := p.pctl.getLsbD 1
/-- TSG. -/
def Part.tsg (p : Part) : Nat := bits p.pctl.toNat 7 4
/-- REFUSE set. -/
def Part.refuse (p : Part) (code : Nat) : Part := { p with pctl := BitVec.ofNat 16 (p.pctl.toNat % 256 + 256 * code) }
/-- CBASE. -/
def Part.cbase (p : Part) : Nat := p.pclu.toNat % 128
/-- CLIM. -/
def Part.clim (p : Part) : Nat := bits p.pclu.toNat 14 8
/-- The colour set as one number (R378). -/
def Part.colours (p : Part) : Nat := p.pcol0.toNat + 2 ^ 64 * p.pcol1.toNat
/-- FLOOR, CEIL and WEIGHT of a band. -/
def bandFloor (b : BitVec 40) : Nat := b.toNat % 65536
/-- CEIL. -/
def bandCeil (b : BitVec 40) : Nat := bits b.toNat 31 16
/-- WEIGHT. -/
def bandWeight (b : BitVec 40) : Nat := bits b.toNat 39 32
/-- Channel groups in a mask. -/
def Part.chanCount (p : Part) : Nat := popcount 64 p.pchan.toNat
/-- The partitions of a package that are enabled, but one, with their numbers (R380). -/
def State.enabledOthers (s : State) (p : Nat) : List (Nat × Part) :=
  ((List.range 96).map (fun q => (p / 96 * 96 + q, s.partAt (p / 96 * 96 + q)))).filter (fun x => x.1 ≠ p && x.2.en)
/-- Two cluster ranges meet. -/
def rangesMeet (a b : Part) : Bool := decide (a.cbase ≤ b.clim) && decide (b.cbase ≤ a.clim)
/-- The checks of R380 in order: the code of the first that refuses a partition written as `x`. -/
def State.enableCheck (s : State) (p : Nat) (x : Part) : Option Nat :=
  let others := s.enabledOthers p
  let shared := fun (y : Part) => x.colours &&& y.colours ≠ 0
  firstBad [
    (decide (x.clim < x.cbase), 1),
    (x.tsg = 0 && others.any (fun y => rangesMeet x y.2), 2),
    (x.tsg ≠ 0 && others.any (fun y => rangesMeet x y.2 && !(y.2.tsg = x.tsg && y.2.pclu = x.pclu)), 3),
    (x.colours = 0, 4),
    (x.strict && others.any (fun y => shared y.2), 5),
    (others.any (fun y => y.2.strict && shared y.2) ||
      (List.range 128).any (fun c => bitAt x.colours c && decide (4 ≤ (others.filter (fun y => bitAt y.2.colours c)).length)), 6),
    (x.pchan = 0, 7),
    (bandWeight x.pband = 0 || (bandCeil x.pband ≠ 0 && decide (bandCeil x.pband < bandFloor x.pband)), 8),
    ((List.range 64).any (fun g => decide (737280 < (((x :: others.map (·.2)).filter (fun y => y.pchan.getLsbD g)).map (fun y =>
      bandFloor y.pband * 1000 / y.chanCount)).sum)), 9)]
/-- Work that keeps a partition enabled (R380 code 0x0A): a team, a launch accepted, a taken packet. -/
def State.partBusy (s : State) (p : Nat) : Bool :=
  s.teams.any (fun t => t.partKey = p) || s.launches.any (fun x => x.part = p && (x.stage = .accepted || x.slot.isSome)) || s.packets.any (fun x => x.part = p)
/-- A member enabled (R385): the first of its group becomes active, a later one is saved until its turn. -/
def State.joinGroup (s : State) (p : Nat) (x : Part) : State :=
  if x.tsg = 0 then s
  else if (s.pkgAt (p / 96)).groups.any (fun g => g.num = x.tsg) then s.modPart p (fun x => { x with phase := .saved })
  else s.modPkg (p / 96) (fun k => { k with groups := k.groups ++ [{ num := x.tsg, active := p % 96, since := s.now }] })
/-- A member disabled: a group without members goes. -/
def State.leaveGroup (s : State) (p : Nat) : State :=
  let g := (s.partAt p).tsg
  if (s.enabledOthers p).any (fun y => y.2.tsg = g) then s
  else s.modPkg (p / 96) (fun k => { k with groups := k.groups.filter (fun x => x.num ≠ g) })
/-- $PCTL written (R379, R380, R430). -/
def State.setPctl (s : State) (p : Nat) (v : Nat) : State :=
  let x := s.partAt p
  let same := decide (v % 256 / 2 % 2 = (if x.strict then 1 else 0)) && decide (bits v 7 4 = x.tsg)
  let y := { x with pctl := BitVec.ofNat 16 (v % 2 + 2 * (v / 2 % 2) + 16 * bits v 7 4) }
  if x.en then
    (if v % 2 = 1 then s.modPart p (·.refuse (if same then 0 else 0x0B))
    else if s.partBusy p then s.modPart p (·.refuse 0x0A)
    else (s.leaveGroup p).modPart p (fun x => { x with pctl := x.pctl &&& 0xFFFE }.refuse (if same then 0 else 0x0B)))
  else if v % 2 = 0 then s.modPart p (fun x => y.refuse (x.pctl.toNat / 256))
  else match s.enableCheck p y with
    | some code => s.modPart p (·.refuse code)
    | none => (s.modPart p (fun _ => y)).joinGroup p y
/-- $PBAND written (R379, R380): the band in force changes at the next window. -/
def State.setPband (s : State) (p : Nat) (v : Nat) : State :=
  let x := s.partAt p
  let y := { x with pband := BitVec.ofNat 40 v, pbandOld := some (x.pbandOld.getD x.pband) }
  if !x.en then s.modPart p (fun _ => y)
  else match s.enableCheck p y with
    | some code => s.modPart p (·.refuse code)
    | none => s.modPart p (fun _ => y.refuse 0)
/-- Every LLC line of a partition written back and invalidated (R428). -/
def State.flushPart (s : State) (p : Nat) : State :=
  let k := p / 96
  let mine := fun (b : CByte) => b.sp = p || s.homePart p b.ia = some b.sp
  let bs := (s.pkgAt k).llc.filter mine
  let s := bs.foldl (fun t b => if b.st ≠ .owned then t
    else if homePkg b.ia = k then (t.backHome k { b with pt := .core }).backHome k { b with pt := .pod } else t.backPeer k b) s
  s.modPkg k (fun q => { q with llc := q.llc.filter (fun b => !mine b) })
/-- A set that is a nonempty subset of another. -/
def narrows (new old : Nat) : Bool := new ≠ 0 && (new &&& old) = new
/-- $PCLU written (R379, R428, R429). -/
def State.setPclu (s : State) (p : Nat) (v : Nat) : State :=
  let x := s.partAt p
  let y := { x with pclu := BitVec.ofNat 15 (v % 128 + 256 * bits v 14 8), lastCluster := none }
  if !x.en then s.modPart p (fun _ => y)
  else if !(decide (x.cbase ≤ y.cbase) && decide (y.clim ≤ x.clim) && decide (y.cbase ≤ y.clim)) then s.modPart p (·.refuse 0x0B)
  else if s.teams.any (fun t => t.partKey = p && (decide (t.core / 4 < y.cbase) || decide (y.clim < t.core / 4))) then
    s.modPart p (·.refuse 0x0C)
  else s.modPart p (fun _ => y)
/-- $PCOL0 or $PCOL1 written (R379, R428). -/
def State.setPcol (s : State) (p : Nat) (high : Bool) (v : Dword) : State :=
  let x := s.partAt p
  let y := if high then { x with pcol1 := v } else { x with pcol0 := v }
  if !x.en then s.modPart p (fun _ => y)
  else if narrows y.colours x.colours then
    (s.flushPart p).modPart p (fun x => if high then { x with pcol1 := v } else { x with pcol0 := v })
  else s.modPart p (·.refuse 0x0B)
/-- $PCHAN written (R379, R428). -/
def State.setPchan (s : State) (p : Nat) (v : Dword) : State :=
  let x := s.partAt p
  if !x.en || narrows v.toNat x.pchan.toNat then s.modPart p (fun x => { x with pchan := v }) else s.modPart p (·.refuse 0x0B)
/-- $QDESC written for the selected slot (R382): a QUOTA of 0 is stored as 1. -/
def State.setQdesc (s : State) (p : Nat) (v : Nat) : State :=
  s.modPart p (fun x =>
    let v := v % 16 + 128 * bits v 55 7 + 2 ^ 56 * (if bits v 63 56 = 0 then 1 else bits v 63 56)
    { x with qdesc := x.qdesc.set x.qsel (BitVec.ofNat 64 v), slotBad := x.slotBad.filter (· ≠ x.qsel) })
/-- $QENG written for the selected slot (R378). -/
def State.setQeng (s : State) (p : Nat) (v : Nat) : State :=
  s.modPart p (fun x => { x with qeng := x.qeng.set x.qsel (BitVec.ofNat 48 v) })

/-- Bytes written by hardware at a scope point, from a package and on behalf of a partition. -/
def State.agentStore (s : State) (pkg part ia : Nat) (pt : Point) (bs : List Byte) : State :=
  (((if pkg = homePkg ia then s.endIngress pkg (s.space part ia) ia bs.length else s).writeRange (agentCore pkg) (s.space part ia) ia pt bs).cleanWords (s.space part ia) ia bs.length).touchPage part ia
/-- A meter advanced (R392). -/
def State.meter (s : State) (p m n : Nat) : State :=
  if n = 0 then s else s.modPart p (fun x => { x with meters := x.meters.set m (x.meters.getD m 0 + BitVec.ofNat 64 n) })
/-- $CLK of a package (R23). -/
def State.clk (s : State) (pkg : Nat) : Nat := s.now - (s.pkgAt pkg).clkBase
/-- $METERm (R392). -/
def Part.meterReg (p : Part) (m : Nat) : Dword := if m = 15 then p.pclk else p.meters.getD m 0
/-- $BOOTID (R378): drawn at each cold reset, so a free value of the count of them (log 2). -/
def State.bootId (s : State) (pkg : Nat) : Dword := Config.bootId pkg (s.pkgAt pkg).boots
/-- A snapshot's first 208 bytes (R393). -/
def State.snapBytes (s : State) (p : Nat) : List Byte :=
  let x := s.partAt p
  toBytes 8 (p % 96 + 256) ++ toBytes 8 x.snapseq.toNat ++ toBytes 8 (s.clk (p / 96)) ++ toBytes 8 (s.bootId (p / 96)).toNat ++
    (List.range 16).flatMap (fun m => toBytes 8 (x.meterReg m).toNat) ++ x.digest
/-- A snapshot taken (R393, R394): the record, with SEQ and DIGEST advanced; it goes to the ring at the system point, and METER_SNAP
to the supervisor. -/
def State.snapshot (s : State) (p : Nat) : List Byte × State :=
  let x := s.partAt p
  let b := s.snapBytes p
  let d := sha384 b
  let rec_ := b ++ d
  let s := s.modPart p (fun x => { x with snapseq := x.snapseq + 1, digest := d })
  let va := x.msnapbase.toNat + 256 * (x.snapseq.toNat % 16)
  let r := if x.msnapbase = 0 then (s, 0)
    else match s.agentAccess p .user [.write] va with
      | .ok (some ia) => (s.agentStore (p / 96) p ia .system rec_, 0)
      | _ => (s, 1)
  (rec_, r.1.supervisorEvent p { cause := Cause.meterSnap, aux := BitVec.ofNat 32 r.2 })
/-- METER_SNAP (R394). -/
def execMeterSnap (pkg part : Nat) (s : State) : Outcome State Fault Refusal := .next (s.snapshot (96 * pkg + part)).2
/-- SPDM GET_MEASUREMENTS (R394, R395) of index 0x10, or 0xFF for all: a fresh snapshot. The response, signed or not, leaves the
device over DOE (log 15). -/
def execSpdmGetMeasurements (pkg part index : Nat) (_signed : Bool) (s : State) : Outcome State Fault Refusal :=
  .next (if index = 0x10 || index = 0xFF then (s.snapshot (96 * pkg + part)).2 else s)

/-- A SAVE (R350): folding starts, with the grace timer. -/
def State.preqSave (s : State) (p : Nat) : State :=
  s.modPart p (fun x => if x.phase = .running then
    { x with phase := .folding, graceEnd := some (s.now + x.grace.toNat), forced := false, forcedTeams := 0 } else x)
/-- A team as its partition resumes (R352): held ones become ready to restore, kept ones go on in place. DEDUCED (log 59): a team that a JKSAVE
holds stays, since only a JKLOAD restores it (R342). -/
def Team.resumed (t : Team) (now : Nat) : Team :=
  match t.res with
  | .jacketed n true _ => if t.jkHeld then t else { t with res := .jacketed n false true }
  | .kept => { t with
      res := .resident
      fibres := t.fibres.map (fun f => { f with stopped := none, readyAt := max f.readyAt now, readySince := max f.readyAt now }) }
  | _ => t
/-- A RESUME (R352): every held team is ready to restore, and a team kept on its core goes on. RESTORED follows with the last. -/
def State.preqResume (s : State) (p : Nat) : State :=
  if (s.partAt p).phase ≠ .saved then s
  else
    let mine := s.teams.filter (fun t => t.partKey = p)
    let away := mine.filter (fun t => match t.res with | .jacketed _ held _ => held && !t.jkHeld | _ => false)
    let s := { s with teams := s.teams.map (fun (t : Team) => if t.partKey ≠ p then t else t.resumed s.now) }
    let s := s.modPart p (fun x => { x with phase := .running, restoring := away.map (·.tid), graceEnd := none })
    if away.isEmpty && mine.any (fun t => t.res = .kept) then s.sendEvent p { cause := Cause.restored } else s
/-- The active member of a partition's group, if it is in one (R385). -/
def State.groupOf (s : State) (p : Nat) : Option Group :=
  let x := s.partAt p
  if x.tsg = 0 then none else (s.pkgAt (p / 96)).groups.find? (fun g => g.num = x.tsg)
/-- $TSACT (R378, R432). -/
def State.tsact (s : State) (p : Nat) : Nat := match s.groupOf p with | some g => g.active | none => 0x7F
/-- A SAVE that a supervisor writes (R350, R385). -/
def State.writeSave (s : State) (p : Nat) : State := (s.modPart p (fun x => { x with selfSaved := true })).preqSave p
/-- A RESUME that a supervisor writes (R352, R385): it only makes a member eligible that is not active. -/
def State.writeResume (s : State) (p : Nat) : State :=
  let s := s.modPart p (fun x => { x with selfSaved := false })
  match s.groupOf p with
  | some g => if g.active = p % 96 then s.preqResume p else s
  | none => s.preqResume p
/-- $PREQ written (R328): both bits set is ignored. -/
def State.setPreq (s : State) (p v : Nat) : State :=
  if v % 4 = 1 then s.writeSave p else if v % 4 = 2 then s.writeResume p else s
/-- PREQ_SAVE (R350). -/
def execPreqSave (pkg part : Nat) (s : State) : Outcome State Fault Refusal := .next (s.writeSave (96 * pkg + part))
/-- PREQ_RESUME (R352). -/
def execPreqResume (pkg part : Nat) (s : State) : Outcome State Fault Refusal := .next (s.writeResume (96 * pkg + part))
/-- A member that may be made active (R385, R432). -/
def State.eligible (s : State) (p : Nat) (g : Nat) : Bool :=
  let x := s.partAt p
  x.en && x.tsg = g && !x.selfSaved && x.jkbase ≠ 0
/-- The next eligible member after one, in ascending number with wrap (R385). -/
def State.nextMember (s : State) (pkg g from_ : Nat) : Option Nat :=
  ((List.range 95).map (fun i => (from_ + 1 + i) % 96)).find? (fun q => s.eligible (96 * pkg + q) g)
/-- The active member's turn ends in a rotation (R385). -/
def State.turnTo (s : State) (pkg g q : Nat) : State :=
  (s.modPkg pkg (fun k => { k with groups := k.groups.map (fun x =>
    if x.num = g then { x with active := q, since := s.now, turning := false } else x) })).preqResume (96 * pkg + q)
/-- TIME_SLICE_EXPIRY (R385): a quantum that has run saves the active member, and once it is saved the next eligible one resumes. -/
def execTimeSliceExpiry (pkg group : Nat) (s : State) : Outcome State Fault Refusal :=
  .next (match (s.pkgAt pkg).groups.find? (fun g => g.num = group) with
    | none => s
    | some g =>
      let p := 96 * pkg + g.active
      let x := s.partAt p
      match s.nextMember pkg group g.active with
      | none => if g.since + x.tsq.toNat * 3300 ≤ s.now && !g.turning then
          s.modPkg pkg (fun k => { k with groups := k.groups.map (fun y => if y.num = group then { y with since := s.now } else y) }) else s
      | some q =>
        if !x.en then s.turnTo pkg group q
        else if (g.turning || x.selfSaved) && x.phase = .saved then s.turnTo pkg group q
        else if !g.turning && !x.selfSaved && decide (g.since + x.tsq.toNat * 3300 ≤ s.now) then
          (s.modPkg pkg (fun k => { k with groups := k.groups.map (fun y => if y.num = group then { y with turning := true } else y) })).preqSave p
        else s)
/-- PARTITION_ENABLE (R380): a $PCTL write that sets EN. -/
def execPartitionEnable (pkg part : Nat) (v : Word) (s : State) : Outcome State Fault Refusal :=
  .next (if v.getLsbD 0 then s.setPctl (96 * pkg + part) v.toNat else s)
/-- PARTITION_DISABLE (R380): a $PCTL write that clears EN. -/
def execPartitionDisable (pkg part : Nat) (v : Word) (s : State) : Outcome State Fault Refusal :=
  .next (if v.getLsbD 0 then s else s.setPctl (96 * pkg + part) v.toNat)
/-- PBAND_WRITE (R380). -/
def execPbandWrite (pkg part : Nat) (v : Dword) (s : State) : Outcome State Fault Refusal :=
  .next (s.setPband (96 * pkg + part) v.toNat)
/-- A register that R428 lets a write narrow, written. -/
def State.setNarrow (s : State) (p : Nat) (field : NarrowField) (v : Dword) : State :=
  match field with
  | .pclu => s.setPclu p v.toNat
  | .pcol0 => s.setPcol p false v
  | .pcol1 => s.setPcol p true v
  | .pchan => s.setPchan p v
/-- PARTITION_NARROW (R428). -/
def execPartitionNarrow (pkg part : Nat) (field : NarrowField) (v : Dword) (s : State) : Outcome State Fault Refusal :=
  .next (s.setNarrow (96 * pkg + part) field v)
/-- QUEUE_BIND (R382). -/
def execQueueBind (pkg part : Nat) (field : BindField) (v : Dword) (s : State) : Outcome State Fault Refusal :=
  .next (match field with
    | .qdesc => s.setQdesc (96 * pkg + part) v.toNat
    | .qeng => s.setQeng (96 * pkg + part) v.toNat)
/-- The band in force (R379). -/
def Part.band (p : Part) : BitVec 40 := p.pbandOld.getD p.pband
/-- The floor share of a group in a window (R388). -/
def Part.floorShare (p : Part) : Nat := bandFloor p.band * 1000 / p.chanCount
/-- The ceiling share, none for no ceiling (R388). -/
def Part.ceilShare (p : Part) : Option Nat := if bandCeil p.band = 0 then none else some (bandCeil p.band * 1000 / p.chanCount)
/-- The bytes counted for a group in the window. -/
def Part.counted (p : Part) (g : Nat) : Nat := lookupD 0 g p.counts
/-- True where a partition had requests pending at a group through the whole window and received less than its floor share (R388). -/
def State.floorMissed (s : State) (pkg q : Nat) : Bool :=
  (s.pkgAt pkg).pressed.any (fun x => x.1 = q && decide ((s.partAt q).counted x.2 < (s.partAt q).floorShare))
/-- The pairs of a partition and a group with a request pending at a package. -/
def State.pressing (s : State) (pkg : Nat) : List (Nat × Nat) :=
  ((s.hbm.filter (fun r => r.pkg = pkg && r.group ≠ 64)).map (fun r => (r.part, r.group))).dedup
/-- BANDWIDTH_WINDOW (R388): counts start again, a written band takes effect, and FLOORX is set where a floor was missed. -/
def execBandwidthWindow (pkg : Nat) (s : State) : Outcome State Fault Refusal :=
  .next (if (s.pkgAt pkg).winStart + 3300 ≤ s.now then
    { (s.modPkg pkg (fun k => { k with winStart := s.now, pressed := s.pressing pkg })) with
      parts := s.parts.map (fun kp => if kp.1 / 96 = pkg then
        (kp.1, { kp.2 with counts := [], pbandOld := none, perr := if s.floorMissed pkg kp.1 then kp.2.perr ||| 2 else kp.2.perr }) else kp) }
    else s)
/-- The request that a group's controller starts next (R388). -/
def State.pickHbm (s : State) (pkg group : Nat) : Option HbmReq :=
  let rs := s.hbm.filter (fun r => r.pkg = pkg && r.group = group)
  if group = 64 then rs.head? else
  match rs.find? (fun r => decide ((s.partAt r.part).counted group < (s.partAt r.part).floorShare)) with
  | some r => some r
  | none =>
    let ok := rs.filter (fun r => match (s.partAt r.part).ceilShare with | some c => decide ((s.partAt r.part).counted group < c) | none => true)
    let less := fun (a b : HbmReq) =>
      let x := s.partAt a.part
      let y := s.partAt b.part
      let l := x.counted group * bandWeight y.band
      let r := y.counted group * bandWeight x.band
      decide (l < r) || (l = r && decide (a.part < b.part))
    ok.foldl (fun acc r => match acc with | some a => if less r a then some r else acc | none => some r) none
/-- HBM_REQUEST_START (R388, R392); the group 64 stands for tiers 3 and 4. -/
def execHbmRequestStart (pkg group : Nat) (s : State) : Outcome State Fault Refusal :=
  .next (match s.pickHbm pkg group with
    | none => s
    | some r =>
      if group = 64 then { s with hbm := s.hbm.erase r }.meter r.part 11 128 else
      let s := { s with hbm := s.hbm.erase r }
      let s := s.modPkg pkg (fun k => { k with pressed := k.pressed.filter (fun x => x ≠ (r.part, group) || (s.pressing pkg).contains x) })
      (s.modPart r.part (fun x => { x with counts := insertAt group (x.counted group + 128) x.counts })).meter
        r.part (if r.write then 7 else 6) 128)

end Sys2Proof.Machine
end

