-- ==== Sys2Proof/Machine/Tiers.lean ====
section
/-! DEFINITION. Tiers and memory lending: the tier clock and demotion (R368 to R371), and leases with their recall and spill (R372
to R376). -/

namespace Sys2Proof.Machine

open Host (Outcome)

/-- n bytes of a package's own memory at the system point, as a number. -/
def State.phys (s : State) (pkg a n : Nat) : Nat := ofBytes (Memory.read s.mem (physKey 1 pkg a) n)
/-- n bytes written there by an atomic at the system point (R369, R372). -/
def State.setPhys (s : State) (pkg a n v : Nat) : State := s.writePhys (physKey 1 pkg a) (toBytes n v)

/-- The address of a tier's descriptor; zero where the tier is absent (R369). -/
def State.tierDesc (s : State) (pkg tier : Nat) : Nat := (((s.pkgAt pkg).tdesc.getD (tier - 1) 0).toNat)
/-- The address of a record of a tier's frame map (R369). -/
def State.frameRec (s : State) (pkg tier n : Nat) : Nat := s.phys pkg (s.tierDesc pkg tier + 0x18) 8 / 32 * 32 + 32 * n
/-- A frame record (R369). -/
structure Frame where
  owned : Bool
  addr : Nat
  lender : Nat
  leaf : Nat
  page : Nat
  part : Nat
  deriving DecidableEq, Repr
/-- A record read. -/
def State.frame (s : State) (pkg tier n : Nat) : Frame :=
  let a := s.frameRec pkg tier n
  let w := s.phys pkg a 8
  { owned := bitAt w 0, addr := bits w 51 16 * 65536, lender := bits w 59 52, leaf := s.phys pkg (a + 8) 8 / 8 * 8 % 2 ^ 52
    page := bits (s.phys pkg (a + 16) 8) 59 16, part := s.phys pkg (a + 24) 1 }
/-- NFRAME of a tier. -/
def State.nframe (s : State) (pkg tier : Nat) : Nat := s.phys pkg (s.tierDesc pkg tier) 4
/-- USED of a tier changed. -/
def State.addUsed (s : State) (pkg tier : Nat) (up : Bool) : State :=
  let a := s.tierDesc pkg tier + 4
  s.setPhys pkg a 4 (if up then s.phys pkg a 4 + 1 else s.phys pkg a 4 - 1)
/-- The lowest-numbered free record of a tier (R371). -/
def State.freeFrame (s : State) (pkg tier : Nat) : Option Nat :=
  if s.tierDesc pkg tier = 0 then none else (List.range (s.nframe pkg tier)).find? (fun n => !(s.frame pkg tier n).owned)
/-- The nearest lower tier with a free frame, and the frame (R368). -/
def State.demoteTo (s : State) (pkg tier : Nat) : Option (Nat × Nat) :=
  ([2, 3, 4].filter (fun t => decide (tier < t))).findSome? (fun t => (s.freeFrame pkg t).map (fun n => (t, n)))
/-- A page taken out of every translation cache of its package (R370, R371, R340). -/
def State.dropTlb (s : State) (sp page : Nat) : State :=
  s.modPkg (sp / 96) (fun p => { p with tlb := p.tlb.filter (fun c => !(c.part = sp && c.page = page % 2 ^ 36)) })
/-- The leaf of a frame's page, where it is a 64 KiB leaf at the address that the record gives. -/
def State.frameLeaf (s : State) (pkg : Nat) (f : Frame) : Option Nat :=
  match s.walk (96 * pkg + f.part) (f.page * 65536 % 2 ^ 52) with
  | .leaf e addr 0 => if addr = f.leaf then some e else none
  | _ => none
/-- The tier clock examines one record (R370): a victim, or the leaf aged. -/
def State.examine (s : State) (pkg tier n : Nat) : State :=
  let f := s.frame pkg tier n
  let s := s.flushPhys (physKey 1 pkg f.leaf) 8
  let d := s.tierDesc pkg tier
  let next := s.setPhys pkg (d + 0x20) 4 (if s.nframe pkg tier ≤ n + 1 then 0 else n + 1)
  if !f.owned then next
  else match s.frameLeaf pkg f with
    | none => next
    | some e =>
      if bitAt e 7 || bitAt e 19 then next
      else
        let age := if bitAt e 6 then 0 else min (bits e 15 8 + 1) 255
        let e' := e - e % 65536 + (e % 256 - (if bitAt e 6 then 64 else 0)) + 256 * age
        let s' := next.updateEntry (physKey 1 pkg f.leaf) (fun _ => e')
        let s' := if bitAt e 6 then s'.dropTlb (96 * pkg + f.part) f.page else s'
        if s.phys pkg (d + 0x10) 1 ≤ age then s'.modPkg pkg (fun p => { p with victims := p.victims ++ [(tier, n, none)] }) else s'
/-- While USED exceeds HI, and until it is at most LO, the clock of a tier advances by one record (R370). A victim waits for one of the
tier's four engines. -/
def State.tierClock (s : State) (pkg tier : Nat) : State :=
  let d := s.tierDesc pkg tier
  let used := s.phys pkg (d + 4) 4
  let on := (s.pkgAt pkg).demoting.contains tier
  if (s.pkgAt pkg).down || tier = 0 || decide (3 < tier) || d = 0 || s.nframe pkg tier = 0 then s
  else if on && decide (used ≤ s.phys pkg (d + 0x0C) 4) then s.modPkg pkg (fun p => { p with demoting := p.demoting.filter (· ≠ tier) })
  else if !on && decide (used ≤ s.phys pkg (d + 8) 4) then s
  else if 4 ≤ ((s.pkgAt pkg).victims.filter (fun v => v.1 = tier)).length then s
  else (s.modPkg pkg (fun p => if on then p else { p with demoting := p.demoting ++ [tier] })).examine pkg tier
    (s.phys pkg (d + 0x20) 4 % s.nframe pkg tier)
/-- TIER_CLOCK_STEP (R370). -/
def execTierClockStep (pkg tier : Nat) (s : State) : Outcome State Fault Refusal := .next (s.tierClock pkg tier)
/-- The clocks of a package's tiers, each by one record (R370). The manual gives no rate; one record in a clk is this model's (log 50). -/
def State.tierClocks (s : State) (pkg : Nat) : State := [1, 2, 3].foldl (fun t tier => t.tierClock pkg tier) s

/-- Owned bytes of a page, in every cache that its home's registries name, written to memory: the system point draws them in (R371), and the
page's ingress atomic lines are written back (R408). -/
def State.drawPage (s : State) (sp page : Nat) : State :=
  let h := sp / 96
  let s := s.endIngress h sp (65536 * page) 65536
  let mine := fun (wide : Bool) (b : CByte) => b.sp = sp && pageOf b.ia = page && b.isOwned && (b.pt.wide || (!wide && b.pt ≠ .core))
  let ias := s.cores.flatMap (fun kc => (kc.2.l1.filter (mine (corePkg kc.1 ≠ h))).map (·.ia)) ++
    s.pkgs.flatMap (fun kp => (kp.2.llc.filter (mine (kp.1 ≠ h))).map (·.ia))
  ias.foldl (fun t a => (t.drawIn h sp a).flushSys sp a) s
/-- 64 KiB of memory copied from one physical place to another, with its poison (R371, R375, R418). -/
def State.copyPage (s : State) (src dst : Nat) : State :=
  let from_ := s.mem.filter (fun c => decide (src ≤ c.1) && decide (c.1 < src + 65536))
  let bad := (s.poison.filter (fun w => decide (src / 4 ≤ w) && decide (w < src / 4 + 16384))).map (fun w => w - src / 4 + dst / 4)
  { s with
    mem := from_.foldl (fun m c => Memory.set m (c.1 - src + dst) c.2) (Memory.clear s.mem dst (dst + 65536))
    poison := s.poison.filter (fun w => !(decide (dst / 4 ≤ w) && decide (w < dst / 4 + 16384))) ++ bad }
/-- Each poisoned line of a page copied is written into the colophon (R371, R419); the record's CAUSE, VALUE and AUX are not stated, so
they are free values (log 2). -/
def State.logPoison (s : State) (pkg part src : Nat) : State :=
  let lines := dedup ((s.poison.filter (fun w => decide (src / 4 ≤ w) && decide (w < src / 4 + 16384))).map (fun w => w / 32))
  lines.foldl (fun t _ => ({ t with freeCtr := t.freeCtr + 1 }).modPkg pkg (fun p => p.record t.now part
    { cause := BitVec.ofNat 7 (Config.freeNat t.freeCtr 0), value := BitVec.ofNat 64 (Config.freeNat t.freeCtr 1)
      aux := BitVec.ofNat 32 (Config.freeNat t.freeCtr 2) })) s
/-- 128-byte requests for a page of tier 1 (R388), or bytes counted in tiers 3 and 4 (R392). -/
def State.countPage (s : State) (pkg part tier key : Nat) (write : Bool) : State :=
  if tier = 1 then { s with hbm := s.hbm ++ (List.range 512).map (fun i => ⟨pkg, bits key 21 16, key / 128 + i, part, write⟩) }
  else if 3 ≤ tier then s.meter part 11 65536 else s

/-- A lease's copy changed at a package, its STATE in the table with it (R372: written by hardware). -/
def State.setLease (s : State) (pkg index state : Nat) : State :=
  let a := (s.pkgAt pkg).ltbase.toNat / 4096 * 4096 % 2 ^ 52 + 64 * index
  let s := s.setPhys pkg a 1 (s.phys pkg a 1 / 8 * 8 + state)
  s.modPkg pkg (fun p => { p with
    leases := if state = 0 then p.leases.filter (fun x => x.index ≠ index)
      else p.leases.map (fun x => if x.index = index then { x with state := state } else x) })
/-- The lease record of an index as it stands in the table (R372). -/
def State.readLease (s : State) (pkg index : Nat) : Lease :=
  let a := (s.pkgAt pkg).ltbase.toNat / 4096 * 4096 % 2 ^ 52 + 64 * index
  let f := fun o n => s.phys pkg (a + o) n
  { index := index, state := f 0 1 % 8, role := bits (f 0 1) 3 3, lid := f 2 2, peer := f 4 1, nreg := f 5 1 % 128
    window := f 8 8 / 2 ^ 30 * 2 ^ 30 % 2 ^ 52, deadline := f 0x10 8, spill := f 0x18 8 / 2 ^ 30 * 2 ^ 30 % 2 ^ 52, sptier := f 0x20 1 % 8
    map := f 0x28 8 / 4096 * 4096 % 2 ^ 52, start := f 0x30 8 }
/-- The record of a lease that another package's names (R372): the same LID, NREG and WINDOW, the other role, each the other's PEER. -/
def State.peerLease (s : State) (pkg : Nat) (x : Lease) : Option Lease :=
  (s.pkgAt x.peer).leases.find? (fun y => y.lid = x.lid && y.nreg = x.nreg && y.window = x.window && y.role ≠ x.role && y.peer = pkg)
/-- A package's record of a lease by LID and the other package. -/
def State.leaseBy (s : State) (pkg peer lid : Nat) : Option Lease := (s.pkgAt pkg).leases.find? (fun x => x.lid = lid && x.peer = peer)
/-- LEASE_RECALL at a package's monitor queue and, at the borrower, at the supervisors of the partitions that own a page of the window
(R374, R375). -/
def State.recallEvents (s : State) (pkg : Nat) (x : Lease) (aux : Nat) : State :=
  let e : Event := { cause := Cause.leaseRecall, aux := BitVec.ofNat 32 aux, value := BitVec.ofNat 64 x.window }
  let s := s.monitorEvent pkg e
  if x.role = 0 || s.tierDesc pkg 2 = 0 then s
  else
    let owners := dedup (((List.range (s.nframe pkg 2)).map (s.frame pkg 2)).filterMap (fun f =>
      if f.owned && f.lender = x.peer && x.holds f.addr then some f.part else none))
    owners.foldl (fun t q => t.supervisorEvent (96 * pkg + q) e) s
/-- Bytes of a lender's bitmap (R372). -/
def Lease.mapBytes (x : Lease) : Nat := 2048 * x.nreg
/-- True when every bit of a lender's bitmap is clear. -/
def State.mapClear (s : State) (pkg : Nat) (x : Lease) : Bool :=
  !s.mem.any (fun c => decide (physKey 1 pkg x.map ≤ c.1) && decide (c.1 < physKey 1 pkg x.map + x.mapBytes))
/-- A recalling lender whose bitmap is clear returns the lease (R374). -/
def State.tryReturn (s : State) (pkg : Nat) (x : Lease) : State :=
  if !s.mapClear pkg x then s
  else ((s.setLease pkg x.index 6).recallEvents pkg x 1).send pkg x.peer (.lease 5 x.lid 0)
/-- A LEASE message applied at its destination (R373 to R375, R407): 1 offered, 2 active, 3 recalled, 4 a page returned, 5 returned,
6 spilling, 7 revoked. -/
def State.leaseArrive (s : State) (src dst op lid page : Nat) : State :=
  match s.leaseBy dst src lid with
  | none => s
  | some x =>
    if op = 1 then
      (if x.state = 1 && (s.peerLease dst x).isSome then (s.setLease dst x.index 2).send dst src (.lease 2 lid 0) else s)
    else if op = 2 then (if x.state = 1 then s.setLease dst x.index 2 else s)
    else if op = 3 && x.role = 1 && x.state = 2 then
      let r := s.readLease dst x.index
      let s := s.modPkg dst (fun p => { p with leases := p.leases.map (fun y => if y.index = x.index then { r with state := 3 } else y) })
      (s.setLease dst x.index 3).recallEvents dst x 0
    else if op = 4 && x.role = 0 && (x.state = 3 || x.state = 4) then
      let a := x.map + page / 8
      let s := s.setPhys dst a 1 (let b := s.phys dst a 1; if bitAt b (page % 8) then b - 2 ^ (page % 8) else b)
      if x.state = 3 then s.tryReturn dst x else s
    else if op = 5 then (s.setLease dst x.index 6).recallEvents dst x 1
    else if op = 6 then s.setLease dst x.index 4
    else if op = 7 then
      let s := (s.setLease dst x.index 5).recallEvents dst x 2
      let held := (s.regs.filter (fun r => r.parked.isSome && r.entry.sp / 96 = dst)).map (fun r => (r.entry.sp, pageOf r.entry.ia)) ++
        s.agentParks.map (fun a => (a.1, a.2.1)) ++ s.cmds.filterMap (fun c => c.parked.map (fun x => (x.1, x.2.1)))
      held.foldl (fun t p => if p.1 / 96 = dst then t.pageReady p.1 p.2 else t) s
    else s
/-- An open command (R373). -/
def State.leaseOpen (s : State) (pkg index : Nat) : State :=
  if (s.pkgAt pkg).leases.any (fun x => x.index = index) || decide (64 ≤ index) then s
    else
      let x := s.readLease pkg index
      if x.state ≠ 0 then s
      else
        let s := s.modPkg pkg (fun p => { p with leases := p.leases ++ [{ x with state := 1 }] })
        (s.setLease pkg index 1).send pkg x.peer (.lease 1 x.lid 0)
/-- A recall command (R373, R374). -/
def State.leaseRecall (s : State) (pkg index : Nat) : State :=
  match (s.pkgAt pkg).leases.find? (fun x => x.index = index) with
    | none => s
    | some x =>
      if x.state ≠ 2 || x.role ≠ 0 then s
      else
        let clk := s.clk pkg
        let a := (s.pkgAt pkg).ltbase.toNat / 4096 * 4096 % 2 ^ 52 + 64 * index
        let s := s.setPhys pkg (a + 0x30) 8 clk
        let r := { s.readLease pkg index with state := 3, start := clk }
        let s := s.modPkg pkg (fun p => { p with leases := p.leases.map (fun y => if y.index = index then r else y) })
        let s := (((s.setLease pkg index 3).recallEvents pkg r 0).send pkg r.peer (.lease 3 r.lid 0))
        s.tryReturn pkg r
/-- A close command (R373). -/
def State.leaseClose (s : State) (pkg index : Nat) : State :=
  match (s.pkgAt pkg).leases.find? (fun x => x.index = index) with
    | none => s
    | some x => if x.state = 5 || x.state = 6 then s.setLease pkg index 0 else s
/-- LEASE_OPEN (R373). -/
def execLeaseOpen (pkg index : Nat) (s : State) : Outcome State Fault Refusal := .next (s.leaseOpen pkg index)
/-- LEASE_RECALL_CMD (R373, R374). -/
def execLeaseRecallCmd (pkg index : Nat) (s : State) : Outcome State Fault Refusal := .next (s.leaseRecall pkg index)
/-- LEASE_CLOSE (R373). -/
def execLeaseClose (pkg index : Nat) (s : State) : Outcome State Fault Refusal := .next (s.leaseClose pkg index)
/-- $LTCMD written (R373). -/
def State.setLtcmd (s : State) (pkg v : Nat) : State :=
  if bits v 9 8 = 1 then s.leaseOpen pkg (v % 64)
  else if bits v 9 8 = 2 then s.leaseRecall pkg (v % 64)
  else if bits v 9 8 = 3 then s.leaseClose pkg (v % 64)
  else s

/-- The recalled lease whose window holds a frame of tier 2 (R374). -/
def State.recalled (s : State) (pkg tier : Nat) (f : Frame) : Option Lease :=
  if tier ≠ 2 then none
  else (s.pkgAt pkg).leases.find? (fun x => x.role = 1 && (x.state = 3 || x.state = 4) && x.peer = f.lender && x.holds f.addr)
/-- The first steps of a demotion (R371): MIG set and the page taken out of the caches, or the victim let go where no tier has a free
frame. -/
def State.beginDemote (s : State) (pkg tier n : Nat) (f : Frame) (e : Nat) : State :=
  let rest := (s.pkgAt pkg).victims.filter (fun v => !(v.1 = tier && v.2.1 = n))
  match s.demoteTo pkg tier with
  | none => s.modPkg pkg (fun p => { p with victims := rest })
  | some _ =>
    if bitAt e 19 then s
    else ((s.updateEntry (physKey 1 pkg f.leaf) (fun _ => e + 2 ^ 19)).dropTlb (96 * pkg + f.part) f.page).modPkg pkg (fun p =>
      { p with victims := rest ++ [(tier, n, some e)] })
/-- Where a migration engine finds the bytes of a page, by its leaf: no channel mask and no permission stands before it (R360, R371). -/
def State.leafPlace (s : State) (pkg e : Nat) : Option Nat :=
  let pa := leafPhys e 0 0
  if bits e 18 16 = 2 then (match s.lentPlace false pkg (bits e 27 20) pa with | .place k => some k | _ => none)
  else some (physKey (bits e 18 16) pkg pa)
/-- The copy and the new leaf of a demotion (R371 steps 2 to 4). -/
def State.endDemote (s : State) (pkg tier n : Nat) (f : Frame) (e : Nat) : State :=
  let sp := 96 * pkg + f.part
  let rest := (s.pkgAt pkg).victims.filter (fun v => !(v.1 = tier && v.2.1 = n))
  match s.demoteTo pkg tier, s.leafPlace pkg e with
  | some (t, m), some src =>
    let g := s.frame pkg t m
    let dst := if t = 2 then physKey 1 g.lender g.addr else physKey t pkg g.addr
    let s := s.drawPage sp f.page
    let s := (((s.logPoison pkg f.part src).copyPage src dst).countPage pkg sp tier src false).countPage pkg sp t dst true
    let leaf := e % 256 + 2 ^ 16 * t + (if t = 2 then 2 ^ 20 * g.lender else 0) + g.addr / 65536 * 2 ^ 28
    let s := (s.updateEntry (physKey 1 pkg f.leaf) (fun _ => leaf)).dropTlb sp f.page
    let old := s.frameRec pkg tier n
    let new := s.frameRec pkg t m
    let s := (s.setPhys pkg old 8 (s.phys pkg old 8 / 2 * 2)).addUsed pkg tier false
    let s := (((s.setPhys pkg new 8 (s.phys pkg new 8 / 2 * 2 + 1)).setPhys pkg (new + 8) 8 f.leaf).setPhys pkg (new + 16) 8
      (f.page * 65536)).setPhys pkg (new + 24) 1 f.part
    let s := ((s.addUsed pkg t true).modPkg pkg (fun p => { p with victims := rest })).pageReady sp f.page
    let s := s.supervisorEvent sp { cause := Cause.tierDemote, aux := BitVec.ofNat 32 t, value := BitVec.ofNat 64 (f.page * 65536) }
    match s.recalled pkg tier f with
    | some x => s.send pkg x.peer (.lease 4 x.lid ((f.addr - x.window) / 65536))
    | none => s
  | _, _ => ((s.updateEntry (physKey 1 pkg f.leaf) (fun _ => e)).modPkg pkg (fun p => { p with victims := rest })).pageReady sp f.page
/-- True while a tile holds the translation of one of n pages of a space, from its probe until its unclasp (R213, R340). -/
def State.pagesHeld (s : State) (sp page n : Nat) : Bool :=
  s.reqs.any (fun q => (q.kind = .tileLoad || q.kind = .tileStore) && !q.moved &&
    q.segs.any (fun x => x.1 = sp && overlaps (65536 * page) (65536 * n) x.2.1 x.2.2)) ||
  s.pkgs.any (fun kp => kp.2.clasps.any (fun c => c.held && c.sp = sp && decide (page ≤ pageOf (c.line * 128)) && decide (pageOf (c.line * 128) < page + n)))
/-- PAGE_DEMOTE (R371, R374): a victim of the clock, or any page of a recalled window; first MIG, and once no tile holds the page, the
copy. -/
def execPageDemote (pkg tier record : Nat) (s : State) : Outcome State Fault Refusal :=
  let f := s.frame pkg tier record
  let s := if f.owned then s.flushPhys (physKey 1 pkg f.leaf) 8 else s
  let sp := 96 * pkg + f.part
  let v := (s.pkgAt pkg).victims.find? (fun v => v.1 = tier && v.2.1 = record)
  .next (
    if (s.pkgAt pkg).down then s
    else if s.tierDesc pkg tier = 0 || !f.owned then s.modPkg pkg (fun p =>
      { p with victims := p.victims.filter (fun v => !(v.1 = tier && v.2.1 = record)) })
    else match v, s.frameLeaf pkg f with
      | some (_, _, some e), _ =>
        if s.pagesHeld sp f.page 1 then s
        else s.endDemote pkg tier record f e
      | some (_, _, none), some e => s.beginDemote pkg tier record f e
      | some _, none => s.modPkg pkg (fun p => { p with victims := p.victims.filter (fun v => !(v.1 = tier && v.2.1 = record)) })
      | none, some e => if (s.recalled pkg tier f).isSome then s.beginDemote pkg tier record f e else s
      | none, none => s)
/-- The pages whose bit is set in a lender's bitmap, in ascending order. -/
def State.mapPages (s : State) (pkg : Nat) (x : Lease) : List Nat :=
  let a := physKey 1 pkg x.map
  (s.mem.filter (fun c => decide (a ≤ c.1) && decide (c.1 < a + x.mapBytes))).flatMap (fun c =>
    ((List.range 8).filter (fun i => bitAt c.2.toNat i)).map (fun i => 8 * (c.1 - a) + i))
/-- The borrower's pages that lie in frames of a window, drawn in before the spill copies them (R375). -/
def State.drawLent (s : State) (borrower : Nat) (x : Lease) : State :=
  if s.tierDesc borrower 2 = 0 then s
  else ((List.range (s.nframe borrower 2)).map (s.frame borrower 2)).foldl (fun t f =>
    if f.owned && x.holds f.addr then t.drawPage (96 * borrower + f.part) f.page else t) s
/-- True while a tile of the borrower holds a page that lies in a window (R213). -/
def State.tilesIn (s : State) (lender : Nat) (x : Lease) : Bool :=
  s.reqs.any (fun q => (q.kind = .tileLoad || q.kind = .tileStore) && !q.moved && q.segs.any (fun g =>
    match s.walk g.1 (iaOff g.2.1) with
    | .leaf e _ lvl => bits e 18 16 = 2 && bits e 27 20 = lender && g.1 / 96 = x.peer && x.holds (leafPhys e lvl (iaOff g.2.1))
    | _ => false))
/-- LEASE_SPILL (R375): past its deadline the lease spills; then each page whose bit is set is copied to the spill area, and the lease
is revoked. -/
def execLeaseSpill (pkg index : Nat) (s : State) : Outcome State Fault Refusal :=
  .next (match (s.pkgAt pkg).leases.find? (fun x => x.index = index) with
    | none => s
    | some x =>
      let limit := x.start + (if x.deadline = 0 then 1031250 * x.nreg else x.deadline)
      if x.role ≠ 0 then s
      else if x.state = 3 then
        (if limit ≤ s.clk pkg && !s.mapClear pkg x then (s.setLease pkg index 4).send pkg x.peer (.lease 6 x.lid 0) else s)
      else if x.state = 4 then
        if s.tilesIn pkg x then s else
        let y := (s.peerLease pkg x).getD x
        let s := s.drawLent x.peer x
        let s := (s.mapPages pkg x).foldl (fun t p =>
          t.copyPage (physKey 1 pkg (x.window + 65536 * p)) (physKey y.sptier x.peer (y.spill + 65536 * p))) s
        ((s.setLease pkg index 5).recallEvents pkg x 2).send pkg x.peer (.lease 7 x.lid 0)
      else s)

end Sys2Proof.Machine
end

