-- ==== Sys2Proof/Machine/Jacket.lean ====
section
/-! DEFINITION. Jackets: waiting teams (R64), the frame (R344 to R346), saving and restoring (R65, R66, R347 to R349), the deadlock of
GROW (R69), and pre-emption through fold points and the grace timer (R350 to R352). -/

namespace Sys2Proof.Machine

open Host (Outcome)

/-- A fibre suspended in Wait whose condition has not come true (R64). -/
def Fibre.waiting (f : Fibre) : Bool := f.parked && !f.halted
/-- A team that is waiting (R64): its wait timer runs. -/
def Team.waiting (t : Team) : Bool := t.res = .resident && t.waitSince.isSome
/-- A fibre of the team runs at monitor privilege (R348). -/
def Team.monitored (t : Team) : Bool := t.fibres.any (fun f => f.level = .monitor)
/-- Frames of a partition's area in use by a core (R344, R347). -/
def State.framesOf (s : State) (ck part : Nat) : List Nat :=
  s.teams.filterMap (fun t => if t.coreKey = ck && t.partKey = part then (match t.res with | .jacketed n _ _ => some n | _ => none) else none)
/-- The lowest free frame (R344). -/
def State.freeJacket (s : State) (ck part : Nat) : Option Nat := (List.range 96).find? (fun n => !(s.framesOf ck part).contains n)
/-- The virtual address of a frame (R344). -/
def State.frameVa (s : State) (t : Team) (n : Nat) : Nat :=
  (s.partAt t.partKey).jkbase.toNat / 2 ^ 22 * 2 ^ 22 + 2 ^ 22 * (96 * t.core + n)
/-- FRAME_FULL for a team's supervisor (R347). -/
def State.frameFull (s : State) (t : Team) : State := s.supervisorEvent t.partKey (t.event 0 Cause.frameFull 0 0)

/-- STATE of a fibre that waits on something (R346). -/
def WaitOn.code : WaitOn → Nat
  | .sleep _ => 3 | .counter .. => 4 | .future .. => 5 | .barrier .. => 6 | .memBarrier .. => 6 | .phaser .. => 7
  | .memPhaser .. => 7 | .parked _ => 8 | .grow _ => 9 | .fork .. => 9 | .wfe => 10 | .leaf .. => 11 | .ldn _ => 12
  | .answer _ => 0 | .failed .. => 0
/-- STATE of a fibre record (R346). -/
def Fibre.stateCode (f : Fibre) : Nat :=
  if f.stopped.any (·.isSome) then 1
  else if f.gathered then 2
  else match f.wait with
    | some ⟨on, false, _⟩ => on.code
    | _ => 0
/-- SAVED of a fibre (R350): LIVE at a fold point, else the whole window. -/
def Fibre.saved (f : Fibre) : Nat :=
  match f.stopped with
  | some (some live) => min live f.regs.length
  | _ => f.regs.length
/-- A fibre record (R346). -/
def Fibre.record (f : Fibre) (now : Nat) : List Byte :=
  let fold := f.stopped.any (·.isSome)
  let word := fun (w : Word) => toBytes 4 (if fold then 0 else w.toNat)
  let copy := fun (r : TrapRegs) => toBytes 8 r.epc.toNat ++ toBytes 8 r.val.toNat
  let tail := fun (r : TrapRegs) (l : Level) (more : Nat) => toBytes 8 (r.cause.toNat + 2 ^ 8 * (f.tstat l).toNat + more)
  let wait := match f.wait with
    | some ⟨.sleep till, false, _⟩ => till - now
    | some ⟨_, false, _⟩ => f.waitAt.toNat
    | _ => 0
  toBytes 8 f.pc.toNat ++
  toBytes 8 (f.preds.toNat + 2 ^ 16 * (f.regs.length / 16) + 2 ^ 21 * f.level.num + 2 ^ 23 * f.stateCode + 2 ^ 32 * f.saved) ++
  f.ops.flatMap word ++ word f.y0 ++ word f.y1 ++ toBytes 8 wait ++
  copy f.userCopy ++ tail f.userCopy .user ((if f.storeFault.isSome then 2 ^ 13 else 0) + (if f.engineFault.isSome then 2 ^ 14 else 0)) ++
  copy f.supCopy ++ tail f.supCopy .supervisor 0 ++ toBytes 8 (f.storeFault.getD 0).toNat ++ toBytes 8 (f.engineFault.getD 0).toNat
/-- The words of a level in a frame and in a launch record (R54, R345). -/
def Lvl.word (x : Lvl) : Nat := x.extent + 2 ^ 24 * x.dom + 2 ^ 28 * x.pt.num
/-- The frame's pieces that come before its fibres (R345), each with its offset. -/
def Team.frameHead (t : Team) (reason : Nat) (pending : List Launch) : List (Nat × List Byte) :=
  let words := fun (l : List Word) => l.flatMap (fun w => toBytes 4 w.toNat)
  let pad := fun (n : Nat) (l : List Byte) => (l ++ List.replicate n 0).take n
  [(0, [1, BitVec.ofNat 8 reason]), (4, [BitVec.ofNat 8 pending.length]),
   (8, toBytes 8 (t.leaves + 2 ^ 10 * t.acct + 2 ^ 17 * t.bars + 2 ^ 24 * t.prio + 2 ^ 26 * t.rmode.toNat + 2 ^ 29 * t.fflags.toNat)),
   (0x10, toBytes 4 t.index.toNat ++ [BitVec.ofNat 8 (t.levels.length - 1 + 8 * t.tlevel)]),
   (0x18, pad 32 (t.levels.flatMap (fun x => toBytes 4 x.word))),
   (0x38, pad 32 (words (List.replicate t.tlevel 0 ++ t.upper))),
   (0x60, toBytes 8 t.utvec.toNat ++ toBytes 4 t.dbgctl.toNat), (0x70, toBytes 8 t.watcha.toNat),
   (0x80, toBytes 128 (t.fibres.foldl (fun a f => a + 2 ^ f.fid) 0)), (0x100, words t.scalars),
   (0x200, (List.range 64).flatMap (fun b =>
     let x := t.barriers.getD b { }
     if x.live then toBytes 2 x.exp ++ toBytes 2 x.cnt ++ toBytes 4 x.gen.toNat else List.replicate 8 0)),
   (0x400, pending.flatMap (·.rec_)),
   (0x600, pad 256 (t.phasers.flatMap (fun r => toBytes 8 r.handle.toNat ++ toBytes 4 r.sigp ++ toBytes 4 (if r.wt then 1 else 0)))),
   (0x700, words t.sdeleg)]
/-- The frame of a team (R345): every piece that a save writes, none across a page. -/
def Team.framePieces (t : Team) (now reason : Nat) (pending : List Launch) : List (Nat × List Byte) :=
  t.frameHead reason pending ++
  t.fibres.map (fun f => (0x1000 + 128 * f.fid, f.record now)) ++
  t.fibres.map (fun f => (0x40000 + 1024 * f.fid, (f.regs.take f.saved).flatMap (fun w => toBytes 4 w.toNat))) ++
  (List.range t.leaves).map (fun i => (0x140000 + 2048 * i, t.readLeaf (2048 * i) 2048)) ++
  (List.range t.acct).map (fun i => (0x240000 + 4096 * i, (List.range 1024).flatMap (fun k => toBytes 4 (lookupD 0 (1024 * i + k) t.accs).toNat)))
/-- Whether pieces of a frame can be reached (R349): the cause of the first that cannot, or the address to park on. -/
def State.frameReach (s : State) (part : Nat) (k : Acc) (va : Nat) : List (Nat × Nat) → Except Cause.Code (Option Nat)
  | [] => .ok none
  | (off, n) :: r =>
    if n = 0 then s.frameReach part k va r
    else match s.agentAccess part .supervisor [k] (va + off) with
      | .error c => .error c
      | .ok none => .ok (some (va + off))
      | .ok (some _) => s.frameReach part k va r
/-- A frame's piece written at the package scope point (R344). -/
def State.frameWrite (s : State) (t : Team) (va : Nat) (p : Nat × List Byte) : State :=
  match s.rangeCheck t.partKey .supervisor .write (va + p.1) with
  | .ok ia => if p.2.isEmpty then s else
      ((s.writeRange t.coreKey (s.space t.partKey ia) ia .package p.2).cleanWords (s.space t.partKey ia) ia p.2.length).touchPage t.partKey ia
  | .error _ => s
/-- Bytes of a frame read at the package scope point (R344). -/
def State.frameRead (s : State) (t : Team) (va off n : Nat) : List Byte :=
  match s.rangeCheck t.partKey .supervisor .read (va + off) with
  | .ok ia => s.bytesAt t.coreKey (s.space t.partKey ia) ia .package n
  | .error _ => List.replicate n 0

/-- The pages of a frame that a restore has read are referenced (R361). -/
def State.frameTouch (s : State) (t : Team) (va : Nat) (spans : List (Nat × Nat)) : State :=
  spans.foldl (fun u p => match s.rangeCheck t.partKey .supervisor .read (va + p.1) with
    | .ok ia => if p.2 = 0 then u else u.touchPage t.partKey ia
    | .error _ => u) s

/-- True when every fibre of a team has stopped where a save may take it (R348, R215, R116): no engine command, no fibre at monitor
privilege, no result on its way, no tile with a clasp, no XINV running; a team with a halted fibre stays (R338). -/
def State.quiet (s : State) (t : Team) : Bool :=
  !s.cmds.any (fun c => c.tid = t.tid && c.kind ≠ .ctab) && !t.monitored && !t.fibres.any (·.halted) &&
  t.fibres.all (fun f => !f.inFlight && (match f.hold with
    | some (.tile id done) => !done && !s.pkgs.any (fun kp => kp.2.clasps.any (fun c => c.req = id && c.held))
    | some (.inv ..) => false
    | _ => true))
/-- A fibre that has folded (R350). -/
def Fibre.folded (f : Fibre) : Bool := f.stopped.isSome || f.parked || f.gathered || f.halted
/-- Why a team is to be saved now: a save begun, or, while its partition folds, the last of its fibres folded (R350). -/
def State.saveReason (s : State) (t : Team) : Option Nat :=
  match t.res with
  | .saving r => some r
  | .resident =>
    if (s.partAt t.partKey).phase = .folding && t.fibres.all (·.folded) then some 3 else none
  | _ => none
/-- The tiles of a team that hold no clasp are abandoned (R215). -/
def State.dropTiles (s : State) (t : Team) : State :=
  let ids := (s.reqs.filter (fun q => q.tid = t.tid && (q.kind = .tileLoad || q.kind = .tileStore))).map (·.id)
  if ids.isEmpty then s
  else { s with
    reqs := s.reqs.filter (fun q => !ids.contains q.id)
    pkgs := s.pkgs.map (fun (kp : Nat × Pkg) => (kp.1, { kp.2 with clasps := kp.2.clasps.filter (fun (c : Clasp) => !ids.contains c.req) })) }
/-- A JKSAVE answered in the fibres that wait for the team's save (R342). -/
def State.jksaved (s : State) (tid : Nat) (v : Word) : State :=
  { s with teams := s.teams.map (fun (t : Team) => { t with fibres := t.fibres.map (fun (f : Fibre) =>
      match f.hold with
      | some (.jksave t dst none) =>
        if t = tid then { f with hold := some (.jksave t dst (some v)), readySince := max f.readyAt s.now } else f
      | _ => f) }) }
/-- A JKSAVE of its own team is complete in the fibre that is saved: D holds the frame number and PC is after it (R342). -/
def State.jksaveOwn (s : State) (t : Team) (n : Nat) : State :=
  t.fibres.foldl (fun (u : State) f => match f.hold with
    | some (.jksave tid dst none) =>
      if tid = t.tid then (u.writeReg ⟨t.tid, f.fid⟩ dst (BitVec.ofNat 32 n) none).modFibre ⟨t.tid, f.fid⟩ (fun f =>
        { f with pc := nextPc f.pc, hold := none }) else u
    | _ => u) s
/-- A fibre of a saved team: what it was held by is done again, but for a JKSAVE of another team. The WAIT of a SLEEP, the clk that remain, is
kept as it is saved (R346). -/
def Fibre.shelved (f : Fibre) (now : Nat) : Fibre :=
  { f with
    hold := (match f.hold with | some (.jksave t d r) => some (.jksave t d r) | _ => none), pend := [], turn := none
    waitAt := match f.wait with | some ⟨.sleep till, false, _⟩ => BitVec.ofNat 64 (till - now) | _ => f.waitAt }
/-- The flags of instructions that have issued count as raised at a save (R90, R172). -/
def Team.allFlags (t : Team) : BitVec 5 := t.flagPend.foldl (fun a p => a ||| p.flags) t.fflags
/-- The save of a team into frame n (R65, R342, R344): all its pieces, the resources freed, the team held or not. -/
def State.saveInto (s : State) (t : Team) (n reason : Nat) : State :=
  let s := (s.dropTiles t).jksaveOwn t n
  let t := s.team t.tid
  let t' := { t with
    fibres := t.fibres.map (fun (f : Fibre) => f.shelved s.now)
    scalarPend := [], flagPend := [], fflags := t.allFlags, waitSince := none, jkHeld := decide (reason = 5) }
  let pieces := t'.framePieces s.now reason (s.pending t.tid)
  let ready := t.fibres.any (fun f => !f.parked && !f.halted)
  let held := reason = 3 || reason = 4 || reason = 5 || (s.partAt t.partKey).phase = .saving
  let s := s.modTeam t.tid (fun _ => { t' with res := .jacketed n held (ready && !held) })
  let s := pieces.foldl (fun (u : State) p => u.frameWrite t (s.frameVa t n) p) s
  (s.meter t.partKey 13 ((pieces.map (fun p => p.2.length)).sum)).jksaved t.tid (BitVec.ofNat 32 n)
/-- JACKET_SAVE (R65, R342, R347 to R351): begins a fold-point save, and takes any save whose team is quiet. -/
def State.jacketSave (s : State) (tid : Nat) : State :=
  match s.team? tid with
  | none => s
  | some t =>
    match s.saveReason t with
    | none => s
    | some r =>
      let s := s.modTeam tid (fun t => { t with res := .saving r })
      if !s.quiet t then s
      else match (if r = 3 || r = 4 || decide ((s.framesOf t.coreKey t.partKey).length < 64) then s.freeJacket t.coreKey t.partKey else none) with
        | none =>
          if r = 3 || r = 4 then (s.frameFull t).modTeam tid (fun t => { t with res := .kept })
          else
            let s := if r = 5 then s else s.frameFull t
            (s.modTeam tid (fun t => { t with res := .resident, waitSince := some s.now })).jksaved tid 0xFFFFFFFE
        | some n =>
          let va := s.frameVa t n
          let spans := (t.framePieces s.now r (s.pending tid)).map (fun p => (p.1, p.2.length))
          match s.frameReach t.partKey .write va spans with
          | .error c =>
            let s := s.modTeam tid (fun t => { t with res := .abandoned })
            let s := s.sendEvent t.partKey (t.event 0 Cause.jacketFault (c.zeroExtend 32) (BitVec.ofNat 64 va))
            ({ s with freeCtr := s.freeCtr + 1 }).jksaved tid (BitVec.ofNat 32 (Config.freeNat s.freeCtr tid))
          | .ok (some at_) => s.agentPark t.partKey .supervisor .write at_ 3 t.core
          | .ok none => s.saveInto t n r
/-- JACKET_SAVE (R65). -/
def execJacketSave (tid : Nat) (s : State) : Outcome State Fault Refusal := .next (s.jacketSave tid)

/-- A wait of the same STATE with another address, handle or time in WAIT (R344, R346). -/
def WaitOn.retarget (on : WaitOn) (now at_ : Nat) (place : Nat → Option (Nat × Nat)) : Option WaitOn :=
  let bar := fun (tok : Word) => if at_ / 2 ^ 63 = 1 then some (.barrier (at_ % 512) tok) else (place at_).map (fun x => WaitOn.memBarrier x.1 x.2 tok)
  let ph := fun (p : Word) => if at_ / 2 ^ 63 = 1 then some (.phaser (BitVec.ofNat 64 at_) p) else (place at_).map (fun x => WaitOn.memPhaser x.1 x.2 p)
  match on with
  | .sleep _ => some (.sleep (now + at_))
  | .counter _ _ t => (place at_).map (fun x => .counter x.1 x.2 t)
  | .future _ _ => (place at_).map (fun x => .future x.1 x.2)
  | .barrier _ tok => bar tok
  | .memBarrier _ _ tok => bar tok
  | .phaser _ p => ph p
  | .memPhaser _ _ p => ph p
  | .leaf lo hi => some (.leaf (at_ / 2048) (at_ / 2048 + (hi - lo)))
  | o => some o
/-- The wait that a record gives (R344, R346): what the machine knows of the fibre's wait where the record stands as it was saved, a released
fibre staying released (R258, R352); the same wait on another address where WAIT was changed; a SLEEP where STATE was changed to it; else
none, and the instruction that PC names runs (log 60). -/
def Fibre.restoredWait (f : Fibre) (b : List Byte) (now : Nat) (place : Nat → Option (Nat × Nat)) : Option Wait :=
  let code := bits (blockDword b 8) 26 23
  let at_ := blockDword b 0x38
  let fresh := if code = 3 then some (⟨.sleep (now + at_), false, now⟩ : Wait) else none
  match f.wait with
  | none => fresh
  | some ⟨.parked r, met, _⟩ => if met || code ≠ 8 then fresh else some ⟨.parked r, met, now⟩
  | some ⟨on, met, since⟩ =>
    if code < 3 then (if met && blockDword b 0 = f.pc.toNat then some ⟨on, met, since⟩ else none)
    else if code ≠ on.code then fresh
    else if at_ = f.waitAt.toNat then some ⟨on, met, if met then since else now⟩
    else (on.retarget now at_ place).map (fun o => ⟨o, false, now⟩)
/-- A fibre as its record and window in a frame give it (R346). -/
def Fibre.restored (f : Fibre) (b : List Byte) (win : List Word) (now : Nat) (place : Nat → Option (Nat × Nat)) : Fibre :=
  let w1 := blockDword b 8
  let level := fun (n : Nat) => if n = 0 then Level.user else if n = 1 then .supervisor else .monitor
  let copy := fun (o : Nat) => ({
    epc := BitVec.ofNat 64 (blockDword b o), val := BitVec.ofNat 64 (blockDword b (o + 8)), cause := BitVec.ofNat 7 (blockDword b (o + 16))
    ppriv := level (bits (blockDword b (o + 16)) 11 10), nest := bitAt (blockDword b (o + 16)) 12 : TrapRegs })
  { f with
    pc := BitVec.ofNat 64 (blockDword b 0), preds := BitVec.ofNat 16 w1, level := level (bits w1 22 21)
    regs := (win.take (bits w1 40 32) ++ List.replicate 256 0).take (16 * bits w1 20 16)
    ops := (List.range 8).map (fun i => BitVec.ofNat 32 (blockWord b (0x10 + 4 * i)))
    y0 := BitVec.ofNat 32 (blockWord b 0x30), y1 := BitVec.ofNat 32 (blockWord b 0x34)
    userCopy := copy 0x40, supCopy := copy 0x58
    storeFault := if bitAt (blockDword b 0x50) 13 then some (BitVec.ofNat 64 (blockDword b 0x70)) else none
    engineFault := if bitAt (blockDword b 0x50) 14 then some (BitVec.ofNat 64 (blockDword b 0x78)) else none
    wait := f.restoredWait b now place, waitAt := BitVec.ofNat 64 (blockDword b 0x38), gathered := false, stopped := none, readyAt := now
    readySince := now, pend := [] }
/-- The team that a frame gives (R345), read piece by piece. -/
def Team.restored (t : Team) (rd : Nat → Nat → List Byte) (now : Nat) (place : Nat → Option (Nat × Nat)) : Team :=
  let h := rd 0 0x800
  let word := fun (o : Nat) => BitVec.ofNat 32 (blockWord h o)
  let tw := blockDword h 8
  let nlvl := bits (blockWord h 0x14) 2 0 + 1
  let tl := bits (blockWord h 0x14) 5 3
  let ex := ofBytes ((h.drop 0x80).take 128)
  let ids := (List.range 1024).filter (fun f => bitAt ex f)
  let leaves := bits tw 9 0
  let acct := bits tw 16 10
  let words := fun (b : List Byte) => (List.range (b.length / 4)).map (fun i => BitVec.ofNat 32 (blockWord b (4 * i)))
  { t with
    res := .resident, leaves := leaves, acct := acct, bars := bits tw 23 17, prio := bits tw 25 24
    rmode := BitVec.ofNat 3 (bits tw 28 26), fflags := BitVec.ofNat 5 (bits tw 33 29), index := word 0x10, tlevel := tl
    levels := (List.range nlvl).map (fun m => let w := blockWord h (0x18 + 4 * m); ⟨bits w 23 0, bits w 27 24, pointOf (bits w 29 28)⟩)
    upper := (List.range (nlvl - tl)).map (fun m => word (0x38 + 4 * (tl + m)))
    utvec := BitVec.ofNat 64 (blockDword h 0x60), dbgctl := BitVec.ofNat 5 (blockWord h 0x68)
    watcha := BitVec.ofNat 64 (blockDword h 0x70 / 8 * 8)
    scalars := words ((h.drop 0x100).take 256), sdeleg := words ((h.drop 0x700).take 16)
    barriers := (List.range 64).map (fun b =>
      let x := blockDword h (0x200 + 8 * b)
      if bits x 15 0 = 0 then { } else { live := true, exp := bits x 15 0, cnt := bits x 31 16, gen := BitVec.ofNat 32 (x / 2 ^ 32) })
    phasers := (List.range 16).filterMap (fun r =>
      let o := 0x600 + 16 * r
      if blockDword h o = 0 then none
      else some ⟨BitVec.ofNat 64 (blockDword h o), bits (blockDword h (o + 8)) 15 0, bitAt (blockWord h (o + 12)) 0⟩)
    fibres := ids.map (fun i =>
      let b := rd (0x1000 + 128 * i) 128
      (t.fibre i).restored b (words (rd (0x40000 + 1024 * i) (4 * min 256 (bits (blockDword b 8) 40 32)))) now place)
    scratch := Memory.write [] 0 ((List.range leaves).flatMap (fun i => rd (0x140000 + 2048 * i) 2048))
    accs := (List.range acct).flatMap (fun i => (words (rd (0x240000 + 4096 * i) 4096)).zipIdx.filterMap (fun p =>
      if p.1 = 0 then none else some (1024 * i + p.2, p.1)))
    placed := now, waitSince := none, jkHeld := false }
/-- The spans of a frame that a restore reads, as the frame's own header gives them. -/
def frameSpans (rd : Nat → Nat → List Byte) : List (Nat × Nat) :=
  let h := rd 0 0x800
  let ids := (List.range 1024).filter (fun f => bitAt (ofBytes ((h.drop 0x80).take 128)) f)
  let tw := blockDword h 8
  ids.map (fun i => (0x1000 + 128 * i, 128)) ++ (List.range (bits tw 9 0)).map (fun i => (0x140000 + 2048 * i, 2048)) ++
    (List.range (bits tw 16 10)).map (fun i => (0x240000 + 4096 * i, 4096))
/-- The spans of the windows (R346), once the records can be read. -/
def windowSpans (rd : Nat → Nat → List Byte) : List (Nat × Nat) :=
  let ids := (List.range 1024).filter (fun f => bitAt (ofBytes (rd 0x80 128)) f)
  ids.map (fun i => (0x40000 + 1024 * i, 4 * min 256 (bits (blockDword (rd (0x1000 + 128 * i) 128) 8) 40 32)))
/-- A restore that fails (R349): the team is held again, and JACKET_FAULT is sent. -/
def State.restoreFails (s : State) (t : Team) (n : Nat) (aux : Word) : State :=
  (s.modTeam t.tid (fun t => { t with res := .jacketed n true false })).sendEvent t.partKey
    (t.event 0 Cause.jacketFault aux (BitVec.ofNat 64 (s.frameVa t n)))
/-- The last of the teams that a RESUME made ready is resident: RESTORED (R352). -/
def State.noteRestored (s : State) (part tid : Nat) : State :=
  let x := s.partAt part
  if !x.restoring.contains tid then s
  else
    let rest := x.restoring.filter (· ≠ tid)
    let s := s.modPart part (fun x => { x with restoring := rest })
    if rest.isEmpty then s.sendEvent part { cause := Cause.restored } else s
/-- A team brought back (R66): its queued launches are the frame's, its requests for registers are new ones (R68). -/
def State.bringBack (s : State) (t t' : Team) (rd : Nat → Nat → List Byte) : State :=
  let h := rd 0 0x800
  let kept := { s with launches := s.launches.filter (fun (x : Launch) => !(x.owner = some t.tid && (x.stage = LaunchStage.queued || x.stage = LaunchStage.held))) }
  let s := (List.range (bits (blockWord h 4) 2 0)).foldl (fun u q =>
    let b := (h.drop (0x400 + 128 * q)).take 128
    u.addLaunch { id := 0, part := t.partKey, owner := some t.tid, rec_ := b, prio := bits (blockDword b 0) 9 8 }) kept
  s.modTeam t.tid (fun _ => t')
/-- JACKET_RESTORE (R66, R349): a team ready and not held comes back to its core and slot, as soon as what its frame says fits. -/
def execJacketRestore (tid : Nat) (s : State) : Outcome State Fault Refusal :=
  .next (match s.team? tid with
    | none => s
    | some t =>
      match t.res with
      | .jacketed n false true =>
        let ck := t.coreKey
        let va := s.frameVa t n
        if (s.partAt t.partKey).failed || (s.coreAt ck).halted || (s.residents ck).any (fun x => x.slot = t.slot) then s
        else
          let s1 := s.acquire ck .package
          let rd := s1.frameRead t va
          let park := fun (a : Nat) => s.agentPark t.partKey .supervisor .read a 3 t.core
          match s1.frameReach t.partKey .read va [(0, 0x800)] with
          | .error c => s.restoreFails t n (c.zeroExtend 32)
          | .ok (some a) => park a
          | .ok none =>
            if (rd 0 1).headD 0 ≠ 1 then { s with freeCtr := s.freeCtr + 1 }.restoreFails t n (BitVec.ofNat 32 (Config.freeNat s.freeCtr tid))
            else match s1.frameReach t.partKey .read va (frameSpans rd) with
              | .error c => s.restoreFails t n (c.zeroExtend 32)
              | .ok (some a) => park a
              | .ok none =>
                match s1.frameReach t.partKey .read va (windowSpans rd) with
                | .error c => s.restoreFails t n (c.zeroExtend 32)
                | .ok (some a) => park a
                | .ok none =>
                  let place := fun (a : Nat) => match s1.rangeCheck t.partKey .user .read a with
                    | .ok ia => some (s1.space t.partKey ia, ia)
                    | .error _ => none
                  let t' := t.restored rd s.now place
                  if !s.fits ck ⟨t'.fibres.length, t'.windowRegs, t'.leaves, t'.acct⟩ then s
                  else
                    let moved := 0x800 + ((frameSpans rd ++ windowSpans rd).map (·.2)).sum
                    (((s1.frameTouch t va ((0, 0x800) :: frameSpans rd ++ windowSpans rd)).bringBack t t' rd).meter t.partKey 13 moved).noteRestored t.partKey tid
      | _ => s)

/-- LONG_WAIT_EXPIRY (R64, R347): a team that has waited $WAITLIM clk begins to be saved, unless its core holds 64 jackets of the
partition; then its waiting counts afresh. -/
def execLongWaitExpiry (tid : Nat) (s : State) : Outcome State Fault Refusal :=
  .next (match s.team? tid with
    | none => s
    | some t =>
      let lim := (s.coreAt t.coreKey).waitlim.toNat
      match t.waitSince with
      | none => s
      | some since =>
        if lim = 0 || decide (s.now < since + lim) || !t.waiting || t.monitored then s
        else if 64 ≤ (s.framesOf t.coreKey t.partKey).length then
          (s.frameFull t).modTeam tid (fun t => { t with waitSince := some s.now })
        else s.modTeam tid (fun t => { t with res := .saving 1 }))
/-- True when a fibre of a team is blocked in GROW or FFORK (R69). -/
def Team.blocked (t : Team) : Bool := t.fibres.any (fun f => (f.request t).isSome)
/-- The team that R69 chooses: the lowest class, and among equals the one placed or restored last. DESIGN CHOICE (log 52): of two placed or
restored at the same clk the one with the higher team number; R69 names neither. -/
def State.deadlockTeam (s : State) (ck : Nat) : Option Team :=
  ((s.residents ck).filter (fun t => !t.monitored)).foldl (fun acc t =>
    match acc with
    | some u => if t.prio < u.prio || (t.prio = u.prio && (u.placed < t.placed || (t.placed = u.placed && u.tid < t.tid))) then some t else some u
    | none => some t) none
/-- GROW_DEADLOCK_JACKET (R69, R347). -/
def execGrowDeadlockJacket (pkg core : Nat) (s : State) : Outcome State Fault Refusal :=
  let ck := Config.coresPerPkg * pkg + core
  let ts := s.residents ck
  .next (match s.headRequest ck, s.deadlockTeam ck with
    | some r, some t =>
      if s.covers ck r || !ts.all (fun t => t.waiting && t.blocked) then s
      else if (s.framesOf ck t.partKey).length < 64 then s.modTeam t.tid (fun t => { t with res := .saving 2 })
      else
        match t.fibres.find? (fun f => (f.request t).isSome) with
        | some f =>
          let n := match f.wait with | some ⟨.grow n, _, _⟩ => n | some ⟨.fork n _, _, _⟩ => n | _ => 0
          if f.inFlight then s else (s.frameFull t).takeTrap ⟨t.tid, f.fid⟩ Cause.growImpossible (BitVec.ofNat 64 n)
        | none => s
    | _, _ => s)

/-- FOLD_STOP (R350): while its partition folds, a fibre ready at a fold-point slot stops there with the slot's LIVE. A fibre at monitor
privilege does not. -/
def execFoldStop (tid fid : Nat) (s : State) : Outcome State Fault Refusal :=
  let l : Lane := ⟨tid, fid⟩
  let t := s.team tid
  let f := s.fibre l
  .next (
    if (s.partAt t.partKey).phase ≠ .folding || t.res ≠ .resident || f.level = .monitor || f.folded || f.hold.isSome ||
      decide (s.now < f.readyAt) || s.fibre? l = none then s
    else match s.issueLine t f.level f.pc with
      | none => s
      | some line =>
        if !lineFold line (slotOf f.pc) || (lineFault line (lineOf f.pc)).isSome then s
        else s.modFibre l (fun f => { f with stopped := some (some (bits (slotBits line (slotOf f.pc)) 8 0)) }))
/-- A team as the grace timer expires (R351): jacketed ones are held, and of the others every fibre that has not folded stops. -/
def Team.forced (t : Team) : Team :=
  match t.res with
  | .jacketed n _ _ => { t with res := .jacketed n true false }
  | .resident => { t with
      res := .saving (if t.fibres.all (·.folded) then 3 else 4)
      fibres := t.fibres.map (fun f => if f.folded then f else { f with stopped := some none }) }
  | _ => t
/-- GRACE_EXPIRY (R351). -/
def execGraceExpiry (pkg part : Nat) (s : State) : Outcome State Fault Refusal :=
  let p := 96 * pkg + part
  let x := s.partAt p
  .next (match x.phase, x.graceEnd with
    | .folding, some till =>
      if s.now < till then s
      else
        let mine := s.teams.filter (fun t => t.partKey = p && t.res = .resident && !t.fibres.all (·.folded))
        { (s.modPart p (fun x => { x with
            phase := .saving, graceEnd := none, forcedTeams := mine.length, forced := x.forced || !mine.isEmpty })) with
          teams := s.teams.map (fun (t : Team) => if t.partKey = p then t.forced else t) }
    | _, _ => s)
/-- True when a team is held, for $PSTAT (R347, R351). -/
def Team.heldNow (t : Team) : Bool :=
  match t.res with
  | .jacketed _ held _ => held
  | .kept => true
  | _ => false
/-- A partition whose teams are all held has been saved (R351): PREEMPTED, with the teams forced. -/
def State.checkSaved (s : State) (p : Nat) : State :=
  let x := s.partAt p
  if (x.phase = .folding || x.phase = .saving) && (s.teams.filter (fun t => t.partKey = p)).all (·.heldNow) then
    (s.modPart p (fun x => { x with phase := .saved, graceEnd := none })).sendEvent p
      { cause := Cause.preempted, aux := BitVec.ofNat 32 x.forcedTeams }
  else s

end Sys2Proof.Machine
end

