-- ==== Sys2Proof/Machine/System.lean ====
section
/-! DEFINITION. Privilege and the system instructions (R325 to R343): the register map (R23, R63, R327, R328, R354, R378) read by RDS and
MFS and written by MTS, software traps, RETT, events, invalidations, JKSAVE, JKLOAD and HALTC. -/

namespace Sys2Proof.Machine

open Host (Outcome)

/-- The lowest level that may read a privileged register (R328, R354, R378). -/
def sregReader (i : Nat) : Level :=
  if [0x44, 0x45, 0x46, 0x47, 0x4A, 0x5D, 0x80, 0x8F].contains i then .monitor else .supervisor
/-- True when a level's MTS stores a value (R328, R354, R378). -/
def sregWriter (i : Nat) (level : Level) : Bool :=
  let both := [0x40, 0x43, 0x48, 0x50, 0x51, 0x52, 0x53, 0x54, 0x55, 0x56, 0x57, 0x58, 0x59, 0x5B, 0x5C, 0x67, 0x68, 0x69, 0x88, 0x89,
    0x8A, 0x8C, 0x8D, 0x8E]
  let high := [0x44, 0x45, 0x46, 0x47, 0x49, 0x4A, 0x4C, 0x4D, 0x4E, 0x4F, 0x5D, 0x60, 0x61, 0x62, 0x63, 0x64, 0x65, 0x66, 0x6A, 0x6B, 0x6C, 0x6D,
    0x80, 0x81, 0x82, 0x83, 0x84, 0x85, 0x86, 0x87, 0x8B, 0x8F]
  (level ≠ .user && both.contains i) || (level = .monitor && high.contains i)
/-- The partition that a fibre's per-partition registers are of (R378). -/
def State.selPart (s : State) (t : Team) (f : Fibre) : Nat :=
  let p := (s.pkgAt t.pkg).psel.toNat
  if f.level = .monitor && p < 96 then 96 * t.pkg + p else t.partKey
/-- $LVLn (R49): the digit of the level below the team's is not reduced, for forked fibres (R271). -/
def Team.lvl (t : Team) (fid n : Nat) : Nat :=
  if t.levels.length ≤ n then 0
  else if n < t.tlevel then
    let d := fid / ((t.levels.take n).foldl (fun a x => a * x.extent) 1)
    if n + 1 = t.tlevel then d else d % ((t.levels.getD n ⟨1, 0, .core⟩).extent)
  else (t.upper.getD (n - t.tlevel) 0).toNat
/-- $EXTn (R48, R59). -/
def Team.ext (t : Team) (n : Nat) : Nat :=
  if t.card && n = t.tlevel then 0 else match t.levels[n]? with | some x => x.extent | none => 0
/-- The value of one copy's trap register (R327): 0 PC, 1 cause, 2 value, 3 status. -/
def Fibre.trapReg (f : Fibre) (level : Level) (k : Nat) : Nat :=
  let r := f.copy level
  if k = 0 then r.epc.toNat else if k = 1 then r.cause.toNat else if k = 2 then r.val.toNat else (f.tstat level).toNat
/-- A register that RDS reads (R23, R63, R327). -/
def State.lowSreg (s : State) (l : Lane) (i : Nat) : Nat :=
  let t := s.team l.tid
  let f := s.fibre l
  let c := s.coreAt t.coreKey
  if i = 0 then l.fid else if i = 1 then l.fid / 32 else if i = 2 then l.fid % 32 else if i = 3 then t.index.toNat
  else if i = 4 then t.coreReg.toNat else if i = 5 then s.clk t.pkg else if i = 6 then f.regs.length else if i = 7 then t.rmode.toNat
  else if i = 8 then t.fflags.toNat else if i = 9 then c.srseed.toNat else if i = 0x0A then c.waitlim.toNat
  else if i = 0x0B then c.spawnlim.toNat else if i < 0x10 then f.trapReg f.level (i - 0x0C)
  else if i < 0x18 then t.lvl l.fid (i - 0x10) else if i < 0x20 then t.ext (i - 0x18) else 0
/-- A privileged register of the team, the core or the package (R328). -/
def State.ownSreg (s : State) (l : Lane) (i : Nat) : Option Nat :=
  let t := s.team l.tid
  let f := s.fibre l
  let k := s.pkgAt t.pkg
  if 0x40 ≤ i && i < 0x44 then some (f.trapReg .user (i - 0x40))
  else if 0x44 ≤ i && i < 0x48 then some (f.trapReg .supervisor (i - 0x44))
  else if i = 0x48 then some t.utvec.toNat else if i = 0x4A then some k.mtvec.toNat
  else if 0x50 ≤ i && i < 0x54 then some (t.sdeleg.getD (i - 0x50) 0).toNat
  else if i = 0x54 then some (s.coreAt t.coreKey).waitlim.toNat else if i = 0x55 then some (s.coreAt t.coreKey).spawnlim.toNat
  else if i = 0x56 then some t.dbgctl.toNat else if i = 0x57 then some t.watcha.toNat
  else if i = 0x5D then some (k.events.length + 65536 * k.dropped)
  else if i = 0x6A then some k.tsel else if i = 0x6B then some (k.tdesc.getD (k.tsel - 1) 0).toNat else if i = 0x6C then some k.ltbase.toNat
  else if i = 0x80 then some k.psel.toNat else if i = 0x8F then some k.monq.toNat else if i = 0xA0 then some (s.bootId t.pkg).toNat
  else none
/-- $PSTAT (R328). -/
def Part.pstat (x : Part) : Nat :=
  (match x.phase with | .running => 0 | .folding => 1 | .saving => 2 | .saved => 3) + (if x.forced then 4 else 0)
/-- A register of a partition (R328, R354, R378); a WO register reads zero (R8). -/
def State.partSreg (s : State) (p i : Nat) : Nat :=
  let x := s.partAt p
  let r := x.ranges.getD x.rsel { }
  if i = 0x49 then x.stvec.toNat else if 0x4C ≤ i && i < 0x50 then (x.mdeleg.getD (i - 0x4C) 0).toNat
  else if i = 0x58 then x.grace.toNat else if i = 0x5A then x.pstat else if i = 0x5B then x.jkbase.toNat
  else if i = 0x5C then x.events.length + 65536 * x.dropped else if i = 0x60 then x.rsel else if i = 0x61 then r.base * 65536
  else if i = 0x62 then r.lim * 65536 else if i = 0x63 then r.off * 65536 else if i = 0x64 then r.perm.toNat
  else if i = 0x65 then x.ptroot.toNat else if i = 0x66 then x.podtag.toNat else if i = 0x67 then x.parklim.toNat
  else if i = 0x68 then x.prqbase.toNat else if i = 0x81 then x.pctl.toNat else if i = 0x82 then x.pclu.toNat
  else if i = 0x83 then x.pcol0.toNat else if i = 0x84 then x.pcol1.toNat else if i = 0x85 then x.pchan.toNat
  else if i = 0x86 then x.pband.toNat else if i = 0x87 then x.tsq.toNat else if i = 0x88 then x.qsel
  else if i = 0x89 then (x.qdesc.getD x.qsel 0).toNat else if i = 0x8A then (x.qeng.getD x.qsel 0).toNat
  else if i = 0x8B then x.lquota.toNat else if i = 0x8D then x.msnapbase.toNat else if i = 0x8E then x.perr.toNat
  else if 0x90 ≤ i && i < 0xA0 then (x.meterReg (i - 0x90)).toNat else if i = 0xA1 then x.snapseq.toNat else if i = 0xA2 then x.pclk.toNat
  else if i = 0xA3 then s.tsact p else 0
/-- The value of a special register (R23, R328, R354, R378). -/
def State.readSreg (s : State) (l : Lane) (i : Nat) : Nat :=
  if i < 0x40 then s.lowSreg l i
  else match s.ownSreg l i with
    | some v => v
    | none => s.partSreg (s.selPart (s.team l.tid) (s.fibre l)) i

/-- $TSTAT written (R327): PPRIV up to the current level, and TNEST. -/
def Fibre.setTstat (f : Fibre) (level : Level) (v : Nat) : Fibre :=
  let p := if bits v 3 2 = 0 then Level.user else if bits v 3 2 = 1 && 1 ≤ f.level.num then .supervisor
    else if bits v 3 2 = 2 && f.level.num = 2 then .monitor else f.level
  f.setCopy level { f.copy level with ppriv := p, nest := bitAt v 4 }
/-- $TEPC written. -/
def Fibre.setTepc (f : Fibre) (level : Level) (v : Dword) : Fibre := f.setCopy level { f.copy level with epc := v }
/-- $TCAUSE and $TVAL written (R328): the supervisor's copies, by the monitor. -/
def Fibre.setTcause (f : Fibre) (level : Level) (v : Nat) : Fibre := f.setCopy level { f.copy level with cause := BitVec.ofNat 7 v }
/-- $TVAL written. -/
def Fibre.setTval (f : Fibre) (level : Level) (v : Dword) : Fibre := f.setCopy level { f.copy level with val := v }
/-- $SRSEED written (R23): a write of zero loads 1. -/
def Core.setSeed (c : Core) (v : Word) : Core := let v := if v = 0 then 1 else v; { c with srseed := v, srng := v }
/-- A register that MTS writes at every level (R23, R327). -/
def State.setLow (s : State) (l : Lane) (i v : Nat) : State :=
  let f := s.fibre l
  if i = 7 then (if v % 8 ≤ 5 then s.modTeam l.tid (fun t => { t with rmode := BitVec.ofNat 3 v }) else s)
  else if i = 8 then s.modTeam l.tid (fun t => { t with fflags := BitVec.ofNat 5 v })
  else if i = 9 then s.modCore (s.team l.tid).coreKey (·.setSeed (BitVec.ofNat 32 v))
  else if i = 0x0C then s.modFibre l (·.setTepc f.level (BitVec.ofNat 64 v))
  else if i = 0x0F then s.modFibre l (·.setTstat f.level v)
  else s
/-- $WAITLIM and $SPAWNLIM as stored (R328, R63). -/
def clampWait (v : Nat) : Word := if 1 ≤ v % 2 ^ 32 && v % 2 ^ 32 < 1024 then 1024 else BitVec.ofNat 32 v
/-- A value stored as the nearer limit. -/
def clampLimit (lo hi v : Nat) : Nat := if v < lo then lo else if hi < v then hi else v
/-- The low bits of a value below a field zeroed, and those above it cut off (R9). -/
def fieldOf (hi lo v : Nat) : Nat := v % 2 ^ (hi + 1) / 2 ^ lo * 2 ^ lo
/-- A privileged register of the fibre, the team, the core or the package written (R328, R354, R378); none for one of a partition. -/
def State.setOwn (s : State) (l : Lane) (i v : Nat) : Option State :=
  let t := s.team l.tid
  let team := fun (g : Team → Team) => some (s.modTeam l.tid g)
  let pkg := fun (g : Pkg → Pkg) => some (s.modPkg t.pkg g)
  if i = 0x40 then some (s.modFibre l (·.setTepc .user (BitVec.ofNat 64 v)))
  else if i = 0x43 then some (s.modFibre l (·.setTstat .user v))
  else if i = 0x44 then some (s.modFibre l (·.setTepc .supervisor (BitVec.ofNat 64 v)))
  else if i = 0x45 then some (s.modFibre l (·.setTcause .supervisor v))
  else if i = 0x46 then some (s.modFibre l (·.setTval .supervisor (BitVec.ofNat 64 v)))
  else if i = 0x47 then some (s.modFibre l (·.setTstat .supervisor v))
  else if i = 0x48 then team (fun t => { t with utvec := BitVec.ofNat 64 v })
  else if 0x50 ≤ i && i < 0x54 then team (fun t => { t with sdeleg := t.sdeleg.set (i - 0x50) (BitVec.ofNat 32 v) })
  else if i = 0x54 then some (s.modCore t.coreKey (fun c => { c with waitlim := clampWait v }))
  else if i = 0x55 then some (s.modCore t.coreKey (fun c => { c with spawnlim := BitVec.ofNat 32 (clampLimit 256 65536 (v % 2 ^ 32)) }))
  else if i = 0x56 then team (fun t => { t with dbgctl := BitVec.ofNat 5 v })
  else if i = 0x57 then team (fun t => { t with watcha := BitVec.ofNat 64 (fieldOf 63 3 v) })
  else if i = 0x4A then pkg (fun k => { k with mtvec := BitVec.ofNat 64 v })
  else if i = 0x5D then pkg (fun k => { k with dropped := bits v 31 16 })
  else if i = 0x6A then pkg (fun k => if 1 ≤ v % 8 && v % 8 ≤ 4 then { k with tsel := v % 8 } else k)
  else if i = 0x6B then pkg (fun k => { k with tdesc := k.tdesc.set (k.tsel - 1) (BitVec.ofNat 64 (fieldOf 51 6 v)) })
  else if i = 0x6C then pkg (fun k => { k with ltbase := BitVec.ofNat 64 (fieldOf 51 12 v) })
  else if i = 0x6D then some (s.setLtcmd t.pkg v)
  else if i = 0x80 then pkg (fun k => { k with psel := if v % 128 < 96 then BitVec.ofNat 7 v else 0x7F })
  else if i = 0x8F then pkg (fun k => { k with monq := BitVec.ofNat 64 (fieldOf 63 7 v) })
  else none
/-- The selected range register set changed (R354). -/
def State.setRange (s : State) (p : Nat) (g : Range → Range) : State :=
  s.modPart p (fun x => { x with ranges := x.ranges.set x.rsel (g (x.ranges.getD x.rsel { })) })
/-- A register of a partition written (R328, R354, R378, R379): what the field holds is stored, reserved bits are not. -/
def State.setPart (s : State) (p i v : Nat) : State :=
  let w := BitVec.ofNat 32 v
  let d := BitVec.ofNat 64 v
  if i = 0x49 then s.modPart p (fun x => { x with stvec := d })
  else if 0x4C ≤ i && i < 0x50 then s.modPart p (fun x => { x with mdeleg := x.mdeleg.set (i - 0x4C) w })
  else if i = 0x58 then s.modPart p (fun x => { x with grace := BitVec.ofNat 32 (clampLimit 1650 13200 (v % 2 ^ 32)) })
  else if i = 0x59 then s.setPreq p v
  else if i = 0x5B then s.modPart p (fun x => { x with jkbase := BitVec.ofNat 64 (fieldOf 63 22 v) })
  else if i = 0x5C then s.modPart p (fun x => { x with dropped := bits v 31 16 })
  else if i = 0x60 then s.modPart p (fun x => { x with rsel := v % 16 })
  else if i = 0x61 then s.setRange p (fun r => { r with base := bits v 55 16 })
  else if i = 0x62 then s.setRange p (fun r => { r with lim := bits v 55 16 })
  else if i = 0x63 then s.setRange p (fun r => { r with off := bits v 59 16 })
  else if i = 0x64 then s.setRange p (fun r => { r with perm := BitVec.ofNat 7 v })
  else if i = 0x65 then s.modPart p (fun x => { x with ptroot := BitVec.ofNat 64 (fieldOf 51 16 v) })
  else if i = 0x66 then s.modPart p (fun x => { x with podtag := BitVec.ofNat 9 v })
  else if i = 0x67 then s.modPart p (fun x => { x with parklim := w })
  else if i = 0x68 then s.modPart p (fun x => { x with prqbase := BitVec.ofNat 64 (fieldOf 51 12 v) })
  else if i = 0x69 then (if bits v 59 52 = p / 96 then s.pageReady p (bits v 59 16) else s)
  else if i = 0x81 then s.setPctl p v else if i = 0x82 then s.setPclu p v
  else if i = 0x83 then s.setPcol p false d else if i = 0x84 then s.setPcol p true d else if i = 0x85 then s.setPchan p d
  else if i = 0x86 then s.setPband p v
  else if i = 0x87 then s.modPart p (fun x => { x with tsq := BitVec.ofNat 16 (clampLimit 100 65535 (v % 65536)) })
  else if i = 0x88 then s.modPart p (fun x => { x with qsel := v % 16 })
  else if i = 0x89 then s.setQdesc p v else if i = 0x8A then s.setQeng p v
  else if i = 0x8B then s.modPart p (fun x => { x with lquota := if v % 65536 = 0 then 1 else BitVec.ofNat 16 v })
  else if i = 0x8C then (if v % 2 = 1 then (s.snapshot p).2 else s)
  else if i = 0x8D then s.modPart p (fun x => { x with msnapbase := BitVec.ofNat 64 (fieldOf 55 8 v) })
  else if i = 0x8E then s.modPart p (fun x => { x with perr := x.perr &&& ~~~ BitVec.ofNat 2 v })
  else s
/-- A special register written by a level that may write it (R23, R328, R337). -/
def State.writeSreg (s : State) (l : Lane) (i v : Nat) : State :=
  if i < 0x40 then s.setLow l i v
  else match s.setOwn l i v with
    | some u => u
    | none => s.setPart (s.selPart (s.team l.tid) (s.fibre l)) i v

/-- True for a special register of 64 bits (R23, R327, R328, R354, R378). -/
def sregWide (i : Nat) : Bool :=
  [0x05, 0x0C, 0x0E, 0x40, 0x42, 0x44, 0x46, 0x48, 0x49, 0x4A, 0x57, 0x5B, 0x61, 0x62, 0x63, 0x65, 0x68, 0x69, 0x6B, 0x6C, 0x83, 0x84, 0x85,
    0x86, 0x89, 0x8A, 0x8D, 0x8F, 0xA0, 0xA1, 0xA2].contains i || (decide (0x90 ≤ i) && decide (i < 0xA0))
/-- PRIV_SREG (R326). -/
def privSreg (i : Nat) : LaneRes := .trap Cause.privSreg (BitVec.ofNat 64 i)
/-- An instruction that user privilege may not use: PRIV_INSN with its opcode (R326). -/
def abovePriv (f : Fibre) (least : Level) (opcode : Nat) (k : LaneRes) : LaneRes :=
  if f.level.num < least.num then .trap Cause.privInsn (BitVec.ofNat 64 opcode) else k
/-- RDS (R153): the register's value at issue; the last-result file shifts (R21). -/
def execRds (h : Head) (m : SpecialMod) (s : State) : Outcome State Fault Refusal :=
  let i := m.sreg.toNat
  .next (s.runLanes h (fun t l =>
    if 0x40 ≤ i then privSreg i
    else if sregWide i then .done (t.result64 l h.dst (BitVec.ofNat 64 (s.lowSreg l i)) none)
    else .done (t.result32 l h.dst (BitVec.ofNat 32 (s.lowSreg l i)) none))).bump
/-- MFS (R337). -/
def execMfs (h : Head) (m : SystemMod) (s : State) : Outcome State Fault Refusal :=
  let i := m.sreg.toNat
  .next (s.runLanes h (fun t l =>
    let f := s.fibre l
    abovePriv f .supervisor 0x384 (
      if 0x40 ≤ i && f.level.num < (sregReader i).num then privSreg i
      else if sregWide i then .done (t.writePair l h.dst (BitVec.ofNat 64 (t.readSreg l i)) none)
      else .done (t.writeReg l h.dst (BitVec.ofNat 32 (t.readSreg l i)) none)))).bump
/-- MTS (R337): a level that may read the register but not write it is ignored (R328). -/
def execMts (h : Head) (m : SystemMod) (s : State) : Outcome State Fault Refusal :=
  let i := m.sreg.toNat
  .next (s.runLanes h (fun t l =>
    let f := s.fibre l
    let v := if sregWide i then (s.readPair l .sa h.sa).toNat else (s.readReg l .sa h.sa).toNat
    if 0x40 ≤ i && f.level.num < (sregReader i).num then privSreg i
    else .done (if i < 0x40 || sregWriter i f.level then t.writeSreg l i v else t)))

/-- True for the codes with which TRAP raises a cause of that number (R336). -/
def softCause (c : Nat) : Bool :=
  (decide (0x28 ≤ c) && decide (c ≤ 0x3F)) || (decide (0x4A ≤ c) && decide (c ≤ 0x4F)) || (decide (0x5B ≤ c) && decide (c ≤ 0x5F)) ||
    (decide (0x69 ≤ c) && decide (c ≤ 0x6F))
/-- TRAP (R336). -/
def execTrap (h : Head) (m : SystemMod) (s : State) : Outcome State Fault Refusal :=
  .next (s.runLanes h (fun _ _ =>
    if softCause m.code.toNat then .trap (BitVec.ofNat 7 m.code.toNat) 0 else .trap Cause.trapInsn (BitVec.ofNat 64 m.code.toNat)))
/-- SYSC (R336). -/
def execSysc (h : Head) (m : SystemMod) (s : State) : Outcome State Fault Refusal :=
  .next (s.runLanes h (fun _ _ => .trap Cause.syscall (BitVec.ofNat 64 m.code.toNat)))
/-- BKPT (R336). -/
def execBkpt (h : Head) (m : SystemMod) (s : State) : Outcome State Fault Refusal :=
  .next (s.runLanes h (fun _ _ => .trap Cause.breakpoint (BitVec.ofNat 64 m.code.toNat)))
/-- The return from an exception (R330): TNEST is cleared, the level before the trap and the saved PC, or the one after it, are taken
up. Every earlier result has arrived (R116); a team's waiting counts afresh (R64). -/
def rettLane (next : Bool) (s t : State) (l : Lane) : LaneRes :=
  let f := s.fibre l
  let r := f.copy f.level
  if !r.nest then .trap Cause.rettBad ((f.tstat f.level).zeroExtend 64)
  else
    let pc := if next then nextPc r.epc else r.epc
    if !pcSlotOk pc then .trap Cause.pcSlot pc
    else if f.inFlight then .stay t
    else .goto pc ((t.modFibre l (fun f =>
      { (f.settle.setCopy f.level { f.copy f.level with nest := false }) with level := r.ppriv })).modTeam l.tid (fun t => { t with waitSince := none }))
/-- RETT (R330). -/
def execRett (h : Head) (_m : SystemMod) (s : State) : Outcome State Fault Refusal :=
  .next (s.runLanes h (rettLane false s))
/-- RETT.next (R330). -/
def execRettNext (h : Head) (_m : SystemMod) (s : State) : Outcome State Fault Refusal :=
  .next (s.runLanes h (rettLane true s))

/-- A record's four words (R332). -/
def Event.words (e : Event) : List Word :=
  [BitVec.ofNat 32 (e.cause.toNat + 2 ^ 8 * (e.core % 512) + 2 ^ 17 * (e.slot % 32) + 2 ^ 22 * (e.fid % 1024)), e.aux,
   BitVec.ofNat 32 e.value.toNat, BitVec.ofNat 32 (e.value.toNat / 2 ^ 32)]
/-- The queue of a fibre's level (R333). -/
def State.queueOf (s : State) (t : Team) (f : Fibre) : List Event :=
  if f.level = .monitor then (s.pkgAt t.pkg).events else (s.partAt t.partKey).events
/-- EVPOP (R333). -/
def execEvpop (h : Head) (_m : SystemMod) (s : State) : Outcome State Fault Refusal :=
  .next (s.runLanes h (fun u l =>
    let t := s.team l.tid
    let f := s.fibre l
    abovePriv f .supervisor 0x385 (
      match u.queueOf t f with
      | [] => .done (u.writeWords l h.dst [0xFFFFFFFF, 0, 0, 0])
      | e :: r =>
        let u := if f.level = .monitor then u.modPkg t.pkg (fun k => { k with events := r })
          else u.modPart t.partKey (fun x => { x with events := r })
        .done (u.writeWords l h.dst e.words)))).bump
/-- WFE (R333). -/
def execWfe (h : Head) (_m : SystemMod) (s : State) : Outcome State Fault Refusal :=
  .next (s.runLanes h (fun u l =>
    let t := s.team l.tid
    let f := s.fibre l
    abovePriv f .supervisor 0x386 (
      match f.wait with
      | some w => if w.met then .done (u.resume l) else .stay u
      | none => if (u.queueOf t f).isEmpty then u.suspend l .wfe else .done u)))
/-- ICINV (R339): the lines leave the caches of every core of the partition. -/
def execIcinv (h : Head) (_m : SystemMod) (s : State) : Outcome State Fault Refusal :=
  .next (s.runLanes h (fun u l =>
    let t := s.team l.tid
    let va := s.readPair l .sa h.sa
    let n := (s.readReg l .sb h.sb).toNat
    let last := va + BitVec.ofNat 64 (n - 1)
    if addrHighBad va then .trap Cause.addrHigh va
    else if n ≠ 0 && addrHighBad last then .trap Cause.addrHigh last
    else .done { u with cores := u.cores.map (fun (kc : Nat × Core) => (kc.1, { kc.2 with icache := kc.2.icache.filter (fun e =>
      !(e.1 / 2 = t.partKey && n ≠ 0 && overlaps e.2.1 64 va.toNat n)) })) }))
/-- XINV (R340): the pages leave every translation cache of the package; the fibre goes on once no tile holds them. -/
def execXinv (h : Head) (_m : SystemMod) (s : State) : Outcome State Fault Refusal :=
  .next (s.runLanes h (fun u l =>
    let t := s.team l.tid
    let f := s.fibre l
    let a := (s.readPair l .sa h.sa).toNat
    let n := (s.readReg l .sb h.sb).toNat
    let page := bits a 59 16
    abovePriv f .supervisor 0x388 (
      match f.hold with
      | some (.inv _ _ _ done) => if done then .done (u.modFibre l (fun f => { f with hold := none })) else .stay u
      | _ =>
        if a % 65536 ≠ 0 || bits a 63 60 ≠ 0 || n = 0 || decide (2 ^ 20 < n) then .trap Cause.paramBad 0xFFFF
        else
          let u := u.modPkg t.pkg (fun k => { k with tlb := k.tlb.filter (fun c =>
            !(c.part = t.partKey && decide (page % 2 ^ 36 ≤ c.page) && decide (c.page < page % 2 ^ 36 + n))) })
          if u.pagesHeld t.partKey page n then .stay (u.modFibre l (fun f => { f with hold := some (.inv t.partKey page n false) }))
          else .done u)))
/-- JKSAVE in one lane (R341, R342, R347). -/
def jksaveLane (h : Head) (s u : State) (l : Lane) : LaneRes :=
  let t := s.team l.tid
  let f := s.fibre l
  let a := (s.readReg l .sa h.sa).toNat
  let own := bitAt a 5
  let fin := fun (v : Word) => LaneRes.done ((u.modFibre l (fun f => { f with hold := none })).writeReg l h.dst v none)
  abovePriv f .supervisor 0x389 (
    match f.hold with
    | some (.jksave _ _ (some v)) => fin v
    | some (.jksave _ _ none) => .stay u
    | _ =>
      if a / 64 ≠ 0 || (own && a % 32 ≠ 0) then .trap Cause.paramBad 0xFFFF
      else match (u.residents t.coreKey).find? (fun x => (if own then x.tid = t.tid else x.slot = a % 32) && x.partKey = t.partKey && x.res = .resident) with
        | none => fin 0xFFFFFFFF
        | some x =>
          if 64 ≤ (u.framesOf t.coreKey t.partKey).length then fin 0xFFFFFFFE
          else .stay ((u.modTeam x.tid (fun x => { x with res := .saving 5 })).modFibre l (fun f =>
            { f with hold := some (.jksave x.tid h.dst none) })))
/-- JKSAVE (R342). -/
def execJksave (h : Head) (_m : SystemMod) (s : State) : Outcome State Fault Refusal := .next (s.runLanes h (jksaveLane h s)).bump
/-- The team that JKLOAD's selector names (R341): one held in a frame, or one whose save was abandoned. -/
def State.jkTarget (s : State) (t : Team) (a : Nat) : Option Team :=
  s.teams.find? (fun x => x.coreKey = t.coreKey && x.partKey = t.partKey &&
    (match x.res with
      | .jacketed n held _ => !bitAt a 7 && n = a % 128 && held
      | .abandoned => bitAt a 7 && x.slot = a % 32
      | _ => false))
/-- A team that JKLOAD names (R342, R349): one held is ready to restore; one whose save was abandoned goes on where it stands, unless its
partition is being saved (R351). -/
def Team.jkReady (t : Team) (now : Nat) (saving : Bool) : Team :=
  match t.res with
  | .jacketed n _ _ => { t with res := .jacketed n false true, jkHeld := false, waitSince := none }
  | _ =>
    if saving then { t with res := .saving 4 }
    else { t with
      res := .resident, waitSince := none
      fibres := t.fibres.map (fun f => { f with stopped := none, readySince := max f.readyAt now }) }
/-- JKLOAD (R341, R342, R349). -/
def execJkload (h : Head) (_m : SystemMod) (s : State) : Outcome State Fault Refusal :=
  .next (s.runLanes h (fun u l =>
    let t := s.team l.tid
    let a := (s.readReg l .sa h.sa).toNat
    abovePriv (s.fibre l) .supervisor 0x38A (
      if a / 256 ≠ 0 || (if bitAt a 7 then bits a 6 5 ≠ 0 else decide (96 ≤ a % 128)) then .trap Cause.paramBad 0xFFFF
      else match u.jkTarget t a with
        | none => .done (u.writeReg l h.dst 0xFFFFFFFF none)
        | some x => .done ((u.modTeam x.tid (fun x => x.jkReady u.now ((u.partAt t.partKey).phase = .saving))).writeReg l h.dst 0 none)))).bump
/-- HALTC (R343). -/
def execHaltc (h : Head) (_m : SystemMod) (s : State) : Outcome State Fault Refusal :=
  .next (s.runLanes h (fun u l =>
    let t := s.team l.tid
    abovePriv (s.fibre l) .monitor 0x38C (
      if (u.coreAt t.coreKey).halted then .done u
      else .done ((u.modCore t.coreKey (fun c => { c with halted := true })).monitorEvent t.pkg { cause := Cause.coreHalted, core := t.core } t.part))))
/-- CORE_RESUME (R343). -/
def execCoreResume (pkg core : Nat) (s : State) : Outcome State Fault Refusal :=
  .next (if (s.coreAt (Config.coresPerPkg * pkg + core)).halted then s.modCore (Config.coresPerPkg * pkg + core) (fun c => { c with halted := false }) else s)
/-- SRSEED_WRITE (R23). -/
def execSrseedWrite (pkg core : Nat) (v : Word) (s : State) : Outcome State Fault Refusal :=
  .next (s.modCore (Config.coresPerPkg * pkg + core) (·.setSeed v))

end Sys2Proof.Machine
end

