-- ==== Sys2Proof/Machine/Shape.lean ====
section
/-! DEFINITION. What each instruction uses of its fields: the operand forms (R17, R18, R112, R192, R228) and the modifier codes
that it accepts (R118 to R122, R142, R169, R191, R259, R264, R335). From these come ILLEGAL_MOD and BAD_OPERAND (R125, R126) and the
registers an instruction reads (R115 to R117). -/

namespace Sys2Proof.Machine

/-- How an instruction uses an operand field: not at all; as a source of n registers; as the data of an atomic, which the last-result
file cannot hold (R192); as a destination; as one also read; as a destination in the main or operand file only; as a predicate read or written; as a run of
main registers (R187); as a block of some bytes (R228). -/
inductive Use where
  | none
  | src (n : Nat) | data (n : Nat)
  | dst (n : Nat) | both (n : Nat) | own (n : Nat)
  | psrc | pdst
  | runSrc (n : Nat) | runDst (n : Nat)
  | block (bytes : Nat)
  deriving DecidableEq, Repr

/-- The use of the four operand fields. -/
structure Uses where
  dst : Use := .none
  sa : Use := .none
  sb : Use := .none
  sc : Use := .none
  deriving DecidableEq, Repr

/-- Registers of an integer type: a pair for 64 bits (R139). -/
def regsOf (ty : IType) : Nat := if width ty = 64 then 2 else 1
/-- Registers of a data operand (R192). -/
def sizeRegs : Size → Nat
  | .b1 => 1 | .b2 => 1 | .b4 => 1 | .b8 => 2 | .b16 => 4
/-- Registers of a block in a wide format (R185). -/
def wideRegs (code : BitVec 6) : Nat := if code = 0 then 16 else 8
/-- Registers of a packed block and its scale (R185). -/
def packRegs (code : BitVec 6) : Nat :=
  match elemOf code.toNat with
  | some e => if e.bits = 8 then 5 else if e.bits = 6 then 4 else 3
  | Option.none => 3
/-- The uses of one, two or three integer operands of a type. -/
def int1 (m : IType) : Uses := { dst := .dst (regsOf m), sa := .src (regsOf m) }
def int2 (m : IType) : Uses := { dst := .dst (regsOf m), sa := .src (regsOf m), sb := .src (regsOf m) }
def int3 (m : IType) : Uses := { dst := .dst (regsOf m), sa := .src (regsOf m), sb := .src (regsOf m), sc := .src (regsOf m) }
/-- Two operands, the second of 32 bits (R147). -/
def shift2 (m : IType) : Uses := { dst := .dst (regsOf m), sa := .src (regsOf m), sb := .src 1 }
/-- Three operands, the second of 32 bits (R147). -/
def shift3 (m : IType) : Uses := { dst := .dst (regsOf m), sa := .src (regsOf m), sb := .src 1, sc := .src (regsOf m) }
/-- The immediate form of a use: SB is unused (R112). -/
def Uses.imm (u : Uses) : Uses := { u with sb := .none }
/-- Single-register operands (R167). -/
def one1 : Uses := { dst := .dst 1, sa := .src 1 }
def one2 : Uses := { dst := .dst 1, sa := .src 1, sb := .src 1 }
def one3 : Uses := { dst := .dst 1, sa := .src 1, sb := .src 1, sc := .src 1 }
/-- LEA's operands (R152). -/
def leaUses (ty : IType) : Uses := { dst := .dst 2, sa := .src 2, sb := .src 1, sc := .src (regsOf ty) }
/-- True for an index that some special register has (R23, R63, R327, R328, R354, R378). -/
def sregExists (i : Nat) : Bool :=
  decide (i < 0x20) || (decide (0x40 ≤ i) && decide (i < 0x5E) && i != 0x4B) || (decide (0x60 ≤ i) && decide (i < 0x6E)) ||
    (decide (0x80 ≤ i) && decide (i < 0xA4))
/-- Registers of a special register (R153, R337). -/
def sregRegs (i : Nat) : Nat := if sregWide i then 2 else 1

/-- The operand fields that an instruction uses. -/
def uses : Instr → Uses
  | .mov _ m => int1 m.ty | .movi _ m => { dst := .dst (regsOf m.ty) } | .movhi _ _ => { dst := .both 2 }
  | .rds _ m => { dst := .own (if m.sreg.toNat < 0x40 then sregRegs m.sreg.toNat else 1) }
  | .add _ m => int2 m.ty | .addImm _ m => (int2 m.ty).imm | .sub _ m => int2 m.ty | .subImm _ m => (int2 m.ty).imm
  | .addc _ _ => { dst := .dst 1, sa := .src 1, sb := .src 1, sc := .pdst }
  | .subb _ _ => { dst := .dst 1, sa := .src 1, sb := .src 1, sc := .pdst }
  | .mul _ m => int2 m.ty | .mulImm _ m => (int2 m.ty).imm | .mulhi _ m => int2 m.ty | .mulhiImm _ m => (int2 m.ty).imm
  | .mad _ m => int3 m.ty | .madImm _ m => (int3 m.ty).imm
  | .madw _ _ => { dst := .dst 2, sa := .src 1, sb := .src 1, sc := .src 2 }
  | .madwImm _ _ => { dst := .dst 2, sa := .src 1, sc := .src 2 }
  | .div _ m => int2 m.ty | .divImm _ m => (int2 m.ty).imm | .rem _ m => int2 m.ty | .remImm _ m => (int2 m.ty).imm
  | .abs _ m => int1 m.ty | .neg _ m => int1 m.ty
  | .min _ m => int2 m.ty | .minImm _ m => (int2 m.ty).imm | .max _ m => int2 m.ty | .maxImm _ m => (int2 m.ty).imm
  | .clamp _ m => int3 m.ty
  | .and _ m => int2 m.ty | .andImm _ m => (int2 m.ty).imm | .or _ m => int2 m.ty | .orImm _ m => (int2 m.ty).imm
  | .xor _ m => int2 m.ty | .xorImm _ m => (int2 m.ty).imm | .andn _ m => int2 m.ty | .andnImm _ m => (int2 m.ty).imm
  | .orn _ m => int2 m.ty | .ornImm _ m => (int2 m.ty).imm
  | .shl _ m => shift2 m.ty | .shlImm _ m => (shift2 m.ty).imm | .shr _ m => shift2 m.ty | .shrImm _ m => (shift2 m.ty).imm
  | .sar _ m => shift2 m.ty | .sarImm _ m => (shift2 m.ty).imm | .rotl _ m => shift2 m.ty | .rotlImm _ m => (shift2 m.ty).imm
  | .fshl _ m => shift3 m.ty | .fshlImm _ m => (shift3 m.ty).imm
  | .bfx _ m => shift2 m.ty | .bfxImm _ m => (shift2 m.ty).imm | .bfi _ m => shift3 m.ty | .bfiImm _ m => (shift3 m.ty).imm
  | .brev _ m => int1 m.ty
  | .popc _ m => { dst := .dst 1, sa := .src (regsOf m.ty) } | .clz _ m => { dst := .dst 1, sa := .src (regsOf m.ty) }
  | .ctz _ m => { dst := .dst 1, sa := .src (regsOf m.ty) }
  | .bytep _ m => shift3 m.ty | .bytepImm _ m => (shift3 m.ty).imm | .sel _ m => int2 m.ty
  | .cmp _ m => { dst := .pdst, sa := .src (regsOf m.ty), sb := .src (regsOf m.ty) }
  | .cmpImm _ m => { dst := .pdst, sa := .src (match m.ty with | .s64 => 2 | .n64 => 2 | .s32 => 1 | .n32 => 1) }
  | .pand _ _ => { dst := .pdst, sa := .psrc, sb := .psrc } | .por _ _ => { dst := .pdst, sa := .psrc, sb := .psrc }
  | .pxor _ _ => { dst := .pdst, sa := .psrc, sb := .psrc } | .pnot _ _ => { dst := .pdst, sa := .psrc }
  | .lea _ m => leaUses m.ty | .leaImm _ m => (leaUses m.ty).imm
  | .fadd _ _ => one2 | .faddImm _ _ => one2.imm | .fsub _ _ => one2 | .fsubImm _ _ => one2.imm
  | .fmul _ _ => one2 | .fmulImm _ _ => one2.imm | .ffma _ _ => one3 | .ffmaImm _ _ => one3.imm
  | .fmin _ _ => one2 | .fmax _ _ => one2 | .fcmp _ _ => { dst := .pdst, sa := .src 1, sb := .src 1 } | .fclass _ _ => one1
  | .fdiv _ _ => one2 | .fsqrt _ _ => one1 | .frcp _ _ => one1 | .frsq _ _ => one1 | .fexp2 _ _ => one1 | .flog2 _ _ => one1
  | .fsin _ _ => one1 | .fcos _ _ => one1 | .ftanh _ _ => one1 | .frnd _ _ => one1 | .fscale _ _ => one2
  | .fabs _ _ => one1 | .fneg _ _ => one1
  | .cvt _ m => { dst := .dst (if m.dint then regsOf m.dity else 1), sa := .src (if m.sint then regsOf m.sity else 1) }
  | .cvtblk _ m => { dst := .runDst (packRegs m.dfmt), sa := .runSrc (wideRegs m.sfmt) }
  | .deqblk _ m => { dst := .runDst (wideRegs m.dfmt), sa := .runSrc (packRegs m.sfmt) }
  | .hadd2 _ _ => one2 | .hfma2 _ _ => one3 | .dot2 _ _ => one3 | .dot4 _ _ => one3
  | .ld _ m => { dst := .dst (sizeRegs m.size), sa := .src 2 } | .ldb _ m => { dst := .dst (sizeRegs m.size), sa := .src 2 }
  | .st _ m => { sa := .src 2, sb := .src (sizeRegs m.size) }
  | .lds _ m => { dst := .dst (sizeRegs m.size), sa := .src 1 } | .ldn _ m => { dst := .dst (sizeRegs m.size), sa := .src 1 }
  | .sts _ m => { sa := .src 1, sb := .src (sizeRegs m.size) }
  | .tld _ _ => { sa := .src 2, sb := .src 1, sc := .src 2 } | .tst _ _ => { sa := .src 2, sb := .src 1, sc := .src 2 }
  | .pref _ _ => { sa := .src 2 } | .cwb _ _ => { sa := .src 2, sb := .src 1 }
  | .leafwt _ _ => { sa := .src 1, sb := .src 1 } | .leaftst _ _ => { dst := .pdst, sa := .src 1, sb := .src 1 }
  | .atom _ m => { dst := .dst (sizeRegs m.size), sa := .src 2, sb := .data (sizeRegs m.size) }
  | .cas _ m => { dst := .dst (sizeRegs m.size), sa := .src 2, sb := .data (sizeRegs m.size), sc := .data (sizeRegs m.size) }
  | .red _ m => { sa := .src 2, sb := .data (sizeRegs m.size) } | .fence _ _ => { }
  | .obres _ _ => { dst := .dst 1, sa := .block 16 } | .obrel _ _ => { sa := .src 1 } | .mma _ _ => { sa := .block 64 }
  | .accz _ _ => { sa := .src 1 } | .accrd _ _ => { sa := .src 1, sb := .src 1 } | .ctab _ _ => { sa := .block 32 }
  | .tcopy _ _ => { sa := .block 128 } | .tgath _ _ => { sa := .block 64 }
  | .qpush _ _ => { dst := .dst 2, sa := .src 2, sb := .block 64 }
  | .ctradd _ _ => { sa := .src 2, sb := .src 2 } | .ctrwait _ _ => { sa := .src 2, sb := .src 2 }
  | .ctrtest _ _ => { dst := .pdst, sa := .src 2, sb := .src 2 }
  | .bra _ _ => { } | .call _ _ => { dst := .own 2 } | .brx _ _ => { sa := .src 2 } | .callx _ _ => { dst := .own 2, sa := .src 2 }
  | .ret _ _ => { sa := .src 2 } | .nop _ _ => { } | .yieldN _ _ => { } | .sleep _ _ => { } | .sleepReg _ _ => { sa := .src 1 }
  | .voteAny _ _ => { dst := .pdst, sa := .psrc } | .voteAll _ _ => { dst := .pdst, sa := .psrc }
  | .voteBallot _ _ => { dst := .dst 1, sa := .psrc } | .voteCount _ _ => { dst := .dst 1, sa := .psrc }
  | .shfl _ m => { dst := .dst 1, sa := .src 1, sb := (if m.optype.getLsbD 0 then .none else .src 1),
                   sc := (if m.imm24.getLsbD 11 then .src 1 else .none) }
  | .breduce _ _ => one1 | .bscan _ _ => one1
  | .matchLead _ m => { dst := .dst 1, sa := .src (if m.optype.getLsbD 0 then 2 else 1) }
  | .matchUni _ m => { dst := .pdst, sa := .src (if m.optype.getLsbD 0 then 2 else 1) }
  | .bsync _ _ => { } | .bsyncMask _ _ => { dst := .dst 1 }
  | .baralloc _ _ => { dst := .dst 2, sa := .src 1 } | .barallocImm _ _ => { dst := .dst 2 } | .barfree _ _ => { sa := .src 2 }
  | .bararv _ _ => { dst := .dst 1, sa := .src 2 } | .barwt _ _ => { sa := .src 2, sb := .src 1 } | .barsync _ _ => { sa := .src 2 }
  | .futset _ _ => { sa := .src 2, sb := .src 2 } | .futsetFail _ _ => { sa := .src 2, sb := .src 2 }
  | .futwaitPark _ _ => { dst := .dst 2, sa := .src 2 } | .futwaitCont _ _ => { sa := .src 2, sb := .src 2 }
  | .futtest _ _ => { dst := .pdst, sa := .src 2 } | .fspawn _ _ => { dst := .dst 1, sa := .block 64 }
  | .ffork _ _ => { dst := .dst 1, sa := .src 2, sb := .src 1 } | .fforkImm _ _ => { dst := .dst 1, sa := .src 2 }
  | .fend _ _ => { } | .grow _ _ => { } | .shrink _ _ => { } | .launch _ _ => { dst := .dst 1, sa := .block 128 }
  | .phregCreate _ _ => { dst := .dst 2 } | .phregJoin _ _ => { dst := .dst 2, sa := .src 2 } | .phdrop _ _ => { sa := .src 2 }
  | .phsig _ _ => { dst := .dst 1, sa := .src 2 } | .phwait _ _ => { dst := .dst 2, sa := .src 2, sb := .src 1 }
  | .phany _ _ => { dst := .pdst, sa := .src 2, sb := .src 1 } | .phtest _ _ => { dst := .pdst, sa := .src 2, sb := .src 1 }
  | .phtestRd _ _ => { dst := .dst 1, sa := .src 2 }
  | .trap _ _ => { } | .sysc _ _ => { } | .rett _ _ => { } | .rettNext _ _ => { }
  | .mts _ m => { sa := .src (sregRegs m.sreg.toNat) } | .mfs _ m => { dst := .own (sregRegs m.sreg.toNat) }
  | .evpop _ _ => { dst := .dst 4 } | .wfe _ _ => { } | .icinv _ _ => { sa := .src 2, sb := .src 1 }
  | .xinv _ _ => { sa := .src 2, sb := .src 1 } | .jksave _ _ => { dst := .dst 1, sa := .src 1 }
  | .jkload _ _ => { dst := .dst 1, sa := .src 1 } | .bkpt _ _ => { } | .haltc _ _ => { }
  | _ => { }

/-- A check of a modifier field: the field's lowest bit, and whether its value is refused. -/
abbrev ModCheck := Nat × Bool
/-- The lowest bit of a refused field (R126). -/
def lowestBad : List ModCheck → Option Nat
  | [] => Option.none
  | (b, bad) :: r =>
    match lowestBad r with
    | Option.none => if bad then some b else Option.none
    | some c => if bad && decide (b < c) then some b else some c

/-- The types that an instruction accepts (R142). -/
inductive Types where
  | all | wide | signed | only (ty : IType) | words
  deriving DecidableEq, Repr
/-- True for a type that a set holds. -/
def Types.has (t : Types) (ty : IType) : Bool :=
  match t with
  | .all => true
  | .wide => decide (32 ≤ width ty)
  | .signed => Machine.signed ty
  | .only a => ty = a
  | .words => width ty = 32
/-- The checks of the integer register layout: the types, and whether SAT, COND and the predicate fields are used (R142). -/
def intChecks (m : IntMod) (tys : Types) (sat := false) (cond := false) (pred := false) : List ModCheck :=
  [(0, !tys.has m.ty), (3, m.sat && !sat), (4, m.cond != .eq && !cond), (8, m.pred != 0 && !pred), (12, m.pinv && !pred)]
/-- The checks of the integer immediate layout (R142). -/
def immChecks (m : ImmMod) (tys : Types) (sat := false) : List ModCheck := [(32, !tys.has m.ty), (35, m.sat && !sat)]
/-- ADDC and SUBB: PINV is 0 where PRED is 0 (R146). -/
def carryChecks (m : IntMod) : List ModCheck := intChecks m .words (pred := true) ++ [(12, m.pred = 0 && m.pinv)]
/-- The checks of the float register layout (R169). -/
def floatChecks (m : FloatMod) (rnd ftz : Bool) (fcond := false) : List ModCheck :=
  [(3, m.rnd != .rne && !rnd), (6, m.ftz && !ftz), (7, m.fcond != .eq && !fcond)]
/-- FP32, FP16 and BF16 (R73). -/
def isWide (code : BitVec 6) : Bool := decide (code.toNat < 3)
/-- The code of .ct4 (R73). -/
def ct4 : BitVec 6 := 10
/-- A format that CVTBLK makes and DEQBLK reads (R185). -/
def isBlock (code : BitVec 6) : Bool := (elemOf code.toNat).isSome && !isWide code && code != ct4
/-- An 8-bit floating-point format (R189). -/
def isByteFloat (code : BitVec 6) : Bool := code = 3 || code = 4 || (decide (32 ≤ code.toNat) && (elemOf code.toNat).isSome)
/-- CVT's checks (R169, R170, R182). -/
def cvtChecks (m : ConvMod) : List ModCheck :=
  let dct := !m.dint && m.dfmt = ct4
  let sct := !m.sint && m.sfmt = ct4
  let wide := (!m.dint && isWide m.dfmt) || (!m.sint && isWide m.sfmt)
  [(0, if m.dint then m.dfmt != 0 else (elemOf m.dfmt.toNat).isNone || (dct && sct)),
   (6, if m.sint then m.sfmt != 0 else (elemOf m.sfmt.toNat).isNone),
   (12, dct && m.rnd != .rne), (15, dct && m.sat), (16, m.ftz && !wide), (17, m.cti != 0 && !dct && !sct),
   (19, m.dint && m.sint), (20, m.dity = .s8 || (m.dity != .s32 && !m.dint)), (24, m.sity = .s8 || (m.sity != .s32 && !m.sint))]
/-- No wide-integer side (R189). -/
def noInts (m : ConvMod) : List ModCheck := [(19, m.dint), (20, m.dity != .s32), (23, m.sint), (24, m.sity != .s32)]
/-- CVTBLK's checks (R185). -/
def cvtblkChecks (m : ConvMod) : List ModCheck :=
  [(0, !isBlock m.dfmt), (6, !isWide m.sfmt), (15, m.sat), (17, m.cti != 0)] ++ noInts m
/-- DEQBLK's checks (R186). -/
def deqblkChecks (m : ConvMod) : List ModCheck :=
  [(0, !isWide m.dfmt), (6, !isBlock m.sfmt && m.sfmt != ct4), (17, m.cti != 0 && m.sfmt != ct4)] ++ noInts m
/-- True for FP16 and BF16 (R189). -/
def isHalf (code : BitVec 6) : Bool := code = 1 || code = 2
/-- HADD2 and HFMA2 (R189). -/
def packedChecks (m : ConvMod) : List ModCheck := [(0, m.dfmt != m.sfmt), (6, !isHalf m.sfmt), (17, m.cti != 0)] ++ noInts m
/-- DOT2 (R189). -/
def dot2Checks (m : ConvMod) : List ModCheck := [(0, m.dfmt != 0), (6, !isHalf m.sfmt), (17, m.cti != 0)] ++ noInts m
/-- DOT4 (R189): the floating-point form, or with DINT the integer form. -/
def dot4Checks (m : ConvMod) : List ModCheck :=
  [(0, m.dfmt != 0), (6, if m.dint then m.sfmt != 8 else !isByteFloat m.sfmt), (12, m.dint && m.rnd != .rne), (15, m.dint && m.sat),
   (16, m.dint && m.ftz), (17, m.cti != 0), (20, m.dity != .s32), (23, m.sint), (24, m.sity != .s32)]

/-- The ORD codes that an instruction accepts (R120). -/
inductive Ords where
  | rlx | load | store | all | fence | command
  deriving DecidableEq, Repr
/-- True for a code that a set holds. -/
def Ords.has (t : Ords) (o : Ord) : Bool :=
  match t with
  | .rlx => o = .rlx
  | .load => o = .rlx || o = .acq
  | .store => o = .rlx || o = .rel
  | .all => true
  | .fence => o != .rlx
  | .command => o != .ar
/-- The EVICT codes of writes: neither .ro nor .last (R120). -/
def evictWrite (e : Evict) : Bool := e != .ro && e != .last
/-- The checks of the global memory layout: ORD, EVICT, SIZE and SX (R120, R191). -/
def globalChecks (m : GlobalMod) (ords : Ords) (evict sizes : Bool) (sx := false) : List ModCheck :=
  [(0, !ords.has m.ord), (5, !evict), (8, !sizes), (11, m.sx && (!sx || m.size = .b8 || m.size = .b16))]
/-- TLD, TST, PREF and CWB: SIZE 000 (R191). -/
def sizeless (m : GlobalMod) (ords : Ords) (evict : Bool) : List ModCheck := globalChecks m ords evict (m.size = .b1)
/-- FENCE uses ORD and SCOPE (R123, R191). -/
def fenceChecks (m : GlobalMod) : List ModCheck := sizeless m .fence (m.evict = .default) ++ [(13, m.off != 0)]
/-- The checks of the scratchpad layout (R118, R191). -/
def scratchChecks (m : ScratchMod) (load neighbour sized : Bool) : List ModCheck :=
  [(8, !sized && m.size != .b1), (11, m.sx && (!load || m.size = .b8 || m.size = .b16)), (12, m.cidx != 0 && !neighbour)]
/-- The sizes that an atomic operation accepts (R220). -/
def aopSize (a : Aop) (z : Size) : Bool :=
  match a with
  | .exch => z = .b4 || z = .b8 || z = .b16
  | .faddOrd => z = .b4 | .faddAny => z = .b4 | .fmin => z = .b4 | .fmax => z = .b4
  | _ => z = .b4 || z = .b8
/-- ATOM and RED (R191, R220). -/
def atomChecks (m : AtomicMod) (ords : Ords) : List ModCheck :=
  [(0, !ords.has m.ord), (5, !evictWrite m.evict), (8, !aopSize m.aop m.size), (11, m.sgn && m.aop != .min && m.aop != .max)]
/-- CAS: AOP 0, 4, 8 or 16 bytes (R121, R191, R220). -/
def casChecks (m : AtomicMod) : List ModCheck :=
  [(5, !evictWrite m.evict), (8, m.size = .b1 || m.size = .b2), (11, m.sgn), (12, m.aop != .add)]
/-- Engine instructions that accept no ORD, SCOPE or EVICT (R259); `arg` says whether ARG8 is accepted. -/
def plainEngine (m : EngineMod) (arg : Bool) : List ModCheck :=
  [(0, m.ord != .rlx), (2, m.scope != 0), (5, m.evict != .default), (8, !arg)]
/-- Engine instructions with ORD, SCOPE and EVICT, and ARG8 zero (R245, R248, R251, R257). -/
def scopedEngine (m : EngineMod) (ords : Ords) (evict : Bool) : List ModCheck :=
  [(0, !ords.has m.ord), (5, !evict), (8, m.arg8 != 0)]
/-- ACCRD's ARG8 (R244): format, RND, SAT. -/
def accrdArg (a : BitVec 8) : Bool :=
  let f := bits a.toNat 1 0
  let r := bits a.toNat 4 2
  f != 3 && r != 7 && bits a.toNat 7 6 == 0 && (f != 0 || (r == 0 && !bitAt a.toNat 5))
/-- The checks of the sync layout: SUBOP, OPTYPE, IMM24, and whether PRED is used (R264); PINV is never. -/
def syncChecks (m : SyncMod) (subop optype imm : Bool) (pred := false) : List ModCheck :=
  [(0, !subop), (4, !optype), (8, m.pred != 0 && !pred), (12, m.pinv), (13, !imm)]
/-- A sync instruction of one SUBOP with no other field (R155, R164). -/
def bareSync (m : SyncMod) (sub : BitVec 4) : List ModCheck := syncChecks m (m.subop = sub) (m.optype = 0) (m.imm24 = 0)
/-- A sync instruction of one SUBOP whose OPTYPE is a scope (R264). -/
def scopedSync (m : SyncMod) (sub : BitVec 4) (bound := false) (pred := false) : List ModCheck :=
  syncChecks m (m.subop = sub) (bound || decide (m.optype.toNat < 8)) (m.imm24 = 0) pred
/-- IMM24 that holds only a segment code (R159). -/
def segmentOnly (m : SyncMod) : Bool := bits m.imm24.toNat 7 0 == 0 && bits m.imm24.toNat 23 11 == 0 && decide (bits m.imm24.toNat 10 8 ≤ 4)
/-- A band-collective with a segment code (R160, R162, R163). -/
def segSync (m : SyncMod) (subop optype : Bool) : List ModCheck := syncChecks m subop optype (segmentOnly m)
/-- SHFL (R161). -/
def shflChecks (m : SyncMod) : List ModCheck :=
  syncChecks m (decide (m.subop.toNat < 4)) (decide (m.optype.toNat < 2))
    (bits m.imm24.toNat 7 5 == 0 && bits m.imm24.toNat 23 12 == 0 && decide (bits m.imm24.toNat 10 8 ≤ 4) &&
      (m.optype.getLsbD 0 || bits m.imm24.toNat 4 0 == 0))
/-- A window size: a multiple of 16 from 16 to 256 (R272). -/
def windowOk (n : Nat) : Bool := n % 16 == 0 && decide (16 ≤ n) && decide (n ≤ 256)
/-- PHREG's IMM24 (R278): 0 for .wt, 1 to 65,535 otherwise. -/
def partiesOk (m : SyncMod) : Bool :=
  if bits m.subop.toNat 1 0 = 1 then m.imm24 = 0 else decide (1 ≤ m.imm24.toNat) && decide (m.imm24.toNat ≤ 65535)
/-- The checks of the system layout: SREG, CODE (R335). -/
def systemChecks (m : SystemMod) (sreg code : Bool) : List ModCheck := [(0, m.sreg != 0 && !sreg), (8, !code)]

/-- The modifier checks of an instruction. DESIGN CHOICE (log 56): R120 gives EVICT codes .ro and .last to engine reads without naming them;
CTRWAIT and CTRTEST, which only read, accept them. -/
def modChecks : Instr → List ModCheck
  | .mov _ m => intChecks m .all | .movi _ m => immChecks m .all | .movhi _ m => immChecks m (.only .n64)
  | .add _ m => intChecks m .all true | .addImm _ m => immChecks m .all true
  | .sub _ m => intChecks m .all true | .subImm _ m => immChecks m .all true
  | .addc _ m => carryChecks m | .subb _ m => carryChecks m
  | .mul _ m => intChecks m .all true | .mulImm _ m => immChecks m .all true
  | .mulhi _ m => intChecks m .all | .mulhiImm _ m => immChecks m .all
  | .mad _ m => intChecks m .all true | .madImm _ m => immChecks m .all true
  | .madw _ m => intChecks m .words | .madwImm _ m => immChecks m .words
  | .div _ m => intChecks m .all | .divImm _ m => immChecks m .all | .rem _ m => intChecks m .all | .remImm _ m => immChecks m .all
  | .abs _ m => intChecks m .signed true | .neg _ m => intChecks m .signed true
  | .min _ m => intChecks m .all | .minImm _ m => immChecks m .all | .max _ m => intChecks m .all | .maxImm _ m => immChecks m .all
  | .clamp _ m => intChecks m .all
  | .and _ m => intChecks m .wide | .andImm _ m => immChecks m .wide | .or _ m => intChecks m .wide | .orImm _ m => immChecks m .wide
  | .xor _ m => intChecks m .wide | .xorImm _ m => immChecks m .wide | .andn _ m => intChecks m .wide | .andnImm _ m => immChecks m .wide
  | .orn _ m => intChecks m .wide | .ornImm _ m => immChecks m .wide
  | .shl _ m => intChecks m .wide | .shlImm _ m => immChecks m .wide | .shr _ m => intChecks m .wide | .shrImm _ m => immChecks m .wide
  | .sar _ m => intChecks m .wide | .sarImm _ m => immChecks m .wide | .rotl _ m => intChecks m .wide | .rotlImm _ m => immChecks m .wide
  | .fshl _ m => intChecks m .wide | .fshlImm _ m => immChecks m .wide
  | .bfx _ m => intChecks m .wide | .bfxImm _ m => immChecks m .wide | .bfi _ m => intChecks m .wide | .bfiImm _ m => immChecks m .wide
  | .brev _ m => intChecks m .wide | .popc _ m => intChecks m .wide | .clz _ m => intChecks m .wide | .ctz _ m => intChecks m .wide
  | .bytep _ m => intChecks m (.only .n32) | .bytepImm _ m => immChecks m (.only .n32)
  | .sel _ m => intChecks m .wide (pred := true) | .cmp _ m => intChecks m .all (cond := true) (pred := true)
  | .pand _ m => intChecks m (.only .s32) | .por _ m => intChecks m (.only .s32) | .pxor _ m => intChecks m (.only .s32)
  | .pnot _ m => intChecks m (.only .s32) | .lea _ m => intChecks m .wide | .leaImm _ m => immChecks m .wide
  | .fadd _ m => floatChecks m true true | .fsub _ m => floatChecks m true true | .fmul _ m => floatChecks m true true
  | .ffma _ m => floatChecks m true true | .fmin _ m => floatChecks m false true | .fmax _ m => floatChecks m false true
  | .fcmp _ m => floatChecks m false true true | .fclass _ m => floatChecks m false false
  | .fdiv _ m => floatChecks m true true | .fsqrt _ m => floatChecks m true true | .frcp _ m => floatChecks m true true
  | .frsq _ m => floatChecks m false true | .fexp2 _ m => floatChecks m false true | .flog2 _ m => floatChecks m false true
  | .fsin _ m => floatChecks m false true | .fcos _ m => floatChecks m false true | .ftanh _ m => floatChecks m false true
  | .frnd _ m => floatChecks m true true | .fscale _ m => floatChecks m true true
  | .fabs _ m => floatChecks m false false | .fneg _ m => floatChecks m false false
  | .cvt _ m => cvtChecks m | .cvtblk _ m => cvtblkChecks m | .deqblk _ m => deqblkChecks m
  | .hadd2 _ m => packedChecks m | .hfma2 _ m => packedChecks m | .dot2 _ m => dot2Checks m | .dot4 _ m => dot4Checks m
  | .ld _ m => globalChecks m .load true true true | .st _ m => globalChecks m .store (evictWrite m.evict) true
  | .ldb _ m => globalChecks m .load true (m.size != .b1 && m.size != .b2) true
  | .lds _ m => scratchChecks m true false true | .sts _ m => scratchChecks m false false true | .ldn _ m => scratchChecks m true true true
  | .tld _ m => sizeless m .load true | .tst _ m => sizeless m .store (evictWrite m.evict)
  | .pref _ m => sizeless m .rlx (m.evict != .last) | .cwb _ m => sizeless m .store (evictWrite m.evict)
  | .leafwt _ m => scratchChecks m false false false | .leaftst _ m => scratchChecks m false false false
  | .atom _ m => atomChecks m .all | .cas _ m => casChecks m | .red _ m => atomChecks m .store | .fence _ m => fenceChecks m
  | .obres _ m => plainEngine m (m.arg8 = 0) | .obrel _ m => plainEngine m (m.arg8 = 0) | .mma _ m => plainEngine m (m.arg8 = 0)
  | .accz _ m => plainEngine m (m.arg8 = 0) | .accrd _ m => plainEngine m (accrdArg m.arg8)
  | .ctab _ m => plainEngine m (decide (m.arg8.toNat < 4)) | .tcopy _ m => scopedEngine m .command true
  | .tgath _ m => scopedEngine m .load true | .qpush _ m => scopedEngine m .store (evictWrite m.evict)
  | .ctradd _ m => scopedEngine m .store (evictWrite m.evict) | .ctrwait _ m => scopedEngine m .load true
  | .ctrtest _ m => scopedEngine m .load true
  | .bra _ m => [(0, decide (4 < m.tslot.toNat))] | .call _ m => [(0, decide (4 < m.tslot.toNat))]
  | .brx _ m => bareSync m 0 | .callx _ m => bareSync m 0 | .ret _ m => bareSync m 0
  | .nop _ m => [(0, m.live.toNat % 16 != 0 || decide (256 < m.live.toNat))]
  | .yieldN _ m => syncChecks m (m.subop = 0) (m.optype = 0) (decide (m.imm24.toNat ≤ 4096))
  | .sleep _ m => syncChecks m (m.subop = 0) (m.optype = 0) true | .sleepReg _ m => bareSync m 1
  | .voteAny _ m => segSync m (m.subop = 0) (m.optype = 0) | .voteAll _ m => segSync m (m.subop = 1) (m.optype = 0)
  | .voteBallot _ m => segSync m (m.subop = 2) (m.optype = 0) | .voteCount _ m => segSync m (m.subop = 3) (m.optype = 0)
  | .shfl _ m => shflChecks m
  | .breduce _ m => segSync m (decide (m.subop.toNat < 6)) (decide (m.optype.toNat < 2))
  | .bscan _ m => segSync m (decide (m.subop.toNat < 6)) (decide (m.optype.toNat < 4))
  | .matchLead _ m => segSync m (m.subop = 0) (decide (m.optype.toNat < 2)) | .matchUni _ m => segSync m (m.subop = 1) (decide (m.optype.toNat < 2))
  | .bsync _ m => bareSync m 0 | .bsyncMask _ m => bareSync m 1
  | .baralloc _ m => bareSync m 0 | .barallocImm _ m => syncChecks m (m.subop = 1) (m.optype = 0) true | .barfree _ m => bareSync m 0
  | .bararv _ m => scopedSync m 0 | .barwt _ m => scopedSync m 0 | .barsync _ m => scopedSync m 0
  | .futset _ m => scopedSync m 0 | .futsetFail _ m => scopedSync m 1 | .futwaitPark _ m => scopedSync m 0 (pred := true)
  | .futwaitCont _ m => scopedSync m 1 | .futtest _ m => scopedSync m 0 (pred := true)
  | .fspawn _ m => bareSync m 0 | .ffork _ m => bareSync m 0 | .fforkImm _ m => syncChecks m (m.subop = 1) (m.optype = 0) true
  | .fend _ m => bareSync m 0
  | .grow _ m => syncChecks m (m.subop = 0) (m.optype = 0) (windowOk m.imm24.toNat)
  | .shrink _ m => syncChecks m (m.subop = 0) (m.optype = 0) (windowOk m.imm24.toNat) | .launch _ m => scopedSync m 0
  | .phregCreate _ m => syncChecks m (m.subop.getLsbD 2 && !m.subop.getLsbD 3) (decide (m.optype.toNat < 8) && bits m.optype.toNat 1 0 != 3) (partiesOk m)
  | .phregJoin _ m => syncChecks m (decide (m.subop.toNat < 4)) (m.optype = 0) (partiesOk m)
  | .phdrop _ m => syncChecks m (decide (m.subop.toNat < 4)) (m.optype = 0) (m.subop != 1 || m.imm24 = 0)
  | .phsig _ m => scopedSync m 0 true | .phwait _ m => scopedSync m 0 | .phany _ m => scopedSync m 0 true
  | .phtest _ m => scopedSync m 0 | .phtestRd _ m => scopedSync m 1
  | .trap _ m => systemChecks m false true | .sysc _ m => systemChecks m false true | .bkpt _ m => systemChecks m false true
  | .rett _ m => systemChecks m false (m.code = 0) | .rettNext _ m => systemChecks m false (m.code = 1)
  | .mts _ m => systemChecks m true (m.code = 0) | .mfs _ m => systemChecks m true (m.code = 0)
  | .evpop _ m => systemChecks m false (m.code = 0) | .wfe _ m => systemChecks m false (m.code = 0)
  | .icinv _ m => systemChecks m false (m.code = 0) | .xinv _ m => systemChecks m false (m.code = 0)
  | .jksave _ m => systemChecks m false (m.code = 0) | .jkload _ m => systemChecks m false (m.code = 0)
  | .haltc _ m => systemChecks m false (m.code = 0)
  | _ => []

/-- The fields that an instruction has beside its modifier (R111); a machine step has none. -/
def headOf : Instr → Option Head
  | .mov h _ => some h | .movi h _ => some h | .movhi h _ => some h | .rds h _ => some h | .add h _ => some h | .addImm h _ => some h
  | .addc h _ => some h | .sub h _ => some h | .subImm h _ => some h | .subb h _ => some h | .mul h _ => some h | .mulImm h _ => some h
  | .mulhi h _ => some h | .mulhiImm h _ => some h | .mad h _ => some h | .madImm h _ => some h | .madw h _ => some h
  | .madwImm h _ => some h | .div h _ => some h | .divImm h _ => some h | .rem h _ => some h | .remImm h _ => some h | .abs h _ => some h
  | .neg h _ => some h | .min h _ => some h | .minImm h _ => some h | .max h _ => some h | .maxImm h _ => some h | .clamp h _ => some h
  | .and h _ => some h | .andImm h _ => some h | .or h _ => some h | .orImm h _ => some h | .xor h _ => some h | .xorImm h _ => some h
  | .andn h _ => some h | .andnImm h _ => some h | .orn h _ => some h | .ornImm h _ => some h | .shl h _ => some h | .shlImm h _ => some h
  | .shr h _ => some h | .shrImm h _ => some h | .sar h _ => some h | .sarImm h _ => some h | .rotl h _ => some h | .rotlImm h _ => some h
  | .fshl h _ => some h | .fshlImm h _ => some h | .bfx h _ => some h | .bfxImm h _ => some h | .bfi h _ => some h | .bfiImm h _ => some h
  | .brev h _ => some h | .popc h _ => some h | .clz h _ => some h | .ctz h _ => some h | .bytep h _ => some h | .bytepImm h _ => some h
  | .sel h _ => some h | .cmp h _ => some h | .cmpImm h _ => some h | .pand h _ => some h | .por h _ => some h | .pxor h _ => some h
  | .pnot h _ => some h | .lea h _ => some h | .leaImm h _ => some h | .fadd h _ => some h | .faddImm h _ => some h | .fsub h _ => some h
  | .fsubImm h _ => some h | .fmul h _ => some h | .fmulImm h _ => some h | .ffma h _ => some h | .ffmaImm h _ => some h
  | .fmin h _ => some h | .fmax h _ => some h | .fcmp h _ => some h | .fclass h _ => some h | .fdiv h _ => some h | .fsqrt h _ => some h
  | .frcp h _ => some h | .frsq h _ => some h | .fexp2 h _ => some h | .flog2 h _ => some h | .fsin h _ => some h | .fcos h _ => some h
  | .ftanh h _ => some h | .frnd h _ => some h | .fscale h _ => some h | .fabs h _ => some h | .fneg h _ => some h | .cvt h _ => some h
  | .cvtblk h _ => some h | .deqblk h _ => some h | .hadd2 h _ => some h | .hfma2 h _ => some h | .dot2 h _ => some h | .dot4 h _ => some h
  | .ld h _ => some h | .st h _ => some h | .ldb h _ => some h | .lds h _ => some h | .sts h _ => some h | .ldn h _ => some h
  | .tld h _ => some h | .tst h _ => some h | .pref h _ => some h | .cwb h _ => some h | .leafwt h _ => some h | .leaftst h _ => some h
  | .atom h _ => some h | .cas h _ => some h | .red h _ => some h | .fence h _ => some h | .obres h _ => some h | .obrel h _ => some h
  | .mma h _ => some h | .accz h _ => some h | .accrd h _ => some h | .ctab h _ => some h | .tcopy h _ => some h | .tgath h _ => some h
  | .qpush h _ => some h | .ctradd h _ => some h | .ctrwait h _ => some h | .ctrtest h _ => some h | .bra h _ => some h
  | .brx h _ => some h | .call h _ => some h | .callx h _ => some h | .ret h _ => some h | .nop h _ => some h | .yieldN h _ => some h
  | .sleep h _ => some h | .sleepReg h _ => some h | .voteAny h _ => some h | .voteAll h _ => some h | .voteBallot h _ => some h
  | .voteCount h _ => some h | .shfl h _ => some h | .breduce h _ => some h | .bscan h _ => some h | .matchLead h _ => some h
  | .matchUni h _ => some h | .bsync h _ => some h | .bsyncMask h _ => some h | .baralloc h _ => some h | .barallocImm h _ => some h
  | .barfree h _ => some h | .bararv h _ => some h | .barwt h _ => some h | .barsync h _ => some h | .futset h _ => some h
  | .futsetFail h _ => some h | .futwaitPark h _ => some h | .futwaitCont h _ => some h | .futtest h _ => some h | .fspawn h _ => some h
  | .ffork h _ => some h | .fforkImm h _ => some h | .fend h _ => some h | .grow h _ => some h | .shrink h _ => some h
  | .launch h _ => some h | .phregCreate h _ => some h | .phregJoin h _ => some h | .phdrop h _ => some h | .phsig h _ => some h
  | .phwait h _ => some h | .phany h _ => some h | .phtest h _ => some h | .phtestRd h _ => some h | .trap h _ => some h
  | .sysc h _ => some h | .rett h _ => some h | .rettNext h _ => some h | .mts h _ => some h | .mfs h _ => some h | .evpop h _ => some h
  | .wfe h _ => some h | .icinv h _ => some h | .xinv h _ => some h | .jksave h _ => some h | .jkload h _ => some h | .bkpt h _ => some h
  | .haltc h _ => some h
  | _ => Option.none

/-- The checks of the operand fields that an instruction does not use (R112, R264, R335), with the lowest bit of each (R111). -/
def unusedChecks (h : Head) (u : Uses) : List ModCheck :=
  [(37, u.sc = .none && h.sc != 0), (47, u.sb = .none && h.sb != 0), (57, u.sa = .none && h.sa != 0), (67, u.dst = .none && h.dst != 0)]
/-- ILLEGAL_MOD of an instruction as the decoder reads it: the lowest bit of the refused field (R125, R126). -/
def modFault (i : Instr) : Option Nat :=
  match headOf i with
  | some h => lowestBad (modChecks i ++ unusedChecks h (uses i))
  | Option.none => Option.none

/-- True when n registers from a field on, a multiple of n, are not all in its file (R17, R18, R192). -/
def regsBad (win : Nat) (f : Field) (n : Nat) : Bool :=
  f.idx % n != 0 || decide ((match f.file with | .main => win | .operand => 8 | .last => 2 | .team => 64) < f.idx + n)
/-- True when an operand field breaks its form, for a window size (R17, R18, R21, R112, R153, R155, R187, R192, R228, R337). -/
def fieldBad (win : Nat) (u : Use) (f : Field) : Bool :=
  match u with
  | .none => false
  | .src n => regsBad win f n || (f.file = .last && n != 1)
  | .data n => regsBad win f n || f.file = .last
  | .dst n => regsBad win f n || f.file = .last
  | .both n => regsBad win f n || f.file = .last
  | .own n => regsBad win f n || f.file = .last || f.file = .team
  | .psrc => decide (16 ≤ f.toNat)
  | .pdst => decide (16 ≤ f.toNat)
  | .runSrc n => f.file != .main || decide (win < f.idx + n)
  | .runDst n => f.file != .main || decide (win < f.idx + n)
  | .block b => if f.file = .team then regsBad win f (b / 4) else regsBad win f 1 || f.file = .last
/-- $TVAL of BAD_OPERAND and STALL_SHORT (R125, R117): the operand field's index and its ten bits. -/
def fieldVal (i : Nat) (f : Field) : Nat := i + 4 * f.toNat
/-- The index of an absent special register that the instruction names (R125, R153, R337). -/
def absentSreg : Instr → Option Nat
  | .rds _ m => if m.sreg.toNat < 0x40 && !sregExists m.sreg.toNat then some m.sreg.toNat else Option.none
  | .mts _ m => if !sregExists m.sreg.toNat then some m.sreg.toNat else Option.none
  | .mfs _ m => if !sregExists m.sreg.toNat then some m.sreg.toNat else Option.none
  | _ => Option.none
/-- BAD_OPERAND of an instruction for a window size: $TVAL, for the field that holds the lowest bit (R125, R126). -/
def operandFault (win : Nat) (i : Instr) : Option Nat :=
  match absentSreg i with
  | some n => some (0x1000 + n)
  | Option.none =>
    match headOf i with
    | Option.none => Option.none
    | some h =>
      let u := uses i
      if fieldBad win u.sc h.sc then some (fieldVal 3 h.sc)
      else if fieldBad win u.sb h.sb then some (fieldVal 2 h.sb)
      else if fieldBad win u.sa h.sa then some (fieldVal 1 h.sa)
      else if fieldBad win u.dst h.dst then some (fieldVal 0 h.dst)
      else Option.none

/-- The registers that a field's use reads (R115): none for a destination, and of MOVHI's pair the even one, which is part of its result
(R144). -/
def fieldReads (u : Use) (f : Field) : List RegName :=
  let run := fun (n : Nat) => (List.range n).map (fun k => regName f.file (f.idx + k))
  match u with
  | .src n => run n
  | .data n => run n
  | .both _ => run 1
  | .psrc => if f.pred = 0 then [] else [.pred f.pred]
  | .runSrc n => run n
  | .block b => if f.file = .team then run (b / 4) else run 1
  | _ => []
/-- The predicate that PRED names (R143, R146, R150, R151). -/
def predRead : Instr → Nat
  | .addc _ m => m.pred.toNat | .subb _ m => m.pred.toNat | .sel _ m => m.pred.toNat | .cmp _ m => m.pred.toNat
  | _ => 0
/-- Every register that an instruction reads, its guard and PRED included (R113, R115). -/
def readsOf (i : Instr) : List RegName :=
  match headOf i with
  | Option.none => []
  | some h =>
    let u := uses i
    fieldReads u.sc h.sc ++ fieldReads u.sb h.sb ++ fieldReads u.sa h.sa ++ fieldReads u.dst h.dst ++
      (if h.gp = 0 then [] else [.pred h.gp.toNat]) ++ (if predRead i = 0 then [] else [.pred (predRead i)])

/-- True for an opcode of the map (R123, R124). -/
def opcodeAssigned (n : Nat) : Bool :=
  (decide (n < 0x48) && n != 0x07 && n != 0x0B && n != 0x1F && n != 0x3F) || (decide (0x80 ≤ n) && decide (n < 0x99)) ||
    (decide (0x100 ≤ n) && decide (n < 0x107)) || (decide (0x180 ≤ n) && decide (n < 0x18C)) || (decide (0x200 ≤ n) && decide (n < 0x204)) ||
    (decide (0x280 ≤ n) && decide (n < 0x28C)) || (decide (0x300 ≤ n) && decide (n < 0x308)) || (decide (0x310 ≤ n) && decide (n < 0x316)) ||
    (decide (0x320 ≤ n) && decide (n < 0x325)) || (decide (0x328 ≤ n) && decide (n < 0x32B)) || (decide (0x330 ≤ n) && decide (n < 0x336)) ||
    (decide (0x338 ≤ n) && decide (n < 0x33E)) || (decide (0x380 ≤ n) && decide (n < 0x38D))
/-- The opcode of a slot (R111). -/
def opcodeOf (w : BitVec 96) : Nat := (w.extractLsb' 86 10).toNat

end Sys2Proof.Machine
end

