-- ==== Sys2Proof/WellFormed.lean ====
section
/-! DEFINITION. When an instruction is well formed: its modifier and operand fields are ones it accepts (R118 to R122, R112), in the
largest window (R19); a slot of an unassigned opcode holds one (R124). A machine step has no fields to check. -/

namespace Sys2Proof

/-- An instruction whose fields raise neither ILLEGAL_MOD nor, in a window of 256 registers, BAD_OPERAND (R125). -/
def Instr.wf (i : Instr) : Bool :=
  match i with
  | .unassignedOpcode w => !Machine.opcodeAssigned (Machine.opcodeOf w)
  | _ => (Machine.modFault i).isNone && (Machine.operandFault 256 i).isNone

end Sys2Proof
end

