-- ==== Sys2Proof/Decode.lean ====
section
/-! DEFINITION. The decoder (R111, R118 to R124): total on 96-bit slots and on bytes, refusing by the lowest bit of the field that raises
ILLEGAL_MOD (R125); after it the encoder, from the same tables. -/

namespace Sys2Proof

open Machine (ModCheck lowestBad modChecks unusedChecks uses headOf opcodeOf opcodeAssigned)

/-- Why a slot or some bytes are not an instruction: ILLEGAL_MOD with the lowest bit of the field (R125), or fewer than twelve bytes. -/
inductive DecodeFault where
  | illegalMod (bit : Nat)
  | tooShort
  deriving DecidableEq, Repr

/-- ITYPE (R119). -/
def itypeOf (b : BitVec 3) : IType :=
  match b.toNat with
  | 0 => .s32 | 1 => .n32 | 2 => .s64 | 3 => .n64 | 4 => .s16 | 5 => .n16 | 6 => .s8 | _ => .n8
/-- FTYPE (R119); a reserved code is refused beside. -/
def ftypeOf (b : BitVec 3) : FType :=
  match b.toNat with
  | 1 => .f16 | 2 => .bf16 | _ => .f32
/-- COND (R119). -/
def condOf (b : BitVec 3) : Cond :=
  match b.toNat with
  | 1 => .ne | 2 => .lt | 3 => .le | 4 => .gt | 5 => .ge | _ => .eq
/-- CTYPE (R118). -/
def ctypeOf (b : BitVec 2) : CType :=
  match b.toNat with
  | 0 => .s32 | 1 => .n32 | 2 => .s64 | _ => .n64
/-- FCOND (R119). -/
def fcondOf (b : BitVec 4) : FCond :=
  match b.toNat with
  | 1 => .ne | 2 => .lt | 3 => .le | 4 => .gt | 5 => .ge | 6 => .un | 7 => .ord | _ => .eq
/-- RND (R84). -/
def rndOf (b : BitVec 3) : Rnd :=
  match b.toNat with
  | 1 => .rtz | 2 => .rup | 3 => .rdn | 4 => .rna | 5 => .sr | 6 => .dyn | _ => .rne
/-- ORD (R120). -/
def ordOf (b : BitVec 2) : Ord :=
  match b.toNat with
  | 0 => .rlx | 1 => .acq | 2 => .rel | _ => .ar
/-- EVICT (R120). -/
def evictOf (b : BitVec 3) : Evict :=
  match b.toNat with
  | 1 => .keep | 2 => .llc | 3 => .ro | 4 => .evf | 5 => .stream | 6 => .last | _ => .default
/-- SIZE (R120). -/
def sizeOf (b : BitVec 3) : Size :=
  match b.toNat with
  | 1 => .b2 | 2 => .b4 | 3 => .b8 | 4 => .b16 | _ => .b1
/-- AOP (R121). -/
def aopOf (b : BitVec 4) : Aop :=
  match b.toNat with
  | 0 => .add | 1 => .min | 2 => .max | 3 => .and | 4 => .or | 5 => .xor | 7 => .incw | 8 => .decw
  | 9 => .faddOrd | 10 => .faddAny | 11 => .fmin | 12 => .fmax | _ => .exch

/-- The fields beside OPC and MOD (R111). -/
def readHead (w : BitVec 96) : Head :=
  { stall := w.extractLsb' 82 4, gp := w.extractLsb' 78 4, gi := w.getLsbD 77, dst := w.extractLsb' 67 10, sa := w.extractLsb' 57 10,
    sb := w.extractLsb' 47 10, sc := w.extractLsb' 37 10 }
/-- MOD (R111). -/
def readMod (w : BitVec 96) : BitVec 37 := w.extractLsb' 0 37
/-- The integer register layout (R118). -/
def readInt (m : BitVec 37) : IntMod :=
  { ty := itypeOf (m.extractLsb' 0 3), sat := m.getLsbD 3, cond := condOf (m.extractLsb' 4 3), pred := m.extractLsb' 8 4, pinv := m.getLsbD 12 }
/-- The integer immediate layout (R118). -/
def readImm (m : BitVec 37) : ImmMod := { imm := m.extractLsb' 0 32, ty := itypeOf (m.extractLsb' 32 3), sat := m.getLsbD 35 }
/-- The compare immediate layout (R118). -/
def readCmpImm (m : BitVec 37) : CmpImmMod :=
  { imm := m.extractLsb' 0 32, ty := ctypeOf (m.extractLsb' 32 2), cond := condOf (m.extractLsb' 34 3) }
/-- The special layout (R118). -/
def readSpecial (m : BitVec 37) : SpecialMod := { sreg := m.extractLsb' 0 8 }
/-- The float register layout (R118). -/
def readFloat (m : BitVec 37) : FloatMod :=
  { ty := ftypeOf (m.extractLsb' 0 3), rnd := rndOf (m.extractLsb' 3 3), ftz := m.getLsbD 6, fcond := fcondOf (m.extractLsb' 7 4) }
/-- The float immediate layout (R118). -/
def readFloatImm (m : BitVec 37) : FloatImmMod := { imm := m.extractLsb' 0 32, rnd := rndOf (m.extractLsb' 32 3), ftz := m.getLsbD 35 }
/-- The conversion layout (R118). -/
def readConv (m : BitVec 37) : ConvMod :=
  { dfmt := m.extractLsb' 0 6, sfmt := m.extractLsb' 6 6, rnd := rndOf (m.extractLsb' 12 3), sat := m.getLsbD 15, ftz := m.getLsbD 16,
    cti := m.extractLsb' 17 2, dint := m.getLsbD 19, dity := itypeOf (m.extractLsb' 20 3), sint := m.getLsbD 23,
    sity := itypeOf (m.extractLsb' 24 3) }
/-- The global memory layout (R118). -/
def readGlobal (m : BitVec 37) : GlobalMod :=
  { ord := ordOf (m.extractLsb' 0 2), scope := m.extractLsb' 2 3, evict := evictOf (m.extractLsb' 5 3), size := sizeOf (m.extractLsb' 8 3),
    sx := m.getLsbD 11, off := m.extractLsb' 13 24 }
/-- The scratchpad layout (R118). -/
def readScratch (m : BitVec 37) : ScratchMod :=
  { size := sizeOf (m.extractLsb' 8 3), sx := m.getLsbD 11, cidx := m.extractLsb' 12 2, off := m.extractLsb' 14 23 }
/-- The atomic layout (R118). -/
def readAtomic (m : BitVec 37) : AtomicMod :=
  { ord := ordOf (m.extractLsb' 0 2), scope := m.extractLsb' 2 3, evict := evictOf (m.extractLsb' 5 3), size := sizeOf (m.extractLsb' 8 3),
    sgn := m.getLsbD 11, aop := aopOf (m.extractLsb' 12 4), off := m.extractLsb' 16 21 }
/-- The engine layout (R118). -/
def readEngine (m : BitVec 37) : EngineMod :=
  { ord := ordOf (m.extractLsb' 0 2), scope := m.extractLsb' 2 3, evict := evictOf (m.extractLsb' 5 3), arg8 := m.extractLsb' 8 8 }
/-- The branch layout (R118). -/
def readBranch (m : BitVec 37) : BranchMod := { tslot := m.extractLsb' 0 3, ldisp := m.extractLsb' 3 29 }
/-- The sync layout (R118). -/
def readSync (m : BitVec 37) : SyncMod :=
  { subop := m.extractLsb' 0 4, optype := m.extractLsb' 4 4, pred := m.extractLsb' 8 4, pinv := m.getLsbD 12, imm24 := m.extractLsb' 13 24 }
/-- The fold layout (R118). -/
def readFold (m : BitVec 37) : FoldMod := { live := m.extractLsb' 0 9 }
/-- The system layout (R118). -/
def readSystem (m : BitVec 37) : SystemMod := { sreg := m.extractLsb' 0 8, code := m.extractLsb' 8 8 }

/-- The modifier layouts (R118). -/
inductive Layout where
  | int | imm | cmpImm | special | float | floatImm | conv | global | scratch | atomic | engine | branch | sync | fold | system
  deriving DecidableEq, Repr
/-- True when n bits of MOD from a bit on are not all zero. -/
def someBits (m : BitVec 37) (lo n : Nat) : Bool := (m.extractLsb' lo n).toNat != 0
/-- True when n bits of MOD from a bit on hold more than a limit. -/
def exceeds (m : BitVec 37) (lo n limit : Nat) : Bool := decide (limit < (m.extractLsb' lo n).toNat)
/-- The reserved bits and reserved codes of a layout (R84, R118 to R121). -/
def rawChecks (l : Layout) (m : BitVec 37) : List ModCheck :=
  match l with
  | .int => [(4, exceeds m 4 3 5), (7, m.getLsbD 7), (13, someBits m 13 24)]
  | .imm => [(36, m.getLsbD 36)]
  | .cmpImm => [(34, exceeds m 34 3 5)]
  | .special => [(8, someBits m 8 29)]
  | .float => [(0, exceeds m 0 3 2), (3, exceeds m 3 3 6), (7, exceeds m 7 4 7), (11, someBits m 11 26)]
  | .floatImm => [(32, exceeds m 32 3 6), (36, m.getLsbD 36)]
  | .conv => [(12, exceeds m 12 3 6), (27, someBits m 27 10)]
  | .global => [(5, exceeds m 5 3 6), (8, exceeds m 8 3 4), (12, m.getLsbD 12)]
  | .scratch => [(0, someBits m 0 8), (8, exceeds m 8 3 4)]
  | .atomic => [(5, exceeds m 5 3 6), (8, exceeds m 8 3 4), (12, exceeds m 12 4 12)]
  | .engine => [(5, exceeds m 5 3 6), (16, someBits m 16 21)]
  | .branch => [(32, someBits m 32 5)]
  | .sync => []
  | .fold => [(9, someBits m 9 28)]
  | .system => [(16, someBits m 16 21)]

/-- Group 000 of the opcode map (R123): an opcode, the common fields and MOD. -/
def intGroupOf (opc : Nat) (h : Head) (m : BitVec 37) : Option (Instr × Layout) :=
  match opc with
  | 0x000 => some (.mov h (readInt m), .int)
  | 0x001 => some (.movi h (readImm m), .imm)
  | 0x002 => some (.movhi h (readImm m), .imm)
  | 0x003 => some (.rds h (readSpecial m), .special)
  | 0x004 => some (.add h (readInt m), .int)
  | 0x005 => some (.addImm h (readImm m), .imm)
  | 0x006 => some (.addc h (readInt m), .int)
  | 0x008 => some (.sub h (readInt m), .int)
  | 0x009 => some (.subImm h (readImm m), .imm)
  | 0x00A => some (.subb h (readInt m), .int)
  | 0x00C => some (.mul h (readInt m), .int)
  | 0x00D => some (.mulImm h (readImm m), .imm)
  | 0x00E => some (.mulhi h (readInt m), .int)
  | 0x00F => some (.mulhiImm h (readImm m), .imm)
  | 0x010 => some (.mad h (readInt m), .int)
  | 0x011 => some (.madImm h (readImm m), .imm)
  | 0x012 => some (.madw h (readInt m), .int)
  | 0x013 => some (.madwImm h (readImm m), .imm)
  | 0x014 => some (.div h (readInt m), .int)
  | 0x015 => some (.divImm h (readImm m), .imm)
  | 0x016 => some (.rem h (readInt m), .int)
  | 0x017 => some (.remImm h (readImm m), .imm)
  | 0x018 => some (.abs h (readInt m), .int)
  | 0x019 => some (.neg h (readInt m), .int)
  | 0x01A => some (.min h (readInt m), .int)
  | 0x01B => some (.minImm h (readImm m), .imm)
  | 0x01C => some (.max h (readInt m), .int)
  | 0x01D => some (.maxImm h (readImm m), .imm)
  | 0x01E => some (.clamp h (readInt m), .int)
  | 0x020 => some (.and h (readInt m), .int)
  | 0x021 => some (.andImm h (readImm m), .imm)
  | 0x022 => some (.or h (readInt m), .int)
  | 0x023 => some (.orImm h (readImm m), .imm)
  | 0x024 => some (.xor h (readInt m), .int)
  | 0x025 => some (.xorImm h (readImm m), .imm)
  | 0x026 => some (.andn h (readInt m), .int)
  | 0x027 => some (.andnImm h (readImm m), .imm)
  | 0x028 => some (.orn h (readInt m), .int)
  | 0x029 => some (.ornImm h (readImm m), .imm)
  | 0x02A => some (.shl h (readInt m), .int)
  | 0x02B => some (.shlImm h (readImm m), .imm)
  | 0x02C => some (.shr h (readInt m), .int)
  | 0x02D => some (.shrImm h (readImm m), .imm)
  | 0x02E => some (.sar h (readInt m), .int)
  | 0x02F => some (.sarImm h (readImm m), .imm)
  | 0x030 => some (.rotl h (readInt m), .int)
  | 0x031 => some (.rotlImm h (readImm m), .imm)
  | 0x032 => some (.fshl h (readInt m), .int)
  | 0x033 => some (.fshlImm h (readImm m), .imm)
  | 0x034 => some (.bfx h (readInt m), .int)
  | 0x035 => some (.bfxImm h (readImm m), .imm)
  | 0x036 => some (.bfi h (readInt m), .int)
  | 0x037 => some (.bfiImm h (readImm m), .imm)
  | 0x038 => some (.brev h (readInt m), .int)
  | 0x039 => some (.popc h (readInt m), .int)
  | 0x03A => some (.clz h (readInt m), .int)
  | 0x03B => some (.ctz h (readInt m), .int)
  | 0x03C => some (.bytep h (readInt m), .int)
  | 0x03D => some (.bytepImm h (readImm m), .imm)
  | 0x03E => some (.sel h (readInt m), .int)
  | 0x040 => some (.cmp h (readInt m), .int)
  | 0x041 => some (.cmpImm h (readCmpImm m), .cmpImm)
  | 0x042 => some (.pand h (readInt m), .int)
  | 0x043 => some (.por h (readInt m), .int)
  | 0x044 => some (.pxor h (readInt m), .int)
  | 0x045 => some (.pnot h (readInt m), .int)
  | 0x046 => some (.lea h (readInt m), .int)
  | 0x047 => some (.leaImm h (readImm m), .imm)
  | _ => none
/-- Group 001 of the opcode map (R123): an opcode, the common fields and MOD. -/
def floatGroupOf (opc : Nat) (h : Head) (m : BitVec 37) : Option (Instr × Layout) :=
  match opc with
  | 0x080 => some (.fadd h (readFloat m), .float)
  | 0x081 => some (.faddImm h (readFloatImm m), .floatImm)
  | 0x082 => some (.fsub h (readFloat m), .float)
  | 0x083 => some (.fsubImm h (readFloatImm m), .floatImm)
  | 0x084 => some (.fmul h (readFloat m), .float)
  | 0x085 => some (.fmulImm h (readFloatImm m), .floatImm)
  | 0x086 => some (.ffma h (readFloat m), .float)
  | 0x087 => some (.ffmaImm h (readFloatImm m), .floatImm)
  | 0x088 => some (.fmin h (readFloat m), .float)
  | 0x089 => some (.fmax h (readFloat m), .float)
  | 0x08A => some (.fcmp h (readFloat m), .float)
  | 0x08B => some (.fclass h (readFloat m), .float)
  | 0x08C => some (.fdiv h (readFloat m), .float)
  | 0x08D => some (.fsqrt h (readFloat m), .float)
  | 0x08E => some (.frcp h (readFloat m), .float)
  | 0x08F => some (.frsq h (readFloat m), .float)
  | 0x090 => some (.fexp2 h (readFloat m), .float)
  | 0x091 => some (.flog2 h (readFloat m), .float)
  | 0x092 => some (.fsin h (readFloat m), .float)
  | 0x093 => some (.fcos h (readFloat m), .float)
  | 0x094 => some (.ftanh h (readFloat m), .float)
  | 0x095 => some (.frnd h (readFloat m), .float)
  | 0x096 => some (.fscale h (readFloat m), .float)
  | 0x097 => some (.fabs h (readFloat m), .float)
  | 0x098 => some (.fneg h (readFloat m), .float)
  | _ => none
/-- Group 010 of the opcode map (R123): an opcode, the common fields and MOD. -/
def convGroupOf (opc : Nat) (h : Head) (m : BitVec 37) : Option (Instr × Layout) :=
  match opc with
  | 0x100 => some (.cvt h (readConv m), .conv)
  | 0x101 => some (.cvtblk h (readConv m), .conv)
  | 0x102 => some (.deqblk h (readConv m), .conv)
  | 0x103 => some (.hadd2 h (readConv m), .conv)
  | 0x104 => some (.hfma2 h (readConv m), .conv)
  | 0x105 => some (.dot2 h (readConv m), .conv)
  | 0x106 => some (.dot4 h (readConv m), .conv)
  | _ => none
/-- Group 011 of the opcode map (R123): an opcode, the common fields and MOD. -/
def memoryGroupOf (opc : Nat) (h : Head) (m : BitVec 37) : Option (Instr × Layout) :=
  match opc with
  | 0x180 => some (.ld h (readGlobal m), .global)
  | 0x181 => some (.st h (readGlobal m), .global)
  | 0x182 => some (.ldb h (readGlobal m), .global)
  | 0x183 => some (.lds h (readScratch m), .scratch)
  | 0x184 => some (.sts h (readScratch m), .scratch)
  | 0x185 => some (.ldn h (readScratch m), .scratch)
  | 0x186 => some (.tld h (readGlobal m), .global)
  | 0x187 => some (.tst h (readGlobal m), .global)
  | 0x188 => some (.pref h (readGlobal m), .global)
  | 0x189 => some (.cwb h (readGlobal m), .global)
  | 0x18A => some (.leafwt h (readScratch m), .scratch)
  | 0x18B => some (.leaftst h (readScratch m), .scratch)
  | _ => none
/-- Group 100 of the opcode map (R123): an opcode, the common fields and MOD. -/
def atomicGroupOf (opc : Nat) (h : Head) (m : BitVec 37) : Option (Instr × Layout) :=
  match opc with
  | 0x200 => some (.atom h (readAtomic m), .atomic)
  | 0x201 => some (.cas h (readAtomic m), .atomic)
  | 0x202 => some (.red h (readAtomic m), .atomic)
  | 0x203 => some (.fence h (readGlobal m), .global)
  | _ => none
/-- Group 101 of the opcode map (R123): an opcode, the common fields and MOD. -/
def engineGroupOf (opc : Nat) (h : Head) (m : BitVec 37) : Option (Instr × Layout) :=
  match opc with
  | 0x280 => some (.obres h (readEngine m), .engine)
  | 0x281 => some (.obrel h (readEngine m), .engine)
  | 0x282 => some (.mma h (readEngine m), .engine)
  | 0x283 => some (.accz h (readEngine m), .engine)
  | 0x284 => some (.accrd h (readEngine m), .engine)
  | 0x285 => some (.ctab h (readEngine m), .engine)
  | 0x286 => some (.tcopy h (readEngine m), .engine)
  | 0x287 => some (.tgath h (readEngine m), .engine)
  | 0x288 => some (.qpush h (readEngine m), .engine)
  | 0x289 => some (.ctradd h (readEngine m), .engine)
  | 0x28A => some (.ctrwait h (readEngine m), .engine)
  | 0x28B => some (.ctrtest h (readEngine m), .engine)
  | _ => none
/-- Group 110 of the opcode map (R123): an opcode, the common fields and MOD. -/
def syncGroupOf (opc : Nat) (h : Head) (m : BitVec 37) : Option (Instr × Layout) :=
  match opc with
  | 0x300 => some (.bra h (readBranch m), .branch)
  | 0x301 => some (.brx h (readSync m), .sync)
  | 0x302 => some (.call h (readBranch m), .branch)
  | 0x303 => some (.callx h (readSync m), .sync)
  | 0x304 => some (.ret h (readSync m), .sync)
  | 0x305 => some (.nop h (readFold m), .fold)
  | 0x306 => some (.yieldN h (readSync m), .sync)
  | 0x307 => some (if (readSync m).subop = 1 then .sleepReg h (readSync m) else .sleep h (readSync m), .sync)
  | 0x310 => some (if (readSync m).subop = 1 then .voteAll h (readSync m) else if (readSync m).subop = 2 then .voteBallot h (readSync m) else if (readSync m).subop = 3 then .voteCount h (readSync m) else .voteAny h (readSync m), .sync)
  | 0x311 => some (.shfl h (readSync m), .sync)
  | 0x312 => some (.breduce h (readSync m), .sync)
  | 0x313 => some (.bscan h (readSync m), .sync)
  | 0x314 => some (if (readSync m).subop = 1 then .matchUni h (readSync m) else .matchLead h (readSync m), .sync)
  | 0x315 => some (if (readSync m).subop = 1 then .bsyncMask h (readSync m) else .bsync h (readSync m), .sync)
  | 0x320 => some (if (readSync m).subop = 1 then .barallocImm h (readSync m) else .baralloc h (readSync m), .sync)
  | 0x321 => some (.barfree h (readSync m), .sync)
  | 0x322 => some (.bararv h (readSync m), .sync)
  | 0x323 => some (.barwt h (readSync m), .sync)
  | 0x324 => some (.barsync h (readSync m), .sync)
  | 0x328 => some (if (readSync m).subop = 1 then .futsetFail h (readSync m) else .futset h (readSync m), .sync)
  | 0x329 => some (if (readSync m).subop = 1 then .futwaitCont h (readSync m) else .futwaitPark h (readSync m), .sync)
  | 0x32A => some (.futtest h (readSync m), .sync)
  | 0x330 => some (.fspawn h (readSync m), .sync)
  | 0x331 => some (if (readSync m).subop = 1 then .fforkImm h (readSync m) else .ffork h (readSync m), .sync)
  | 0x332 => some (.fend h (readSync m), .sync)
  | 0x333 => some (.grow h (readSync m), .sync)
  | 0x334 => some (.shrink h (readSync m), .sync)
  | 0x335 => some (.launch h (readSync m), .sync)
  | 0x338 => some (if (readSync m).subop.getLsbD 2 then .phregCreate h (readSync m) else .phregJoin h (readSync m), .sync)
  | 0x339 => some (.phdrop h (readSync m), .sync)
  | 0x33A => some (.phsig h (readSync m), .sync)
  | 0x33B => some (.phwait h (readSync m), .sync)
  | 0x33C => some (.phany h (readSync m), .sync)
  | 0x33D => some (if (readSync m).subop = 1 then .phtestRd h (readSync m) else .phtest h (readSync m), .sync)
  | _ => none
/-- Group 111 of the opcode map (R123): an opcode, the common fields and MOD. -/
def systemGroupOf (opc : Nat) (h : Head) (m : BitVec 37) : Option (Instr × Layout) :=
  match opc with
  | 0x380 => some (.trap h (readSystem m), .system)
  | 0x381 => some (.sysc h (readSystem m), .system)
  | 0x382 => some (if (readSystem m).code = 1 then .rettNext h (readSystem m) else .rett h (readSystem m), .system)
  | 0x383 => some (.mts h (readSystem m), .system)
  | 0x384 => some (.mfs h (readSystem m), .system)
  | 0x385 => some (.evpop h (readSystem m), .system)
  | 0x386 => some (.wfe h (readSystem m), .system)
  | 0x387 => some (.icinv h (readSystem m), .system)
  | 0x388 => some (.xinv h (readSystem m), .system)
  | 0x389 => some (.jksave h (readSystem m), .system)
  | 0x38A => some (.jkload h (readSystem m), .system)
  | 0x38B => some (.bkpt h (readSystem m), .system)
  | 0x38C => some (.haltc h (readSystem m), .system)
  | _ => none
/-- The instruction and layout of an opcode (R123): the group is its top three bits (R111). -/
def opcodeMap (opc : Nat) (h : Head) (m : BitVec 37) : Option (Instr × Layout) :=
  match opc / 128 with
  | 0 => intGroupOf opc h m
  | 1 => floatGroupOf opc h m
  | 2 => convGroupOf opc h m
  | 3 => memoryGroupOf opc h m
  | 4 => atomicGroupOf opc h m
  | 5 => engineGroupOf opc h m
  | 6 => syncGroupOf opc h m
  | 7 => systemGroupOf opc h m
  | _ => none
/-- A slot decoded (R111 to R126): an unassigned opcode, else the lowest refused field, else the instruction. -/
def decode (w : BitVec 96) : Except DecodeFault Instr :=
  match opcodeMap (opcodeOf w) (readHead w) (readMod w) with
  | none => .ok (.unassignedOpcode w)
  | some (i, l) =>
    match lowestBad (rawChecks l (readMod w) ++ modChecks i ++ unusedChecks (readHead w) (uses i)) with
    | some b => .error (.illegalMod b)
    | none => .ok i
/-- The 96 bits of twelve bytes, the first lowest (R7, R102). -/
def slotOfBytes (bs : List Byte) : BitVec 96 := BitVec.ofNat 96 (Machine.ofBytes bs)
/-- Bytes decoded: an instruction and the bytes after it. -/
def decodeBytes (bs : List Byte) : Except DecodeFault (Instr × List Byte) :=
  if bs.length < 12 then .error .tooShort
  else
    match decode (slotOfBytes (bs.take 12)) with
    | .error e => .error e
    | .ok i => .ok (i, bs.drop 12)
/-- The instruction of a table word: its bytes as the hardware stores them, decoded; none where the decoder refuses them or an operand
field raises BAD_OPERAND in every window. -/
def decodeTableWord (_nbits w : Nat) : Option Instr :=
  match decodeBytes (Machine.toBytes 12 w) with
  | .ok (i, _) => if (Machine.operandFault 256 i).isNone then some i else none
  | .error _ => none

/-- The code of an ITYPE (R119). -/
def itypeCode : IType → BitVec 3
  | .s32 => 0 | .n32 => 1 | .s64 => 2 | .n64 => 3 | .s16 => 4 | .n16 => 5 | .s8 => 6 | .n8 => 7
/-- The code of an FTYPE (R119). -/
def ftypeCode : FType → BitVec 3
  | .f32 => 0 | .f16 => 1 | .bf16 => 2
/-- The code of a COND (R119). -/
def condCode : Cond → BitVec 3
  | .eq => 0 | .ne => 1 | .lt => 2 | .le => 3 | .gt => 4 | .ge => 5
/-- The code of a CTYPE (R118). -/
def ctypeCode : CType → BitVec 2
  | .s32 => 0 | .n32 => 1 | .s64 => 2 | .n64 => 3
/-- The code of an FCOND (R119). -/
def fcondCode : FCond → BitVec 4
  | .eq => 0 | .ne => 1 | .lt => 2 | .le => 3 | .gt => 4 | .ge => 5 | .un => 6 | .ord => 7
/-- The code of a rounding field (R84). -/
def rndCode : Rnd → BitVec 3
  | .rne => 0 | .rtz => 1 | .rup => 2 | .rdn => 3 | .rna => 4 | .sr => 5 | .dyn => 6
/-- The code of an ORD (R120). -/
def ordCode : Ord → BitVec 2
  | .rlx => 0 | .acq => 1 | .rel => 2 | .ar => 3
/-- The code of an EVICT (R120). -/
def evictCode : Evict → BitVec 3
  | .default => 0 | .keep => 1 | .llc => 2 | .ro => 3 | .evf => 4 | .stream => 5 | .last => 6
/-- The code of a SIZE (R120). -/
def sizeCode : Size → BitVec 3
  | .b1 => 0 | .b2 => 1 | .b4 => 2 | .b8 => 3 | .b16 => 4
/-- The code of an AOP (R121). -/
def aopCode : Aop → BitVec 4
  | .add => 0 | .min => 1 | .max => 2 | .and => 3 | .or => 4 | .xor => 5 | .exch => 6 | .incw => 7 | .decw => 8
  | .faddOrd => 9 | .faddAny => 10 | .fmin => 11 | .fmax => 12
/-- A one-bit field. -/
def flag (b : Bool) : BitVec 1 := BitVec.ofBool b
/-- MOD of each layout (R118), highest field first. -/
def intBits (m : IntMod) : BitVec 37 := 0#24 ++ flag m.pinv ++ m.pred ++ 0#1 ++ condCode m.cond ++ flag m.sat ++ itypeCode m.ty
def immBits (m : ImmMod) : BitVec 37 := 0#1 ++ flag m.sat ++ itypeCode m.ty ++ m.imm
def cmpImmBits (m : CmpImmMod) : BitVec 37 := condCode m.cond ++ ctypeCode m.ty ++ m.imm
def specialBits (m : SpecialMod) : BitVec 37 := 0#29 ++ m.sreg
def floatBits (m : FloatMod) : BitVec 37 := 0#26 ++ fcondCode m.fcond ++ flag m.ftz ++ rndCode m.rnd ++ ftypeCode m.ty
def floatImmBits (m : FloatImmMod) : BitVec 37 := 0#1 ++ flag m.ftz ++ rndCode m.rnd ++ m.imm
def convBits (m : ConvMod) : BitVec 37 :=
  0#10 ++ itypeCode m.sity ++ flag m.sint ++ itypeCode m.dity ++ flag m.dint ++ m.cti ++ flag m.ftz ++ flag m.sat ++ rndCode m.rnd ++ m.sfmt ++ m.dfmt
def globalBits (m : GlobalMod) : BitVec 37 :=
  m.off ++ 0#1 ++ flag m.sx ++ sizeCode m.size ++ evictCode m.evict ++ m.scope ++ ordCode m.ord
def scratchBits (m : ScratchMod) : BitVec 37 := m.off ++ m.cidx ++ flag m.sx ++ sizeCode m.size ++ 0#8
def atomicBits (m : AtomicMod) : BitVec 37 :=
  m.off ++ aopCode m.aop ++ flag m.sgn ++ sizeCode m.size ++ evictCode m.evict ++ m.scope ++ ordCode m.ord
def engineBits (m : EngineMod) : BitVec 37 := 0#21 ++ m.arg8 ++ evictCode m.evict ++ m.scope ++ ordCode m.ord
def branchBits (m : BranchMod) : BitVec 37 := 0#5 ++ m.ldisp ++ m.tslot
def syncBits (m : SyncMod) : BitVec 37 := m.imm24 ++ flag m.pinv ++ m.pred ++ m.optype ++ m.subop
def foldBits (m : FoldMod) : BitVec 37 := 0#28 ++ m.live
def systemBits (m : SystemMod) : BitVec 37 := 0#21 ++ m.code ++ m.sreg
/-- A slot of an opcode, the common fields and MOD (R111). -/
def slotOf (opc : BitVec 10) (h : Head) (m : BitVec 37) : BitVec 96 :=
  opc ++ h.stall ++ h.gp ++ flag h.gi ++ h.dst ++ h.sa ++ h.sb ++ h.sc ++ m

/-- The slot that encodes an instruction (R111, R118, R123); none for a machine step, which is no instruction of a program. -/
def encode : Instr → Option (BitVec 96)
  | .mov h m => some (slotOf 0x000 h (intBits m))
  | .movi h m => some (slotOf 0x001 h (immBits m))
  | .movhi h m => some (slotOf 0x002 h (immBits m))
  | .rds h m => some (slotOf 0x003 h (specialBits m))
  | .add h m => some (slotOf 0x004 h (intBits m))
  | .addImm h m => some (slotOf 0x005 h (immBits m))
  | .addc h m => some (slotOf 0x006 h (intBits m))
  | .sub h m => some (slotOf 0x008 h (intBits m))
  | .subImm h m => some (slotOf 0x009 h (immBits m))
  | .subb h m => some (slotOf 0x00A h (intBits m))
  | .mul h m => some (slotOf 0x00C h (intBits m))
  | .mulImm h m => some (slotOf 0x00D h (immBits m))
  | .mulhi h m => some (slotOf 0x00E h (intBits m))
  | .mulhiImm h m => some (slotOf 0x00F h (immBits m))
  | .mad h m => some (slotOf 0x010 h (intBits m))
  | .madImm h m => some (slotOf 0x011 h (immBits m))
  | .madw h m => some (slotOf 0x012 h (intBits m))
  | .madwImm h m => some (slotOf 0x013 h (immBits m))
  | .div h m => some (slotOf 0x014 h (intBits m))
  | .divImm h m => some (slotOf 0x015 h (immBits m))
  | .rem h m => some (slotOf 0x016 h (intBits m))
  | .remImm h m => some (slotOf 0x017 h (immBits m))
  | .abs h m => some (slotOf 0x018 h (intBits m))
  | .neg h m => some (slotOf 0x019 h (intBits m))
  | .min h m => some (slotOf 0x01A h (intBits m))
  | .minImm h m => some (slotOf 0x01B h (immBits m))
  | .max h m => some (slotOf 0x01C h (intBits m))
  | .maxImm h m => some (slotOf 0x01D h (immBits m))
  | .clamp h m => some (slotOf 0x01E h (intBits m))
  | .and h m => some (slotOf 0x020 h (intBits m))
  | .andImm h m => some (slotOf 0x021 h (immBits m))
  | .or h m => some (slotOf 0x022 h (intBits m))
  | .orImm h m => some (slotOf 0x023 h (immBits m))
  | .xor h m => some (slotOf 0x024 h (intBits m))
  | .xorImm h m => some (slotOf 0x025 h (immBits m))
  | .andn h m => some (slotOf 0x026 h (intBits m))
  | .andnImm h m => some (slotOf 0x027 h (immBits m))
  | .orn h m => some (slotOf 0x028 h (intBits m))
  | .ornImm h m => some (slotOf 0x029 h (immBits m))
  | .shl h m => some (slotOf 0x02A h (intBits m))
  | .shlImm h m => some (slotOf 0x02B h (immBits m))
  | .shr h m => some (slotOf 0x02C h (intBits m))
  | .shrImm h m => some (slotOf 0x02D h (immBits m))
  | .sar h m => some (slotOf 0x02E h (intBits m))
  | .sarImm h m => some (slotOf 0x02F h (immBits m))
  | .rotl h m => some (slotOf 0x030 h (intBits m))
  | .rotlImm h m => some (slotOf 0x031 h (immBits m))
  | .fshl h m => some (slotOf 0x032 h (intBits m))
  | .fshlImm h m => some (slotOf 0x033 h (immBits m))
  | .bfx h m => some (slotOf 0x034 h (intBits m))
  | .bfxImm h m => some (slotOf 0x035 h (immBits m))
  | .bfi h m => some (slotOf 0x036 h (intBits m))
  | .bfiImm h m => some (slotOf 0x037 h (immBits m))
  | .brev h m => some (slotOf 0x038 h (intBits m))
  | .popc h m => some (slotOf 0x039 h (intBits m))
  | .clz h m => some (slotOf 0x03A h (intBits m))
  | .ctz h m => some (slotOf 0x03B h (intBits m))
  | .bytep h m => some (slotOf 0x03C h (intBits m))
  | .bytepImm h m => some (slotOf 0x03D h (immBits m))
  | .sel h m => some (slotOf 0x03E h (intBits m))
  | .cmp h m => some (slotOf 0x040 h (intBits m))
  | .cmpImm h m => some (slotOf 0x041 h (cmpImmBits m))
  | .pand h m => some (slotOf 0x042 h (intBits m))
  | .por h m => some (slotOf 0x043 h (intBits m))
  | .pxor h m => some (slotOf 0x044 h (intBits m))
  | .pnot h m => some (slotOf 0x045 h (intBits m))
  | .lea h m => some (slotOf 0x046 h (intBits m))
  | .leaImm h m => some (slotOf 0x047 h (immBits m))
  | .fadd h m => some (slotOf 0x080 h (floatBits m))
  | .faddImm h m => some (slotOf 0x081 h (floatImmBits m))
  | .fsub h m => some (slotOf 0x082 h (floatBits m))
  | .fsubImm h m => some (slotOf 0x083 h (floatImmBits m))
  | .fmul h m => some (slotOf 0x084 h (floatBits m))
  | .fmulImm h m => some (slotOf 0x085 h (floatImmBits m))
  | .ffma h m => some (slotOf 0x086 h (floatBits m))
  | .ffmaImm h m => some (slotOf 0x087 h (floatImmBits m))
  | .fmin h m => some (slotOf 0x088 h (floatBits m))
  | .fmax h m => some (slotOf 0x089 h (floatBits m))
  | .fcmp h m => some (slotOf 0x08A h (floatBits m))
  | .fclass h m => some (slotOf 0x08B h (floatBits m))
  | .fdiv h m => some (slotOf 0x08C h (floatBits m))
  | .fsqrt h m => some (slotOf 0x08D h (floatBits m))
  | .frcp h m => some (slotOf 0x08E h (floatBits m))
  | .frsq h m => some (slotOf 0x08F h (floatBits m))
  | .fexp2 h m => some (slotOf 0x090 h (floatBits m))
  | .flog2 h m => some (slotOf 0x091 h (floatBits m))
  | .fsin h m => some (slotOf 0x092 h (floatBits m))
  | .fcos h m => some (slotOf 0x093 h (floatBits m))
  | .ftanh h m => some (slotOf 0x094 h (floatBits m))
  | .frnd h m => some (slotOf 0x095 h (floatBits m))
  | .fscale h m => some (slotOf 0x096 h (floatBits m))
  | .fabs h m => some (slotOf 0x097 h (floatBits m))
  | .fneg h m => some (slotOf 0x098 h (floatBits m))
  | .cvt h m => some (slotOf 0x100 h (convBits m))
  | .cvtblk h m => some (slotOf 0x101 h (convBits m))
  | .deqblk h m => some (slotOf 0x102 h (convBits m))
  | .hadd2 h m => some (slotOf 0x103 h (convBits m))
  | .hfma2 h m => some (slotOf 0x104 h (convBits m))
  | .dot2 h m => some (slotOf 0x105 h (convBits m))
  | .dot4 h m => some (slotOf 0x106 h (convBits m))
  | .ld h m => some (slotOf 0x180 h (globalBits m))
  | .st h m => some (slotOf 0x181 h (globalBits m))
  | .ldb h m => some (slotOf 0x182 h (globalBits m))
  | .lds h m => some (slotOf 0x183 h (scratchBits m))
  | .sts h m => some (slotOf 0x184 h (scratchBits m))
  | .ldn h m => some (slotOf 0x185 h (scratchBits m))
  | .tld h m => some (slotOf 0x186 h (globalBits m))
  | .tst h m => some (slotOf 0x187 h (globalBits m))
  | .pref h m => some (slotOf 0x188 h (globalBits m))
  | .cwb h m => some (slotOf 0x189 h (globalBits m))
  | .leafwt h m => some (slotOf 0x18A h (scratchBits m))
  | .leaftst h m => some (slotOf 0x18B h (scratchBits m))
  | .atom h m => some (slotOf 0x200 h (atomicBits m))
  | .cas h m => some (slotOf 0x201 h (atomicBits m))
  | .red h m => some (slotOf 0x202 h (atomicBits m))
  | .fence h m => some (slotOf 0x203 h (globalBits m))
  | .obres h m => some (slotOf 0x280 h (engineBits m))
  | .obrel h m => some (slotOf 0x281 h (engineBits m))
  | .mma h m => some (slotOf 0x282 h (engineBits m))
  | .accz h m => some (slotOf 0x283 h (engineBits m))
  | .accrd h m => some (slotOf 0x284 h (engineBits m))
  | .ctab h m => some (slotOf 0x285 h (engineBits m))
  | .tcopy h m => some (slotOf 0x286 h (engineBits m))
  | .tgath h m => some (slotOf 0x287 h (engineBits m))
  | .qpush h m => some (slotOf 0x288 h (engineBits m))
  | .ctradd h m => some (slotOf 0x289 h (engineBits m))
  | .ctrwait h m => some (slotOf 0x28A h (engineBits m))
  | .ctrtest h m => some (slotOf 0x28B h (engineBits m))
  | .bra h m => some (slotOf 0x300 h (branchBits m))
  | .brx h m => some (slotOf 0x301 h (syncBits m))
  | .call h m => some (slotOf 0x302 h (branchBits m))
  | .callx h m => some (slotOf 0x303 h (syncBits m))
  | .ret h m => some (slotOf 0x304 h (syncBits m))
  | .nop h m => some (slotOf 0x305 h (foldBits m))
  | .yieldN h m => some (slotOf 0x306 h (syncBits m))
  | .sleep h m => some (slotOf 0x307 h (syncBits m))
  | .sleepReg h m => some (slotOf 0x307 h (syncBits m))
  | .voteAny h m => some (slotOf 0x310 h (syncBits m))
  | .voteAll h m => some (slotOf 0x310 h (syncBits m))
  | .voteBallot h m => some (slotOf 0x310 h (syncBits m))
  | .voteCount h m => some (slotOf 0x310 h (syncBits m))
  | .shfl h m => some (slotOf 0x311 h (syncBits m))
  | .breduce h m => some (slotOf 0x312 h (syncBits m))
  | .bscan h m => some (slotOf 0x313 h (syncBits m))
  | .matchLead h m => some (slotOf 0x314 h (syncBits m))
  | .matchUni h m => some (slotOf 0x314 h (syncBits m))
  | .bsync h m => some (slotOf 0x315 h (syncBits m))
  | .bsyncMask h m => some (slotOf 0x315 h (syncBits m))
  | .baralloc h m => some (slotOf 0x320 h (syncBits m))
  | .barallocImm h m => some (slotOf 0x320 h (syncBits m))
  | .barfree h m => some (slotOf 0x321 h (syncBits m))
  | .bararv h m => some (slotOf 0x322 h (syncBits m))
  | .barwt h m => some (slotOf 0x323 h (syncBits m))
  | .barsync h m => some (slotOf 0x324 h (syncBits m))
  | .futset h m => some (slotOf 0x328 h (syncBits m))
  | .futsetFail h m => some (slotOf 0x328 h (syncBits m))
  | .futwaitPark h m => some (slotOf 0x329 h (syncBits m))
  | .futwaitCont h m => some (slotOf 0x329 h (syncBits m))
  | .futtest h m => some (slotOf 0x32A h (syncBits m))
  | .fspawn h m => some (slotOf 0x330 h (syncBits m))
  | .ffork h m => some (slotOf 0x331 h (syncBits m))
  | .fforkImm h m => some (slotOf 0x331 h (syncBits m))
  | .fend h m => some (slotOf 0x332 h (syncBits m))
  | .grow h m => some (slotOf 0x333 h (syncBits m))
  | .shrink h m => some (slotOf 0x334 h (syncBits m))
  | .launch h m => some (slotOf 0x335 h (syncBits m))
  | .phregCreate h m => some (slotOf 0x338 h (syncBits m))
  | .phregJoin h m => some (slotOf 0x338 h (syncBits m))
  | .phdrop h m => some (slotOf 0x339 h (syncBits m))
  | .phsig h m => some (slotOf 0x33A h (syncBits m))
  | .phwait h m => some (slotOf 0x33B h (syncBits m))
  | .phany h m => some (slotOf 0x33C h (syncBits m))
  | .phtest h m => some (slotOf 0x33D h (syncBits m))
  | .phtestRd h m => some (slotOf 0x33D h (syncBits m))
  | .trap h m => some (slotOf 0x380 h (systemBits m))
  | .sysc h m => some (slotOf 0x381 h (systemBits m))
  | .rett h m => some (slotOf 0x382 h (systemBits m))
  | .rettNext h m => some (slotOf 0x382 h (systemBits m))
  | .mts h m => some (slotOf 0x383 h (systemBits m))
  | .mfs h m => some (slotOf 0x384 h (systemBits m))
  | .evpop h m => some (slotOf 0x385 h (systemBits m))
  | .wfe h m => some (slotOf 0x386 h (systemBits m))
  | .icinv h m => some (slotOf 0x387 h (systemBits m))
  | .xinv h m => some (slotOf 0x388 h (systemBits m))
  | .jksave h m => some (slotOf 0x389 h (systemBits m))
  | .jkload h m => some (slotOf 0x38A h (systemBits m))
  | .bkpt h m => some (slotOf 0x38B h (systemBits m))
  | .haltc h m => some (slotOf 0x38C h (systemBits m))
  | .unassignedOpcode w => some w
  | _ => none

end Sys2Proof
end

