-- ==== Sys2Proof/Machine/Launch.lean ====
section
/-! DEFINITION. Front ends (R52 to R59, R275, R315 to R317, R382, R383, R429): the launch record and its checks, preconditions, the
choice of a queue, packets, placement, card dealing and completion. -/

namespace Sys2Proof.Machine

open Host (Outcome)

/-- A launch record (R54). -/
structure Rec where
  form : Nat
  nlvl : Nat
  tl : Nat
  prio : Nat
  prek : List Nat
  win : Nat
  rmode : Nat
  fflags : Nat
  leaves : Nat
  bars : Nat
  acct : Nat
  podidx : Nat
  cardteams : Nat
  minchunk : Nat
  spwin : Nat
  spleaves : Nat
  spscope : Point
  entry : Dword
  levels : List Lvl
  pread : List Nat
  preval : List Nat
  donectr : Nat
  donefut : Nat
  args : List Word
  cardbase : Nat
  cardcount : Nat
  cardsize : Nat
/-- The fields of a record's bytes (R54). -/
def readRec (b : List Byte) : Rec :=
  let w := blockDword b 0
  let v := blockDword b 8
  let n := bits w 4 2 + 1
  { form := w % 4, nlvl := n, tl := bits w 7 5, prio := bits w 9 8, prek := [bits w 12 10, bits w 15 13], win := bits w 20 16
    rmode := bits w 23 21, fflags := bits w 28 24, leaves := bits w 41 32, bars := bits w 48 42, acct := bits w 55 49, podidx := bits w 63 56
    cardteams := bits v 15 0, minchunk := bits v 31 16, spwin := bits v 36 32, spleaves := bits v 46 37, spscope := pointOf (bits v 48 47)
    entry := BitVec.ofNat 64 (blockDword b 0x10)
    levels := (List.range n).map (fun i => let x := blockWord b (0x18 + 4 * i); ⟨bits x 23 0, bits x 27 24, pointOf (bits x 29 28)⟩)
    pread := [blockDword b 0x38, blockDword b 0x48], preval := [blockDword b 0x40, blockDword b 0x50]
    donectr := blockDword b 0x58, donefut := blockDword b 0x60
    args := (List.range 6).map (fun i => BitVec.ofNat 32 (blockWord b (0x68 + 4 * i)))
    cardbase := blockDword b 0x68, cardcount := blockWord b 0x70, cardsize := blockWord b 0x74 }
/-- The product of the extents of levels from a up to b, b not included. -/
def Rec.units (r : Rec) (a b : Nat) : Nat := (((r.levels.take b).drop a).map (·.extent)).foldl (· * ·) 1
/-- Fibres of a team (R49). -/
def Rec.teamSize (r : Rec) : Nat := r.units 0 r.tl
/-- What a team of a record needs of a core (R46). -/
def Rec.needs (r : Rec) : Needs := ⟨r.teamSize, r.teamSize * 16 * r.win, r.leaves, r.acct⟩
/-- The scope point of the top level. -/
def Rec.top (r : Rec) : Point := (r.levels.getD (r.nlvl - 1) ⟨1, 0, .core⟩).pt
/-- True where the top level is bound to pod (R53). -/
def Rec.podBound (r : Rec) : Bool := (r.levels.getD (r.nlvl - 1) ⟨1, 0, .core⟩).dom = 7
/-- Teams of a gang: those of one unit of the outermost level bound to a domain (R52); 1 where there is none. -/
def Rec.gangOf (r : Rec) (dom : Nat) : Nat :=
  match ((List.range r.nlvl).filter (fun n => decide (r.tl < n) && (r.levels.getD n ⟨1, 0, .core⟩).dom = dom)).getLast? with
  | some n => r.units r.tl n
  | none => 1
/-- Teams placed together (R52). -/
def Rec.gang (r : Rec) : Nat := max (r.gangOf 3) (r.gangOf 4)
/-- How many teams go into a quantity of a resource; none needed is no limit. -/
def goes (free need : Nat) : Nat := if need = 0 then 4096 else free / need
/-- Teams of a record that an empty core holds. -/
def Rec.perCore (r : Rec) : Nat :=
  let n := r.needs
  min Config.teamSlots (min (goes Config.fibreSlots n.fibres) (min (goes Config.mainRegs n.regs)
    (min (goes Config.leavesPerCore n.leaves) (goes Config.tilesPerCore n.tiles))))
/-- Reserved fields of a record (R54). -/
def recReserved (b : List Byte) : Bool :=
  let r := readRec b
  bits (blockDword b 0) 31 29 ≠ 0 || blockDword b 8 / 2 ^ 49 ≠ 0 || (List.range r.nlvl).any (fun i => blockWord b (0x18 + 4 * i) / 2 ^ 30 ≠ 0)
/-- A breach of R50, or BAD_LEVEL's other conditions (R56). -/
def Rec.levelBad (r : Rec) : Bool :=
  let dom := fun n => (r.levels.getD n ⟨1, 0, .core⟩).dom
  decide (r.nlvl ≤ r.tl) || r.levels.any (fun x => x.extent = 0 || decide (8 ≤ x.dom)) || dom 0 ≠ 0 ||
  (List.range r.nlvl).any (fun n =>
    (n ≠ 0 && dom n = 0) || (n ≠ 0 && decide (dom n < dom (n - 1))) || (decide (n ≤ r.tl) && decide (2 < dom n)) ||
    (decide (r.tl < n) && decide (dom n < 3)) || (dom n = 1 && !([1, 2, 4, 8, 16, 32] : List Nat).contains (r.units 0 n)) ||
    (dom n = 7 && n + 1 ≠ r.nlvl))
/-- A breach of R51. -/
def Rec.scopeBad (r : Rec) : Bool :=
  let x := fun n => r.levels.getD n ⟨1, 0, .core⟩
  (List.range r.nlvl).any (fun n =>
    ((x n).pt = .core && decide (3 < (x n).dom)) || ((x n).pt = .package && decide (6 < (x n).dom)) ||
    (n ≠ 0 && decide ((x n).pt.num < (x (n - 1)).pt.num)))
/-- BAD_TEAM (R56). -/
def Rec.teamBad (r : Rec) : Bool :=
  r.teamSize = 0 || decide (1024 < r.teamSize) || r.win = 0 || decide (16 < r.win) || decide (16 < r.spwin) ||
  decide (131072 < r.teamSize * r.win * 16) || decide (5 < r.rmode) || decide (512 < r.leaves) || decide (512 < r.spleaves) ||
  decide (64 < r.bars) || decide (64 < r.acct)
/-- BAD_CARD (R56). -/
def Rec.cardBad (r : Rec) : Bool :=
  if r.form = 1 then
    decide (r.tl + 1 < r.nlvl) || r.cardteams = 0 || r.minchunk = 0 || r.cardsize % 4 ≠ 0 || decide (r.cardsize < 4) || decide (65532 < r.cardsize)
  else r.cardteams ≠ 0 || r.minchunk ≠ 0
/-- NOFIT (R56): a team or a gang that no empty core or cluster holds. -/
def Rec.noFit (r : Rec) : Bool :=
  r.perCore = 0 || decide (r.perCore < r.gangOf 3) || decide (Config.coresPerCluster * (r.perCore / r.gangOf 3) * r.gangOf 3 < r.gangOf 4)

/-- What a precondition comes to (R57): it holds, it does not yet, it cannot, or its page is not there. -/
inductive Pre where
  | met | unmet | fault
  | park (va : Nat)
  deriving DecidableEq, Repr
/-- The level at which a front end translates for a launch: the monitor's own queue is the monitor's. -/
def Launch.agentLevel (x : Launch) : Level := if x.slot = some 16 then .monitor else .user
/-- Bytes at their home as a front end reads them. -/
def State.preRead (s : State) (part : Nat) (level : Level) (va n : Nat) (k : List Byte → Pre) : Pre :=
  match s.agentAccess part level [.read] va with
  | .error _ => .fault
  | .ok none => .park va
  | .ok (some ia) => k (s.bytesAt (agentCore (part / 96)) (s.space part ia) ia .pod n)
/-- One precondition of a record (R56, R57). DESIGN CHOICE (log 53): R56 names no alignment for PREnADDR; a counter that is not 8-byte, a future
that is not 16-byte or a phaser's object that is not 64-byte aligned is a PRE_FAULT. -/
def State.pre (s : State) (part : Nat) (level : Level) (kind addr val : Nat) : Pre :=
  if kind = 0 then .met
  else if kind = 1 then
    (if 2 ^ 56 ≤ addr || addr % 8 ≠ 0 then .fault
     else s.preRead part level addr 8 (fun b => if val ≤ ofBytes b then .met else .unmet))
  else if kind = 2 then
    (if 2 ^ 56 ≤ addr || addr % 16 ≠ 0 then .fault
     else s.preRead part level addr 16 (fun b =>
       if futBad b || (readFut b).1 = 3 then .fault else if (readFut b).1 = 2 then .met else .unmet))
  else
    let h := BitVec.ofNat 64 addr
    let now := fun (p : Ph) => if phaseReached p.phase (BitVec.ofNat 32 val) then Pre.met else .unmet
    if h.getLsbD 63 then
      (if bits addr 63 56 ≠ 128 || bits addr 31 30 ≠ 1 || bits addr 15 9 ≠ 0 || decide (2 < phLevel h) ||
          (phLevel h ≠ 2 && phPkg h ≠ part / 96) || (s.homeSlot h).isNone then .fault
       else match s.countSlot (part / 96) h with | some x => now x.ph | none => .fault)
    else if 2 ^ 56 ≤ addr || addr % 64 ≠ 0 then .fault
    else s.preRead part level addr 64 (fun b => if phObjBad b then .fault else now (readPh b))
/-- Both preconditions of a record. -/
def State.pres (s : State) (part : Nat) (level : Level) (r : Rec) : List Pre :=
  [s.pre part level (r.prek.getD 0 0) (r.pread.getD 0 0) (r.preval.getD 0 0),
   s.pre part level (r.prek.getD 1 0) (r.pread.getD 1 0) (r.preval.getD 1 0)]
/-- BAD_DONE (R56). -/
def State.doneBad (s : State) (part : Nat) (level : Level) (r : Rec) : Bool :=
  let denied := fun (va : Nat) => [Acc.read, .write].any (fun k => match s.rangeCheck part level k va with | .ok _ => false | .error _ => true)
  (r.donectr ≠ 0 && (r.donectr % 8 ≠ 0 || decide (2 ^ 56 ≤ r.donectr) || denied r.donectr)) ||
  (r.donefut ≠ 0 && (r.donefut % 16 ≠ 0 || decide (2 ^ 56 ≤ r.donefut) || denied r.donefut))
/-- The lowest code for which a record is rejected (R56), if any. -/
def State.recCheck (s : State) (part : Nat) (level : Level) (b : List Byte) : Option Nat :=
  let r := readRec b
  firstBad [
    (decide (2 ≤ r.form) || r.prek.any (fun k => decide (4 ≤ k)) || recReserved b, 1), (r.levelBad, 2), (r.scopeBad, 3), (r.teamBad, 4),
    (decide ((r.levels.getD (r.nlvl - 1) ⟨1, 0, .core⟩).extent ≤ r.podidx) || (r.podidx ≠ 0 && !r.podBound), 5), (r.cardBad, 6), (r.noFit, 7),
    ((s.pres part level r).contains .fault, 8), (s.doneBad part level r, 9)]

/-- A launch changed. -/
def State.modLaunch (s : State) (id : Nat) (g : Launch → Launch) : State :=
  { s with launches := s.launches.map (fun x => if x.id = id then g x else x) }
/-- A launch gone. -/
def State.dropLaunch (s : State) (id : Nat) : State := { s with launches := s.launches.filter (fun x => x.id ≠ id) }
/-- What a front end does to an object of a launch (R56, R58): the completion counter's add, or the future set to a value or to a code. -/
inductive LaunchAct where
  | count (va : Nat)
  | future (va : Nat) (fail : Bool) (value : Nat)
/-- The object's address. -/
def LaunchAct.va : LaunchAct → Nat
  | .count va => va
  | .future va _ _ => va
/-- The next action of a launch that is rejected or has run out, if one is left (R56, R58). -/
def Launch.act (x : Launch) : Option LaunchAct :=
  let r := readRec x.rec_
  match x.stage with
  | .rejecting code => if r.donefut = 0 || code = 9 then none else some (.future r.donefut true code)
  | _ =>
    if r.donectr ≠ 0 && !x.counted then some (.count r.donectr)
    else if r.donefut ≠ 0 then some (.future r.donefut false x.begun) else none
/-- An action made at its object's home: the state after it, none while its page is not there, or the cause that LAUNCH_EVENT reports. -/
def State.launchApply (s : State) (x : Launch) (a : LaunchAct) : Except Cause.Code (Option State) :=
  match s.agentAccess x.part x.agentLevel [.read, .write] a.va with
  | .error c => .error c
  | .ok none => .ok none
  | .ok (some ia) =>
    match a with
    | .count _ =>
      let y := s.agentTake (x.part / 96) x.part ia 8
      .ok (some (y.2.agentPut x.part ia (toBytes 8 (ofBytes y.1 + 1))))
    | .future _ fail value =>
      let y := s.agentTake (x.part / 96) x.part ia 16
      match resolveFut y.1 fail (BitVec.ofNat 64 value) with
      | .error c => .error c
      | .ok (bs, n, head) =>
        .ok (some ((y.2.agentPut x.part ia bs).beginDelivery x.part x.agentLevel (x.part / 96) (BitVec.ofNat 64 (head * 256)) n))
/-- The package, not the launch's own, at whose home an action is made (R58, R403). -/
def State.launchAway (s : State) (x : Launch) (a : LaunchAct) : Option Nat :=
  match s.rangeCheck x.part x.agentLevel .write a.va with
  | .ok ia => if homePkg ia ≠ x.part / 96 then some (homePkg ia) else none
  | .error _ => none
/-- An action made or left undone: the next one follows, or the launch is gone. -/
def State.launchActed (s : State) (x : Launch) : State :=
  let y := { x with counted := true, asked := false, opFailed := none }
  match x.act, y.act with
  | some (.count _), some _ => s.modLaunch x.id (fun _ => y)
  | _, _ => s.dropLaunch x.id
/-- An action left undone with a cause (R56, R58). -/
def State.launchFails (s : State) (x : Launch) (a : LaunchAct) (c : Cause.Code) : State :=
  (s.supervisorEvent x.part { cause := Cause.launchEvent, aux := BitVec.ofNat 32 c.toNat, value := BitVec.ofNat 64 a.va }).launchActed x
/-- The next action of a launch (R56, R58): made at its home, sent to the package that is its home, or tried again while its page is not
there; with none left the launch is gone. -/
def State.launchOperate (s : State) (x : Launch) : State :=
  match x.act with
  | none => s.dropLaunch x.id
  | some a =>
    match x.opFailed with
    | some c => s.launchFails x a c
    | none =>
      if x.asked then s
      else match s.launchAway x a with
        | some h => (s.send (x.part / 96) h (.atm x.id)).modLaunch x.id (fun x => { x with asked := true })
        | none => match s.launchApply x a with
          | .error c => s.launchFails x a c
          | .ok none => s.agentPark x.part x.agentLevel .write a.va
          | .ok (some t) => t.launchActed x
/-- A launch rejected with a code (R56): it leaves its queue, LAUNCH_REJECT is sent, and its future is set to faulted. The address of a
record that LAUNCH copied is not stated, so VALUE is then a free value (log 2). -/
def State.rejectLaunch (s : State) (x : Launch) (code : Nat) : State :=
  let value := match x.va with | some v => BitVec.ofNat 64 v | none => BitVec.ofNat 64 (Config.freeNat s.freeCtr x.id)
  let s := { s with freeCtr := s.freeCtr + 1 }.supervisorEvent x.part { cause := Cause.launchReject, aux := BitVec.ofNat 32 code, value := value }
  let y := { x with owner := none, slot := none, stage := .rejecting code }
  (s.modLaunch x.id (fun _ => y)).launchOperate y

/-- The launch that a queue serves next: the first of its owner or slot that is not accepted (R57, R315). -/
def State.isHead (s : State) (x : Launch) : Bool :=
  match s.launches.find? (fun y => y.owner = x.owner && y.slot = x.slot && y.part = x.part && (y.stage = .queued || y.stage = .held)) with
  | some y => y.id = x.id
  | none => false
/-- A launch whose team's queue is being served: the team is not in its jacket (R65). -/
def State.served (s : State) (x : Launch) : Bool :=
  match x.owner with
  | some tid => (match s.team? tid with | some t => !t.inJacket | none => true)
  | none => true
/-- LAUNCH_RECORD_CHECK (R56, R315): the head of a pending-launch queue is checked, and held where it is valid; a rejected launch's
future is tried again. -/
def execLaunchRecordCheck (launch : Nat) (s : State) : Outcome State Fault Refusal :=
  .next (match s.launches.find? (fun x => x.id = launch) with
    | none => s
    | some x =>
      match x.stage with
      | .rejecting _ => s.launchOperate x
      | .queued =>
        if !s.isHead x || !s.served x then s
        else match s.recCheck x.part x.agentLevel x.rec_ with
          | some code => s.rejectLaunch x code
          | none => s.modLaunch launch (fun x => { x with stage := .held })
      | _ => s)

/-- Launches that count toward $LQUOTA (R378): accepted and not complete. -/
def State.accepted (s : State) (p : Nat) : Nat := (s.launches.filter (fun x => x.part = p && (x.stage = .accepted || x.slot.isSome))).length
/-- A front-end slot: whether it is bound to a front-end queue, its level, the header's address, its quota (R382); slot 16 is the monitor
command queue of the package, where it names the partition. -/
structure Slot where
  level : Nat
  hdr : Nat
  quota : Nat
  agent : Level
/-- The slot of a number, where it is bound (R382). -/
def State.slotAt (s : State) (p q : Nat) : Option Slot :=
  if q = 16 then
    let m := (s.pkgAt (p / 96)).monq.toNat
    if bitAt m 63 && bits m 62 56 = p % 96 then some ⟨3, bits m 55 7 * 128, 255, .monitor⟩ else none
  else
    let d := ((s.partAt p).qdesc.getD q 0).toNat
    if bitAt d 0 && !bitAt d 1 then some ⟨bits d 3 2, bits d 55 7 * 128, bits d 63 56, .user⟩ else none
/-- A queue header and slot as an agent finds them (R250, R254): the header's home address and bytes, the slot's, its index, and its
address. -/
structure Ready where
  hia : Nat
  hdr : List Byte
  sia : Nat
  pkt : List Byte
  idx : Nat
  slot : Nat
/-- What looking at a queue comes to: nothing to take, a page that is not there, a header or slot that cannot be reached, a packet. -/
inductive Look where
  | empty | bad
  | park (va : Nat)
  | ready (r : Ready)
/-- An agent looks at a queue (R254, R256, R316, R382): HALT clear, and the next slot's SEQ that of its index, or that of a packet to be
taken again; with FENCE set, every earlier packet finished. -/
def State.lookAt (s : State) (p : Nat) (level : Level) (hdr : Nat) (again : Option Nat) : Look :=
  let core := agentCore (p / 96)
  match s.agentAccess p level [.read, .write] hdr with
  | .error _ => .bad
  | .ok none => .park hdr
  | .ok (some hia) =>
    let h := s.bytesAt core (s.space p hia) hia .pod 128
    let idx := again.getD (blockDword h 0x10)
    if decide (blockWord h 0x20 % 32 < 4) || decide (16 < blockWord h 0x20 % 32) || bitAt (blockWord h 0x20) 8 then .empty
    else
      let slot := (blockDword h 0x18 + 64 * (idx % 2 ^ (blockWord h 0x20 % 32))) % 2 ^ 64
      match s.agentAccess p level [.read, .write] slot with
      | .error _ => .bad
      | .ok none => .park slot
      | .ok (some sia) =>
        let b := s.bytesAt core (s.space p sia) sia .pod 64
        if blockWord b 4 ≠ (idx + 1) % 2 ^ 32 || (bitAt (blockWord b 0) 8 && blockDword h 8 ≠ idx) then .empty
        else .ready ⟨hia, h, sia, b, idx, slot⟩
/-- An agent looks at a queue's next packet (R254). -/
def State.look (s : State) (p : Nat) (level : Level) (hdr : Nat) : Look := s.lookAt p level hdr none
/-- Launches of a slot that are not finished (R382). -/
def State.slotLoad (s : State) (p q : Nat) : Nat := (s.launches.filter (fun x => x.part = p && x.slot = some q)).length
/-- The head of the device-launch queue of a level (R274, R383): the oldest held head whose preconditions hold. -/
def State.deviceHead (s : State) (p level : Nat) : Option Launch :=
  s.launches.find? (fun x => x.part = p && x.slot.isNone && x.stage = .held && x.prio = level && s.isHead x && s.served x &&
    (s.pres p x.agentLevel (readRec x.rec_)).all (· = .met))
/-- The queues of a level with a takeable head (R383): 1 the device-launch queue, 2 + q slot q. -/
def State.takeable (s : State) (p level : Nat) : List Nat :=
  let x := s.partAt p
  let room := decide (s.accepted p < x.lquota.toNat)
  if !x.en || x.failed || (s.pkgAt (p / 96)).down then []
  else (if room && (s.deviceHead p level).isSome then [1] else []) ++
    ((List.range 17).filter (fun q => match s.slotAt p q with
      | some y => y.level = level && room && decide (s.slotLoad p q < y.quota) &&
          (match s.look p y.agent y.hdr with | .ready _ => true | _ => false)
      | none => false)).map (· + 2)
/-- The queue that a front end takes next (R383): at the highest level, in rotation after the one last taken there. -/
def State.chosen (s : State) (p : Nat) : Option Nat :=
  match ([3, 2, 1, 0].map (fun l => (l, s.takeable p l))).find? (fun x => !x.2.isEmpty) with
  | none => none
  | some (l, qs) =>
    let last := (s.partAt p).lastQueue.getD l 0
    match qs.find? (fun q => decide (last < q)) with
    | some q => some q
    | none => qs.head?
/-- A queue noted as the one last taken at its level. -/
def State.taken (s : State) (p level q : Nat) : State := s.modPart p (fun x => { x with lastQueue := x.lastQueue.set level q })
/-- LAUNCH_ACCEPT (R57, R383): a held launch whose preconditions hold. That of a pending-launch queue waits for the front end's choice. -/
def execLaunchAccept (launch : Nat) (s : State) : Outcome State Fault Refusal :=
  .next (match s.launches.find? (fun x => x.id = launch) with
    | none => s
    | some x =>
      if x.stage ≠ .held || !s.isHead x || !(s.pres x.part x.agentLevel (readRec x.rec_)).all (· = .met) then s
      else if x.slot.isSome then s.modLaunch launch (fun x => { x with stage := .accepted })
      else if s.chosen x.part = some 1 && ([3, 2, 1, 0].find? (fun l => !(s.takeable x.part l).isEmpty)) = some x.prio &&
          ((s.deviceHead x.part x.prio).map (·.id)) = some x.id then
        (s.modLaunch launch (fun x => { x with stage := .accepted })).taken x.part x.prio 1
      else s)
/-- LAUNCH_PRE_FAULT (R57): a precondition of a held launch of a queue that is being served has become impossible. -/
def execLaunchPreFault (launch : Nat) (s : State) : Outcome State Fault Refusal :=
  .next (match s.launches.find? (fun x => x.id = launch) with
    | none => s
    | some x =>
      if x.stage = .held && s.served x && (s.pres x.part x.agentLevel (readRec x.rec_)).contains .fault then s.rejectLaunch x 8 else s)
/-- The addresses at which a held launch's preconditions wait for their pages: the front end's reads park there (R56, R363). -/
def State.parkPres (s : State) (x : Launch) : State :=
  (s.pres x.part x.agentLevel (readRec x.rec_)).foldl (fun t p => match p with | .park va => t.agentPark x.part x.agentLevel .read va | _ => t) s

/-- A packet's STATE, CAUSE and CHUNK written, then RDIDX and DONEIDX advanced past it (R275, R316). -/
def State.finishSlot (s : State) (p : Nat) (r : Ready) (state : Nat) (cause : BitVec 7) (chunk : Nat) : State :=
  let s := s.agentPut p (r.sia + 0x3C) (toBytes 4 (state + 4 * cause.toNat + 512 * chunk))
  (s.agentPut p (r.hia + 0x10) (toBytes 8 (r.idx + 1))).agentPut p (r.hia + 8) (toBytes 8 (r.idx + 1))
/-- The first failure of a bound slot's header after a write of $QDESC sends COPY_FAULT (R382). -/
def State.slotFails (s : State) (p q hdr : Nat) : State :=
  if (s.partAt p).slotBad.contains q then s
  else (s.modPart p (fun x => { x with slotBad := q :: x.slotBad })).supervisorEvent p
    { cause := Cause.copyFault, aux := 0xFFFFFFFF, value := BitVec.ofNat 64 hdr }
/-- A front end looks at a slot and does what a header that cannot be reached asks for; it goes on with a packet that it may take. -/
def State.withPacket (s : State) (p q : Nat) (k : Slot → Ready → State) : State :=
  match s.slotAt p q with
  | none => s
  | some y =>
    match s.look p y.agent y.hdr with
    | .bad => s.slotFails p q y.hdr
    | .park va => s.agentPark p y.agent .write va
    | .empty => s
    | .ready r => if s.chosen p = some (q + 2) then k y r else s
/-- A LAUNCH packet that breaks R275, or a packet of a kind that a front end rejects. -/
def launchPacketBad (b : List Byte) : Bool :=
  blockWord b 0 ≠ 8 || blockDword b 8 % 128 ≠ 0 || (((b.drop 0x10).take 0x2C).any (· ≠ 0)) || blockWord b 0x3C / 512 ≠ 0
/-- FRONT_END_PACKET_TAKE (R275, R316): a LAUNCH packet, or one that front ends reject. -/
def execFrontEndPacketTake (pkg part queue : Nat) (s : State) : Outcome State Fault Refusal :=
  let p := 96 * pkg + part
  .next (s.withPacket p queue (fun y r =>
    if blockWord r.pkt 0 % 16 = 9 then s
    else
      let fin := fun (t : State) (state : Nat) (c : BitVec 7) (chunk : Nat) => (t.finishSlot p r state c chunk).taken p y.level (queue + 2)
      if launchPacketBad r.pkt then fin s 3 Cause.paramBad 0
      else
        let va := blockDword r.pkt 8
        match s.agentAccess p y.agent [.read] va with
        | .error c => fin s 3 c 0
        | .ok none => s.agentPark p y.agent .read va
        | .ok (some ia) =>
          let b := s.bytesAt (agentCore pkg) (s.space p ia) ia .package 128
          let x : Launch := { id := s.seq, part := p, level := y.agent, slot := some queue, rec_ := b, va := some va, prio := (readRec b).prio }
          match s.recCheck p y.agent b with
          | some code => (fin (s.addLaunch x) 3 Cause.launchReject code).rejectLaunch x code
          | none => fin (s.addLaunch { x with stage := .held }) 1 0 0))
/-- A SPAWN packet that breaks R275. -/
def spawnPacketBad (b : List Byte) : Bool :=
  blockWord b 0 ≠ 9 || blockDword b 0x30 / 2 ^ 19 ≠ 0 || blockWord b 0x38 ≠ 0 || blockWord b 0x3C / 512 ≠ 0 ||
    bits (blockDword b 0x30) 4 0 = 0 || decide (16 < bits (blockDword b 0x30) 4 0) || decide (512 < bits (blockDword b 0x30) 14 5)
/-- SPAWN_PACKET_TAKE (R275): the record enters a bin of a core of the partition that accepts it. -/
def execSpawnPacketTake (pkg part queue core : Nat) (s : State) : Outcome State Fault Refusal :=
  let p := 96 * pkg + part
  .next (s.withPacket p queue (fun y r =>
    if blockWord r.pkt 0 % 16 ≠ 9 then s
    else
      let fin := fun (t : State) (state : Nat) (c : BitVec 7) => (t.finishSlot p r state c 0).taken p y.level (queue + 2)
      if spawnPacketBad r.pkt then fin s 3 Cause.paramBad
      else
        let k := blockDword r.pkt 0x30
        let key : SpawnKey := ⟨BitVec.ofNat 64 (blockDword r.pkt 8), bits k 4 0, bits k 14 5, pointOf (bits k 16 15), bits k 18 17, p⟩
        let ck := Config.coresPerPkg * pkg + core
        let x := s.partAt p
        if core / 4 < x.cbase || x.clim < core / 4 || Config.coresPerPkg ≤ core then s
        else match (s.coreAt ck).intoBin s.now key ((r.pkt.drop 0x10).take 32) with
          | some c => fin (s.modCore ck (fun _ => c)) 1 0
          | none => s))

/-- A front end may place teams of a partition (R350, R385, R391): it runs, is enabled, and is its group's active member. -/
def State.mayPlace (s : State) (p : Nat) : Bool :=
  let x := s.partAt p
  x.phase = .running && x.en && !x.failed && !(s.pkgAt (p / 96)).down && (match s.groupOf p with | some g => g.active = p % 96 | none => true)
/-- Teams of a record that the free resources of a core hold now; none where a restore comes first, or on a halted core (R66). -/
def State.room (s : State) (ck : Nat) (r : Rec) : Nat :=
  let n := r.needs
  let slots := ((List.range Config.teamSlots).filter (fun i => !(s.residents ck).any (fun t => t.slot = i))).length
  if s.restoreFirst ck r.prio || (s.coreAt ck).halted then 0
  else min slots (min (goes (s.freeFibres ck) n.fibres) (min (goes (s.freeRegs ck) n.regs)
    (min (goes (s.freeLeaves ck) n.leaves) (goes (s.freeTiles ck) n.tiles))))
/-- True when a cluster holds the next unit of a record (R52). -/
def State.clusterFits (s : State) (pkg c : Nat) (r : Rec) : Bool :=
  let per := r.gangOf 3
  decide (r.gang ≤ ((List.range 4).map (fun i => s.room (Config.coresPerPkg * pkg + 4 * c + i) r / per * per)).sum)
/-- The clusters of a partition in the order of the rotation (R383, R429). -/
def Part.rotation (x : Part) : List Nat :=
  let n := x.clim + 1 - x.cbase
  let from_ := match x.lastCluster with | some c => if x.cbase ≤ c && c < x.clim then c + 1 - x.cbase else 0 | none => 0
  (List.range n).map (fun i => x.cbase + (from_ + i) % n)
/-- The units that a team of a number lies in at the outermost level bound to die (R52), if there is one. -/
def Rec.dieUnit (r : Rec) (i : Nat) : Option Nat := if (List.range r.nlvl).any (fun n => decide (r.tl < n) && (r.levels.getD n ⟨1, 0, .core⟩).dom = 5) then some (i / r.gangOf 5) else none
/-- Teams of a launch in all (R49, R53), in grid form. -/
def Rec.teams (r : Rec) : Nat := r.units r.tl (if r.podBound then r.nlvl - 1 else r.nlvl)
/-- The length of the next chunk of a card-form launch (R59). -/
def Rec.chunk (r : Rec) (dealt : Nat) : Nat := let rem := r.cardcount - dealt; min (max r.minchunk (rem / (2 * r.cardteams))) rem
/-- True when a launch has a team to begin now (R57, R59). -/
def Launch.pendingTeam (x : Launch) (r : Rec) : Bool :=
  x.stage = .accepted &&
    (if r.form = 1 then decide (x.dealt < r.cardcount) && decide (x.begun - x.ended < r.cardteams) else decide (x.begun < r.teams))
/-- Every team of the earlier launches of a launch's queue has been placed (R57). -/
def State.turnOf (s : State) (x : Launch) : Bool :=
  (s.launches.takeWhile (fun y => y.id ≠ x.id)).all (fun y =>
    !(y.part = x.part && y.owner = x.owner && y.slot = x.slot && y.stage = .accepted && !y.allBegun))
/-- The cluster that receives a launch's next unit (R383), within the die that its die-bound unit has (R52). -/
def State.nextCluster (s : State) (x : Launch) (r : Rec) : Option Nat :=
  let die := (r.dieUnit x.begun).bind (fun u => (x.dies.find? (fun d => d.1 = u)).map (·.2))
  (s.partAt x.part).rotation.find? (fun c => (match die with | some d => c / 12 = d | none => true) && s.clusterFits (x.part / 96) c r)
/-- The digits of a team's number at levels t up (R49). -/
def Rec.digits (r : Rec) (i : Nat) : List Word :=
  (List.range (r.nlvl - r.tl)).map (fun k => BitVec.ofNat 32 (i / r.units r.tl (r.tl + k) % ((r.levels.getD (r.tl + k) ⟨1, 0, .core⟩).extent)))
/-- The team-scalars of a team at its start (R55). -/
def Rec.scalars (r : Rec) (dealt : Nat) : List Word :=
  let vs := if r.form = 1 then
      let a := BitVec.ofNat 64 (r.cardbase + dealt * r.cardsize)
      [a.setWidth 32, (a >>> 32).setWidth 32, BitVec.ofNat 32 (r.chunk dealt), BitVec.ofNat 32 dealt, BitVec.ofNat 32 r.cardsize, 0, r.args.getD 4 0, r.args.getD 5 0]
    else r.args
  (vs ++ List.replicate 64 0).take 64
/-- A team of a launch at its start (R46 to R55): team i of the launch on a core. -/
def State.startTeam (s : State) (x : Launch) (r : Rec) (i core : Nat) : Team :=
  let ck := Config.coresPerPkg * (x.part / 96) + core
  let index := if r.form = 1 then i else i + (if r.podBound then r.podidx * r.units r.tl (r.nlvl - 1) else 0)
  { tid := s.seq, slot := (s.freeTeamSlot ck).getD 0, core := core, pkg := x.part / 96, part := x.part % 96, prio := r.prio
    levels := r.levels, tlevel := r.tl, index := BitVec.ofNat 32 index
    upper := if r.form = 1 then [BitVec.ofNat 32 i] else r.digits index
    card := r.form = 1, rmode := BitVec.ofNat 3 r.rmode, fflags := BitVec.ofNat 5 r.fflags
    fibres := (List.range r.teamSize).map (fun f =>
      { fid := f, pc := r.entry, regs := List.replicate (16 * r.win) 0, level := x.agentLevel, fresh := true, readyAt := s.now, readySince := s.now })
    scalars := r.scalars x.dealt, leaves := r.leaves, bars := r.bars, acct := r.acct, launch := some x.id, gang := x.gangs
    spwin := if r.spwin = 0 then r.win else r.spwin, spleaves := r.spleaves, spscope := r.spscope, placed := s.now }
/-- One team placed, after the acquire of its start (R304). -/
def State.placeTeam (s : State) (id : Nat) (r : Rec) (core : Nat) : State :=
  match s.launches.find? (fun x => x.id = id) with
  | none => s
  | some x =>
    let t := s.startTeam x r x.begun core
    let s := s.acquire t.coreKey r.top
    let y := { x with
      begun := x.begun + 1, dealt := if r.form = 1 then x.dealt + r.chunk x.dealt else x.dealt, tids := x.tids ++ [t.tid] }
    let y := { y with allBegun := if r.form = 1 then decide (r.cardcount ≤ y.dealt) else decide (r.teams ≤ y.begun) }
    ({ s with seq := s.seq + 1, teams := s.teams ++ [t] }.modLaunch id (fun _ => y)).meter x.part 14 1
/-- The neighbours that LDN reaches (R27): of a gang of a cluster-bound level, the team of lowest number on each core. -/
def State.linkGang (s : State) (tids : List Nat) : State :=
  let mine := s.teams.filter (fun t => tids.contains t.tid)
  let at_ := fun (i : Nat) => (mine.find? (fun t => t.core % 4 = i)).map (·.tid)
  { s with teams := s.teams.map (fun t => if tids.contains t.tid then { t with neighbours := (List.range 4).map at_ } else t) }
/-- TEAM_PLACE (R52, R57, R59, R304, R383): the next team or gang of a launch, on cores of the cluster that the rotation gives. -/
def execTeamPlace (launch : Nat) (cores : List Nat) (s : State) : Outcome State Fault Refusal :=
  .next (match s.launches.find? (fun x => x.id = launch) with
    | none => s
    | some x =>
      let r := readRec x.rec_
      let pkg := x.part / 96
      match s.nextCluster x r with
      | none => s
      | some c =>
        let per := r.gangOf 3
        let onCore := fun (k : Nat) => (cores.filter (· = k)).length
        if !x.pendingTeam r || !s.turnOf x || !s.mayPlace x.part || cores.length ≠ r.gang || !cores.all (fun k => k / 4 = c) ||
            !(List.range cores.length).all (fun i => cores.getD i 0 = cores.getD (i / per * per) 0) ||
            !cores.all (fun k => decide (onCore k ≤ s.room (Config.coresPerPkg * pkg + k) r)) then s
        else
          let base := x.tids.length
          let s := cores.foldl (fun t k => t.placeTeam launch r k) s
          let tids := match s.launches.find? (fun y => y.id = launch) with | some y => y.tids.drop base | none => []
          let s := if 1 < r.gangOf 4 || (List.range r.nlvl).any (fun n => decide (r.tl < n) && (r.levels.getD n ⟨1, 0, .core⟩).dom = 4) then s.linkGang tids else s
          (s.modLaunch launch (fun y => { y with
            gangs := y.gangs + 1
            dies := (match r.dieUnit x.begun with | some u => if y.dies.any (fun d => d.1 = u) then y.dies else (u, c / 12) :: y.dies | none => y.dies) })).modPart
            x.part (fun p => { p with lastCluster := some c }))

/-- Owned bytes that ended teams of a launch wrote and that are registered only at a narrower point (R58). -/
def State.narrowOf (s : State) (tids : List Nat) (pt : Point) : List (Nat × Nat × CByte) :=
  let mine := fun (b : CByte) => b.st = .owned && decide (b.pt.num < pt.num) && b.wr.any (fun w => tids.contains w.tid)
  (s.cores.flatMap (fun kc => (kc.2.l1.filter mine).map (fun b => (corePkg kc.1, kc.1 % Config.coresPerPkg, b)))) ++
  (s.pkgs.flatMap (fun kp => (kp.2.llc.filter mine).map (fun b => (kp.1, 384, b))))
/-- The release of a launch's completion is complete (R58). -/
def State.launchReleased (s : State) (x : Launch) (pt : Point) : Bool :=
  !s.wq.any (fun e => x.tids.contains e.tid) && (pt = .core || (!s.regs.any (fun r => x.tids.contains r.entry.tid) && (s.narrowOf x.tids pt).isEmpty))
/-- Every team of a launch has ended (R58). -/
def Launch.ranOut (x : Launch) (r : Rec) : Bool :=
  x.stage = .accepted && (x.allBegun || (r.form = 1 && r.cardcount = 0)) && x.ended = x.begun
/-- LAUNCH_COMPLETE (R58): once its release is complete, the launch's next action, the counter's before the future's. -/
def execLaunchComplete (launch : Nat) (s : State) : Outcome State Fault Refusal :=
  .next (match s.launches.find? (fun x => x.id = launch) with
    | none => s
    | some x => if !x.ranOut (readRec x.rec_) || !s.launchReleased x (readRec x.rec_).top then s else s.launchOperate x)

end Sys2Proof.Machine
end

