-- ==== Sys2Proof/Machine/Bulk.lean ====
section
/-! DEFINITION. Bulk copy engines (R252 to R256, R384, R409, R433): packets taken, checked, copied in chunks, completed, stopped. -/

namespace Sys2Proof.Machine

open Host (Outcome)

/-- KIND of a packet (R252). -/
def Packet.kind (x : Packet) : Nat := blockWord x.bytes 0 % 16
/-- The scope point of a packet (R252). -/
def Packet.point (x : Packet) : Point := pointOf (bits (blockWord x.bytes 0) 5 4)
/-- DONEKIND. -/
def Packet.doneKind (x : Packet) : Nat := bits (blockWord x.bytes 0) 7 6
/-- The bytes that a COPY, FILL or CHAINSTORE moves to one place (R253). -/
def copyTotal (b : List Byte) : Nat :=
  if blockWord b 0 % 16 = 3 then blockWord b 0x18 % 8192
  else blockWord b 0x18 * (blockWord b 0x1C % 65536) * (blockWord b 0x1C / 65536)
/-- The limits of a packet's body (R253): a length, count or alignment outside them, or a field that the table does not name. -/
def bodyBad (b : List Byte) : Bool :=
  let zero := fun (from_ to_ : Nat) => !((b.drop from_).take (to_ - from_)).all (· = 0)
  match blockWord b 0 % 16 with
  | 1 => copyTotal b = 0 || decide (2 ^ 39 < copyTotal b)
  | 2 => copyTotal b = 0 || decide (2 ^ 39 < copyTotal b) || blockWord b 0x20 ≠ 0 || blockWord b 0x24 ≠ 0
  | 3 =>
    let w := blockWord b 0x18
    copyTotal b = 0 || decide (4096 < copyTotal b) || bits w 15 13 ≠ 0 || bits w 19 16 = 0 || decide (8 < bits w 19 16) || w / 2 ^ 20 ≠ 0 ||
      zero 0x1C 0x20 || zero 0x28 0x30 || decide (bits (blockWord b 0) 5 4 < 2)
  | 4 => blockDword b 8 % 8 ≠ 0 || zero 0x18 0x30
  | 5 => blockDword b 8 % 16 ≠ 0 || zero 0x18 0x30
  | 6 => zero 0x14 0x30
  | _ => true
/-- A packet that is rejected when it is taken (R254): a reserved field or code, or a limit exceeded. -/
def packetBad (b : List Byte) : Bool := blockWord b 0 / 512 ≠ 0 || bits (blockWord b 0) 5 4 = 0 || bodyBad b

/-- A bulk slot of a partition (R382): whether it is bound to a bulk copy queue, and its header's address and quota. -/
def State.bulkSlot (s : State) (p q : Nat) : Option (Nat × Nat) :=
  let d := ((s.partAt p).qdesc.getD q 0).toNat
  if bitAt d 0 && bitAt d 1 then some (bits d 55 7 * 128, bits d 63 56) else none
/-- The packets of a queue that are taken and not finished (R382), oldest first. -/
def State.takenOf (s : State) (p hdr : Nat) : List Packet := s.packets.filter (fun x => x.part = p && x.hdr.toNat = hdr)
/-- FAULTIDX of a queue (R250). -/
def State.faultIdx (s : State) (p hdr : Nat) : Option Nat :=
  match s.agentAccess p .user [.read] hdr with
  | .ok (some ia) => some (ofBytes (s.bytesAt (agentCore (p / 96)) (s.space p ia) (ia + 0x28) .pod 8))
  | _ => none
/-- The packet of a queue that is to be taken again (R256): the one at FAULTIDX. DESIGN CHOICE (log 61): where several have stopped, the
others follow it, the one that was taken first before the rest. -/
def State.retake (s : State) (p hdr : Nat) : Option Packet :=
  let xs := (s.takenOf p hdr).filter (·.stopped)
  match (if xs.isEmpty then none else s.faultIdx p hdr).bind (fun i => xs.find? (fun x => x.index = i)) with
  | some x => some x
  | none => xs.head?
/-- What an engine finds at a queue (R254, R256, R382, R384): its next packet, or the one that it takes again. -/
def State.bulkLook (s : State) (p q : Nat) : Look :=
  match s.bulkSlot p q with
  | none => .empty
  | some (hdr, quota) =>
    let again := s.retake p hdr
    if !(s.partAt p).en || (s.partAt p).failed || (s.pkgAt (p / 96)).down || (again.isNone && decide (quota ≤ (s.takenOf p hdr).length)) then .empty
    else s.lookAt p .user hdr (again.map (·.index))
/-- True while an engine works on a packet of a queue: it takes one at a time from each (R384). -/
def State.engineBusy (s : State) (pkg engine p q : Nat) : Bool :=
  s.packets.any (fun x => x.pkg = pkg && x.engine = engine && x.part = p && x.queue = q && !x.stopped)
/-- The queues that a bulk engine serves and that have a packet for it (R384), as 16 x partition + slot. -/
def State.servable (s : State) (pkg engine : Nat) : List Nat :=
  (List.range (16 * 96)).filter (fun i =>
    let p := 96 * pkg + i / 16
    ((s.partAt p).qeng.getD (i % 16) 0).getLsbD engine && !s.engineBusy pkg engine p (i % 16) &&
      (match s.bulkLook p (i % 16) with | .ready _ => true | _ => false))
/-- The queue that an engine takes from next: in rotation after the last one (R384). -/
def State.nextQueue (s : State) (pkg engine : Nat) : Option Nat :=
  let qs := s.servable pkg engine
  match qs.find? (fun i => decide (((s.pkgAt pkg).engLast.find? (fun e => e.1 = engine)).any (fun e => e.2 < i))) with
  | some i => some i
  | none => qs.head?
/-- Packets of an engine at work (R384). -/
def State.engineLoad (s : State) (pkg engine : Nat) : Nat :=
  (s.packets.filter (fun x => x.pkg = pkg && x.engine = engine && !x.stopped)).length
/-- A packet changed. -/
def State.modPacket (s : State) (id : Nat) (g : Packet → Packet) : State :=
  { s with packets := s.packets.map (fun x => if x.id = id then g x else x) }

/-- What an access of a packet meets, under the ranges as they stood when it was taken (R355). -/
def State.packetAccess (s : State) (x : Packet) (ks : List Acc) (va : Nat) : Except Cause.Code (Option Nat) := s.agentReach x.ranges x.part .user ks va
/-- A request of a packet parked on a page (R363). -/
def State.parkPacket (s : State) (x : Packet) (k : Acc) (va : Nat) : State := s.agentPark x.part .user k va 2 0x1FF x.ranges
/-- Bytes of a packet's queue written by its engine at their home. DESIGN CHOICE (log 61): where the page has become invalid since the packet
was taken, nothing is written. -/
def State.queuePut (s : State) (x : Packet) (va : Nat) (bs : List Byte) : State :=
  match s.packetAccess x [.write] va with
  | .ok (some ia) => s.agentPut x.part ia bs
  | _ => s
/-- A page of the packet's header or slot that is not there yet. -/
def State.queueAbsent (s : State) (x : Packet) : Option Nat :=
  [x.slot.toNat, x.hdr.toNat].find? (fun va => match s.packetAccess x [.read, .write] va with | .ok none => true | _ => false)
/-- The STATE word of a packet (R252). -/
def stateWord (state : Nat) (cause : BitVec 7) (chunk : Nat) : List Byte := toBytes 4 (state + 4 * cause.toNat + 512 * (chunk % 2 ^ 23))
/-- DONEIDX of its queue after a packet has gone (R254): the lowest index taken and not finished, or RDIDX. -/
def State.advanceDone (s : State) (x : Packet) : State :=
  match s.packetAccess x [.read, .write] x.hdr.toNat with
  | .ok (some ia) =>
    let rd := blockDword (s.bytesAt (agentCore x.pkg) (s.space x.part ia) ia .pod 128) 0x10
    s.agentPut x.part (ia + 8) (toBytes 8 (((s.takenOf x.part x.hdr.toNat).map (·.index)).foldl min rd))
  | _ => s
/-- A packet finished (R254, R255): STATE, then DONEIDX past it. -/
def State.packetDone (s : State) (x : Packet) (state : Nat) (cause : BitVec 7) : State :=
  match s.queueAbsent x with
  | some va => s.parkPacket x .write va
  | none =>
    let s := s.queuePut x (x.slot.toNat + 0x3C) (stateWord state cause 0)
    { s with packets := s.packets.filter (fun y => y.id ≠ x.id) }.advanceDone x
/-- A packet stopped as faulted (R256, R433): STATE, CAUSE and CHUNK, FAULTIDX, then HALT, and COPY_FAULT; it waits where a page of its queue
is not there. -/
def State.packetStop (s : State) (x : Packet) (cause : BitVec 7) (chunk : Nat) : State :=
  match s.queueAbsent x with
  | some va => (s.modPacket x.id (fun x => { x with failing := some (cause, chunk) })).parkPacket x .write va
  | none =>
    let h := x.hdr.toNat
    let s := s.queuePut x (x.slot.toNat + 0x3C) (stateWord 2 cause chunk)
    let s := s.queuePut x (h + 0x28) (toBytes 8 x.index)
    let s := match s.packetAccess x [.read, .write] (h + 0x20) with
      | .ok (some ia) =>
        let w := ofBytes (s.bytesAt (agentCore x.pkg) (s.space x.part ia) ia .pod 4)
        s.agentPut x.part ia (toBytes 4 (if bitAt w 8 then w else w + 256))
      | _ => s
    (s.modPacket x.id (fun x => { x with
      stopped := true, chunk := chunk, effect := false, arrival := none, asked := false, cause := 0, opFailed := none, failing := none })).supervisorEvent
      x.part { cause := Cause.copyFault, aux := BitVec.ofNat 32 x.index, value := x.hdr }

/-- PACKET_TAKE (R254, R256, R382, R384): the engine's next packet, taken with an acquire; a bad one is rejected. -/
def execPacketTake (pkg part queue engine : Nat) (s : State) : Outcome State Fault Refusal :=
  let p := 96 * pkg + part
  .next (
    if 48 ≤ engine || 96 ≤ part || 16 ≤ queue || 8 ≤ s.engineLoad pkg engine || !((s.partAt p).qeng.getD queue 0).getLsbD engine then s
    else match s.bulkSlot p queue, s.bulkLook p queue with
      | some (hdr, _), .bad => s.slotFails p queue hdr
      | _, .park va => s.agentPark p .user .write va
      | some (hdr, _), .ready r =>
        if s.nextQueue pkg engine ≠ some (16 * part + queue) then s
        else
          let s := s.modPkg pkg (fun k => { k with engLast := (engine, 16 * part + queue) :: k.engLast.filter (fun e => e.1 ≠ engine) })
          let again := s.retake p hdr
          let s := match again with
            | some _ => s
            | none => s.agentPut p (r.hia + 0x10) (toBytes 8 (r.idx + 1))
          let x : Packet := {
            id := match again with | some y => y.id | none => s.seq
            pkg := pkg, part := p, queue := queue, engine := engine, hdr := BitVec.ofNat 64 hdr, index := r.idx, slot := BitVec.ofNat 64 r.slot
            bytes := r.pkt, chunk := blockWord r.pkt 0x3C / 512, ranges := (s.partAt p).ranges }
          let s := { s with
            seq := s.seq + 1
            packets := match again with | some y => s.packets.map (fun z => if z.id = y.id then x else z) | none => s.packets ++ [x] }
          if packetBad r.pkt then s.packetDone x 3 Cause.paramBad else s
      | _, _ => s)

/-- A run of a chunk: from, to, length, and its first byte's place in its row. -/
structure Run where
  src : Nat
  dst : Nat
  len : Nat
  at_ : Nat
/-- The runs of a packet's bytes from a position on (R253): within one row, and within one page at either end. -/
def copyRuns (b : List Byte) : Nat → Nat → Nat → List Run
  | 0, _, _ => []
  | fuel + 1, pos, stop =>
    if stop ≤ pos then []
    else
      let len := blockWord b 0x18
      let c1 := blockWord b 0x1C % 65536
      let row := pos / len
      let k := pos % len
      let src := (blockDword b 8 + row % c1 * blockWord b 0x20 + row / c1 * blockWord b 0x24 + k) % 2 ^ 64
      let dst := (blockDword b 0x10 + row % c1 * blockWord b 0x28 + row / c1 * blockWord b 0x2C + k) % 2 ^ 64
      let n := min (min (stop - pos) (len - k)) (min (65536 - dst % 65536) (if blockWord b 0 % 16 = 1 then 65536 - src % 65536 else 65536))
      ⟨src, dst, n, k⟩ :: copyRuns b fuel (pos + n) stop
/-- What a run of a chunk meets: its places, a page that is not there, or a cause. -/
inductive RunMeet where
  | goes (sia : Nat) (dia : Nat)
  | park (va : Nat) (k : Acc)
  | fails (cause : BitVec 7)
/-- A run checked (R254, R256): the destination, then the source of a COPY. -/
def State.runMeets (s : State) (x : Packet) (copy : Bool) (r : Run) : RunMeet :=
  match s.packetAccess x [.write] r.dst with
  | .error c => .fails c
  | .ok none => .park r.dst .write
  | .ok (some dia) =>
    if !copy then .goes 0 dia
    else match s.packetAccess x [.read] r.src with
      | .error c => .fails c
      | .ok none => .park r.src .read
      | .ok (some sia) => .goes sia dia
/-- Bytes carried, byte by byte, from two readings of one source: where they differ each is a free choice (R253, log 2). -/
def eitherBytes (free : Nat) (a b : List Byte) : List Byte :=
  (a.zip b).zipIdx.map (fun p => if p.1.1 = p.1.2 then p.1.1 else if Config.freeBit free p.2 11 then p.1.1 else p.1.2)
/-- The words of a destination that take poison from the words of a source (R418). -/
def State.poisonedTo (s : State) (core sp sia dsp dia n : Nat) : List Nat :=
  if s.poison.isEmpty then []
  else (List.range n).filterMap (fun i => if s.poisoned core sp (sia + i) 1 then (s.sysKey dsp (wordOf (dia + i))).map (· / 4) else none)
/-- Words poisoned (R418). -/
def State.addPoison (s : State) (ks : List Nat) : State :=
  { s with poison := ks.foldl (fun (acc : List Nat) k => if acc.contains k then acc else acc ++ [k]) s.poison }
/-- One run moved at the packet's scope point (R256, R300): `s0` is the state as the chunk began. -/
def State.moveRun (s0 s : State) (x : Packet) (r : Run) (sia dia : Nat) : State :=
  let core := agentCore x.pkg
  let dsp := s.space x.part dia
  if x.kind = 1 then
    let sp := s.space x.part sia
    let bs := eitherBytes s0.freeCtr (s0.bytesAt core sp sia x.point r.len) (s.bytesAt core sp sia x.point r.len)
    (((s.drawRange core sp sia x.point r.len).touchPage x.part sia).agentStore x.pkg x.part dia x.point bs).addPoison
      (s.poisonedTo core sp sia dsp dia r.len)
  else
    let pat := toBytes 8 (blockDword x.bytes 8)
    s.agentStore x.pkg x.part dia x.point ((List.range r.len).map (fun i => pat.getD ((r.at_ + i) % 8) 0))
/-- The runs of a packet's chunk (R256). -/
def Packet.runs (x : Packet) : List Run :=
  copyRuns x.bytes 65536 (65536 * x.chunk) (min (copyTotal x.bytes) (65536 * (x.chunk + 1)))
/-- One chunk of a COPY or FILL (R256): parked while a page is not there; a failure stops the packet, and which of the chunk's other runs
were written is a free choice (log 2). -/
def State.copyChunk (s : State) (x : Packet) : State :=
  let copy := decide (x.kind = 1)
  let rs := x.runs.map (fun r => (r, s.runMeets x copy r))
  match rs.findSome? (fun m => match m.2 with | .park va k => some (va, k) | _ => none) with
  | some (va, k) => s.parkPacket x k va
  | none =>
    let move := fun (t : State) (m : Run × RunMeet) => match m.2 with | .goes sia dia => State.moveRun s t x m.1 sia dia | _ => t
    match rs.findSome? (fun m => match m.2 with | .fails c => some c | _ => none) with
    | some c =>
      let s' := rs.zipIdx.foldl (fun t m => if Config.freeBit s.freeCtr m.2 12 then move t m.1 else t) s
      { s' with freeCtr := s.freeCtr + 1 }.packetStop x c x.chunk
    | none =>
      let t := ({ rs.foldl move s with freeCtr := s.freeCtr + 1 }).meter x.part 10 ((x.runs.map (fun (r : Run) => r.len)).sum)
      t.modPacket x.id (fun x => { x with chunk := x.chunk + 1, effect := decide (copyTotal x.bytes ≤ 65536 * (x.chunk + 1)) })
/-- The package of a chain's target (R253). -/
def Packet.target (x : Packet) (j : Nat) : Nat := (x.bytes.getD (0x20 + j) 0).toNat
/-- Targets of a chain. -/
def Packet.targets (x : Packet) : Nat := bits (blockWord x.bytes 0x18) 19 16
/-- The bytes at a range of virtual addresses as a packet reads them, page by page; the first page not there, or the cause, stops it. -/
def State.packetBytes (s : State) (x : Packet) : List (Nat × Nat) → Except Cause.Code (Option (List Byte) × Nat)
  | [] => .ok (some [], 0)
  | (va, n) :: r =>
    match s.packetAccess x [.read] va with
    | .error c => .error c
    | .ok none => .ok (none, va)
    | .ok (some ia) =>
      match s.packetBytes x r with
      | .error c => .error c
      | .ok (none, v) => .ok (none, v)
      | .ok (some bs, _) => .ok (some (s.bytesAt (agentCore x.pkg) (s.space x.part ia) ia x.point n ++ bs), 0)
/-- The origin of a CHAINSTORE (R253, R409): SRC read once, DST translated once, and the message for the target at which the work
starts. -/
def State.chainStart (s : State) (x : Packet) : State :=
  match s.packetBytes x (splitRun (blockDword x.bytes 8) (copyTotal x.bytes)), rangeIn x.ranges .user .write (blockDword x.bytes 0x10) with
  | .error c, _ => s.packetStop x c x.chunk
  | .ok (none, va), _ => s.parkPacket x .read va
  | .ok (some _, _), .error c => s.packetStop x c x.chunk
  | .ok (some bs, _), .ok _ =>
    let dst := x.target x.chunk
    if x.targets ≤ x.chunk then s.modPacket x.id (fun x => { x with effect := true })
    else (s.send x.pkg dst (.chain x.id x.chunk bs)).modPacket x.id (fun x => { x with asked := true })
/-- COPY_CHUNK (R256), and the start of a chain (R409). -/
def execCopyChunk (id : Nat) (s : State) : Outcome State Fault Refusal :=
  .next (match s.packets.find? (fun x => x.id = id) with
    | none => s
    | some x =>
      if x.effect || x.stopped || x.asked || x.failing.isSome || (s.pkgAt x.pkg).down then s
      else if x.kind = 3 then s.chainStart x
      else if x.kind = 1 || x.kind = 2 then s.copyChunk x
      else s)

/-- What an operation of a packet comes to (R255, R433): done, with a cause that STATE 1 carries; waiting for a page; not to be applied;
or an arrival on its way. -/
inductive Act where
  | done (cause : BitVec 7) (t : State)
  | park (va : Nat)
  | fails (cause : BitVec 7)
  | sent (id : Nat) (t : State)
/-- An arrival of a phaser's engine parties (R255, R433). -/
def State.actPhaser (s : State) (x : Packet) (h : Dword) (payload : Word) : Act :=
  if h.getLsbD 63 then
    let ok := bits h.toNat 63 56 = 128 && bits h.toNat 31 30 = 1 && bits h.toNat 15 9 = 0 && decide (phLevel h ≤ 2) &&
      (phLevel h = 2 || phPkg h = x.pkg) && (phLevel h ≠ 0 || (decide (x.engine < 32) && phDie h = x.engine / 4))
    match (if ok then s.homeSlot h else none) with
    | none => .fails Cause.phBad
    | some y =>
      if (countOf y.counts none).held = 0 then .fails Cause.phMode
      else .sent s.seq (s.engineArrival x.pkg x.part x.engine .user h y.ph.any payload none)
  else if h.toNat % 64 ≠ 0 then .fails Cause.phBad
  else match s.packetAccess x [.read, .write] h.toNat with
    | .error c => .fails c
    | .ok none => .park h.toNat
    | .ok (some ia) =>
      let y := s.agentTake x.pkg x.part ia 64
      if phObjBad y.1 then .fails Cause.phBad
      else if (countOf (y.2.memPh (s.space x.part ia) ia) none).held = 0 then .fails Cause.phMode
      else .sent y.2.seq (y.2.engineArrival x.pkg x.part x.engine .user h (readPh y.1).any payload (some (s.space x.part ia, ia)))
/-- An operation of a packet (R255): 1 a counter's add, 2 a future's value, 3 an arrival. The cause of an address that is not aligned is
not stated, so it is a free value (log 2). -/
def State.act (s : State) (x : Packet) (kind : Nat) (addr value : Dword) : Act :=
  let n := if kind = 1 then 8 else 16
  if kind = 3 then s.actPhaser x addr (value.setWidth 32)
  else if addr.toNat % n ≠ 0 then .fails (BitVec.ofNat 7 (Config.freeNat s.freeCtr x.id))
  else match s.packetAccess x [.read, .write] addr.toNat with
    | .error c => .fails c
    | .ok none => .park addr.toNat
    | .ok (some ia) =>
      let y := s.agentTake x.pkg x.part ia n
      if kind = 1 then .done 0 (y.2.agentPut x.part ia (toBytes 8 (ofBytes y.1 + value.toNat)))
      else match resolveFut y.1 false value with
        | .ok (bs, k, head) =>
          .done 0 ((y.2.agentPut x.part ia bs).beginDelivery x.part .user x.pkg (BitVec.ofNat 64 (head * 256)) k)
        | .error c =>
          if c = Cause.futDouble then .done c (y.2.supervisorEvent x.part { cause := Cause.futDouble, value := addr }) else .fails c
/-- The operation that a packet makes now (R255): its own, then its completion action, as a kind, an address and a value. -/
def Packet.operation (x : Packet) : Nat × Dword × Dword :=
  if x.effect then (x.doneKind, BitVec.ofNat 64 (blockDword x.bytes 0x30), BitVec.ofNat 64 (blockWord x.bytes 0x38))
  else (x.kind - 3, BitVec.ofNat 64 (blockDword x.bytes 8),
    if x.kind = 6 then BitVec.ofNat 64 (blockWord x.bytes 0x10) else BitVec.ofNat 64 (blockDword x.bytes 0x10))
/-- The package, not the packet's own, whose home applies its operation on a word (R407, R433). -/
def Packet.away (x : Packet) : Option Nat :=
  let o := x.operation
  match rangeIn x.ranges .user .write o.2.1.toNat with
  | .ok ia => if o.1 ≠ 3 && homePkg ia ≠ x.pkg then some (homePkg ia) else none
  | .error _ => none
/-- An operation of a packet applied, with a cause that its STATE word then carries (R255). -/
def Packet.applied (x : Packet) (cause : BitVec 7) : Packet :=
  let y := { x with cause := if cause = 0 then x.cause else cause, asked := false }
  if x.effect then { y with acted := true } else { y with effect := true }
/-- An operation of a packet that cannot be applied (R433): its own stops it; a completion action is left undone, and the packet finishes. -/
def State.operationFails (s : State) (x : Packet) (c : BitVec 7) : State :=
  if x.effect then
    (s.supervisorEvent x.part { cause := Cause.copyFault, aux := BitVec.ofNat 32 x.index, value := x.hdr }).packetDone x 1 c
  else s.packetStop x c 0
/-- A packet's operation begun (R255, R433): applied at its home, or sent there. -/
def State.operate (s : State) (x : Packet) : State :=
  match x.away with
  | some h => (s.send x.pkg h (.atm x.id)).modPacket x.id (fun x => { x with asked := true })
  | none =>
    match s.act x x.operation.1 x.operation.2.1 x.operation.2.2 with
    | .done c t => t.modPacket x.id (·.applied c)
    | .park va => s.parkPacket x .write va
    | .fails c => { s with freeCtr := s.freeCtr + 1 }.operationFails x c
    | .sent i t => t.modPacket x.id (fun x => { x.applied 0 with arrival := some i })
/-- PACKET_FINISH (R255): the packet's own operation; once that is applied, its completion action; once that is applied, STATE. Nothing is
done while a page that the finish needs is not there; a stop that waited for one is made. -/
def execPacketFinish (id : Nat) (s : State) : Outcome State Fault Refusal :=
  .next (match s.packets.find? (fun x => x.id = id) with
    | none => s
    | some x =>
      let flying := x.arrival.any (fun a => s.stitch.any (fun m => m.id = a))
      if x.stopped || flying || x.asked || (s.pkgAt x.pkg).down then s
      else match s.queueAbsent x with
        | some va => s.parkPacket x .write va
        | none =>
          match x.failing, x.opFailed with
          | some f, _ => s.packetStop x f.1 f.2
          | none, some c => s.operationFails (if x.acted then x else { x with effect := false }) c
          | none, none =>
            if x.effect && (x.doneKind = 0 || x.acted) then s.packetDone x 1 x.cause
            else if x.effect || 4 ≤ x.kind then s.operate x
            else s)

end Sys2Proof.Machine
end

