-- ==== Sys2Proof/Machine/Fabric.lean ====
section
/-! DEFINITION. The Aputh fabric (R396 to R410): messages received once, retried and failed; what each kind asks and answers; chains;
ports, flits and replay. -/

namespace Sys2Proof.Machine

open Host (Outcome)

/-- The message of a number. -/
def State.msg? (s : State) (id : Nat) : Option Msg := s.msgs.find? (fun m => m.id = id)
/-- A message gone from its sender and its receiver. -/
def State.dropMsg (s : State) (id : Nat) : State := { s with msgs := s.msgs.filter (fun m => m.id ≠ id) }
/-- A message changed. -/
def State.modMsg (s : State) (id : Nat) (g : Msg → Msg) : State :=
  { s with msgs := s.msgs.map (fun m => if m.id = id then g m else m) }
/-- Bytes of payload of a message (R399): whole beats of 8. -/
def MsgOp.payload : MsgOp → Nat
  | .reg _ => 8
  | .atm _ => 32
  | .wb _ _ bs => (bs.length + 7) / 8 * 8
  | .chain _ _ bs => (bs.length + 7) / 8 * 8
  | .data _ bs => (bs.length + 7) / 8 * 8
  | .nack _ _ => 8
  | _ => 0
/-- The request that a message belongs to. -/
def MsgOp.req : MsgOp → Nat
  | .get r => r
  | .getx r _ _ => r
  | .atm r => r
  | .clasp r _ _ => r
  | .unclasp r _ _ => r
  | .data r _ => r
  | .ack r => r
  | .nack r _ => r
  | .redirect r => r
  | .reg r => r
  | .chain p _ _ => p
  | _ => 0
/-- True for a response (R405, R407). -/
def MsgOp.response : MsgOp → Bool
  | .data .. => true
  | .ack _ => true
  | .nack .. => true
  | .redirect _ => true
  | _ => false
/-- The partitions that a message serves at the requesting package and at the home (R357, R377). -/
def State.msgParts (s : State) (m : Msg) : Option (Nat × Nat) :=
  match s.req? m.op.req, s.regs.find? (fun r => r.entry.id = m.op.req), s.packets.find? (fun x => x.id = m.op.req), m.op with
  | some q, _, _, _ => some (q.part, q.sp)
  | _, some r, _, _ => some (r.entry.part, r.entry.sp)
  | _, _, some x, _ => some (x.part, 96 * m.dst + x.part % 96)
  | _, _, _, .atm r => (s.launches.find? (fun x => x.id = r)).map (fun x => (x.part, 96 * m.dst + x.part % 96))
  | _, _, _, .wb sp _ bs => (bs.findSome? (fun b => (b.wr.head?).map (·.part))).map (fun p => (p, sp))
  | _, _, _, _ => none
/-- The partition of a package that a message is counted against (R405). -/
def State.msgPart (s : State) (m : Msg) (pkg : Nat) : Option Nat :=
  (s.msgParts m).bind (fun p => if p.2 / 96 = pkg then some p.2 else if p.1 / 96 = pkg then some p.1 else none)
/-- The payload of a message counted when it is received (R392). -/
def State.countMsg (s : State) (m : Msg) : State :=
  if m.src = m.dst then s
  else
    let s := match s.msgPart m m.src with | some p => s.meter p 8 m.op.payload | none => s
    match s.msgPart m m.dst with | some p => s.meter p 9 m.op.payload | none => s
/-- Entries of a port's ingress buffer charged to a class. -/
def Port.used (q : Port) (cls : Nat) : Nat := (q.ingress.filter (fun e => e.1 = cls)).length
/-- A message leaves the ingress buffers (R405): XON once the shared pool has fallen to LO. -/
def Pkg.leaveIngress (p : Pkg) (id : Nat) : Pkg :=
  { p with ports := p.ports.map (fun (q : Port) =>
      let q := { q with ingress := (q.ingress.map (fun (e : Nat × List Nat) => (e.1, e.2.filter (· ≠ id)))).filter (fun e => !e.2.isEmpty) }
      { q with xoff := q.xoff && decide (p.flo < q.used 96) }) }
/-- The first sequence number of a channel that its receiver has not accepted (R400). -/
def State.windowLow (s : State) (src dst : Nat) : Nat :=
  match s.msgs.find? (fun m => m.src = src && m.dst = dst && m.stage = .flying) with
  | some m => m.eseq
  | none => lookupD 0 (256 * src + dst) s.eseqs
/-- A message at its receiver (R399 to R402): accepted once, inside a window of 4,096; a duplicate is acknowledged again; one above the
window is dropped. What it says of the other direction acknowledges the messages there. -/
def State.receive (s : State) (m : Msg) : State :=
  if !s.reaches m.src m.dst then s
  else if m.stage ≠ .flying then s.modMsg m.id (fun m => { m with answered := true })
  else if 4096 ≤ (m.eseq + 2 ^ 32 - s.windowLow m.src m.dst) % 2 ^ 32 then s
  else
    let low := s.windowLow m.dst m.src
    let s := { s with msgs := s.msgs.map (fun (x : Msg) =>
      if x.id = m.id then { x with stage := MsgStage.accepted }
      else if x.src = m.dst && x.dst = m.src && x.stage ≠ MsgStage.flying && decide (2 ^ 31 ≤ (x.eseq + 2 ^ 32 - low) % 2 ^ 32) then { x with answered := true }
      else x) }
    (s.countMsg m).modPkg m.dst (·.leaveIngress m.id)
/-- MESSAGE_RECEIVE (R400). -/
def execMessageReceive (id : Nat) (s : State) : Outcome State Fault Refusal :=
  .next (match s.msg? id with | some m => s.receive m | none => s)

/-- A request of a fibre or an engine fails (R403): the cause is raised in the fibre at the instruction, FETCH_FAULT for a line of code
(R103), or its command aborts. A prefetch only ends (R217). -/
def State.failReq (s : State) (q : Req) (cause : BitVec 7) : State :=
  let l : Lane := ⟨q.tid, q.fid⟩
  let s' := s.dropReq q.id
  let tile := fun (t : State) => ((((t.unclaspAll q).dropReq q.id).modFibre l (fun f => { f with hold := none })).answer l (.failed cause q.va))
  match q.kind with
  | .line =>
    if q.code then
      (s'.modFibre l (fun f => { f with wait := none })).takeTrap l (if cause = Cause.mcPoison then cause else Cause.fetchFault)
        (if cause = Cause.mcPoison then q.va else fetchFaultVal q.va cause)
    else
      let s' := { s' with cmds := s'.cmds.map (fun (c : Cmd) => if c.asked = some q.id then { c with failed := some q.va.toNat, asked := none } else c) }
      (s'.team q.tid).fibres.foldl (fun t f =>
        if f.wait.any (fun w => w.on = .parked q.id) then t.answer ⟨q.tid, f.fid⟩ (.failed cause q.va) else t) s'
  | .pref => s'
  | .tileLoad => tile s
  | .tileStore => tile s
  | .atomic =>
    (s.reqs.filter (fun m => m.into = some q.id)).foldl (fun t m => (t.dropReq m.id).answer ⟨m.tid, m.fid⟩ (.failed cause m.va))
      (s'.answer l (.failed cause q.va))
  | .load => s'.answer l (.failed cause q.va)
/-- A store's registration fails at its home (R198), or because the fabric does not reach it (R403): the store is discarded; PEER_DOWN or
PEER_TIMEOUT is reported too. -/
def State.failReg (s : State) (r : Reg) (cause : BitVec 7) : State :=
  let e := r.entry
  let peer := cause = Cause.peerDown || cause = Cause.peerTimeout
  let s := if !r.registered then s.discard e
    else
      let s := s.acknowledged e.id
      if e.cmd.isSome then s.recordEngineFault e.tid e.fid e.part e.va else s.recordStoreFault e.tid e.fid e.part e.va
  if peer then s.supervisorEvent e.part { cause := cause, value := BitVec.ofNat 64 e.ia } else s
/-- Whatever a number names fails: a request, a registration, an operation of a packet, a packet at a target, or an action of a launch (R58,
R403, R407, R409, R433). -/
def State.failOf (s : State) (of : Nat) (cause : BitVec 7) : State :=
  match s.req? of, s.regs.find? (fun r => r.entry.id = of), s.packets.find? (fun x => x.id = of), s.msg? of with
  | some q, _, _, _ => s.failReq q cause
  | none, some r, _, _ => s.failReg r cause
  | none, none, some x, _ => s.modPacket x.id (fun x => { x with opFailed := some cause, asked := false, acted := x.effect })
  | none, none, none, some m => (match m.op with
    | .chain pkt hop _ => (match s.packets.find? (fun x => x.id = pkt) with
      | some x => (s.dropMsg of).packetStop x cause hop
      | none => s.dropMsg of)
    | _ => s)
  | none, none, none, none => s.modLaunch of (fun x => { x with opFailed := some cause, asked := false })
/-- A message's operation fails (R403). -/
def State.failMsg (s : State) (m : Msg) (cause : BitVec 7) : State :=
  let again := s.modMsg m.id (fun m => { m with sends := 1, sentAt := s.now })
  let event := fun (t : State) (part ia : Nat) => t.supervisorEvent part { cause := cause, value := BitVec.ofNat 64 ia }
  match m.op with
  | .wb sp ia bs => event (s.dropMsg m.id) ((bs.findSome? (fun b => (b.wr.head?).map (·.part))).getD (if sp / 96 = m.src then sp else 96 * m.src)) ia
  | .unclasp r _ line => event again (match s.req? r with | some q => q.part | none => 96 * m.src) (128 * line)
  | .lease _ _ page => event again (96 * m.src) (65536 * page)
  | .stale _ ia _ => event (s.dropMsg m.id) (96 * m.src) ia
  | .draw _ ia _ => event (s.dropMsg m.id) (96 * m.src) ia
  | .chain _ _ _ => s.failOf m.id cause
  | op => (s.dropMsg m.id).failOf op.req cause
/-- E2E_RETRY_TIMEOUT (R400, R403): sent again, or failed once its sends have run out; where no port reaches the destination it fails at
once. -/
def execE2eRetryTimeout (id : Nat) (s : State) : Outcome State Fault Refusal :=
  .next (match s.msg? id with
    | none => s
    | some m =>
      let p := s.pkgAt m.src
      if m.answered then s
      else if m.stage = .flying && !s.reaches m.src m.dst then s.failMsg m Cause.peerDown
      else if s.now < m.sentAt + p.retry * 3300 then s
      else if p.maxtry ≤ m.sends then s.failMsg m Cause.peerTimeout
      else s.modMsg id (fun m => { m with sends := m.sends + 1, sentAt := s.now }))

/-- A response sent, and the request done with. -/
def State.respond (s : State) (m : Msg) (op : MsgOp) : State := (s.dropMsg m.id).send m.dst m.src op
/-- A page that a revoked lease has moved to its spill area (R375). -/
def State.spilled (s : State) (part ia : Nat) : Bool :=
  match s.homePart part ia with
  | none => false
  | some hp => (match s.lookup hp (iaOff ia) with
    | .leaf e _ lvl => bits e 18 16 = 2 && (s.pkgAt (hp / 96)).leases.any (fun x => x.role = 1 && x.state = 5 && x.peer = bits e 27 20 && x.holds (leafPhys e lvl (iaOff ia)))
    | _ => false)
/-- A request that meets its page at its home (R360, R363, R375, R407): refused with a cause, parked, redirected, or answered. A fetch does not
park (R103). -/
def State.atPage (s : State) (m : Msg) (q : Req) (k : Acc) (go : State → State) : State :=
  let answer := if s.poisoned (agentCore m.dst) q.sp q.ia q.size then s.respond m (.nack q.id Cause.mcPoison)
    else go ((s.modReq q.id (fun q => { q with parked := none })).touchPage q.part q.ia)
  match s.pageCheck q.part q.level (some k) q.ia with
  | .absent => s.respond m (.nack q.id Cause.pageFault)
  | .fail c => s.respond m (.nack q.id c)
  | .held => if q.code then answer else s.parkReq q
  | .place _ =>
    if q.code then answer
    else if s.replayDue q.sp q.ia q.id then s.parkReq q
    else if q.parked.isSome && s.spilled q.part q.ia then (s.modReq q.id (fun q => { q with parked := none })).respond m (.redirect q.id)
    else answer
/-- True while exclusive ownership of a line of a range, taken for a tile of another package, holds requests of a package back (R212). -/
def State.barredRun (s : State) (p sp ia n : Nat) : Bool := (linePieces ia n).any (fun x => s.barred p sp x.1)
/-- A message that has been accepted, of a number, handled as its kind says; at a package that a fatal error has stopped it is answered
with PEER_DOWN (R421). -/
def State.handle (s : State) (id : Nat) (k : Msg → Option State) : State :=
  match s.msg? id with
  | none => s
  | some m =>
    if m.stage ≠ .accepted then s
    else match k m with
      | none => s
      | some t =>
        if (s.pkgAt m.dst).down && !m.op.response then
          (match m.op with
          | .chain .. => (s.modMsg id (fun m => { m with stage := .applied, answered := true })).send m.dst m.src (.nack id Cause.peerDown)
          | op => s.respond m (.nack op.req Cause.peerDown))
        else t
/-- GET at the home (R407). -/
def State.onGet (s : State) (m : Msg) : Option State :=
  match m.op with
  | .get r => some (match s.req? r with
    | none => s.dropMsg m.id
    | some q =>
      if s.barredRun m.src q.sp q.ia q.size then s
      else s.atPage m q (if q.code then .exec else .read) (fun t =>
        let x := t.homeLines m.dst q.sp q.ia q.size q.pt
        x.2.respond m (.data r (x.1.map (·.val)))))
  | _ => none
/-- GET (R407). -/
def execGet (id : Nat) (s : State) : Outcome State Fault Refusal := .next (s.handle id s.onGet)
/-- A clasp asked of a home agent by another package, with exclusive ownership or without (R212, R407). -/
def State.askClasp (s : State) (m : Msg) (r sp line : Nat) (excl : Bool) : State :=
  match s.req? r with
  | none => s.dropMsg m.id
  | some _ => (s.dropMsg m.id).modPkg m.dst (fun p => { p with clasps := p.clasps ++ [⟨sp, line, r, false, m.src, excl⟩] })
/-- GETX at the home (R407): the line's clasp with exclusive ownership; it is answered once the clasp is held. -/
def State.onGetx (s : State) (m : Msg) : Option State :=
  match m.op with
  | .getx r sp line => some (s.askClasp m r sp line true)
  | _ => none
/-- GETX (R407). -/
def execGetx (id : Nat) (s : State) : Outcome State Fault Refusal := .next (s.handle id s.onGetx)
/-- REG at the home (R289, R363, R407). -/
def State.onReg (s : State) (m : Msg) : Option State :=
  match m.op with
  | .reg r => some (match s.regs.find? (fun x => x.entry.id = r) with
    | none => s.dropMsg m.id
    | some x =>
      let e := x.entry
      if s.barredRun m.src e.sp e.ia e.bytes.length || s.readParked e.sp e.ia s.seq then s
      else match s.pageCheck e.part e.level (some .write) e.ia with
      | .fail c => s.respond m (.nack r c)
      | _ =>
        let t := s.arriveReg e
        match t.regs.find? (fun y => y.entry.id = r) with
        | some y => if y.registered then (t.cleanWords e.sp e.ia e.bytes.length).respond m (.ack r) else if y.parked.isSome then t.dropMsg m.id else t
        | none => t.dropMsg m.id)
  | _ => none
/-- REG (R407). -/
def execReg (id : Nat) (s : State) : Outcome State Fault Refusal := .next (s.handle id s.onReg)
/-- WB at the home (R292, R407): the bytes that the sender still owns enter the home's order. -/
def State.onWb (s : State) (m : Msg) : Option State :=
  match m.op with
  | .wb sp _ bs => some ((bs.foldl (fun t b => match findByte (t.pkgAt m.src).llc sp b.ia with
      | some d => if d.st = .owned then t.backPeer m.src d else t
      | none => t) s).dropMsg m.id)
  | _ => none
/-- WB (R407). -/
def execWb (id : Nat) (s : State) : Outcome State Fault Refusal := .next (s.handle id s.onWb)
/-- STALE at a package (R407): copies of the words become stale, owned words stay owned. -/
def State.onStale (s : State) (m : Msg) : Option State :=
  match m.op with
  | .stale sp ia len => some (
      let mark := fun (l : List CByte) => l.map (fun b =>
        if b.within sp ia len && !b.isOwned then b.older else b)
      { s with
        cores := s.cores.map (fun (kc : Nat × Core) => if corePkg kc.1 = m.dst then (kc.1, { kc.2 with l1 := mark kc.2.l1 }) else kc)
        pkgs := s.pkgs.map (fun (kp : Nat × Pkg) => if kp.1 = m.dst then (kp.1, { kp.2 with llc := mark kp.2.llc }) else kp) }.respond m (.ack m.id))
  | _ => none
/-- STALE (R407). -/
def execStale (id : Nat) (s : State) : Outcome State Fault Refusal := .next (s.handle id s.onStale)
/-- DRAW at a package (R407): the slice writes its owned words of the range back by WB. -/
def State.onDraw (s : State) (m : Msg) : Option State :=
  match m.op with
  | .draw sp ia len => some (
      let s := (List.range len).foldl (fun t i => t.drawIn m.dst sp (ia + i)) (s.endIngress m.dst sp ia len)
      let bs := (s.pkgAt m.dst).llc.filter (fun b => b.within sp ia len && b.isOwned)
      (if bs.isEmpty then s else s.send m.dst (homePkg ia) (.wb sp ia bs)).respond m (.ack m.id))
  | _ => none
/-- DRAW (R407). -/
def execDraw (id : Nat) (s : State) : Outcome State Fault Refusal := .next (s.handle id s.onDraw)
/-- A line of the ingress atomic cache used (R223, R408): filled where it is not there, in place of the oldest fill where the cache is
full. -/
def Pkg.useIngress (p : Pkg) (sp line now : Nat) : Pkg :=
  if p.ingress.any (fun x => x.1 = sp && x.2.1 = line) then p
  else { p with ingress := (if 1024 ≤ p.ingress.length then p.ingress.dropLast else p.ingress) |> ((sp, line, now) :: ·) }
/-- ATM at the home (R296, R302, R407, R408), of a fibre, of a packet (R433) or of a launch (R58). -/
def State.onAtm (s : State) (m : Msg) : Option State :=
  match m.op with
  | .atm r => some (match s.req? r, s.packets.find? (fun x => x.id = r), s.launches.find? (fun x => x.id = r) with
    | some q, _, _ =>
      if (s.pkgAt m.dst).clasps.any (fun c => c.held && c.sp = q.sp && c.line = q.ia / 128) then s
      else s.atPage m q .write (fun t =>
        let x := t.applyAtomic q
        (x.2.modPkg m.dst (·.useIngress q.sp (q.ia / 128) s.now)).respond m (.data r (toBytes q.size x.1)))
    | none, some x, _ =>
      match s.act x x.operation.1 x.operation.2.1 x.operation.2.2 with
      | .done c t => (t.modPacket r (fun x => { x with cause := if c = 0 then x.cause else c })).respond m (.data r [])
      | .park va => s.parkPacket x .write va
      | .fails c => { s with freeCtr := s.freeCtr + 1 }.respond m (.nack r c)
      | .sent _ t => t.dropMsg m.id
    | none, none, some x =>
      match x.act with
      | none => s.dropMsg m.id
      | some a => match s.launchApply x a with
        | .error c => s.respond m (.nack r c)
        | .ok none => s.agentPark x.part x.agentLevel .write a.va
        | .ok (some t) => t.respond m (.data r [])
    | none, none, none => s.dropMsg m.id)
  | _ => none
/-- ATM (R407). -/
def execAtm (id : Nat) (s : State) : Outcome State Fault Refusal := .next (s.handle id s.onAtm)
/-- CLASP at the home agent (R212, R407). -/
def State.onClasp (s : State) (m : Msg) : Option State :=
  match m.op with
  | .clasp r sp line => some (s.askClasp m r sp line false)
  | _ => none
/-- CLASP (R407). -/
def execClasp (id : Nat) (s : State) : Outcome State Fault Refusal := .next (s.handle id s.onClasp)
/-- UNCLASP at the home agent (R212, R407). -/
def State.onUnclasp (s : State) (m : Msg) : Option State :=
  match m.op with
  | .unclasp r sp line => some ((s.dropMsg m.id).modPkg m.dst (fun p =>
      { p with clasps := p.clasps.filter (fun c => !(c.req = r && c.line = line && c.sp = sp)) }))
  | _ => none
/-- UNCLASP (R407). -/
def execUnclasp (id : Nat) (s : State) : Outcome State Fault Refusal := .next (s.handle id s.onUnclasp)
/-- CHAIN at a target (R407, R409): its write follows as CHAIN_HOP. -/
def State.onChain (s : State) (m : Msg) : Option State :=
  match m.op with
  | .chain .. => some (s.modMsg m.id (fun m => { m with stage := .applied }))
  | _ => none
/-- CHAIN (R407). -/
def execChain (id : Nat) (s : State) : Outcome State Fault Refusal := .next (s.handle id s.onChain)
/-- What the pages of a chain's target meet: the first cause, a page not there, or each run's address. -/
def State.chainMeets (s : State) (x : Packet) : List (Nat × Nat) → Except Cause.Code (Option Nat)
  | [] => .ok none
  | (ia, _) :: r =>
    match s.pageCheck x.part .user (some .write) ia with
    | .fail c => .error c
    | .place _ => if s.replayDue (s.space x.part ia) ia s.seq then .ok (some ia) else s.chainMeets x r
    | _ => .ok (some ia)
/-- CHAIN_HOP (R409): the target writes the bytes at its home agent, and once they are acknowledged sends the message on, or tells the
origin. A target that faults tells the origin the cause. -/
def execChainHop (id : Nat) (s : State) : Outcome State Fault Refusal :=
  .next (match s.msg? id with
    | none => s
    | some m =>
      match m.op with
      | .chain pkt hop bs =>
        if m.stage ≠ .applied || m.answered then s
        else (match s.packets.find? (fun x => x.id = pkt) with
        | none => s.dropMsg id
        | some x =>
          (match rangeIn x.ranges .user .write (blockDword x.bytes 0x10) with
          | .error c => (s.modMsg id (fun m => { m with answered := true })).send m.dst x.pkg (.nack id c)
          | .ok ia0 =>
            let ia := ia0 % 2 ^ 52 + 2 ^ 52 * m.dst
            let runs := splitRun ia bs.length
            match s.chainMeets x runs with
            | .error c => (s.modMsg id (fun m => { m with answered := true })).send m.dst x.pkg (.nack id c)
            | .ok (some a) => s.parkAgent (s.space x.part a) a 2 0x1FF (s.pageCheck x.part .user (some .write) a = .absent)
            | .ok none =>
              let bad := fun (i : Nat) => !s.poison.isEmpty && (match s.packetAccess x [.read] (blockDword x.bytes 8 + i) with
                | .ok (some a) => s.poisoned (agentCore x.pkg) (s.space x.part a) a 1
                | _ => false)
              let w := runs.foldl (fun (acc : State × List Byte) r =>
                (acc.1.agentStore m.dst x.part r.1 x.point (acc.2.take r.2), acc.2.drop r.2)) (s, bs)
              let ks := (List.range bs.length).filterMap (fun i => if bad i then (w.1.sysKey (s.space x.part ia) (wordOf (ia + i))).map (· / 4) else none)
              let t := (w.1.addPoison ks).dropMsg id
              if x.targets ≤ hop + 1 then t.send m.dst x.pkg (.ack pkt) else t.send m.dst (x.target (hop + 1)) (.chain pkt (hop + 1) bs)))
      | _ => s)
/-- LEASE (R373 to R375, R407). -/
def State.onLease (s : State) (m : Msg) : Option State :=
  match m.op with
  | .lease op lid page => some ((s.dropMsg m.id).leaseArrive m.src m.dst op lid page)
  | _ => none
/-- LEASE (R407). -/
def execLease (id : Nat) (s : State) : Outcome State Fault Refusal := .next (s.handle id s.onLease)
/-- True when what a line's bytes say is still what its home holds: no later registration has passed them on their way. -/
def State.current (s : State) (sp base : Nat) (bs : List Byte) : Bool :=
  bs.zipIdx.all (fun b => (s.sliceValue (homePkg base) sp (base + b.2)).getD 0 = b.1)
/-- One line's bytes arriving in a package's slice as valid, beside what is owned there or below it (R289, R407). Bytes that a later
registration has passed on their way are kept nowhere, and what they would have replaced goes. -/
def State.fillSlice (s : State) (p sp base : Nat) (bs : List Byte) : State :=
  let v := s.seq
  let new := if s.current sp base bs then
      bs.zipIdx.filterMap (fun b => if (s.coreOwner p sp (base + b.2)).isSome || ((findByte (s.pkgAt p).llc sp (base + b.2)).any CByte.isOwned) then none
        else some ({ sp := sp, ia := base + b.2, st := .valid, val := b.1, filled := s.now, ver := v } : CByte))
    else []
  let s := { s with seq := s.seq + 1 }.modPkg p (fun k => { k with llc := new ++ dropCopies k.llc sp base bs.length })
  s.useSlice p sp base .default
/-- The line that a tile has asked for last. -/
def Req.lastAsked (q : Req) (s : State) : Option (Nat × Nat) :=
  (q.tileLines.filter (fun x => (s.pkgAt (homePkg (x.2 * 128))).clasps.any (fun c => c.sp = x.1 && c.line = x.2 && c.req = q.id))).getLast?
/-- The lines of an access as DATA carries them arrive in its package's slice, and its core keeps its bytes (R196, R289): the state, and the
bytes that the access reads, what its L1 or its slice owns before what came (R291). -/
def State.takeData (s : State) (q : Req) (ev : Evict) (bs : List Byte) : State × List CByte :=
  let p := corePkg q.core
  let first := q.ia / 128 * 128
  (linePieces q.ia q.size).foldl (fun (acc : State × List CByte) x =>
    let line := x.1 / 128 * 128
    let here := (bs.drop (line - first)).take 128
    let fresh := acc.1.current q.sp line here
    let t := acc.1.fillSlice p q.sp line here
    let v := t.seq
    let cs := (List.range x.2).map (fun i =>
      match (findByte (t.pkgAt p).llc q.sp (x.1 + i)).filter CByte.isOwned with
      | some b => b
      | none => ({ sp := q.sp, ia := x.1 + i, st := .valid, val := here.getD (x.1 + i - line) 0, filled := t.now, ver := v } : CByte))
    let own := fun (b : CByte) => (findByte (t.coreAt q.core).l1 q.sp b.ia).filter CByte.isOwned
    ((if fresh && !q.code then t.keepBytes q.core q.sp x.1 ev cs else t), acc.2 ++ cs.map (fun b => (own b).getD b))) (s, [])
/-- A load's bytes as its lines arrive (R291): its own stores in the queue, then what is owned, then the lines. -/
def State.lineBytes (s : State) (q : Req) (cs : List CByte) : List Byte :=
  cs.map (fun b => (s.queuedByte q.tid q.fid q.order q.sp b.ia).getD b.val)
/-- DATA at the requester (R289, R407). -/
def State.onData (s : State) (m : Msg) : Option State :=
  match m.op with
  | .data r bs => some (
      let s := s.dropMsg m.id
      match s.req? r, s.packets.find? (fun x => x.id = r), s.launches.find? (fun x => x.id = r) with
      | some q, _, _ =>
        (match q.kind with
        | .atomic => s.finishAtomic q (ofBytes bs)
        | .load =>
          let x := (s.raiseFloor ⟨q.tid, q.fid⟩ q.core q.sp q.ia q.size).takeData q q.evict bs
          x.1.finishLoad q (x.1.lineBytes q x.2)
        | .line => (((s.takeData q .default bs).1).dropReq q.id).wakeParked q.tid q.id
        | .pref => (s.takeData q q.evict bs).1.dropReq q.id
        | _ => (match q.lastAsked s with
          | some x => s.fillSlice m.dst x.1 (128 * x.2) bs
          | none => s).claimNext q)
      | none, some _, _ => s.modPacket r (fun x => x.applied 0)
      | none, none, some x => s.launchActed x
      | none, none, none => s)
  | _ => none
/-- DATA (R407). -/
def execData (id : Nat) (s : State) : Outcome State Fault Refusal := .next (s.handle id s.onData)
/-- ACK at the requester (R407): a clasp granted, a registration acknowledged, the last target of a chain written. -/
def State.onAck (s : State) (m : Msg) : Option State :=
  match m.op with
  | .ack of => some (
      let t := s.dropMsg m.id
      match s.req? of with
      | some q => t.claimNext q
      | none => (match s.packets.find? (fun x => x.id = of) with
        | some x => (t.meter x.part 10 (copyTotal x.bytes * (x.targets - x.chunk))).modPacket of (fun x => { x with effect := true, asked := false })
        | none => t.acknowledged of))
  | _ => none
/-- ACK (R407). -/
def execAck (id : Nat) (s : State) : Outcome State Fault Refusal := .next (s.handle id s.onAck)
/-- NACK at the requester (R403, R407). -/
def State.onNack (s : State) (m : Msg) : Option State :=
  match m.op with
  | .nack of cause => some ((s.dropMsg m.id).failOf of cause)
  | _ => none
/-- NACK (R407). -/
def execNack (id : Nat) (s : State) : Outcome State Fault Refusal := .next (s.handle id s.onNack)
/-- REDIRECT at the requester (R375, R407): the request is made again, and meets the spill area. -/
def State.onRedirect (s : State) (m : Msg) : Option State :=
  match m.op with
  | .redirect of => some ((s.dropMsg m.id).modReq of (fun q => { q with sent := false }))
  | _ => none
/-- REDIRECT (R407). -/
def execRedirect (id : Nat) (s : State) : Outcome State Fault Refusal := .next (s.handle id s.onRedirect)
/-- What a message does at its destination, by its kind (R407). -/
def State.onMessage (s : State) (m : Msg) : Option State :=
  match m.op with
  | .get .. => s.onGet m
  | .getx .. => s.onGetx m
  | .reg .. => s.onReg m
  | .wb .. => s.onWb m
  | .stale .. => s.onStale m
  | .draw .. => s.onDraw m
  | .atm .. => s.onAtm m
  | .clasp .. => s.onClasp m
  | .unclasp .. => s.onUnclasp m
  | .chain .. => s.onChain m
  | .lease .. => s.onLease m
  | .data .. => s.onData m
  | .ack .. => s.onAck m
  | .nack .. => s.onNack m
  | .redirect .. => s.onRedirect m
/-- DELIVER (R289, R301): a channel's message arrives, and does what its kind says. -/
def execDeliver (id : Nat) (s : State) : Outcome State Fault Refusal :=
  .next (match s.msg? id with
    | none => s
    | some m => if m.stage ≠ .flying then s else let t := s.receive m; t.handle id t.onMessage)

/-- Flits kept for replay that the far end has received (R397, R398): those up to LACK go. -/
def Port.prune (q : Port) (lack : Nat) : Port :=
  let rest := q.buffer.filter (fun f => decide (2048 ≤ (lack + 4096 - f.1) % 4096))
  { q with buffer := rest, inRow := if rest.length = q.buffer.length then q.inRow else 0 }
/-- A replay request met (R398): every flit after LACK is sent again; 8 replays of one flit in a row retrain the port. -/
def Port.replayed (q : Port) (lack : Nat) : Port :=
  let q := q.prune lack
  if q.buffer.isEmpty then q
  else
    let q := { q with replays := min 0xFFFF (q.replays + q.buffer.length), inRow := q.inRow + 1 }
    if 8 ≤ q.inRow then { q with state := 1, inRow := 0, buffer := [] } else q
/-- REPLAY_REQUEST (R398). -/
def execReplayRequest (pkg port lack : Nat) (s : State) : Outcome State Fault Refusal :=
  .next (s.modPkg pkg (fun p => p.modPort port (fun q => if 2 ≤ q.state then q.replayed (lack % 4096) else q)))
/-- The class that a flit's entry is charged to (R405), none where no entry is left: responses have 64 entries, a partition its floor,
then the shared pool. -/
def State.ingressClass (s : State) (pkg port : Nat) (f : Flit) : Option Nat :=
  let p := s.pkgAt pkg
  let q := p.ports.getD port { }
  let ms := f.messages.filterMap s.msg?
  if ms.all (fun m => m.op.response) then (if q.used 97 < 64 then some 97 else none)
  else
    let part := ms.findSome? (fun m => (s.msgPart m pkg).map (· % 96))
    let floor := match part with | some n => if q.used n < lookupD 0 n p.floors then some n else none | none => none
    match floor with
    | some n => some n
    | none => if q.xoff || decide (1024 - p.floorSum ≤ q.used 96) then none else some 96
/-- FLIT_RECEIVE (R397, R398, R405): FEC, then the CRC; a flit that fails, or that does not come next, is discarded and its replay is asked
for; one that comes next is taken into the ingress buffer. -/
def execFlitReceive (pkg port : Nat) (f : Flit) (s : State) : Outcome State Fault Refusal :=
  let q := (s.pkgAt pkg).ports.getD port { }
  let good := f.crcHolds || (decide (f.evenErrors ≤ 3) && decide (f.oddErrors ≤ 3))
  .next (
    if q.state < 2 then s
    else if !good || f.lseq ≠ (q.lastGood + 1) % 4096 then s.modPkg pkg (fun p => p.modPort port (fun q => { q with asking := true }))
    else
      let took := fun (q : Port) => { q.prune f.lack with lastGood := f.lseq, asking := false }
      if f.ftype = 2 then s.modPkg pkg (fun p => p.modPort port (fun q => (took q).replayed f.lack))
      else if f.ftype ≠ 1 || f.messages.isEmpty then s.modPkg pkg (fun p => p.modPort port took)
      else match s.ingressClass pkg port f with
        | none => s
        | some c => s.modPkg pkg (fun p => p.modPort port (fun q =>
            let q := { took q with ingress := q.ingress ++ [(c, f.messages)] }
            { q with xoff := q.xoff || decide (p.fhi ≤ q.used 96) })))
/-- The lanes that a port uses (R396): all 8, or the 4 of the half that works. -/
def Port.uses (q : Port) (lane : Nat) : Bool :=
  q.state = 2 || (q.state = 3 && (if [0, 1, 2, 3].all (fun i => !q.badLanes.contains i) then decide (lane < 4) else decide (4 ≤ lane)))
/-- LANE_FAIL (R396): a lane in use fails, and the port retrains. -/
def execLaneFail (pkg port lane : Nat) (s : State) : Outcome State Fault Refusal :=
  .next (if 8 ≤ lane || 18 ≤ port then s
    else s.modPkg pkg (fun p => p.modPort port (fun q =>
      let used := q.uses lane
      let q := { q with badLanes := if q.badLanes.contains lane then q.badLanes else lane :: q.badLanes }
      if used then { q with state := 1, inRow := 0, buffer := [] } else q)))
/-- PORT_RETRAIN (R396): at 8 lanes, at 4, or down with MC_LINK. A port that $FPCTL keeps down does not train. -/
def execPortRetrain (pkg port : Nat) (s : State) : Outcome State Fault Refusal :=
  let p := s.pkgAt pkg
  let q := p.ports.getD port { }
  let works := fun (ls : List Nat) => ls.all (fun i => !q.badLanes.contains i)
  .next (
    if 18 ≤ port || p.down || !bitAt p.fpctl port || 2 ≤ q.state then s
    else if q.badLanes.isEmpty then s.modPkg pkg (fun p => p.modPort port (fun q => { q with state := 2 }))
    else if works [0, 1, 2, 3] || works [4, 5, 6, 7] then s.modPkg pkg (fun p => p.modPort port (fun q => { q with state := 3 }))
    else if q.state = 0 then s
    else s.portDown pkg port)
/-- FPCTL_WRITE (R410). -/
def execFpctlWrite (pkg : Nat) (v : Word) (s : State) : Outcome State Fault Refusal := .next (s.setBlockReg pkg 0x010 v.toNat)
/-- FPOOL_WRITE (R410). -/
def execFpoolWrite (pkg : Nat) (v : Word) (s : State) : Outcome State Fault Refusal := .next (s.setBlockReg pkg 0x018 v.toNat)
/-- FFLOOR_WRITE (R410). -/
def execFfloorWrite (pkg : Nat) (v : Word) (s : State) : Outcome State Fault Refusal := .next (s.setBlockReg pkg 0x028 v.toNat)
/-- SNCTL_WRITE (R410). -/
def execSnctlWrite (pkg : Nat) (v : Word) (s : State) : Outcome State Fault Refusal := .next (s.setBlockReg pkg 0x200 v.toNat)

end Sys2Proof.Machine
end

