-- ==== Sys2Proof/Machine/Integrity.lean ====
section
/-! DEFINITION. Integrity, the colophon and bring-up (R381, R390, R391, R417 to R427): errors corrected and not, failed partitions, the
fatal dump, power and heat, the host and expander ports, and resets. -/

namespace Sys2Proof.Machine

open Host (Outcome)

/-- CORRECTED_ERROR (R334, R418): corrected in place; the colophon and an event say so. -/
def execCorrectedError (pkg part core : Nat) (s : State) : Outcome State Fault Refusal :=
  .next (s.corrected pkg part core)
/-- A team ended at once, without completion actions of its own: its requests, clasps and commands go with it (R381, R418). -/
def State.killTeam (s : State) (tid : Nat) : State :=
  match s.team? tid with
  | none => s
  | some t =>
    let ids := (s.reqs.filter (fun q => q.tid = tid)).map (·.id)
    { s with
      reqs := s.reqs.filter (fun q => q.tid ≠ tid)
      tails := s.tails.filter (fun x => x.tid ≠ tid)
      cmds := s.cmds.filter (fun c => c.tid ≠ tid)
      pkgs := s.pkgs.map (fun (kp : Nat × Pkg) => (kp.1, { kp.2 with clasps := kp.2.clasps.filter (fun (c : Clasp) => !ids.contains c.req) })) }.endTeam t
/-- A team ended by an error in a core storage (R418, R334). -/
def State.loseTeam (s : State) (tid : Nat) (cause : BitVec 7) : State :=
  match s.team? tid with
  | none => s
  | some t => (s.killTeam tid).sendEvent t.partKey (t.event 0 cause 0 0)
/-- The bytes that an access under way is at, and its scope point. -/
def State.accessOf (s : State) (id : Nat) : Option (Nat × Nat × Point) :=
  match s.req? id with
  | some q => some (q.sp, q.ia, q.pt)
  | none => (s.regs.find? (fun r => r.entry.id = id)).map (fun r => (r.entry.sp, r.entry.ia, r.entry.pt))
/-- An access completes with an error (R334, R423): one of attached memory (store 3) or of the host's (store 4), or one that the pod's
directory refuses. -/
def State.accessFails (s : State) (id : Nat) (e : AccessError) : State :=
  match s.accessOf id with
  | none => s
  | some (sp, ia, pt) =>
    let lies := fun (store : Nat) => (s.sysKey sp ia).any (fun k => k / 2 ^ 60 = store)
    match e with
    | .attached => if lies 3 then s.failOf id Cause.cxlErr else s
    | .host => if lies 4 then s.failOf id Cause.hostErr else s
    | .directory => if pt.wide then s.failOf id Cause.dirFault else s
/-- UNCORRECTABLE_ERROR (R418, R334). -/
def execUncorrectableError (pkg : Nat) (place : ErrPlace) (s : State) : Outcome State Fault Refusal :=
  .next (match place with
    | .word key => s.addPoison [physKey 1 pkg (4 * key) / 4]
    | .line ia =>
      let here := fun (b : CByte) => decide (b.ia / 128 = ia / 128)
      if (s.pkgAt pkg).llc.any (fun b => here b && b.st = .owned) then s
      else (s.modPkg pkg (fun k => { k with llc := k.llc.filter (fun b => !here b) })).monitorEvent pkg
        { cause := Cause.mcLlc, value := BitVec.ofNat 64 (128 * (ia / 128)) }
    | .access id e => s.accessFails id e
    | .regfile tid => if (s.team tid).pkg = pkg then s.loseTeam tid Cause.mcRegfile else s
    | .leaf tid => if (s.team tid).pkg = pkg then s.loseTeam tid Cause.mcScratch else s
    | .engine tid => if (s.team tid).pkg = pkg then s.loseTeam tid Cause.mcEngine else s)
/-- PATROL_SCRUB (R418) of one HBM word of a package. -/
def execPatrolScrub (pkg word : Nat) (outcome : ScrubOutcome) (s : State) : Outcome State Fault Refusal :=
  .next (match outcome with
    | .clean => s
    | .corrected => s.corrected pkg 0x7F 0x1FF
    | .uncorrectable => (s.addPoison [physKey 1 pkg (4 * word) / 4]).monitorEvent pkg
        { cause := Cause.mcHbm, value := BitVec.ofNat 64 (4 * word) })

/-- The set of an intermediate address for a partition's colours (R386). -/
def Part.setOf (x : Part) (ia : Nat) : Nat :=
  let l := bits ia 59 7
  let c := (List.range 128).filter (fun i => bitAt x.colours i)
  c.getD (bits l 24 11 % c.length) 0 * 16 + bits l 10 7
/-- A partition fails (R391). The CAUSE of its packets is not stated, so it is a free value (log 2). -/
def State.failPart (s : State) (p value : Nat) : State :=
  let s := s.modPart p (fun x => { x with failed := true, perr := x.perr ||| 1 })
  let s := (s.packets.filter (fun x => x.part = p && !x.stopped)).foldl (fun (t : State) x =>
    { t with freeCtr := t.freeCtr + 1 }.packetStop x (BitVec.ofNat 7 (Config.freeNat t.freeCtr x.id)) x.chunk) s
  s.monitorEvent (p / 96) { cause := Cause.mcLostLine, aux := BitVec.ofNat 32 (p % 96), value := BitVec.ofNat 64 value } (p % 96)
/-- LLC_TAG_PARITY_ERROR (R390, R391) of the line that holds an address. -/
def execLlcTagParityError (pkg ia : Nat) (owned1 owned2 : Bool) (s : State) : Outcome State Fault Refusal :=
  .next (match (s.pkgAt pkg).llc.find? (fun b => b.ia / 128 = ia / 128) with
    | none => s
    | some b =>
      let line := fun (c : CByte) => c.sp = b.sp && c.ia / 128 = ia / 128
      if !owned1 && !owned2 then
        (s.modPkg pkg (fun k => { k with llc := k.llc.filter (fun c => !(line c && c.st ≠ .owned)) })).corrected pkg (b.sp % 96) 0x1FF
      else
        let p := if b.sp / 96 = pkg then b.sp else 96 * pkg + b.sp % 96
        let set := (s.partAt p).setOf ia
        let s := s.modPkg pkg (fun k => { k with llc := k.llc.filter (fun c => !line c) })
        (List.range 96).foldl (fun t q =>
          let x := t.partAt (96 * pkg + q)
          if x.en && bitAt x.colours (set / 16) then t.failPart (96 * pkg + q) (sliceOf ia * 2048 + set) else t) s)
/-- FUNCTION_LEVEL_RESET (R381). -/
def execFunctionLevelReset (pkg part : Nat) (s : State) : Outcome State Fault Refusal :=
  let p := 96 * pkg + part
  let s := { s with launches := s.launches.filter (fun x => x.part ≠ p) }
  let s := ((s.teams.filter (fun t => t.partKey = p)).map (·.tid)).foldl (fun t i => t.killTeam i) s
  let s := (s.packets.filter (fun x => x.part = p && !x.stopped)).foldl (fun (t : State) x => t.packetStop x Cause.vfReset x.chunk) s
  .next ((s.modPart p (fun x => { x with perr := 0, failed := false, restoring := [] })).monitorEvent pkg { cause := Cause.vfReset } part)

/-- Owned bytes of a package's slice written to its HBM (R421). -/
def State.flushSlice (s : State) (pkg : Nat) : State :=
  ((s.pkgAt pkg).llc.filter (fun b => b.st = .owned && homePkg b.ia = pkg)).foldl (fun t b =>
    (t.backHome pkg { b with pt := .core }).backHome pkg { b with pt := .pod }) s
/-- The privileged registers of a partition in a dump: an 8-byte cell for each index from 0x40 (log 16). -/
def State.dumpRegs (s : State) (p : Nat) : List Byte := (List.range 0x64).flatMap (fun i => toBytes 8 (s.partSreg p (0x40 + i)))
/-- The pieces of a fatal dump (R421) by their offsets from $DUMPBASE: header, colophon, registers, and a frame for every resident team. The
header's and the registers' layouts are the model's (log 16). -/
def State.dumpPieces (s : State) (pkg : Nat) : List (Nat × List Byte) :=
  let p := s.pkgAt pkg
  let e := p.fatal.getD { cause := Cause.mcFatal }
  [(0, toBytes 8 (s.bootId pkg).toNat ++ toBytes 8 p.fepoch ++ toBytes 8 (s.clk pkg) ++
      toBytes 4 (e.cause.toNat + 256 * e.core + 2 ^ 17 * e.slot + 2 ^ 22 * e.fid) ++ toBytes 4 e.aux.toNat ++ toBytes 8 e.value.toNat),
   (65536, (List.range 8192).flatMap (fun i => toBytes 8 (p.colWord (i / 4) (i % 4))))] ++
  (List.range 96).map (fun q => (2 ^ 20 + 2048 * q, s.dumpRegs (96 * pkg + q))) ++
  (s.teams.filter (fun t => t.pkg = pkg && !t.inJacket)).flatMap (fun t =>
    (t.framePieces s.now 6 (s.pending t.tid)).map (fun x => (2 ^ 30 + 2 ^ 22 * (32 * t.core + t.slot) + x.1, x.2)))
/-- FATAL_DUMP (R421): first FROZEN, the halts and the write-backs; then, where $DUMPBASE names an area, the dump. -/
def execFatalDump (pkg : Nat) (s : State) : Outcome State Fault Refusal :=
  let p := s.pkgAt pkg
  .next (
    if p.fatal.isNone then s
    else if p.dumpstat = 3 then
      let base := physKey 1 pkg (p.dumpbase.toNat % 2 ^ 52)
      let s := { s with mem := (s.dumpPieces pkg).foldl (fun m (x : Nat × List Byte) => Memory.write m (base + x.1) x.2) s.mem }
      s.modPkg pkg (fun k => { k with dumpstat := 1 })
    else if p.down then s
    else
      let s := s.modPkg pkg (fun k => { k with frozen := true, down := true })
      let s := (List.range Config.coresPerPkg).foldl (fun (t : State) c =>
        let ck := Config.coresPerPkg * pkg + c
        if (t.coreAt ck).halted then t
        else (t.modCore ck (fun k => { k with halted := true })).monitorEvent pkg { cause := Cause.coreHalted, core := c }) s
      if p.dumpbase = 0 then s else (s.modPkg pkg (fun k => { k with dumpstat := 3 })).flushSlice pkg)

/-- THERMAL_LIMIT (R427): the readings, THROTTLE, and what the limits raise. -/
def execThermalLimit (pkg temp : Nat) (overPower : Bool) (s : State) : Outcome State Fault Refusal :=
  let hot := overPower || decide (100 ≤ temp)
  let was := bitAt (s.pkgAt pkg).therm 8
  let s := s.modPkg pkg (fun p => { p with therm := min temp 255 + (if was || hot then 256 else 0) })
  let s := if hot && !was then s.monitorEvent pkg { cause := Cause.mcThermal, aux := 1 } else s
  .next (if 110 ≤ temp then (s.monitorEvent pkg { cause := Cause.mcThermal, aux := 2 }).monitorEvent pkg { cause := Cause.mcFatal } else s)
/-- THROTTLE_END (R427): back within limits. -/
def execThrottleEnd (pkg : Nat) (s : State) : Outcome State Fault Refusal :=
  .next (s.modPkg pkg (fun p => { p with therm := min (p.therm % 256) 99 }))
/-- POWER_FAULT (R427). -/
def execPowerFault (pkg : Nat) (s : State) : Outcome State Fault Refusal := .next (s.monitorEvent pkg { cause := Cause.mcPower })
/-- EXPANDER_FATAL_ERROR (R423). -/
def execExpanderFatalError (pkg : Nat) (s : State) : Outcome State Fault Refusal := .next (s.monitorEvent pkg { cause := Cause.mcCxl })
/-- COLCTL_UNFREEZE (R420). -/
def execColctlUnfreeze (pkg : Nat) (s : State) : Outcome State Fault Refusal := .next (s.setBlockReg pkg 0x308 1)
/-- HOST_LINK_TRAINING (R422): down, CXL 3.1 where PCIEONLY lets it be offered and the host accepts, PCIe 6.0 otherwise. The board controller
writes PCIEONLY beside MODE, and it acts at the next training (R420). -/
def execHostLinkTraining (pkg : Nat) (up : HostLink) (accepts : Bool) (s : State) : Outcome State Fault Refusal :=
  .next (s.modPkg pkg (fun p =>
    let only := p.hostcfg % 2
    { p with hostcfg := match up with
        | .pcieonly set => (if set then 1 else 0) + 2 * (p.hostcfg / 2 % 4)
        | .lost => only
        | .trained => only + 2 * (if accepts && only = 0 then 2 else 1) }))
/-- HOST_ACCESS (R287, R422) of device memory at the system point, up to 8 bytes: a write registers there, and every other copy becomes
stale. What a read returns leaves the device. -/
def execHostAccess (pkg addr size : Nat) (write : Option Dword) (s : State) : Outcome State Fault Refusal :=
  .next (match write with
    | none => s
    | some v =>
      let n := min size 8
      if bits (s.pkgAt pkg).hostcfg 2 1 = 0 || decide (2 ^ 52 < addr + n) || inBlock addr then s
      else
        s.writePhys (physKey 1 pkg addr) (toBytes n v.toNat))

/-- What other packages still expect of a package that is reset is answered with PEER_DOWN (R402). -/
def State.peersDown (s : State) (pkg : Nat) : State :=
  let s := (s.msgs.filter (fun m => m.src ≠ pkg && m.dst = pkg)).foldl (fun t m => (t.failMsg m Cause.peerDown).dropMsg m.id) s
  let s := (s.msgs.filter (fun m => m.src = pkg && m.dst ≠ pkg && m.op.response)).foldl (fun t m => t.failOf m.op.req Cause.peerDown) s
  let s := (s.reqs.filter (fun q => corePkg q.core ≠ pkg && (s.pkgAt pkg).clasps.any (fun c => c.req = q.id))).foldl (fun t q =>
    t.failReq q Cause.peerDown) s
  (s.regs.filter (fun r => corePkg r.entry.core ≠ pkg && r.parked.isSome && homePkg r.entry.ia = pkg)).foldl (fun t r =>
    t.failReg r Cause.peerDown) s
/-- Everything that a package has at work and in its cores goes (R35, R425). -/
def State.clearPkg (s : State) (pkg : Nat) : State :=
  let mine := fun (core : Nat) => decide (corePkg core = pkg)
  { s with
    teams := s.teams.filter (fun t => t.pkg ≠ pkg)
    wq := s.wq.filter (fun e => !mine e.core)
    regs := s.regs.filter (fun r => !mine r.entry.core)
    reqs := s.reqs.filter (fun q => !mine q.core)
    cmds := s.cmds.filter (fun c => !mine c.core)
    msgs := s.msgs.filter (fun m => m.src ≠ pkg && m.dst ≠ pkg)
    eseqs := s.eseqs.filter (fun e => e.1 / 256 ≠ pkg && e.1 % 256 ≠ pkg)
    stitch := s.stitch.filter (fun m => m.spkg ≠ pkg)
    memPhs := s.memPhs.filter (fun m => m.sp / 96 ≠ pkg)
    deliveries := s.deliveries.filter (fun d => d.pkg ≠ pkg)
    tails := s.tails.filter (fun x => (s.team? x.tid).all (fun t => t.pkg ≠ pkg))
    agentParks := s.agentParks.filter (fun a => a.1 / 96 ≠ pkg)
    launches := s.launches.filter (fun x => x.part / 96 ≠ pkg)
    packets := s.packets.filter (fun x => x.pkg ≠ pkg)
    hbm := s.hbm.filter (fun r => r.pkg ≠ pkg)
    cores := s.cores.filter (fun kc => kc.1 / Config.coresPerPkg ≠ pkg) }
/-- Device memory of a package zeroed (R425), but, on a warm reset, the dump area; its poison goes with it. -/
def State.zeroMemory (s : State) (pkg : Nat) (keep : Option Nat) : State :=
  let lo := physKey 1 pkg 0
  let gone := fun (k : Nat) => decide (lo ≤ k) && decide (k < lo + 2 ^ 52) &&
    !(keep.any (fun b => decide (lo + b ≤ k) && decide (k < lo + b + 2 ^ 36)))
  { s with mem := s.mem.filter (fun c => !gone c.1), memCache := [], poison := s.poison.filter (fun k => !gone (4 * k)) }
/-- The registers of a package after a reset (R420, R425, R426): `cause` is what $RSTCAUSE then reads. A package whose bring-up failed
stays in reset. -/
def Pkg.afterReset (p : Pkg) (now cause : Nat) (cold stays : Bool) : Pkg :=
  let q : Pkg := { podsz := p.podsz, fepoch := (p.fepoch + 1) % 256, rstcause := cause, down := stays, winStart := now }
  let q := { q with ports := p.ports.map (fun (x : Port) => { ({ } : Port) with state := 1, switch := x.switch, badLanes := if cold then [] else x.badLanes }) }
  if cold then { q with clkBase := now, boots := p.boots + 1 }
  else { q with
    clkBase := p.clkBase, boots := p.boots, colophon := p.colophon, colseq := p.colseq, frozen := p.frozen, colDropped := p.colDropped
    dumpbase := p.dumpbase, dumpstat := if p.dumpstat = 3 then 2 else p.dumpstat, hostcfg := p.hostcfg % 2, resetDue := p.resetDue }
/-- The registers of a partition after a warm reset (R426). -/
def Part.afterWarm (x : Part) (p : Nat) : Part :=
  { Part.fresh p with meters := x.meters, snapseq := x.snapseq, pclk := x.pclk, digest := x.digest }
/-- The reset record (R419), which waits for FROZEN where that is set (R421). -/
def Pkg.resetRecord (p : Pkg) (now cause : Nat) : Pkg :=
  let r : ColRec := ⟨p.colseq, 0, 0x7F, 0x1FF, now - p.clkBase, 0, BitVec.ofNat 32 cause, p.fepoch⟩
  if p.frozen then { p with resetDue := some r }
  else { p with colophon := (r :: p.colophon).take 2048, colseq := (p.colseq + 1) % 2 ^ 32 }
/-- A reset of a package (R425, R426), and the step at which its bring-up fails. -/
def State.resetPkg (s : State) (pkg cause : Nat) (fault : BootFault) : State :=
  let cold := cause = 1
  let p := s.pkgAt pkg
  let s := ((s.peersDown pkg).clearPkg pkg).zeroMemory pkg (if cold || p.dumpbase = 0 then none else some (p.dumpbase.toNat % 2 ^ 52))
  let s := { s with
    pkgs := insertAt pkg (p.afterReset s.now cause cold (fault ≠ BootFault.none)) s.pkgs
    parts := if cold then s.parts.filter (fun (kx : Nat × Part) => kx.1 / 96 ≠ pkg)
      else s.parts.map (fun (kx : Nat × Part) => if kx.1 / 96 = pkg then (kx.1, kx.2.afterWarm kx.1) else kx) }
  match fault with
  | .none => s.modPkg pkg (·.resetRecord s.now cause)
  | .firmware => s.monitorEvent pkg { cause := Cause.mcFirmware }
  | .hbm stack => s.monitorEvent pkg { cause := Cause.mcHbm, value := BitVec.ofNat 64 stack }
/-- COLD_RESET (R425). -/
def execColdReset (pkg : Nat) (fault : BootFault) (s : State) : Outcome State Fault Refusal := .next (s.resetPkg pkg 1 fault)
/-- WARM_RESET (R425, R426), by the host (2) or the watchdog (3); it skips the measurement of the firmware. -/
def execWarmReset (pkg cause : Nat) (fault : BootFault) (s : State) : Outcome State Fault Refusal :=
  .next (s.resetPkg pkg (if cause = 3 then 3 else 2) (match fault with | .firmware => .none | f => f))
/-- WATCHDOG_EXPIRY (R420, R425): MC_WATCHDOG, then a warm reset. -/
def execWatchdogExpiry (pkg : Nat) (s : State) : Outcome State Fault Refusal :=
  .next ((s.monitorEvent pkg { cause := Cause.mcWatchdog }).resetPkg pkg 3 .none)

end Sys2Proof.Machine
end

