-- ==== Sys2Proof/Machine/Issue.lean ====
section
/-! DEFINITION. Issue: which fibres are ready (R39), the signature a core's ports choose (R40, R41), the faults met before an
instruction's own (R107, R108, R117, R126), formed pairs (R109, R110), and the issue itself. -/

namespace Sys2Proof.Machine

open Host (Outcome)

/-- The slot that a fibre's PC names, of its line (R102). -/
def rawSlot (line : List Byte) (pc : Dword) : BitVec 96 := BitVec.ofNat 96 (slotBits line (slotOf pc))
/-- True for an instruction that reads or writes $FFLAGS, special register 8 (R172). -/
def namesFlags : Instr → Bool
  | .rds _ m => m.sreg = 8
  | .mts _ m => m.sreg = 8
  | .mfs _ m => m.sreg = 8
  | _ => false
/-- The interlock (R116, R172): a register to be read, or $FFLAGS, waits for a result of the fibre. -/
def Team.interlocked (t : Team) (f : Fibre) (now : Nat) (i : Instr) : Bool :=
  (readsOf i).any (fun r => f.pend.any (fun p => p.reg = r && p.due = none)) ||
  (namesFlags i && t.flagPend.any (fun p => p.fid = f.fid && (match p.due with | some d => decide (now < d) | none => true)))
/-- The interlock of a slot. -/
def Team.slotInterlocked (t : Team) (f : Fibre) (now : Nat) (w : BitVec 96) : Bool :=
  match decode w with
  | .ok i => t.interlocked f now i
  | .error _ => false
/-- True when folding stops a fibre at a fold point (R350). -/
def State.foldsAt (s : State) (t : Team) (f : Fibre) (fold : Bool) : Bool :=
  fold && (s.partAt t.partKey).phase = .folding && f.level ≠ .monitor && t.res = .resident
/-- The line of a ready fibre (R39): none while it is not ready. -/
def State.readyLine (s : State) (t : Team) (f : Fibre) : Option (List Byte) :=
  if f.halted || !t.lets f || !f.awake || decide (s.now < f.readyAt) || addrHighBad f.pc || !pcSlotOk f.pc ||
      (f.gathered && !t.bandAt (bandOf f.fid) f.pc) then none
  else match s.issueLine t f.level f.pc with
    | none => none
    | some line =>
      if s.foldsAt t f (lineFold line (slotOf f.pc)) || t.slotInterlocked f s.now (rawSlot line f.pc) then none else some line

/-- A ready fibre and its line. -/
structure ReadyFibre where
  f : Fibre
  line : List Byte
/-- The ready fibres of a team. -/
def State.readyFibres (s : State) (t : Team) : List ReadyFibre :=
  t.fibres.filterMap (fun f => (s.readyLine t f).map (fun line => ⟨f, line⟩))
/-- True when two ready fibres of a team may share a signature (R40): equal PC, window size and line. -/
def ReadyFibre.joins (a b : ReadyFibre) : Bool :=
  a.f.pc = b.f.pc && a.f.regs.length = b.f.regs.length && a.line = b.line
/-- The signature around a ready fibre: of each lane the lowest $FID (R40). -/
def signature (rs : List ReadyFibre) (a : ReadyFibre) : List ReadyFibre :=
  let g := rs.filter (fun b => a.joins b)
  g.filter (fun b => !g.any (fun c => c.f.fid % 32 = b.f.fid % 32 && decide (c.f.fid < b.f.fid)))
/-- A candidate signature with the key of R41: a smaller key goes first. -/
structure Candidate where
  key : List Nat
  tid : Nat
  fids : List Nat
/-- The key of a signature (R41): whether it holds a fibre ready for 1,024 clk and since when; the priority class; its size; the team
slot; the PC; last the window, which the manual leaves out (log 1). -/
def signatureKey (now : Nat) (t : Team) (a : ReadyFibre) (g : List ReadyFibre) : List Nat :=
  let since := g.foldl (fun m b => min m b.f.readySince) now
  let old := decide (since + 1024 ≤ now)
  [if old then 0 else 1, if old then since else 0, 3 - t.prio, 1024 - g.length, t.slot, a.f.pc.toNat, a.f.regs.length]
/-- The order of keys. -/
def keyLess : List Nat → List Nat → Bool
  | [], _ => false
  | _ :: _, [] => false
  | a :: x, b :: y => if a = b then keyLess x y else decide (a < b)
/-- The candidates of a team. -/
def State.candidates (s : State) (t : Team) : List Candidate :=
  let rs := s.readyFibres t
  rs.map (fun a => let g := signature rs a; ⟨signatureKey s.now t a g, t.tid, orderByLane (g.map (fun b => b.f.fid))⟩)
/-- The candidate that goes first. -/
def firstOf : List Candidate → Option Candidate
  | [] => none
  | c :: r => match firstOf r with
    | none => some c
    | some d => if keyLess d.key c.key then some d else some c
/-- True while a core issues at all: neither it nor its package is stopped (R343, R421). -/
def State.coreRuns (s : State) (c : Nat) : Bool := !(s.coreAt c).halted && !(s.pkgAt (c / Config.coresPerPkg)).down
/-- The signature that a port of a core chooses (R41). -/
def State.pick (s : State) (c : Nat) : Option Candidate :=
  if s.coreRuns c then firstOf ((s.teams.filter (fun t => t.coreKey = c)).flatMap (fun t => s.candidates t)) else none
/-- Issue ports of a core used in this clk (R39). -/
def State.portsTaken (s : State) (c : Nat) : Nat :=
  let k := s.coreAt c
  if k.portsAt = s.now then k.portsUsed else 0
/-- True when a move to issue a signature is what a port of its core does next. -/
def State.mayIssue (s : State) (tid : Nat) (fids : List Nat) : Bool :=
  match s.team? tid with
  | none => false
  | some t => decide (s.portsTaken t.coreKey < Config.issuePorts) &&
      (match s.pick t.coreKey with | some c => c.tid = tid && c.fids = orderByLane fids | none => false)

/-- STALL_SHORT of an instruction (R117): the field, in the order SC, SB, SA, DST, or the guard, that reads at a distance below the
latency. DESIGN CHOICE (log 55): the predicate that PRED names (R143, R146, R150, R151) is no operand field and has no code in $TVAL, so it is not
checked. -/
def stallShort (now : Nat) (f : Fibre) (i : Instr) : Option Nat :=
  let short := fun (rs : List RegName) => rs.any (fun r => (f.early now r).isSome)
  match headOf i with
  | none => none
  | some h =>
    let u := uses i
    if short (fieldReads u.sc h.sc) then some (fieldVal 3 h.sc)
    else if short (fieldReads u.sb h.sb) then some (fieldVal 2 h.sb)
    else if short (fieldReads u.sa h.sa) then some (fieldVal 1 h.sa)
    else if short (fieldReads u.dst h.dst) then some (fieldVal 0 h.dst)
    else if short [.pred h.gp.toNat] then some (0x1000 + h.gp.toNat)
    else none
/-- A LIVE that is not zero in a slot that is no fold point (R108). -/
def strayLive (w : BitVec 96) (fold : Bool) : Bool := opcodeOf w = opcNop && !fold && (w.extractLsb' 0 9).toNat != 0
/-- The faults of a slot in a fibre, items 5 to 8 of R126; ILLEGAL_OP is the meaning of the unassigned opcode. -/
def slotFault (now : Nat) (schk : Bool) (f : Fibre) (w : BitVec 96) (fold : Bool) : Option (Cause.Code × Dword) :=
  if strayLive w fold then some (Cause.illegalMod, 0)
  else match decode w with
    | .error (.illegalMod b) => some (Cause.illegalMod, BitVec.ofNat 64 b)
    | .error .tooShort => none
    | .ok i =>
      match operandFault f.regs.length i with
      | some v => some (Cause.badOperand, BitVec.ofNat 64 v)
      | none =>
        if schk then (stallShort now f i).map (fun v => (Cause.stallShort, BitVec.ofNat 64 v)) else none
/-- The faults met before an instruction's own, items 2 to 8 of R126: the line's, BR_TARGET of a first fetch (R107), the slot's. -/
def issueFault (now : Nat) (schk : Bool) (f : Fibre) (line : List Byte) : Option (Cause.Code × Dword) :=
  match lineFault line (lineOf f.pc) with
  | some c => some c
  | none =>
    if f.fresh && !lineTgt line (slotOf f.pc) then some (Cause.brTarget, f.pc)
    else slotFault now schk f (rawSlot line f.pc) (lineFold line (slotOf f.pc))

/-- Unit classes (R109): the group of the opcode, the memory and atomic groups being one class. -/
def unitClass (w : BitVec 96) : Nat :=
  match opcodeOf w / 128 with
  | 0 => 0 | 1 => 1 | 2 => 2 | 3 => 3 | 4 => 3 | 5 => 4 | 6 => 5 | _ => 6
/-- BRA, BRX, CALL, CALLX and RET (R107). -/
def isTransfer (w : BitVec 96) : Bool := decide (0x300 ≤ opcodeOf w) && decide (opcodeOf w ≤ 0x304)
/-- Slots i and i + 1 of a line form a pair (R109). -/
def formsPair (line : List Byte) : Nat → Bool
  | 0 => pairOk 0
  | i + 1 => !formsPair line i && pairOk (i + 1)
where
  pairOk (i : Nat) : Bool :=
    let a := BitVec.ofNat 96 (slotBits line i)
    let b := BitVec.ofNat 96 (slotBits line (i + 1))
    decide (i < 4) && linePair line i && (a.extractLsb' 82 4).toNat == 0 && unitClass a != unitClass b && unitClass a != 6 && unitClass b != 6 &&
      !isTransfer a

/-- A port taken on a core in this clk. -/
def State.takePort (s : State) (c : Nat) : State :=
  let n := s.portsTaken c
  s.modCore c (fun k => { k with portsUsed := n + 1, portsAt := s.now })
/-- The state as an instruction of a signature issues: fresh numbers, a port taken, flags that are complete by now in $FFLAGS, and the
fibres' next issue at the earliest one clk later (R39). -/
def State.prepare (s : State) (tid : Nat) (fids : List Nat) : State :=
  let s := { s with seq := s.seq + 1, freeCtr := s.freeCtr + 1 }
  (s.takePort (s.team tid).coreKey).modTeam tid (fun t =>
    let t := t.settleFlags s.now
    { t with fibres := t.fibres.map (fun f =>
        if fids.contains f.fid then { f with readyAt := s.now + 1, readySince := s.now + 1 } else f) })
/-- Instructions issued, and lanes of the vector units whose guard is true (R392). -/
def State.meterIssue (s : State) (h : Head) (w : BitVec 96) (tid : Nat) (fids : List Nat) : State :=
  let p := (s.team tid).partKey
  let lanes := (fids.filter (fun i => s.guard h ⟨tid, i⟩)).length
  let s := s.meter p 12 1
  if unitClass w = 0 then s.meter p 5 lanes else if unitClass w = 1 || unitClass w = 2 then s.meter p 4 lanes else s
/-- An instruction run for the fibres that have no fault before it; the others take their traps (R126). -/
def State.issueSlot (run : Instr → State → Outcome State Fault Refusal) (s : State) (tid : Nat) (fids : List Nat) (w : BitVec 96)
    (fault : Fibre → Option (Cause.Code × Dword)) : Outcome State Fault Refusal :=
  let h := readHead w
  let t := s.team tid
  let good := fids.filter (fun i => (fault (t.fibre i)).isNone)
  let s := s.prepare tid fids
  let s := fids.foldl (fun s i =>
    match fault (t.fibre i) with
    | some c => s.finish ⟨tid, i⟩ h (.trap c.1 c.2)
    | none => s) s
  let s := { s.meterIssue h w tid good with sig := { tid := tid, fids := good } }
  match decode w with
  | .error _ => .next s
  | .ok i => if good.isEmpty then .next s else run i s
/-- What issues in the same clk after the first slot of a formed pair (R109). -/
def secondOf (s : State) (c : Nat) (line : List Byte) (pc : Dword) : Option (BitVec 96 × Bool × Dword) :=
  let k := slotOf pc
  if (lineFault line (lineOf pc)).isNone && formsPair line k && decide (s.portsTaken c + 1 < Config.issuePorts) then
    some (rawSlot line (nextPc pc), lineFold line (k + 1), nextPc pc)
  else none
/-- A signature issues (R39): the first fibre's PC and line are those of all. -/
def State.issue (run : Instr → State → Outcome State Fault Refusal) (s : State) (tid : Nat) (fids : List Nat) :
    Outcome State Fault Refusal :=
  let t := s.team tid
  let f := t.fibre (fids.headD 0)
  match s.issueLine t f.level f.pc with
  | none => .next s
  | some line =>
    match (s.useLine t f.level f.pc line).issueSlot run tid fids (rawSlot line f.pc) (fun g => issueFault s.now (t.dbgctl.getLsbD 0) g line) with
    | .next u => .next { u with sig := { u.sig with second := secondOf s t.coreKey line f.pc } }
    | r => r
/-- The fibres of the signature that go on with the second slot of a formed pair (R109, R110). -/
def State.pairFibres (s : State) (w : BitVec 96) (fold : Bool) (pc : Dword) : List Nat :=
  let t := s.team s.sig.tid
  s.sig.fids.filter (fun i =>
    match t.fibre? i with
    | none => false
    | some f => f.pc = pc && t.lets f && !f.halted && f.wait.isNone && f.hold.isNone && !f.stepDue && !f.gathered && !s.foldsAt t f fold &&
        !t.slotInterlocked f s.now w)
/-- The second slot of a formed pair issues, in the same clk, on a second port (R109). -/
def State.issueSecond (run : Instr → State → Outcome State Fault Refusal) (s : State) (w : BitVec 96) (fold : Bool) (pc : Dword) :
    Outcome State Fault Refusal :=
  let tid := s.sig.tid
  let fids := s.pairFibres w fold pc
  let t := s.team tid
  let u := { s with sig := { } }
  if fids.isEmpty then .next (u.takePort t.coreKey)
  else u.issueSlot run tid fids w (fun f => slotFault s.now (t.dbgctl.getLsbD 0) f w fold)

/-- An opcode outside the map (R124): ILLEGAL_OP with the opcode, in every fibre of the signature. -/
def execUnassignedOpcode (w : BitVec 96) (s : State) : Outcome State Fault Refusal :=
  .next (s.sigLanes.foldl (fun t l => t.finish l (readHead w) (.trap Cause.illegalOp (BitVec.ofNat 64 (opcodeOf w)))) s)

end Sys2Proof.Machine
end

