-- ==== Sys2Proof/Machine/EngineRun.lean ====
section
/-! DEFINITION. The engines at work: the scoreboard (R231), neighbour fetches (R242), the matrix product (R95 to R97, R241),
accumulator reads (R244), copies (R247) and gathers (R249) element by element, code tables (R100), completion (R230, R101),
aborts (R232) and the return of operand-buffer ranges (R237). -/

namespace Sys2Proof.Machine

open Host (Outcome)

/-- One resource range of a command: 0 leaf bytes, 1 + n reservation n, 100 tiles, 200 global bytes; and whether it is written. -/
structure Touch where
  space : Nat
  lo : Nat
  len : Nat
  write : Bool
  deriving DecidableEq, Repr
/-- The global bytes that a copy can touch, as one range (R231). -/
def Copy.reach (c : Copy) : Nat × Nat :=
  let span := c.dims.foldl (fun a d => a + (d.1 - 1) * d.2.2.2) 0
  (c.gbase, span + c.esz)
/-- The read and write sets of a command (R231). -/
def Cmd.touches (c : Cmd) : List Touch :=
  match c.kind with
  | .mma =>
    let p := readMma c.block
    (match c.resA with | some r => [⟨1 + r.num, 0, r.used p.m p.kept p.k, decide (4 ≤ p.loca)⟩] | none => []) ++
    (match c.resB with | some r => [⟨1 + r.num, 0, r.used p.n 16 p.k, decide (4 ≤ p.locb)⟩] | none => []) ++ [⟨100, c.tile, c.tiles, true⟩]
  | .accz => [⟨100, c.tile, c.tiles, true⟩]
  | .accrd => [⟨100, c.tile, c.tiles, false⟩, ⟨0, c.off, 1024 * c.tiles * accrdSize c.arg8, true⟩]
  | .ctab => []
  | .tcopy =>
    let x := readCopy c.block
    let n := x.esz * x.count
    let leaf : List Touch := if x.dir = 2 then [] else [⟨0, x.loff, n, x.dir = 0⟩]
    let res : List Touch := if x.dir < 2 then [] else [⟨1 + x.res, x.roff, n, true⟩]
    let glob : List Touch := if x.dir = 3 then [] else [⟨200, x.reach.1, x.reach.2, x.dir = 1⟩]
    leaf ++ res ++ glob
  | .tgath =>
    let g := readGather c.block
    [⟨0, g.ptroff, 4 * (g.nrow + 1), true⟩, ⟨0, g.coloff, 4 * g.cap, true⟩, ⟨0, g.valoff, g.vsz * g.cap, true⟩, ⟨200, 0, 2 ^ 64, false⟩]
/-- Two commands meet under R231. -/
def Cmd.meets (c d : Cmd) : Bool :=
  c.touches.any (fun x => d.touches.any (fun y => x.space = y.space && overlaps x.lo x.len y.lo y.len && (x.write || y.write)))
/-- Every write of a command has been registered and acknowledged (R230). -/
def State.cmdAcked (s : State) (c : Cmd) : Bool :=
  !s.wq.any (fun e => e.cmd = some c.id) && !s.regs.any (fun r => r.entry.cmd = some c.id)
/-- The scoreboard lets a command take its accesses (R231): every earlier command of its team that it meets has made its own, its global
writes being acknowledged. -/
def State.cmdFree (s : State) (c : Cmd) : Bool :=
  !s.cmds.any (fun d => d.tid = c.tid && decide (d.id < c.id) && (!d.moved || !s.cmdAcked d) && d.meets c)
/-- The code tables that a command names through its reservations (R99). -/
def Cmd.tables (c : Cmd) : List Nat :=
  (c.resA.toList ++ c.resB.toList).filterMap (fun r => if r.efmt = 0x0A then some r.ct else none)
/-- Every CTAB of the core that stands before a command and writes a table it names has been written (R100). -/
def State.tablesReady (s : State) (c : Cmd) : Bool :=
  !s.cmds.any (fun d => d.kind = .ctab && d.core = c.core && decide (d.id < c.id) && c.tables.contains d.arg8)
/-- The command of a number. -/
def State.cmd? (s : State) (id : Nat) : Option Cmd := s.cmds.find? (fun c => c.id = id)
/-- One command changed. -/
def State.modCmd (s : State) (id : Nat) (g : Cmd → Cmd) : State :=
  { s with cmds := s.cmds.map (fun c => if c.id = id then g c else c) }
/-- Fibres that wait for leaves now thread-owned, or for a neighbour now resident, are ready again (R26, R64). -/
def State.wakeLeaves (s : State) : State :=
  s.teams.foldl (fun t tm => tm.fibres.foldl (fun t f =>
    match f.wait with
    | some ⟨.leaf lo hi, false, _⟩ => if (t.team tm.tid).engineOwned (lo, hi) then t else t.meet ⟨tm.tid, f.fid⟩
    | some ⟨.ldn k, false, _⟩ => if (t.team k).inJacket then t else t.meet ⟨tm.tid, f.fid⟩
    | _ => t) t) s
/-- A command leaves its core's order: its leaves return to thread, its flags go to the team (R26, R101). -/
def State.endCmd (s : State) (c : Cmd) : State :=
  (({ s with cmds := s.cmds.filter (fun d => d.id ≠ c.id) }).modTeam c.tid (fun t =>
    { t with claims := t.claims.filter (fun x => x.1 ≠ c.id), fflags := t.fflags ||| c.flags })).wakeLeaves

/-- Bytes of a reservation (R28). -/
def Core.obRead (c : Core) (r : Resv) (off n : Nat) : List Byte := Memory.read c.ob (1024 * r.base + off) n
/-- Bytes written into a reservation. -/
def State.obWrite (s : State) (core : Nat) (r : Resv) (off : Nat) (bs : List Byte) : State :=
  s.modCore core (fun c => { c with ob := Memory.write c.ob (1024 * r.base + off) bs })
/-- Element i of a unit's run (R83, R236). -/
def Core.element (c : Core) (r : Resv) (unit i : Nat) : Nat :=
  let pos := i * r.elemBits
  ofBytes (c.obRead r (r.estr * unit + pos / 8) 4) / 2 ^ (pos % 8) % 2 ^ r.elemBits
/-- The value of element i of a unit (R82). -/
def Core.elementVal (c : Core) (r : Resv) (unit i : Nat) : FVal :=
  elemValue (elemD r.efmt) (c.table r.ct) false (c.element r unit i)
/-- The scale exponent of a unit's block: none for NaN (R91, R236). -/
def Core.blockScale (c : Core) (r : Resv) (unit j : Nat) : Option Int :=
  if r.scaled then scaleExp (ofBytes (c.obRead r (r.soff + r.sstr * unit + (if r.blkl then j / 2 else j)) 1)) else some 0
/-- T of one block (R95, R97): its FP32 code and flags. -/
def blockTerm (as bs : List FVal) (ea eb : Option Int) : Nat × FFlags :=
  let nan := ((fmtF32.nanCode false).getD 0, flInvalid)
  match ea, eb with
  | some x, some y =>
    if (as ++ bs).any (·.isNan) then nan
    else
      let ps := (as.zip bs).map (fun p => (p.1.mul p.2).1)
      let r := sumAll .rne ps
      if r.1.isNan then nan
      else match r.1 with
        | .fin _ 0 _ => (0, 0)
        | v => fmtF32.round .rne false false 0 (v.scale (x + y))
  | _, _ => nan
/-- acc + T (R95, R97): a signalling NaN in the accumulator sets invalid (R75). -/
def accumulate (acc t : Nat) : Nat × FFlags :=
  if (fmtF32.decode acc).isNan then ((fmtF32.nanCode false).getD 0, if (fmtF32.decode acc).isSnan then flInvalid else 0)
  else
    let r := (fmtF32.decode acc).add .rne (fmtF32.decode t)
    match r.1 with
    | .fin _ 0 _ => (0, r.2)
    | v => let c := fmtF32.round .rne false false 0 v; (c.1, r.2 ||| c.2)
/-- One floating-point output of an MMA (R95): its blocks in ascending order. -/
def mmaFloat (c : Core) (p : MmaParams) (ra rb : Resv) (m n : Nat) (acc : Nat) : Nat × FFlags :=
  (List.range (p.k / 16)).foldl (fun (st : Nat × FFlags) j =>
    let pos := if p.kept = 16 then List.range 16 else keptPositions p.seed (p.rowbase + m) (p.kbase + j) p.kept
    let as := (List.range p.kept).map (fun i => c.elementVal ra m (p.kept * j + i))
    let bs := pos.map (fun i => c.elementVal rb n (16 * j + i))
    let t := blockTerm as bs (c.blockScale ra m j) (c.blockScale rb n j)
    let r := accumulate st.1 t.1
    (r.1, st.2 ||| t.2 ||| r.2)) (acc, 0)
/-- One integer output of an MMA (R96). -/
def mmaInt (c : Core) (p : MmaParams) (ra rb : Resv) (m n : Nat) (acc : Nat) : Nat :=
  (List.range (p.k / 16)).foldl (fun (st : Nat) j =>
    let pos := if p.kept = 16 then List.range 16 else keptPositions p.seed (p.rowbase + m) (p.kbase + j) p.kept
    let sum := (pos.zipIdx).foldl (fun (x : Int) q =>
      x + toSigned ra.elemBits (c.element ra m (p.kept * j + q.2)) * toSigned rb.elemBits (c.element rb n (16 * j + q.1))) 0
    wrap 32 (st + sum)) acc
/-- True when an MMA accumulates integers (R96). -/
def mmaIsInt (ra rb : Resv) : Bool := (ra.efmt = 8 || ra.efmt = 9) && (rb.efmt = 8 || rb.efmt = 9) && !ra.scaled && !rb.scaled
/-- The key of an accumulator (R241). -/
def accKey (tile row col : Nat) : Nat := 1024 * tile + 32 * row + col
/-- An accumulator set: zero ones are not listed. -/
def Team.setAcc (t : Team) (key v : Nat) : Team :=
  { t with accs := if v = 0 then removeKey key t.accs else insertAt key (BitVec.ofNat 32 v) t.accs }
/-- The meter that a matrix command counts in: the class of the slower of its operands (R73, R392). -/
def mmaMeter (ra rb : Resv) : Nat :=
  if mmaIsInt ra rb then 2
  else match max ra.elemBits rb.elemBits with
    | 16 => 0
    | 8 => 1
    | _ => 3
/-- The multiply-adds of a matrix command: M x N x the products in each output, of which a sparse operand has its kept positions (R392). -/
def MmaParams.products (p : MmaParams) : Nat := p.m * p.n * (p.kept * (p.k / 16))
/-- All outputs of an MMA written into its tiles (R241), and its multiply-adds counted (R392). -/
def State.runMma (s : State) (c : Cmd) : State :=
  match c.resA, c.resB with
  | some ra, some rb =>
    let p := readMma c.block
    let core := s.coreAt c.core
    let outs := (List.range p.m).flatMap (fun m => (List.range p.n).map (fun n => (m, n)))
    let r := outs.foldl (fun (st : Team × FFlags) x =>
      let key := accKey (p.acc + x.1 / 32 * (p.n / 32) + x.2 / 32) (x.1 % 32) (x.2 % 32)
      let acc := if p.zero then 0 else (lookupD 0 key st.1.accs).toNat
      if mmaIsInt ra rb then (st.1.setAcc key (mmaInt core p ra rb x.1 x.2 acc), st.2)
      else let v := mmaFloat core p ra rb x.1 x.2 acc; (st.1.setAcc key v.1, st.2 ||| v.2)) (s.team c.tid, 0)
    ((s.modTeam c.tid (fun _ => r.1)).modCmd c.id (fun c => { c with flags := r.2 })).meter c.part (mmaMeter ra rb) p.products
  | _, _ => s
/-- ACCRD's elements (R244): bits copied, or each accumulator rounded in tile, row, column order. -/
def State.runAccrd (s : State) (c : Cmd) : State :=
  let t := s.team c.tid
  let codes := (List.range (1024 * c.tiles)).map (fun i => (lookupD 0 (1024 * c.tile + i) t.accs).toNat)
  if c.arg8 % 4 = 0 then s.modTeam c.tid (·.writeLeaf c.off (codes.flatMap (toBytes 4)))
  else
    let f := if c.arg8 % 4 = 1 then fmtF16 else fmtBF16
    let rc := bits c.arg8 4 2
    let mode := rmodeOf (if rc = 6 then c.rmode else BitVec.ofNat 3 rc)
    let r := s.convertAll c.core mode (fun x v => f.round mode (bitAt c.arg8 5) false x v) (codes.map (fmtF32.decode ·))
    (r.1.modTeam c.tid (·.writeLeaf c.off (r.2.1.flatMap (toBytes 2)))).modCmd c.id (fun c => { c with flags := r.2.2 })
/-- Bytes moved from leaves to a reservation (R247, DIR 3). -/
def State.runInner (s : State) (c : Cmd) : State :=
  let x := readCopy c.block
  match c.resA with
  | some r => s.obWrite c.core r x.roff ((s.team c.tid).readLeaf x.loff (x.esz * x.count))
  | none => s

/-- The next global access of a command: its address, size and kind, and where its bytes go (R247, R249). -/
structure Access where
  va : Nat
  size : Nat
  write : Bool
  skip : Bool := false
  deriving DecidableEq, Repr
/-- Entries that a gather copies (R249). -/
def gatherCount (g : Gather) (c : Cmd) : Nat := min ((c.pn + 2 ^ 32 - c.p0) % 2 ^ 32) g.cap
/-- The access at a position of a command, none once all have been made. -/
def Cmd.accessAt (c : Cmd) (pos : Nat) : Option Access :=
  match c.kind with
  | .tcopy =>
    let x := readCopy c.block
    if c.moved || x.dir = 3 || x.count ≤ pos then none
    else let e := x.element pos; some ⟨e.2 % 2 ^ 64, x.esz, x.dir = 1, x.dir = 1 && !e.1⟩
  | .tgath =>
    let g := readGather c.block
    if c.moved then none
    else if pos ≤ g.nrow then some { va := (g.rowptr + 4 * (g.rowst + pos)) % 2 ^ 64, size := 4, write := false }
    else
      let e := (pos - g.nrow - 1) / 2
      if gatherCount g c ≤ e then none
      else if (pos - g.nrow - 1) % 2 = 0 then some { va := (g.cols + 4 * (c.p0 + e)) % 2 ^ 64, size := 4, write := false }
      else some { va := (g.vals + g.vsz * (c.p0 + e)) % 2 ^ 64, size := g.vsz, write := false }
  | _ => none
/-- The access at a command's position. -/
def Cmd.access (c : Cmd) : Option Access := c.accessAt c.pos
/-- True where, after an element of a copy that ends at a byte offset of a reservation, a new unit of R216 begins: the reservation holds no
6-bit elements there, or a 12-byte block of a run ends, or the run does (R83, R236). -/
def Resv.blockEnds (r : Resv) (off : Nat) : Bool :=
  let inRun := if r.estr = 0 then off else off % r.estr
  r.elemBits ≠ 6 || (r.scaled && decide (r.soff < off)) || inRun % 12 = 0
/-- How many elements a copy moves as one unit from its position (R216). -/
def Cmd.unit (c : Cmd) : Nat :=
  let x := readCopy c.block
  match c.kind, c.resA with
  | .tcopy, some r =>
    if x.dir ≠ 2 || r.elemBits ≠ 6 then 1
    else 1 + ((List.range (x.count - c.pos)).find? (fun i => r.blockEnds (x.roff + x.esz * (c.pos + i + 1)))).getD (x.count - c.pos - 1)
  | _, _ => 1
/-- What a command's next access meets. -/
inductive Meet where
  | none
  | wait
  | parks (sp : Nat) (page : Nat) (absent : Bool)
  | fails (va : Nat)
  | goes
  deriving DecidableEq, Repr
/-- The address of an access of a command, by its space and its intermediate address, with the ranges that it captured (R355). -/
def State.cmdPlace (s : State) (c : Cmd) (a : Access) : Option (Nat × Nat) :=
  (rangeIn c.ranges c.level (if a.write then .write else .read) a.va).toOption.map (fun ia => (s.space c.part ia, ia))
/-- One access of a command checked (R232, R247, R249, R299). -/
def State.accessMeets (s : State) (c : Cmd) (a : Access) : Meet :=
  let k : Acc := if a.write then .write else .read
  if a.skip then .goes
  else if 2 ^ 56 ≤ a.va then .fails a.va
  else match s.cmdPlace c a with
    | none => .fails a.va
    | some (sp, ia) =>
      match s.pageCheck c.part c.level (some k) ia with
      | .fail _ => .fails a.va
      | .absent => .parks sp (pageOf ia) true
      | .held => .parks sp (pageOf ia) false
      | .place _ =>
        if !a.write && s.poisoned c.core sp ia a.size then .fails a.va
        else if s.wq.any (fun e => e.tid = c.tid && e.fid = c.fid && decide (e.order < c.id) && e.sp = sp && overlaps e.ia e.bytes.length ia a.size) ||
            s.barred (corePkg c.core) sp ia then .wait
        else if homePkg ia = corePkg c.core && s.replayDue sp ia c.id then .parks sp (pageOf ia) false
        else .goes
/-- The accesses that a command makes next, as one unit (R216). -/
def Cmd.accesses (c : Cmd) : List Access := (List.range c.unit).filterMap (fun i => c.accessAt (c.pos + i))
/-- What a command's next unit meets: the lowest address that fails, else what holds one of its accesses back. -/
def State.cmdMeets (s : State) (c : Cmd) : Meet :=
  let relDone := match c.rel with | some r => !(s.relsOf c.tid c.fid).any (fun x => x.seq = r) | none => true
  let ms := c.accesses.map (s.accessMeets c)
  let low := ms.foldl (fun (m : Option Nat) x => match x, m with
    | .fails a, some b => some (min a b)
    | .fails a, none => some a
    | _, m => m) none
  if c.accesses.isEmpty then .none
  else if !s.cmdFree c || !relDone then .wait
  else match c.failed, low with
    | some va, _ => .fails va
    | none, some va => .fails va
    | none, none => if c.parked.isSome then .wait else (ms.find? (· ≠ .goes)).getD .goes
/-- Bytes that a command has read put where they go (R247, R249). -/
def State.landCmd (s : State) (c : Cmd) (bs : List Byte) : State :=
  match c.kind with
  | .tcopy =>
    let x := readCopy c.block
    let s := match c.resA with
      | some r => s.obWrite c.core r (x.roff + x.esz * c.pos) bs
      | none => s.modTeam c.tid (·.writeLeaf (x.loff + x.esz * c.pos) bs)
    s.modCmd c.id (fun c => { c with pos := c.pos + 1, moved := x.count ≤ c.pos + 1 })
  | .tgath =>
    let g := readGather c.block
    let v := ofBytes bs
    if c.pos ≤ g.nrow then
      let p0 := if c.pos = 0 then v else c.p0
      let s := s.modTeam c.tid (·.writeLeaf (g.ptroff + 4 * c.pos) (toBytes 4 ((v + 2 ^ 32 - p0) % 2 ^ 32)))
      s.modCmd c.id (fun c =>
        let c := { c with pos := c.pos + 1, p0 := p0, pn := v }
        { c with moved := decide (g.nrow < c.pos) && gatherCount g c = 0 })
    else
      let k := c.pos - g.nrow - 1
      let s := s.modTeam c.tid (·.writeLeaf (if k % 2 = 0 then g.coloff + 4 * (k / 2) else g.valoff + g.vsz * (k / 2)) bs)
      s.modCmd c.id (fun c => { c with pos := c.pos + 1, moved := decide (2 * gatherCount g c ≤ k + 1) })
  | _ => s
/-- A request of a command parked on a page (R363, R364), where its home agent has room. -/
def State.parkCmd (s : State) (c : Cmd) (sp page : Nat) (absent : Bool) : State :=
  if c.parked.isSome || s.parkFull (65536 * page) then s
  else
    let first := !s.parkedOn sp page
    let s := s.modCmd c.id (fun c => { c with parked := some (sp, page, s.now) })
    if first && absent then s.pageRequest sp (65536 * page) 1 (c.core % Config.coresPerPkg) else s
/-- The line of a read of a command asked of its home package. -/
def State.askCmd (s : State) (c : Cmd) (a : Access) (sp ia : Nat) : State :=
  if c.asked.any (fun r => (s.req? r).isSome) then s
  else
    let id := s.seq
    let q : Req := { id := 0, kind := .line, tid := c.tid, fid := 1024, core := c.core, part := c.part, order := s.seq,
                     level := c.level, va := BitVec.ofNat 64 a.va, sp := sp, ia := ia, size := a.size, pt := c.pt, sent := true }
    ((s.addReq q).send (corePkg c.core) (homePkg ia) (.get id)).modCmd c.id (fun c => { c with asked := some id })
/-- A write of a command put into its core's write queue (R299). -/
def State.storeCmd (s : State) (c : Cmd) (a : Access) (sp ia : Nat) : State :=
  let x := readCopy c.block
  let bs := (s.team c.tid).readLeaf (x.loff + x.esz * c.pos) x.esz
  s.enqueue { id := 0, core := c.core, tid := c.tid, fid := c.fid, cmd := some c.id, order := 0, part := c.part, sp := sp,
              ia := ia, bytes := bs, pt := c.pt, va := BitVec.ofNat 64 a.va, level := c.level, evict := c.evict }
/-- The acquire of a command, before its first read and once (R247, R249, R299). -/
def State.acquireCmd (s : State) (c : Cmd) : State :=
  if c.acq && !c.acquired then (s.acquire c.core c.pt).modCmd c.id (fun c => { c with acquired := true }) else s
/-- The reads of one unit, each an access of its own (R247): the bytes of each, or the first that another package must be asked for. -/
def State.takeUnit (s : State) (c : Cmd) : List Access → State × Except (Access × Nat × Nat) (List (List Byte))
  | [] => (s, .ok [])
  | a :: r =>
    match s.cmdPlace c a with
    | none => (s, .ok [])
    | some (sp, ia) =>
      match s.take c.core c.tid 1024 0 sp ia c.pt c.evict a.size with
      | (t, none) => (t, .error (a, sp, ia))
      | (t, some bs) => match (t.touchPage c.part ia).takeUnit c r with
        | (u, .ok l) => (u, .ok (bs :: l))
        | (u, .error e) => (u, .error e)
/-- One unit of a copy or gather moved (R216, R247, R249, R299): its writes go through the core's write queue. -/
def State.stepCmd (s : State) (c : Cmd) : State :=
  match s.cmdMeets c, c.accesses with
  | .parks sp page absent, _ => s.parkCmd c sp page absent
  | .goes, a :: r =>
    let s := s.acquireCmd c
    if a.write then
      let x := readCopy c.block
      let t := match (if a.skip then none else s.cmdPlace c a) with | some (sp, ia) => s.storeCmd c a sp ia | none => s
      t.modCmd c.id (fun c => { c with pos := c.pos + 1, moved := decide (x.count ≤ c.pos + 1) })
    else match s.takeUnit c (a :: r) with
      | (t, .error (b, sp, ia)) => t.askCmd c b sp ia
      | (t, .ok bss) => bss.foldl (fun u bs => match u.cmd? c.id with | some d => u.landCmd d bs | none => u) t
  | _, _ => s
/-- READ (R291): of a load, of bytes that fibres wait for, or of the next element of an engine command (R299). -/
def execRead (id : Nat) (s : State) : Outcome State Fault Refusal :=
  .next (match s.req? id with
    | some q => (match q.kind with
      | .load => s.readLoad q
      | .line => s.readLine q
      | _ => s)
    | none => (match s.cmd? id with
      | some c => s.stepCmd c
      | none => s))
/-- NEIGHBOUR_FETCH (R242): one step of the source core's scratchpad order; it waits for engine-owned leaves and for a
jacketed neighbour. -/
def execNeighbourFetch (id : Nat) (opB : Bool) (s : State) : Outcome State Fault Refusal :=
  .next (match s.cmd? id with
    | none => s
    | some c =>
      let p := readMma c.block
      let loc := if opB then p.locb else p.loca
      let noff := if opB then p.noffb else p.noffa
      let got := if opB then c.gotB else c.gotA
      match c.kind, (if opB then c.resB else c.resA), ((s.team c.tid).neighbour (loc - 4)).bind s.team? with
      | .mma, some r, some x =>
        let n := if opB then r.used p.n 16 p.k else r.used p.m p.kept p.k
        if loc < 4 || got || !s.cmdFree c || x.inJacket || x.engineOwned (leafSpan noff n) then s
        else (s.obWrite c.core r 0 (x.readLeaf noff n)).modCmd id (fun c =>
          if opB then { c with gotB := true } else { c with gotA := true })
      | _, _, _ => s)
/-- A matrix command's neighbour bytes have landed. -/
def Cmd.landed (c : Cmd) : Bool :=
  let p := readMma c.block
  (decide (p.loca < 4) || c.gotA) && (decide (p.locb < 4) || c.gotB)
/-- A copy or gather that needs no further access. -/
def Cmd.finished (c : Cmd) : Bool := c.moved || c.access.isNone
/-- ENGINE_COMMAND_COMPLETE (R230, R241, R243, R244, R247): the work of a matrix, accumulator or inner-copy command, and the end
of every command. -/
def execEngineCommandComplete (id : Nat) (s : State) : Outcome State Fault Refusal :=
  .next (match s.cmd? id with
    | none => s
    | some c =>
      let fin := fun (t : State) => match t.cmd? id with | some c => t.endCmd c | none => t
      if !s.cmdFree c then s
      else match c.kind with
        | .mma => if c.landed && s.tablesReady c then fin (s.runMma c) else s
        | .accz => fin (s.modTeam c.tid (fun t => { t with accs := t.accs.filter (fun a =>
            !(decide (1024 * c.tile ≤ a.1) && decide (a.1 < 1024 * (c.tile + c.tiles)))) }))
        | .accrd => fin (s.runAccrd c)
        | .ctab => s
        | .tcopy =>
          if (readCopy c.block).dir = 3 then fin (s.runInner c) else if c.finished && s.cmdAcked c then s.endCmd c else s
        | .tgath => if c.finished then s.endCmd c else s)
/-- The address or offset with which a command fails, if it does (R232, R242). -/
def State.cmdFault (s : State) (c : Cmd) : Option Nat :=
  match c.kind with
  | .mma =>
    let p := readMma c.block
    let gone := fun (loc : Nat) (got : Bool) => decide (4 ≤ loc) && !got && (((s.team c.tid).neighbour (loc - 4)).bind s.team?).isNone
    if gone p.loca c.gotA then some p.noffa else if gone p.locb c.gotB then some p.noffb else none
  | _ => match s.cmdMeets c with
    | .fails va => some va
    | _ => none
/-- ENGINE_ABORT (R232): the fault is recorded against the issuing fibre, and the command ends. -/
def execEngineAbort (id : Nat) (s : State) : Outcome State Fault Refusal :=
  .next (match s.cmd? id with
    | none => s
    | some c =>
      match s.cmdFault c with
      | some v => (s.endCmd c).recordEngineFault c.tid c.fid c.part (BitVec.ofNat 64 v)
      | none => s)
/-- CTAB_TABLE_WRITE (R30, R100): once every earlier command that names the table is complete, and every earlier CTAB of it. -/
def execCtabTableWrite (id : Nat) (s : State) : Outcome State Fault Refusal :=
  .next (match s.cmd? id with
    | none => s
    | some c =>
      if c.kind ≠ .ctab || s.cmds.any (fun d => d.core = c.core && decide (d.id < c.id) &&
          (d.tables.contains c.arg8 || (d.kind = .ctab && d.arg8 = c.arg8))) then s
      else ({ s with cmds := s.cmds.filter (fun d => d.id ≠ id) }).modCore c.core (fun k => { k with
        tables := k.tables.set c.arg8 ((List.range 16).map (fun i => BitVec.ofNat 16 (ofBytes ((c.block.drop (2 * i)).take 2))))
        tableVer := k.tableVer.set c.arg8 ((k.tableVer.getD c.arg8 0 + 1) % 65536) }))
/-- OB_RANGE_RETURN (R237): the range and the number return once every earlier command that names the reservation is complete. -/
def execObRangeReturn (pkg core num : Nat) (s : State) : Outcome State Fault Refusal :=
  let ck := Config.coresPerPkg * pkg + core
  .next (match (s.coreAt ck).resvs.find? (fun r => r.num = num) with
    | some ⟨_, _, _, _, _, _, _, _, _, _, _, some g⟩ =>
      if s.cmds.any (fun c => c.core = ck && decide (c.id < g) && (c.resA.toList ++ c.resB.toList).any (fun r => r.num = num)) then s
      else s.modCore ck (fun c => { c with resvs := c.resvs.filter (fun r => r.num ≠ num) })
    | _ => s)

end Sys2Proof.Machine
end

