-- ==== Sys2Proof/Machine/Watch.lean ====
section
/-! DEFINITION. What the machine does by itself after every step: waits whose condition has become true (R64, R65), XINV (R340), the
wait timers of teams (R64), flags complete by now (R172), launches whose reads park (R363), and partitions saved (R351). -/

namespace Sys2Proof.Machine

open Host (Outcome)

/-- Bytes at their home, as a wait watches them (R65). -/
def State.watched (s : State) (sp ia n : Nat) : List Byte := (s.homeTake (Config.coresPerPkg * homePkg ia) sp ia n).1
/-- The condition of a wait holds now (R64): nothing is said of one that a step of its own ends. -/
def State.conditionMet (s : State) (t : Team) (f : Fibre) : WaitOn → Bool
  | .barrier i tok => (t.barriers.getD i { }).gen ≠ tok
  | .memBarrier sp ia tok => blockWord (s.watched sp (ia + 8) 4) 0 ≠ tok.toNat
  | .counter sp ia target => decide (target.toNat ≤ blockDword (s.watched sp ia 8) 0)
  | .future sp ia => decide (2 ≤ (readFut (s.watched sp ia 8)).1)
  | .wfe => !(s.queueOf t f).isEmpty
  | _ => false
/-- True when a jacketed team's blocked GROW or FFORK could be granted on its core, or would be refused (R65, R68, R69, R271): registers and
slots cover the whole team with what the fibre asks for. -/
def State.blockedReady (s : State) (t : Team) (f : Fibre) (on : WaitOn) : Bool :=
  let regs := t.windowRegs
  let fits := fun (r k : Nat) => decide (r ≤ s.freeRegs t.coreKey) && decide (k ≤ s.freeFibres t.coreKey)
  match on with
  | .grow n => let r := regs - f.regs.length + n; decide (Config.mainRegs < r) || fits r t.fibres.length
  | .fork n _ => decide (1024 < t.fibres.length + n) || fits (regs + n * f.regs.length) (t.fibres.length + n)
  | _ => false
/-- A blocked fibre of a jacketed team looked at (R65, R69): its request is retried at the restore, for which the team becomes ready. -/
def State.watchBlocked (s : State) (tid : Nat) (f : Fibre) (on : WaitOn) : State :=
  let t := s.team tid
  match t.res with
  | .jacketed n false false => if s.blockedReady t f on then s.modTeam tid (fun t => { t with res := .jacketed n false true }) else s
  | _ => s
/-- A fibre's STEP trap taken once its results have arrived (R329, R334). -/
def State.watchStep (s : State) (tid : Nat) (f : Fibre) : State :=
  if f.stepDue && !f.inFlight then s.takeTrap ⟨tid, f.fid⟩ Cause.step 0 else s
/-- A fibre's wait looked at: it becomes ready where its condition holds; one on a memory phaser with the phase's payload (R283). -/
def State.watchFibre (s : State) (tid : Nat) (f : Fibre) : State :=
  match f.wait with
  | some ⟨.grow n, false, _⟩ => s.watchBlocked tid f (.grow n)
  | some ⟨.fork n e, false, _⟩ => s.watchBlocked tid f (.fork n e)
  | some ⟨.memPhaser sp ia target, false, _⟩ =>
    let p := readPh (s.watched sp ia 64)
    if phaseReached p.phase target then
      s.answer ⟨tid, f.fid⟩ (.answer (toBytes 4 p.payload.toNat ++ toBytes 4 p.apkg)) else s
  | some ⟨.parked id, false, _⟩ =>
    if s.reqs.any (fun q => q.id = id) || s.regs.any (fun r => r.entry.id = id) then s
    else match (s.team tid).res with
      | .jacketed .. => s.meet ⟨tid, f.fid⟩
      | _ => s.modFibre ⟨tid, f.fid⟩ (fun f => { f with wait := none, readySince := max f.readyAt s.now })
  | some ⟨on, false, _⟩ => if s.conditionMet (s.team tid) f on then s.meet ⟨tid, f.fid⟩ else s
  | _ => s
/-- The parked registration that a fibre's release waits for (R198, R293), if any. -/
def State.parkedReg (s : State) (tid : Nat) (f : Fibre) (order : Nat) : Option Nat :=
  (s.regs.find? (fun r => r.parked.isSome &&
    ((r.entry.tid = tid && r.entry.fid = f.fid && r.entry.cmd.isNone && decide (r.entry.order < order)) || f.seen.contains r.entry.id))).map
    (fun r => r.entry.id)
/-- A fibre whose release waits for a parked store is suspended in Wait on it (R198). -/
def State.waitParked (s : State) (tid : Nat) (f : Fibre) (order : Nat) : State :=
  match f.wait, s.parkedReg tid f order with
  | none, some id => s.modFibre ⟨tid, f.fid⟩ (fun f => { f with wait := some { on := .parked id, since := s.now } })
  | _, _ => s
/-- A held fibre looked at: one whose XINV is done (R340) is ready; one whose own release, or that of its tile store, waits for a parked store
is in Wait. -/
def State.watchHold (s : State) (tid : Nat) (f : Fibre) : State :=
  match f.hold with
  | some (.inv sp page n false) =>
    if s.pagesHeld sp page n then s
    else s.modFibre ⟨tid, f.fid⟩ (fun f => { f with hold := some (.inv sp page n true), readySince := max f.readyAt s.now })
  | some (.release order false) => s.waitParked tid f order
  | some (.tile id false) => (match (s.req? id).bind (·.rel) with | some order => s.waitParked tid f order | none => s)
  | _ => s
/-- Every fibre of every team looked at. -/
def State.watchAll (s : State) : State :=
  s.teams.foldl (fun s t => t.fibres.foldl (fun s f => ((s.watchFibre t.tid f).watchHold t.tid f).watchStep t.tid f) s) s
/-- A fibre whose next instruction needs the result of a parked load (R116), or of an atomic whose release waits for a parked store (R198): that
interlock is a Wait. -/
def State.lockedOnParked (s : State) (t : Team) (f : Fibre) : Bool :=
  s.reqs.any (fun q => q.tid = t.tid && q.fid = f.fid && ((q.kind = .load && q.parked.isSome) ||
    (q.kind = .atomic && (q.parked.isSome || q.rel.any (fun r => (s.parkedReg t.tid f r).isSome))))) &&
  (match s.issueLine t f.level f.pc with
  | some line => t.slotInterlocked f s.now (rawSlot line f.pc)
  | none => false)
/-- A team is waiting (R64): every fibre of it is suspended in Wait. -/
def State.teamWaits (s : State) (t : Team) : Bool :=
  t.res = .resident && !t.fibres.isEmpty && t.fibres.all (fun f => f.waiting || (!f.halted && s.lockedOnParked t f))
/-- A team's wait timer (R64): it runs from when the team began to wait. -/
def Team.timed (t : Team) (waits : Bool) (now : Nat) : Team :=
  { t with waitSince := if waits then some (t.waitSince.getD now) else none }
/-- A team's records brought up to a clk. -/
def Team.kept (t : Team) (waits : Bool) (now : Nat) : Team := (t.settleFlags now).timed waits now
/-- True when a launch waits for a page of one of its preconditions. -/
def State.waitsForPage (s : State) (x : Launch) : Bool :=
  x.stage = .held && (s.pres x.part x.agentLevel (readRec x.rec_)).any (fun p => match p with | .park _ => true | _ => false)
/-- True when, while its partition folds, every fibre of a resident team has folded, one that waits on a parked load among them (R350, R116). -/
def State.allFolded (s : State) (t : Team) : Bool :=
  t.res = .resident && (s.partAt t.partKey).phase = .folding && t.fibres.all (fun f => f.folded || s.lockedOnParked t f)
/-- How long a fibre has been ready (R41): the count begins anew while it is not. -/
def State.keepReady (s : State) (t : Team) (f : Fibre) : Fibre :=
  if (s.readyLine t f).isSome then f else { f with readySince := max f.readyAt s.now }
/-- The teams' records brought up to the clk; the save of a folded one begins. -/
def State.keepTeams (s : State) : State := { s with teams := s.teams.map (fun t =>
  let u := { t.kept (s.teamWaits t) s.now with fibres := t.fibres.map (s.keepReady t) }
  if s.allFolded t then { u with res := .saving 3 } else u) }
/-- The windows of a core's resident teams laid out one after another in its main file, from a place (R16, R19; log 7). -/
def layFibres : Nat → List Fibre → List Fibre
  | _, [] => []
  | n, f :: r => { f with base := some n } :: layFibres (n + f.regs.length) r
/-- The windows of every team, the teams before it counted by core; a jacketed team's have no place. -/
def layTeams : List (Nat × Nat) → List Team → List Team
  | _, [] => []
  | used, t :: r =>
    if t.inJacket then { t with fibres := t.fibres.map (fun f => { f with base := none }) } :: layTeams used r
    else
      let n := lookupD 0 t.coreKey used
      { t with fibres := layFibres n t.fibres } :: layTeams (insertAt t.coreKey (n + t.windowRegs) used) r
/-- Every window given its place (R16, R19). -/
def State.layOut (s : State) : State := { s with teams := layTeams [] s.teams }
/-- The held launches' reads that park. -/
def State.parkLaunches (s : State) : State := s.launches.foldl (fun s x => if s.waitsForPage x then s.parkPres x else s) s
/-- The upkeep after every step. -/
def State.upkeep (s : State) : State :=
  let s := s.watchAll.wakeLeaves.keepTeams.parkLaunches.layOut
  (s.parts.map (·.1)).foldl (fun s p => s.checkSaved p) s
/-- The upkeep applied to an outcome. -/
def upkept : Outcome State Fault Refusal → Outcome State Fault Refusal
  | .next s => .next s.upkeep
  | r => r

end Sys2Proof.Machine
end

