-- ==== Sys2Proof/Machine/Schedule.lean ====
section
/-! DEFINITION. The order in which the machine takes its steps where the manual leaves it open (log 1): the machine steps that may
happen now, the timers, the advance of $CLK, and the next move. -/

namespace Sys2Proof.Machine

open Host (Outcome)

/-- A machine step. -/
abbrev Doing := State → Outcome State Fault Refusal
/-- The first of some machine steps that changes the state, and the state after it. -/
def State.firstAct (s : State) : List Doing → Option State
  | [] => none
  | a :: r => match a s with
    | .next t => if t = s then s.firstAct r else some t
    | _ => s.firstAct r
/-- True when a fibre has no line to issue from (R105). -/
def State.lineless (s : State) (t : Team) (f : Fibre) : Bool :=
  addrHighBad f.pc || !pcSlotOk f.pc || (s.issueLine t f.level f.pc).isNone
/-- Producers of a team's results that have not arrived (R116, R172). -/
def Team.producers (t : Team) (f : Fibre) : List Nat :=
  dedup ((f.pend.filter (fun p => p.due = none)).map (·.id) ++
    (t.flagPend.filter (fun p => p.fid = f.fid && p.due = none)).map (·.id) ++
    (t.scalarPend.filter (fun p => p.fid = f.fid && p.due = none)).map (·.id))
/-- Producers that fibres already ended have left (R172, R22), with their numbers. -/
def Team.orphans (t : Team) : List (Nat × Nat) :=
  ((t.flagPend.filter (fun p => p.due = none)).map (fun p => (p.fid, p.id)) ++ (t.scalarPend.filter (fun p => p.due = none)).map (fun p => (p.fid, p.id))).filter
    (fun x => (t.fibre? x.1).isNone)
/-- The write-backs that a release at a point waits for (R293); one that a message already carries is not begun again. -/
def State.backActs (s : State) (ws : List (Nat × Nat × CByte)) : List Doing :=
  (ws.filter (fun w => !s.msgs.any (fun m => !m.answered &&
      (match m.op with | .wb sp ia _ => sp = w.2.2.sp && wordOf ia = wordOf w.2.2.ia | _ => false)))).map
    (fun w => execWriteBack w.1 w.2.1 w.2.2.ia)
/-- The steps of the releases that fibres already ended have left (R260, R293). -/
def State.tailActs (s : State) (x : Tail) : List Doing :=
  x.rels.flatMap (fun r => execReleaseComplete x.tid x.fid r.seq :: s.backActs (s.narrowWrites ⟨x.tid, x.fid⟩ r.pt))
/-- The steps of a fibre. -/
def State.fibreActs (s : State) (t : Team) (f : Fibre) : List Doing :=
  (if s.lineless t f then [execLineFill t.tid f.fid] else []) ++
  (t.producers f).map (fun i => execResultArrival t.tid f.fid i) ++
  (match f.wait with
    | some ⟨.grow _, false, _⟩ => [execGrowGrant t.tid f.fid]
    | some ⟨.fork .., false, _⟩ => [execFforkGrant t.tid f.fid]
    | _ => []) ++
  (if (s.partAt t.partKey).phase = .folding then [execFoldStop t.tid f.fid] else []) ++
  f.rels.flatMap (fun r => execReleaseComplete t.tid f.fid r.seq :: s.backActs (s.narrowWrites ⟨t.tid, f.fid⟩ r.pt))
/-- The steps of a team. -/
def State.teamActs (s : State) (t : Team) : List Doing :=
  t.fibres.flatMap (fun f => s.fibreActs t f) ++ t.orphans.map (fun x => execResultArrival t.tid x.1 x.2) ++
  (dedup (t.fibres.map (fun f => bandOf f.fid))).map (fun b => execBandSplit t.tid b) ++
  [execJacketSave t.tid, execJacketRestore t.tid] ++ (if t.fibres.isEmpty then [execTeamEnd t.tid] else [])
/-- The steps of a core. -/
def coreActs (c : Nat × Core) : List Doing :=
  let p := corePkg c.1
  let k := c.1 % Config.coresPerPkg
  (c.2.resvs.filter (fun r => r.gone.isSome)).map (fun r => execObRangeReturn p k r.num) ++
  ((List.range 8).filter (fun b => !(c.2.bins.getD b { }).recs.isEmpty)).map (fun b => execSpawnTeamPlace p k b)
/-- The steps of an engine command. -/
def cmdActs (c : Cmd) : List Doing :=
  [execEngineAbort c.id, execNeighbourFetch c.id false, execNeighbourFetch c.id true, execCtabTableWrite c.id, execRead c.id,
   execEngineCommandComplete c.id]
/-- The steps of a pending access. -/
def reqActs (q : Req) : List Doing := [execRead q.id, execAtomicStep q.id, execTileStep q.id]
/-- The steps of a fabric message. -/
def msgActs (m : Msg) : List Doing :=
  match m.stage with
  | .flying => [execDeliver m.id]
  | .accepted => [fun s => .next (s.handle m.id s.onMessage)]
  | .applied => [execChainHop m.id]
/-- The steps of a stitch message. -/
def stitchActs (m : Stitch) : List Doing :=
  [execBoundArrivalRelease m.id, execStitchArrival m.id, execStitchJoin m.id, execStitchDrop m.id, execPhaseBroadcast m.id]
/-- The cores for the next gang of a launch (R52, R383): of its cluster, the lowest with room for each core-bound unit. -/
def State.coresFor (s : State) (x : Launch) : List Nat :=
  let r := readRec x.rec_
  let per := r.gangOf 3
  match s.nextCluster x r with
  | none => []
  | some c =>
    (List.range (r.gang / max per 1)).foldl (fun acc _ =>
      match (List.range 4).find? (fun k =>
          decide ((acc.filter (fun j => j = 4 * c + k)).length + per ≤ s.room (Config.coresPerPkg * (x.part / 96) + 4 * c + k) r)) with
      | some k => acc ++ List.replicate per (4 * c + k)
      | none => acc) []
/-- The steps of a launch. -/
def State.launchActs (s : State) (x : Launch) : List Doing :=
  let r := readRec x.rec_
  [execLaunchRecordCheck x.id, execLaunchPreFault x.id, execLaunchAccept x.id, execTeamPlace x.id (s.coresFor x), execLaunchComplete x.id] ++
    (if x.ranOut r then s.backActs (s.narrowOf x.tids r.top) else [])
/-- The steps of a packet taken. -/
def packetActs (x : Packet) : List Doing := [execCopyChunk x.id, execPacketFinish x.id]
/-- The queue slots of a partition that front ends and bulk engines look at (R254, R275, R384). -/
def State.queueActs (s : State) (kp : Nat × Part) : List Doing :=
  let g := kp.1 / 96
  let p := kp.1 % 96
  ((List.range 17).filter (fun q => (s.slotAt kp.1 q).isSome)).flatMap (fun q =>
    execFrontEndPacketTake g p q :: (kp.2.rotation.flatMap (fun c => (List.range 4).map (fun k => execSpawnPacketTake g p q (4 * c + k))))) ++
  (List.range 16).flatMap (fun q => ((List.range 48).filter (fun e => (kp.2.qeng.getD q 0).getLsbD e)).map (fun e => execPacketTake g p q e))
/-- The demotions of a package (R371, R374): its victims, and the frames of recalled windows. -/
def State.demoteActs (s : State) (kp : Nat × Pkg) : List Doing :=
  kp.2.victims.map (fun v => execPageDemote kp.1 v.1 v.2.1) ++
  (if kp.2.leases.any (fun x => x.role = 1 && (x.state = 3 || x.state = 4)) then
    ((List.range (s.nframe kp.1 2)).filter (fun n => let f := s.frame kp.1 2 n; f.owned && (s.recalled kp.1 2 f).isSome)).map (fun n =>
      execPageDemote kp.1 2 n)
  else [])
/-- The steps of a package. -/
def pkgActs (kp : Nat × Pkg) : List Doing :=
  (kp.2.clasps.filter (fun c => !c.held)).map (fun c => execClaspGrant kp.1 c.line) ++
  (if kp.2.fatal.isSome then [execFatalDump kp.1] else [])
/-- The cores that hold a team. -/
def State.teamCores (s : State) : List Nat := dedup (s.teams.map (fun t => t.coreKey))
/-- Every machine step that may happen now without anything from outside (log 1). -/
def State.acts (s : State) : List Doing :=
  s.teams.flatMap (fun t => s.teamActs t) ++ s.tails.flatMap (fun x => s.tailActs x) ++
  s.teamCores.map (fun c => execGrowDeadlockJacket (corePkg c) (c % Config.coresPerPkg)) ++
  s.cores.flatMap coreActs ++ s.cmds.flatMap cmdActs ++ s.wq.map (fun e => execDrain e.id) ++
  s.regs.flatMap (fun r => [execRegister r.entry.id, execAcknowledge r.entry.id]) ++
  s.reqs.flatMap reqActs ++ s.msgs.flatMap msgActs ++ s.stitch.flatMap stitchActs ++
  s.deliveries.map (fun d => execContinuationDeliver d.id) ++ s.launches.flatMap (fun x => s.launchActs x) ++
  s.packets.flatMap packetActs ++ s.parts.flatMap (fun kp => s.queueActs kp) ++ s.pkgs.flatMap pkgActs ++ s.pkgs.flatMap s.demoteActs ++
  s.hbm.map (fun r => execHbmRequestStart r.pkg r.group)

/-- The timers (R64, R67, R156, R157, R289, R307, R367, R373, R385, R388, R400, R408): each acts once its time has run. -/
def State.timers (s : State) : List Doing :=
  s.teams.flatMap (fun t => execLongWaitExpiry t.tid :: t.fibres.flatMap (fun f => [execYieldExpiry t.tid f.fid, execSleepExpiry t.tid f.fid])) ++
  s.cores.flatMap (fun (c : Nat × Core) =>
    ((List.range 8).filter (fun b => !(c.2.bins.getD b { }).recs.isEmpty)).map (fun b =>
      execSpawnBinTimeout (corePkg c.1) (c.1 % Config.coresPerPkg) b) ++
    (c.2.l1.filter (fun b => b.st ≠ .owned && decide (b.filled + 16384 ≤ s.now))).map (fun b =>
      execAgeOut (corePkg c.1) (c.1 % Config.coresPerPkg) b.ia) ++
    (c.2.l1.filter (fun b => b.st = .owned && decide (b.filled + Config.writeBackLimit ≤ s.now))).map (fun b =>
      execWriteBack (corePkg c.1) (c.1 % Config.coresPerPkg) b.ia)) ++
  s.parts.flatMap (fun kp => if kp.2.graceEnd.isSome then [execGraceExpiry (kp.1 / 96) (kp.1 % 96)] else []) ++
  s.pkgs.flatMap (fun (kp : Nat × Pkg) =>
    kp.2.ingress.map (fun x => execIngressLeaseExpiry kp.1 x.2.1) ++ kp.2.leases.map (fun x => execLeaseSpill kp.1 x.index) ++
    kp.2.groups.map (fun g => execTimeSliceExpiry kp.1 g.num) ++ [execBandwidthWindow kp.1]) ++
  (dedup (s.reqs.filterMap (fun q => q.parked.map (fun _ => pageOf q.ia)) ++ s.regs.filterMap (fun r => r.parked.map (fun _ => pageOf r.entry.ia)) ++
      s.agentParks.map (fun x => x.2.1) ++ s.cmds.filterMap (fun c => c.parked.map (fun x => x.2.1)))).map (fun pg => execParkLimit (homePkg (pg * 65536)) pg) ++
  s.msgs.map (fun m => execE2eRetryTimeout m.id)

/-- One clk later (R23): $PCLK counts where a partition holds a resident team (R378), and the clocks of the tiers advance (R370). -/
def State.advance (s : State) : State :=
  let s := { s with now := s.now + 1 }
  let s := (dedup ((s.teams.filter (fun t => !t.inJacket)).map (fun t => t.partKey))).foldl (fun s p =>
    s.modPart p (fun x => { x with pclk := x.pclk + 1 })) s
  (s.pkgs.filter (fun kp => kp.2.tdesc.any (· ≠ 0))).foldl (fun s kp => s.tierClocks kp.1) s
/-- A package that is throttled may leave ports idle (R419). -/
def State.throttled (s : State) (c : Nat) : Bool := bitAt (s.pkgAt (corePkg c)).therm 8
/-- The first signature that some core may issue now; with `must`, one that a port must issue before the clk ends (R39). -/
def State.anyPick (s : State) (must : Bool) : Option Candidate :=
  s.teamCores.findSome? (fun c =>
    if decide (s.portsTaken c < Config.issuePorts) && !(must && s.throttled c) then s.pick c else none)
/-- The clk ends: first the timers that are due, then the signatures that free ports must issue. -/
def State.tick (run : Instr → Doing) (s : State) : Outcome State Fault Refusal :=
  match s.firstAct s.timers with
  | some t => .next t
  | none => match s.anyPick true with
    | some c => s.issue run c.tid c.fids
    | none => .next s.advance
/-- The move taken where the schedule gives none: a machine step that may happen, else an issue, else the clk. -/
def State.auto (run : Instr → Doing) (s : State) : Outcome State Fault Refusal :=
  match s.firstAct s.acts with
  | some t => .next t
  | none => match s.anyPick false with
    | some c => s.issue run c.tid c.fids
    | none => s.tick run
/-- True for a machine step, which no slot holds. -/
def isMachineStep (i : Instr) : Bool := (headOf i).isNone && (match i with | .unassignedOpcode _ => false | _ => true)
/-- A move of the schedule: an issue that the rules do not let happen now, and an instruction that is no machine step, change nothing. -/
def State.move (run : Instr → Doing) (s : State) : Move → Outcome State Fault Refusal
  | .issue tid fids => if s.mayIssue tid fids then s.issue run tid fids else .next s
  | .event i => if isMachineStep i then run i s else .next s
  | .tick => s.tick run
/-- The next move: the second slot of a pair, the schedule's next entry, or the machine's own choice (log 1). -/
def State.nextMove (run : Instr → Doing) (s : State) : Outcome State Fault Refusal :=
  match s.sig.second with
  | some x => s.issueSecond run x.1 x.2.1 x.2.2
  | none => match s.agenda with
    | m :: r => State.move run { s with agenda := r } m
    | [] => s.auto run

end Sys2Proof.Machine
end

