-- ==== Sys2Proof/Machine/Dispatch.lean ====
section
/-! DEFINITION. The meaning of every instruction and machine step: one arm each. -/

namespace Sys2Proof.Machine

open Host (Outcome)

/-- What an instruction or machine step does to a state (R36, R37). -/
def exec (i : Instr) (s : State) : Host.Outcome State Fault Refusal :=
  match i with
  | .mov h m => Sys2Proof.Machine.execMov h m s
  | .movi h m => Sys2Proof.Machine.execMovi h m s
  | .movhi h m => Sys2Proof.Machine.execMovhi h m s
  | .rds h m => Sys2Proof.Machine.execRds h m s
  | .add h m => Sys2Proof.Machine.execAdd h m s
  | .addImm h m => Sys2Proof.Machine.execAddImm h m s
  | .addc h m => Sys2Proof.Machine.execAddc h m s
  | .sub h m => Sys2Proof.Machine.execSub h m s
  | .subImm h m => Sys2Proof.Machine.execSubImm h m s
  | .subb h m => Sys2Proof.Machine.execSubb h m s
  | .mul h m => Sys2Proof.Machine.execMul h m s
  | .mulImm h m => Sys2Proof.Machine.execMulImm h m s
  | .mulhi h m => Sys2Proof.Machine.execMulhi h m s
  | .mulhiImm h m => Sys2Proof.Machine.execMulhiImm h m s
  | .mad h m => Sys2Proof.Machine.execMad h m s
  | .madImm h m => Sys2Proof.Machine.execMadImm h m s
  | .madw h m => Sys2Proof.Machine.execMadw h m s
  | .madwImm h m => Sys2Proof.Machine.execMadwImm h m s
  | .div h m => Sys2Proof.Machine.execDiv h m s
  | .divImm h m => Sys2Proof.Machine.execDivImm h m s
  | .rem h m => Sys2Proof.Machine.execRem h m s
  | .remImm h m => Sys2Proof.Machine.execRemImm h m s
  | .abs h m => Sys2Proof.Machine.execAbs h m s
  | .neg h m => Sys2Proof.Machine.execNeg h m s
  | .min h m => Sys2Proof.Machine.execMin h m s
  | .minImm h m => Sys2Proof.Machine.execMinImm h m s
  | .max h m => Sys2Proof.Machine.execMax h m s
  | .maxImm h m => Sys2Proof.Machine.execMaxImm h m s
  | .clamp h m => Sys2Proof.Machine.execClamp h m s
  | .and h m => Sys2Proof.Machine.execAnd h m s
  | .andImm h m => Sys2Proof.Machine.execAndImm h m s
  | .or h m => Sys2Proof.Machine.execOr h m s
  | .orImm h m => Sys2Proof.Machine.execOrImm h m s
  | .xor h m => Sys2Proof.Machine.execXor h m s
  | .xorImm h m => Sys2Proof.Machine.execXorImm h m s
  | .andn h m => Sys2Proof.Machine.execAndn h m s
  | .andnImm h m => Sys2Proof.Machine.execAndnImm h m s
  | .orn h m => Sys2Proof.Machine.execOrn h m s
  | .ornImm h m => Sys2Proof.Machine.execOrnImm h m s
  | .shl h m => Sys2Proof.Machine.execShl h m s
  | .shlImm h m => Sys2Proof.Machine.execShlImm h m s
  | .shr h m => Sys2Proof.Machine.execShr h m s
  | .shrImm h m => Sys2Proof.Machine.execShrImm h m s
  | .sar h m => Sys2Proof.Machine.execSar h m s
  | .sarImm h m => Sys2Proof.Machine.execSarImm h m s
  | .rotl h m => Sys2Proof.Machine.execRotl h m s
  | .rotlImm h m => Sys2Proof.Machine.execRotlImm h m s
  | .fshl h m => Sys2Proof.Machine.execFshl h m s
  | .fshlImm h m => Sys2Proof.Machine.execFshlImm h m s
  | .bfx h m => Sys2Proof.Machine.execBfx h m s
  | .bfxImm h m => Sys2Proof.Machine.execBfxImm h m s
  | .bfi h m => Sys2Proof.Machine.execBfi h m s
  | .bfiImm h m => Sys2Proof.Machine.execBfiImm h m s
  | .brev h m => Sys2Proof.Machine.execBrev h m s
  | .popc h m => Sys2Proof.Machine.execPopc h m s
  | .clz h m => Sys2Proof.Machine.execClz h m s
  | .ctz h m => Sys2Proof.Machine.execCtz h m s
  | .bytep h m => Sys2Proof.Machine.execBytep h m s
  | .bytepImm h m => Sys2Proof.Machine.execBytepImm h m s
  | .sel h m => Sys2Proof.Machine.execSel h m s
  | .cmp h m => Sys2Proof.Machine.execCmp h m s
  | .cmpImm h m => Sys2Proof.Machine.execCmpImm h m s
  | .pand h m => Sys2Proof.Machine.execPand h m s
  | .por h m => Sys2Proof.Machine.execPor h m s
  | .pxor h m => Sys2Proof.Machine.execPxor h m s
  | .pnot h m => Sys2Proof.Machine.execPnot h m s
  | .lea h m => Sys2Proof.Machine.execLea h m s
  | .leaImm h m => Sys2Proof.Machine.execLeaImm h m s
  | .fadd h m => Sys2Proof.Machine.execFadd h m s
  | .faddImm h m => Sys2Proof.Machine.execFaddImm h m s
  | .fsub h m => Sys2Proof.Machine.execFsub h m s
  | .fsubImm h m => Sys2Proof.Machine.execFsubImm h m s
  | .fmul h m => Sys2Proof.Machine.execFmul h m s
  | .fmulImm h m => Sys2Proof.Machine.execFmulImm h m s
  | .ffma h m => Sys2Proof.Machine.execFfma h m s
  | .ffmaImm h m => Sys2Proof.Machine.execFfmaImm h m s
  | .fmin h m => Sys2Proof.Machine.execFmin h m s
  | .fmax h m => Sys2Proof.Machine.execFmax h m s
  | .fcmp h m => Sys2Proof.Machine.execFcmp h m s
  | .fclass h m => Sys2Proof.Machine.execFclass h m s
  | .fdiv h m => Sys2Proof.Machine.execFdiv h m s
  | .fsqrt h m => Sys2Proof.Machine.execFsqrt h m s
  | .frcp h m => Sys2Proof.Machine.execFrcp h m s
  | .frsq h m => Sys2Proof.Machine.execFrsq h m s
  | .fexp2 h m => Sys2Proof.Machine.execFexp2 h m s
  | .flog2 h m => Sys2Proof.Machine.execFlog2 h m s
  | .fsin h m => Sys2Proof.Machine.execFsin h m s
  | .fcos h m => Sys2Proof.Machine.execFcos h m s
  | .ftanh h m => Sys2Proof.Machine.execFtanh h m s
  | .frnd h m => Sys2Proof.Machine.execFrnd h m s
  | .fscale h m => Sys2Proof.Machine.execFscale h m s
  | .fabs h m => Sys2Proof.Machine.execFabs h m s
  | .fneg h m => Sys2Proof.Machine.execFneg h m s
  | .cvt h m => Sys2Proof.Machine.execCvt h m s
  | .cvtblk h m => Sys2Proof.Machine.execCvtblk h m s
  | .deqblk h m => Sys2Proof.Machine.execDeqblk h m s
  | .hadd2 h m => Sys2Proof.Machine.execHadd2 h m s
  | .hfma2 h m => Sys2Proof.Machine.execHfma2 h m s
  | .dot2 h m => Sys2Proof.Machine.execDot2 h m s
  | .dot4 h m => Sys2Proof.Machine.execDot4 h m s
  | .ld h m => Sys2Proof.Machine.execLd h m s
  | .st h m => Sys2Proof.Machine.execSt h m s
  | .ldb h m => Sys2Proof.Machine.execLdb h m s
  | .lds h m => Sys2Proof.Machine.execLds h m s
  | .sts h m => Sys2Proof.Machine.execSts h m s
  | .ldn h m => Sys2Proof.Machine.execLdn h m s
  | .tld h m => Sys2Proof.Machine.execTld h m s
  | .tst h m => Sys2Proof.Machine.execTst h m s
  | .pref h m => Sys2Proof.Machine.execPref h m s
  | .cwb h m => Sys2Proof.Machine.execCwb h m s
  | .leafwt h m => Sys2Proof.Machine.execLeafwt h m s
  | .leaftst h m => Sys2Proof.Machine.execLeaftst h m s
  | .atom h m => Sys2Proof.Machine.execAtom h m s
  | .cas h m => Sys2Proof.Machine.execCas h m s
  | .red h m => Sys2Proof.Machine.execRed h m s
  | .fence h m => Sys2Proof.Machine.execFence h m s
  | .obres h m => Sys2Proof.Machine.execObres h m s
  | .obrel h m => Sys2Proof.Machine.execObrel h m s
  | .mma h m => Sys2Proof.Machine.execMma h m s
  | .accz h m => Sys2Proof.Machine.execAccz h m s
  | .accrd h m => Sys2Proof.Machine.execAccrd h m s
  | .ctab h m => Sys2Proof.Machine.execCtab h m s
  | .tcopy h m => Sys2Proof.Machine.execTcopy h m s
  | .tgath h m => Sys2Proof.Machine.execTgath h m s
  | .qpush h m => Sys2Proof.Machine.execQpush h m s
  | .ctradd h m => Sys2Proof.Machine.execCtradd h m s
  | .ctrwait h m => Sys2Proof.Machine.execCtrwait h m s
  | .ctrtest h m => Sys2Proof.Machine.execCtrtest h m s
  | .bra h m => Sys2Proof.Machine.execBra h m s
  | .brx h m => Sys2Proof.Machine.execBrx h m s
  | .call h m => Sys2Proof.Machine.execCall h m s
  | .callx h m => Sys2Proof.Machine.execCallx h m s
  | .ret h m => Sys2Proof.Machine.execRet h m s
  | .nop h m => Sys2Proof.Machine.execNop h m s
  | .yieldN h m => Sys2Proof.Machine.execYieldN h m s
  | .sleep h m => Sys2Proof.Machine.execSleep h m s
  | .sleepReg h m => Sys2Proof.Machine.execSleepReg h m s
  | .voteAny h m => Sys2Proof.Machine.execVoteAny h m s
  | .voteAll h m => Sys2Proof.Machine.execVoteAll h m s
  | .voteBallot h m => Sys2Proof.Machine.execVoteBallot h m s
  | .voteCount h m => Sys2Proof.Machine.execVoteCount h m s
  | .shfl h m => Sys2Proof.Machine.execShfl h m s
  | .breduce h m => Sys2Proof.Machine.execBreduce h m s
  | .bscan h m => Sys2Proof.Machine.execBscan h m s
  | .matchLead h m => Sys2Proof.Machine.execMatchLead h m s
  | .matchUni h m => Sys2Proof.Machine.execMatchUni h m s
  | .bsync h m => Sys2Proof.Machine.execBsync h m s
  | .bsyncMask h m => Sys2Proof.Machine.execBsyncMask h m s
  | .baralloc h m => Sys2Proof.Machine.execBaralloc h m s
  | .barallocImm h m => Sys2Proof.Machine.execBarallocImm h m s
  | .barfree h m => Sys2Proof.Machine.execBarfree h m s
  | .bararv h m => Sys2Proof.Machine.execBararv h m s
  | .barwt h m => Sys2Proof.Machine.execBarwt h m s
  | .barsync h m => Sys2Proof.Machine.execBarsync h m s
  | .futset h m => Sys2Proof.Machine.execFutset h m s
  | .futsetFail h m => Sys2Proof.Machine.execFutsetFail h m s
  | .futwaitPark h m => Sys2Proof.Machine.execFutwaitPark h m s
  | .futwaitCont h m => Sys2Proof.Machine.execFutwaitCont h m s
  | .futtest h m => Sys2Proof.Machine.execFuttest h m s
  | .fspawn h m => Sys2Proof.Machine.execFspawn h m s
  | .ffork h m => Sys2Proof.Machine.execFfork h m s
  | .fforkImm h m => Sys2Proof.Machine.execFforkImm h m s
  | .fend h m => Sys2Proof.Machine.execFend h m s
  | .grow h m => Sys2Proof.Machine.execGrow h m s
  | .shrink h m => Sys2Proof.Machine.execShrink h m s
  | .launch h m => Sys2Proof.Machine.execLaunch h m s
  | .phregCreate h m => Sys2Proof.Machine.execPhregCreate h m s
  | .phregJoin h m => Sys2Proof.Machine.execPhregJoin h m s
  | .phdrop h m => Sys2Proof.Machine.execPhdrop h m s
  | .phsig h m => Sys2Proof.Machine.execPhsig h m s
  | .phwait h m => Sys2Proof.Machine.execPhwait h m s
  | .phany h m => Sys2Proof.Machine.execPhany h m s
  | .phtest h m => Sys2Proof.Machine.execPhtest h m s
  | .phtestRd h m => Sys2Proof.Machine.execPhtestRd h m s
  | .trap h m => Sys2Proof.Machine.execTrap h m s
  | .sysc h m => Sys2Proof.Machine.execSysc h m s
  | .rett h m => Sys2Proof.Machine.execRett h m s
  | .rettNext h m => Sys2Proof.Machine.execRettNext h m s
  | .mts h m => Sys2Proof.Machine.execMts h m s
  | .mfs h m => Sys2Proof.Machine.execMfs h m s
  | .evpop h m => Sys2Proof.Machine.execEvpop h m s
  | .wfe h m => Sys2Proof.Machine.execWfe h m s
  | .icinv h m => Sys2Proof.Machine.execIcinv h m s
  | .xinv h m => Sys2Proof.Machine.execXinv h m s
  | .jksave h m => Sys2Proof.Machine.execJksave h m s
  | .jkload h m => Sys2Proof.Machine.execJkload h m s
  | .bkpt h m => Sys2Proof.Machine.execBkpt h m s
  | .haltc h m => Sys2Proof.Machine.execHaltc h m s
  | .unassignedOpcode w => Sys2Proof.Machine.execUnassignedOpcode w s
  | .lineFill tid fid => Sys2Proof.Machine.execLineFill tid fid s
  | .bandSplit tid band => Sys2Proof.Machine.execBandSplit tid band s
  | .resultArrival tid fid id => Sys2Proof.Machine.execResultArrival tid fid id s
  | .yieldExpiry tid fid => Sys2Proof.Machine.execYieldExpiry tid fid s
  | .sleepExpiry tid fid => Sys2Proof.Machine.execSleepExpiry tid fid s
  | .longWaitExpiry tid => Sys2Proof.Machine.execLongWaitExpiry tid s
  | .growDeadlockJacket pkg core => Sys2Proof.Machine.execGrowDeadlockJacket pkg core s
  | .growGrant tid fid => Sys2Proof.Machine.execGrowGrant tid fid s
  | .fforkGrant tid fid => Sys2Proof.Machine.execFforkGrant tid fid s
  | .jacketSave tid => Sys2Proof.Machine.execJacketSave tid s
  | .jacketRestore tid => Sys2Proof.Machine.execJacketRestore tid s
  | .foldStop tid fid => Sys2Proof.Machine.execFoldStop tid fid s
  | .graceExpiry pkg part => Sys2Proof.Machine.execGraceExpiry pkg part s
  | .teamPlace launch cores => Sys2Proof.Machine.execTeamPlace launch cores s
  | .teamEnd tid => Sys2Proof.Machine.execTeamEnd tid s
  | .launchRecordCheck launch => Sys2Proof.Machine.execLaunchRecordCheck launch s
  | .launchAccept launch => Sys2Proof.Machine.execLaunchAccept launch s
  | .launchPreFault launch => Sys2Proof.Machine.execLaunchPreFault launch s
  | .launchComplete launch => Sys2Proof.Machine.execLaunchComplete launch s
  | .spawnBinTimeout pkg core bin => Sys2Proof.Machine.execSpawnBinTimeout pkg core bin s
  | .spawnTeamPlace pkg core bin => Sys2Proof.Machine.execSpawnTeamPlace pkg core bin s
  | .continuationDeliver id => Sys2Proof.Machine.execContinuationDeliver id s
  | .engineCommandComplete id => Sys2Proof.Machine.execEngineCommandComplete id s
  | .engineAbort id => Sys2Proof.Machine.execEngineAbort id s
  | .neighbourFetch id opB => Sys2Proof.Machine.execNeighbourFetch id opB s
  | .ctabTableWrite id => Sys2Proof.Machine.execCtabTableWrite id s
  | .obRangeReturn pkg core num => Sys2Proof.Machine.execObRangeReturn pkg core num s
  | .drain id => Sys2Proof.Machine.execDrain id s
  | .register id => Sys2Proof.Machine.execRegister id s
  | .acknowledge id => Sys2Proof.Machine.execAcknowledge id s
  | .read id => Sys2Proof.Machine.execRead id s
  | .fill pkg core ia => Sys2Proof.Machine.execFill pkg core ia s
  | .writeBack pkg core ia => Sys2Proof.Machine.execWriteBack pkg core ia s
  | .ageOut pkg core ia => Sys2Proof.Machine.execAgeOut pkg core ia s
  | .atomicStep id => Sys2Proof.Machine.execAtomicStep id s
  | .tileStep id => Sys2Proof.Machine.execTileStep id s
  | .deliver id => Sys2Proof.Machine.execDeliver id s
  | .releaseComplete tid fid seq => Sys2Proof.Machine.execReleaseComplete tid fid seq s
  | .claspGrant pkg line => Sys2Proof.Machine.execClaspGrant pkg line s
  | .parkLimit pkg page => Sys2Proof.Machine.execParkLimit pkg page s
  | .pgready pkg part page => Sys2Proof.Machine.execPgready pkg part page s
  | .ingressLeaseExpiry pkg line => Sys2Proof.Machine.execIngressLeaseExpiry pkg line s
  | .packetTake pkg part queue engine => Sys2Proof.Machine.execPacketTake pkg part queue engine s
  | .copyChunk id => Sys2Proof.Machine.execCopyChunk id s
  | .packetFinish id => Sys2Proof.Machine.execPacketFinish id s
  | .chainHop id => Sys2Proof.Machine.execChainHop id s
  | .frontEndPacketTake pkg part queue => Sys2Proof.Machine.execFrontEndPacketTake pkg part queue s
  | .spawnPacketTake pkg part queue core => Sys2Proof.Machine.execSpawnPacketTake pkg part queue core s
  | .boundArrivalRelease id => Sys2Proof.Machine.execBoundArrivalRelease id s
  | .stitchArrival id => Sys2Proof.Machine.execStitchArrival id s
  | .phaseBroadcast id => Sys2Proof.Machine.execPhaseBroadcast id s
  | .stitchJoin id => Sys2Proof.Machine.execStitchJoin id s
  | .stitchDrop id => Sys2Proof.Machine.execStitchDrop id s
  | .stitchLinkFail pkg => Sys2Proof.Machine.execStitchLinkFail pkg s
  | .flitReceive pkg port flit => Sys2Proof.Machine.execFlitReceive pkg port flit s
  | .replayRequest pkg port lack => Sys2Proof.Machine.execReplayRequest pkg port lack s
  | .laneFail pkg port lane => Sys2Proof.Machine.execLaneFail pkg port lane s
  | .portRetrain pkg port => Sys2Proof.Machine.execPortRetrain pkg port s
  | .messageReceive id => Sys2Proof.Machine.execMessageReceive id s
  | .e2eRetryTimeout id => Sys2Proof.Machine.execE2eRetryTimeout id s
  | .get id => Sys2Proof.Machine.execGet id s
  | .getx id => Sys2Proof.Machine.execGetx id s
  | .reg id => Sys2Proof.Machine.execReg id s
  | .wb id => Sys2Proof.Machine.execWb id s
  | .stale id => Sys2Proof.Machine.execStale id s
  | .draw id => Sys2Proof.Machine.execDraw id s
  | .atm id => Sys2Proof.Machine.execAtm id s
  | .clasp id => Sys2Proof.Machine.execClasp id s
  | .unclasp id => Sys2Proof.Machine.execUnclasp id s
  | .chain id => Sys2Proof.Machine.execChain id s
  | .lease id => Sys2Proof.Machine.execLease id s
  | .data id => Sys2Proof.Machine.execData id s
  | .ack id => Sys2Proof.Machine.execAck id s
  | .nack id => Sys2Proof.Machine.execNack id s
  | .redirect id => Sys2Proof.Machine.execRedirect id s
  | .srseedWrite pkg core v => Sys2Proof.Machine.execSrseedWrite pkg core v s
  | .preqSave pkg part => Sys2Proof.Machine.execPreqSave pkg part s
  | .preqResume pkg part => Sys2Proof.Machine.execPreqResume pkg part s
  | .leaseOpen pkg index => Sys2Proof.Machine.execLeaseOpen pkg index s
  | .leaseRecallCmd pkg index => Sys2Proof.Machine.execLeaseRecallCmd pkg index s
  | .leaseClose pkg index => Sys2Proof.Machine.execLeaseClose pkg index s
  | .leaseSpill pkg index => Sys2Proof.Machine.execLeaseSpill pkg index s
  | .tierClockStep pkg tier => Sys2Proof.Machine.execTierClockStep pkg tier s
  | .pageDemote pkg tier record => Sys2Proof.Machine.execPageDemote pkg tier record s
  | .meterSnap pkg part => Sys2Proof.Machine.execMeterSnap pkg part s
  | .spdmGetMeasurements pkg part index signed => Sys2Proof.Machine.execSpdmGetMeasurements pkg part index signed s
  | .partitionEnable pkg part v => Sys2Proof.Machine.execPartitionEnable pkg part v s
  | .partitionDisable pkg part v => Sys2Proof.Machine.execPartitionDisable pkg part v s
  | .pbandWrite pkg part v => Sys2Proof.Machine.execPbandWrite pkg part v s
  | .partitionNarrow pkg part field v => Sys2Proof.Machine.execPartitionNarrow pkg part field v s
  | .queueBind pkg part field v => Sys2Proof.Machine.execQueueBind pkg part field v s
  | .fpctlWrite pkg v => Sys2Proof.Machine.execFpctlWrite pkg v s
  | .fpoolWrite pkg v => Sys2Proof.Machine.execFpoolWrite pkg v s
  | .ffloorWrite pkg v => Sys2Proof.Machine.execFfloorWrite pkg v s
  | .snctlWrite pkg v => Sys2Proof.Machine.execSnctlWrite pkg v s
  | .colctlUnfreeze pkg => Sys2Proof.Machine.execColctlUnfreeze pkg s
  | .timeSliceExpiry pkg group => Sys2Proof.Machine.execTimeSliceExpiry pkg group s
  | .bandwidthWindow pkg => Sys2Proof.Machine.execBandwidthWindow pkg s
  | .hbmRequestStart pkg group => Sys2Proof.Machine.execHbmRequestStart pkg group s
  | .correctedError pkg part core => Sys2Proof.Machine.execCorrectedError pkg part core s
  | .uncorrectableError pkg place => Sys2Proof.Machine.execUncorrectableError pkg place s
  | .patrolScrub pkg word outcome => Sys2Proof.Machine.execPatrolScrub pkg word outcome s
  | .llcTagParityError pkg ia owned1 owned2 => Sys2Proof.Machine.execLlcTagParityError pkg ia owned1 owned2 s
  | .fatalDump pkg => Sys2Proof.Machine.execFatalDump pkg s
  | .thermalLimit pkg temp overPower => Sys2Proof.Machine.execThermalLimit pkg temp overPower s
  | .powerFault pkg => Sys2Proof.Machine.execPowerFault pkg s
  | .watchdogExpiry pkg => Sys2Proof.Machine.execWatchdogExpiry pkg s
  | .coldReset pkg fault => Sys2Proof.Machine.execColdReset pkg fault s
  | .warmReset pkg cause fault => Sys2Proof.Machine.execWarmReset pkg cause fault s
  | .functionLevelReset pkg part => Sys2Proof.Machine.execFunctionLevelReset pkg part s
  | .hostLinkTraining pkg up accepts => Sys2Proof.Machine.execHostLinkTraining pkg up accepts s
  | .hostAccess pkg addr size write => Sys2Proof.Machine.execHostAccess pkg addr size write s
  | .coreResume pkg core => Sys2Proof.Machine.execCoreResume pkg core s
  | .stitchLinkUp pkg linkB => Sys2Proof.Machine.execStitchLinkUp pkg linkB s
  | .stitchNodeFail pkg node => Sys2Proof.Machine.execStitchNodeFail pkg node s
  | .expanderFatalError pkg => Sys2Proof.Machine.execExpanderFatalError pkg s
  | .throttleEnd pkg => Sys2Proof.Machine.execThrottleEnd pkg s

end Sys2Proof.Machine
end

