-- ==== Sys2Proof/Machine/Step.lean ====
section
/-! DEFINITION. One step of the machine: the next move with the meanings of the instructions, then the upkeep (log 1); and the
state in which a given instruction is the next one fetched (log 3). -/

namespace Sys2Proof.Machine

open Host (Outcome)

/-- One step. -/
def step (s : State) : Outcome State Fault Refusal := upkept (s.nextMove exec)

/-- The line that holds an instruction in slot 0, marked as a target, with its parities (R102, R105). -/
def lineWith (w : Nat) : List Byte :=
  let slot := toBytes 12 w
  let odd := popcount 96 (w % 2 ^ 96) % 2
  let word := 1 + 2 ^ 30 + 2 ^ 24 * odd
  slot ++ List.replicate 48 0 ++ toBytes 4 (word + 2 ^ 29 * (popcount 32 word % 2))
/-- A team of one fibre at monitor privilege whose PC is 0, on core 0 of package 0 (log 3). -/
def loaderTeam (now : Nat) : Team :=
  { tid := 0, levels := [⟨1, 0, .core⟩], upper := [0]
    fibres := [{ fid := 0, regs := List.replicate 256 0, base := some 0, level := .monitor, readyAt := now, readySince := now }], placed := now }
/-- Partition 0 of package 0 as a loader sets it up (log 3): its first range maps 64 KiB at address 0, one leaf of 1 GiB at physical
address 0 with every permission, and its tables at physical 0x10000 and 0x20000 (R353, R358, R359). -/
def State.loaderMap (s : State) : State :=
  let s := s.modPart 0 (fun x => { x with
    ranges := x.ranges.set 0 { perm := 0x7F }, ptroot := 0x10000, pchan := 0xFFFFFFFFFFFFFFFF, phase := .running, failed := false })
  let s := s.modPkg 0 (fun p => { p with down := false, tlb := p.tlb.filter (fun c => c.part ≠ 0) })
  { s with mem := Memory.write (Memory.write s.mem (physKey 1 0 0x10000) (toBytes 8 0x20000001)) (physKey 1 0 0x20000) (toBytes 8 0x1007F) }
/-- A line put into memory at address 0 of package 0, no cache holding another copy of it, and into the code cache of core 0. -/
def State.putLine (s : State) (line : List Byte) : State :=
  let here := fun (b : CByte) => b.sp = 0 && decide (b.ia < 64)
  let s := { s with
    mem := Memory.write s.mem (physKey 1 0 0) line
    cores := s.cores.map (fun (c : Nat × Core) => (c.1, { c.2 with l1 := c.2.l1.filter (fun b => !here b) }))
    pkgs := s.pkgs.map (fun (p : Nat × Pkg) => (p.1, { p.2 with llc := p.2.llc.filter (fun b => !here b) }))
    memCache := s.memCache.filter (fun b => !here b) }
  (s.cacheLine (loaderTeam s.now) .monitor 0 line).modCore 0 (fun c => { c with halted := false, portsUsed := 0 })
/-- The state with an instruction placed where the next step fetches and runs it (log 3): it stands at address 0, and one fibre has its PC
there. -/
def State.withFetchWord (s : State) (_nbits w : Nat) : State :=
  { s.loaderMap.putLine (lineWith w) with teams := [loaderTeam s.now], sig := { }, agenda := [.issue 0 [0]] }

end Sys2Proof.Machine
end

