-- ==== Sys2Proof/Safety.lean ====
section
/-! DEFINITION. The terms in which claims are stated: what an issue may assume of the state, what an instruction leaves of the
lanes, the team and the rest of the machine, and patterns read bit by bit. -/

namespace Sys2Proof.Machine

/-- The memory keeps its canonical form. -/
def State.memoryOk (s : State) : Bool := Memory.wf s.mem

/-- An issue whose lanes exist, each once, none of them single-stepped (R40; R334's STEP). -/
def State.Issued (s : State) : Prop :=
  s.sig.fids.Nodup ∧ (∀ f ∈ s.sig.fids, (s.fibre? ⟨s.sig.tid, f⟩).isSome = true) ∧
  ∀ f ∈ s.sig.fids, (s.fibre ⟨s.sig.tid, f⟩).level = .user → (s.team s.sig.tid).dbgctl.getLsbD 1 = false
/-- An issue of one lane, whose guard is true. -/
def State.Alone (s : State) (h : Head) (l : Lane) : Prop :=
  s.sig.tid = l.tid ∧ s.sig.fids = [l.fid] ∧ s.Issued ∧ s.guard h l = true
/-- The lanes of the signature whose guard is true, lowest lane number first (R22, R113). -/
def State.guarded (s : State) (h : Head) : List Lane := s.sigLanes.filter (s.guard h)

/-- A lane trapped by its instruction, which has issued: the next issue is max(stall, 1) clk later at the earliest (R114, R36). -/
def State.trapped (s : State) (l : Lane) (h : Head) (c : Cause.Code) (v : Dword) : State :=
  (s.modFibre l (fun f => { f with readyAt := s.now + max h.stall.toNat 1 })).takeTrap l c v

/-- What an instruction that writes only registers leaves in a lane: the registers written in order, the last-result file (R21), and
the flags it raises (R172). -/
structure LaneWrite where
  regs : List (RegName × Word) := []
  last : Option (Word × Word) := none
  flags : List FlagPend := []

/-- The fibre with its own registers written. -/
def LaneWrite.onFibre (w : LaneWrite) (f : Fibre) : Fibre :=
  let g := w.regs.foldl (fun f p => f.put p.1 p.2) f
  match w.last with
  | none => g
  | some (a, b) => { g with y0 := a, y1 := b }
/-- The team-scalars with those among the registers written (R22). -/
def LaneWrite.onScalars (w : LaneWrite) (c : List Word) : List Word :=
  w.regs.foldl (fun c p => match p.1 with | .scalar i => c.set i p.2 | _ => c) c

/-- The fibre gone on to an address, its next issue max(stall, 1) clk later (R114). -/
def Fibre.movedTo (f : Fibre) (pc : Dword) (now : Nat) (stall : BitVec 4) : Fibre :=
  let due := now + max stall.toNat 1
  { f with pc := pc, readyAt := due, readySince := due, fresh := false, gathered := false, turn := none, wait := none }
/-- The fibre gone on in sequence (R103, R114). -/
def Fibre.moved (f : Fibre) (now : Nat) (stall : BitVec 4) : Fibre := f.movedTo (nextPc f.pc) now stall
/-- A team without its fibres and without the notes of which team-scalars are on their way, and who wrote them last. -/
def Team.outline (t : Team) : Team := { t with fibres := [], scalarPend := [], scalarOrder := [] }
/-- A function applied n times. -/
def times {α : Type} (f : α → α) : Nat → α → α
  | 0, x => x
  | n + 1, x => times f n (f x)

/-- t is s after an instruction that writes only registers, for the lanes ls of the issuing team: in every lane that g holds for, exactly
the registers of w, the last-result file and the PC, which becomes `pc`; in the other lanes of ls only the PC; no other fibre; of the
team only the team-scalars and the flags on their way; of the rest of the machine only the stochastic state of the core, advanced
`draws` times for every lane of ls that g holds for (R86). -/
structure LaneEffect (s t : State) (ls : List Lane) (g : Lane → Bool) (stall : BitVec 4) (draws : Nat) (w : Lane → LaneWrite)
    (pc : Lane → Dword) : Prop where
  written : ∀ l ∈ ls, g l = true →
    ∃ p, t.fibre? l = some { (((w l).onFibre (s.fibre l)).movedTo (pc l) s.now stall) with pend := p }
  passed : ∀ l ∈ ls, g l = false → t.fibre? l = some ((s.fibre l).moved s.now stall)
  others : ∀ l, l ∉ ls → t.fibre? l = s.fibre? l
  teams : t.teams.map Team.outline = s.teams.map (fun x =>
    if x.tid = s.sig.tid then { x.outline with
      scalars := (ls.filter g).foldl (fun c l => (w l).onScalars c) x.scalars
      flagPend := x.flagPend ++ (ls.filter g).flatMap (fun l => (w l).flags) }
    else x.outline)
  cores : ∀ c, t.coreAt c =
    if c = (s.team s.sig.tid).coreKey then
      { s.coreAt c with srng := times xorshift (draws * (ls.filter g).length) (s.coreAt c).srng }
    else s.coreAt c
  rest : { t with teams := [], cores := [] } = { s with teams := [], cores := [] }
/-- The effect over the lanes of the signature, those whose guard is true going on at `pc` (R113). -/
abbrev TransferEffect (s t : State) (h : Head) (w : Lane → LaneWrite) (pc : Lane → Dword) : Prop :=
  LaneEffect s t s.sigLanes (s.guard h) h.stall 0 w pc
/-- The effect over the lanes of the signature, every lane going on in sequence (R103). -/
abbrev RegisterEffect (s t : State) (h : Head) (draws : Nat) (w : Lane → LaneWrite) : Prop :=
  LaneEffect s t s.sigLanes (s.guard h) h.stall draws w (fun l => nextPc (s.fibre l).pc)
/-- t is s after an instruction that changes only its own fibres: in every guarded lane as g says, in the other lanes of the signature
only the PC; nothing else. -/
structure FibreEffect (s t : State) (h : Head) (g : Lane → Fibre → Fibre) : Prop where
  changed : ∀ l ∈ s.guarded h, t.fibre? l = some (g l (s.fibre l))
  passed : ∀ l ∈ s.sigLanes, s.guard h l = false → t.fibre? l = some ((s.fibre l).moved s.now h.stall)
  others : ∀ l, l ∉ s.sigLanes → t.fibre? l = s.fibre? l
  teams : t.teams.map (fun x => { x with fibres := [] }) = s.teams.map (fun x => { x with fibres := [] })
  rest : { t with teams := [] } = { s with teams := [] }

/-- A 32-bit result of the arithmetic groups: the register, y0, and y1 from y0 (R21). -/
def State.wordWrite (s : State) (l : Lane) (fld : Field) (v : Word) : LaneWrite :=
  { regs := [(regName fld.file fld.idx, v)], last := some (v, (s.fibre l).y0) }
/-- A 64-bit result: the pair, y0 and y1 (R18, R21). -/
def pairWrite (fld : Field) (v : Dword) : LaneWrite :=
  { regs := [(regName fld.file fld.idx, v.lo), (regName fld.file (fld.idx + 1), v.hi)], last := some (v.lo, v.hi) }
/-- A result under an integer type: a register, or a pair for the 64-bit types (R139, R21). -/
def State.intWrite (s : State) (l : Lane) (fld : Field) (ty : IType) (v : Int) : LaneWrite :=
  if width ty = 64 then pairWrite fld (BitVec.ofInt 64 v) else s.wordWrite l fld (BitVec.ofInt 32 v)
/-- A predicate written; p0 ignores the write (R16). -/
def predWrite (n : Nat) (v : Bool) : LaneWrite := if n = 0 then { } else { regs := [(.pred n, if v then 1 else 0)] }
/-- Two writes of one lane, one after the other. -/
def LaneWrite.and (a b : LaneWrite) : LaneWrite :=
  { regs := a.regs ++ b.regs, last := b.last.orElse (fun _ => a.last), flags := a.flags ++ b.flags }

/-- How many advances of the stochastic state n rounded elements take (R86). -/
def drawsOf (mode : RMode) (n : Nat) : Nat := if mode = .sr then n else 0
/-- The advanced stochastic state that element j (from 1) of a lane meets, where every guarded lane rounds n elements (R86); 0 where
the mode is not SR. -/
def State.drawn (s : State) (h : Head) (l : Lane) (mode : RMode) (n j : Nat) : Word :=
  if mode = .sr then times xorshift (n * (s.guarded h).idxOf l + j) (s.coreAt (s.team s.sig.tid).coreKey).srng else 0
/-- The rounding mode of an issue (R84). -/
def State.modeOf (s : State) (r : Rnd) : RMode := rndMode r (s.team s.sig.tid).rmode
/-- The note that leaves flags on their way to $FFLAGS (R172): none for no flag. -/
def State.flagNote (s : State) (l : Lane) (fl : FFlags) (lat : Option Nat) : List FlagPend :=
  if fl = 0 then [] else [⟨l.fid, lat.map (s.now + ·), s.seq, fl⟩]
/-- A floating-point result: the register, the last-result file, and the flags (R167, R172). -/
def State.floatWrite (s : State) (l : Lane) (fld : Field) (code : Nat) (fl : FFlags) (lat : Option Nat) : LaneWrite :=
  { s.wordWrite l fld (BitVec.ofNat 32 code) with flags := s.flagNote l fl lat }
/-- A run of registers written; y0 takes the last word and y1 the one before it (R188). -/
def runWrite (fld : Field) (ws : List Word) (flags : List FlagPend) : LaneWrite :=
  { regs := ws.zipIdx.map (fun p => (regName fld.file (fld.idx + p.2), p.1))
    last := some (ws.getD (ws.length - 1) 0, ws.getD (ws.length - 2) 0), flags := flags }
/-- The rational value of a finite number. -/
def FVal.value : FVal → ℚ
  | .fin neg sig exp => (if neg then -1 else 1) * sig * (2 : ℚ) ^ exp
  | _ => 0
/-- True for a finite number. -/
def FVal.isFin : FVal → Bool
  | .fin _ _ _ => true
  | _ => false

/-- c is the code of x rounded to a format under a mode (R84, R85): the nearest value, ties to the even code or away from zero; the
nearest one toward zero, upward or downward; under SR one with no other value between it and x. -/
def RoundedTo (f : Fmt) (mode : RMode) (x : ℝ) (c : Nat) : Prop :=
  let val := fun (c : Nat) => (((f.decode c).value : ℚ) : ℝ)
  let finite := fun (c : Nat) => c < 2 ^ f.size ∧ (f.decode c).isFin = true
  let w := val c
  finite c ∧ match mode with
  | .rne => (∀ u, finite u → |w - x| ≤ |val u - x|) ∧ ∀ u, finite u → val u ≠ w → |w - x| = |val u - x| → c % 2 = 0
  | .rna => (∀ u, finite u → |w - x| ≤ |val u - x|) ∧ ∀ u, finite u → |w - x| = |val u - x| → |val u| ≤ |w|
  | .rtz => 0 ≤ w * x ∧ |w| ≤ |x| ∧ ∀ u, finite u → 0 ≤ val u * x → |val u| ≤ |x| → |val u| ≤ |w|
  | .rup => x ≤ w ∧ ∀ u, finite u → x ≤ val u → w ≤ val u
  | .rdn => w ≤ x ∧ ∀ u, finite u → val u ≤ x → val u ≤ w
  | .sr => ∀ u, finite u → ¬ (min w x < val u ∧ val u < max w x)

/-- v is what an arithmetic result x leaves (R141): in the range of the type, clamped under SAT and otherwise equal modulo 2^N. -/
def Narrowed (ty : IType) (sat : Bool) (x v : Int) : Prop :=
  minV ty ≤ v ∧ v ≤ maxV ty ∧ (if sat then v = max (minV ty) (min x (maxV ty)) else (2 ^ width ty : Int) ∣ v - x)
/-- The N-bit pattern of an operand under a type (R139). -/
def State.pattern (s : State) (l : Lane) (pos : Pos) (fld : Field) (ty : IType) : Nat :=
  (s.readInt l pos fld ty % 2 ^ width ty).toNat
/-- v is the value of a type whose N-bit pattern has bit i set as b says (R139). -/
def HasBits (ty : IType) (v : Int) (b : Nat → Bool) : Prop :=
  minV ty ≤ v ∧ v ≤ maxV ty ∧ ∀ i, i < width ty → (v % 2 ^ width ty).toNat.testBit i = b i

/-- The participants of a band's collective, lowest lane first (R44). -/
def State.bandLanes (s : State) (b : Nat) : List Lane := ((s.team s.sig.tid).enrolled b).map (fun i => ⟨s.sig.tid, i⟩)
/-- An issue of a band-collective that completes its band (R44): the lanes issued are of one band and at one PC, and every other fibre of
the band that is not suspended in Wait has been gathered there. -/
structure State.Whole (s : State) (b : Nat) : Prop where
  issued : s.Issued
  some : s.sig.fids ≠ []
  band : ∀ i ∈ s.sig.fids, i / 32 = b ∧ (s.fibre ⟨s.sig.tid, i⟩).wait = none
  once : (((s.team s.sig.tid).fibres.filter (fun f => f.fid / 32 = b)).map (·.fid)).Nodup
  steps : ∀ l ∈ s.bandLanes b, (s.fibre l).level = .user → (s.team s.sig.tid).dbgctl.getLsbD 1 = false
  met : ∀ l ∈ s.bandLanes b, (s.fibre l).wait = none ∧ ((s.fibre l).gathered = true ∨ l.fid ∈ s.sig.fids) ∧
    ∀ i ∈ s.sig.fids, (s.fibre l).pc = (s.fibre ⟨s.sig.tid, i⟩).pc
/-- u with a lane of s gone on in sequence (R103, R114). -/
def State.onward (s u : State) (l : Lane) (h : Head) : State :=
  u.modFibre l (fun f => f.movedTo (nextPc (s.fibre l).pc) u.now h.stall)
/-- t is u with a lane of s gone on: no register of it has a new value; which results are on their way is left open. -/
structure MovedOn (s u t : State) (h : Head) (l : Lane) : Prop where
  fibre : ∃ p, t.fibre? l = some { (s.fibre l).moved s.now h.stall with pend := p }
  others : ∀ k, k ≠ l → t.fibre? k = s.fibre? k
  teams : t.teams.map Team.outline = s.teams.map Team.outline
  rest : { t with teams := [] } = { u with teams := [] }
/-- A lane with nothing under way: no suspension, nothing that holds it, no recorded fault, no access of its own pending (R64, R199, R232,
R294). -/
structure State.Calm (s : State) (l : Lane) : Prop where
  wait : (s.fibre l).wait = none
  hold : (s.fibre l).hold = none
  store : (s.fibre l).storeFault = none
  engine : (s.fibre l).engineFault = none
  reqs : ∀ q ∈ s.reqs, ¬ (q.tid = l.tid ∧ q.fid = l.fid)
/-- An access that passes the checks of R193: its level declared at a scope point, its address low, aligned, translated to an
intermediate address for each kind, not watched, its words not poisoned. -/
structure State.Passes (s : State) (l : Lane) (lv : Nat) (ks : List Acc) (va : Dword) (n : Nat) (pt : Point) (ia : Nat) : Prop where
  point : ((s.team l.tid).levels[lv]?).map Lvl.pt = some pt
  low : va.toNat < 2 ^ 56
  aligned : va.toNat % n = 0
  reached : ∀ k ∈ ks, s.preciseCheck (s.team l.tid).partKey (s.fibre l).level k va.toNat = .ok ia
  unwatched : (s.team l.tid).watched (s.fibre l) ks va.toNat n = false
  clean : s.poisoned (s.team l.tid).coreKey (s.space (s.team l.tid).partKey ia) ia n = false
/-- No other fibre of the lane's team has issued an operation on an object before it that has had no effect yet (R260). -/
def State.Foremost (s : State) (l : Lane) (obj : Dword) : Prop :=
  let own := match (s.fibre l).turn with
    | some x => if x.1 = obj.toNat then x.2 else 32 * s.seq + l.fid % 32
    | none => 32 * s.seq + l.fid % 32
  ∀ g ∈ (s.team l.tid).fibres, g.fid ≠ l.fid → ∀ x, g.turn = some x → x.1 = obj.toNat → own ≤ x.2
/-- What a new access of a lane records. -/
def State.access (s : State) (l : Lane) (kind : ReqKind) (va : Dword) (ia n : Nat) (pt : Point) : Req :=
  { id := s.seq, kind := kind, tid := l.tid, fid := l.fid, core := (s.team l.tid).coreKey, part := (s.team l.tid).partKey, order := s.seq,
    level := (s.fibre l).level, va := va, sp := s.space (s.team l.tid).partKey ia, ia := ia, size := n, pt := pt }
/-- s with one more access pending. -/
def State.withReq (s : State) (q : Req) : State := { s with seq := s.seq + 1, reqs := s.reqs ++ [q] }
/-- An operation of a lane at the home of n bytes may take its step: the home is the lane's own package, no store of the lane to them is
on its way, no other package owns their line, and their page is not being migrated (R219, R296, R212, R363). -/
structure State.Homed (s : State) (l : Lane) (ia n : Nat) : Prop where
  near : homePkg ia = corePkg (s.team l.tid).coreKey
  drained : ∀ e ∈ s.wq, ¬ (e.tid = l.tid ∧ e.fid = l.fid ∧ e.sp = s.space (s.team l.tid).partKey ia ∧ overlaps e.ia e.bytes.length ia n = true)
  registered : ∀ r ∈ s.regs, ¬ (r.registered = false ∧ r.entry.tid = l.tid ∧ r.entry.fid = l.fid ∧
    r.entry.sp = s.space (s.team l.tid).partKey ia ∧ overlaps r.entry.ia r.entry.bytes.length ia n = true)
  unbarred : s.barred (corePkg (s.team l.tid).coreKey) (s.space (s.team l.tid).partKey ia) ia = false
  present : s.pageCheck (s.team l.tid).partKey (s.fibre l).level (some .read) ia ≠ .held
/-- Bytes of a team's scratchpad (R203). -/
def Team.leafBytes (t : Team) (off n : Nat) : List Byte := (List.range n).map (fun i => Memory.byte t.scratch (off + i))
/-- A range of a team's scratchpad that lies in its leaves, none of them engine-owned (R25, R26). -/
def Team.leafFree (t : Team) (off n : Nat) : Prop :=
  (n = 0 ∨ off + n ≤ 2048 * t.leaves) ∧ ∀ c ∈ t.claims, ∀ i ∈ c.2, ¬ (n ≠ 0 ∧ off / 2048 ≤ i ∧ i ≤ (off + n - 1) / 2048)
/-- The bytes of a block operand (R228). -/
def State.blockBytes (s : State) (l : Lane) (pos : Pos) (fld : Field) (n : Nat) : List Byte :=
  if fld.file = .team then (List.range (n / 4)).flatMap (fun i => toBytes 4 (s.readOff l pos fld i).toNat)
  else (s.team l.tid).leafBytes (s.readReg l pos fld).toNat n
/-- A block operand that can be read (R228): in team-scalars, or aligned in leaves of the team that no engine owns. -/
def State.blockReady (s : State) (l : Lane) (pos : Pos) (fld : Field) (n : Nat) : Prop :=
  fld.file = .team ∨ ((s.readReg l pos fld).toNat % n = 0 ∧ (s.team l.tid).leafFree (s.readReg l pos fld).toNat n)

/-- r is a combination of 32-bit values (R162): sum, least, greatest, and, or, xor; of none, the identity. -/
def Combined (op : Nat) (natural : Bool) (vs : List Word) (r : Word) : Prop :=
  let key := fun (v : Word) => if natural then (v.toNat : Int) else v.toInt
  match op with
  | 0 => r.toNat = (vs.map (·.toNat)).sum % 2 ^ 32
  | 1 => (vs = [] → r = if natural then 0xFFFFFFFF else 0x7FFFFFFF) ∧ (vs ≠ [] → r ∈ vs ∧ ∀ v ∈ vs, key r ≤ key v)
  | 2 => (vs = [] → r = if natural then 0 else 0x80000000) ∧ (vs ≠ [] → r ∈ vs ∧ ∀ v ∈ vs, key v ≤ key r)
  | 3 => ∀ i, i < 32 → r.getLsbD i = vs.all (·.getLsbD i)
  | 4 => ∀ i, i < 32 → r.getLsbD i = vs.any (·.getLsbD i)
  | _ => ∀ i, i < 32 → r.getLsbD i = decide ((vs.filter (·.getLsbD i)).length % 2 = 1)

/-- A message at its destination, accepted and not yet handled, where no fatal error has stopped the package (R400, R421). -/
structure State.Accepted (s : State) (m : Msg) : Prop where
  found : s.msg? m.id = some m
  stage : m.stage = .accepted
  up : (s.pkgAt m.dst).down = false
/-- A request that a message serves, whose page is at its home in place and no longer parked, its words not poisoned (R360, R363, R407). -/
structure State.Served (s : State) (m : Msg) (q : Req) (k : Acc) : Prop where
  found : s.req? q.id = some q
  placed : ∃ key, s.pageCheck q.part q.level (some k) q.ia = .place key
  idle : s.replayDue q.sp q.ia q.id = false
  parked : q.parked = none
  clean : s.poisoned (agentCore m.dst) q.sp q.ia q.size = false
/-- A stitch message that may take its next hop: nothing holds it back and the way is up (R260, R281, R412, R416). -/
structure State.Free (s : State) (m : Stitch) : Prop where
  found : s.stitch.find? (fun x => x.id = m.id) = some m
  held : s.stitchHeld m = false
  woken : s.wokenBefore m = false
  way : s.hopUp m = true
/-- A change of every entry of a list that a test holds of. -/
def mapIf {α : Type} (p : α → Bool) (g : α → α) (l : List α) : List α := l.map (fun x => if p x then g x else x)

/-- What the records of a state say after every step (R64, R172, R351): a flag that has arrived is in $FFLAGS; a team's wait timer runs
only while every fibre of the team is suspended, a fibre that waits for a parked load or atomic included, and runs whenever all of them are in
Wait; a partition being saved has a team that is not yet held. -/
structure State.Kept (s : State) : Prop where
  flags : ∀ t ∈ s.teams, ∀ p ∈ t.flagPend, ∀ d, p.due = some d → s.now < d
  timer : ∀ t ∈ s.teams, t.waitSince ≠ none → t.res = .resident ∧ t.fibres ≠ [] ∧ ∀ f ∈ t.fibres, f.waiting = true ∨
    ∃ q ∈ s.reqs, q.tid = t.tid ∧ q.fid = f.fid ∧
      ((q.kind = .load ∧ q.parked ≠ none) ∨ (q.kind = .atomic ∧ (q.parked ≠ none ∨ q.rel ≠ none)))
  waits : ∀ t ∈ s.teams, t.res = .resident → t.fibres ≠ [] → (∀ f ∈ t.fibres, f.waiting = true) → t.waitSince ≠ none
  saved : ∀ p, (s.partAt p).phase = .folding ∨ (s.partAt p).phase = .saving → ∃ t ∈ s.teams, t.partKey = p ∧ t.heldNow = false

end Sys2Proof.Machine
end

