-- ==== Sys2Proof/Certificates/Slice0/Obligations.lean ====
section
/-! DEFINITION. The statements for the provers. -/

open Sys2Proof Sys2Proof.Machine
open Host (Outcome)

/-- R8, R23, R30, R35, R328, R378, R380, R410, R420: the machine after cold reset: no work, memory of every package zero, partition 0 of every
package enabled with every cluster, colour and channel group and the others disabled, and the registers at their Reset columns. The
meanings of State.reset's other fields are the model's own bookkeeping (log 4). -/
def Obligations.ResetValues : Prop :=
  let s := core.reset
  s = State.reset ∧ s.teams = [] ∧ s.launches = [] ∧ s.packets = [] ∧ s.memoryOk = true ∧ (∀ a, Memory.byte s.mem a = 0) ∧
  (∀ c, (s.coreAt c).srseed = 1 ∧ (s.coreAt c).waitlim = 16384 ∧ (s.coreAt c).spawnlim = 2048 ∧ (s.coreAt c).halted = false ∧ (s.coreAt c).l1 = [] ∧
    (s.coreAt c).tables = List.replicate 4 (List.replicate 16 0) ∧ (s.coreAt c).tableVer = [0, 0, 0, 0]) ∧
  (∀ p, (s.partAt p).en = decide (p % 96 = 0) ∧ (s.partAt p).cbase = 0 ∧ (s.partAt p).clim = 95 ∧ (s.partAt p).colours = 2 ^ 128 - 1 ∧
    (s.partAt p).pchan = 0xFFFFFFFFFFFFFFFF ∧ (s.partAt p).strict = false ∧ bandWeight (s.partAt p).pband = 1 ∧ (s.partAt p).grace = 6600 ∧
    (s.partAt p).parklim = 3300000 ∧ (s.partAt p).tsq = 1000 ∧ (s.partAt p).lquota = 0xFFFF ∧ (s.partAt p).perr = 0 ∧ (s.partAt p).phase = .running) ∧
  ∀ g, (s.pkgAt g).fepoch = 0 ∧ (s.pkgAt g).fhi = 896 ∧ (s.pkgAt g).flo = 768 ∧ (s.pkgAt g).retry = 200 ∧ (s.pkgAt g).maxtry = 8 ∧
    (s.pkgAt g).colseq = 0 ∧ (s.pkgAt g).rstcause = 1 ∧ (s.pkgAt g).llc = [] ∧ (s.pkgAt g).psel = 0x7F ∧ (s.pkgAt g).frozen = false ∧
    (s.pkgAt g).freeSlots 8 = 512 ∧ (s.pkgAt g).freeSlots 0 = 256

/-- R39, R102, R109, R111, R126: a step that issues a signature runs the instruction that its line's slot holds, on the state in which the core
keeps that line and a port of it is taken, then keeps the records; the second slot of a formed pair is run by the next step, in the same clk; and a step that
the schedule (log 1) names as a machine step runs that one. Every instruction answers a next state. -/
def Obligations.StepRunsDecoded : Prop :=
  (∀ (s s0 : State) (tid : Nat) (fids : List Nat) (line : List Byte) (i : Instr),
    let t := s0.team tid
    let f := t.fibre (fids.headD 0)
    let w := rawSlot line f.pc
    let u := { ((s0.useLine t f.level f.pc line).prepare tid fids).meterIssue (readHead w) w tid fids with sig := { tid := tid, fids := fids } }
    s.sig.second = none →
    ((∃ rest, s.agenda = .issue tid fids :: rest ∧ s0 = { s with agenda := rest } ∧ s0.mayIssue tid fids = true) ∨
      (s.agenda = [] ∧ s0 = s ∧ s.firstAct s.acts = none ∧ ∃ c, s.anyPick false = some c ∧ c.tid = tid ∧ c.fids = fids)) →
    s0.issueLine t f.level f.pc = some line → fids ≠ [] → (∀ j ∈ fids, issueFault s.now (t.dbgctl.getLsbD 0) (t.fibre j) line = none) →
    decode w = .ok i →
      ∃ v, exec i u = .next v ∧ step s = .next { v with sig := { v.sig with second := secondOf s0 t.coreKey line f.pc } }.upkeep) ∧
  (∀ (s : State) (w : BitVec 96) (fold : Bool) (pc : Dword) (i : Instr),
    let fids := s.pairFibres w fold pc
    let t := s.team s.sig.tid
    let s0 := { s with sig := { } }
    s.sig.second = some (w, fold, pc) → fids ≠ [] → (∀ j ∈ fids, slotFault s.now (t.dbgctl.getLsbD 0) (t.fibre j) w fold = none) → decode w = .ok i →
      ∃ v, exec i { (s0.prepare s.sig.tid fids).meterIssue (readHead w) w s.sig.tid fids with sig := { tid := s.sig.tid, fids := fids } } = .next v ∧
        step s = .next v.upkeep) ∧
  (∀ (s : State) (i : Instr) (rest : List Move), s.sig.second = none → s.agenda = .event i :: rest → isMachineStep i = true →
    ∃ v, exec i { s with agenda := rest } = .next v ∧ step s = .next v.upkeep) ∧
  ∀ (i : Instr) (s : State), ∃ t, exec i s = .next t

/-- R111, R112, R118, R119, R123, with the words of the worked line: what a few words of the encoding decode to. -/
def Obligations.DecodeWords : Prop :=
  let head := fun (stall gp : BitVec 4) (dst sa sb sc : Field) => ({ stall := stall, gp := gp, gi := false, dst := dst, sa := sa, sb := sb, sc := sc } : Head)
  decode 0x004400200000000000000010 = .ok (.movi (head 1 0 4 0 0 0) { imm := 0x10, ty := .s32, sat := false }) ∧
  decode 0x0100002C0003000000000000 = .ok (.add (head 0 0 5 0x200 6 0) { ty := .s32, sat := false, cond := .eq, pred := 0, pinv := false }) ∧
  decode 0x210800381004800000000000 = .ok (.fmul (head 2 0 7 8 9 0) { ty := .f32, rnd := .rne, ftz := false, fcond := .eq }) ∧
  decode 0x0AC4C0500A00000100000002 = .ok (.shlImm (head 1 3 10 5 0 0) { imm := 2, ty := .n32, sat := false }) ∧
  decode 0xC14400000000000000000010 = .ok (.nop (head 1 0 0 0 0 0) { live := 0x10 }) ∧
  decode 0x218000601A0701E000000010 = .ok (.ffma (head 0 0 12 13 14 15) { ty := .f32, rnd := .rup, ftz := false, fcond := .eq }) ∧
  decode 0x228000200201000000000100 = .ok (.fcmp (head 0 0 4 1 2 0) { ty := .f32, rnd := .rne, ftz := false, fcond := .lt }) ∧
  decode 0x600400400400001FFFFF0209 = .ok (.ld (head 1 0 8 2 0 0) { ord := .acq, scope := 2, evict := .default, size := .b4, sx := false, off := -8 }) ∧
  decode 0x800400400402000000003304 = .ok (.atom (head 1 0 8 2 4 0)
    { ord := .rlx, scope := 1, evict := .default, size := .b8, sgn := false, aop := .and, off := 0 }) ∧
  decode 0xC004000000000000FFFFFFF2 = .ok (.bra (head 1 0 0 0 0 0) { tslot := 2, ldisp := -2 }) ∧
  decode 0x60C400400400000000040200 = .ok (.lds (head 1 0 8 2 0 0) { size := .b4, sx := false, cidx := 0, off := 0x10 }) ∧
  decode 0x004400200000001000000010 = .error (.illegalMod 36) ∧ decode 0xFFC000000000000000000000 = .ok (.unassignedOpcode 0xFFC000000000000000000000)

/-- R111, R118 to R124: what the encoding tables give a well-formed instruction, the decoder gives back, and a slot that the decoder accepts
is the encoding of what it decodes to: no bit is lost, and each word has one meaning. Exactly the instructions of a program are encoded. -/
def Obligations.EncodeThenDecode : Prop :=
  (∀ i : Instr, i.wf = true → ∀ w, encode i = some w → decode w = .ok i) ∧
  (∀ (w : BitVec 96) (i : Instr), decode w = .ok i → encode i = some w ∧ (operandFault 256 i = none → i.wf = true)) ∧
  ∀ i : Instr, (encode i).isSome = !isMachineStep i

/-- R124: an opcode that the map of R123 does not assign raises ILLEGAL_OP with the 10-bit opcode in $TVAL, whatever the other bits of its
slot are and whatever the guards: it decodes to the unassigned instruction, which traps in every fibre of the signature once the results
in flight have arrived (R116), and no assigned opcode decodes to it. The opcodes that R124 lists are unassigned. -/
def Obligations.UnassignedOpcodes : Prop :=
  (∀ w : BitVec 96, (opcodeAssigned (opcodeOf w) = false → decode w = .ok (.unassignedOpcode w)) ∧
    (opcodeAssigned (opcodeOf w) = true → ∀ v, decode w ≠ .ok (.unassignedOpcode v))) ∧
  (∀ n, n ∈ [0x007, 0x00B, 0x01F, 0x03F] ∨ (0x048 ≤ n ∧ n ≤ 0x07F) ∨ (0x099 ≤ n ∧ n ≤ 0x0FF) ∨ (0x107 ≤ n ∧ n ≤ 0x17F) ∨
    (0x18C ≤ n ∧ n ≤ 0x1FF) ∨ (0x204 ≤ n ∧ n ≤ 0x27F) ∨ (0x28C ≤ n ∧ n ≤ 0x2FF) ∨ (0x38D ≤ n ∧ n ≤ 0x3FF) → opcodeAssigned n = false) ∧
  ∀ (s : State) (w : BitVec 96), s.Issued → ∃ u, exec (.unassignedOpcode w) s = .next u ∧
    ∀ l ∈ s.sigLanes, u.fibre? l = if (s.fibre l).inFlight then s.fibre? l
      else (s.trapped l (readHead w) 0x01 (BitVec.ofNat 64 (opcodeOf w))).fibre? l

/-- R64, R172, R351: what the records of a state say after a step, every step keeps. -/
def Obligations.RecordsAreKept : Prop :=
  ∀ s t : State, s.Kept → core.step s = .next t → t.Kept

/-- R1, R35 (log 5): a memory is in canonical form, and stays so; a byte written is read back, and no other byte changes; a range written
reads back as it was written. -/
def Obligations.MemoryLaws : Prop :=
  State.reset.memoryOk = true ∧ State.reset.Kept ∧
  ∀ (m : List Host.Cell) (a b lo hi : Nat) (v : Byte) (bs : List Byte), Memory.wf m = true →
    Memory.wf (Memory.set m a v) = true ∧ Memory.wf (Memory.write m a bs) = true ∧ Memory.wf (Memory.clear m lo hi) = true ∧
    Memory.byte (Memory.set m a v) b = (if b = a then v else Memory.byte m b) ∧ Memory.read (Memory.write m a bs) a bs.length = bs ∧
    (b < a ∨ a + bs.length ≤ b → Memory.byte (Memory.write m a bs) b = Memory.byte m b) ∧
    Memory.byte (Memory.clear m lo hi) b = (if lo ≤ b ∧ b < hi then 0 else Memory.byte m b) ∧
    ∀ n, Memory.wf n = true → (∀ c, Memory.byte m c = Memory.byte n c) → m = n

/-- R141, R144, R145: what each register form of the move and arithmetic group leaves, for every operand, type, guard and SAT bit: the
lanes whose guard is true hold the exact value, clamped or taken modulo 2^N, in the destination and the last-result file; nothing else
changes but the PC. -/
def Obligations.IntegerRegisterResults : Prop :=
  ∀ p ∈ ([(Instr.mov, fun _ a _ _ => a), (Instr.add, fun _ a b _ => a + b), (Instr.sub, fun _ a b _ => a - b),
      (Instr.mul, fun _ a b _ => a * b), (Instr.mulhi, fun ty a b _ => a * b / 2 ^ width ty), (Instr.mad, fun _ a b c => a * b + c),
      (Instr.div, fun ty a b _ => if b = 0 then (if 0 ≤ a then maxV ty else minV ty)
        else if signed ty = true ∧ a = minV ty ∧ b = -1 then minV ty else a.tdiv b),
      (Instr.rem, fun ty a b _ => if b = 0 then a else if signed ty = true ∧ a = minV ty ∧ b = -1 then 0 else a - a.tdiv b * b),
      (Instr.abs, fun _ a _ _ => |a|), (Instr.neg, fun _ a _ _ => -a), (Instr.min, fun _ a b _ => min a b),
      (Instr.max, fun _ a b _ => max a b), (Instr.clamp, fun _ a b c => min (max a b) c)] :
      List ((Head → IntMod → Instr) × (IType → Int → Int → Int → Int))),
    ∀ (s : State) (h : Head) (m : IntMod), s.Issued →
      ∃ (t : State) (v : Lane → Int), exec (p.1 h m) s = .next t ∧ RegisterEffect s t h 0 (fun l => s.intWrite l h.dst m.ty (v l)) ∧
        ∀ l ∈ s.guarded h, Narrowed m.ty m.sat
          (p.2 m.ty (s.readInt l .sa h.sa m.ty) (s.readInt l .sb h.sb m.ty) (s.readInt l .sc h.sc m.ty)) (v l)

/-- R140, R141, R144, R145: the immediate forms, IMM standing in the place of B under R140. -/
def Obligations.IntegerImmediateResults : Prop :=
  ∀ p ∈ ([(Instr.movi, fun _ _ b _ => b), (Instr.addImm, fun _ a b _ => a + b), (Instr.subImm, fun _ a b _ => a - b),
      (Instr.mulImm, fun _ a b _ => a * b), (Instr.mulhiImm, fun ty a b _ => a * b / 2 ^ width ty),
      (Instr.madImm, fun _ a b c => a * b + c),
      (Instr.divImm, fun ty a b _ => if b = 0 then (if 0 ≤ a then maxV ty else minV ty)
        else if signed ty = true ∧ a = minV ty ∧ b = -1 then minV ty else a.tdiv b),
      (Instr.remImm, fun ty a b _ => if b = 0 then a else if signed ty = true ∧ a = minV ty ∧ b = -1 then 0 else a - a.tdiv b * b),
      (Instr.minImm, fun _ a b _ => min a b), (Instr.maxImm, fun _ a b _ => max a b)] :
      List ((Head → ImmMod → Instr) × (IType → Int → Int → Int → Int))),
    ∀ (s : State) (h : Head) (m : ImmMod), s.Issued →
      ∃ (t : State) (v : Lane → Int), exec (p.1 h m) s = .next t ∧ RegisterEffect s t h 0 (fun l => s.intWrite l h.dst m.ty (v l)) ∧
        ∀ l ∈ s.guarded h, Narrowed m.ty m.sat
          (p.2 m.ty (s.readInt l .sa h.sa m.ty)
            (if signed m.ty then (if width m.ty = 64 then m.imm.toInt else (m.imm.toInt).bmod (2 ^ width m.ty))
              else (m.imm.toNat % 2 ^ width m.ty : Nat))
            (s.readInt l .sc h.sc m.ty)) (v l)

/-- R147, R140: every bit of the result of the logic instructions, from the same bit of the operands (forms with SAT do not decode, R142), and
of the shifts, rotate and funnel shift, register and immediate forms, at every count. N is the width, c = B[7:0]. -/
def Obligations.LogicAndShiftResults : Prop :=
  (
    ∀ p ∈ ([(Instr.and, Instr.andImm, fun a b => a && b), (Instr.or, Instr.orImm, fun a b => a || b),
        (Instr.xor, Instr.xorImm, fun a b => a ^^ b), (Instr.andn, Instr.andnImm, fun a b => a && !b),
        (Instr.orn, Instr.ornImm, fun a b => a || !b)] :
        List ((Head → IntMod → Instr) × (Head → ImmMod → Instr) × (Bool → Bool → Bool))),
      (∀ (s : State) (h : Head) (m : IntMod), s.Issued → m.sat = false →
        ∃ (t : State) (v : Lane → Int), exec (p.1 h m) s = .next t ∧ RegisterEffect s t h 0 (fun l => s.intWrite l h.dst m.ty (v l)) ∧
          ∀ l ∈ s.guarded h, HasBits m.ty (v l)
            (fun i => p.2.2 ((s.pattern l .sa h.sa m.ty).testBit i) ((s.pattern l .sb h.sb m.ty).testBit i))) ∧
      ∀ (s : State) (h : Head) (m : ImmMod), s.Issued → m.sat = false →
        ∃ (t : State) (v : Lane → Int), exec (p.2.1 h m) s = .next t ∧ RegisterEffect s t h 0 (fun l => s.intWrite l h.dst m.ty (v l)) ∧
          ∀ l ∈ s.guarded h, HasBits m.ty (v l)
            (fun i => p.2.2 ((s.pattern l .sa h.sa m.ty).testBit i) (if i < 32 then m.imm.getLsbD i else (signed m.ty && m.imm.msb)))) ∧
  (
    ∀ p ∈ ([(Instr.shl, Instr.shlImm, fun _ c a _ i => decide (c ≤ i) && a.testBit (i - c)),
        (Instr.shr, Instr.shrImm, fun _ c a _ i => a.testBit (i + c)),
        (Instr.sar, Instr.sarImm, fun n c a _ i => a.testBit (min (i + c) (n - 1))),
        (Instr.rotl, Instr.rotlImm, fun n c a _ i => a.testBit ((i + n - c % n) % n)),
        (Instr.fshl, Instr.fshlImm, fun n c a d i => if i < c % n then d.testBit (n - c % n + i) else a.testBit (i - c % n))] :
        List ((Head → IntMod → Instr) × (Head → ImmMod → Instr) × (Nat → Nat → Nat → Nat → Nat → Bool))),
      (∀ (s : State) (h : Head) (m : IntMod), s.Issued →
        ∃ (t : State) (v : Lane → Int), exec (p.1 h m) s = .next t ∧ RegisterEffect s t h 0 (fun l => s.intWrite l h.dst m.ty (v l)) ∧
          ∀ l ∈ s.guarded h, HasBits m.ty (v l) (p.2.2 (width m.ty) ((s.readReg l .sb h.sb).toNat % 256)
            (s.pattern l .sa h.sa m.ty) (s.pattern l .sc h.sc m.ty))) ∧
      ∀ (s : State) (h : Head) (m : ImmMod), s.Issued →
        ∃ (t : State) (v : Lane → Int), exec (p.2.1 h m) s = .next t ∧ RegisterEffect s t h 0 (fun l => s.intWrite l h.dst m.ty (v l)) ∧
          ∀ l ∈ s.guarded h, HasBits m.ty (v l) (p.2.2 (width m.ty) (m.imm.toNat % 256)
            (s.pattern l .sa h.sa m.ty) (s.pattern l .sc h.sc m.ty)))

/-- R147 to R149: every bit of a bit-field extract and insert, of BREV and of BYTEP. In the control word B, pos = B[7:0] and len = B[15:8];
BYTEP has type .n32 alone. POPC counts the ones of A; CLZ and CTZ bound A by powers of two, with N for A = 0; the count goes to one
32-bit register. -/
def Obligations.BitFieldAndCountResults : Prop :=
  (
    (∀ p ∈ ([(Instr.bfx, Instr.bfxImm, fun ty b a _ i =>
            let w := min (b / 256 % 256) (width ty - b % 256)
            if w = 0 then false else if i < w then a.testBit (b % 256 + i) else signed ty && a.testBit (b % 256 + w - 1)),
          (Instr.bfi, Instr.bfiImm, fun ty b a c i =>
            let w := min (b / 256 % 256) (width ty - b % 256)
            if b % 256 ≤ i ∧ i < b % 256 + w then a.testBit (i - b % 256) else c.testBit i)] :
          List ((Head → IntMod → Instr) × (Head → ImmMod → Instr) × (IType → Nat → Nat → Nat → Nat → Bool))),
        (∀ (s : State) (h : Head) (m : IntMod), s.Issued →
          ∃ (t : State) (v : Lane → Int), exec (p.1 h m) s = .next t ∧ RegisterEffect s t h 0 (fun l => s.intWrite l h.dst m.ty (v l)) ∧
            ∀ l ∈ s.guarded h, HasBits m.ty (v l) (p.2.2 m.ty (s.readReg l .sb h.sb).toNat
              (s.pattern l .sa h.sa m.ty) (s.pattern l .sc h.sc m.ty))) ∧
        ∀ (s : State) (h : Head) (m : ImmMod), s.Issued →
          ∃ (t : State) (v : Lane → Int), exec (p.2.1 h m) s = .next t ∧ RegisterEffect s t h 0 (fun l => s.intWrite l h.dst m.ty (v l)) ∧
            ∀ l ∈ s.guarded h, HasBits m.ty (v l) (p.2.2 m.ty m.imm.toNat (s.pattern l .sa h.sa m.ty) (s.pattern l .sc h.sc m.ty))) ∧
    (∀ (s : State) (h : Head) (m : IntMod), s.Issued →
      ∃ (t : State) (v : Lane → Int), exec (.brev h m) s = .next t ∧ RegisterEffect s t h 0 (fun l => s.intWrite l h.dst m.ty (v l)) ∧
        ∀ l ∈ s.guarded h, HasBits m.ty (v l) (fun i => (s.pattern l .sa h.sa m.ty).testBit (width m.ty - 1 - i))) ∧
    (∀ (s : State) (h : Head) (m : IntMod), s.Issued → m.ty = .n32 →
      ∃ (t : State) (v : Lane → Int), exec (.bytep h m) s = .next t ∧ RegisterEffect s t h 0 (fun l => s.intWrite l h.dst m.ty (v l)) ∧
        ∀ l ∈ s.guarded h, HasBits m.ty (v l) (fun i =>
          let sel := (s.readReg l .sb h.sb).toNat / 2 ^ (4 * (i / 8)) % 16
          if 8 ≤ sel then false else if sel < 4 then (s.pattern l .sa h.sa .n32).testBit (8 * sel + i % 8)
          else (s.pattern l .sc h.sc .n32).testBit (8 * (sel - 4) + i % 8))) ∧
    ∀ (s : State) (h : Head) (m : ImmMod), s.Issued → m.ty = .n32 →
      ∃ (t : State) (v : Lane → Int), exec (.bytepImm h m) s = .next t ∧ RegisterEffect s t h 0 (fun l => s.intWrite l h.dst m.ty (v l)) ∧
        ∀ l ∈ s.guarded h, HasBits m.ty (v l) (fun i =>
          let sel := m.imm.toNat / 2 ^ (4 * (i / 8)) % 16
          if 8 ≤ sel then false else if sel < 4 then (s.pattern l .sa h.sa .n32).testBit (8 * sel + i % 8)
          else (s.pattern l .sc h.sc .n32).testBit (8 * (sel - 4) + i % 8))) ∧
  (
    ∀ (s : State) (h : Head) (m : IntMod), s.Issued →
      (∃ (t : State) (v : Lane → Nat), exec (.popc h m) s = .next t ∧ RegisterEffect s t h 0 (fun l => s.wordWrite l h.dst (BitVec.ofNat 32 (v l))) ∧
        ∀ l ∈ s.guarded h, v l = ((List.range (width m.ty)).filter (fun i => (s.pattern l .sa h.sa m.ty).testBit i)).length) ∧
      (∃ (t : State) (v : Lane → Nat), exec (.clz h m) s = .next t ∧ RegisterEffect s t h 0 (fun l => s.wordWrite l h.dst (BitVec.ofNat 32 (v l))) ∧
        ∀ l ∈ s.guarded h, v l ≤ width m.ty ∧ s.pattern l .sa h.sa m.ty < 2 ^ (width m.ty - v l) ∧
          (v l < width m.ty → 2 ^ (width m.ty - v l - 1) ≤ s.pattern l .sa h.sa m.ty)) ∧
      ∃ (t : State) (v : Lane → Nat), exec (.ctz h m) s = .next t ∧ RegisterEffect s t h 0 (fun l => s.wordWrite l h.dst (BitVec.ofNat 32 (v l))) ∧
        ∀ l ∈ s.guarded h, v l ≤ width m.ty ∧ 2 ^ v l ∣ s.pattern l .sa h.sa m.ty ∧
          (v l < width m.ty → ¬ 2 ^ (v l + 1) ∣ s.pattern l .sa h.sa m.ty))

/-- R150, R151, R143: the compares write the relation, ANDed with the predicate operand in the register form; SEL chooses by it; the
predicate instructions combine predicates. p0 as a destination writes nothing (R16). R144, R146, R152, R21: the results that span a pair
or carry: MADW and LEA modulo 2^64, MOVHI into the odd register with the whole pair as the last result, and ADDC and SUBB with carry-in
and carry-out. -/
def Obligations.PredicateAndPairResults : Prop :=
  (
    (∀ (s : State) (h : Head) (m : IntMod), s.Issued →
      let holds := fun l =>
        let a := s.readInt l .sa h.sa m.ty
        let b := s.readInt l .sb h.sb m.ty
        match m.cond with
        | .eq => decide (a = b) | .ne => decide (a ≠ b) | .lt => decide (a < b)
        | .le => decide (a ≤ b) | .gt => decide (a > b) | .ge => decide (a ≥ b)
      (∃ t, exec (.cmp h m) s = .next t ∧ RegisterEffect s t h 0 (fun l =>
        predWrite h.dst.pred (holds l && (s.readPred l .pred m.pred.toNat ^^ m.pinv)))) ∧
      ∃ t, exec (.sel h m) s = .next t ∧ RegisterEffect s t h 0 (fun l => s.intWrite l h.dst m.ty
        (if (s.readPred l .pred m.pred.toNat ^^ m.pinv) = true then s.readInt l .sa h.sa m.ty else s.readInt l .sb h.sb m.ty))) ∧
    (∀ (s : State) (h : Head) (m : CmpImmMod), s.Issued →
      ∃ t, exec (.cmpImm h m) s = .next t ∧ RegisterEffect s t h 0 (fun l =>
        let a := s.readInt l .sa h.sa (Machine.ctypeOf m.ty)
        let b : Int := match m.ty with | .s32 => m.imm.toInt | .s64 => m.imm.toInt | _ => m.imm.toNat
        predWrite h.dst.pred (match m.cond with
          | .eq => decide (a = b) | .ne => decide (a ≠ b) | .lt => decide (a < b)
          | .le => decide (a ≤ b) | .gt => decide (a > b) | .ge => decide (a ≥ b)))) ∧
    ∀ p ∈ ([(Instr.pand, fun a b => a && b), (Instr.por, fun a b => a || b), (Instr.pxor, fun a b => a ^^ b),
        (Instr.pnot, fun a _ => !a)] : List ((Head → IntMod → Instr) × (Bool → Bool → Bool))),
      ∀ (s : State) (h : Head) (m : IntMod), s.Issued →
        ∃ t, exec (p.1 h m) s = .next t ∧ RegisterEffect s t h 0 (fun l =>
          predWrite h.dst.pred (p.2 (s.readPred l .sa h.sa.pred) (s.readPred l .sb h.sb.pred)))) ∧
  (
    (∀ (s : State) (h : Head) (m : IntMod), s.Issued → ∃ t, exec (.madw h m) s = .next t ∧ RegisterEffect s t h 0 (fun l =>
      pairWrite h.dst (BitVec.ofInt 64 (s.readInt l .sa h.sa m.ty * s.readInt l .sb h.sb m.ty +
        (if signed m.ty then (s.readPair l .sc h.sc).toInt else (s.readPair l .sc h.sc).toNat))))) ∧
    (∀ (s : State) (h : Head) (m : ImmMod), s.Issued → width m.ty = 32 →
      ∃ t, exec (.madwImm h m) s = .next t ∧ RegisterEffect s t h 0 (fun l =>
        pairWrite h.dst (BitVec.ofInt 64 (s.readInt l .sa h.sa m.ty * (if signed m.ty then m.imm.toInt else m.imm.toNat) +
          (if signed m.ty then (s.readPair l .sc h.sc).toInt else (s.readPair l .sc h.sc).toNat))))) ∧
    (∀ (s : State) (h : Head) (m : IntMod), s.Issued → ∃ t, exec (.lea h m) s = .next t ∧ RegisterEffect s t h 0 (fun l =>
      pairWrite h.dst (s.readPair l .sa h.sa +
        BitVec.ofInt 64 (s.readInt l .sc h.sc m.ty) * (s.readReg l .sb h.sb).setWidth 64))) ∧
    (∀ (s : State) (h : Head) (m : ImmMod), s.Issued → ∃ t, exec (.leaImm h m) s = .next t ∧ RegisterEffect s t h 0 (fun l =>
      pairWrite h.dst (s.readPair l .sa h.sa + BitVec.ofInt 64 (s.readInt l .sc h.sc m.ty) * m.imm.setWidth 64))) ∧
    (∀ (s : State) (h : Head) (m : ImmMod), s.Issued → ∃ t, exec (.movhi h m) s = .next t ∧ RegisterEffect s t h 0 (fun l =>
      { regs := [(regName h.dst.file (h.dst.idx + 1), m.imm)]
        last := some (s.readReg l .dst h.dst, m.imm) })) ∧
    ∀ (s : State) (h : Head) (m : IntMod), s.Issued →
      let carry := fun l => if m.pred = 0 then 0 else if s.readPred l .pred m.pred.toNat != m.pinv then 1 else 0
      (∃ t, exec (.addc h m) s = .next t ∧ RegisterEffect s t h 0 (fun l =>
        (s.wordWrite l h.dst (s.readReg l .sa h.sa + s.readReg l .sb h.sb + BitVec.ofNat 32 (carry l))).and
          (predWrite h.sc.pred (decide (2 ^ 32 ≤ (s.readReg l .sa h.sa).toNat + (s.readReg l .sb h.sb).toNat + carry l))))) ∧
      ∃ t, exec (.subb h m) s = .next t ∧ RegisterEffect s t h 0 (fun l =>
        (s.wordWrite l h.dst (s.readReg l .sa h.sa - s.readReg l .sb h.sb - BitVec.ofNat 32 (carry l))).and
          (predWrite h.sc.pred (decide ((s.readReg l .sa h.sa).toNat < (s.readReg l .sb h.sb).toNat + carry l)))))

/-- R167, R170, R171, R173: FADD's kind, register forms: in every guarded lane the exact value of the operands rounded once under the
resolved mode, with its flags, and one advance of the stochastic state per guarded lane under SR, lane by lane. -/
def Obligations.FloatArithmeticResults : Prop :=
  (∀ p ∈ ([(Instr.fadd, some 4, fun mode a b _ => a.add mode b), (Instr.fsub, some 4, fun mode a b _ => a.add mode b.negate),
      (Instr.fmul, some 4, fun _ a b _ => a.mul b),
      (Instr.ffma, some 4, fun mode a b c => (((a.mul b).1.add mode c).1, (a.mul b).2 ||| ((a.mul b).1.add mode c).2)),
      (Instr.fdiv, none, fun _ a b _ => a.div b), (Instr.fsqrt, none, fun _ a _ _ => a.sqrt),
      (Instr.frcp, none, fun _ a _ _ => (FVal.fin false 1 0).div a)] :
      List ((Head → FloatMod → Instr) × Option Nat × (RMode → FVal → FVal → FVal → FVal × FFlags))),
    ∀ (s : State) (h : Head) (m : FloatMod), s.Issued →
      ∃ t, exec (p.1 h m) s = .next t ∧ RegisterEffect s t h (drawsOf (s.modeOf m.rnd) 1) (fun l =>
        let f := ftypeFmt m.ty
        let v := p.2.2 (s.modeOf m.rnd) (s.readFloat l .sa h.sa f m.ftz) (s.readFloat l .sb h.sb f m.ftz) (s.readFloat l .sc h.sc f m.ftz)
        let r := f.round (s.modeOf m.rnd) false m.ftz (s.drawn h l (s.modeOf m.rnd) 1 1) v.1
        s.floatWrite l h.dst r.1 (v.2 ||| r.2) p.2.1)) ∧
  ∀ (s : State) (h : Head) (m : FloatMod), s.Issued →
    ∃ t, exec (.fscale h m) s = .next t ∧ RegisterEffect s t h (drawsOf (s.modeOf m.rnd) 1) (fun l =>
      let f := ftypeFmt m.ty
      let v := (s.readFloat l .sa h.sa f m.ftz).scaleBy (s.readReg l .sb h.sb).toInt
      let r := f.round (s.modeOf m.rnd) false m.ftz (s.drawn h l (s.modeOf m.rnd) 1 1) v.1
      s.floatWrite l h.dst r.1 (v.2 ||| r.2) (some 4))

/-- R168, R173: the immediate forms, FP32 with B from IMM. -/
def Obligations.FloatImmediateResults : Prop :=
  ∀ p ∈ ([(Instr.faddImm, fun mode a b _ => a.add mode b), (Instr.fsubImm, fun mode a b _ => a.add mode b.negate),
      (Instr.fmulImm, fun _ a b _ => a.mul b),
      (Instr.ffmaImm, fun mode a b c => (((a.mul b).1.add mode c).1, (a.mul b).2 ||| ((a.mul b).1.add mode c).2))] :
      List ((Head → FloatImmMod → Instr) × (RMode → FVal → FVal → FVal → FVal × FFlags))),
    ∀ (s : State) (h : Head) (m : FloatImmMod), s.Issued →
      ∃ t, exec (p.1 h m) s = .next t ∧ RegisterEffect s t h (drawsOf (s.modeOf m.rnd) 1) (fun l =>
        let v := p.2 (s.modeOf m.rnd) (s.readFloat l .sa h.sa fmtF32 m.ftz) (fmtF32.operand m.ftz m.imm.toNat)
          (s.readFloat l .sc h.sc fmtF32 m.ftz)
        let r := fmtF32.round (s.modeOf m.rnd) false m.ftz (s.drawn h l (s.modeOf m.rnd) 1 1) v.1
        s.floatWrite l h.dst r.1 (v.2 ||| r.2) (some 4))

/-- R84, R85, R90, R173: the arithmetic is correctly rounded in every mode: for finite operands and a result that does not overflow, the
delivered code is the rounding of the real sum, difference, product, fused product and sum, quotient and root, and inexact is set exactly
where it differs from that real number. -/
def Obligations.ArithmeticIsCorrectlyRounded : Prop :=
  ∀ (ty : FType) (mode : RMode) (x : Word) (ca cb cc : Nat),
    let f := ftypeFmt ty
    let a := f.decode ca
    let b := f.decode cb
    let c := f.decode cc
    let val := fun (v : FVal) => ((v.value : ℚ) : ℝ)
    let correct := fun (v : FVal × FFlags) (exact : ℝ) =>
      let r := f.round mode false false x v.1
      r.2 &&& flOverflow = 0 → v.2 = 0 ∧ RoundedTo f mode exact r.1 ∧ (r.2 &&& flInexact ≠ 0 ↔ val (f.decode r.1) ≠ exact)
    ca < 2 ^ f.size → cb < 2 ^ f.size → cc < 2 ^ f.size → a.isFin = true → b.isFin = true → c.isFin = true →
      correct (a.add mode b) (val a + val b) ∧ correct (a.add mode b.negate) (val a - val b) ∧ correct (a.mul b) (val a * val b) ∧
      correct (((a.mul b).1.add mode c).1, (a.mul b).2 ||| ((a.mul b).1.add mode c).2) (val a * val b + val c) ∧
      (val b ≠ 0 → correct (a.div b) (val a / val b)) ∧ (0 ≤ val a → correct a.sqrt (Real.sqrt (val a)))

/-- R173: FRND delivers an integral value: rounded at the units under the mode, the sign kept, inexact where it differs, and no underflow or
overflow. R74, R77, R78, R81, R85: in every float format of R73 a value that a code names rounds to that code, exactly and without a
flag, in every mode, saturating or not. -/
def Obligations.FrndAndRepresentableResults : Prop :=
  (
    (∀ (s : State) (h : Head) (m : FloatMod), s.Issued →
      ∃ t, exec (.frnd h m) s = .next t ∧ RegisterEffect s t h (drawsOf (s.modeOf m.rnd) 1) (fun l =>
        let f := ftypeFmt m.ty
        let v := FVal.integral (s.modeOf m.rnd) (s.drawn h l (s.modeOf m.rnd) 1 1) (s.readFloat l .sa h.sa f m.ftz)
        s.floatWrite l h.dst (f.round .rtz false false 0 v.1).1 v.2 (some 4))) ∧
    ∀ (ty : FType) (mode : RMode) (x : Word) (ca : Nat),
      let f := ftypeFmt ty
      let a := f.decode ca
      let v := FVal.integral mode x a
      ca < 2 ^ f.size → a.isFin = true →
        (∃ n : Int, v.1.value = n ∧ |(n : ℚ) - a.value| < 1 ∧ (v.2 = if (n : ℚ) = a.value then 0 else flInexact) ∧
          (mode = .rup → a.value ≤ n) ∧ (mode = .rdn → (n : ℚ) ≤ a.value) ∧ (mode = .rtz → |(n : ℚ)| ≤ |a.value|) ∧
          (mode = .rne ∨ mode = .rna → |(n : ℚ) - a.value| ≤ 1 / 2)) ∧
        (f.decode (f.round .rtz false false 0 v.1).1).value = v.1.value) ∧
  (
    ∀ (code : Nat) (f : Fmt), elemOf code = some (.float f) → ∀ c, c < 2 ^ f.size → (f.decode c).isFin = true →
      ∀ (mode : RMode) (sat : Bool) (x : Word), f.round mode sat false x (f.decode c) = (c, 0))

/-- R175 to R178: minimum and maximum with -0 below +0 and the other operand of a NaN; sign operations on the bits; the compare's
predicate and its invalid flag; the class mask. The order of numbers that they use is the order of the values. -/
def Obligations.FloatSelectAndCompareResults : Prop :=
  (
    ∀ (s : State) (h : Head) (m : FloatMod), s.Issued →
      let f := ftypeFmt m.ty
      let a := fun l => s.readFloat l .sa h.sa f m.ftz
      let b := fun l => s.readFloat l .sb h.sb f m.ftz
      let code := fun (v : FVal) => (f.round .rne false false 0 v).1
      let minus := fun (v : FVal) => match v with | .fin n _ _ => n | .inf n => n | .nan _ => false
      let less := fun (v w : FVal) => v.lt w || (v.eq w && minus v && !minus w)
      let pick := fun (larger : Bool) (v w : FVal) =>
        if v.isNan && w.isNan then (f.nanCode false).getD 0 else if v.isNan then code w else if w.isNan then code v
        else if larger then (if less v w then code w else code v) else (if less v w then code v else code w)
      let snan := fun l => if (a l).isSnan || (b l).isSnan then flInvalid else 0
      (∃ t, exec (.fmin h m) s = .next t ∧ RegisterEffect s t h 0 (fun l =>
        s.floatWrite l h.dst (pick false (a l) (b l)) (snan l) (some 4))) ∧
      (∃ t, exec (.fmax h m) s = .next t ∧ RegisterEffect s t h 0 (fun l =>
        s.floatWrite l h.dst (pick true (a l) (b l)) (snan l) (some 4))) ∧
      (∃ t, exec (.fabs h m) s = .next t ∧ RegisterEffect s t h 0 (fun l =>
        s.floatWrite l h.dst (s.readCode l .sa h.sa f % 2 ^ (f.size - 1)) 0 (some 4))) ∧
      (∃ t, exec (.fneg h m) s = .next t ∧ RegisterEffect s t h 0 (fun l =>
        s.floatWrite l h.dst (s.readCode l .sa h.sa f ^^^ 2 ^ (f.size - 1)) 0 (some 4))) ∧
      (∃ t, exec (.fcmp h m) s = .next t ∧ RegisterEffect s t h 0 (fun l =>
        let un := (a l).isNan || (b l).isNan
        let holds := match m.fcond with
          | .eq => !un && !(a l).lt (b l) && !(b l).lt (a l)
          | .ne => un || (a l).lt (b l) || (b l).lt (a l)
          | .lt => !un && (a l).lt (b l)
          | .le => !un && !(b l).lt (a l)
          | .gt => !un && (b l).lt (a l)
          | .ge => !un && !(a l).lt (b l)
          | .un => un
          | .ord => !un
        let ordered := match m.fcond with | .lt => true | .le => true | .gt => true | .ge => true | _ => false
        { predWrite h.dst.pred holds with flags := s.flagNote l (if ordered && un then flInvalid else snan l) (some 2) })) ∧
      ∃ t, exec (.fclass h m) s = .next t ∧ RegisterEffect s t h 0 (fun l =>
        s.floatWrite l h.dst (2 ^ (match f.decode (s.readCode l .sa h.sa f) with
          | .nan sig => if sig then 8 else 9
          | .inf n => if n then 0 else 7
          | .fin n sig _ => if sig = 0 then (if n then 3 else 4) else if sig < 2 ^ f.frac then (if n then 2 else 5)
            else (if n then 1 else 6))) 0 (some 4))) ∧
  (
    ∀ (a b : FVal), a.isFin = true → b.isFin = true → ((a.lt b = true ↔ a.value < b.value) ∧ (a.eq b = true ↔ a.value = b.value)))

/-- R179, R180: the approximate functions: the special operands; the 16-bit types and the exact cases rounded to nearest; and an FP32
result that is the rounded one or within the stated bound (the model's free offset, log 9, moves it nowhere else). FRSQ of a positive
normal FP32 operand lies within one unit in the last place of 1 / sqrt A, and is exact for a power of four. -/
def Obligations.ApproximateFunctionResults : Prop :=
  (
    ∀ p ∈ ([(Instr.frsq, Approx.rsq), (Instr.fexp2, Approx.exp2), (Instr.flog2, Approx.log2), (Instr.fsin, Approx.sin),
        (Instr.fcos, Approx.cos), (Instr.ftanh, Approx.tanh)] : List ((Head → FloatMod → Instr) × Approx)),
      ∀ (s : State) (h : Head) (m : FloatMod), s.Issued →
        ∃ (t : State) (c : Lane → Nat) (fl : Lane → FFlags), exec (p.1 h m) s = .next t ∧
          RegisterEffect s t h 0 (fun l => s.floatWrite l h.dst (c l) (fl l) none) ∧
          ∀ l ∈ s.guarded h,
            let f := ftypeFmt m.ty
            let a := s.readFloat l .sa h.sa f m.ftz
            let gives := fun (v : FVal) (e : FFlags) => c l = (f.round .rne false m.ftz 0 v).1 ∧ fl l = e
            match a, p.2 with
            | .nan sig, _ => gives (.nan false) (if sig then flInvalid else 0)
            | .inf n, .rsq => if n then gives (.nan false) flInvalid else gives (.fin false 0 0) 0
            | .inf n, .exp2 => if n then gives (.fin false 0 0) 0 else gives (.inf false) 0
            | .inf n, .log2 => if n then gives (.nan false) flInvalid else gives (.inf false) 0
            | .inf _, .sin => gives (.nan false) flInvalid
            | .inf _, .cos => gives (.nan false) flInvalid
            | .inf n, .tanh => gives (.fin n 1 0) 0
            | .fin n 0 _, .rsq => gives (.inf n) flDivZero
            | .fin _ 0 _, .exp2 => gives (.fin false 1 0) 0
            | .fin _ 0 _, .log2 => gives (.inf true) flDivZero
            | .fin n 0 _, .sin => gives (.fin n 0 0) 0
            | .fin _ 0 _, .cos => gives (.fin false 1 0) 0
            | .fin n 0 _, .tanh => gives (.fin n 0 0) 0
            | .fin true _ _, .rsq => gives (.nan false) flInvalid
            | .fin true _ _, .log2 => gives (.nan false) flInvalid
            | v, g =>
              let r := f.round .rne false m.ftz 0 (g.value v).1
              (m.ty ≠ .f32 ∨ (g.value v).2.2 = true → c l = r.1) ∧
                (m.ftz = false → c l = r.1 ∨ g.inBound v (g.value v).1 (f.decode (c l)) = true)) ∧
  (
    ∀ (op : Word), 0x00800000 ≤ op.toNat → op.toNat < 0x7F800000 →
      let a := (((fmtF32.decode op.toNat).value : ℚ) : ℝ)
      let v := (((fmtF32.decode (Approx.eval .rsq fmtF32 false op).1).value : ℚ) : ℝ)
      let r := 1 / Real.sqrt a
      |v - r| ≤ (2 : ℝ) ^ (Int.log 2 r - 23) ∧ ((∃ j : Int, a = (4 : ℝ) ^ j) → v = r))

/-- R86, R87, R89, R90, R181 to R184: CVT: the source under its format or integer type, rounded to the destination's, with the flags; a code
table's index by R89; one advance of the stochastic state per element under SR, none for a code-table target. An integer target: the
rounding under the mode clamped to its range, invalid and inexact where it clamps, never underflow; 0 with invalid for a NaN, the limit
with invalid for an infinity. -/
def Obligations.CvtResult : Prop :=
  (
    ∀ (s : State) (h : Head) (m : ConvMod), s.Issued →
      let mode := s.modeOf m.rnd
      let table := fun (l : Lane) => ((s.coreAt (s.team l.tid).coreKey).tables.getD m.cti.toNat []).map (fun (w : Half) => w.toNat)
      let src := fun l =>
        if m.sint then intVal (s.readInt l .sa h.sa m.sity) else elemValue (elemD m.sfmt) (table l) m.ftz (s.readReg l .sa h.sa).toNat
      (m.dint = true → ∃ t, exec (.cvt h m) s = .next t ∧ RegisterEffect s t h (drawsOf mode 1) (fun l =>
        let r := roundInt (width m.dity) (signed m.dity) mode (s.drawn h l mode 1 1) (src l)
        { s.intWrite l h.dst m.dity r.1 with flags := s.flagNote l r.2 (some 4) })) ∧
      (m.dint = false → ∀ f, elemOf m.dfmt.toNat = some (.float f) →
        ∃ t, exec (.cvt h m) s = .next t ∧ RegisterEffect s t h (drawsOf mode 1) (fun l =>
          let r := f.round mode (m.sat && f.size != 32) (m.ftz && f.frac > 6) (s.drawn h l mode 1 1) (src l)
          s.floatWrite l h.dst r.1 r.2 (some 4))) ∧
      (m.dint = false → ∀ n, elemOf m.dfmt.toNat = some (.int n) →
        ∃ t, exec (.cvt h m) s = .next t ∧ RegisterEffect s t h (drawsOf mode 1) (fun l =>
          let r := roundInt n true mode (s.drawn h l mode 1 1) (src l)
          s.floatWrite l h.dst (r.1 % 2 ^ n).toNat r.2 (some 4))) ∧
      (m.dint = false → elemOf m.dfmt.toNat = some .table →
        ∃ t, exec (.cvt h m) s = .next t ∧ RegisterEffect s t h 0 (fun l =>
          let r := tableIndex (table l) (src l)
          s.floatWrite l h.dst r.1 r.2 (some 4)))) ∧
  (
    ∀ (n : Nat) (sgn : Bool) (mode : RMode) (x : Word),
      let lo : Int := if sgn then -(2 ^ (n - 1) : Nat) else 0
      let hi : Int := if sgn then (2 ^ (n - 1) : Nat) - 1 else (2 ^ n : Nat) - 1
      (∀ q, roundInt n sgn mode x (.nan q) = (0, flInvalid)) ∧
      (∀ neg, roundInt n sgn mode x (.inf neg) = (if neg then lo else hi, flInvalid)) ∧
      ∀ neg sig exp,
        let v := FVal.fin neg sig exp
        ∃ k : Int, |(k : ℚ) - v.value| < 1 ∧
          (mode = .rup → v.value ≤ k) ∧ (mode = .rdn → (k : ℚ) ≤ v.value) ∧ (mode = .rtz → |(k : ℚ)| ≤ |v.value|) ∧
          (mode = .rne ∨ mode = .rna → |(k : ℚ) - v.value| ≤ 1 / 2) ∧
          (mode = .rne → |(k : ℚ) - v.value| = 1 / 2 → k % 2 = 0) ∧
          roundInt n sgn mode x v = (max lo (min hi k),
            (if (k : ℚ) = v.value then 0 else flInexact) ||| (if k < lo ∨ hi < k then flInvalid ||| flInexact else 0)))

/-- R185 to R188, R92: the block conversions. CVTBLK rounds 16 values under the scale that R92 chooses, and DEQBLK gives 16 values of a
block; the packed words go to a run of registers, and under SR the stochastic state advances once per element, in order. -/
def Obligations.BlockConversionResults : Prop :=
  ∀ (s : State) (h : Head) (m : ConvMod), s.Issued →
    let mode := s.modeOf m.rnd
    let orAll := fun (fs : List FFlags) => fs.foldr (· ||| ·) 0
    (∀ f, elemOf m.sfmt.toNat = some (.float f) → ∃ t, exec (.cvtblk h m) s = .next t ∧
      RegisterEffect s t h (drawsOf mode 16) (fun l =>
        let e := elemD m.dfmt
        let vs := (splitElems f.size 16 (joinWords ((List.range (if f.size = 32 then 16 else 8)).map
          (fun i => s.readOff l .sa h.sa i)))).map (f.operand m.ftz)
        let sc : Int := match topExponent vs with | none => 127 | some k => min (max (k - elemEmax e + 127) 0) 254
        let rs := vs.zipIdx.map (fun p => roundElem e mode (s.drawn h l mode 16 (p.2 + 1)) (p.1.scale (127 - sc)))
        let words := fun (codes : List Nat) (scale : Nat) =>
          splitWords ((16 * e.bits + 31) / 32) (packElems e.bits codes) ++ [BitVec.ofNat 32 scale]
        if vs.all (·.isFin) then runWrite h.dst (words (rs.map (·.1)) sc.toNat) (s.flagNote l (orAll (rs.map (·.2))) none)
        else runWrite h.dst (words (List.replicate 16 0) 0xFF) (s.flagNote l flInvalid none))) ∧
    (∀ f, elemOf m.dfmt.toNat = some (.float f) → ∃ t, exec (.deqblk h m) s = .next t ∧
      RegisterEffect s t h (drawsOf mode 16) (fun l =>
        let e := elemD m.sfmt
        let n := (16 * e.bits + 31) / 32
        let word := fun i => s.readOff l .sa h.sa i
        let table := ((s.coreAt (s.team l.tid).coreKey).tables.getD m.cti.toNat []).map (fun (w : Half) => w.toNat)
        let vs := (splitElems e.bits 16 (joinWords ((List.range n).map word))).map (elemValue e table false)
        let scale := (word n).toNat % 256
        let rs := vs.zipIdx.map (fun p =>
          if scale = 0xFF then ((f.nanCode false).getD 0, 0)
          else f.round mode m.sat m.ftz (s.drawn h l mode 16 (p.2 + 1)) (p.1.scale (scale - 127)))
        runWrite h.dst (splitWords (if f.size = 32 then 16 else 8) (packElems f.size (rs.map (·.1))))
          (s.flagNote l (orAll (rs.map (·.2))) none)))

/-- R98, R171, R174, R189: the packed and dot-product instructions: each half rounded on its own, the low half first; the dot products sum
the exact products and the addend and round once; the integer dot product is taken modulo 2^32. The sum of a dot product is exact: for
finite elements its value is the addend plus the sum of the products, and no flag is raised before the rounding. -/
def Obligations.PackedAndDotResults : Prop :=
  (
    ∀ (s : State) (h : Head) (m : ConvMod), s.Issued →
      let mode := s.modeOf m.rnd
      (∀ p ∈ ([(Instr.hadd2, fun mode a b _ => a.add mode b),
          (Instr.hfma2, fun mode a b c => (((a.mul b).1.add mode c).1, (a.mul b).2 ||| ((a.mul b).1.add mode c).2))] :
          List ((Head → ConvMod → Instr) × (RMode → FVal → FVal → FVal → FVal × FFlags))),
        ∃ t, exec (p.1 h m) s = .next t ∧ RegisterEffect s t h (drawsOf mode 2) (fun l =>
          let f := packedFmt m.sfmt
          let half := fun pos fld k => f.operand m.ftz ((s.readReg l pos fld).toNat / 2 ^ (16 * k) % 2 ^ 16)
          let v := fun k => p.2 mode (half .sa h.sa k) (half .sb h.sb k) (half .sc h.sc k)
          let r := fun k => f.round mode m.sat m.ftz (s.drawn h l mode 2 (k + 1)) (v k).1
          s.floatWrite l h.dst ((r 0).1 + 2 ^ 16 * (r 1).1) ((v 0).2 ||| (v 1).2 ||| (r 0).2 ||| (r 1).2) (some 4))) ∧
      (∀ p ∈ ([(Instr.dot2, 2), (Instr.dot4, 4)] : List ((Head → ConvMod → Instr) × Nat)), m.dint = false →
        ∃ t, exec (p.1 h m) s = .next t ∧ RegisterEffect s t h (drawsOf mode 1) (fun l =>
          let e := elemD m.sfmt
          let elem := fun pos fld k => elemValue e [] m.ftz ((s.readReg l pos fld).toNat / 2 ^ (e.bits * k) % 2 ^ e.bits)
          let v := dotSum mode ((List.range p.2).map (fun k => (elem .sa h.sa k, elem .sb h.sb k))) (s.readFloat l .sc h.sc fmtF32 m.ftz)
          let r := fmtF32.round mode false m.ftz (s.drawn h l mode 1 1) v.1
          s.floatWrite l h.dst r.1 (v.2 ||| r.2) (some 4))) ∧
      (m.dint = true → ∃ t, exec (.dot4 h m) s = .next t ∧ RegisterEffect s t h 0 (fun l =>
        let byte := fun pos fld (k : Nat) => ((s.readReg l pos fld >>> (8 * k)).setWidth 8).toInt
        s.wordWrite l h.dst (BitVec.ofInt 32 ((s.readReg l .sc h.sc).toInt + byte .sa h.sa 0 * byte .sb h.sb 0 +
          byte .sa h.sa 1 * byte .sb h.sb 1 + byte .sa h.sa 2 * byte .sb h.sb 2 + byte .sa h.sa 3 * byte .sb h.sb 3))))) ∧
  (
    ∀ (mode : RMode) (ps : List (FVal × FVal)) (c : FVal),
      (∀ p ∈ ps, p.1.isFin = true ∧ p.2.isFin = true) → c.isFin = true →
        (dotSum mode ps c).2 = 0 ∧ (dotSum mode ps c).1.isFin = true ∧
          (dotSum mode ps c).1.value = c.value + (ps.map (fun p => p.1.value * p.2.value)).sum)

/-- R122, R154, R155: the transfers: where each guarded lane's target line is at hand and no check of it fails, each guarded lane goes to its
own target, direct from the line of the PC or from the register pair, and a call writes the next PC in sequence to its link pair. The lines
read are used as fetched lines are (R104, R361). -/
def Obligations.TransferResults : Prop :=
  ∀ (s : State) (h : Head) (lines : Lane → List Byte), s.Issued →
    let direct := fun (m : BranchMod) (l : Lane) =>
      BitVec.ofInt 64 ((s.fibre l).pc.toNat / 64 * 64 + 64 * m.ldisp.toInt + 12 * m.tslot.toNat)
    let indirect := fun (l : Lane) => s.readPair l .sa h.sa
    let clear := fun (target : Lane → Dword) => ∀ l ∈ s.guarded h,
      s.targetAway (s.team l.tid) (s.fibre l).level (target l) = none ∧
        s.targetCheck (s.team l.tid) (s.fibre l).level (target l) = .ok (lines l)
    let used := fun (target : Lane → Dword) =>
      (s.guarded h).foldl (fun u l => u.useLine (s.team l.tid) (s.fibre l).level (target l) (lines l)) s
    let link := fun (l : Lane) =>
      { regs := [(regName h.dst.file h.dst.idx, (nextPc (s.fibre l).pc).lo),
          (regName h.dst.file (h.dst.idx + 1), (nextPc (s.fibre l).pc).hi)] : LaneWrite }
    (∀ m, clear (direct m) → ∃ t, exec (.bra h m) s = .next t ∧ TransferEffect (used (direct m)) t h (fun _ => { }) (direct m)) ∧
    (∀ m, clear (direct m) → ∃ t, exec (.call h m) s = .next t ∧ TransferEffect (used (direct m)) t h link (direct m)) ∧
    (clear indirect → ∀ m, ∃ t, exec (.brx h m) s = .next t ∧ TransferEffect (used indirect) t h (fun _ => { }) indirect) ∧
    (clear indirect → ∀ m, ∃ t, exec (.callx h m) s = .next t ∧ TransferEffect (used indirect) t h link indirect) ∧
    (clear indirect → ∀ m, ∃ t, exec (.ret h m) s = .next t ∧ TransferEffect (used indirect) t h (fun _ => { }) indirect)

/-- R154, R103, R104, R33: what a target must be: bits [63:56] zero, else ADDR_HIGH; a slot's offset, else PC_SLOT; a line that can be fetched,
else FETCH_FAULT; its TGT bit set, else BR_TARGET, in this order; and the lane that fails takes that trap, its PC at the transfer. The line is
the one that the lane would issue from, or, where the core caches none, the one its package holds; one that must come over the fabric is
asked for first. -/
def Obligations.TransferTraps : Prop :=
  (∀ (s : State) (t : Team) (level : Level) (pc : Dword),
    let bad := pc.toNat % 64 ≠ 0 ∧ pc.toNat % 64 ≠ 12 ∧ pc.toNat % 64 ≠ 24 ∧ pc.toNat % 64 ≠ 36 ∧ pc.toNat % 64 ≠ 48
    let target := fun (r : Except Dword (List Byte)) =>
      (∃ line, s.issueLine t level pc = some line ∧ r = .ok line) ∨ (s.issueLine t level pc = none ∧ r = s.fetchLine t level pc)
    (2 ^ 56 ≤ pc.toNat → s.targetCheck t level pc = .error (0x10, pc)) ∧
    (pc.toNat < 2 ^ 56 → bad → s.targetCheck t level pc = .error (0x05, pc)) ∧
    (pc.toNat < 2 ^ 56 → ¬ bad → ∀ v, target (.error v) → s.targetCheck t level pc = .error (0x11, v)) ∧
    (pc.toNat < 2 ^ 56 → ¬ bad → ∀ line, target (.ok line) → bitAt (lineWord line) (pc.toNat % 64 / 12) = false →
      s.targetCheck t level pc = .error (0x04, pc)) ∧
    (pc.toNat < 2 ^ 56 → ¬ bad → ∀ line, target (.ok line) → bitAt (lineWord line) (pc.toNat % 64 / 12) = true →
      s.targetCheck t level pc = .ok line)) ∧
  ∀ (s : State) (h : Head) (l : Lane) (m : BranchMod) (n : SyncMod) (c : Cause.Code) (v : Dword) (ia : Nat),
    s.Alone h l →
      let direct := branchTarget (s.fibre l).pc m
      let indirect := s.readPair l .sa h.sa
      let fails := fun (pc : Dword) => (s.fibre l).inFlight = false ∧ s.targetAway (s.team l.tid) (s.fibre l).level pc = none ∧
        s.targetCheck (s.team l.tid) (s.fibre l).level pc = .error (c, v)
      let away := fun (pc : Dword) => s.targetAway (s.team l.tid) (s.fibre l).level pc = some ia
      (fails direct → exec (.bra h m) s = .next (s.trapped l h c v) ∧ exec (.call h m) s = .next (s.trapped l h c v)) ∧
      (fails indirect → exec (.brx h n) s = .next (s.trapped l h c v) ∧ exec (.callx h n) s = .next (s.trapped l h c v) ∧
        exec (.ret h n) s = .next (s.trapped l h c v)) ∧
      (away direct → exec (.bra h m) s = .next (s.awaitLine l direct ia) ∧ exec (.call h m) s = .next (s.awaitLine l direct ia)) ∧
      (away indirect → exec (.brx h n) s = .next (s.awaitLine l indirect ia) ∧ exec (.callx h n) s = .next (s.awaitLine l indirect ia) ∧
        exec (.ret h n) s = .next (s.awaitLine l indirect ia))

/-- R156, R157: NOP only goes on; YIELD goes on and is not ready for n clk; SLEEP suspends the fibre for n clk with its PC at the
instruction, goes on at once for n = 0, and goes on when its time has run. R328, R334: an instruction that completes at user privilege
with $DBGCTL bit 1 set has its effect and then takes the STEP trap, the saved PC being the next one, at once or, where results of the
fibre are in flight (R329), once they have arrived. -/
def Obligations.NopYieldSleepAndStepResults : Prop :=
  (
    ∀ (s : State) (h : Head), s.Issued →
      (∀ m, ∃ t, exec (.nop h m) s = .next t ∧ RegisterEffect s t h 0 (fun _ => { })) ∧
      (∀ m, ∃ t, exec (.yieldN h m) s = .next t ∧ FibreEffect s t h (fun _ f =>
        { f.moved s.now h.stall with hold := if m.imm24 = 0 then f.hold else some (.yield (s.now + m.imm24.toNat)) })) ∧
      ∀ m,
        let slept := fun (n : Nat) (f : Fibre) => match f.wait with
          | none => if n = 0 then f.moved s.now h.stall else { f with wait := some { on := .sleep (s.now + n), since := s.now }, waitAt := 0, turn := none }
          | some w => if w.met then f.moved s.now h.stall else f
        (∃ t, exec (.sleep h m) s = .next t ∧ FibreEffect s t h (fun _ f => slept m.imm24.toNat f)) ∧
        ∃ t, exec (.sleepReg h m) s = .next t ∧ FibreEffect s t h (fun l f => slept (s.readReg l .sa h.sa).toNat f)) ∧
  (
    ∀ (s : State) (h : Head) (m : FoldMod) (l : Lane),
      s.sig.tid = l.tid → s.sig.fids = [l.fid] → s.guard h l = true → (s.fibre? l).isSome = true → (s.fibre l).level = .user →
        (s.team l.tid).dbgctl.getLsbD 1 = true →
          let u := s.modFibre l (fun f => f.movedTo (nextPc (s.fibre l).pc) s.now h.stall)
          exec (.nop h m) s = .next (if (s.fibre l).inFlight then u.modFibre l (fun f => { f with stepDue := true }) else u.takeTrap l 0x0C 0) ∧
          (∀ f, u.fibre? l = some f → f.stepDue = true → f.inFlight = false → u.watchStep l.tid f = u.takeTrap l 0x0C 0))

/-- R329, R116: taking a trap: the handler's level by delegation, the saved PC, cause, value and level, the nesting bit, the vector; a
trap of a level whose copy is in use becomes DOUBLE_TRAP at the monitor with the cause as its value; the rest of the machine is as it
was. (The two causes whose delivery also clears a record, STORE_DEFERRED and ENG_FAULT, are apart.) -/
def Obligations.TrapEntry : Prop :=
  ∀ (s : State) (l : Lane) (cause : Cause.Code) (value : Dword), (s.fibre? l).isSome = true → cause ≠ 0x16 → cause ≠ 0x45 →
    let f := s.fibre l
    let t := s.team l.tid
    let delegated := bitAt ((s.partAt t.partKey).mdeleg.getD (cause.toNat / 32) 0).toNat (cause.toNat % 32)
    let toUser := bitAt (t.sdeleg.getD (cause.toNat / 32) 0).toNat (cause.toNat % 32)
    let h0 : Level := if f.level = .monitor ∨ cause = 0x0E ∨ (cause = 0x0A ∧ f.level = .supervisor) then .monitor
      else if delegated = false then .monitor
      else if f.level = .user ∧ cause.toNat < 0x60 ∧ toUser = true ∧ t.utvec ≠ 0 then .user else .supervisor
    let double := (f.copy h0).nest = true ∧ h0 ≠ .monitor
    let hl : Level := if (f.copy h0).nest && h0 ≠ .monitor then .monitor else h0
    let vec := match hl with
      | .user => t.utvec
      | .supervisor => (s.partAt t.partKey).stvec
      | .monitor => (s.pkgAt t.pkg).mtvec
    let u := s.takeTrap l cause value
    ((f.copy hl).nest = false → vec ≠ 0 → ∃ c v, (double → c = 0x0E ∧ v = cause.zeroExtend 64) ∧ (¬ double → c = cause ∧ v = value) ∧
      u.fibre? l = some { ({ f with pend := [], wait := none, hold := none, gathered := false, fresh := false, turn := none, stepDue := false }.setCopy hl
        { epc := f.pc, cause := c, val := v, ppriv := f.level, nest := true }) with
          level := hl, pc := vec, readyAt := max f.readyAt (s.now + 1), readySince := max f.readyAt (s.now + 1) } ∧
      (∀ k, k ≠ l → u.fibre? k = s.fibre? k) ∧
      u.teams.map (fun x => { x with fibres := [] }) = s.teams.map (fun x => { x with fibres := [] }) ∧
      { u with teams := [] } = { s with teams := [] }) ∧
    ((f.copy hl).nest = true →
      u.fibre? l = some { f with halted := true, wait := none, hold := none, gathered := false, turn := none } ∧ ∀ k, k ≠ l → u.fibre? k = s.fibre? k)

/-- R336, R116, R124: the software traps: TRAP with a code that names a software cause raises it, with any other TRAP_INSN; SYSC and BKPT raise
theirs with the code; all wait for the fibre's results in flight. An unassigned opcode raises ILLEGAL_OP with the opcode. R330: the
return from a trap: the nesting bit cleared, the level before it and the saved PC, or the one after it, taken up; RETT_BAD where no trap
is open, PC_SLOT where the PC is no slot. -/
def Obligations.TrapInstructionResults : Prop :=
  (
    ∀ (s : State) (h : Head) (m : SystemMod) (l : Lane), s.Alone h l →
      let c := m.code.toNat
      let soft := (0x28 ≤ c ∧ c ≤ 0x3F) ∨ (0x4A ≤ c ∧ c ≤ 0x4F) ∨ (0x5B ≤ c ∧ c ≤ 0x5F) ∨ (0x69 ≤ c ∧ c ≤ 0x6F)
      ((s.fibre l).inFlight = false →
        (soft → exec (.trap h m) s = .next (s.trapped l h (BitVec.ofNat 7 c) 0)) ∧
        (¬ soft → exec (.trap h m) s = .next (s.trapped l h 0x09 (BitVec.ofNat 64 c))) ∧
        exec (.sysc h m) s = .next (s.trapped l h 0x0A (BitVec.ofNat 64 c)) ∧
        exec (.bkpt h m) s = .next (s.trapped l h 0x0B (BitVec.ofNat 64 c))) ∧
      ((s.fibre l).inFlight = true → exec (.trap h m) s = .next s ∧ exec (.sysc h m) s = .next s ∧ exec (.bkpt h m) s = .next s) ∧
      ∀ w, readHead w = h → (s.fibre l).inFlight = false → exec (.unassignedOpcode w) s = .next (s.trapped l h 0x01 (BitVec.ofNat 64 (opcodeOf w)))) ∧
  (
    ∀ (s : State) (h : Head) (m : SystemMod) (l : Lane), s.Alone h l → (s.fibre l).inFlight = false →
      let f := s.fibre l
      let r := f.copy f.level
      ∀ p ∈ ([(Instr.rett, r.epc), (Instr.rettNext, nextPc r.epc)] : List ((Head → SystemMod → Instr) × Dword)),
        (r.nest = false → exec (p.1 h m) s = .next (s.trapped l h 0x0F ((f.tstat f.level).zeroExtend 64))) ∧
        (r.nest = true → pcSlotOk p.2 = false → exec (p.1 h m) s = .next (s.trapped l h 0x05 p.2)) ∧
        (r.nest = true → pcSlotOk p.2 = true → ∃ t, exec (p.1 h m) s = .next t ∧
          t.fibre? l = some ({ ({ f with pend := [], wait := none, hold := none, gathered := false, fresh := false, turn := none, stepDue := false }.setCopy f.level
            { r with nest := false }) with level := r.ppriv }.movedTo p.2 s.now h.stall) ∧
          (∀ k, k ≠ l → t.fibre? k = s.fibre? k) ∧
          t.teams.map (fun x => { x with fibres := [] }) =
            s.teams.map (fun x => if x.tid = l.tid then { x with fibres := [], waitSince := none } else { x with fibres := [] }) ∧
          { t with teams := [] } = { s with teams := [] }))

/-- R153, R23, R49, R327, R326: RDS: the value each special register has at issue, in a register or a pair, and the last-result file; a
register index from 0x40 up raises PRIV_SREG. -/
def Obligations.RdsResults : Prop :=
  ∀ (s : State) (h : Head) (m : SpecialMod),
    let team := fun (l : Lane) => s.team l.tid
    let core := fun (l : Lane) => s.coreAt (team l).coreKey
    let own := fun (l : Lane) => (s.fibre l).copy (s.fibre l).level
    let words : List (Nat × (Lane → Nat)) :=
      [(0x00, fun l => l.fid), (0x01, fun l => l.fid / 32), (0x02, fun l => l.fid % 32), (0x03, fun l => (team l).index.toNat),
       (0x04, fun l => ((team l).core + 2 ^ 16 * (team l).pkg) % 2 ^ 32), (0x06, fun l => (s.fibre l).regs.length),
       (0x07, fun l => (team l).rmode.toNat), (0x08, fun l => (team l).fflags.toNat), (0x09, fun l => (core l).srseed.toNat),
       (0x0A, fun l => (core l).waitlim.toNat), (0x0B, fun l => (core l).spawnlim.toNat), (0x0D, fun l => (own l).cause.toNat),
       (0x0F, fun l => (s.fibre l).level.num + 4 * (own l).ppriv.num + (if (own l).nest then 16 else 0))]
    let dwords : List (Nat × (Lane → Nat)) :=
      [(0x05, fun l => s.now - (s.pkgAt (team l).pkg).clkBase), (0x0C, fun l => (own l).epc.toNat), (0x0E, fun l => (own l).val.toNat)]
    (s.Issued →
      (∀ p ∈ words, m.sreg.toNat = p.1 → ∃ t, exec (.rds h m) s = .next t ∧ t.seq = s.seq + 1 ∧
        RegisterEffect s { t with seq := s.seq } h 0 (fun l => s.wordWrite l h.dst (BitVec.ofNat 32 (p.2 l)))) ∧
      (∀ p ∈ dwords, m.sreg.toNat = p.1 → ∃ t, exec (.rds h m) s = .next t ∧ t.seq = s.seq + 1 ∧
        RegisterEffect s { t with seq := s.seq } h 0 (fun l => pairWrite h.dst (BitVec.ofNat 64 (p.2 l)))) ∧
      (∀ n, n < 8 → m.sreg.toNat = 0x18 + n → ∃ t, exec (.rds h m) s = .next t ∧ t.seq = s.seq + 1 ∧
        RegisterEffect s { t with seq := s.seq } h 0 (fun l => s.wordWrite l h.dst (BitVec.ofNat 32
          (if (team l).card = true ∧ n = (team l).tlevel then 0 else (((team l).levels[n]?).map Lvl.extent).getD 0)))) ∧
      (∀ n, n < 8 → m.sreg.toNat = 0x10 + n → ∃ t, exec (.rds h m) s = .next t ∧ t.seq = s.seq + 1 ∧
        RegisterEffect s { t with seq := s.seq } h 0 (fun l => s.wordWrite l h.dst (BitVec.ofNat 32
          (if (team l).levels.length ≤ n then 0
           else if n < (team l).tlevel then
             let d := l.fid / (((team l).levels.take n).map Lvl.extent).prod
             if n + 1 = (team l).tlevel then d else d % (((team l).levels[n]?).map Lvl.extent).getD 1
           else ((team l).upper.getD (n - (team l).tlevel) 0).toNat))))) ∧
    ∀ l, s.Alone h l → (s.fibre l).inFlight = false → 0x40 ≤ m.sreg.toNat →
      exec (.rds h m) s = .next { s.trapped l h 0x60 (BitVec.ofNat 64 m.sreg.toNat) with seq := (s.trapped l h 0x60 (BitVec.ofNat 64 m.sreg.toNat)).seq + 1 }

/-- R337, R326, R328: MFS and MTS: the register read, into a register or a pair, without the last-result file; the value written by a level
that may write it, and no effect where the level may only read it; PRIV_INSN for MFS at user privilege and PRIV_SREG below the register's
level. -/
def Obligations.MoveSpecialResults : Prop :=
  ∀ (s : State) (h : Head) (m : SystemMod),
    let i := m.sreg.toNat
    let wide := sregWide i
    let may := fun (l : Lane) => i < 0x40 ∨ (sregReader i).num ≤ (s.fibre l).level.num
    (s.Issued → (∀ l ∈ s.guarded h, (s.fibre l).level ≠ .user ∧ may l) →
      ∃ t, exec (.mfs h m) s = .next t ∧ t.seq = s.seq + 1 ∧ RegisterEffect s { t with seq := s.seq } h 0 (fun l =>
        if wide then { regs := [(regName h.dst.file h.dst.idx, Dword.lo (BitVec.ofNat 64 (s.readSreg l i))),
          (regName h.dst.file (h.dst.idx + 1), Dword.hi (BitVec.ofNat 64 (s.readSreg l i)))] }
        else { regs := [(regName h.dst.file h.dst.idx, BitVec.ofNat 32 (s.readSreg l i))] })) ∧
    ∀ l, s.Alone h l →
      let v := if wide then (s.readPair l .sa h.sa).toNat else (s.readReg l .sa h.sa).toNat
      let goesOn := fun (t : State) => t.modFibre l (fun f => f.movedTo (nextPc (s.fibre l).pc) t.now h.stall)
      (may l → 0x40 ≤ i → sregWriter i (s.fibre l).level = false → exec (.mts h m) s = .next (goesOn s)) ∧
      (may l → (i < 0x40 ∨ sregWriter i (s.fibre l).level = true) →
        exec (.mts h m) s = .next (goesOn (s.writeSreg l i v))) ∧
      ((s.fibre l).inFlight = false → ¬ may l → exec (.mts h m) s = .next (s.trapped l h 0x60 (BitVec.ofNat 64 i))) ∧
      ((s.fibre l).inFlight = false → (s.fibre l).level = .user → ∃ t, exec (.mfs h m) s = .next t ∧
        { t with seq := s.seq } = { s.trapped l h 0x61 0x384 with seq := s.seq })

/-- R328, R354, R378, R9: what a special register reads as after a write at monitor privilege: the written value cut to the register's
fields and limits; and a write of one of them leaves every other of them as it was. -/
def Obligations.SpecialRegistersReadBack : Prop :=
  let keep := fun (hi lo v : Nat) => v % 2 ^ (hi + 1) / 2 ^ lo * 2 ^ lo
  let table : List (Nat × (Nat → Nat)) :=
    [(0x08, fun v => v % 2 ^ 5), (0x09, fun v => if v % 2 ^ 32 = 0 then 1 else v % 2 ^ 32), (0x0C, fun v => v % 2 ^ 64), (0x40, fun v => v % 2 ^ 64),
     (0x44, fun v => v % 2 ^ 64), (0x45, fun v => v % 2 ^ 7), (0x46, fun v => v % 2 ^ 64), (0x48, fun v => v % 2 ^ 64), (0x49, fun v => v % 2 ^ 64), (0x4A, fun v => v % 2 ^ 64),
     (0x54, fun v => if 1 ≤ v % 2 ^ 32 ∧ v % 2 ^ 32 < 1024 then 1024 else v % 2 ^ 32),
     (0x55, fun v => max 256 (min 65536 (v % 2 ^ 32))), (0x56, fun v => v % 2 ^ 5), (0x57, keep 63 3),
     (0x58, fun v => max 1650 (min 13200 (v % 2 ^ 32))), (0x5B, keep 63 22), (0x65, keep 51 16), (0x66, fun v => v % 2 ^ 9),
     (0x67, fun v => v % 2 ^ 32), (0x68, keep 51 12), (0x6C, keep 51 12), (0x87, fun v => max 100 (v % 2 ^ 16)),
     (0x8B, fun v => if v % 2 ^ 16 = 0 then 1 else v % 2 ^ 16), (0x8D, keep 55 8), (0x8F, keep 63 7)]
  ∀ (s : State) (l : Lane), (s.fibre? l).isSome = true → (s.fibre l).level = .monitor → ∀ p ∈ table, ∀ v,
    (s.writeSreg l p.1 v).readSreg l p.1 = p.2 v ∧
      ∀ q ∈ table, q.1 ≠ p.1 → (s.writeSreg l p.1 v).readSreg l q.1 = s.readSreg l q.1

/-- R332, R333: EVPOP takes the oldest record of its level's queue into a quad, the fields in their places, or writes all ones and
zeros where the queue is empty; WFE goes on where the queue holds a record and waits where it does not. -/
def Obligations.EventQueueResults : Prop :=
  ∀ (s : State) (h : Head) (m : SystemMod) (l : Lane), s.Alone h l →
    let t := s.team l.tid
    let monitor := (s.fibre l).level = .monitor
    let queue := if monitor then (s.pkgAt t.pkg).events else (s.partAt t.partKey).events
    let quad := fun (a b c d : Word) => ({ regs :=
      [(regName h.dst.file h.dst.idx, a), (regName h.dst.file (h.dst.idx + 1), b),
       (regName h.dst.file (h.dst.idx + 2), c), (regName h.dst.file (h.dst.idx + 3), d)] } : LaneWrite)
    let without := fun (r : List Event) =>
      if monitor then s.modPkg t.pkg (fun k => { k with events := r }) else s.modPart t.partKey (fun x => { x with events := r })
    ((s.fibre l).level ≠ .user → queue = [] → ∃ u, exec (.evpop h m) s = .next u ∧ u.seq = s.seq + 1 ∧
      RegisterEffect s { u with seq := s.seq } h 0 (fun _ => quad 0xFFFFFFFF 0 0 0)) ∧
    ((s.fibre l).level ≠ .user → ∀ e r, queue = e :: r → ∃ u, exec (.evpop h m) s = .next u ∧ u.seq = s.seq + 1 ∧
      RegisterEffect (without r) { u with seq := s.seq } h 0 (fun _ => quad
        (BitVec.ofNat 32 (e.cause.toNat + 2 ^ 8 * (e.core % 2 ^ 9) + 2 ^ 17 * (e.slot % 2 ^ 5) + 2 ^ 22 * (e.fid % 2 ^ 10)))
        e.aux e.value.lo e.value.hi)) ∧
    ((s.fibre l).level ≠ .user → (s.fibre l).wait = none → queue ≠ [] →
      ∃ u, exec (.wfe h m) s = .next u ∧ RegisterEffect s u h 0 (fun _ => { })) ∧
    ((s.fibre l).level ≠ .user → (s.fibre l).wait = none → queue = [] → exec (.wfe h m) s = .next (s.modFibre l (fun f =>
      { f with wait := some { on := .wfe, since := s.now }, waitAt := 0, turn := none }))) ∧
    ((s.fibre l).level = .user → (s.fibre l).inFlight = false →
      exec (.wfe h m) s = .next (s.trapped l h 0x61 0x386) ∧ ∃ u, exec (.evpop h m) s = .next u ∧
        { u with seq := s.seq } = { s.trapped l h 0x61 0x385 with seq := s.seq })

/-- R326, R339, R340, R343: ICINV drops the lines of the partition that the range meets from every code cache and nothing else; XINV drops
the pages from the package's translation caches, and goes on where no tile holds one; HALTC halts the core and sends CORE_HALTED once. -/
def Obligations.InvalidateAndHaltResults : Prop :=
  ∀ (s : State) (h : Head) (m : SystemMod) (l : Lane), s.Alone h l →
    let t := s.team l.tid
    let va := s.readPair l .sa h.sa
    let n := (s.readReg l .sb h.sb).toNat
    let page := va.toNat / 2 ^ 16 % 2 ^ 44
    let goesOn := fun (u : State) => u.modFibre l (fun f => f.movedTo (nextPc (s.fibre l).pc) u.now h.stall)
    (va.toNat + n ≤ 2 ^ 56 → ∃ u, exec (.icinv h m) s = .next u ∧
      (∀ k, (u.coreAt k).icache = (s.coreAt k).icache.filter (fun e => !(decide (e.1 / 2 = t.partKey) &&
        (decide (n ≠ 0) && decide (e.2.1 < va.toNat + n) && decide (va.toNat < e.2.1 + 64)))) ∧
        { u.coreAt k with icache := [] } = { s.coreAt k with icache := [] }) ∧
      { u with cores := [] } = { goesOn s with cores := [] }) ∧
    ((s.fibre l).level ≠ .user → (s.fibre l).hold = none → va.toNat % 2 ^ 16 = 0 → va.toNat < 2 ^ 60 → 0 < n → n ≤ 2 ^ 20 →
      (∀ kp ∈ s.pkgs, ∀ c ∈ kp.2.clasps, c.held = true → c.sp = t.partKey → ¬ (page ≤ pageOf (c.line * 128) ∧ pageOf (c.line * 128) < page + n)) →
      (∀ q ∈ s.reqs, (q.kind = .tileLoad ∨ q.kind = .tileStore) → q.moved = false → ∀ x ∈ q.segs, x.1 = t.partKey →
        ¬ (65536 * page < x.2.1 + x.2.2 ∧ x.2.1 < 65536 * page + 65536 * n)) →
        exec (.xinv h m) s = .next (goesOn (s.modPkg t.pkg (fun k => { k with tlb := k.tlb.filter (fun c =>
          !(decide (c.part = t.partKey) && decide (page % 2 ^ 36 ≤ c.page) && decide (c.page < page % 2 ^ 36 + n))) })))) ∧
    ((s.fibre l).level = .monitor → (s.coreAt t.coreKey).halted = false →
      exec (.haltc h m) s = .next (goesOn ((s.modCore t.coreKey (fun c => { c with halted := true })).monitorEvent t.pkg
        { cause := 0x64, core := t.core } t.part))) ∧
    ((s.fibre l).level = .monitor → (s.coreAt t.coreKey).halted = true → exec (.haltc h m) s = .next (goesOn s)) ∧
    ((s.fibre l).level ≠ .monitor → (s.fibre l).inFlight = false → exec (.haltc h m) s = .next (s.trapped l h 0x61 0x38C))

/-- R341, R342, R349: JKSAVE of a resident team begins its save, the fibre waiting for the result; it answers at once where there is no such
team or no free frame; JKLOAD of a held team makes it ready to restore, of an abandoned one lets it run where it stands, or saves it with its partition, and answers
0, and all ones where there is none. -/
def Obligations.JacketInstructionResults : Prop :=
  ∀ (s : State) (h : Head) (m : SystemMod) (l : Lane), s.Alone h l → (s.fibre l).level ≠ .user → (s.fibre l).hold = none →
    let t := s.team l.tid
    let a := (s.readReg l .sa h.sa).toNat
    let answers := fun (i : Instr) (v : Word) => ∃ u, exec i s = .next u ∧ u.seq = s.seq + 1 ∧
      RegisterEffect s { u with seq := s.seq } h 0 (fun _ => { regs := [(regName h.dst.file h.dst.idx, v)] })
    let named := (s.residents t.coreKey).find? (fun x => (if a = 32 then x.tid = t.tid else x.slot = a) && x.partKey = t.partKey &&
      x.res = .resident)
    (a ≤ 32 → named = none → answers (.jksave h m) 0xFFFFFFFF) ∧
    (a ≤ 32 → ∀ x, named = some x → 64 ≤ (s.framesOf t.coreKey t.partKey).length → answers (.jksave h m) 0xFFFFFFFE) ∧
    (a ≤ 32 → ∀ x, named = some x → (s.framesOf t.coreKey t.partKey).length < 64 → ∃ u, exec (.jksave h m) s = .next u ∧
      u.seq = s.seq + 1 ∧ { u with seq := s.seq } = (s.modTeam x.tid (fun x => { x with res := .saving 5 })).modFibre l (fun f =>
        { f with hold := some (.jksave x.tid h.dst none) })) ∧
    (a < 96 → s.jkTarget t a = none → answers (.jkload h m) 0xFFFFFFFF) ∧
    ((a < 96 ∨ (128 ≤ a ∧ a < 160)) → ∀ x, s.jkTarget t a = some x →
      ∃ u, exec (.jkload h m) s = .next u ∧
        RegisterEffect (s.modTeam x.tid (fun y => match y.res with
          | .jacketed n _ _ => { y with res := .jacketed n false true, jkHeld := false, waitSince := none }
          | _ => if (s.partAt t.partKey).phase = .saving then { y with res := .saving 4 } else { y with
              res := .resident, waitSince := none, fibres := y.fibres.map (fun f => { f with stopped := none, readySince := max f.readyAt s.now }) }))
          { u with seq := s.seq } h 0 (fun _ => { regs := [(regName h.dst.file h.dst.idx, 0)] }))

/-- R44: a collective at a PC that not every enrolled fibre of the band has reached: the lanes of the signature are gathered there, their
PCs unmoved and their suspensions over, and nothing else changes. -/
def Obligations.CollectiveWaitsForItsBand : Prop :=
  ∀ (s : State) (h : Head) (m : SyncMod) (b : Nat), s.Issued → (∀ i ∈ s.sig.fids, i / 32 = b) →
    (∃ f ∈ (s.team s.sig.tid).fibres, f.fid / 32 = b ∧ f.wait = none ∧ f.fid ∉ s.sig.fids ∧
      ((s.fibre ⟨s.sig.tid, f.fid⟩).gathered = false ∨ ∀ i ∈ s.sig.fids, (s.fibre ⟨s.sig.tid, f.fid⟩).pc ≠ (s.fibre ⟨s.sig.tid, i⟩).pc)) →
    ∀ i ∈ [Instr.voteAny h m, .voteAll h m, .voteBallot h m, .voteCount h m, .shfl h m, .breduce h m, .bscan h m, .matchLead h m,
      .matchUni h m, .bsync h m, .bsyncMask h m],
      ∃ t, exec i s = .next t ∧
        (∀ l ∈ s.sigLanes, t.fibre? l = some { s.fibre l with gathered := true, wait := none }) ∧
        (∀ l, l ∉ s.sigLanes → t.fibre? l = s.fibre? l) ∧
        t.teams.map (fun x => { x with fibres := [] }) = s.teams.map (fun x => { x with fibres := [] }) ∧
        { t with teams := [] } = { s with teams := [] }

/-- R44, R158 to R164: a collective that a whole band has reached executes once for the band: every contributing lane receives the vote,
the shuffle, the combination, the scan or the match over the contributing lanes of its segment, or the mask of the participants, from
sources read before any is written; and every participant goes on. -/
def Obligations.CollectiveResults : Prop :=
  ∀ (s : State) (h : Head) (m : SyncMod) (b : Nat), s.Whole b → m.imm24.toNat / 2 ^ 8 % 2 ^ 3 ≤ 4 →
    let parts := s.bandLanes b
    let num := fun (l : Lane) => l.fid % 32
    let width := 32 / 2 ^ (m.imm24.toNat / 2 ^ 8 % 2 ^ 3)
    let segment := fun (l : Lane) => parts.filter (fun k => s.guard h k && decide (num k / width = num l / width))
    let a := fun (k : Lane) => s.readReg k .sa h.sa
    let holds := fun (k : Lane) => s.readPred k .sa h.sa.pred
    let mask := fun (ls : List Lane) => BitVec.ofNat 32 (ls.map (fun k => 2 ^ num k)).sum
    let reg := fun (v : Word) => ({ regs := [(regName h.dst.file h.dst.idx, v)] } : LaneWrite)
    let gives := fun (i : Instr) (w : Lane → LaneWrite) => ∃ t, exec i s = .next t ∧
      LaneEffect s t parts (s.guard h) h.stall 0 w (fun l => nextPc (s.fibre l).pc)
    gives (.voteAny h m) (fun l => predWrite h.dst.pred ((segment l).any holds)) ∧
    gives (.voteAll h m) (fun l => predWrite h.dst.pred ((segment l).all holds)) ∧
    gives (.voteBallot h m) (fun l => reg (mask ((segment l).filter holds))) ∧
    gives (.voteCount h m) (fun l => reg (BitVec.ofNat 32 ((segment l).filter holds).length)) ∧
    (m.subop.toNat < 4 → ∃ v : Lane → Word, gives (.shfl h m) (fun l => reg (v l)) ∧ ∀ l ∈ parts, s.guard h l = true →
      let r := num l % width
      let u := if m.optype.getLsbD 0 then m.imm24.toNat % 32 else (s.readReg l .sb h.sb).toNat % 32
      let fill := m.imm24.getLsbD 11
      let c := s.readReg l .sc h.sc
      let place := match m.subop.toNat with
        | 0 => u % width
        | 1 => (r + 32 - u) % width
        | 2 => (r + u) % width
        | _ => r ^^^ (u % width)
      let out := (m.subop = 1 ∧ r < u) ∨ (m.subop = 2 ∧ width - 1 < r + u)
      (out ∧ fill = true → v l = c) ∧
      (¬ (out ∧ fill = true) → ∀ k ∈ parts, s.guard h k = true → num k = num l - r + place → v l = a k) ∧
      (¬ (out ∧ fill = true) → (∀ k ∈ parts, s.guard h k = true → num k ≠ num l - r + place) → v l = if fill then c else a l)) ∧
    (m.subop.toNat < 6 → ∃ v : Lane → Word, gives (.breduce h m) (fun l => reg (v l)) ∧ ∀ l ∈ parts, s.guard h l = true →
      Combined m.subop.toNat (m.optype.getLsbD 0) ((segment l).map a) (v l)) ∧
    (m.subop.toNat < 6 → ∃ v : Lane → Word, gives (.bscan h m) (fun l => reg (v l)) ∧ ∀ l ∈ parts, s.guard h l = true →
      Combined m.subop.toNat (m.optype.getLsbD 0) (((segment l).filter (fun k =>
        if m.optype.getLsbD 1 then decide (num k < num l) else decide (num k ≤ num l))).map a) (v l)) ∧
    (let key := fun (k : Lane) => if m.optype.getLsbD 0 then s.readPair k .sa h.sa else (a k).zeroExtend 64
     let same := fun (l : Lane) => (segment l).filter (fun k => key k = key l)
     (∃ lead : Lane → Nat, gives (.matchLead h m) (fun l => reg (BitVec.ofNat 32 (lead l + 2 ^ 5 * (same l).length +
        2 ^ 11 * ((same l).filter (fun k => num k < num l)).length))) ∧
      ∀ l ∈ parts, s.guard h l = true → (∃ k ∈ same l, num k = lead l) ∧ ∀ k ∈ same l, lead l ≤ num k) ∧
     gives (.matchUni h m) (fun l => predWrite h.dst.pred ((segment l).all (fun k => key k = key l)))) ∧
    gives (.bsync h m) (fun _ => { }) ∧
    gives (.bsyncMask h m) (fun _ => reg (mask parts))

/-- R193, R199, R353, R360: the checks of a global access in their order, each with its cause and $TVAL: an undeclared level, high address
bits, natural alignment, the range registers for each kind of access; then, for a load or an atomic, the page for each kind, and the watched
word; a store's watched word after its range. A release with a recorded store fault takes STORE_DEFERRED before any of them (that it comes
first is the model's choice, log 48). -/
def Obligations.AccessTraps : Prop :=
  ∀ (s : State) (h : Head) (m : GlobalMod) (a : AtomicMod) (l : Lane), s.Alone h l → (s.fibre l).inFlight = false →
    (s.fibre l).wait = none → (s.fibre l).hold = none → (s.fibre l).engineFault = none →
    (∀ q ∈ s.reqs, ¬ (q.tid = l.tid ∧ q.fid = l.fid)) →
    let t := s.team l.tid
    let forms : List (Instr × Ord × BitVec 3 × Nat × Dword × List Acc × Bool) :=
      [(.ld h m, .rlx, m.scope, m.size.bytes, s.readPair l .sa h.sa + m.off.signExtend 64, [.read], true),
       (.st h m, m.ord, m.scope, m.size.bytes, s.readPair l .sa h.sa + m.off.signExtend 64, [.write], false),
       (.atom h a, a.ord, a.scope, a.size.bytes, s.readPair l .sa h.sa + a.off.signExtend 64, [.read, .write], true),
       (.cas h a, a.ord, a.scope, a.size.bytes, s.readPair l .sa h.sa + a.off.signExtend 64, [.read, .write], true),
       (.red h a, a.ord, a.scope, a.size.bytes, s.readPair l .sa h.sa + a.off.signExtend 64, [.write], true)]
    ∀ x ∈ forms,
      let i := x.1
      let releases := x.2.1 = .rel ∨ x.2.1 = .ar
      let lv := x.2.2.1.toNat
      let n := x.2.2.2.1
      let va := x.2.2.2.2.1
      let kinds := x.2.2.2.2.2.1
      let range := fun (k : Acc) => s.rangeCheck t.partKey (s.fibre l).level k va.toNat
      let page := fun (k : Acc) => s.preciseCheck t.partKey (s.fibre l).level k va.toNat
      (∀ v, releases → (s.fibre l).storeFault = some v → exec i s = .next (s.trapped l h 0x16 v)) ∧
      ((s.fibre l).storeFault = none ∨ ¬ releases →
        (t.levels[lv]? = none → exec i s = .next (s.trapped l h 0x1B (BitVec.ofNat 64 lv))) ∧
        (t.levels[lv]? ≠ none → 2 ^ 56 ≤ va.toNat → exec i s = .next (s.trapped l h 0x10 va)) ∧
        (t.levels[lv]? ≠ none → va.toNat < 2 ^ 56 → va.toNat % n ≠ 0 → exec i s = .next (s.trapped l h 0x17 va)) ∧
        (t.levels[lv]? ≠ none → va.toNat < 2 ^ 56 → va.toNat % n = 0 →
          (∀ before k after c, kinds = before ++ k :: after → (∀ j ∈ before, ∃ ia, range j = .ok ia) → range k = .error c →
            exec i s = .next (s.trapped l h c va)) ∧
          (∀ ia, (∀ k ∈ kinds, range k = .ok ia) → s.blockAt t.partKey (s.fibre l).level (kinds.headD .read) ia = none →
            (x.2.2.2.2.2.2 = true → ∀ before k after c, kinds = before ++ k :: after → (∀ j ∈ before, page j = .ok ia) → page k = .error c →
              exec i s = .next (s.trapped l h c va)) ∧
            ((x.2.2.2.2.2.2 = true → ∀ k ∈ kinds, page k = .ok ia) → t.watched (s.fibre l) kinds va.toNat n = true →
              exec i s = .next (s.trapped l h 0x0D va)))))

/-- R197, R192, R291, R403: LD and ST: a load that passes its checks goes on with a pending access that names its bytes, its destination
and its order, or waits at the instruction where its home is another package; with the bytes answered it writes them, zero- or
sign-extended or word by word; a store goes on with one entry more in the write queue, its bytes those of the data operand, lowest
first. Nothing else changes: no byte of memory or of a cache. -/
def Obligations.LoadStoreResults : Prop :=
  ∀ (s : State) (h : Head) (m : GlobalMod) (l : Lane), s.Alone h l →
    let t := s.team l.tid
    let n := m.size.bytes
    let va := s.readPair l .sa h.sa + m.off.signExtend 64
    (∀ pt ia, s.Calm l → s.Passes l m.scope.toNat [.read] va n pt ia → s.blockAt t.partKey (s.fibre l).level .read ia = none →
      let q := { s.access l .load va ia n pt with dst := some h.dst, sx := m.sx, acq := m.ord.acquires, evict := m.evict }
      (homePkg ia = corePkg t.coreKey → ∃ u, exec (.ld h m) s = .next u ∧ MovedOn s (s.withReq q) u h l) ∧
      (homePkg ia ≠ corePkg t.coreKey → exec (.ld h m) s = .next ((s.withReq q).modFibre l (fun f =>
        { f with wait := some { on := .parked s.seq, since := s.now }, waitAt := va })))) ∧
    (∀ bs met since, (s.fibre l).wait = some ⟨.answer bs, met, since⟩ → m.ord.acquires = false →
      let v := ofBytes bs
      let words : List Word := if n < 4 then [if m.sx = true ∧ 2 ^ (8 * n - 1) ≤ v % 2 ^ (8 * n) then
          BitVec.ofInt 32 ((v % 2 ^ (8 * n) : Nat) - 2 ^ (8 * n) : Int)
        else BitVec.ofNat 32 (if m.sx then v % 2 ^ (8 * n) else v)]
        else (List.range (n / 4)).map (fun i => BitVec.ofNat 32 (v / 2 ^ (32 * i)))
      ∃ u, exec (.ld h m) s = .next u ∧ RegisterEffect (s.modFibre l (fun f => { f with wait := none })) u h 0 (fun _ =>
        { regs := words.zipIdx.map (fun p => (regName h.dst.file (h.dst.idx + p.2), p.1)) })) ∧
    (∀ pt ia, s.Calm l → (t.levels[m.scope.toNat]?).map Lvl.pt = some pt → va.toNat < 2 ^ 56 → va.toNat % n = 0 →
      s.rangeCheck t.partKey (s.fibre l).level .write va.toNat = .ok ia → t.watched (s.fibre l) [.write] va.toNat n = false →
      s.blockAt t.partKey (s.fibre l).level .write ia = none → (m.ord.releases = true → s.releaseReady l s.seq pt = true) →
      let data := if n ≤ 4 then (s.readReg l .sb h.sb).toNat else if n = 8 then (s.readPair l .sb h.sb).toNat else (s.readQuad l .sb h.sb).toNat
      let e : WEntry := { id := s.seq, core := t.coreKey, tid := l.tid, fid := l.fid, order := s.seq, part := t.partKey
                          sp := s.space t.partKey ia, ia := ia, pt := pt, va := va, level := (s.fibre l).level
                          bytes := (List.range n).map (fun i => BitVec.ofNat 8 (data / 2 ^ (8 * i))), evict := m.evict }
      exec (.st h m) s = .next (s.onward { s with seq := s.seq + 1, wq := s.wq ++ [e] } l h))

/-- R204, R205, R207, R25, R26, R27: the scratchpad, for a fibre with no acquire pending (R294): LDS, STS and LDN move the bytes at the offset,
lowest first; LEAFWT goes on and LEAFTST answers true where no leaf of the range is engine-owned; else LDS, STS and LEAFWT wait
there, and LEAFTST answers false; LDN waits while the neighbour is in its jacket; a range past the leaves takes LEAF_RANGE with the first
offset outside, a misaligned one MISALIGNED. -/
def Obligations.ScratchpadResults : Prop :=
  ∀ (s : State) (h : Head) (m : ScratchMod) (l : Lane), s.Alone h l → (s.fibre l).wait = none → (s.fibre l).engineFault = none →
    s.acquiring l = false →
    let t := s.team l.tid
    let off := (s.readReg l .sa h.sa + m.off.signExtend 32).toNat
    let n := m.size.bytes
    let k := (s.readReg l .sb h.sb).toNat
    let loads := fun (i : Instr) (from_ : Team) => ∃ u, exec i s = .next u ∧ RegisterEffect s u h 0 (fun _ =>
      { regs := (loadWords n m.sx (ofBytes (from_.leafBytes off n))).zipIdx.map (fun p => (regName h.dst.file (h.dst.idx + p.2), p.1)) })
    let waits := fun (n : Nat) => s.modFibre l (fun f =>
      { f with wait := some { on := .leaf (off / 2048) ((off + n - 1) / 2048 + 1), since := s.now }, waitAt := BitVec.ofNat 64 off, turn := none })
    let data := if n ≤ 4 then (s.readReg l .sb h.sb).toNat else if n = 8 then (s.readPair l .sb h.sb).toNat else (s.readQuad l .sb h.sb).toNat
    (off % n = 0 → t.leafFree off n → loads (.lds h m) t ∧ exec (.sts h m) s = .next (s.onward ((s.resume l).modTeam l.tid (fun t =>
      { t with scratch := Memory.write t.scratch off ((List.range n).map (fun i => BitVec.ofNat 8 (data / 2 ^ (8 * i)))) })) l h)) ∧
    (off % n = 0 → off + n ≤ 2048 * t.leaves → ¬ t.leafFree off n →
      exec (.lds h m) s = .next (waits n) ∧ exec (.sts h m) s = .next (waits n)) ∧
    (off % n ≠ 0 → off + n ≤ 2048 * t.leaves → (s.fibre l).inFlight = false → ∀ i ∈ [Instr.lds h m, .sts h m],
      exec i s = .next (s.trapped l h 0x17 (BitVec.ofNat 64 off))) ∧
    (2048 * t.leaves < off + n → (s.fibre l).inFlight = false → ∀ i ∈ [Instr.lds h m, .sts h m],
      exec i s = .next (s.trapped l h 0x1A (BitVec.ofNat 64 (max off (2048 * t.leaves))))) ∧
    (t.levels.any (fun x => x.dom = 4) = false → (s.fibre l).inFlight = false → exec (.ldn h m) s = .next (s.trapped l h 0x1B 8)) ∧
    (t.levels.any (fun x => x.dom = 4) = true → ∀ y z, (if t.core % 4 = m.cidx.toNat then some t.tid else t.neighbours.getD m.cidx.toNat none) = some y →
      s.team? y = some z → z.inJacket = false → off % n = 0 → z.leafFree off n → loads (.ldn h m) z) ∧
    (t.levels.any (fun x => x.dom = 4) = true → ∀ y z, (if t.core % 4 = m.cidx.toNat then some t.tid else t.neighbours.getD m.cidx.toNat none) = some y →
      s.team? y = some z → z.inJacket = true → exec (.ldn h m) s = .next (s.modFibre l (fun f =>
        { f with wait := some { on := .ldn y, since := s.now }, waitAt := 0, turn := none }))) ∧
    (t.leafFree off k → exec (.leafwt h m) s = .next (s.onward (s.resume l) l h)) ∧
    (0 < k → off + k ≤ 2048 * t.leaves → ¬ t.leafFree off k → exec (.leafwt h m) s = .next (waits k)) ∧
    (k = 0 ∨ off + k ≤ 2048 * t.leaves → ∃ b u, (b = true ↔ t.leafFree off k) ∧ exec (.leaftst h m) s = .next u ∧
      RegisterEffect s u h 0 (fun _ => predWrite h.dst.pred b)) ∧
    (0 < k → 2048 * t.leaves < off + k → (s.fibre l).inFlight = false → ∀ i ∈ [Instr.leafwt h m, .leaftst h m],
      exec i s = .next (s.trapped l h 0x1A (BitVec.ofNat 64 (max off (2048 * t.leaves)))))

/-- R219, R296, R257: ATOM, CAS, RED and CTRADD that pass their checks go on with a pending access that carries the operation, its operands,
its destination (none for RED and CTRADD) and its order; nothing in memory changes until its home takes the step; and with the old value
answered by another package ATOM and CAS write it. -/
def Obligations.AtomicInstructionResults : Prop :=
  ∀ (s : State) (h : Head) (m : AtomicMod) (c : EngineMod) (l : Lane) (pt : Point) (ia : Nat), s.Alone h l →
    let t := s.team l.tid
    let forms : List (Instr × Ord × BitVec 3 × Nat × Dword × List Acc × Option Field × Aop × Bool × Bool) :=
      [(.atom h m, m.ord, m.scope, m.size.bytes, s.readPair l .sa h.sa + m.off.signExtend 64, [.read, .write], some h.dst, m.aop, m.sgn, false),
       (.cas h m, m.ord, m.scope, m.size.bytes, s.readPair l .sa h.sa + m.off.signExtend 64, [.read, .write], some h.dst, m.aop, m.sgn, true),
       (.red h m, m.ord, m.scope, m.size.bytes, s.readPair l .sa h.sa + m.off.signExtend 64, [.write], none, m.aop, m.sgn, false),
       (.ctradd h c, c.ord, c.scope, 8, s.readPair l .sa h.sa, [.read, .write], none, .add, false, false)]
    (∀ x ∈ forms, s.Calm l → ∀ n va ks dst, x.2.2.2.1 = n → x.2.2.2.2.1 = va → x.2.2.2.2.2.1 = ks → x.2.2.2.2.2.2.1 = dst →
      s.Passes l x.2.2.1.toNat ks va n pt ia → (x.2.1 = .rlx ∨ x.2.1 = .acq) →
      let data := fun (pos : Pos) (f : Field) => if n ≤ 4 then (s.readReg l pos f).toNat % 2 ^ (8 * n) else if n = 8 then (s.readPair l pos f).toNat
        else (s.readQuad l pos f).toNat
      let q := { s.access l .atomic va ia n pt with
        dst := dst, acq := x.2.1.acquires, aop := x.2.2.2.2.2.2.2.1, sgn := x.2.2.2.2.2.2.2.2.1, cas := x.2.2.2.2.2.2.2.2.2,
        b := BitVec.ofNat 128 (data .sb h.sb), c := if x.2.2.2.2.2.2.2.2.2 then BitVec.ofNat 128 (data .sc h.sc) else 0 }
      (homePkg ia = corePkg t.coreKey → ∃ u, exec x.1 s = .next u ∧ MovedOn s (s.withReq q) u h l) ∧
      (homePkg ia ≠ corePkg t.coreKey → exec x.1 s = .next ((s.withReq q).modFibre l (fun f =>
        { f with wait := some { on := .parked s.seq, since := s.now }, waitAt := va })))) ∧
    ∀ bs met since, (s.fibre l).wait = some ⟨.answer bs, met, since⟩ → m.ord.acquires = false → ∀ i ∈ [Instr.atom h m, .cas h m],
      ∃ u, exec i s = .next u ∧ RegisterEffect (s.modFibre l (fun f => { f with wait := none })) u h 0 (fun _ =>
        { regs := (loadWords m.size.bytes false (ofBytes bs)).zipIdx.map (fun p => (regName h.dst.file (h.dst.idx + p.2), p.1)) })

/-- R220, R221: what an atomic leaves in an n-bit word: the sum modulo 2^n; the lesser or greater, signed or unsigned; the bitwise results;
the operand; the wrapping increment and decrement; and for CAS the new value only where the old one is the one expected. -/
def Obligations.AtomicOperationValues : Prop :=
  ∀ (n old b c : Nat) (sgn : Bool), 0 < n → old < 2 ^ n → b < 2 ^ n → c < 2 ^ n →
    let value := fun (x : Nat) => if sgn = true ∧ 2 ^ (n - 1) ≤ x then (x : Int) - 2 ^ n else (x : Int)
    let op := fun (a : Aop) => atomicOp a sgn false n old b c
    op .add = (old + b) % 2 ^ n ∧
    (op .min = old ∨ op .min = b) ∧ value (op .min) ≤ value old ∧ value (op .min) ≤ value b ∧
    (op .max = old ∨ op .max = b) ∧ value old ≤ value (op .max) ∧ value b ≤ value (op .max) ∧
    (∀ i, i < n → (op .and).testBit i = (old.testBit i && b.testBit i) ∧ (op .or).testBit i = (old.testBit i || b.testBit i) ∧
      (op .xor).testBit i = (old.testBit i ^^ b.testBit i)) ∧
    op .exch = b ∧
    (b ≤ old → op .incw = 0) ∧ (old < b → op .incw = old + 1) ∧
    (old = 0 ∨ b < old → op .decw = b) ∧ (0 < old → old ≤ b → op .decw + 1 = old) ∧
    ∀ a : Aop, (old = b → atomicOp a sgn true n old b c = c) ∧ (old ≠ b → atomicOp a sgn true n old b c = old)

/-- R211, R217, R218, R224, R294, R201: TLD and TST begin a tile access and hold the fibre at the instruction, and go on once its step has
been taken, a TLD with its bytes in the scratchpad; PREF goes on and changes no register and no team (an owned line that makes room
for the fetched one may record a store's fault, R198), and does nothing else where its access would trap; CWB goes on with the range written back to
its point; FENCE goes on, with the acquire's effect on the caches; and an LDB that a whole band has reached writes to each contributing lane
its own place of the block. -/
def Obligations.TileBlockAndFenceResults : Prop :=
  (∀ (s : State) (h : Head) (m : GlobalMod) (l : Lane), s.Alone h l →
    let t := s.team l.tid
    let va := s.readPair l .sa h.sa + m.off.signExtend 64
    (∀ id q, (s.fibre l).wait = none → (s.fibre l).hold = some (.tile id true) → s.reqs.find? (fun r => r.id = id) = some q →
      let gone := fun (s : State) => { s with reqs := s.reqs.filter (fun r => r.id ≠ id) }.modFibre l (fun f => { f with hold := none })
      exec (.tst h m) s = .next (s.onward (gone s) l h) ∧
      (q.acq = false → t.leafFree q.off q.data.length → exec (.tld h m) s = .next (s.onward
        ((gone (s.resume l)).modTeam l.tid (fun t => { t with scratch := Memory.write t.scratch q.off q.data })) l h))) ∧
    (∀ x pt segs, s.Calm l → (m.ord = .rlx ∨ m.ord = .acq) → tileChecks t m.scope.toNat (s.readPair l .sc h.sc) va (s.readReg l .sb h.sb).toNat = .ok (x, pt) →
      s.tileProbe t (s.fibre l) .read (x.runs va.toNat) = .ok segs → 
      (x.runs va.toNat).any (fun r => t.watched (s.fibre l) [.read] r.1 r.2) = false → s.heldRun t (s.fibre l) .read segs = none → ∃ u, exec (.tld h m) s = .next u ∧
        u.fibre? l = some { s.fibre l with hold := some (.tile s.seq false) } ∧
        u.reqs = s.reqs ++ [{ s.access l .tileLoad va (segs.headD (0, 0, 0)).2.1 (x.rows * x.rowb) pt with
          off := (s.readReg l .sb h.sb).toNat, segs := segs, acq := m.ord.acquires }]) ∧
    (∃ u, exec (.pref h m) s = .next u ∧ u.teams.map Team.outline = s.teams.map Team.outline ∧
      (∃ a b c d, u.fibre? l = some { (s.fibre l).moved s.now h.stall with storeFault := a, storesLost := b, engineFault := c, abortsLost := d }) ∧
      ∀ k, k ≠ l → ∃ a b c d, u.fibre? k = (s.fibre? k).map (fun f =>
        { f with storeFault := a, storesLost := b, engineFault := c, abortsLost := d })) ∧
    ((m.evict = .stream ∨ ∃ c, s.accessChecks t (s.fibre l) m.scope.toNat [.read] va 1 = .error c) →
      exec (.pref h m) s = .next (s.onward s l h)) ∧
    (∀ pt, s.Calm l → (t.levels[m.scope.toNat]?).map Lvl.pt = some pt →
      (m.ord.releases = true → s.releaseReady l s.seq pt = true) →
      exec (.fence h m) s = .next (s.onward (if m.ord = .acq ∨ m.ord = .ar then s.acquire t.coreKey pt else s) l h) ∧
      ∀ runs, s.cwbRuns t.partKey 65538 va.toNat (s.readReg l .sb h.sb).toNat = .ok runs →
        let placed := runs.map (fun x => (s.space t.partKey x.1, x))
        (∀ x ∈ placed, s.pageCheck t.partKey (s.fibre l).level (some .write) x.2.1 ≠ .held) →
          exec (.cwb h m) s = .next (s.onward (s.cwbWrite t.coreKey pt m.evict placed) l h))) ∧
  ∀ (s : State) (h : Head) (m : GlobalMod) (b : Nat) (pt : Point) (ia : Nat) (first : Lane), s.Whole b →
    let t := s.team s.sig.tid
    let parts := s.bandLanes b
    let contrib := parts.filter (s.guard h)
    let n := m.size.bytes
    let bb := s.readPair first .sa h.sa + m.off.signExtend 64
    let reader := fun sp => s.ldbReader contrib sp ia n
    contrib.head? = some first → m.ord = .rlx → (∀ q ∈ s.reqs, q.tid ≠ s.sig.tid) →
    (t.levels[m.scope.toNat]?).map Lvl.pt = some pt → bb.toNat < 2 ^ 56 → bb.toNat % (32 * n) = 0 →
    s.rangeCheck t.partKey (s.fibre first).level .read bb.toNat = .ok ia →
    s.blockChecks t (s.fibre first) (fun sp => (reader sp).own) bb (n / 4) 0 = .ok () →
    s.pageCheck t.partKey (s.fibre first).level (some .read) ia ≠ .held →
    (∀ r ∈ s.regs, r.entry.sp ≠ s.space t.partKey ia) →
    ∀ v bs, s.takeAll t.coreKey (reader (s.space t.partKey ia)) (s.space t.partKey ia) ia pt m.evict (32 * n) = (v, some bs) →
      ∃ u, exec (.ldb h m) s = .next u ∧
        LaneEffect (v.touchPage t.partKey ia) u parts (s.guard h) h.stall 0
          (fun l => { regs := (loadWords n m.sx (ofBytes ((bs.drop (l.fid % 32 * n)).take n))).zipIdx.map (fun p =>
            (regName h.dst.file (h.dst.idx + p.2), p.1)) })
          (fun l => nextPc (s.fibre l).pc)

/-- R228, R233 to R237, R28: OBRES takes the lowest free number and the lowest base whose granules meet no reservation, clears those bytes
and writes the number; writes all ones with no number free and all ones less one with no room; takes OB_RECORD where a field breaks R235.
OBREL ends the team's use of a reservation at once, and takes OB_RES for a number that the team does not hold. -/
def Obligations.ReservationResults : Prop :=
  ∀ (s : State) (h : Head) (m : EngineMod) (l : Lane), s.Alone h l → s.Calm l →
    let t := s.team l.tid
    let c := s.coreAt t.coreKey
    let word := fun (i : Nat) => ofBytes (((s.blockBytes l .sa h.sa 16).drop (4 * i)).take 4)
    let w0 := word 0
    let efmt := w0 / 2 ^ 9 % 2 ^ 6
    let sf := w0 / 2 ^ 15 % 2 ^ 2
    let blkl := w0 / 2 ^ 17 % 2
    let ct := w0 / 2 ^ 18 % 2 ^ 2
    let len := w0 % 2 ^ 9
    let good := w0 < 2 ^ 20 ∧ word 2 < 2 ^ 18 ∧ word 3 = 0 ∧ 1 ≤ len ∧ len ≤ 256 ∧ efmt ≠ 0 ∧ (elemOf efmt).isSome = true ∧ sf < 2 ∧
      ¬ (sf = 1 ∧ (efmt = 1 ∨ efmt = 2)) ∧ ¬ (blkl = 1 ∧ sf = 0) ∧ ¬ (ct ≠ 0 ∧ efmt ≠ 0x0A) ∧ ¬ (sf = 1 ∧ len * 1024 ≤ word 2)
    let meets := fun (base : Nat) => 256 < base + len ∨ ∃ r ∈ c.resvs, base < r.base + r.len ∧ r.base < base + len
    let gives := fun (u : State) (v : Word) => ∃ t, exec (.obres h m) s = .next t ∧
      RegisterEffect u t h 0 (fun _ => { regs := [(regName h.dst.file h.dst.idx, v)] })
    let a := (s.readReg l .sa h.sa).toNat
    (s.blockReady l .sa h.sa 16 →
      (¬ good → (s.fibre l).inFlight = false → exec (.obres h m) s = .next (s.trapped l h 0x42 (BitVec.ofNat 64 w0))) ∧
      (good → (∀ n, n < 16 → ∃ r ∈ c.resvs, r.num = n) → gives s 0xFFFFFFFF) ∧
      (∀ num, num < 16 → (∀ r ∈ c.resvs, r.num ≠ num) → (∀ k, k < num → ∃ r ∈ c.resvs, r.num = k) → good →
        ((∀ base, meets base) → gives s 0xFFFFFFFE) ∧
        ∀ base, ¬ meets base → (∀ b, b < base → meets b) →
          let r : Resv := ⟨num, l.tid, base, len, BitVec.ofNat 6 efmt, decide (sf = 1), decide (blkl = 1), ct, word 1 % 2 ^ 16, word 1 / 2 ^ 16, word 2, none⟩
          gives (s.modCore t.coreKey (fun c => { c with
            resvs := c.resvs ++ [r], ob := c.ob.filter (fun x => decide (x.1 < 1024 * base) || decide (1024 * (base + len) ≤ x.1)) }))
            (BitVec.ofNat 32 num))) ∧
    ((s.fibre l).inFlight = false → 16 ≤ a → exec (.obrel h m) s = .next (s.trapped l h 0x43 0xFFFF)) ∧
    ((s.fibre l).inFlight = false → a < 16 → c.resvs.find? (fun r => r.num = a && r.tid = l.tid && r.gone = none) = none →
      exec (.obrel h m) s = .next (s.trapped l h 0x41 (BitVec.ofNat 64 a))) ∧
    (∀ r, a < 16 → c.resvs.find? (fun r => r.num = a && r.tid = l.tid && r.gone = none) = some r →
      exec (.obrel h m) s = .next (s.onward { s.modCore t.coreKey (fun c => { c with
        resvs := c.resvs.map (fun r => if r.num = a then { r with gone := some s.seq } else r) }) with seq := s.seq + 1 } l h))

/-- R226 to R250, R26: an engine command that passes its checks is put at the end of its core's engine order with what it captured at issue,
its data leaves become engine-owned, and the fibre goes on; MMA, ACCZ, ACCRD, CTAB, TCOPY and TGATH, each with its own operands; a tile
past the team's grant takes ACC_RANGE, and a recorded engine fault is raised first. The fibre has no acquire pending (R294). -/
def Obligations.EngineCommandResults : Prop :=
  ∀ (s : State) (h : Head) (m : EngineMod) (l : Lane), s.Alone h l → s.acquiring l = false →
    let t := s.team l.tid
    let f := s.fibre l
    let core := s.coreAt t.coreKey
    let base : Cmd := { id := s.seq, core := t.coreKey, tid := l.tid, fid := l.fid, part := t.partKey, level := f.level, kind := .mma, rmode := t.rmode
                        ranges := (s.partAt t.partKey).ranges }
    let version : Resv → List Nat := fun r => if r.efmt = 0x0A then [(core.tableVer.getD r.ct 0 +
      (s.cmds.filter (fun d => d.kind = .ctab ∧ d.core = t.coreKey ∧ d.arg8 = r.ct)).length) % 2 ^ 16] else []
    let read := if h.sa.file = .team then s else s.resume l
    let issued := fun (u : State) (i : Instr) (c : Cmd) (leaves : List Nat) =>
      exec i s = .next (s.onward { u.modTeam l.tid (fun t => if leaves = [] then t else { t with claims := t.claims ++ [(u.seq, leaves)] })
        with seq := u.seq + 1, cmds := s.cmds ++ [{ c with id := u.seq }] } l h)
    let leaves := fun (off n : Nat) => if n = 0 then [] else (List.range ((off + n - 1) / 2048 + 1 - off / 2048)).map (off / 2048 + ·)
    let a := (s.readReg l .sa h.sa).toNat
    let ctl := fun (x : Nat) => x < 2 ^ 14 ∧ x / 2 ^ 6 % 2 ^ 2 = 0
    (∀ v, f.engineFault = some v → f.storeFault = none → f.inFlight = false →
      ∀ i ∈ [Instr.mma h m, .accz h m, .accrd h m, .ctab h m, .tcopy h m, .tgath h m, .obrel h m], exec i s = .next (s.trapped l h 0x45 v)) ∧
    (f.engineFault = none → f.storeFault = none → f.wait = none →
      (ctl a → a % 64 + a / 2 ^ 8 + 1 ≤ t.acct → exec (.accz h m) s = .next (s.onward { s with
        seq := s.seq + 1, cmds := s.cmds ++ [{ base with kind := .accz, tile := a % 64, tiles := a / 2 ^ 8 + 1 }] } l h)) ∧
      (ctl a → t.acct < a % 64 + a / 2 ^ 8 + 1 → f.inFlight = false →
        exec (.accz h m) s = .next (s.trapped l h 0x40 (BitVec.ofNat 64 (max (a % 64) t.acct)))) ∧
      (¬ ctl a → f.inFlight = false → exec (.accz h m) s = .next (s.trapped l h 0x43 0xFFFF)) ∧
      (let b := (s.readReg l .sb h.sb).toNat
       let size := if m.arg8.toNat % 4 = 0 then 4 else 2
       let n := 1024 * (b / 2 ^ 8 + 1) * size
       ctl b → b % 64 + b / 2 ^ 8 + 1 ≤ t.acct → a + n ≤ 2048 * t.leaves → a % size = 0 →
        exec (.accrd h m) s = .next (s.onward { s.modTeam l.tid (fun t => { t with claims := t.claims ++ [(s.seq, leaves a n)] }) with
          seq := s.seq + 1
          cmds := s.cmds ++ [{ base with kind := .accrd, tile := b % 64, tiles := b / 2 ^ 8 + 1, off := a, arg8 := m.arg8.toNat }] } l h)) ∧
      (s.blockReady l .sa h.sa 32 →
        issued read (.ctab h m) { base with kind := .ctab, block := s.blockBytes l .sa h.sa 32, arg8 := m.arg8.toNat % 4 } []) ∧
      (s.blockReady l .sa h.sa 64 → ∀ ra rb,
        let block := s.blockBytes l .sa h.sa 64
        let word := fun (i : Nat) => ofBytes ((block.drop (4 * i)).take 4)
        let p := readMma block
        let units := p.m / 32 * (p.n / 32)
        word 0 < 2 ^ 23 → word 1 < 2 ^ 15 → (∀ i, 24 ≤ i → i < 64 → block.getD i 0 = 0) → (p.loca = 0 ∨ 4 ≤ p.loca) → (p.locb = 0 ∨ 4 ≤ p.locb) →
        core.liveResv l.tid (word 0 % 16) = some ra → core.liveResv l.tid (word 0 / 16 % 16) = some rb →
        ra.fits p.m p.kept p.k = true → rb.fits p.n 16 p.k = true → p.acc + units ≤ t.acct →
        s.neighbourCheck t p.loca p.noffa (ra.used p.m p.kept p.k) = none → s.neighbourCheck t p.locb p.noffb (rb.used p.n 16 p.k) = none →
          issued read (.mma h m) { base with
            block := block, tile := p.acc, tiles := units, resA := some ra, resB := some rb
            versions := version ra ++ version rb } []) ∧
      (s.blockReady l .sa h.sa 128 → ∀ pt res,
        let block := s.blockBytes l .sa h.sa 128
        let c := readCopy block
        let n := c.esz * c.count
        copyBad block m = none → (if c.dir = 3 then some .core else (t.levels[m.scope.toNat]?).map Lvl.pt) = some pt →
        copyResv core l.tid c = .ok res → (c.dir = 2 ∨ n = 0 ∨ c.loff + n ≤ 2048 * t.leaves) → (∀ r, res = some r → c.roff + n ≤ 1024 * r.len) →
        (∀ x ∈ c.gbase :: c.dims.map (·.2.2.2), x % c.esz = 0) → (c.dir = 3 ∨ s.copyRange t f c = none) →
          issued (if m.ord.releases then (read.beginRelease l pt).2 else read) (.tcopy h m) { base with
            kind := .tcopy, block := block, pt := pt, acq := decide (m.ord = .acq ∨ m.ord = .ar), evict := m.evict, resA := res
            versions := res.toList.flatMap version
            rel := if m.ord.releases then some s.seq else none } (if c.dir = 2 then [] else leaves c.loff n)) ∧
      (s.blockReady l .sa h.sa 64 → ∀ pt,
        let block := s.blockBytes l .sa h.sa 64
        let g := readGather block
        let regions := [(g.ptroff, 4 * (g.nrow + 1)), (g.coloff, 4 * g.cap), (g.valoff, g.vsz * g.cap)]
        1 ≤ g.nrow → g.nrow < 2 ^ 16 → ofBytes ((block.drop 0x30).take 4) < 4 → (∀ i, 0x34 ≤ i → i < 64 → block.getD i 0 = 0) →
        (t.levels[m.scope.toNat]?).map Lvl.pt = some pt → (∀ x ∈ [g.rowptr, g.cols, g.ptroff, g.coloff], x % 4 = 0) →
        (∀ x ∈ [g.vals, g.valoff], x % g.vsz = 0) → (∀ x ∈ regions, x.2 = 0 ∨ x.1 + x.2 ≤ 2048 * t.leaves) →
          ∃ owned, (∀ i, i ∈ owned ↔ ∃ x ∈ regions, i ∈ leaves x.1 x.2) ∧ issued read (.tgath h m) { base with
            kind := .tgath, block := block, pt := pt, acq := decide (m.ord = .acq ∨ m.ord = .ar), evict := m.evict } owned))

/-- R251, R257, R258: QPUSH reads the queue header at its home, takes QUEUE_BAD where it is out of its limits, writes all ones and changes nothing where the queue is full, and else
advances WRITE, returns the index and queues the seven body dwords and then the header of the packet with SEQ in its slot; CTRWAIT goes on
where the counter has reached its target and waits on it where it has not; CTRTEST writes which. -/
def Obligations.QueueAndCounterResults : Prop :=
  ∀ (s : State) (h : Head) (m : EngineMod) (l : Lane), s.Alone h l → s.Calm l →
    let t := s.team l.tid
    let va := s.readPair l .sa h.sa
    let dword := fun (b : List Byte) (off : Nat) => ofBytes ((b.drop off).take 8)
    let read := if h.sb.file = .team then s else s.resume l
    (∀ pt ia, s.Passes l m.scope.toNat [.read, .write] va 128 pt ia → s.blockReady l .sb h.sb 64 → pt = .core → (s.fibre l).inFlight = false →
      exec (.qpush h m) s = .next (s.trapped l h 0x44 (m.scope.zeroExtend 64))) ∧
    (∀ pt ia, s.Passes l m.scope.toNat [.read, .write] va 128 pt ia → s.Homed l ia 128 → pt ≠ .core → s.blockReady l .sb h.sb 64 →
      let sp := s.space t.partKey ia
      let taken := read.homeTake t.coreKey sp ia 128
      let hd := taken.1
      let cap := 2 ^ (ofBytes ((hd.drop 0x20).take 4) % 2 ^ 5)
      let wr := dword hd 0
      let written : Writer := { tid := l.tid, fid := l.fid, va := va, part := t.partKey, level := (s.fibre l).level }
      let room := (wr + 2 ^ 64 - dword hd 8) % 2 ^ 64 < cap
      let slot := (dword hd 0x18 + 64 * (wr % cap)) % 2 ^ 64
      (queueBad hd = true → (s.fibre l).inFlight = false → exec (.qpush h m) s = .next (s.trapped l h 0x46 va)) ∧
      (queueBad hd = false →
        (¬ room → exec (.qpush h m) s = .next (s.onward ((taken.2.resume l).writePair l h.dst 0xFFFFFFFFFFFFFFFF none) l h)) ∧
        (room → ∀ sia, (∀ o, o < 64 → s.rangeCheck t.partKey (s.fibre l).level .write (slot + o) = .ok (sia + o)) → slot + 64 ≤ 2 ^ 56 →
          slot % 64 = 0 → (∀ i, i < 8 → t.watched (s.fibre l) [.write] (slot + 8 * i) 8 = false) →
          ∃ u, exec (.qpush h m) s = .next (s.onward u l h) ∧
            { u with wq := [], seq := 0, teams := [] } =
              { (taken.2.homePut (some t.coreKey) sp ia (toBytes 8 (wr + 1)) [written]).touchPage t.partKey ia with wq := [], seq := 0, teams := [] } ∧
            (∃ es : List WEntry, u.wq = s.wq ++ es ∧ es.map (fun e => (e.ia, e.bytes)) =
              (List.range 7).map (fun i => (sia + 8 + 8 * i, ((s.blockBytes l .sb h.sb 64).drop (8 + 8 * i)).take 8)) ++
              [(sia, (s.blockBytes l .sb h.sb 64).take 4 ++ toBytes 4 (wr + 1))]) ∧
            ∃ p q, u.fibre? l = some { LaneWrite.onFibre { regs := [(regName h.dst.file h.dst.idx, Dword.lo (BitVec.ofNat 64 wr)),
              (regName h.dst.file (h.dst.idx + 1), Dword.hi (BitVec.ofNat 64 wr))] } ((taken.2.resume l).fibre l) with pend := p, rels := q }))) ∧
    ∀ pt ia, s.Passes l m.scope.toNat [.read] va 8 pt ia → s.Homed l ia 8 →
      let sp := s.space t.partKey ia
      let taken := s.homeTake t.coreKey sp ia 8
      let value := ofBytes taken.1
      let target := (s.readPair l .sb h.sb).toNat
      let u := taken.2.touchPage t.partKey ia
      let acquired := fun (u : State) => (if m.ord = .acq ∨ m.ord = .ar then u.acquire t.coreKey pt else u).resume l
      (target ≤ value → exec (.ctrwait h m) s = .next (s.onward (acquired u) l h)) ∧
      (value < target → exec (.ctrwait h m) s = .next (u.modFibre l (fun f =>
        { f with wait := some { on := .counter sp ia (s.readPair l .sb h.sb), since := u.now }, waitAt := va, turn := none }))) ∧
      exec (.ctrtest h m) s = .next (s.onward (acquired (u.writePred l h.dst.pred (decide (target ≤ value)) none)) l h)

/-- R261 to R267: named barriers of the team: BARALLOC takes the lowest free one, or answers all ones, or BAR_BAD for a count of 0 or past
65,535; an arrival counts and the last one opens the next generation; BARARV returns the generation it met; BARWT and BARSYNC go on with
the acquire where the generation has passed and wait on it where it has not; BARFREE frees an idle barrier and moves its TAG on; a handle
that names no live barrier takes BAR_BAD. An operation on a barrier that another fibre of the team issued before comes first (R260). -/
def Obligations.BarrierResults : Prop :=
  ∀ (s : State) (h : Head) (m : SyncMod) (l : Lane), s.Alone h l →
    let t := s.team l.tid
    let hnd := s.readPair l .sa h.sa
    let barrier := fun (i : Nat) => t.barriers.getD i { }
    let handle := fun (i : Nat) => BitVec.ofNat 64 (2 ^ 63 + s.barTag t i % 2 ^ 24 * 2 ^ 32 + i)
    let pair := fun (v : Dword) => ({ regs := [(regName h.dst.file h.dst.idx, v.lo), (regName h.dst.file (h.dst.idx + 1), v.hi)] } : LaneWrite)
    (∀ x ∈ ([(.baralloc h m, (s.readReg l .sa h.sa).toNat), (.barallocImm h m, m.imm24.toNat)] : List (Instr × Nat)),
      (x.2 = 0 ∨ 65535 < x.2 → (s.fibre l).inFlight = false → exec x.1 s = .next (s.trapped l h 0x52 (BitVec.ofNat 64 x.2)).bump) ∧
      (1 ≤ x.2 → x.2 ≤ 65535 → (∀ i, i < t.bars → (barrier i).live = true) → ∃ u, exec x.1 s = .next u ∧ u.seq = s.seq + 1 ∧
        RegisterEffect s { u with seq := s.seq } h 0 (fun _ => pair 0xFFFFFFFFFFFFFFFF)) ∧
      (1 ≤ x.2 → x.2 ≤ 65535 → ∀ i, i < t.bars → i < 64 → (barrier i).live = false → (∀ j, j < i → (barrier j).live = true) →
        ∃ u, exec x.1 s = .next u ∧ u.seq = s.seq + 1 ∧
          RegisterEffect (s.modTeam l.tid (fun t => { t with barriers := (List.range 64).map (fun j =>
            if j = i then { live := true, exp := x.2 } else t.barriers.getD j { }) })) { u with seq := s.seq } h 0 (fun _ => pair (handle i)))) ∧
    (s.Calm l → ∀ pt, (t.levels[m.optype.toNat % 8]?).map Lvl.pt = some pt →
      (2 ^ 63 ≤ hnd.toNat → (∀ i, i < 64 → (barrier i).live = true → hnd ≠ handle i) → (s.fibre l).inFlight = false →
        exec (.bararv h m) s = .next (s.trapped l h 0x52 (BitVec.ofNat 64 (hnd.toNat % 2 ^ 32))).bump ∧
        ∀ i ∈ [Instr.barwt h m, .barsync h m, .barfree h m], exec i s = .next (s.trapped l h 0x52 (BitVec.ofNat 64 (hnd.toNat % 2 ^ 32)))) ∧
      ∀ i, i < 64 → (barrier i).live = true → hnd = handle i →
        let b := barrier i
        let last := b.cnt + 1 = b.exp
        let after := if last then { b with cnt := 0, gen := b.gen + 1 } else { b with cnt := b.cnt + 1 }
        let set := fun (t : Team) (b : Barrier) => { t with barriers := (List.range 64).map (fun j => if j = i then b else t.barriers.getD j { }) }
        let arrived := s.modTeam l.tid (fun t => set t after)
        let next := if 2 ^ 24 - 1 ≤ s.barTag t i then 1 else s.barTag t i + 1
        let waits := fun (u : State) (g : Word) => u.modFibre l (fun f => { f with wait := some { on := .barrier i g, since := s.now }, waitAt := hnd, turn := none })
        (¬ s.Foremost l hnd → ∃ n, exec (.barwt h m) s = .next (s.modFibre l (fun f => { f with turn := some (hnd.toNat, n) }))) ∧
        (s.Foremost l hnd →
        (s.releaseReady l s.seq pt = true →
          (∃ u, exec (.bararv h m) s = .next u ∧ u.seq = s.seq + 1 ∧
            RegisterEffect arrived { u with seq := s.seq } h 0 (fun _ => { regs := [(regName h.dst.file h.dst.idx, b.gen)] })) ∧
          (last → exec (.barsync h m) s = .next (s.onward ((arrived.acquire t.coreKey pt).resume l) l h)) ∧
          (¬ last → exec (.barsync h m) s = .next (waits arrived b.gen))) ∧
        (b.gen ≠ s.readReg l .sb h.sb → exec (.barwt h m) s = .next (s.onward ((s.acquire t.coreKey pt).resume l) l h)) ∧
        (b.gen = s.readReg l .sb h.sb → exec (.barwt h m) s = .next (waits s b.gen)) ∧
        (b.cnt = 0 → (∀ f ∈ t.fibres, ∀ w, f.wait = some w → w.met = false → ∀ g, w.on ≠ .barrier i g) →
          exec (.barfree h m) s = .next (s.onward ((s.modTeam l.tid (fun t => set t { })).modCore t.coreKey (fun c =>
            { c with barTags := insertAt (64 * t.slot + i) next c.barTags })) l h)) ∧
        (b.cnt ≠ 0 → (s.fibre l).inFlight = false →
          exec (.barfree h m) s = .next (s.trapped l h 0x52 (BitVec.ofNat 64 (hnd.toNat % 2 ^ 32))))))

/-- R266, R267: a barrier in memory: its 16 bytes are taken at their home; a malformed one takes BAR_BAD; an arrival puts the count and the
generation after it there in the same step, and BARWT reads the generation. -/
def Obligations.MemoryBarrierResults : Prop :=
  ∀ (s : State) (h : Head) (m : SyncMod) (l : Lane) (pt : Point) (ia : Nat), s.Alone h l → s.Calm l → s.Homed l ia 16 →
    let t := s.team l.tid
    let hnd := s.readPair l .sa h.sa
    s.Foremost l hnd →
    (t.levels[m.optype.toNat % 8]?).map Lvl.pt = some pt → hnd.toNat < 2 ^ 63 → s.releaseReady l s.seq pt = true →
    s.objectChecks t (s.fibre l) [.read, .write] hnd 16 = .ok ia →
      let taken := s.homeTake t.coreKey (s.space t.partKey ia) ia 16
      let word := fun (i : Nat) => ofBytes ((taken.1.drop (4 * i)).take 4)
      let bad := word 0 = 0 ∨ 65535 < word 0 ∨ word 0 ≤ word 1 ∨ word 3 ≠ 0
      let last := word 1 + 1 = word 0
      let arrived := taken.2.putObject t ia (taken.1.take 4 ++ toBytes 4 (if last then 0 else word 1 + 1) ++
        toBytes 4 (if last then (word 2 + 1) % 2 ^ 32 else word 2) ++ taken.1.drop 12)
        [{ tid := l.tid, fid := l.fid, va := hnd, part := t.partKey, level := (s.fibre l).level }]
      let waits := fun (u : State) (g : Word) => u.modFibre l (fun f =>
        { f with wait := some { on := .memBarrier (s.space t.partKey ia) ia g, since := s.now }, waitAt := hnd, turn := none })
      let tok := BitVec.ofNat 32 (word 2)
      (bad → (s.fibre l).inFlight = false → exec (.barsync h m) s = .next (taken.2.trapped l h 0x52 (BitVec.ofNat 64 (hnd.toNat % 2 ^ 32)))) ∧
      (¬ bad → ∃ u, exec (.bararv h m) s = .next u ∧ u.seq = arrived.seq + 1 ∧
        RegisterEffect arrived { u with seq := arrived.seq } h 0 (fun _ => { regs := [(regName h.dst.file h.dst.idx, tok)] })) ∧
      (¬ bad → last → exec (.barsync h m) s = .next (s.onward ((arrived.acquire t.coreKey pt).resume l) l h)) ∧
      (¬ bad → ¬ last → exec (.barsync h m) s = .next (waits arrived tok)) ∧
      (¬ bad → tok ≠ s.readReg l .sb h.sb →
        exec (.barwt h m) s = .next (s.onward (((taken.2.touchPage t.partKey ia).acquire t.coreKey pt).resume l) l h)) ∧
      (¬ bad → tok = s.readReg l .sb h.sb → exec (.barwt h m) s = .next (waits (taken.2.touchPage t.partKey ia) tok)) ∧
      (¬ bad → exec (.barfree h m) s = .next (s.onward ((taken.2.touchPage t.partKey ia).resume l) l h))

/-- R268 to R270: futures: FUTSET and FUTSET.fail resolve an unresolved future once, leave its list in place and begin its delivery, and
take FUT_DOUBLE for a resolved one and FUT_BAD for a malformed one; FUTWAIT.park waits while it is unresolved and returns the value with
whether it succeeded; FUTTEST says whether it is resolved and whether it failed; FUTWAIT.cont puts a record at the head of its list, or
has it delivered at once where the future is resolved. -/
def Obligations.FutureResults : Prop :=
  ∀ (s : State) (h : Head) (m : SyncMod) (l : Lane) (pt : Point) (ia : Nat), s.Alone h l → s.Calm l → s.Homed l ia 16 →
    let t := s.team l.tid
    let sp := s.space t.partKey ia
    let va := s.readPair l .sa h.sa
    let taken := s.homeTake t.coreKey sp ia 16
    let read := taken.2.touchPage t.partKey ia
    let w := ofBytes (taken.1.take 8)
    let state := w / 2 ^ 62 % 4
    let count := w / 2 ^ 48 % 2 ^ 14
    let head := w % 2 ^ 48
    let bad := (state = 1 ∧ count = 0) ∨ (state = 0 ∧ (count ≠ 0 ∨ head ≠ 0))
    let future := fun (st count head : Nat) (v : Dword) => toBytes 8 (st * 2 ^ 62 + count * 2 ^ 48 + head) ++ toBytes 8 v.toNat
    let value := BitVec.ofNat 64 (ofBytes ((taken.1.drop 8).take 8))
    let acquired := fun (u : State) => (u.acquire t.coreKey pt).resume l
    let writer := fun (a : Dword) => [({ tid := l.tid, fid := l.fid, va := a, part := t.partKey, level := (s.fibre l).level } : Writer)]
    s.Foremost l va → (t.levels[m.optype.toNat % 8]?).map Lvl.pt = some pt →
    (s.objectChecks t (s.fibre l) [.read, .write] va 16 = .ok ia → s.releaseReady l s.seq pt = true →
      ∀ x ∈ ([(.futset h m, 2), (.futsetFail h m, 3)] : List (Instr × Nat)),
        (¬ bad → state < 2 → exec x.1 s = .next (s.onward (((taken.2.putObject t ia (future x.2 count head (s.readPair l .sb h.sb)) (writer va)).resume l).beginDelivery
          t.partKey (s.fibre l).level t.pkg (BitVec.ofNat 64 (head * 2 ^ 8)) count (some (l.tid, l.fid))) l h)) ∧
        (¬ bad → 2 ≤ state → (s.fibre l).inFlight = false → exec x.1 s = .next (taken.2.trapped l h 0x50 va)) ∧
        (bad → (s.fibre l).inFlight = false → exec x.1 s = .next (taken.2.trapped l h 0x51 va))) ∧
    (s.objectChecks t (s.fibre l) [.read] va 16 = .ok ia → ¬ bad →
      (state < 2 → exec (.futwaitPark h m) s = .next (read.modFibre l (fun f =>
        { f with wait := some { on := .future sp ia, since := s.now }, waitAt := va, turn := none })).bump) ∧
      (2 ≤ state → exec (.futwaitPark h m) s = .next (s.onward (acquired
        ((read.writePair l h.dst value none).writePred l m.pred.toNat (decide (state = 2)) none)) l h).bump) ∧
      (let told := (read.writePred l h.dst.pred (decide (2 ≤ state)) none).writePred l m.pred.toNat (decide (state = 3)) none
       exec (.futtest h m) s = .next (s.onward (if 2 ≤ state then acquired told else told.resume l) l h).bump)) ∧
    (s.objectChecks t (s.fibre l) [.read, .write] va 16 = .ok ia → s.releaseReady l s.seq pt = true → ∀ ria,
      let rv := s.readPair l .sb h.sb
      rv.toNat < 2 ^ 56 → rv.toNat % 2 ^ 8 = 0 → s.kindChecks t (s.fibre l) [.read, .write] rv 64 = .ok ria → s.Homed l ria 64 →
      let rec_ := s.homeTake t.coreKey (s.space t.partKey ria) ria 64
      let both := rec_.2.homeTake t.coreKey sp ia 16
      let w := ofBytes (both.1.take 8)
      let place := fun (next : Option Nat) => (both.2.putObject t ria (placeRecord t rec_.1 next) (writer rv)).resume l
      recordBad rv rec_.1 = false → ¬ ((w / 2 ^ 62 % 4 = 1 ∧ w / 2 ^ 48 % 2 ^ 14 = 0) ∨ (w / 2 ^ 62 % 4 = 0 ∧ w % 2 ^ 62 ≠ 0)) →
        (2 ≤ w / 2 ^ 62 % 4 → exec (.futwaitCont h m) s = .next (s.onward
          (((place none).touchPage t.partKey ia).beginDelivery t.partKey (s.fibre l).level t.pkg rv 1 (some (l.tid, l.fid))) l h)) ∧
        (w / 2 ^ 62 % 4 < 2 → w / 2 ^ 48 % 2 ^ 14 < 16383 → exec (.futwaitCont h m) s = .next (s.onward
          ((place (some (w % 2 ^ 48 * 2 ^ 8))).putObject t ia
            (future 1 (w / 2 ^ 48 % 2 ^ 14 + 1) (rv.toNat / 2 ^ 8) (BitVec.ofNat 64 (ofBytes ((both.1.drop 8).take 8)))) (writer va)) l h)))

/-- R276 to R283: phasers: PHREG creates a phaser in a free slot with its parties counted, or sends a join; PHDROP and the arrivals PHSIG and
PHANY leave as messages of their team, an arrival behind a release; PHWAIT goes on with the payload and the acquire once the phase has
reached its target and waits before; PHTEST says which, and PHTEST.rd reads the phase. A handle that names no phaser the team may use
takes PH_BAD, and what the registration does not allow PH_MODE. -/
def Obligations.PhaserResults : Prop :=
  ∀ (s : State) (h : Head) (m : SyncMod) (l : Lane), s.Alone h l → s.Calm l →
    let t := s.team l.tid
    let hnd := s.readPair l .sa h.sa
    let mode := m.subop.toNat % 4
    let n := m.imm24.toNat
    let low := BitVec.ofNat 64 (hnd.toNat % 2 ^ 32)
    let reg := t.phReg hnd
    let pair := fun (v : Dword) => ({ regs := [(regName h.dst.file h.dst.idx, v.lo), (regName h.dst.file (h.dst.idx + 1), v.hi)] } : LaneWrite)
    let answers := fun (i : Instr) (base : State) (w : LaneWrite) => ∃ u, exec i s = .next u ∧ u.seq = base.seq + 1 ∧
      LaneEffect base { u with seq := base.seq } s.sigLanes (s.guard h) h.stall 0 (fun _ => w) (fun l => nextPc (s.fibre l).pc)
    let sends := fun (i : Instr) (base : State) (x : Stitch) (more : Nat) => ∃ u, exec i s = .next u ∧
      MovedOn base { base with seq := base.seq + 1 + more, stitch := base.stitch ++ [{ x with id := base.seq }] } u h l
    (let level := m.optype.toNat % 4
     let node := if level = 0 then t.core % 384 / 48 else 8
     (mode ≠ 3 → 16 ≤ t.phasers.length → answers (.phregCreate h m) s (pair 0xFFFFFFFFFFFFFFFE)) ∧
     (mode = 3 ∨ t.phasers.length < 16 → s.freeSlot t.pkg node = none → answers (.phregCreate h m) s (pair 0xFFFFFFFFFFFFFFFF)) ∧
     (mode = 3 ∨ t.phasers.length < 16 → ∀ idx tag, s.freeSlot t.pkg node = some (idx, tag) →
       let made := BitVec.ofNat 64 (2 ^ 63 + tag % 2 ^ 24 * 2 ^ 32 + 2 ^ 30 + level * 2 ^ 28 + t.pkg % 2 ^ 8 * 2 ^ 20 +
         (if level = 0 then node else 0) % 2 ^ 4 * 2 ^ 16 + idx % 2 ^ 9)
       let waits := decide (mode = 1 ∨ mode = 2)
       let slot : PhSlot := ⟨node, idx, true, tag, made, { any := m.optype.getLsbD 2, parties := n, waiters := if waits then 1 else 0 },
         if n = 0 ∧ waits = false then [] else [{ team := if mode = 3 then none else some l.tid, cur := n, wt := waits }], none⟩
       answers (.phregCreate h m) ((s.takeSlot t.pkg slot).modTeam l.tid (·.register made mode n)) (pair made))) ∧
    (2 ^ 63 ≤ hnd.toNat →
      (s.phOk t hnd = false → (s.fibre l).inFlight = false →
        exec (.phregJoin h m) s = .next (s.trapped l h 0x53 low).bump ∧ exec (.phdrop h m) s = .next (s.trapped l h 0x53 low) ∧
        ∀ pt, (t.levels[m.optype.toNat % 8]?).map Lvl.pt = some pt → ∀ i ∈ [Instr.phsig h m, .phany h m, .phwait h m, .phtest h m, .phtestRd h m],
          exec i s = .next (s.trapped l h 0x53 low).bump) ∧
      (s.phOk t hnd = true →
        (let may := mode = 3 ∨ t.phasers.length < 16 ∨ ∃ r ∈ t.phasers, r.handle = hnd
         let copied := if mode = 3 then some s else s.podCopy t.pkg hnd (((s.homeSlot hnd).map (·.ph.any)).getD false)
         (¬ may → answers (.phregJoin h m) s (pair 0xFFFFFFFFFFFFFFFE)) ∧
         (may → copied = none → answers (.phregJoin h m) s (pair 0xFFFFFFFFFFFFFFFF)) ∧
         (may → ∀ v, copied = some v → sends (.phregJoin h m) (v.modTeam l.tid (·.register hnd mode n)) { stitchFrom s t l hnd .join (decide (mode = 3))
           with parties := n, wt := decide ((mode = 1 ∨ mode = 2) ∧ reg.wt = false), dst := some h.dst } 1)) ∧
        (let onWay := s.stitch.filter (fun x => x.handle = hnd ∧ x.team = none)
         let pool := (countOf (((s.homeSlot hnd).map (·.counts)).getD []) none).held +
           ((onWay.filter (fun x => x.kind = .join ∧ x.issuer = l.tid)).map (·.parties)).sum -
           ((onWay.filter (fun x => x.kind = .drop ∧ x.counted = false)).map (·.parties)).sum
         (mode = 3 → pool < n → (s.fibre l).inFlight = false → exec (.phdrop h m) s = .next (s.trapped l h 0x54 low)) ∧
         (mode = 3 → n ≤ pool → ∃ u, exec (.phdrop h m) s = .next (s.onward u l h) ∧
          u.stitch = s.stitch ++ [{ stitchFrom s t l hnd .drop true with id := s.seq, parties := n }])) ∧
        (mode ≠ 3 → (if mode = 1 then reg.wt = true else n ≤ reg.sigp) →
          exec (.phdrop h m) s = .next (s.onward ((s.modTeam l.tid (·.setPhReg (if mode = 1 then { reg with wt := false }
            else { reg with sigp := reg.sigp - n }))).addStitch { stitchFrom s t l hnd .drop false with
              parties := if mode = 1 then 0 else n, wt := decide (mode = 1) }) l h)) ∧
        (mode ≠ 3 → ¬ (if mode = 1 then reg.wt = true else n ≤ reg.sigp) → (s.fibre l).inFlight = false →
          exec (.phdrop h m) s = .next (s.trapped l h 0x54 low)))) ∧
    ∀ pt, (t.levels[m.optype.toNat % 8]?).map Lvl.pt = some pt → 2 ^ 63 ≤ hnd.toNat → s.phOk t hnd = true →
      (∀ x ∈ ([(.phsig h m, false), (.phany h m, true)] : List (Instr × Bool)), (s.homeSlot hnd).map (·.ph.any) = some x.2 →
        (reg.sigp = 0 → (s.fibre l).inFlight = false → exec x.1 s = .next (s.trapped l h 0x54 low).bump) ∧
        (0 < reg.sigp → ∃ u, exec x.1 s = .next u ∧
          u.stitch = s.stitch ++ [{ stitchFrom s t l hnd .arrival false with
            id := s.seq + 1, any := x.2, payload := if x.2 then s.readReg l .sb h.sb else 0, rel := some s.seq, bound := m.optype.getLsbD 3,
            marks := if m.optype.getLsbD 3 then s.farWrites l.tid else [], dst := some h.dst }] ∧
          (∃ p, u.fibre? l = some { (s.fibre l).moved s.now h.stall with rels := (s.fibre l).rels ++ [⟨s.seq, pt⟩], pend := p }) ∧
          (∀ k, k ≠ l → u.fibre? k = s.fibre? k) ∧ u.teams.map Team.outline = s.teams.map Team.outline ∧
          { u with teams := [], stitch := [], seq := 0 } = { s with teams := [], stitch := [], seq := 0 })) ∧
      ∀ slot, s.countSlot t.pkg hnd = some slot → s.phPending l.tid hnd = false → s.Foremost l hnd →
        let reached := (slot.ph.phase - s.readReg l .sb h.sb).toNat < 2 ^ 31
        let payload := BitVec.ofNat 64 (slot.ph.payload.toNat + 2 ^ 32 * slot.ph.apkg)
        (reg.wt = true → reached → exec (.phwait h m) s = .next (s.onward (((s.writePair l h.dst payload none).acquire t.coreKey pt).resume l) l h).bump) ∧
        (reg.wt = true → ¬ reached → exec (.phwait h m) s = .next (s.modFibre l (fun f =>
          { f with wait := some { on := .phaser hnd (s.readReg l .sb h.sb), since := s.now }, waitAt := hnd, turn := none })).bump) ∧
        (reg.wt = false → (s.fibre l).inFlight = false → exec (.phwait h m) s = .next (s.trapped l h 0x54 low).bump) ∧
        (let told := s.writePred l h.dst.pred (decide reached) none
         exec (.phtest h m) s = .next (s.onward ((if reached then told.acquire t.coreKey pt else told).resume l) l h).bump) ∧
        exec (.phtestRd h m) s = .next (s.onward ((s.writeReg l h.dst slot.ph.phase none).resume l) l h).bump

/-- R271 to R274, R68, R60: fibres and teams: GROW and SHRINK set the length of the window, its new registers zero; GROW waits where the
core has no room and takes GROW_IMPOSSIBLE past the core's registers; FFORK makes n fibres at the lowest free numbers, with v0 the
forking fibre and v1 their place, or waits, or takes FORK_LIMIT; FEND ends the fibre, whose
outstanding accesses and releases go on under a number that no fibre has; FSPAWN puts its record into a bin of its key or
answers all ones; LAUNCH queues its record, or answers all ones with four queued. -/
def Obligations.FibreAndTeamResults : Prop :=
  ∀ (s : State) (h : Head) (m : SyncMod) (l : Lane), s.Alone h l → s.Calm l →
    let t := s.team l.tid
    let f := s.fibre l
    let n := m.imm24.toNat
    let k := t.coreKey
    let rest := (t.fibres.map (fun g => g.regs.length)).sum - f.regs.length
    let resized := fun (g : Fibre) => { g with
      regs := (g.regs ++ List.replicate (n - g.regs.length) 0).take n
      pend := g.pend.filter (fun p => match p.reg with | .main i => decide (i < n) | _ => true) }
    let suspended := fun (on : WaitOn) => s.modFibre l (fun f => { f with wait := some { on := on, since := s.now }, waitAt := 0, turn := none })
    (n ≤ f.regs.length → exec (.grow h m) s = .next (s.onward s l h)) ∧
    (f.regs.length < n → 131072 < rest + n → f.inFlight = false → exec (.grow h m) s = .next (s.trapped l h 0x55 (BitVec.ofNat 64 n))) ∧
    (f.regs.length < n → rest + n ≤ 131072 →
      ((∀ r ∈ s.requests k, r.prio < t.prio) → n - f.regs.length ≤ s.freeRegs k → exec (.grow h m) s = .next (s.onward (s.modFibre l resized) l h)) ∧
      ((∃ r ∈ s.requests k, t.prio ≤ r.prio) ∨ s.freeRegs k < n - f.regs.length → exec (.grow h m) s = .next (suspended (.grow n)))) ∧
    exec (.shrink h m) s = .next (s.onward (s.modFibre l (fun g => if n < g.regs.length then resized g else g)) l h) ∧
    (∀ x ∈ ([(.ffork h m, (s.readReg l .sb h.sb).toNat), (.fforkImm h m, n)] : List (Instr × Nat)),
      let c := x.2
      let entry := s.readPair l .sa h.sa
      let ids := ((List.range 1024).filter (fun i => !t.fibres.any (fun g => g.fid = i))).take c
      let room := (∀ r ∈ s.requests k, r.prio < t.prio) ∧ c * f.regs.length ≤ s.freeRegs k ∧ c ≤ s.freeFibres k
      (c = 0 ∨ 1024 < t.fibres.length + c → f.inFlight = false → exec x.1 s = .next (s.trapped l h 0x56 (BitVec.ofNat 64 c)).bump) ∧
      (1 ≤ c → t.fibres.length + c ≤ 1024 → ¬ room → exec x.1 s = .next (suspended (.fork c entry)).bump) ∧
      (1 ≤ c → t.fibres.length + c ≤ 1024 → room → ∃ u, exec x.1 s = .next u ∧ u.seq = s.seq + 1 ∧
        RegisterEffect (s.modTeam l.tid (fun _ => { t with fibres := t.fibres ++ ids.zipIdx.map (fun p =>
          { fid := p.1, pc := entry, fresh := true, readyAt := s.now, readySince := s.now,
            regs := ([BitVec.ofNat 32 f.fid, BitVec.ofNat 32 p.2] ++ List.replicate (f.regs.length - 2) 0).take f.regs.length }) }))
          { u with seq := s.seq } h 0 (fun _ => { regs := [(regName h.dst.file h.dst.idx, BitVec.ofNat 32 (ids.headD 0))] }))) ∧
    (let own := 65536 * (s.seq + 1) + l.fid
     let fid := fun (a b : Nat) => if a = l.tid ∧ b = l.fid then own else b
     let notes := fun (x : Team) => { x with flagPend := [], scalarPend := [] }
     ∃ u, exec (.fend h m) s = .next u ∧
       u.teams.map notes = s.teams.map (fun x => notes (if x.tid = l.tid then { x with fibres := x.fibres.filter (fun g => g.fid ≠ l.fid) } else x)) ∧
       u.wq = s.wq.map (fun e => { e with fid := fid e.tid e.fid }) ∧
       u.regs = s.regs.map (fun r => { r with entry := { r.entry with fid := fid r.entry.tid r.entry.fid } }) ∧
       u.reqs = s.reqs.map (fun q => { q with fid := fid q.tid q.fid }) ∧ u.cmds = s.cmds.map (fun c => { c with fid := fid c.tid c.fid }) ∧
       u.stitch = s.stitch.map (fun x => { x with fid := fid x.issuer x.fid }) ∧
       u.tails = (if f.rels = [] then s.tails else s.tails ++ [⟨l.tid, own, f.rels, f.seen⟩]) ∧
       { u with teams := [], wq := [], regs := [], reqs := [], cmds := [], stitch := [], deliveries := [], cores := [], pkgs := [], tails := [], seq := 0 } =
         { s with teams := [], wq := [], regs := [], reqs := [], cmds := [], stitch := [], deliveries := [], cores := [], pkgs := [], tails := [], seq := 0 }) ∧
    (s.blockReady l .sa h.sa 64 → (∀ i, 0x28 ≤ i → i < 64 → (s.blockBytes l .sa h.sa 64).getD i 0 = 0) →
      let b := s.blockBytes l .sa h.sa 64
      let into := (s.coreAt k).intoBin s.now ⟨BitVec.ofNat 64 (ofBytes (b.take 8)), t.spwin, t.spleaves, t.spscope, t.prio, t.partKey⟩ ((b.drop 8).take 32)
      (∀ c, into = some c → ∃ u, exec (.fspawn h m) s = .next u ∧ u.seq = s.seq + 1 ∧
        RegisterEffect (s.modCore k (fun _ => c)) { u with seq := s.seq } h 0 (fun _ => { regs := [(regName h.dst.file h.dst.idx, 0)] })) ∧
      (into = none → ∃ u, exec (.fspawn h m) s = .next u ∧ u.seq = s.seq + 1 ∧
        RegisterEffect s { u with seq := s.seq } h 0 (fun _ => { regs := [(regName h.dst.file h.dst.idx, 0xFFFFFFFF)] }))) ∧
    (s.blockReady l .sa h.sa 128 → ∀ pt, (t.levels[m.optype.toNat % 8]?).map Lvl.pt = some pt →
      (4 ≤ (s.pending l.tid).length → ∃ u, exec (.launch h m) s = .next u ∧ u.seq = s.seq + 1 ∧
        RegisterEffect s { u with seq := s.seq } h 0 (fun _ => { regs := [(regName h.dst.file h.dst.idx, 0xFFFFFFFF)] })) ∧
      ((s.pending l.tid).length < 4 → s.releaseReady l s.seq pt = true →
        let b := s.blockBytes l .sa h.sa 128
        let x : Launch := { id := s.seq, part := t.partKey, owner := some l.tid, rec_ := b, prio := ofBytes (b.take 8) / 2 ^ 8 % 2 ^ 2 }
        ∃ u, exec (.launch h m) s = .next u ∧ u.seq = s.seq + 2 ∧
          RegisterEffect { s with launches := s.launches ++ [x] } { u with seq := s.seq } h 0 (fun _ =>
            { regs := [(regName h.dst.file h.dst.idx, 0)] })))

/-- R22, R45, R68, R103, R105, R116, R126, R156, R157, R271, R350: the machine steps of one fibre: a line fills, is asked of its home package, is
fetched once more where its parity fails (R105), or its fetch traps; a split
band traps; a result arrives with its flags; a YIELD or a SLEEP runs out; a GROW or an FFORK at the head of its core's order is granted;
a fibre stops at a fold point. -/
def Obligations.FibreStepResults : Prop :=
  ∀ (s : State) (l : Lane),
    let t := s.team l.tid
    let f := s.fibre l
    ((s.fibre? l).isSome = true → f.halted = false → f.inFlight = false → f.gathered = false → t.lets f = true → f.awake = true → f.readyAt ≤ s.now →
      (2 ^ 56 ≤ f.pc.toNat → exec (.lineFill l.tid l.fid) s = .next (s.takeTrap l 0x10 f.pc)) ∧
      (f.pc.toNat < 2 ^ 56 → f.pc.toNat % 64 ∉ [0, 12, 24, 36, 48] → exec (.lineFill l.tid l.fid) s = .next (s.takeTrap l 0x05 f.pc)) ∧
      (f.pc.toNat < 2 ^ 56 → f.pc.toNat % 64 ∈ [0, 12, 24, 36, 48] →
        (∀ v, s.fetchLine t f.level f.pc = .error v → exec (.lineFill l.tid l.fid) s = .next (s.takeTrap l 0x11 v)) ∧
        (∀ line, s.fetchLine t f.level f.pc = .ok line →
          (∀ ia, f.wait = none → s.lineAway t f.level f.pc = some ia → exec (.lineFill l.tid l.fid) s = .next (s.awaitLine l f.pc ia)) ∧
          (f.wait ≠ none ∨ s.lineAway t f.level f.pc = none →
            (s.linePoison t f.level f.pc = true → exec (.lineFill l.tid l.fid) s = .next (s.takeTrap l 0x70 f.pc)) ∧
            (s.linePoison t f.level f.pc = false → ∃ u, exec (.lineFill l.tid l.fid) s = .next u ∧ u.teams = s.teams ∧
              let name := (icacheKey t f.level, f.pc.toNat / 64 * 64)
              let again := name ∈ (s.coreAt t.coreKey).refetch
              (lineParityOk line = true ∨ again → (u.coreAt t.coreKey).cachedLine name.1 name.2 = some line ∧ name ∉ (u.coreAt t.coreKey).refetch) ∧
              (lineParityOk line = false → ¬ again →
                (u.coreAt t.coreKey).icache = (s.coreAt t.coreKey).icache ∧ name ∈ (u.coreAt t.coreKey).refetch)))))) ∧
    (∀ b, (∃ i j, i ∈ t.enrolled b ∧ j ∈ t.enrolled b ∧ (t.fibre i).pc ≠ (t.fibre j).pc) → (∀ i ∈ t.enrolled b, (t.fibre i).gathered = true ∧
        (t.fibre i).inFlight = false) →
      exec (.bandSplit l.tid b) s = .next ((t.enrolled b).foldl (fun s i => s.takeTrap ⟨l.tid, i⟩ 0x58 (BitVec.ofNat 64 b)) s)) ∧
    (∀ id, (s.fibre? l).isSome = true → s.untaken l.tid (some l.fid) id = false → ∃ u, exec (.resultArrival l.tid l.fid id) s = .next u ∧
      u.fibre? l = some { f with pend := f.pend.filter (fun p => !(p.id = id && p.due = none)) } ∧ (∀ k, k ≠ l → u.fibre? k = s.fibre? k) ∧
      (u.team l.tid).fflags = t.flagPend.foldl (fun a p => if p.fid = l.fid ∧ p.id = id ∧ p.due = none then a ||| p.flags else a) t.fflags ∧
      { u with teams := [] } = { s with teams := [] }) ∧
    (∀ till, f.hold = some (.yield till) → till ≤ s.now → exec (.yieldExpiry l.tid l.fid) s = .next (s.modFibre l (fun f =>
      { f with hold := none, readySince := max f.readyAt till }))) ∧
    (∀ till since, (s.fibre? l).isSome = true → f.wait = some ⟨.sleep till, false, since⟩ → till ≤ s.now → ∃ u,
      exec (.sleepExpiry l.tid l.fid) s = .next u ∧
        u.fibre? l = some { f with wait := some ⟨.sleep till, true, since⟩, readySince := max f.readyAt s.now } ∧ ∀ k, k ≠ l → u.fibre? k = s.fibre? k) ∧
    (∀ n since r, f.wait = some ⟨.grow n, false, since⟩ → s.headRequest t.coreKey = some r → r.tid = l.tid → r.fid = l.fid →
      (t.fibres.map (fun g => g.regs.length)).sum - f.regs.length + n ≤ 131072 → s.covers t.coreKey r = true →
        exec (.growGrant l.tid l.fid) s = .next ((s.modFibre l (·.resize n)).meet l)) ∧
    (∀ n entry since r, f.wait = some ⟨.fork n entry, false, since⟩ → s.headRequest t.coreKey = some r → r.tid = l.tid → r.fid = l.fid →
      t.fibres.length + n ≤ 1024 → s.covers t.coreKey r = true → exec (.fforkGrant l.tid l.fid) s =
        .next ((s.forked l n entry).2.answer l (.answer (toBytes 4 (s.forked l n entry).1)))) ∧
    (∀ line, (s.partAt t.partKey).phase = .folding → t.res = .resident → f.level ≠ .monitor → f.folded = false → f.hold = none → f.readyAt ≤ s.now →
      (s.fibre? l).isSome = true → s.issueLine t f.level f.pc = some line → lineFold line (slotOf f.pc) = true → lineFault line (lineOf f.pc) = none →
        exec (.foldStop l.tid l.fid) s = .next (s.modFibre l (fun f => { f with stopped := some (some (slotBits line (slotOf f.pc) % 2 ^ 9)) })))

/-- R47, R64, R66, R69, R347 to R352, R385: the machine steps of teams and partitions: a long wait, a deadlock of GROWs and the grace timer begin
a save; a saved team becomes a jacket; a ready one comes back; a team without fibres and commands ends; SAVE and RESUME; and a time slice
that turns the group to its next member. -/
def Obligations.TeamStepResults : Prop :=
  (∀ (s : State) (t : Team) (since : Nat), s.team? t.tid = some t → t.waitSince = some since →
    let lim := (s.coreAt t.coreKey).waitlim.toNat
    lim ≠ 0 → since + lim ≤ s.now → t.waiting = true → t.monitored = false →
      ((s.framesOf t.coreKey t.partKey).length < 64 → exec (.longWaitExpiry t.tid) s = .next (s.modTeam t.tid (fun t => { t with res := .saving 1 }))) ∧
      (64 ≤ (s.framesOf t.coreKey t.partKey).length → exec (.longWaitExpiry t.tid) s = .next ((s.frameFull t).modTeam t.tid (fun t =>
        { t with waitSince := some s.now })))) ∧
  (∀ (s : State) (pkg core : Nat) (r : Request) (t : Team), let ck := 384 * pkg + core
    s.headRequest ck = some r → s.deadlockTeam ck = some t → s.covers ck r = false → (∀ x ∈ s.residents ck, x.waiting = true ∧ x.blocked = true) →
    (s.framesOf ck t.partKey).length < 64 → exec (.growDeadlockJacket pkg core) s = .next (s.modTeam t.tid (fun t => { t with res := .saving 2 }))) ∧
  (∀ (s : State) (pkg part till : Nat), let p := 96 * pkg + part
    (s.partAt p).phase = .folding → (s.partAt p).graceEnd = some till → till ≤ s.now → ∃ u, exec (.graceExpiry pkg part) s = .next u ∧
      (u.partAt p).phase = .saving ∧ u.teams = s.teams.map (fun (t : Team) => if t.partKey ≠ p then t else match t.res with
        | .jacketed n _ _ => { t with res := .jacketed n true false }
        | .resident => { t with res := .saving (if t.fibres.all (·.folded) then 3 else 4)
                                fibres := t.fibres.map (fun f => if f.folded then f else { f with stopped := some none }) }
        | _ => t)) ∧
  (∀ (s : State) (t : Team), s.team? t.tid = some t → t.fibres = [] → (∀ c ∈ s.cmds, c.tid = t.tid → c.kind = .ctab) →
    ∃ u, exec (.teamEnd t.tid) s = .next u ∧ u.team? t.tid = none ∧ ∀ k, k ≠ t.tid → (u.team? k).isSome = (s.team? k).isSome) ∧
  (∀ (s : State) (t : Team), s.team? t.tid = some t → (∃ u, exec (.jacketSave t.tid) s = .next u) ∧
    (t.res = .resident → ∃ u, exec (.jacketSave t.tid) s = .next u ∧ u.team? t.tid = some t)) ∧
  (∀ (s : State) (t : Team) (n : Nat) (held ready : Bool), s.team? t.tid = some t → t.res = .jacketed n held ready → held = true ∨ ready = false →
    exec (.jacketRestore t.tid) s = .next s) ∧
  (∀ (s : State) (t : Team) (n : Nat), s.team? t.tid = some t → t.res = .jacketed n false true → (s.partAt t.partKey).failed = false →
    (s.coreAt t.coreKey).halted = false → (∀ x ∈ s.residents t.coreKey, x.slot ≠ t.slot) → ∀ c,
    (s.acquire t.coreKey .package).frameReach t.partKey .read (s.frameVa t n) [(0, 0x800)] = .error c →
      exec (.jacketRestore t.tid) s = .next ((s.modTeam t.tid (fun t => { t with res := .jacketed n true false })).sendEvent t.partKey
        { cause := 0x65, core := t.core, slot := t.slot, fid := 0, aux := c.zeroExtend 32, value := BitVec.ofNat 64 (s.frameVa t n) })) ∧
  (∀ (s : State) (pkg part : Nat), let p := 96 * pkg + part
    ((s.partAt p).phase = .running → exec (.preqSave pkg part) s = .next ((s.modPart p (fun x => { x with selfSaved := true })).modPart p (fun x =>
      { x with phase := .folding, graceEnd := some (s.now + x.grace.toNat), forced := false, forcedTeams := 0 }))) ∧
    ((s.partAt p).phase = .saved → ((s.partAt p).pctl.toNat / 2 ^ 4 % 2 ^ 4 = 0) → ∃ u, exec (.preqResume pkg part) s = .next u ∧
      (u.partAt p).phase = .running ∧ ∀ t ∈ s.teams, t.partKey = p → ∀ n r, t.res = .jacketed n true r →
        ∃ t' ∈ u.teams, t'.tid = t.tid ∧ t'.res = if t.jkHeld then t.res else .jacketed n false true)) ∧
  ∀ (s : State) (pkg group q : Nat) (g : Group), (s.pkgAt pkg).groups.find? (fun g => g.num = group) = some g →
    let p := 96 * pkg + g.active
    s.nextMember pkg group g.active = some q → (s.partAt p).en = true → g.turning = false → (s.partAt p).selfSaved = false →
    g.since + (s.partAt p).tsq.toNat * 3300 ≤ s.now → (s.partAt p).phase = .running → ∃ u, exec (.timeSliceExpiry pkg group) s = .next u ∧
      (u.partAt p).phase = .folding ∧ ((u.pkgAt pkg).groups.filter (fun y => y.num = group)).all (·.turning) = true

/-- R52 to R62, R270, R275, R316, R382, R383: the machine steps of launches, queues and bins: a record is checked and held or rejected with its
code; a held launch is accepted once its preconditions hold, or rejected where one has become impossible; its team starts, and its
completion counts; a LAUNCH or SPAWN packet is taken; a bin's timer closes it, and its team starts; a continuation enters its bin. -/
def Obligations.LaunchStepResults : Prop :=
  (∀ (s : State) (x : Launch), s.launches.find? (fun y => y.id = x.id) = some x → x.stage = .queued → s.isHead x = true → s.served x = true →
    (∀ code, s.recCheck x.part x.agentLevel x.rec_ = some code → exec (.launchRecordCheck x.id) s = .next (s.rejectLaunch x code)) ∧
    (s.recCheck x.part x.agentLevel x.rec_ = none → ∃ u, exec (.launchRecordCheck x.id) s = .next u ∧
      u.launches = s.launches.map (fun y => if y.id = x.id then { y with stage := .held } else y))) ∧
  (∀ (s : State) (x : Launch), s.launches.find? (fun y => y.id = x.id) = some x → x.stage = .held →
    let pre := s.pres x.part x.agentLevel (readRec x.rec_)
    (s.isHead x = true → (∀ p ∈ pre, p = .met) → x.slot.isSome = true → exec (.launchAccept x.id) s = .next
      { s with launches := s.launches.map (fun y => if y.id = x.id then { y with stage := .accepted } else y) }) ∧
    (.fault ∈ pre → s.served x = true → exec (.launchPreFault x.id) s = .next (s.rejectLaunch x 8))) ∧
  (∀ (s : State) (x : Launch) (c core : Nat), s.launches.find? (fun y => y.id = x.id) = some x →
    let r := readRec x.rec_
    s.nextCluster x r = some c → x.pendingTeam r = true → s.turnOf x = true → s.mayPlace x.part = true → r.gang = 1 → core / 4 = c →
    r.gangOf 3 = 1 → 1 ≤ s.room (384 * (x.part / 96) + core) r → ∃ u, exec (.teamPlace x.id [core]) s = .next u ∧ u.teams.length = s.teams.length + 1 ∧
      (u.partAt x.part).lastCluster = some c ∧ ∃ y, u.launches.find? (fun y => y.id = x.id) = some y ∧ y.begun = x.begun + 1 ∧ y.tids = x.tids ++ [s.seq]) ∧
  (∀ (s : State) (x : Launch), s.launches.find? (fun y => y.id = x.id) = some x → let r := readRec x.rec_
    x.ranOut r = true → s.launchReleased x r.top = true → r.donectr = 0 → r.donefut = 0 →
      exec (.launchComplete x.id) s = .next (s.dropLaunch x.id)) ∧
  (∀ (s : State) (pkg part queue : Nat), s.slotAt (96 * pkg + part) queue = none →
    exec (.frontEndPacketTake pkg part queue) s = .next s ∧ ∀ core, exec (.spawnPacketTake pkg part queue core) s = .next s) ∧
  (∀ (s : State) (pkg part queue : Nat) (y : Slot) (r : Ready), let p := 96 * pkg + part
    s.slotAt p queue = some y → s.look p y.agent y.hdr = .ready r → s.chosen p = some (queue + 2) →
    let fin := fun (t : State) (state : Nat) (c : BitVec 7) (chunk : Nat) => (t.finishSlot p r state c chunk).taken p y.level (queue + 2)
    let word := fun (o : Nat) => ofBytes ((r.pkt.drop o).take 4)
    let dword := fun (o : Nat) => ofBytes ((r.pkt.drop o).take 8)
    (word 0 % 16 ≠ 9 → launchPacketBad r.pkt = true → exec (.frontEndPacketTake pkg part queue) s = .next (fin s 3 0x43 0)) ∧
    (launchPacketBad r.pkt = false → ∀ ia, s.agentAccess p y.agent [.read] (dword 8) = .ok (some ia) →
      let b := s.bytesAt (384 * pkg) (s.space p ia) ia .package 128
      s.recCheck p y.agent b = none → exec (.frontEndPacketTake pkg part queue) s = .next (fin (s.addLaunch
        { id := 0, part := p, level := y.agent, slot := some queue, rec_ := b, va := some (dword 8), prio := (readRec b).prio, stage := .held }) 1 0 0)) ∧
    (word 0 % 16 = 9 → spawnPacketBad r.pkt = true → ∀ core, exec (.spawnPacketTake pkg part queue core) s = .next (fin s 3 0x43 0)) ∧
    (word 0 % 16 = 9 → spawnPacketBad r.pkt = false → ∀ core k, (s.partAt p).cbase ≤ core / 4 → core / 4 ≤ (s.partAt p).clim → core < 384 →
      let w := dword 0x30
      (s.coreAt (384 * pkg + core)).intoBin s.now ⟨BitVec.ofNat 64 (dword 8), w % 2 ^ 5, w / 2 ^ 5 % 2 ^ 10, pointOf (w / 2 ^ 15 % 2 ^ 2), w / 2 ^ 17 % 2 ^ 2, p⟩
        ((r.pkt.drop 0x10).take 32) = some k →
      exec (.spawnPacketTake pkg part queue core) s = .next (fin (s.modCore (384 * pkg + core) (fun _ => k)) 1 0 0))) ∧
  (∀ (s : State) (pkg core bin : Nat), let ck := 384 * pkg + core
    let b := (s.coreAt ck).bins.getD bin { }
    (b.recs ≠ [] → b.opened + b.limit ≤ s.now → exec (.spawnBinTimeout pkg core bin) s = .next (s.modCore ck (fun c =>
      { c with bins := c.bins.set bin { b with closed := true } }))) ∧
    (b.closed = true → b.recs ≠ [] → (s.partAt b.key.part).phase = .running → s.restoreFirst ck b.key.prio = false → (s.coreAt ck).halted = false →
      s.fits ck ⟨b.recs.length, b.recs.length * 16 * b.key.win, b.key.leaves, 0⟩ = true → ∃ u t, exec (.spawnTeamPlace pkg core bin) s = .next u ∧
        u.teams = s.teams ++ [t] ∧ t.tid = s.seq ∧ t.core = core ∧ t.pkg = pkg ∧ t.prio = b.key.prio ∧ t.leaves = b.key.leaves ∧
        t.fibres.length = b.recs.length ∧ ∀ i, i < b.recs.length → ∃ f, t.fibres[i]? = some f ∧ f.fid = i ∧ f.pc = b.key.entry ∧
          f.regs.take 8 = (List.range 8).map (fun j => BitVec.ofNat 32 (ofBytes (((b.recs.getD i []).drop (4 * j)).take 4))))) ∧
  ∀ (s : State) (d : Delivery) (c : Nat) (key : SpawnKey) (args : List Byte) (k : Core), s.deliveries.find? (fun x => x.id = d.id) = some d →
    d.waiting = some (c, key, args) → (s.coreAt c).intoBin s.now key args = some k →
      exec (.continuationDeliver d.id) s = .next ({ s with deliveries := s.deliveries.filter (fun x => x.id ≠ d.id) }.modCore c (fun _ => k))

/-- R28, R30, R100, R230 to R232, R237, R241 to R244, R253 to R256, R384, R392, R409: the machine steps of the engines: a matrix, clear, read or copy
command completes once nothing before it stands in its way, and its leaves and flags return; a matrix command counts its multiply-adds; a command whose access fails ends as a fault
of its fibre; code tables, neighbour bytes and reservations; a bulk packet is taken, its chunks moved and its STATE written; and a chain
goes on to its next target. -/
def Obligations.EngineStepResults : Prop :=
  (∀ (s : State) (c : Cmd), s.cmds.find? (fun d => d.id = c.id) = some c → s.cmdFree c = true →
    let ends := fun (t : State) => ((t.cmds.find? (fun d => d.id = c.id)).map t.endCmd).getD t
    (c.kind = .mma → c.landed = true → s.tablesReady c = true → exec (.engineCommandComplete c.id) s = .next (ends (s.runMma c))) ∧
    (c.kind = .accz → exec (.engineCommandComplete c.id) s = .next (ends (s.modTeam c.tid (fun t =>
      { t with accs := t.accs.filter (fun a => !(decide (1024 * c.tile ≤ a.1) && decide (a.1 < 1024 * (c.tile + c.tiles)))) })))) ∧
    (c.kind = .accrd → exec (.engineCommandComplete c.id) s = .next (ends (s.runAccrd c))) ∧
    (c.kind = .tcopy → (readCopy c.block).dir = 3 → exec (.engineCommandComplete c.id) s = .next (ends (s.runInner c))) ∧
    (c.kind = .tcopy → (readCopy c.block).dir ≠ 3 → c.finished = true → s.cmdAcked c = true →
      exec (.engineCommandComplete c.id) s = .next (s.endCmd c)) ∧
    (c.kind = .tgath → c.finished = true → exec (.engineCommandComplete c.id) s = .next (s.endCmd c))) ∧
  (∀ (s : State) (c : Cmd) (ra rb : Resv), c.resA = some ra → c.resB = some rb → (s.partAt c.part).meters.length = 15 →
    let k := if ra.efmt ∈ [8, 9] ∧ rb.efmt ∈ [8, 9] ∧ ra.scaled = false ∧ rb.scaled = false then 2
      else if 16 ∈ [ra.elemBits, rb.elemBits] then 0 else if 8 ∈ [ra.elemBits, rb.elemBits] then 1 else 3
    ra.elemBits ≤ 16 → rb.elemBits ≤ 16 →
    let p := readMma c.block
    ∀ i, i < 15 → ((s.runMma c).partAt c.part).meters[i]? = some ((s.partAt c.part).meters.getD i 0 +
      if i = k then BitVec.ofNat 64 (p.m * p.n * (p.kept * (p.k / 16))) else 0)) ∧
  (∀ (s : State) (c : Cmd) (v : Nat), s.cmds.find? (fun d => d.id = c.id) = some c → s.cmdFault c = some v →
    exec (.engineAbort c.id) s = .next ((s.endCmd c).recordEngineFault c.tid c.fid c.part (BitVec.ofNat 64 v))) ∧
  (∀ (s : State) (c : Cmd) (r : Resv) (x : Team), s.cmds.find? (fun d => d.id = c.id) = some c → c.kind = .mma → c.resA = some r →
    let p := readMma c.block
    4 ≤ p.loca → c.gotA = false → s.cmdFree c = true → ((s.team c.tid).neighbour (p.loca - 4)).bind s.team? = some x → x.inJacket = false →
    x.leafFree p.noffa (r.used p.m p.kept p.k) → exec (.neighbourFetch c.id false) s = .next
      ((s.modCore c.core (fun k => { k with ob := Memory.write k.ob (1024 * r.base) (x.leafBytes p.noffa (r.used p.m p.kept p.k)) })).modCmd c.id
        (fun c => { c with gotA := true }))) ∧
  (∀ (s : State) (c : Cmd), s.cmds.find? (fun d => d.id = c.id) = some c → c.kind = .ctab →
    (∀ d ∈ s.cmds, d.core = c.core → d.id < c.id → c.arg8 ∉ d.tables ∧ ¬ (d.kind = .ctab ∧ d.arg8 = c.arg8)) →
      let entries := (List.range 16).map (fun i => BitVec.ofNat 16 (ofBytes ((c.block.drop (2 * i)).take 2)))
      exec (.ctabTableWrite c.id) s = .next ({ s with cmds := s.cmds.filter (fun d => d.id ≠ c.id) }.modCore c.core (fun k =>
        { k with tables := k.tables.set c.arg8 entries, tableVer := k.tableVer.set c.arg8 ((k.tableVer.getD c.arg8 0 + 1) % 2 ^ 16) }))) ∧
  (∀ (s : State) (pkg core num g : Nat) (r : Resv), let ck := 384 * pkg + core
    (s.coreAt ck).resvs.find? (fun r => r.num = num) = some r → r.gone = some g →
    (∀ c ∈ s.cmds, c.core = ck → c.id < g → ∀ x ∈ c.resA.toList ++ c.resB.toList, x.num ≠ num) →
      exec (.obRangeReturn pkg core num) s = .next (s.modCore ck (fun c => { c with resvs := c.resvs.filter (fun r => r.num ≠ num) }))) ∧
  (∀ (s : State) (pkg part queue engine hdr : Nat) (lvl : Nat) (r : Ready), let p := 96 * pkg + part
    engine < 48 → part < 96 → queue < 16 → s.engineLoad pkg engine < 8 → ((s.partAt p).qeng.getD queue 0).getLsbD engine = true →
    s.bulkSlot p queue = some (hdr, lvl) → s.bulkLook p queue = .ready r → s.nextQueue pkg engine = some (16 * part + queue) →
    s.retake p hdr = none → packetBad r.pkt = false → ∃ u, exec (.packetTake pkg part queue engine) s = .next u ∧
      ∃ x, u.packets = s.packets ++ [x] ∧ x.queue = queue ∧ x.engine = engine ∧ x.index = r.idx ∧ x.bytes = r.pkt ∧ x.hdr = BitVec.ofNat 64 hdr ∧
        x.part = p ∧ x.pkg = pkg) ∧
  (∀ (s : State) (x : Packet), s.packets.find? (fun y => y.id = x.id) = some x → x.stopped = false → (s.pkgAt x.pkg).down = false →
    x.asked = false →
    (x.effect = false → x.failing = none →
      (x.kind = 1 ∨ x.kind = 2 → exec (.copyChunk x.id) s = .next (s.copyChunk x)) ∧ (x.kind = 3 → exec (.copyChunk x.id) s = .next (s.chainStart x))) ∧
    (x.arrival = none → s.queueAbsent x = none →
      (∀ c k, x.failing = some (c, k) → exec (.packetFinish x.id) s = .next (s.packetStop x c k)) ∧
      (∀ c, x.failing = none → x.opFailed = some c →
        exec (.packetFinish x.id) s = .next (s.operationFails (if x.acted then x else { x with effect := false }) c)) ∧
      (x.failing = none → x.opFailed = none →
        (x.effect = true → x.doneKind = 0 ∨ x.acted = true → ∃ u, exec (.packetFinish x.id) s = .next u ∧ u = s.packetDone x 1 x.cause ∧
          u.packets = s.packets.filter (fun (y : Packet) => y.id ≠ x.id)) ∧
        ((x.effect = true ∧ x.doneKind ≠ 0 ∧ x.acted = false) ∨ (x.effect = false ∧ 4 ≤ x.kind) →
          exec (.packetFinish x.id) s = .next (s.operate x)))) ∧
    (∀ va, x.arrival = none → s.queueAbsent x = some va → exec (.packetFinish x.id) s = .next (s.parkPacket x .write va))) ∧
  ∀ (s : State) (m : Msg) (x : Packet) (pkt hop : Nat) (bs : List Byte) (c : Cause.Code), s.msgs.find? (fun y => y.id = m.id) = some m →
    m.op = .chain pkt hop bs → m.stage = .applied → m.answered = false → s.packets.find? (fun y => y.id = pkt) = some x →
    rangeIn x.ranges .user .write (ofBytes ((x.bytes.drop 0x10).take 8)) = .error c → exec (.chainHop m.id) s = .next
      (State.send { s with msgs := s.msgs.map (fun y => if y.id = m.id then { y with answered := true } else y) } m.dst x.pkg (.nack m.id c))

/-- R198, R212, R219, R223, R286 to R297, R319, R363, R366, R367: the steps of the ordering machine: an entry that may drain enters its core's
L1 as owned bytes; a registration is made and acknowledged; a load reads its own stores first, its L1 where that holds all of the rest as one copy, else by a fill, and
writes what it read; bytes age out and are written back; an atomic takes its step; a tile moves once it holds its clasps; a release completes; a clasp goes to
the oldest; and parked requests are reported late, and taken up again. -/
def Obligations.OrderingStepResults : Prop :=
  (∀ (s : State) (e : WEntry), s.wq.find? (fun d => d.id = e.id) = some e → s.mayDrain e = true → ∃ u, exec (.drain e.id) s = .next u ∧
    u.wq = s.wq.filter (fun (d : WEntry) => d.id ≠ e.id) ∧
    (∀ i, i < e.bytes.length → ∃ c, findByte (u.coreAt e.core).l1 e.sp (e.ia + i) = some c ∧ c.st = .owned ∧ some c.val = e.bytes[i]?) ∧
    let c := s.coreAt e.core
    let line := e.ia / 128
    ((∃ x ∈ c.l1Lines, x.sp = e.sp ∧ x.line = line) ∨ (c.l1Lines.filter (fun x => x.line % 256 = line % 256)).length < 8 →
      u.mem = s.mem ∧ (∀ k, k ≠ e.core → u.coreAt k = s.coreAt k) ∧ u.regs = (if e.pt = .core then s.regs else s.regs ++ [{ entry := e }]) ∧
      ∀ sp ia, ¬ (sp = e.sp ∧ e.ia ≤ ia ∧ ia < e.ia + e.bytes.length) → findByte (u.coreAt e.core).l1 sp ia = findByte c.l1 sp ia)) ∧
  (∀ (s : State) (r : Reg), s.regs.find? (fun x => x.entry.id = r.entry.id) = some r → r.entry.remote = false →
    (r.registered = false → r.parked = none → s.readParked r.entry.sp r.entry.ia s.seq = false →
      (r.entry.pt.wide = true → s.barred (corePkg r.entry.core) r.entry.sp r.entry.ia = false) → exec (.register r.entry.id) s = .next
      ((s.arriveReg r.entry).cleanWords r.entry.sp r.entry.ia r.entry.bytes.length)) ∧
    (r.registered = true → exec (.acknowledge r.entry.id) s = .next { s with regs := s.regs.filter (fun x => x.entry.id ≠ r.entry.id) })) ∧
  (∀ (s v : State) (q : Req) (bs : List Byte) (d : Field) (i : Nat), s.reqs.find? (fun x => x.id = q.id) = some q → q.kind = .load → q.size ≠ 0 →
    s.behind q = false → s.loadHeld q = false → q.hard = false → q.acq = false → q.dst = some d →
    (s.asksHome q = true → s.barred (corePkg q.core) q.sp q.ia = false) →
    s.take q.core q.tid q.fid q.order q.sp q.ia q.pt q.evict q.size = (v, some bs) →
    ∃ u, exec (.read q.id) s = .next u ∧ u.reqs = s.reqs.filter (fun (x : Req) => x.id ≠ q.id) ∧ u.wq = s.wq ∧
      (i < (loadWords q.size q.sx 0).length → d.file = .main → d.idx + i < (s.fibre ⟨q.tid, q.fid⟩).regs.length → (s.fibre? ⟨q.tid, q.fid⟩).isSome = true →
        (∃ p ∈ (s.fibre ⟨q.tid, q.fid⟩).pend, p.reg = .main (d.idx + i) ∧ p.id = q.order) →
          (u.fibre ⟨q.tid, q.fid⟩).regs[d.idx + i]? = (loadWords q.size q.sx (ofBytes bs))[i]?)) ∧
  (∀ (s v : State) (core sp ia : Nat) (rd : Reader) (pt : Point) (ev : Evict) (n : Nat) (bs : List Byte),
    s.takeLine core rd sp ia pt ev n = (v, some bs) → bs.length = n ∧
    (∀ i, i < n → ∀ x, rd.own (ia + i) = some x → bs[i]? = some x) ∧
    let held := fun (i : Nat) (c : CByte) => i < n ∧ rd.own (ia + i) = none ∧ findByte (s.coreAt core).l1 sp (ia + i) = some c
    ((∀ i, i < n → rd.own (ia + i) = none → ∃ c, held i c ∧ (c.st = .owned ∨ rd.floor c.ia ≤ c.ver)) →
      (∀ i j c d, held i c → held j d → c.st ≠ .owned → d.st ≠ .owned → c.ver = d.ver) → ∀ i c, held i c → bs[i]? = some c.val)) ∧
  (∀ (s v : State) (pkg core ia : Nat) (q : Req) (bs : List Byte), let ck := 384 * pkg + core
    s.reqs.find? (fun q => q.kind = .load && q.core = ck && decide (q.size ≠ 0) && wordOf q.ia = wordOf ia) = some q →
    s.loadHeld q = false → s.barred pkg q.sp q.ia = false → s.take ck q.tid q.fid q.order q.sp q.ia q.pt q.evict q.size = (v, some bs) →
      exec (.fill pkg core ia) s = .next (v.touchPage q.part q.ia)) ∧
  (∀ (s : State) (pkg core ia : Nat), let ck := 384 * pkg + core
    exec (.ageOut pkg core ia) s = .next (s.modCore ck (fun c => { c with l1 := c.l1.filter (fun b => !(b.ia / 4 * 4 = ia / 4 * 4 && b.st ≠ .owned)) })) ∧
    ((∀ b ∈ (s.coreAt ck).l1, b.ia / 4 = ia / 4 → b.st ≠ .owned) → core < 384 → exec (.writeBack pkg core ia) s = .next s)) ∧
  (∀ (s : State) (q : Req), s.reqs.find? (fun x => x.id = q.id) = some q → q.kind = .atomic → s.atomicReady q = true → q.aop ≠ .faddAny →
    q.hard = false → q.into = none →
      let taken := (s.endIngress (q.ia / 2 ^ 52 % 2 ^ 8) q.sp q.ia).homeTake q.core q.sp q.ia q.size
      let old := ofBytes taken.1
      let put := (taken.2.homePut (some q.core) q.sp q.ia (toBytes q.size (atomicOp q.aop q.sgn q.cas (8 * q.size) old q.b.toNat q.c.toNat))
        [{ tid := q.tid, fid := q.fid, va := q.va, part := q.part, level := q.level }]).cleanWords q.sp q.ia q.size
      let up := if q.pt = .system then (List.range q.size).foldl (fun t i => t.flushSys q.sp (q.ia + i)) put else put
      exec (.atomicStep q.id) s = .next ((up.touchPage q.part q.ia).finishAtomic q old)) ∧
  (∀ (s : State) (q : Req), s.reqs.find? (fun x => x.id = q.id) = some q → q.kind = .tileStore → s.holdsClasps q = true →
    (∀ m ∈ s.msgs, m.op ≠ .ack q.id ∧ ∀ b, m.op ≠ .data q.id b) → s.tileBehind q = false → ∃ u, exec (.tileStep q.id) s = .next u ∧
      (∀ x ∈ u.reqs, x.id = q.id → x.data = q.data) ∧ ((s.fibre? ⟨q.tid, q.fid⟩).isSome = true → (u.fibre ⟨q.tid, q.fid⟩).hold = some (.tile q.id true))) ∧
  (∀ (s : State) (l : Lane) (r : Release), (s.fibre? l).isSome = true → (s.fibre l).rels.find? (fun x => x.seq = r.seq) = some r →
    s.releaseReady l r.seq r.pt = true → (∀ q ∈ s.reqs, q.kind = .tileStore → q.rel ≠ some r.seq) → (s.fibre l).hold = some (.release r.seq false) →
      ∃ u sn, exec (.releaseComplete l.tid l.fid r.seq) s = .next u ∧ u.fibre? l = some { s.fibre l with
        rels := (s.fibre l).rels.filter (fun x => x.seq ≠ r.seq), hold := some (.release r.seq true), seen := sn, readySince := max (s.fibre l).readyAt s.now }) ∧
  (∀ (s : State) (pkg line : Nat) (c : Clasp), let cs := (s.pkgAt pkg).clasps
    cs.find? (fun c => c.line = line && !c.held && !cs.any (fun d => d.held && d.line = line && d.sp = c.sp)) = some c → s.reqs = [] → c.excl = false →
      exec (.claspGrant pkg line) s = .next (s.modPkg pkg (fun p =>
        { p with clasps := p.clasps.map (fun d => if d = c then { d with held := true } else d)
                 ingress := p.ingress.filter (fun x => !(x.1 = c.sp && x.2.1 = line)) }))) ∧
  (∀ (s : State) (pkg page : Nat), (∀ q, q < 96 → s.oldestParked (96 * pkg + q) page = none) → exec (.parkLimit pkg page) s = .next s) ∧
  (∀ (s : State) (pkg part page : Nat), page * 65536 / 2 ^ 52 % 256 = pkg → exec (.pgready pkg part page) s = .next (s.pageReady (96 * pkg + part) page)) ∧
  ∀ (s : State) (pkg line : Nat), exec (.ingressLeaseExpiry pkg line) s = .next (s.modPkg pkg (fun p => { p with
    ingress := p.ingress.filter (fun x => !(x.2.1 = line && decide (x.2.2 + 2048 ≤ s.now))) }))

/-- R260, R276 to R282, R321 to R323, R411 to R416: the steps of the stitch network. An arrival, a join or a drop moves one hop at a time
and takes effect at the home slot; a phase is announced and releases the fibres that wait for it; a .bound arrival goes once its
writes have been acknowledged; links and nodes fail, and traffic moves to the other link. -/
def Obligations.StitchStepResults : Prop :=
  (∀ (s : State) (m : Stitch), s.stitch.find? (fun x => x.id = m.id && x.bound) = some m →
    (∀ i ∈ m.marks, (∀ e ∈ s.wq, e.id ≠ i) ∧ (∀ r ∈ s.regs, r.entry.id ≠ i) ∧ (∀ q ∈ s.reqs, q.id ≠ i) ∧ ∀ c ∈ s.cmds, c.id ≠ i) → exec (.boundArrivalRelease m.id) s =
      .next { s with stitch := mapIf (fun (x : Stitch) => decide (x.id = m.id)) (fun x => { x with bound := false, marks := [] }) s.stitch }) ∧
  (∀ (s : State) (m : Stitch), s.Free m →
    let hops := s.modStitch m.id (·.hop)
    (∀ p d r, m.path = .die p d :: r → m.hop = { m with path := r, port := d }) ∧ (∀ n r, m.path = .switch n :: r → m.hop = { m with path := r, port := 0 }) ∧
    (∀ p r, m.path = .pkg p :: r → m.hop = { m with path := r, port := 10 }) ∧
    (m.kind = .arrival → m.parked = false → m.object = none →
      (∀ n r, m.path = .switch n :: r → m.any = false → exec (.stitchArrival m.id) s = .next hops) ∧
      (∀ p d r, m.path = .die p d :: r → phLevel m.handle ≠ 0 → exec (.stitchArrival m.id) s = .next hops) ∧
      (∀ x ph, m.path = [.pkg (phPkg m.handle)] → s.homeSlot m.handle = some x → m.phase = some ph → x.ph.any = false →
        ((ph ≠ x.ph.phase ∧ x.ph.arrived ≠ x.ph.parties) ∨ (ph = x.ph.phase ∧ x.ph.arrived + 1 ≠ x.ph.parties)) →
          exec (.stitchArrival m.id) s = .next ({ s with stitch := s.stitch.filter (fun x => x.id ≠ m.id) }.modSlot (phPkg m.handle) m.handle (fun y =>
            { y with ph := if ph = x.ph.phase then { x.ph with arrived := x.ph.arrived + 1 } else { x.ph with arrnext := x.ph.arrnext + 1 } })))) ∧
    (m.kind = .join → ∀ p d n r, m.path = .die p d :: n :: r → exec (.stitchJoin m.id) s = .next hops) ∧
    (m.kind = .join → ∀ x, m.path.length ≤ 1 → s.homeSlot m.handle = some x → x.ph.parties ≠ 0 ∨ m.parties ≠ 0 ∨ m.wt = true → ∃ u y, exec (.stitchJoin m.id) s = .next u ∧
      u.homeSlot m.handle = some y ∧ y.ph = { x.ph with joinnext := x.ph.joinnext + m.parties, waiters := x.ph.waiters + (if m.wt then 1 else 0) } ∧
      u.stitch = s.stitch.filter (fun (x : Stitch) => x.id ≠ m.id)) ∧
    (m.kind = .drop → m.object = none → m.counted = true → ∀ n n' r, m.path = n :: n' :: r → exec (.stitchDrop m.id) s = .next (s.modStitch m.id (fun _ => m.hop))) ∧
    (m.kind = .drop → m.object = none → m.counted = true → ∀ x, m.path.length ≤ 1 → s.homeSlot m.handle = some x →
      let p := m.parts.foldl Ph.dropPart x.ph
      let q := { p with waiters := p.waiters - (if m.wt then 1 else 0) }.settle 3
      exec (.stitchDrop m.id) s = .next (({ s with stitch := s.stitch.filter (fun x => x.id ≠ m.id) }.completed m.handle q.1 q.2 none).freeIdle
        (phPkg m.handle) m.handle))) ∧
  (∀ (s : State) (m x : Stitch), s.stitch.find? (fun y => y.id = m.id && y.kind = .arrival) = some m → m.object = none → m.woken = true → x ∈ s.stitch →
    x.woken = true → x.handle = m.handle → x.object = none → x.path.head? = m.path.head? → x.place < m.place →
    (∀ y ∈ s.stitch, y.id = m.id → y = m) → exec (.stitchArrival m.id) s = .next s) ∧
  (∀ (s : State) (m : Stitch) (ph payload : Word) (apkg : Nat) (w : Option Nat) (p : Nat), s.stitch.find? (fun x => x.id = m.id) = some m →
    m.kind = .broadcast ph payload apkg w → (∀ x ∈ s.stitch, x.id < m.id → x.handle ≠ m.handle ∨ x.path ≠ m.path) →
    (∀ d r x, m.path = .die p d :: r → (s.pkgAt p).deadNodes.contains d = false → (s.pkgAt p).slotOf m.handle = some x →
      exec (.phaseBroadcast m.id) s = .next ({ s with stitch := s.stitch.filter (fun x => x.id ≠ m.id) }.releaseDie p d m.handle x.ph)) ∧
    (∀ r x, m.path = .pkg p :: r → (s.pkgAt p).deadNodes.contains 8 = false → s.linkUp p = true → (s.pkgAt p).slotOf m.handle = some x →
      (ph - x.ph.phase).toNat < 2 ^ 31 → ∃ u, exec (.phaseBroadcast m.id) s = .next u ∧ ∀ y ∈ (u.pkgAt p).slots, y.live = true → y.handle = m.handle →
        y.ph.phase = ph ∧ y.ph.payload = payload ∧ y.ph.apkg = apkg)) ∧
  ∀ (s : State) (pkg node : Nat),
    ((s.pkgAt pkg).snact = false → (s.pkgAt pkg).slaUp = true → (s.pkgAt pkg).slbUp = true →
      exec (.stitchLinkFail pkg) s = .next (s.modPkg pkg (fun p => { p with slaUp := false, snact := true }))) ∧
    ((s.pkgAt pkg).snact = true → (s.pkgAt pkg).slbUp = true → (s.pkgAt pkg).slaUp = false →
      exec (.stitchLinkFail pkg) s = .next ((s.modPkg pkg (fun p => { p with slbUp := false })).monitorEvent pkg { cause := 0x76 })) ∧
    exec (.stitchLinkUp pkg false) s = .next (s.modPkg pkg (fun p =>
      { p with slaUp := true, snact := if p.slaUp = false ∧ p.slbUp = false then false else p.snact })) ∧
    exec (.stitchLinkUp pkg true) s = .next (s.modPkg pkg (fun p =>
      { p with slbUp := true, snact := if p.slaUp = false ∧ p.slbUp = false then true else p.snact })) ∧
    ((s.pkgAt pkg).deadNodes.contains node = false → exec (.stitchNodeFail pkg node) s = .next ((s.modPkg pkg (fun p =>
      { p with deadNodes := node :: p.deadNodes })).monitorEvent pkg { cause := 0x76, aux := BitVec.ofNat 32 node }))

/-- R396 to R403, R405: the steps of the Aputh fabric's ports and channels. A message is accepted once, inside its window, and a duplicate
is only acknowledged again; one without an answer is sent again and fails when its sends have run out; a flit that is bad or out of order
is discarded and asked for again; lanes fail and ports train at 8 lanes, at 4, or go down. -/
def Obligations.FabricStepResults : Prop :=
  (∀ (s : State) (m : Msg), s.msg? m.id = some m →
    (s.reaches m.src m.dst = false → exec (.messageReceive m.id) s = .next s) ∧
    (s.reaches m.src m.dst = true → m.stage ≠ .flying → exec (.messageReceive m.id) s =
      .next { s with msgs := mapIf (fun (x : Msg) => decide (x.id = m.id)) (fun x => { x with answered := true }) s.msgs }) ∧
    (s.reaches m.src m.dst = true → m.stage = .flying → 4096 ≤ (m.eseq + 2 ^ 32 - s.windowLow m.src m.dst) % 2 ^ 32 →
      exec (.messageReceive m.id) s = .next s) ∧
    (s.reaches m.src m.dst = true → m.stage = .flying → (m.eseq + 2 ^ 32 - s.windowLow m.src m.dst) % 2 ^ 32 < 4096 → ∃ u,
      exec (.messageReceive m.id) s = .next u ∧ u.msg? m.id = some { m with stage := .accepted } ∧ u.teams = s.teams ∧ u.mem = s.mem ∧
        exec (.deliver m.id) s = .next (u.handle m.id u.onMessage)) ∧
    (m.stage ≠ .flying → exec (.deliver m.id) s = .next s) ∧
    (m.answered = true → exec (.e2eRetryTimeout m.id) s = .next s) ∧
    (m.answered = false → m.stage = .flying → s.reaches m.src m.dst = false → exec (.e2eRetryTimeout m.id) s = .next (s.failMsg m 0x20)) ∧
    (m.answered = false → s.reaches m.src m.dst = true → m.sentAt + (s.pkgAt m.src).retry * 3300 ≤ s.now →
      ((s.pkgAt m.src).maxtry ≤ m.sends → exec (.e2eRetryTimeout m.id) s = .next (s.failMsg m 0x21)) ∧
      (m.sends < (s.pkgAt m.src).maxtry → exec (.e2eRetryTimeout m.id) s =
        .next { s with msgs := mapIf (fun (x : Msg) => decide (x.id = m.id)) (fun x => { x with sends := x.sends + 1, sentAt := s.now }) s.msgs }))) ∧
  (∀ (s : State) (pkg port : Nat) (f : Flit), let q := (s.pkgAt pkg).ports.getD port { }
    (q.state < 2 → exec (.flitReceive pkg port f) s = .next s) ∧
    (2 ≤ q.state → ((f.crcHolds = false ∧ (3 < f.evenErrors ∨ 3 < f.oddErrors)) ∨ f.lseq ≠ (q.lastGood + 1) % 4096) →
      exec (.flitReceive pkg port f) s = .next (s.modPkg pkg (·.modPort port (fun q => { q with asking := true })))) ∧
    (2 ≤ q.state → f.crcHolds = true → f.lseq = (q.lastGood + 1) % 4096 →
      let took := fun (q : Port) => { q.prune f.lack with lastGood := f.lseq, asking := false }
      (f.ftype = 0 → exec (.flitReceive pkg port f) s = .next (s.modPkg pkg (·.modPort port took))) ∧
      (f.ftype = 2 → exec (.flitReceive pkg port f) s = .next (s.modPkg pkg (·.modPort port (fun q => (took q).replayed f.lack)))) ∧
      (f.ftype = 1 → f.messages ≠ [] → s.ingressClass pkg port f = none → exec (.flitReceive pkg port f) s = .next s) ∧
      (f.ftype = 1 → f.messages ≠ [] → ∀ c, s.ingressClass pkg port f = some c → port < (s.pkgAt pkg).ports.length → ∃ u,
        exec (.flitReceive pkg port f) s = .next u ∧ ∃ y, (u.pkgAt pkg).ports[port]? = some y ∧ y.ingress = q.ingress ++ [(c, f.messages)] ∧
          y.lastGood = f.lseq ∧ y.asking = false)) ∧
    (q.state < 2 → port < (s.pkgAt pkg).ports.length → exec (.replayRequest pkg port f.lack) s = .next (s.modPkg pkg (·.modPort port id))) ∧
    (2 ≤ q.state → exec (.replayRequest pkg port f.lack) s = .next (s.modPkg pkg (·.modPort port (·.replayed (f.lack % 4096)))))) ∧
  ∀ (s : State) (pkg port lane : Nat), let q := (s.pkgAt pkg).ports.getD port { }
    let works := fun (ls : List Nat) => ∀ i ∈ ls, i ∉ q.badLanes
    (lane < 8 → port < 18 → q.state = 2 → lane ∉ q.badLanes → exec (.laneFail pkg port lane) s = .next (s.modPkg pkg (·.modPort port (fun q =>
      { q with state := 1, inRow := 0, buffer := [], badLanes := lane :: q.badLanes })))) ∧
    (port < 18 → (s.pkgAt pkg).down = false → bitAt (s.pkgAt pkg).fpctl port = true → q.state = 1 →
      (q.badLanes = [] → exec (.portRetrain pkg port) s = .next (s.modPkg pkg (·.modPort port (fun q => { q with state := 2 })))) ∧
      (q.badLanes ≠ [] → works [0, 1, 2, 3] ∨ works [4, 5, 6, 7] →
        exec (.portRetrain pkg port) s = .next (s.modPkg pkg (·.modPort port (fun q => { q with state := 3 })))) ∧
      (¬ works [0, 1, 2, 3] → ¬ works [4, 5, 6, 7] → exec (.portRetrain pkg port) s = .next ((s.modPkg pkg (fun p =>
        { p.modPort port (fun q => { q with state := 0, inRow := 0, buffer := [] }) with ferr := p.ferr ||| 4 })).monitorEvent pkg
          { cause := 0x75, aux := BitVec.ofNat 32 port })))

/-- R212, R289, R296, R363, R373, R375, R407 to R409, R421: what each kind of message does at its destination, and what it is answered with. -/
def Obligations.MessageResults : Prop :=
  (∀ (s : State) (id : Nat) (m : Msg), s.msg? id = some m → m.stage ≠ .accepted →
    ∀ i ∈ [Instr.get id, .getx id, .reg id, .wb id, .stale id, .draw id, .atm id, .clasp id, .unclasp id, .chain id, .lease id, .data id, .ack id,
      .nack id, .redirect id], exec i s = .next s) ∧
  (∀ (s : State) (m : Msg) (r : Nat), s.msg? m.id = some m → m.stage = .accepted → (s.pkgAt m.dst).down = true → m.op = .get r →
    exec (.get m.id) s = .next (s.respond m (.nack r 0x20))) ∧
  ∀ (s : State) (m : Msg), s.Accepted m →
    let gone := { s with msgs := s.msgs.filter (fun (x : Msg) => x.id ≠ m.id) }
    let answer := fun (t : State) (op : MsgOp) => { t with msgs := t.msgs.filter (fun (x : Msg) => x.id ≠ m.id) }.send m.dst m.src op
    (∀ q, m.op = .get q.id → s.barredRun m.src q.sp q.ia q.size = false → q.code = false → s.Served m q .read →
      let x := ((s.modReq q.id (fun q => { q with parked := none })).touchPage q.part q.ia).homeLines m.dst q.sp q.ia q.size q.pt
      exec (.get m.id) s = .next (answer x.2 (.data q.id (x.1.map (·.val))))) ∧
    (∀ q, m.op = .get q.id → s.req? q.id = some q → s.barredRun m.src q.sp q.ia q.size = true → exec (.get m.id) s = .next s) ∧
    (∀ q, m.op = .get q.id → s.req? q.id = some q → s.barredRun m.src q.sp q.ia q.size = false → q.code = false → s.pageCheck q.part q.level (some .read) q.ia = .absent →
      exec (.get m.id) s = .next (answer s (.nack q.id 0x14))) ∧
    (∀ r sp line, m.op = .getx r sp line → s.req? r ≠ none →
      exec (.getx m.id) s = .next (gone.modPkg m.dst (fun p => { p with clasps := p.clasps ++ [⟨sp, line, r, false, m.src, true⟩] }))) ∧
    (∀ r, m.op = .reg r → s.regs.find? (fun x => x.entry.id = r) = none → exec (.reg m.id) s = .next gone) ∧
    (∀ r x c, m.op = .reg r → s.regs.find? (fun x => x.entry.id = r) = some x → s.barredRun m.src x.entry.sp x.entry.ia x.entry.bytes.length = false →
      s.readParked x.entry.sp x.entry.ia s.seq = false →
      (s.pageCheck x.entry.part x.entry.level (some .write) x.entry.ia = .fail c → exec (.reg m.id) s = .next (answer s (.nack r c))) ∧
      (∀ key, s.pageCheck x.entry.part x.entry.level (some .write) x.entry.ia = .place key →
        let t := s.arriveReg x.entry
        ∀ y, t.regs.find? (fun y => y.entry.id = r) = some y → y.registered = true →
          exec (.reg m.id) s = .next (answer (t.cleanWords x.entry.sp x.entry.ia x.entry.bytes.length) (.ack r)))) ∧
    (∀ sp ia bs, m.op = .wb sp ia bs → (∀ b ∈ bs, ∀ d, findByte (s.pkgAt m.src).llc sp b.ia = some d → d.st ≠ .owned) →
      exec (.wb m.id) s = .next gone) ∧
    (∀ sp ia b, m.op = .wb sp ia [b] → ∀ d, findByte (s.pkgAt m.src).llc sp b.ia = some d → d.st = .owned → exec (.wb m.id) s =
      .next { s.backPeer m.src d with msgs := (s.backPeer m.src d).msgs.filter (fun (x : Msg) => x.id ≠ m.id) }) ∧
    (∀ sp ia len, m.op = .stale sp ia len →
      let mark := mapIf (fun (b : CByte) => b.sp = sp && decide (ia ≤ b.ia) && decide (b.ia < ia + len) && b.st ≠ .owned) (fun b => { b with st := .stale, wr := [] })
      exec (.stale m.id) s = .next (answer { s with
        cores := mapIf (fun (kc : Nat × Core) => decide (corePkg kc.1 = m.dst)) (fun kc => (kc.1, { kc.2 with l1 := mark kc.2.l1 })) s.cores
        pkgs := mapIf (fun (kp : Nat × Pkg) => decide (kp.1 = m.dst)) (fun kp => (kp.1, { kp.2 with llc := mark kp.2.llc })) s.pkgs } (.ack m.id))) ∧
    (∀ sp ia len, m.op = .draw sp ia len →
      let t := (List.range len).foldl (fun t i => t.drawIn m.dst sp (ia + i)) (s.endIngress m.dst sp ia len)
      let own := fun (b : CByte) => b.sp = sp && decide (ia ≤ b.ia) && decide (b.ia < ia + len) && b.st = .owned
      ((t.pkgAt m.dst).llc.filter own = [] → exec (.draw m.id) s = .next (answer t (.ack m.id))) ∧
      ((t.pkgAt m.dst).llc.filter own ≠ [] → exec (.draw m.id) s = .next (answer (t.send m.dst (homePkg ia) (.wb sp ia ((t.pkgAt m.dst).llc.filter own)))
        (.ack m.id)))) ∧
    (∀ q, m.op = .atm q.id → s.Served m q .write → (∀ c ∈ (s.pkgAt m.dst).clasps, ¬ (c.held = true ∧ c.sp = q.sp ∧ c.line = q.ia / 128)) →
      let x := ((s.modReq q.id (fun q => { q with parked := none })).touchPage q.part q.ia).applyAtomic q
      exec (.atm m.id) s = .next (answer (x.2.modPkg m.dst (·.useIngress q.sp (q.ia / 128) s.now)) (.data q.id (toBytes q.size x.1)))) ∧
    (∀ r q, m.op = .atm r → s.req? r = some q → (∃ c ∈ (s.pkgAt m.dst).clasps, c.held = true ∧ c.sp = q.sp ∧ c.line = q.ia / 128) →
      exec (.atm m.id) s = .next s) ∧
    (∀ r sp line, m.op = .clasp r sp line → s.req? r ≠ none →
      exec (.clasp m.id) s = .next (gone.modPkg m.dst (fun p => { p with clasps := p.clasps ++ [⟨sp, line, r, false, m.src, false⟩] }))) ∧
    (∀ r sp line, m.op = .unclasp r sp line → exec (.unclasp m.id) s = .next (gone.modPkg m.dst (fun p =>
      { p with clasps := p.clasps.filter (fun c => !(c.req = r && c.line = line && c.sp = sp)) }))) ∧
    (∀ pkt hop bs, m.op = .chain pkt hop bs →
      exec (.chain m.id) s = .next { s with msgs := mapIf (fun (x : Msg) => decide (x.id = m.id)) (fun x => { x with stage := .applied }) s.msgs }) ∧
    (∀ op lid page, m.op = .lease op lid page → exec (.lease m.id) s = .next (gone.leaseArrive m.src m.dst op lid page)) ∧
    (∀ r bs q, m.op = .data r bs → s.req? r = some q → q.kind = .atomic → exec (.data m.id) s = .next (gone.finishAtomic q (ofBytes bs))) ∧
    (∀ r bs q d i, m.op = .data r bs → s.req? r = some q → q.kind = .load → q.ia % 128 + q.size ≤ 128 → (∀ j, j < q.size → ∀ b : CByte,
        findByte (s.pkgAt (corePkg q.core)).llc q.sp (q.ia + j) = some b ∨ findByte (s.coreAt q.core).l1 q.sp (q.ia + j) = some b → b.st ≠ .owned) →
      q.hard = false → q.acq = false → q.dst = some d → d.file = .main → d.idx + i < (s.fibre ⟨q.tid, q.fid⟩).regs.length →
      (s.fibre? ⟨q.tid, q.fid⟩).isSome = true → (∃ p ∈ (s.fibre ⟨q.tid, q.fid⟩).pend, p.reg = .main (d.idx + i) ∧ p.id = q.order) →
      let ws := loadWords q.size q.sx (ofBytes ((List.range q.size).map (fun j =>
        (s.queuedByte q.tid q.fid q.order q.sp (q.ia + j)).getD (bs.getD (q.ia % 128 + j) 0))))
      i < ws.length → ∃ u, exec (.data m.id) s = .next u ∧ (∀ x ∈ u.reqs, x.id ≠ q.id) ∧ (u.fibre ⟨q.tid, q.fid⟩).regs[d.idx + i]? = ws[i]?) ∧
    (∀ r bs q, m.op = .data r bs → s.req? r = some q → q.kind = .pref →
      exec (.data m.id) s = .next ((gone.takeData q q.evict bs).1.dropReq q.id)) ∧
    (∀ of q, m.op = .ack of → s.req? of = some q → exec (.ack m.id) s = .next (gone.claimNext q)) ∧
    (∀ of, m.op = .ack of → s.req? of = none → (∀ x ∈ s.packets, x.id ≠ of) → exec (.ack m.id) s = .next (gone.acknowledged of)) ∧
    (∀ of q c, m.op = .nack of c → s.req? of = some q → q.kind = .load → exec (.nack m.id) s =
      .next ((gone.dropReq q.id).answer ⟨q.tid, q.fid⟩ (.failed c q.va))) ∧
    (∀ of q c, m.op = .nack of c → s.req? of = some q → q.kind = .line → q.code = true → c ≠ 0x70 → exec (.nack m.id) s =
      .next (((gone.dropReq q.id).modFibre ⟨q.tid, q.fid⟩ (fun f => { f with wait := none })).takeTrap ⟨q.tid, q.fid⟩ 0x11 (fetchFaultVal q.va c))) ∧
    (∀ of, m.op = .redirect of → exec (.redirect m.id) s = .next (gone.modReq of (fun q => { q with sent := false })))

/-- R23, R333, R378 to R382, R388, R392, R410, R420, R428 to R430: writes of the registers that a board controller or a supervisor writes: a
core's seed and its resumption, a partition's enable with R380's checks, its band, its narrowing, its queue bindings, the fabric block's
registers; and the bandwidth windows and the requests that a channel group starts. -/
def Obligations.RegisterWriteResults : Prop :=
  (∀ (s : State) (pkg core : Nat) (v : Word), let ck := 384 * pkg + core
    exec (.srseedWrite pkg core v) s = .next (s.modCore ck (fun c => { c with srseed := if v = 0 then 1 else v, srng := if v = 0 then 1 else v })) ∧
    ((s.coreAt ck).halted = true → exec (.coreResume pkg core) s = .next (s.modCore ck (fun c => { c with halted := false }))) ∧
    ((s.coreAt ck).halted = false → exec (.coreResume pkg core) s = .next s)) ∧
  (∀ (s : State) (pkg part : Nat) (v : Word), let p := 96 * pkg + part
    let x := s.partAt p
    let y := { x with pctl := BitVec.ofNat 16 (v.toNat % 4 + 16 * (v.toNat / 16 % 16)) }
    (v.getLsbD 0 = true → x.en = false →
      (∀ code, s.enableCheck p y = some code → exec (.partitionEnable pkg part v) s = .next (s.modPart p (fun x =>
        { x with pctl := BitVec.ofNat 16 (x.pctl.toNat % 256 + 256 * code) }))) ∧
      (s.enableCheck p y = none → v.toNat / 16 % 16 = 0 → exec (.partitionEnable pkg part v) s = .next (s.modPart p (fun _ => y)))) ∧
    (v.getLsbD 0 = false → x.en = true →
      (s.partBusy p = true → exec (.partitionDisable pkg part v) s = .next (s.modPart p (fun x =>
        { x with pctl := BitVec.ofNat 16 (x.pctl.toNat % 256 + 256 * 0x0A) }))) ∧
      (s.partBusy p = false → ∃ u, exec (.partitionDisable pkg part v) s = .next u ∧ (u.partAt p).en = false ∧ u.teams = s.teams)) ∧
    (y.clim < y.cbase → s.enableCheck p y = some 1) ∧
    ((∀ q, q < 96 → q ≠ part → (s.partAt (96 * pkg + q)).en = false) → part < 96 → y.cbase ≤ y.clim → y.colours ≠ 0 → y.pchan ≠ 0 →
      bandWeight y.pband ≠ 0 → (bandCeil y.pband = 0 ∨ bandFloor y.pband ≤ bandCeil y.pband) → bandFloor y.pband * 1000 / y.chanCount ≤ 737280 →
        s.enableCheck p y = none)) ∧
  (∀ (s : State) (pkg part : Nat) (v : Dword), let p := 96 * pkg + part
    let x := s.partAt p
    (x.en = false → exec (.pbandWrite pkg part v) s = .next (s.modPart p (fun x =>
      { x with pband := BitVec.ofNat 40 v.toNat, pbandOld := some (x.pbandOld.getD x.pband) }))) ∧
    (x.en = false → exec (.partitionNarrow pkg part .pcol0 v) s = .next (s.modPart p (fun x => { x with pcol0 := v }))) ∧
    (x.en = false → exec (.partitionNarrow pkg part .pcol1 v) s = .next (s.modPart p (fun x => { x with pcol1 := v }))) ∧
    (x.en = true → v ≠ 0 → v &&& x.pchan = v → exec (.partitionNarrow pkg part .pchan v) s = .next (s.modPart p (fun x => { x with pchan := v }))) ∧
    (x.en = true → (v = 0 ∨ v &&& x.pchan ≠ v) → exec (.partitionNarrow pkg part .pchan v) s = .next (s.modPart p (fun x =>
      { x with pctl := BitVec.ofNat 16 (x.pctl.toNat % 256 + 256 * 0x0B) }))) ∧
    (x.en = false → ∃ u, exec (.partitionNarrow pkg part .pclu v) s = .next u ∧ (u.partAt p).cbase = v.toNat % 128 ∧
      (u.partAt p).clim = v.toNat / 256 % 128) ∧
    (x.qsel < 16 → x.qdesc.length = 16 → ∃ u, exec (.queueBind pkg part .qdesc v) s = .next u ∧ ∃ w, (u.partAt p).qdesc[x.qsel]? = some w ∧
      w.toNat / 2 ^ 56 = (if v.toNat / 2 ^ 56 = 0 then 1 else v.toNat / 2 ^ 56) ∧ w.toNat / 2 ^ 7 % 2 ^ 49 = v.toNat / 2 ^ 7 % 2 ^ 49 ∧
        w.toNat % 16 = v.toNat % 16 ∧ ∀ i, i ≠ x.qsel → (u.partAt p).qdesc[i]? = x.qdesc[i]?) ∧
    (x.qsel < 16 → x.qeng.length = 16 → ∃ u, exec (.queueBind pkg part .qeng v) s = .next u ∧
      (u.partAt p).qeng[x.qsel]? = some (BitVec.ofNat 48 v.toNat) ∧ ∀ i, i ≠ x.qsel → (u.partAt p).qeng[i]? = x.qeng[i]?)) ∧
  (∀ (s : State) (pkg : Nat) (v : Word), let p := s.pkgAt pkg
    (∃ u, exec (.fpctlWrite pkg v) s = .next u ∧ (u.pkgAt pkg).fpctl = v.toNat % 2 ^ 18 ∧ ∀ i, i < 18 → v.getLsbD i = false →
      ∀ y, (u.pkgAt pkg).ports[i]? = some y → y.state = 0) ∧
    (v.toNat / 65536 % 2048 ≤ v.toNat % 2048 → v.toNat % 2048 ≤ 1024 - p.floorSum → exec (.fpoolWrite pkg v) s =
      .next (s.modPkg pkg (fun p => { p with fhi := v.toNat % 2048, flo := v.toNat / 65536 % 2048 }))) ∧
    ((v.toNat % 2048 < v.toNat / 65536 % 2048 ∨ 1024 - p.floorSum < v.toNat % 2048) →
      exec (.fpoolWrite pkg v) s = .next (s.modPkg pkg (fun p => { p with ferr := p.ferr ||| 2 }))) ∧
    (p.floorSum - lookupD 0 p.ffsel p.floors + v.toNat % 1024 ≤ 512 → exec (.ffloorWrite pkg v) s =
      .next (s.modPkg pkg (fun p => { p with floors := insertAt p.ffsel (v.toNat % 1024) p.floors }))) ∧
    (512 < p.floorSum - lookupD 0 p.ffsel p.floors + v.toNat % 1024 → exec (.ffloorWrite pkg v) s =
      .next (s.modPkg pkg (fun p => { p with ferr := p.ferr ||| 1 }))) ∧
    ((if v.getLsbD 0 then p.slbUp else p.slaUp) = true → exec (.snctlWrite pkg v) s = .next (s.modPkg pkg (fun p => { p with snact := v.getLsbD 0 }))) ∧
    (p.resetDue = none → exec (.colctlUnfreeze pkg) s = .next (s.modPkg pkg (fun p => { p with frozen := false }))) ∧
    (∀ r, p.resetDue = some r → exec (.colctlUnfreeze pkg) s = .next (s.modPkg pkg (fun p => { p with
      frozen := false, resetDue := none, colophon := ({ r with seq := p.colseq } :: p.colophon).take 2048, colseq := (p.colseq + 1) % 2 ^ 32 })))) ∧
  (∀ (s : State) (pkg : Nat),
    (s.now < (s.pkgAt pkg).winStart + 3300 → exec (.bandwidthWindow pkg) s = .next s) ∧
    ((s.pkgAt pkg).winStart + 3300 ≤ s.now → ∃ u, exec (.bandwidthWindow pkg) s = .next u ∧ (u.pkgAt pkg).winStart = s.now ∧ ∀ q, q < 96 →
      (u.partAt (96 * pkg + q)).counts = [] ∧ (u.partAt (96 * pkg + q)).band = (s.partAt (96 * pkg + q)).pband ∧ u.hbm = s.hbm ∧
      (u.partAt (96 * pkg + q)).perr = (if s.floorMissed pkg (96 * pkg + q) then (s.partAt (96 * pkg + q)).perr ||| 2 else (s.partAt (96 * pkg + q)).perr) ∧
      (u.pkgAt pkg).pressed = s.pressing pkg)) ∧
  ∀ (s : State) (pkg group : Nat), let mine := s.hbm.filter (fun r => r.pkg = pkg && r.group = group)
    (mine = [] → exec (.hbmRequestStart pkg group) s = .next s) ∧
    (∀ r, mine.find? (fun r => decide ((s.partAt r.part).counted group < (s.partAt r.part).floorShare)) = some r → group < 64 → ∃ u,
      exec (.hbmRequestStart pkg group) s = .next u ∧ u.hbm = s.hbm.erase r ∧ (u.partAt r.part).counted group = (s.partAt r.part).counted group + 128 ∧
        (8 ≤ (s.partAt r.part).meters.length → (u.partAt r.part).meters[if r.write then 7 else 6]? =
          some ((s.partAt r.part).meters.getD (if r.write then 7 else 6) 0 + 128)))

/-- R368 to R375, R393 to R395: tiers, leases and snapshots: a tier's clock starts above HI and stops at LO; a page is taken for demotion with
MIG set; a lease is opened, recalled, spilled past its deadline and closed; a snapshot advances SEQ and DIGEST. -/
def Obligations.TierAndLeaseResults : Prop :=
  (∀ (s : State) (pkg tier : Nat), let d := s.tierDesc pkg tier
    (tier = 0 ∨ 3 < tier ∨ d = 0 → exec (.tierClockStep pkg tier) s = .next s) ∧
    ((s.pkgAt pkg).down = false → 1 ≤ tier → tier ≤ 3 → d ≠ 0 → s.nframe pkg tier ≠ 0 →
      (tier ∉ (s.pkgAt pkg).demoting → s.phys pkg (d + 4) 4 ≤ s.phys pkg (d + 8) 4 → exec (.tierClockStep pkg tier) s = .next s) ∧
      (tier ∈ (s.pkgAt pkg).demoting → s.phys pkg (d + 4) 4 ≤ s.phys pkg (d + 12) 4 → exec (.tierClockStep pkg tier) s =
        .next (s.modPkg pkg (fun p => { p with demoting := p.demoting.filter (· ≠ tier) }))) ∧
      (tier ∉ (s.pkgAt pkg).demoting → s.phys pkg (d + 8) 4 < s.phys pkg (d + 4) 4 → (s.pkgAt pkg).victims = [] →
        exec (.tierClockStep pkg tier) s = .next ((s.modPkg pkg (fun p => { p with demoting := p.demoting ++ [tier] })).examine pkg tier
          (s.phys pkg (d + 32) 4 % s.nframe pkg tier))) ∧
      (tier ∈ (s.pkgAt pkg).demoting → s.phys pkg (d + 12) 4 < s.phys pkg (d + 4) 4 → ((s.pkgAt pkg).victims.filter (fun v => v.1 = tier)).length = 4 →
        exec (.tierClockStep pkg tier) s = .next s))) ∧
  (∀ (s : State) (pkg tier n e t m : Nat), let f := s.frame pkg tier n
    let u := s.flushPhys (physKey 1 pkg f.leaf) 8
    (u.pkgAt pkg).down = false → u.tierDesc pkg tier ≠ 0 → f.owned = true → u.frameLeaf pkg f = some e →
    ((u.pkgAt pkg).victims = [(tier, n, none)] →
      (u.demoteTo pkg tier = none → exec (.pageDemote pkg tier n) s = .next (u.modPkg pkg (fun p => { p with victims := [] }))) ∧
      (u.demoteTo pkg tier = some (t, m) → bitAt e 19 = false → exec (.pageDemote pkg tier n) s =
        .next (((u.updateEntry (physKey 1 pkg f.leaf) (fun _ => e + 2 ^ 19)).dropTlb (96 * pkg + f.part) f.page).modPkg pkg (fun p =>
          { p with victims := [(tier, n, some e)] })))) ∧
    ((u.pkgAt pkg).victims = [(tier, n, some e)] → u.pagesHeld (96 * pkg + f.part) f.page 1 = true → exec (.pageDemote pkg tier n) s = .next u)) ∧
  (∀ (s : State) (pkg index : Nat), index < 64 → (∀ x ∈ (s.pkgAt pkg).leases, x.index ≠ index) →
    let x := s.readLease pkg index
    (x.state ≠ 0 → exec (.leaseOpen pkg index) s = .next s) ∧
    (x.state = 0 → ∃ u, exec (.leaseOpen pkg index) s = .next u ∧ { x with state := 1 } ∈ (u.pkgAt pkg).leases ∧
      ∃ y ∈ u.msgs, y.id = s.seq ∧ y.src = pkg ∧ y.dst = x.peer ∧ y.op = .lease 1 x.lid 0) ∧
    exec (.leaseRecallCmd pkg index) s = .next s ∧ exec (.leaseClose pkg index) s = .next s ∧ exec (.leaseSpill pkg index) s = .next s) ∧
  (∀ (s : State) (pkg : Nat) (x : Lease), (s.pkgAt pkg).leases.find? (fun y => y.index = x.index) = some x →
    exec (.leaseOpen pkg x.index) s = .next s ∧
    (x.state ≠ 2 ∨ x.role ≠ 0 → exec (.leaseRecallCmd pkg x.index) s = .next s) ∧
    (x.state = 2 → x.role = 0 → ∃ u, exec (.leaseRecallCmd pkg x.index) s = .next u ∧ ∃ y ∈ u.msgs, y.id = s.seq ∧ y.src = pkg ∧ ∃ l, y.op = .lease 3 l 0) ∧
    (x.state = 5 ∨ x.state = 6 → ∃ u, exec (.leaseClose pkg x.index) s = .next u ∧
      (u.pkgAt pkg).leases = (s.pkgAt pkg).leases.filter (fun (y : Lease) => y.index ≠ x.index)) ∧
    (x.state ≠ 5 → x.state ≠ 6 → exec (.leaseClose pkg x.index) s = .next s) ∧
    (x.role = 0 → x.state = 3 → x.start + (if x.deadline = 0 then 1031250 * x.nreg else x.deadline) ≤ s.clk pkg → s.mapClear pkg x = false →
      exec (.leaseSpill pkg x.index) s = .next ((s.setLease pkg x.index 4).send pkg x.peer (.lease 6 x.lid 0))) ∧
    (x.role = 0 → x.state = 3 → s.clk pkg < x.start + (if x.deadline = 0 then 1031250 * x.nreg else x.deadline) →
      exec (.leaseSpill pkg x.index) s = .next s) ∧
    (x.role = 0 → x.state = 4 → s.tilesIn pkg x = true → exec (.leaseSpill pkg x.index) s = .next s)) ∧
  ∀ (s : State) (pkg part index : Nat) (sign : Bool), let p := 96 * pkg + part
    (∃ u, exec (.meterSnap pkg part) s = .next u ∧ (u.partAt p).snapseq = (s.partAt p).snapseq + 1 ∧
      (u.partAt p).digest = sha384 (s.snapBytes p) ∧ (s.snapBytes p).length = 160 + (s.partAt p).digest.length ∧ (u.partAt p).meters = (s.partAt p).meters) ∧
    (index = 0x10 ∨ index = 0xFF → exec (.spdmGetMeasurements pkg part index sign) s = exec (.meterSnap pkg part) s) ∧
    (index ≠ 0x10 → index ≠ 0xFF → exec (.spdmGetMeasurements pkg part index sign) s = .next s)

/-- R287, R334, R381, R390, R391, R418 to R427: errors, resets, heat and the host: a corrected error is recorded; an access ends with an error
of the memory or directory behind it; an uncorrectable one poisons its
word or ends its team; a fatal error freezes, halts and dumps; a function-level reset ends a partition's work; a cold or a warm reset
clears a package; limits throttle; a host's write is a write at the system point. -/
def Obligations.IntegrityStepResults : Prop :=
  (∀ (s : State) (pkg part core word tid : Nat),
    exec (.correctedError pkg part core) s = .next (if part = 0x7F then s.monitorEvent pkg { cause := 0x7A, core := core }
      else s.sendEvent (96 * pkg + part) { cause := 0x7A, core := core }) ∧
    (physKey 1 pkg (4 * word) / 4 ∉ s.poison →
      exec (.uncorrectableError pkg (.word word)) s = .next { s with poison := s.poison ++ [physKey 1 pkg (4 * word) / 4] } ∧
      exec (.patrolScrub pkg word .uncorrectable) s = .next ({ s with poison := s.poison ++ [physKey 1 pkg (4 * word) / 4] }.monitorEvent pkg
        { cause := 0x7B, value := BitVec.ofNat 64 (4 * word) })) ∧
    exec (.patrolScrub pkg word .clean) s = .next s ∧
    (let here := fun (b : CByte) => decide (b.ia / 128 = word / 128)
     exec (.uncorrectableError pkg (.line word)) s = .next (if (s.pkgAt pkg).llc.any (fun b => here b && b.st = .owned) then s
       else (s.modPkg pkg (fun k => { k with llc := k.llc.filter (fun b => !here b) })).monitorEvent pkg
         { cause := 0x7C, value := BitVec.ofNat 64 (128 * (word / 128)) })) ∧
    (∀ q, s.req? q.id = some q →
      exec (.uncorrectableError pkg (.access q.id .attached)) s = .next (if (s.sysKey q.sp q.ia).any (fun k => k / 2 ^ 60 = 3) then s.failReq q 0x22 else s) ∧
      exec (.uncorrectableError pkg (.access q.id .host)) s = .next (if (s.sysKey q.sp q.ia).any (fun k => k / 2 ^ 60 = 4) then s.failReq q 0x23 else s) ∧
      exec (.uncorrectableError pkg (.access q.id .directory)) s = .next (if q.pt.wide then s.failReq q 0x24 else s)) ∧
    exec (.patrolScrub pkg word .corrected) s = .next (s.monitorEvent pkg { cause := 0x7A }) ∧
    ((s.team tid).pkg ≠ pkg → exec (.uncorrectableError pkg (.regfile tid)) s = .next s) ∧
    (∀ t, s.team? tid = some t → t.pkg = pkg → ∃ u, exec (.uncorrectableError pkg (.regfile tid)) s = .next u ∧ u.team? tid = none ∧
      (∀ c ∈ u.cmds, c.tid ≠ tid) ∧ ∀ q ∈ u.reqs, q.tid ≠ tid)) ∧
  (∀ (s : State) (pkg ia : Nat) (b : CByte), (s.pkgAt pkg).llc.find? (fun c => c.ia / 128 = ia / 128) = some b →
    exec (.llcTagParityError pkg ia false false) s = .next ((s.modPkg pkg (fun k => { k with llc := k.llc.filter (fun c =>
      !(c.sp = b.sp && c.ia / 128 = ia / 128 && c.st ≠ .owned)) })).sendEvent (96 * pkg + b.sp % 96) { cause := 0x7A }) ∧
    ∃ u, exec (.llcTagParityError pkg ia true true) s = .next u ∧ ∀ q, q < 96 → let x := s.partAt (96 * pkg + q)
      x.en = true → bitAt x.colours ((s.partAt (if b.sp / 96 = pkg then b.sp else 96 * pkg + b.sp % 96)).setOf ia / 16) = true →
        (u.partAt (96 * pkg + q)).failed = true) ∧
  (∀ (s : State) (pkg part : Nat), let p := 96 * pkg + part
    (∀ x ∈ s.packets, x.part = p → x.stopped = true) → ∃ u, exec (.functionLevelReset pkg part) s = .next u ∧ (∀ t ∈ u.teams, t.partKey ≠ p) ∧
      (∀ x ∈ u.launches, x.part ≠ p) ∧ (u.partAt p).perr = 0 ∧ (u.partAt p).failed = false ∧ (u.partAt p).pctl = (s.partAt p).pctl) ∧
  (∀ (s : State) (pkg : Nat),
    ((s.pkgAt pkg).fatal = none → exec (.fatalDump pkg) s = .next s) ∧
    ((s.pkgAt pkg).fatal.isSome = true → (s.pkgAt pkg).dumpstat = 3 → exec (.fatalDump pkg) s = .next ({ s with
      mem := (s.dumpPieces pkg).foldl (fun m (x : Nat × List Byte) => Memory.write m (physKey 1 pkg ((s.pkgAt pkg).dumpbase.toNat % 2 ^ 52) + x.1) x.2) s.mem
      }.modPkg pkg (fun k => { k with dumpstat := 1 }))) ∧
    ((s.pkgAt pkg).fatal.isSome = true → (s.pkgAt pkg).dumpstat ≠ 3 → (s.pkgAt pkg).down = false → ∃ u,
      exec (.fatalDump pkg) s = .next (if (s.pkgAt pkg).dumpbase = 0 then u else u.flushSlice pkg) ∧ (u.pkgAt pkg).frozen = true ∧
        (u.pkgAt pkg).down = true ∧ (∀ c, c < 384 → (u.coreAt (384 * pkg + c)).halted = true) ∧
        ((s.pkgAt pkg).dumpbase ≠ 0 → (u.pkgAt pkg).dumpstat = 3))) ∧
  (∀ (s : State) (pkg temp : Nat), let read := fun (v : Nat) => s.modPkg pkg (fun p => { p with therm := v })
    (temp < 100 → bitAt (s.pkgAt pkg).therm 8 = false → exec (.thermalLimit pkg temp false) s = .next (read temp)) ∧
    (100 ≤ temp → temp < 110 → bitAt (s.pkgAt pkg).therm 8 = false →
      exec (.thermalLimit pkg temp false) s = .next ((read (temp + 256)).monitorEvent pkg { cause := 0x77, aux := 1 })) ∧
    (110 ≤ temp → temp < 256 → bitAt (s.pkgAt pkg).therm 8 = true → exec (.thermalLimit pkg temp false) s = .next (((read (temp + 256)).monitorEvent pkg
      { cause := 0x77, aux := 2 }).monitorEvent pkg { cause := 0x79 })) ∧
    exec (.throttleEnd pkg) s = .next (read (min ((s.pkgAt pkg).therm % 256) 99)) ∧
    exec (.powerFault pkg) s = .next (s.monitorEvent pkg { cause := 0x78 }) ∧
    exec (.expanderFatalError pkg) s = .next (s.monitorEvent pkg { cause := 0x7E }) ∧
    exec (.watchdogExpiry pkg) s = exec (.warmReset pkg 3 .none) (s.monitorEvent pkg { cause := 0x7D }) ∧
    (let cfg := (s.pkgAt pkg).hostcfg
      let set := fun (v : Nat) => s.modPkg pkg (fun p => { p with hostcfg := v })
      (∀ accepts, exec (.hostLinkTraining pkg (.pcieonly false) accepts) s = .next (set (2 * (cfg / 2 % 4))) ∧
        exec (.hostLinkTraining pkg (.pcieonly true) accepts) s = .next (set (1 + 2 * (cfg / 2 % 4))) ∧
        exec (.hostLinkTraining pkg .lost accepts) s = .next (set (cfg % 2)) ∧
        (cfg % 2 = 1 → exec (.hostLinkTraining pkg .trained accepts) s = .next (set 3))) ∧
      (cfg % 2 = 0 → exec (.hostLinkTraining pkg .trained true) s = .next (set 4) ∧ exec (.hostLinkTraining pkg .trained false) s = .next (set 2)))) ∧
  (∀ (s : State) (pkg cause : Nat),
    (∃ u, exec (.coldReset pkg .none) s = .next u ∧ (∀ t ∈ u.teams, t.pkg ≠ pkg) ∧ (∀ x ∈ u.packets, x.pkg ≠ pkg) ∧
      (u.pkgAt pkg).rstcause = 1 ∧ (u.pkgAt pkg).down = false ∧ ∀ a, a < 2 ^ 52 → Memory.byte u.mem (physKey 1 pkg a) = 0) ∧
    ∃ u, exec (.warmReset pkg cause .none) s = .next u ∧ (∀ t ∈ u.teams, t.pkg ≠ pkg) ∧ (u.pkgAt pkg).rstcause = (if cause = 3 then 3 else 2) ∧
      (u.pkgAt pkg).down = false) ∧
  ∀ (s : State) (pkg addr size : Nat) (v : Dword),
    exec (.hostAccess pkg addr size none) s = .next s ∧
    ((s.pkgAt pkg).hostcfg / 2 % 4 = 0 → exec (.hostAccess pkg addr size (some v)) s = .next s) ∧
    ((s.pkgAt pkg).hostcfg / 2 % 4 ≠ 0 → size ≤ 8 → addr + size ≤ 2 ^ 52 → inBlock addr = false → ∃ u, exec (.hostAccess pkg addr size (some v)) s = .next u ∧
      u.mem = Memory.write s.mem (physKey 1 pkg addr) (toBytes size v.toNat) ∧ u.teams = s.teams)

/-- R44, R156 to R164, R173, R179, R211, R330, R336, R342, R367, R375, R394, R409: forms that complete, each with the next state that its
own effect gives, under conditions on the state and the operands alone: FRND and the approximate functions; NOP, YIELD and SLEEP; the
collectives of a whole band; the software traps and the returns; TST; and the machine steps that save a team into a frame, bring one back,
write a word back, report a page parked too long, carry a chain to its last target, take a measurement, reset a package whose watchdog has run
out, and spill a lent window. -/
def Obligations.FormsComplete : Prop :=
  (∀ (s : State) (h : Head), s.Issued →
    (∀ p ∈ ([(Instr.frsq, Approx.rsq), (Instr.fexp2, Approx.exp2), (Instr.flog2, Approx.log2), (Instr.fsin, Approx.sin), (Instr.fcos, Approx.cos),
        (Instr.ftanh, Approx.tanh)] : List ((Head → FloatMod → Instr) × Approx)), ∀ m : FloatMod,
      ∃ t, exec (p.1 h m) s = .next t ∧ RegisterEffect s t h 0 (fun l =>
        let r := p.2.eval (ftypeFmt m.ty) m.ftz (s.readReg l .sa h.sa)
        s.floatWrite l h.dst r.1 r.2 none)) ∧
    (∀ m : FloatMod, ∃ t, exec (.frnd h m) s = .next t ∧ RegisterEffect s t h (drawsOf (s.modeOf m.rnd) 1) (fun l =>
      let f := ftypeFmt m.ty
      let v := FVal.integral (s.modeOf m.rnd) (s.drawn h l (s.modeOf m.rnd) 1 1) (s.readFloat l .sa h.sa f m.ftz)
      s.floatWrite l h.dst (f.round .rtz false false 0 v.1).1 v.2 (some 4))) ∧
    (∀ m, ∃ t, exec (.nop h m) s = .next t ∧ RegisterEffect s t h 0 (fun _ => { })) ∧
    (∀ m : SyncMod, m.imm24 ≠ 0 → ∃ t, exec (.yieldN h m) s = .next t ∧ FibreEffect s t h (fun _ f =>
      { f.moved s.now h.stall with hold := some (.yield (s.now + m.imm24.toNat)) })) ∧
    ((∀ l ∈ s.guarded h, (s.fibre l).wait = none) → ∀ m : SyncMod,
      (m.imm24 ≠ 0 → ∃ t, exec (.sleep h m) s = .next t ∧ FibreEffect s t h (fun _ f =>
        { f with wait := some { on := .sleep (s.now + m.imm24.toNat), since := s.now }, waitAt := 0, turn := none })) ∧
      ((∀ l ∈ s.guarded h, s.readReg l .sa h.sa ≠ 0) → ∃ t, exec (.sleepReg h m) s = .next t ∧ FibreEffect s t h (fun l f =>
        { f with wait := some { on := .sleep (s.now + (s.readReg l .sa h.sa).toNat), since := s.now }, waitAt := 0, turn := none }))) ∧
    ((∀ l ∈ s.guarded h, ∃ w, (s.fibre l).wait = some w ∧ w.met = true) → ∀ m : SyncMod, ∀ i ∈ [Instr.sleep h m, .sleepReg h m],
      ∃ t, exec i s = .next t ∧ FibreEffect s t h (fun _ f => f.moved s.now h.stall))) ∧
  (∀ (s : State) (h : Head) (m : SyncMod) (b : Nat), s.Whole b → m.imm24.toNat / 2 ^ 8 % 2 ^ 3 ≤ 4 → m.subop.toNat < 4 →
    ∀ i ∈ [Instr.voteAny h m, .voteAll h m, .voteBallot h m, .voteCount h m, .shfl h m, .breduce h m, .bscan h m, .matchLead h m,
      .matchUni h m, .bsync h m, .bsyncMask h m],
      ∃ t w, exec i s = .next t ∧ LaneEffect s t (s.bandLanes b) (s.guard h) h.stall 0 w (fun l => nextPc (s.fibre l).pc)) ∧
  (∀ (s : State) (h : Head) (m : SystemMod) (l : Lane), s.Alone h l → (s.fibre l).inFlight = false →
    (m.code.toNat < 0x28 → exec (.trap h m) s = .next (s.trapped l h 0x09 (BitVec.ofNat 64 m.code.toNat))) ∧
    (0x28 ≤ m.code.toNat → m.code.toNat ≤ 0x3F → exec (.trap h m) s = .next (s.trapped l h (BitVec.ofNat 7 m.code.toNat) 0)) ∧
    exec (.sysc h m) s = .next (s.trapped l h 0x0A (BitVec.ofNat 64 m.code.toNat)) ∧
    exec (.bkpt h m) s = .next (s.trapped l h 0x0B (BitVec.ofNat 64 m.code.toNat)) ∧
    (∀ w, readHead w = h → exec (.unassignedOpcode w) s = .next (s.trapped l h 0x01 (BitVec.ofNat 64 (opcodeOf w)))) ∧
    let r := (s.fibre l).copy (s.fibre l).level
    r.nest = true → ∀ p ∈ ([(Instr.rett, r.epc), (Instr.rettNext, nextPc r.epc)] : List ((Head → SystemMod → Instr) × Dword)),
      pcSlotOk p.2 = true → ∃ t f, exec (p.1 h m) s = .next t ∧ t.fibre? l = some f ∧ f.level = r.ppriv ∧ f.pc = p.2 ∧
        (f.copy (s.fibre l).level).nest = false ∧ f.regs = (s.fibre l).regs) ∧
  (∀ (s : State) (h : Head) (m : GlobalMod) (l : Lane), s.Alone h l → s.Calm l → m.ord.releases = false →
    let t := s.team l.tid
    let va := s.readPair l .sa h.sa + m.off.signExtend 64
    let off := (s.readReg l .sb h.sb).toNat
    ∀ x pt segs, tileChecks t m.scope.toNat (s.readPair l .sc h.sc) va off = .ok (x, pt) →
      s.tileProbe t (s.fibre l) .write (x.runs va.toNat) = .ok segs → (x.runs va.toNat).any (fun r => t.watched (s.fibre l) [.write] r.1 r.2) = false →
      s.heldRun t (s.fibre l) .write segs = none → t.leafFree off (x.rows * x.rowb) → ∃ u, exec (.tst h m) s = .next u ∧
        u.fibre? l = some { s.fibre l with hold := some (.tile s.seq false) } ∧
        u.reqs = s.reqs ++ [{ s.access l .tileStore va (segs.headD (0, 0, 0)).2.1 (x.rows * x.rowb) pt with
          off := off, segs := segs, acq := m.ord.acquires, data := t.leafBytes off (x.rows * x.rowb) }]) ∧
  (∀ (s : State) (t : Team) (r n : Nat), s.team? t.tid = some t → s.saveReason t = some r →
    let v := s.modTeam t.tid (fun t => { t with res := .saving r })
    let va := v.frameVa t n
    v.quiet t = true → (v.framesOf t.coreKey t.partKey).length < 64 → v.freeJacket t.coreKey t.partKey = some n →
    v.frameReach t.partKey .write va ((t.framePieces v.now r (v.pending t.tid)).map (fun p => (p.1, p.2.length))) = .ok none →
      exec (.jacketSave t.tid) s = .next (v.saveInto t n r)) ∧
  (∀ (s : State) (t : Team) (n : Nat), s.team? t.tid = some t → t.res = .jacketed n false true → (s.partAt t.partKey).failed = false →
    (s.coreAt t.coreKey).halted = false → (∀ x ∈ s.residents t.coreKey, x.slot ≠ t.slot) →
    let v := s.acquire t.coreKey .package
    let va := s.frameVa t n
    let rd := v.frameRead t va
    let spans := frameSpans rd ++ windowSpans rd
    let place := fun (a : Nat) => match v.rangeCheck t.partKey .user .read a with
      | .ok ia => some (v.space t.partKey ia, ia)
      | .error _ => none
    let back := t.restored rd s.now place
    (∀ x ∈ [[(0, 0x800)], frameSpans rd, windowSpans rd], v.frameReach t.partKey .read va x = .ok none) → (rd 0 1).headD 0 = 1 →
    s.fits t.coreKey ⟨back.fibres.length, back.windowRegs, back.leaves, back.acct⟩ = true →
      exec (.jacketRestore t.tid) s = .next ((((v.frameTouch t va ((0, 0x800) :: spans)).bringBack t back rd).meter t.partKey 13
        (0x800 + (spans.map (·.2)).sum)).noteRestored t.partKey t.tid)) ∧
  (∀ (s : State) (pkg core ia key : Nat) (b : CByte), let ck := 384 * pkg + core
    let mine := fun (c : CByte) => decide (c.st = .owned) && decide (c.ia / 4 = ia / 4)
    (core < 384 → (s.coreAt ck).l1.filter mine = [b] → s.backCheck b = .place key → b.pt ≠ .core →
      exec (.writeBack pkg core ia) s = .next ((s.backL1 ck b).touchPage ((b.wr.head?.map (·.part)).getD b.sp) b.ia)) ∧
    (384 ≤ core → homePkg ia = pkg → exec (.writeBack pkg core ia) s =
      .next (((s.pkgAt pkg).llc.filter mine).foldl (fun u b => u.backHome pkg b) s))) ∧
  (∀ (s : State) (pkg q page since : Nat), let sp := 96 * pkg + q
    q < 96 → (∀ r, r < 96 → r ≠ q → s.oldestParked (96 * pkg + r) page = none) → s.oldestParked sp page = some since →
    (s.partAt sp).parklim ≠ 0 → since + (s.partAt sp).parklim.toNat ≤ s.now → s.pageOpen sp page = false → (sp, page) ∉ (s.pkgAt pkg).limitSent →
      exec (.parkLimit pkg page) s = .next ((s.modPkg pkg (fun p => { p with limitSent := (sp, page) :: p.limitSent })).supervisorEvent sp
        { cause := 0x1F, value := BitVec.ofNat 64 (page * 65536) })) ∧
  (∀ (s : State) (m : Msg) (x : Packet) (hop ia0 : Nat) (bs : List Byte), s.msg? m.id = some m → m.op = .chain x.id hop bs → m.stage = .applied →
    m.answered = false → s.packets.find? (fun y => y.id = x.id) = some x → s.poison = [] →
    rangeIn x.ranges .user .write (ofBytes ((x.bytes.drop 0x10).take 8)) = .ok ia0 →
    let runs := splitRun (ia0 % 2 ^ 52 + 2 ^ 52 * m.dst) bs.length
    s.chainMeets x runs = .ok none →
      let w := (runs.foldl (fun (acc : State × List Byte) r => (acc.1.agentStore m.dst x.part r.1 x.point (acc.2.take r.2), acc.2.drop r.2)) (s, bs)).1
      let gone := { w with msgs := w.msgs.filter (fun (y : Msg) => y.id ≠ m.id) }
      exec (.chainHop m.id) s = .next (if x.targets ≤ hop + 1 then gone.send m.dst x.pkg (.ack x.id)
        else gone.send m.dst (x.target (hop + 1)) (.chain x.id (hop + 1) bs))) ∧
  (∀ (s : State) (pkg part : Nat) (sign : Bool), ∀ index ∈ [0x10, 0xFF], ∃ u, exec (.spdmGetMeasurements pkg part index sign) s = .next u ∧
    (u.partAt (96 * pkg + part)).snapseq = (s.partAt (96 * pkg + part)).snapseq + 1 ∧
    (u.partAt (96 * pkg + part)).digest = sha384 (s.snapBytes (96 * pkg + part))) ∧
  (∀ (s : State) (pkg : Nat), ∃ u, exec (.watchdogExpiry pkg) s = .next u ∧ (∀ t ∈ u.teams, t.pkg ≠ pkg) ∧ (u.pkgAt pkg).rstcause = 3) ∧
  ∀ (s : State) (pkg : Nat) (x y : Lease), (s.pkgAt pkg).leases.find? (fun z => z.index = x.index) = some x → x.role = 0 → x.state = 4 →
    s.tilesIn pkg x = false → s.peerLease pkg x = some y →
      let v := s.drawLent x.peer x
      let w := (v.mapPages pkg x).foldl (fun u p => u.copyPage (physKey 1 pkg (x.window + 65536 * p)) (physKey y.sptier x.peer (y.spill + 65536 * p))) v
      exec (.leaseSpill pkg x.index) s = .next (((w.setLease pkg x.index 5).recallEvents pkg x 2).send pkg x.peer (.lease 7 x.lid 0))
end

