-- ==== Sys2Proof/Laws/Dispatch.lean ====
section
/-! SUPPORT. Each arm of exec, as an equation: proofs about an instruction rewrite with its own and never unfold the whole match. -/

namespace Sys2Proof.Machine

@[simp] theorem exec_mov h m s : exec (.mov h m) s = execMov h m s := rfl
@[simp] theorem exec_movi h m s : exec (.movi h m) s = execMovi h m s := rfl
@[simp] theorem exec_movhi h m s : exec (.movhi h m) s = execMovhi h m s := rfl
@[simp] theorem exec_rds h m s : exec (.rds h m) s = execRds h m s := rfl
@[simp] theorem exec_add h m s : exec (.add h m) s = execAdd h m s := rfl
@[simp] theorem exec_addImm h m s : exec (.addImm h m) s = execAddImm h m s := rfl
@[simp] theorem exec_addc h m s : exec (.addc h m) s = execAddc h m s := rfl
@[simp] theorem exec_sub h m s : exec (.sub h m) s = execSub h m s := rfl
@[simp] theorem exec_subImm h m s : exec (.subImm h m) s = execSubImm h m s := rfl
@[simp] theorem exec_subb h m s : exec (.subb h m) s = execSubb h m s := rfl
@[simp] theorem exec_mul h m s : exec (.mul h m) s = execMul h m s := rfl
@[simp] theorem exec_mulImm h m s : exec (.mulImm h m) s = execMulImm h m s := rfl
@[simp] theorem exec_mulhi h m s : exec (.mulhi h m) s = execMulhi h m s := rfl
@[simp] theorem exec_mulhiImm h m s : exec (.mulhiImm h m) s = execMulhiImm h m s := rfl
@[simp] theorem exec_mad h m s : exec (.mad h m) s = execMad h m s := rfl
@[simp] theorem exec_madImm h m s : exec (.madImm h m) s = execMadImm h m s := rfl
@[simp] theorem exec_madw h m s : exec (.madw h m) s = execMadw h m s := rfl
@[simp] theorem exec_madwImm h m s : exec (.madwImm h m) s = execMadwImm h m s := rfl
@[simp] theorem exec_div h m s : exec (.div h m) s = execDiv h m s := rfl
@[simp] theorem exec_divImm h m s : exec (.divImm h m) s = execDivImm h m s := rfl
@[simp] theorem exec_rem h m s : exec (.rem h m) s = execRem h m s := rfl
@[simp] theorem exec_remImm h m s : exec (.remImm h m) s = execRemImm h m s := rfl
@[simp] theorem exec_abs h m s : exec (.abs h m) s = execAbs h m s := rfl
@[simp] theorem exec_neg h m s : exec (.neg h m) s = execNeg h m s := rfl
@[simp] theorem exec_min h m s : exec (.min h m) s = execMin h m s := rfl
@[simp] theorem exec_minImm h m s : exec (.minImm h m) s = execMinImm h m s := rfl
@[simp] theorem exec_max h m s : exec (.max h m) s = execMax h m s := rfl
@[simp] theorem exec_maxImm h m s : exec (.maxImm h m) s = execMaxImm h m s := rfl
@[simp] theorem exec_clamp h m s : exec (.clamp h m) s = execClamp h m s := rfl
@[simp] theorem exec_and h m s : exec (.and h m) s = execAnd h m s := rfl
@[simp] theorem exec_andImm h m s : exec (.andImm h m) s = execAndImm h m s := rfl
@[simp] theorem exec_or h m s : exec (.or h m) s = execOr h m s := rfl
@[simp] theorem exec_orImm h m s : exec (.orImm h m) s = execOrImm h m s := rfl
@[simp] theorem exec_xor h m s : exec (.xor h m) s = execXor h m s := rfl
@[simp] theorem exec_xorImm h m s : exec (.xorImm h m) s = execXorImm h m s := rfl
@[simp] theorem exec_andn h m s : exec (.andn h m) s = execAndn h m s := rfl
@[simp] theorem exec_andnImm h m s : exec (.andnImm h m) s = execAndnImm h m s := rfl
@[simp] theorem exec_orn h m s : exec (.orn h m) s = execOrn h m s := rfl
@[simp] theorem exec_ornImm h m s : exec (.ornImm h m) s = execOrnImm h m s := rfl
@[simp] theorem exec_shl h m s : exec (.shl h m) s = execShl h m s := rfl
@[simp] theorem exec_shlImm h m s : exec (.shlImm h m) s = execShlImm h m s := rfl
@[simp] theorem exec_shr h m s : exec (.shr h m) s = execShr h m s := rfl
@[simp] theorem exec_shrImm h m s : exec (.shrImm h m) s = execShrImm h m s := rfl
@[simp] theorem exec_sar h m s : exec (.sar h m) s = execSar h m s := rfl
@[simp] theorem exec_sarImm h m s : exec (.sarImm h m) s = execSarImm h m s := rfl
@[simp] theorem exec_rotl h m s : exec (.rotl h m) s = execRotl h m s := rfl
@[simp] theorem exec_rotlImm h m s : exec (.rotlImm h m) s = execRotlImm h m s := rfl
@[simp] theorem exec_fshl h m s : exec (.fshl h m) s = execFshl h m s := rfl
@[simp] theorem exec_fshlImm h m s : exec (.fshlImm h m) s = execFshlImm h m s := rfl
@[simp] theorem exec_bfx h m s : exec (.bfx h m) s = execBfx h m s := rfl
@[simp] theorem exec_bfxImm h m s : exec (.bfxImm h m) s = execBfxImm h m s := rfl
@[simp] theorem exec_bfi h m s : exec (.bfi h m) s = execBfi h m s := rfl
@[simp] theorem exec_bfiImm h m s : exec (.bfiImm h m) s = execBfiImm h m s := rfl
@[simp] theorem exec_brev h m s : exec (.brev h m) s = execBrev h m s := rfl
@[simp] theorem exec_popc h m s : exec (.popc h m) s = execPopc h m s := rfl
@[simp] theorem exec_clz h m s : exec (.clz h m) s = execClz h m s := rfl
@[simp] theorem exec_ctz h m s : exec (.ctz h m) s = execCtz h m s := rfl
@[simp] theorem exec_bytep h m s : exec (.bytep h m) s = execBytep h m s := rfl
@[simp] theorem exec_bytepImm h m s : exec (.bytepImm h m) s = execBytepImm h m s := rfl
@[simp] theorem exec_sel h m s : exec (.sel h m) s = execSel h m s := rfl
@[simp] theorem exec_cmp h m s : exec (.cmp h m) s = execCmp h m s := rfl
@[simp] theorem exec_cmpImm h m s : exec (.cmpImm h m) s = execCmpImm h m s := rfl
@[simp] theorem exec_pand h m s : exec (.pand h m) s = execPand h m s := rfl
@[simp] theorem exec_por h m s : exec (.por h m) s = execPor h m s := rfl
@[simp] theorem exec_pxor h m s : exec (.pxor h m) s = execPxor h m s := rfl
@[simp] theorem exec_pnot h m s : exec (.pnot h m) s = execPnot h m s := rfl
@[simp] theorem exec_lea h m s : exec (.lea h m) s = execLea h m s := rfl
@[simp] theorem exec_leaImm h m s : exec (.leaImm h m) s = execLeaImm h m s := rfl
@[simp] theorem exec_fadd h m s : exec (.fadd h m) s = execFadd h m s := rfl
@[simp] theorem exec_faddImm h m s : exec (.faddImm h m) s = execFaddImm h m s := rfl
@[simp] theorem exec_fsub h m s : exec (.fsub h m) s = execFsub h m s := rfl
@[simp] theorem exec_fsubImm h m s : exec (.fsubImm h m) s = execFsubImm h m s := rfl
@[simp] theorem exec_fmul h m s : exec (.fmul h m) s = execFmul h m s := rfl
@[simp] theorem exec_fmulImm h m s : exec (.fmulImm h m) s = execFmulImm h m s := rfl
@[simp] theorem exec_ffma h m s : exec (.ffma h m) s = execFfma h m s := rfl
@[simp] theorem exec_ffmaImm h m s : exec (.ffmaImm h m) s = execFfmaImm h m s := rfl
@[simp] theorem exec_fmin h m s : exec (.fmin h m) s = execFmin h m s := rfl
@[simp] theorem exec_fmax h m s : exec (.fmax h m) s = execFmax h m s := rfl
@[simp] theorem exec_fcmp h m s : exec (.fcmp h m) s = execFcmp h m s := rfl
@[simp] theorem exec_fclass h m s : exec (.fclass h m) s = execFclass h m s := rfl
@[simp] theorem exec_fdiv h m s : exec (.fdiv h m) s = execFdiv h m s := rfl
@[simp] theorem exec_fsqrt h m s : exec (.fsqrt h m) s = execFsqrt h m s := rfl
@[simp] theorem exec_frcp h m s : exec (.frcp h m) s = execFrcp h m s := rfl
@[simp] theorem exec_frsq h m s : exec (.frsq h m) s = execFrsq h m s := rfl
@[simp] theorem exec_fexp2 h m s : exec (.fexp2 h m) s = execFexp2 h m s := rfl
@[simp] theorem exec_flog2 h m s : exec (.flog2 h m) s = execFlog2 h m s := rfl
@[simp] theorem exec_fsin h m s : exec (.fsin h m) s = execFsin h m s := rfl
@[simp] theorem exec_fcos h m s : exec (.fcos h m) s = execFcos h m s := rfl
@[simp] theorem exec_ftanh h m s : exec (.ftanh h m) s = execFtanh h m s := rfl
@[simp] theorem exec_frnd h m s : exec (.frnd h m) s = execFrnd h m s := rfl
@[simp] theorem exec_fscale h m s : exec (.fscale h m) s = execFscale h m s := rfl
@[simp] theorem exec_fabs h m s : exec (.fabs h m) s = execFabs h m s := rfl
@[simp] theorem exec_fneg h m s : exec (.fneg h m) s = execFneg h m s := rfl
@[simp] theorem exec_cvt h m s : exec (.cvt h m) s = execCvt h m s := rfl
@[simp] theorem exec_cvtblk h m s : exec (.cvtblk h m) s = execCvtblk h m s := rfl
@[simp] theorem exec_deqblk h m s : exec (.deqblk h m) s = execDeqblk h m s := rfl
@[simp] theorem exec_hadd2 h m s : exec (.hadd2 h m) s = execHadd2 h m s := rfl
@[simp] theorem exec_hfma2 h m s : exec (.hfma2 h m) s = execHfma2 h m s := rfl
@[simp] theorem exec_dot2 h m s : exec (.dot2 h m) s = execDot2 h m s := rfl
@[simp] theorem exec_dot4 h m s : exec (.dot4 h m) s = execDot4 h m s := rfl
@[simp] theorem exec_ld h m s : exec (.ld h m) s = execLd h m s := rfl
@[simp] theorem exec_st h m s : exec (.st h m) s = execSt h m s := rfl
@[simp] theorem exec_ldb h m s : exec (.ldb h m) s = execLdb h m s := rfl
@[simp] theorem exec_lds h m s : exec (.lds h m) s = execLds h m s := rfl
@[simp] theorem exec_sts h m s : exec (.sts h m) s = execSts h m s := rfl
@[simp] theorem exec_ldn h m s : exec (.ldn h m) s = execLdn h m s := rfl
@[simp] theorem exec_tld h m s : exec (.tld h m) s = execTld h m s := rfl
@[simp] theorem exec_tst h m s : exec (.tst h m) s = execTst h m s := rfl
@[simp] theorem exec_pref h m s : exec (.pref h m) s = execPref h m s := rfl
@[simp] theorem exec_cwb h m s : exec (.cwb h m) s = execCwb h m s := rfl
@[simp] theorem exec_leafwt h m s : exec (.leafwt h m) s = execLeafwt h m s := rfl
@[simp] theorem exec_leaftst h m s : exec (.leaftst h m) s = execLeaftst h m s := rfl
@[simp] theorem exec_atom h m s : exec (.atom h m) s = execAtom h m s := rfl
@[simp] theorem exec_cas h m s : exec (.cas h m) s = execCas h m s := rfl
@[simp] theorem exec_red h m s : exec (.red h m) s = execRed h m s := rfl
@[simp] theorem exec_fence h m s : exec (.fence h m) s = execFence h m s := rfl
@[simp] theorem exec_obres h m s : exec (.obres h m) s = execObres h m s := rfl
@[simp] theorem exec_obrel h m s : exec (.obrel h m) s = execObrel h m s := rfl
@[simp] theorem exec_mma h m s : exec (.mma h m) s = execMma h m s := rfl
@[simp] theorem exec_accz h m s : exec (.accz h m) s = execAccz h m s := rfl
@[simp] theorem exec_accrd h m s : exec (.accrd h m) s = execAccrd h m s := rfl
@[simp] theorem exec_ctab h m s : exec (.ctab h m) s = execCtab h m s := rfl
@[simp] theorem exec_tcopy h m s : exec (.tcopy h m) s = execTcopy h m s := rfl
@[simp] theorem exec_tgath h m s : exec (.tgath h m) s = execTgath h m s := rfl
@[simp] theorem exec_qpush h m s : exec (.qpush h m) s = execQpush h m s := rfl
@[simp] theorem exec_ctradd h m s : exec (.ctradd h m) s = execCtradd h m s := rfl
@[simp] theorem exec_ctrwait h m s : exec (.ctrwait h m) s = execCtrwait h m s := rfl
@[simp] theorem exec_ctrtest h m s : exec (.ctrtest h m) s = execCtrtest h m s := rfl
@[simp] theorem exec_bra h m s : exec (.bra h m) s = execBra h m s := rfl
@[simp] theorem exec_brx h m s : exec (.brx h m) s = execBrx h m s := rfl
@[simp] theorem exec_call h m s : exec (.call h m) s = execCall h m s := rfl
@[simp] theorem exec_callx h m s : exec (.callx h m) s = execCallx h m s := rfl
@[simp] theorem exec_ret h m s : exec (.ret h m) s = execRet h m s := rfl
@[simp] theorem exec_nop h m s : exec (.nop h m) s = execNop h m s := rfl
@[simp] theorem exec_yieldN h m s : exec (.yieldN h m) s = execYieldN h m s := rfl
@[simp] theorem exec_sleep h m s : exec (.sleep h m) s = execSleep h m s := rfl
@[simp] theorem exec_sleepReg h m s : exec (.sleepReg h m) s = execSleepReg h m s := rfl
@[simp] theorem exec_voteAny h m s : exec (.voteAny h m) s = execVoteAny h m s := rfl
@[simp] theorem exec_voteAll h m s : exec (.voteAll h m) s = execVoteAll h m s := rfl
@[simp] theorem exec_voteBallot h m s : exec (.voteBallot h m) s = execVoteBallot h m s := rfl
@[simp] theorem exec_voteCount h m s : exec (.voteCount h m) s = execVoteCount h m s := rfl
@[simp] theorem exec_shfl h m s : exec (.shfl h m) s = execShfl h m s := rfl
@[simp] theorem exec_breduce h m s : exec (.breduce h m) s = execBreduce h m s := rfl
@[simp] theorem exec_bscan h m s : exec (.bscan h m) s = execBscan h m s := rfl
@[simp] theorem exec_matchLead h m s : exec (.matchLead h m) s = execMatchLead h m s := rfl
@[simp] theorem exec_matchUni h m s : exec (.matchUni h m) s = execMatchUni h m s := rfl
@[simp] theorem exec_bsync h m s : exec (.bsync h m) s = execBsync h m s := rfl
@[simp] theorem exec_bsyncMask h m s : exec (.bsyncMask h m) s = execBsyncMask h m s := rfl
@[simp] theorem exec_baralloc h m s : exec (.baralloc h m) s = execBaralloc h m s := rfl
@[simp] theorem exec_barallocImm h m s : exec (.barallocImm h m) s = execBarallocImm h m s := rfl
@[simp] theorem exec_barfree h m s : exec (.barfree h m) s = execBarfree h m s := rfl
@[simp] theorem exec_bararv h m s : exec (.bararv h m) s = execBararv h m s := rfl
@[simp] theorem exec_barwt h m s : exec (.barwt h m) s = execBarwt h m s := rfl
@[simp] theorem exec_barsync h m s : exec (.barsync h m) s = execBarsync h m s := rfl
@[simp] theorem exec_futset h m s : exec (.futset h m) s = execFutset h m s := rfl
@[simp] theorem exec_futsetFail h m s : exec (.futsetFail h m) s = execFutsetFail h m s := rfl
@[simp] theorem exec_futwaitPark h m s : exec (.futwaitPark h m) s = execFutwaitPark h m s := rfl
@[simp] theorem exec_futwaitCont h m s : exec (.futwaitCont h m) s = execFutwaitCont h m s := rfl
@[simp] theorem exec_futtest h m s : exec (.futtest h m) s = execFuttest h m s := rfl
@[simp] theorem exec_fspawn h m s : exec (.fspawn h m) s = execFspawn h m s := rfl
@[simp] theorem exec_ffork h m s : exec (.ffork h m) s = execFfork h m s := rfl
@[simp] theorem exec_fforkImm h m s : exec (.fforkImm h m) s = execFforkImm h m s := rfl
@[simp] theorem exec_fend h m s : exec (.fend h m) s = execFend h m s := rfl
@[simp] theorem exec_grow h m s : exec (.grow h m) s = execGrow h m s := rfl
@[simp] theorem exec_shrink h m s : exec (.shrink h m) s = execShrink h m s := rfl
@[simp] theorem exec_launch h m s : exec (.launch h m) s = execLaunch h m s := rfl
@[simp] theorem exec_phregCreate h m s : exec (.phregCreate h m) s = execPhregCreate h m s := rfl
@[simp] theorem exec_phregJoin h m s : exec (.phregJoin h m) s = execPhregJoin h m s := rfl
@[simp] theorem exec_phdrop h m s : exec (.phdrop h m) s = execPhdrop h m s := rfl
@[simp] theorem exec_phsig h m s : exec (.phsig h m) s = execPhsig h m s := rfl
@[simp] theorem exec_phwait h m s : exec (.phwait h m) s = execPhwait h m s := rfl
@[simp] theorem exec_phany h m s : exec (.phany h m) s = execPhany h m s := rfl
@[simp] theorem exec_phtest h m s : exec (.phtest h m) s = execPhtest h m s := rfl
@[simp] theorem exec_phtestRd h m s : exec (.phtestRd h m) s = execPhtestRd h m s := rfl
@[simp] theorem exec_trap h m s : exec (.trap h m) s = execTrap h m s := rfl
@[simp] theorem exec_sysc h m s : exec (.sysc h m) s = execSysc h m s := rfl
@[simp] theorem exec_rett h m s : exec (.rett h m) s = execRett h m s := rfl
@[simp] theorem exec_rettNext h m s : exec (.rettNext h m) s = execRettNext h m s := rfl
@[simp] theorem exec_mts h m s : exec (.mts h m) s = execMts h m s := rfl
@[simp] theorem exec_mfs h m s : exec (.mfs h m) s = execMfs h m s := rfl
@[simp] theorem exec_evpop h m s : exec (.evpop h m) s = execEvpop h m s := rfl
@[simp] theorem exec_wfe h m s : exec (.wfe h m) s = execWfe h m s := rfl
@[simp] theorem exec_icinv h m s : exec (.icinv h m) s = execIcinv h m s := rfl
@[simp] theorem exec_xinv h m s : exec (.xinv h m) s = execXinv h m s := rfl
@[simp] theorem exec_jksave h m s : exec (.jksave h m) s = execJksave h m s := rfl
@[simp] theorem exec_jkload h m s : exec (.jkload h m) s = execJkload h m s := rfl
@[simp] theorem exec_bkpt h m s : exec (.bkpt h m) s = execBkpt h m s := rfl
@[simp] theorem exec_haltc h m s : exec (.haltc h m) s = execHaltc h m s := rfl
@[simp] theorem exec_unassignedOpcode w s : exec (.unassignedOpcode w) s = execUnassignedOpcode w s := rfl
@[simp] theorem exec_lineFill tid fid s : exec (.lineFill tid fid) s = execLineFill tid fid s := rfl
@[simp] theorem exec_bandSplit tid band s : exec (.bandSplit tid band) s = execBandSplit tid band s := rfl
@[simp] theorem exec_resultArrival tid fid id s : exec (.resultArrival tid fid id) s = execResultArrival tid fid id s := rfl
@[simp] theorem exec_yieldExpiry tid fid s : exec (.yieldExpiry tid fid) s = execYieldExpiry tid fid s := rfl
@[simp] theorem exec_sleepExpiry tid fid s : exec (.sleepExpiry tid fid) s = execSleepExpiry tid fid s := rfl
@[simp] theorem exec_longWaitExpiry tid s : exec (.longWaitExpiry tid) s = execLongWaitExpiry tid s := rfl
@[simp] theorem exec_growDeadlockJacket pkg core s : exec (.growDeadlockJacket pkg core) s = execGrowDeadlockJacket pkg core s := rfl
@[simp] theorem exec_growGrant tid fid s : exec (.growGrant tid fid) s = execGrowGrant tid fid s := rfl
@[simp] theorem exec_fforkGrant tid fid s : exec (.fforkGrant tid fid) s = execFforkGrant tid fid s := rfl
@[simp] theorem exec_jacketSave tid s : exec (.jacketSave tid) s = execJacketSave tid s := rfl
@[simp] theorem exec_jacketRestore tid s : exec (.jacketRestore tid) s = execJacketRestore tid s := rfl
@[simp] theorem exec_foldStop tid fid s : exec (.foldStop tid fid) s = execFoldStop tid fid s := rfl
@[simp] theorem exec_graceExpiry pkg part s : exec (.graceExpiry pkg part) s = execGraceExpiry pkg part s := rfl
@[simp] theorem exec_teamPlace launch cores s : exec (.teamPlace launch cores) s = execTeamPlace launch cores s := rfl
@[simp] theorem exec_teamEnd tid s : exec (.teamEnd tid) s = execTeamEnd tid s := rfl
@[simp] theorem exec_launchRecordCheck launch s : exec (.launchRecordCheck launch) s = execLaunchRecordCheck launch s := rfl
@[simp] theorem exec_launchAccept launch s : exec (.launchAccept launch) s = execLaunchAccept launch s := rfl
@[simp] theorem exec_launchPreFault launch s : exec (.launchPreFault launch) s = execLaunchPreFault launch s := rfl
@[simp] theorem exec_launchComplete launch s : exec (.launchComplete launch) s = execLaunchComplete launch s := rfl
@[simp] theorem exec_spawnBinTimeout pkg core bin s : exec (.spawnBinTimeout pkg core bin) s = execSpawnBinTimeout pkg core bin s := rfl
@[simp] theorem exec_spawnTeamPlace pkg core bin s : exec (.spawnTeamPlace pkg core bin) s = execSpawnTeamPlace pkg core bin s := rfl
@[simp] theorem exec_continuationDeliver id s : exec (.continuationDeliver id) s = execContinuationDeliver id s := rfl
@[simp] theorem exec_engineCommandComplete id s : exec (.engineCommandComplete id) s = execEngineCommandComplete id s := rfl
@[simp] theorem exec_engineAbort id s : exec (.engineAbort id) s = execEngineAbort id s := rfl
@[simp] theorem exec_neighbourFetch id opB s : exec (.neighbourFetch id opB) s = execNeighbourFetch id opB s := rfl
@[simp] theorem exec_ctabTableWrite id s : exec (.ctabTableWrite id) s = execCtabTableWrite id s := rfl
@[simp] theorem exec_obRangeReturn pkg core num s : exec (.obRangeReturn pkg core num) s = execObRangeReturn pkg core num s := rfl
@[simp] theorem exec_drain id s : exec (.drain id) s = execDrain id s := rfl
@[simp] theorem exec_register id s : exec (.register id) s = execRegister id s := rfl
@[simp] theorem exec_acknowledge id s : exec (.acknowledge id) s = execAcknowledge id s := rfl
@[simp] theorem exec_read id s : exec (.read id) s = execRead id s := rfl
@[simp] theorem exec_fill pkg core ia s : exec (.fill pkg core ia) s = execFill pkg core ia s := rfl
@[simp] theorem exec_writeBack pkg core ia s : exec (.writeBack pkg core ia) s = execWriteBack pkg core ia s := rfl
@[simp] theorem exec_ageOut pkg core ia s : exec (.ageOut pkg core ia) s = execAgeOut pkg core ia s := rfl
@[simp] theorem exec_atomicStep id s : exec (.atomicStep id) s = execAtomicStep id s := rfl
@[simp] theorem exec_tileStep id s : exec (.tileStep id) s = execTileStep id s := rfl
@[simp] theorem exec_deliver id s : exec (.deliver id) s = execDeliver id s := rfl
@[simp] theorem exec_releaseComplete tid fid seq s : exec (.releaseComplete tid fid seq) s = execReleaseComplete tid fid seq s := rfl
@[simp] theorem exec_claspGrant pkg line s : exec (.claspGrant pkg line) s = execClaspGrant pkg line s := rfl
@[simp] theorem exec_parkLimit pkg page s : exec (.parkLimit pkg page) s = execParkLimit pkg page s := rfl
@[simp] theorem exec_pgready pkg part page s : exec (.pgready pkg part page) s = execPgready pkg part page s := rfl
@[simp] theorem exec_ingressLeaseExpiry pkg line s : exec (.ingressLeaseExpiry pkg line) s = execIngressLeaseExpiry pkg line s := rfl
@[simp] theorem exec_packetTake pkg part queue engine s : exec (.packetTake pkg part queue engine) s = execPacketTake pkg part queue engine s := rfl
@[simp] theorem exec_copyChunk id s : exec (.copyChunk id) s = execCopyChunk id s := rfl
@[simp] theorem exec_packetFinish id s : exec (.packetFinish id) s = execPacketFinish id s := rfl
@[simp] theorem exec_chainHop id s : exec (.chainHop id) s = execChainHop id s := rfl
@[simp] theorem exec_frontEndPacketTake pkg part queue s : exec (.frontEndPacketTake pkg part queue) s = execFrontEndPacketTake pkg part queue s := rfl
@[simp] theorem exec_spawnPacketTake pkg part queue core s : exec (.spawnPacketTake pkg part queue core) s = execSpawnPacketTake pkg part queue core s := rfl
@[simp] theorem exec_boundArrivalRelease id s : exec (.boundArrivalRelease id) s = execBoundArrivalRelease id s := rfl
@[simp] theorem exec_stitchArrival id s : exec (.stitchArrival id) s = execStitchArrival id s := rfl
@[simp] theorem exec_phaseBroadcast id s : exec (.phaseBroadcast id) s = execPhaseBroadcast id s := rfl
@[simp] theorem exec_stitchJoin id s : exec (.stitchJoin id) s = execStitchJoin id s := rfl
@[simp] theorem exec_stitchDrop id s : exec (.stitchDrop id) s = execStitchDrop id s := rfl
@[simp] theorem exec_stitchLinkFail pkg s : exec (.stitchLinkFail pkg) s = execStitchLinkFail pkg s := rfl
@[simp] theorem exec_flitReceive pkg port flit s : exec (.flitReceive pkg port flit) s = execFlitReceive pkg port flit s := rfl
@[simp] theorem exec_replayRequest pkg port lack s : exec (.replayRequest pkg port lack) s = execReplayRequest pkg port lack s := rfl
@[simp] theorem exec_laneFail pkg port lane s : exec (.laneFail pkg port lane) s = execLaneFail pkg port lane s := rfl
@[simp] theorem exec_portRetrain pkg port s : exec (.portRetrain pkg port) s = execPortRetrain pkg port s := rfl
@[simp] theorem exec_messageReceive id s : exec (.messageReceive id) s = execMessageReceive id s := rfl
@[simp] theorem exec_e2eRetryTimeout id s : exec (.e2eRetryTimeout id) s = execE2eRetryTimeout id s := rfl
@[simp] theorem exec_get id s : exec (.get id) s = execGet id s := rfl
@[simp] theorem exec_getx id s : exec (.getx id) s = execGetx id s := rfl
@[simp] theorem exec_reg id s : exec (.reg id) s = execReg id s := rfl
@[simp] theorem exec_wb id s : exec (.wb id) s = execWb id s := rfl
@[simp] theorem exec_stale id s : exec (.stale id) s = execStale id s := rfl
@[simp] theorem exec_draw id s : exec (.draw id) s = execDraw id s := rfl
@[simp] theorem exec_atm id s : exec (.atm id) s = execAtm id s := rfl
@[simp] theorem exec_clasp id s : exec (.clasp id) s = execClasp id s := rfl
@[simp] theorem exec_unclasp id s : exec (.unclasp id) s = execUnclasp id s := rfl
@[simp] theorem exec_chain id s : exec (.chain id) s = execChain id s := rfl
@[simp] theorem exec_lease id s : exec (.lease id) s = execLease id s := rfl
@[simp] theorem exec_data id s : exec (.data id) s = execData id s := rfl
@[simp] theorem exec_ack id s : exec (.ack id) s = execAck id s := rfl
@[simp] theorem exec_nack id s : exec (.nack id) s = execNack id s := rfl
@[simp] theorem exec_redirect id s : exec (.redirect id) s = execRedirect id s := rfl
@[simp] theorem exec_srseedWrite pkg core v s : exec (.srseedWrite pkg core v) s = execSrseedWrite pkg core v s := rfl
@[simp] theorem exec_preqSave pkg part s : exec (.preqSave pkg part) s = execPreqSave pkg part s := rfl
@[simp] theorem exec_preqResume pkg part s : exec (.preqResume pkg part) s = execPreqResume pkg part s := rfl
@[simp] theorem exec_leaseOpen pkg index s : exec (.leaseOpen pkg index) s = execLeaseOpen pkg index s := rfl
@[simp] theorem exec_leaseRecallCmd pkg index s : exec (.leaseRecallCmd pkg index) s = execLeaseRecallCmd pkg index s := rfl
@[simp] theorem exec_leaseClose pkg index s : exec (.leaseClose pkg index) s = execLeaseClose pkg index s := rfl
@[simp] theorem exec_leaseSpill pkg index s : exec (.leaseSpill pkg index) s = execLeaseSpill pkg index s := rfl
@[simp] theorem exec_tierClockStep pkg tier s : exec (.tierClockStep pkg tier) s = execTierClockStep pkg tier s := rfl
@[simp] theorem exec_pageDemote pkg tier record s : exec (.pageDemote pkg tier record) s = execPageDemote pkg tier record s := rfl
@[simp] theorem exec_meterSnap pkg part s : exec (.meterSnap pkg part) s = execMeterSnap pkg part s := rfl
@[simp] theorem exec_spdmGetMeasurements pkg part index signed s : exec (.spdmGetMeasurements pkg part index signed) s = execSpdmGetMeasurements pkg part index signed s := rfl
@[simp] theorem exec_partitionEnable pkg part v s : exec (.partitionEnable pkg part v) s = execPartitionEnable pkg part v s := rfl
@[simp] theorem exec_partitionDisable pkg part v s : exec (.partitionDisable pkg part v) s = execPartitionDisable pkg part v s := rfl
@[simp] theorem exec_pbandWrite pkg part v s : exec (.pbandWrite pkg part v) s = execPbandWrite pkg part v s := rfl
@[simp] theorem exec_partitionNarrow pkg part field v s : exec (.partitionNarrow pkg part field v) s = execPartitionNarrow pkg part field v s := rfl
@[simp] theorem exec_queueBind pkg part field v s : exec (.queueBind pkg part field v) s = execQueueBind pkg part field v s := rfl
@[simp] theorem exec_fpctlWrite pkg v s : exec (.fpctlWrite pkg v) s = execFpctlWrite pkg v s := rfl
@[simp] theorem exec_fpoolWrite pkg v s : exec (.fpoolWrite pkg v) s = execFpoolWrite pkg v s := rfl
@[simp] theorem exec_ffloorWrite pkg v s : exec (.ffloorWrite pkg v) s = execFfloorWrite pkg v s := rfl
@[simp] theorem exec_snctlWrite pkg v s : exec (.snctlWrite pkg v) s = execSnctlWrite pkg v s := rfl
@[simp] theorem exec_colctlUnfreeze pkg s : exec (.colctlUnfreeze pkg) s = execColctlUnfreeze pkg s := rfl
@[simp] theorem exec_timeSliceExpiry pkg group s : exec (.timeSliceExpiry pkg group) s = execTimeSliceExpiry pkg group s := rfl
@[simp] theorem exec_bandwidthWindow pkg s : exec (.bandwidthWindow pkg) s = execBandwidthWindow pkg s := rfl
@[simp] theorem exec_hbmRequestStart pkg group s : exec (.hbmRequestStart pkg group) s = execHbmRequestStart pkg group s := rfl
@[simp] theorem exec_correctedError pkg part core s : exec (.correctedError pkg part core) s = execCorrectedError pkg part core s := rfl
@[simp] theorem exec_uncorrectableError pkg place s : exec (.uncorrectableError pkg place) s = execUncorrectableError pkg place s := rfl
@[simp] theorem exec_patrolScrub pkg word outcome s : exec (.patrolScrub pkg word outcome) s = execPatrolScrub pkg word outcome s := rfl
@[simp] theorem exec_llcTagParityError pkg ia owned1 owned2 s : exec (.llcTagParityError pkg ia owned1 owned2) s = execLlcTagParityError pkg ia owned1 owned2 s := rfl
@[simp] theorem exec_fatalDump pkg s : exec (.fatalDump pkg) s = execFatalDump pkg s := rfl
@[simp] theorem exec_thermalLimit pkg temp overPower s : exec (.thermalLimit pkg temp overPower) s = execThermalLimit pkg temp overPower s := rfl
@[simp] theorem exec_powerFault pkg s : exec (.powerFault pkg) s = execPowerFault pkg s := rfl
@[simp] theorem exec_watchdogExpiry pkg s : exec (.watchdogExpiry pkg) s = execWatchdogExpiry pkg s := rfl
@[simp] theorem exec_coldReset pkg fault s : exec (.coldReset pkg fault) s = execColdReset pkg fault s := rfl
@[simp] theorem exec_warmReset pkg cause fault s : exec (.warmReset pkg cause fault) s = execWarmReset pkg cause fault s := rfl
@[simp] theorem exec_functionLevelReset pkg part s : exec (.functionLevelReset pkg part) s = execFunctionLevelReset pkg part s := rfl
@[simp] theorem exec_hostLinkTraining pkg up accepts s : exec (.hostLinkTraining pkg up accepts) s = execHostLinkTraining pkg up accepts s := rfl
@[simp] theorem exec_hostAccess pkg addr size write s : exec (.hostAccess pkg addr size write) s = execHostAccess pkg addr size write s := rfl
@[simp] theorem exec_coreResume pkg core s : exec (.coreResume pkg core) s = execCoreResume pkg core s := rfl
@[simp] theorem exec_stitchLinkUp pkg linkB s : exec (.stitchLinkUp pkg linkB) s = execStitchLinkUp pkg linkB s := rfl
@[simp] theorem exec_stitchNodeFail pkg node s : exec (.stitchNodeFail pkg node) s = execStitchNodeFail pkg node s := rfl
@[simp] theorem exec_expanderFatalError pkg s : exec (.expanderFatalError pkg) s = execExpanderFatalError pkg s := rfl
@[simp] theorem exec_throttleEnd pkg s : exec (.throttleEnd pkg) s = execThrottleEnd pkg s := rfl

end Sys2Proof.Machine
end

