-- ==== Sys2Proof/Laws/State.lean ====
section
/-! SUPPORT. What each update of the state leaves of each part: lookups after a change of one team, one fibre, one core. -/

namespace Sys2Proof.Machine

@[simp] theorem State.modTeam_now (s : State) (i : Nat) (f : Team → Team) : (s.modTeam i f).now = s.now := rfl
@[simp] theorem State.modTeam_seq (s : State) (i : Nat) (f : Team → Team) : (s.modTeam i f).seq = s.seq := rfl
@[simp] theorem State.modTeam_freeCtr (s : State) (i : Nat) (f : Team → Team) : (s.modTeam i f).freeCtr = s.freeCtr := rfl
@[simp] theorem State.modTeam_agenda (s : State) (i : Nat) (f : Team → Team) : (s.modTeam i f).agenda = s.agenda := rfl
@[simp] theorem State.modTeam_sig (s : State) (i : Nat) (f : Team → Team) : (s.modTeam i f).sig = s.sig := rfl
@[simp] theorem State.modTeam_mem (s : State) (i : Nat) (f : Team → Team) : (s.modTeam i f).mem = s.mem := rfl
@[simp] theorem State.modTeam_poison (s : State) (i : Nat) (f : Team → Team) : (s.modTeam i f).poison = s.poison := rfl
@[simp] theorem State.modTeam_wq (s : State) (i : Nat) (f : Team → Team) : (s.modTeam i f).wq = s.wq := rfl
@[simp] theorem State.modTeam_regs (s : State) (i : Nat) (f : Team → Team) : (s.modTeam i f).regs = s.regs := rfl
@[simp] theorem State.modTeam_reqs (s : State) (i : Nat) (f : Team → Team) : (s.modTeam i f).reqs = s.reqs := rfl
@[simp] theorem State.modTeam_cmds (s : State) (i : Nat) (f : Team → Team) : (s.modTeam i f).cmds = s.cmds := rfl
@[simp] theorem State.modTeam_msgs (s : State) (i : Nat) (f : Team → Team) : (s.modTeam i f).msgs = s.msgs := rfl
@[simp] theorem State.modTeam_cores (s : State) (i : Nat) (f : Team → Team) : (s.modTeam i f).cores = s.cores := rfl
@[simp] theorem State.modTeam_parts (s : State) (i : Nat) (f : Team → Team) : (s.modTeam i f).parts = s.parts := rfl
@[simp] theorem State.modTeam_pkgs (s : State) (i : Nat) (f : Team → Team) : (s.modTeam i f).pkgs = s.pkgs := rfl
@[simp] theorem State.modTeam_launches (s : State) (i : Nat) (f : Team → Team) : (s.modTeam i f).launches = s.launches := rfl
@[simp] theorem State.modTeam_sigLanes (s : State) (i : Nat) (f : Team → Team) : (s.modTeam i f).sigLanes = s.sigLanes := rfl
@[simp] theorem State.modTeam_coreAt (s : State) (i : Nat) (f : Team → Team) (c : Nat) : (s.modTeam i f).coreAt c = s.coreAt c := rfl
@[simp] theorem State.modTeam_partAt (s : State) (i : Nat) (f : Team → Team) (c : Nat) : (s.modTeam i f).partAt c = s.partAt c := rfl
@[simp] theorem State.modTeam_pkgAt (s : State) (i : Nat) (f : Team → Team) (c : Nat) : (s.modTeam i f).pkgAt c = s.pkgAt c := rfl
@[simp] theorem State.modFibre_now (s : State) (l : Lane) (g : Fibre → Fibre) : (s.modFibre l g).now = s.now := rfl
@[simp] theorem State.modFibre_seq (s : State) (l : Lane) (g : Fibre → Fibre) : (s.modFibre l g).seq = s.seq := rfl
@[simp] theorem State.modFibre_freeCtr (s : State) (l : Lane) (g : Fibre → Fibre) : (s.modFibre l g).freeCtr = s.freeCtr := rfl
@[simp] theorem State.modFibre_agenda (s : State) (l : Lane) (g : Fibre → Fibre) : (s.modFibre l g).agenda = s.agenda := rfl
@[simp] theorem State.modFibre_sig (s : State) (l : Lane) (g : Fibre → Fibre) : (s.modFibre l g).sig = s.sig := rfl
@[simp] theorem State.modFibre_mem (s : State) (l : Lane) (g : Fibre → Fibre) : (s.modFibre l g).mem = s.mem := rfl
@[simp] theorem State.modFibre_poison (s : State) (l : Lane) (g : Fibre → Fibre) : (s.modFibre l g).poison = s.poison := rfl
@[simp] theorem State.modFibre_wq (s : State) (l : Lane) (g : Fibre → Fibre) : (s.modFibre l g).wq = s.wq := rfl
@[simp] theorem State.modFibre_regs (s : State) (l : Lane) (g : Fibre → Fibre) : (s.modFibre l g).regs = s.regs := rfl
@[simp] theorem State.modFibre_reqs (s : State) (l : Lane) (g : Fibre → Fibre) : (s.modFibre l g).reqs = s.reqs := rfl
@[simp] theorem State.modFibre_cmds (s : State) (l : Lane) (g : Fibre → Fibre) : (s.modFibre l g).cmds = s.cmds := rfl
@[simp] theorem State.modFibre_msgs (s : State) (l : Lane) (g : Fibre → Fibre) : (s.modFibre l g).msgs = s.msgs := rfl
@[simp] theorem State.modFibre_cores (s : State) (l : Lane) (g : Fibre → Fibre) : (s.modFibre l g).cores = s.cores := rfl
@[simp] theorem State.modFibre_parts (s : State) (l : Lane) (g : Fibre → Fibre) : (s.modFibre l g).parts = s.parts := rfl
@[simp] theorem State.modFibre_pkgs (s : State) (l : Lane) (g : Fibre → Fibre) : (s.modFibre l g).pkgs = s.pkgs := rfl
@[simp] theorem State.modFibre_launches (s : State) (l : Lane) (g : Fibre → Fibre) : (s.modFibre l g).launches = s.launches := rfl
@[simp] theorem State.modFibre_sigLanes (s : State) (l : Lane) (g : Fibre → Fibre) : (s.modFibre l g).sigLanes = s.sigLanes := rfl
@[simp] theorem State.modFibre_coreAt (s : State) (l : Lane) (g : Fibre → Fibre) (c : Nat) : (s.modFibre l g).coreAt c = s.coreAt c := rfl
@[simp] theorem State.modFibre_partAt (s : State) (l : Lane) (g : Fibre → Fibre) (c : Nat) : (s.modFibre l g).partAt c = s.partAt c := rfl
@[simp] theorem State.modFibre_pkgAt (s : State) (l : Lane) (g : Fibre → Fibre) (c : Nat) : (s.modFibre l g).pkgAt c = s.pkgAt c := rfl

@[simp] theorem Team.modFibre_tid (t : Team) (i : Nat) (g : Fibre → Fibre) : (t.modFibre i g).tid = t.tid := rfl
@[simp] theorem Team.modFibre_scalars (t : Team) (i : Nat) (g : Fibre → Fibre) : (t.modFibre i g).scalars = t.scalars := rfl
@[simp] theorem Team.modFibre_core (t : Team) (i : Nat) (g : Fibre → Fibre) : (t.modFibre i g).core = t.core := rfl
@[simp] theorem Team.modFibre_pkg (t : Team) (i : Nat) (g : Fibre → Fibre) : (t.modFibre i g).pkg = t.pkg := rfl
@[simp] theorem Team.modFibre_part (t : Team) (i : Nat) (g : Fibre → Fibre) : (t.modFibre i g).part = t.part := rfl
@[simp] theorem Team.modFibre_dbgctl (t : Team) (i : Nat) (g : Fibre → Fibre) : (t.modFibre i g).dbgctl = t.dbgctl := rfl
@[simp] theorem Team.modFibre_utvec (t : Team) (i : Nat) (g : Fibre → Fibre) : (t.modFibre i g).utvec = t.utvec := rfl
@[simp] theorem Team.modFibre_sdeleg (t : Team) (i : Nat) (g : Fibre → Fibre) : (t.modFibre i g).sdeleg = t.sdeleg := rfl
@[simp] theorem Team.modFibre_outline (t : Team) (i : Nat) (g : Fibre → Fibre) : (t.modFibre i g).outline = t.outline := rfl
@[simp] theorem Team.outline_tid (t : Team) : t.outline.tid = t.tid := rfl

theorem lookupD_insertAt {α : Type} (d v : α) (k j : Nat) (l : List (Nat × α)) :
    lookupD d j (insertAt k v l) = if j = k then v else lookupD d j l := by
  induction l with
  | nil => by_cases h : k = j <;> simp [insertAt, lookupD, h, eq_comm (a := j)]
  | cons a r ih =>
    obtain ⟨a, w⟩ := a
    by_cases h : a = k
    · subst h; by_cases h' : j = a <;> simp [insertAt, lookupD, h', eq_comm]
    · by_cases h' : a = j
      · subst h'; simp [insertAt, lookupD, h]
      · simp [insertAt, lookupD, h, h', ih]

@[simp] theorem State.coreAt_modCore (s : State) (c d : Nat) (f : Core → Core) :
    (s.modCore c f).coreAt d = if d = c then f (s.coreAt d) else s.coreAt d := by
  by_cases h : d = c <;> simp [State.coreAt, State.modCore, lookupD_insertAt, h]
@[simp] theorem State.partAt_modPart (s : State) (c d : Nat) (f : Part → Part) :
    (s.modPart c f).partAt d = if d = c then f (s.partAt d) else s.partAt d := by
  by_cases h : d = c <;> simp [State.partAt, State.modPart, lookupD_insertAt, h]
@[simp] theorem State.pkgAt_modPkg (s : State) (c d : Nat) (f : Pkg → Pkg) :
    (s.modPkg c f).pkgAt d = if d = c then f (s.pkgAt d) else s.pkgAt d := by
  by_cases h : d = c <;> simp [State.pkgAt, State.modPkg, lookupD_insertAt, h]
@[simp] theorem State.modCore_teams (s : State) (c : Nat) (f : Core → Core) : (s.modCore c f).teams = s.teams := rfl
@[simp] theorem State.modPart_teams (s : State) (c : Nat) (f : Part → Part) : (s.modPart c f).teams = s.teams := rfl
@[simp] theorem State.modPkg_teams (s : State) (c : Nat) (f : Pkg → Pkg) : (s.modPkg c f).teams = s.teams := rfl
@[simp] theorem State.modCore_mem (s : State) (c : Nat) (f : Core → Core) : (s.modCore c f).mem = s.mem := rfl
@[simp] theorem State.modPart_mem (s : State) (c : Nat) (f : Part → Part) : (s.modPart c f).mem = s.mem := rfl
@[simp] theorem State.modPkg_mem (s : State) (c : Nat) (f : Pkg → Pkg) : (s.modPkg c f).mem = s.mem := rfl
@[simp] theorem State.modCore_parts (s : State) (c : Nat) (f : Core → Core) : (s.modCore c f).parts = s.parts := rfl
@[simp] theorem State.modCore_pkgs (s : State) (c : Nat) (f : Core → Core) : (s.modCore c f).pkgs = s.pkgs := rfl
@[simp] theorem State.modPart_cores (s : State) (c : Nat) (f : Part → Part) : (s.modPart c f).cores = s.cores := rfl
@[simp] theorem State.modPart_pkgs (s : State) (c : Nat) (f : Part → Part) : (s.modPart c f).pkgs = s.pkgs := rfl
@[simp] theorem State.modPkg_cores (s : State) (c : Nat) (f : Pkg → Pkg) : (s.modPkg c f).cores = s.cores := rfl
@[simp] theorem State.modPkg_parts (s : State) (c : Nat) (f : Pkg → Pkg) : (s.modPkg c f).parts = s.parts := rfl
@[simp] theorem State.modCore_now (s : State) (c : Nat) (f : Core → Core) : (s.modCore c f).now = s.now := rfl
@[simp] theorem State.modPart_now (s : State) (c : Nat) (f : Part → Part) : (s.modPart c f).now = s.now := rfl
@[simp] theorem State.modPkg_now (s : State) (c : Nat) (f : Pkg → Pkg) : (s.modPkg c f).now = s.now := rfl

@[simp] theorem State.modTeam_memCache (s : State) (i : Nat) (f : Team → Team) : (s.modTeam i f).memCache = s.memCache := rfl
@[simp] theorem State.modTeam_tails (s : State) (i : Nat) (f : Team → Team) : (s.modTeam i f).tails = s.tails := rfl
@[simp] theorem State.modTeam_eseqs (s : State) (i : Nat) (f : Team → Team) : (s.modTeam i f).eseqs = s.eseqs := rfl
@[simp] theorem State.modTeam_stitch (s : State) (i : Nat) (f : Team → Team) : (s.modTeam i f).stitch = s.stitch := rfl
@[simp] theorem State.modTeam_memPhs (s : State) (i : Nat) (f : Team → Team) : (s.modTeam i f).memPhs = s.memPhs := rfl
@[simp] theorem State.modTeam_filters (s : State) (i : Nat) (f : Team → Team) : (s.modTeam i f).filters = s.filters := rfl
@[simp] theorem State.modTeam_deliveries (s : State) (i : Nat) (f : Team → Team) : (s.modTeam i f).deliveries = s.deliveries := rfl
@[simp] theorem State.modTeam_agentParks (s : State) (i : Nat) (f : Team → Team) : (s.modTeam i f).agentParks = s.agentParks := rfl
@[simp] theorem State.modTeam_packets (s : State) (i : Nat) (f : Team → Team) : (s.modTeam i f).packets = s.packets := rfl
@[simp] theorem State.modTeam_hbm (s : State) (i : Nat) (f : Team → Team) : (s.modTeam i f).hbm = s.hbm := rfl
@[simp] theorem State.modFibre_memCache (s : State) (l : Lane) (g : Fibre → Fibre) : (s.modFibre l g).memCache = s.memCache := rfl
@[simp] theorem State.modFibre_tails (s : State) (l : Lane) (g : Fibre → Fibre) : (s.modFibre l g).tails = s.tails := rfl
@[simp] theorem State.modFibre_eseqs (s : State) (l : Lane) (g : Fibre → Fibre) : (s.modFibre l g).eseqs = s.eseqs := rfl
@[simp] theorem State.modFibre_stitch (s : State) (l : Lane) (g : Fibre → Fibre) : (s.modFibre l g).stitch = s.stitch := rfl
@[simp] theorem State.modFibre_memPhs (s : State) (l : Lane) (g : Fibre → Fibre) : (s.modFibre l g).memPhs = s.memPhs := rfl
@[simp] theorem State.modFibre_filters (s : State) (l : Lane) (g : Fibre → Fibre) : (s.modFibre l g).filters = s.filters := rfl
@[simp] theorem State.modFibre_deliveries (s : State) (l : Lane) (g : Fibre → Fibre) : (s.modFibre l g).deliveries = s.deliveries := rfl
@[simp] theorem State.modFibre_agentParks (s : State) (l : Lane) (g : Fibre → Fibre) : (s.modFibre l g).agentParks = s.agentParks := rfl
@[simp] theorem State.modFibre_packets (s : State) (l : Lane) (g : Fibre → Fibre) : (s.modFibre l g).packets = s.packets := rfl
@[simp] theorem State.modFibre_hbm (s : State) (l : Lane) (g : Fibre → Fibre) : (s.modFibre l g).hbm = s.hbm := rfl
@[simp] theorem State.modCore_seq (s : State) (c : Nat) (f : Core → Core) : (s.modCore c f).seq = s.seq := rfl
@[simp] theorem State.modCore_freeCtr (s : State) (c : Nat) (f : Core → Core) : (s.modCore c f).freeCtr = s.freeCtr := rfl
@[simp] theorem State.modCore_agenda (s : State) (c : Nat) (f : Core → Core) : (s.modCore c f).agenda = s.agenda := rfl
@[simp] theorem State.modCore_sig (s : State) (c : Nat) (f : Core → Core) : (s.modCore c f).sig = s.sig := rfl
@[simp] theorem State.modCore_poison (s : State) (c : Nat) (f : Core → Core) : (s.modCore c f).poison = s.poison := rfl
@[simp] theorem State.modCore_memCache (s : State) (c : Nat) (f : Core → Core) : (s.modCore c f).memCache = s.memCache := rfl
@[simp] theorem State.modCore_tails (s : State) (c : Nat) (f : Core → Core) : (s.modCore c f).tails = s.tails := rfl
@[simp] theorem State.modCore_wq (s : State) (c : Nat) (f : Core → Core) : (s.modCore c f).wq = s.wq := rfl
@[simp] theorem State.modCore_regs (s : State) (c : Nat) (f : Core → Core) : (s.modCore c f).regs = s.regs := rfl
@[simp] theorem State.modCore_reqs (s : State) (c : Nat) (f : Core → Core) : (s.modCore c f).reqs = s.reqs := rfl
@[simp] theorem State.modCore_cmds (s : State) (c : Nat) (f : Core → Core) : (s.modCore c f).cmds = s.cmds := rfl
@[simp] theorem State.modCore_msgs (s : State) (c : Nat) (f : Core → Core) : (s.modCore c f).msgs = s.msgs := rfl
@[simp] theorem State.modCore_eseqs (s : State) (c : Nat) (f : Core → Core) : (s.modCore c f).eseqs = s.eseqs := rfl
@[simp] theorem State.modCore_stitch (s : State) (c : Nat) (f : Core → Core) : (s.modCore c f).stitch = s.stitch := rfl
@[simp] theorem State.modCore_memPhs (s : State) (c : Nat) (f : Core → Core) : (s.modCore c f).memPhs = s.memPhs := rfl
@[simp] theorem State.modCore_filters (s : State) (c : Nat) (f : Core → Core) : (s.modCore c f).filters = s.filters := rfl
@[simp] theorem State.modCore_deliveries (s : State) (c : Nat) (f : Core → Core) : (s.modCore c f).deliveries = s.deliveries := rfl
@[simp] theorem State.modCore_agentParks (s : State) (c : Nat) (f : Core → Core) : (s.modCore c f).agentParks = s.agentParks := rfl
@[simp] theorem State.modCore_launches (s : State) (c : Nat) (f : Core → Core) : (s.modCore c f).launches = s.launches := rfl
@[simp] theorem State.modCore_packets (s : State) (c : Nat) (f : Core → Core) : (s.modCore c f).packets = s.packets := rfl
@[simp] theorem State.modCore_hbm (s : State) (c : Nat) (f : Core → Core) : (s.modCore c f).hbm = s.hbm := rfl
@[simp] theorem State.modPart_seq (s : State) (c : Nat) (f : Part → Part) : (s.modPart c f).seq = s.seq := rfl
@[simp] theorem State.modPart_freeCtr (s : State) (c : Nat) (f : Part → Part) : (s.modPart c f).freeCtr = s.freeCtr := rfl
@[simp] theorem State.modPart_agenda (s : State) (c : Nat) (f : Part → Part) : (s.modPart c f).agenda = s.agenda := rfl
@[simp] theorem State.modPart_sig (s : State) (c : Nat) (f : Part → Part) : (s.modPart c f).sig = s.sig := rfl
@[simp] theorem State.modPart_poison (s : State) (c : Nat) (f : Part → Part) : (s.modPart c f).poison = s.poison := rfl
@[simp] theorem State.modPart_memCache (s : State) (c : Nat) (f : Part → Part) : (s.modPart c f).memCache = s.memCache := rfl
@[simp] theorem State.modPart_tails (s : State) (c : Nat) (f : Part → Part) : (s.modPart c f).tails = s.tails := rfl
@[simp] theorem State.modPart_wq (s : State) (c : Nat) (f : Part → Part) : (s.modPart c f).wq = s.wq := rfl
@[simp] theorem State.modPart_regs (s : State) (c : Nat) (f : Part → Part) : (s.modPart c f).regs = s.regs := rfl
@[simp] theorem State.modPart_reqs (s : State) (c : Nat) (f : Part → Part) : (s.modPart c f).reqs = s.reqs := rfl
@[simp] theorem State.modPart_cmds (s : State) (c : Nat) (f : Part → Part) : (s.modPart c f).cmds = s.cmds := rfl
@[simp] theorem State.modPart_msgs (s : State) (c : Nat) (f : Part → Part) : (s.modPart c f).msgs = s.msgs := rfl
@[simp] theorem State.modPart_eseqs (s : State) (c : Nat) (f : Part → Part) : (s.modPart c f).eseqs = s.eseqs := rfl
@[simp] theorem State.modPart_stitch (s : State) (c : Nat) (f : Part → Part) : (s.modPart c f).stitch = s.stitch := rfl
@[simp] theorem State.modPart_memPhs (s : State) (c : Nat) (f : Part → Part) : (s.modPart c f).memPhs = s.memPhs := rfl
@[simp] theorem State.modPart_filters (s : State) (c : Nat) (f : Part → Part) : (s.modPart c f).filters = s.filters := rfl
@[simp] theorem State.modPart_deliveries (s : State) (c : Nat) (f : Part → Part) : (s.modPart c f).deliveries = s.deliveries := rfl
@[simp] theorem State.modPart_agentParks (s : State) (c : Nat) (f : Part → Part) : (s.modPart c f).agentParks = s.agentParks := rfl
@[simp] theorem State.modPart_launches (s : State) (c : Nat) (f : Part → Part) : (s.modPart c f).launches = s.launches := rfl
@[simp] theorem State.modPart_packets (s : State) (c : Nat) (f : Part → Part) : (s.modPart c f).packets = s.packets := rfl
@[simp] theorem State.modPart_hbm (s : State) (c : Nat) (f : Part → Part) : (s.modPart c f).hbm = s.hbm := rfl
@[simp] theorem State.modPkg_seq (s : State) (c : Nat) (f : Pkg → Pkg) : (s.modPkg c f).seq = s.seq := rfl
@[simp] theorem State.modPkg_freeCtr (s : State) (c : Nat) (f : Pkg → Pkg) : (s.modPkg c f).freeCtr = s.freeCtr := rfl
@[simp] theorem State.modPkg_agenda (s : State) (c : Nat) (f : Pkg → Pkg) : (s.modPkg c f).agenda = s.agenda := rfl
@[simp] theorem State.modPkg_sig (s : State) (c : Nat) (f : Pkg → Pkg) : (s.modPkg c f).sig = s.sig := rfl
@[simp] theorem State.modPkg_poison (s : State) (c : Nat) (f : Pkg → Pkg) : (s.modPkg c f).poison = s.poison := rfl
@[simp] theorem State.modPkg_memCache (s : State) (c : Nat) (f : Pkg → Pkg) : (s.modPkg c f).memCache = s.memCache := rfl
@[simp] theorem State.modPkg_tails (s : State) (c : Nat) (f : Pkg → Pkg) : (s.modPkg c f).tails = s.tails := rfl
@[simp] theorem State.modPkg_wq (s : State) (c : Nat) (f : Pkg → Pkg) : (s.modPkg c f).wq = s.wq := rfl
@[simp] theorem State.modPkg_regs (s : State) (c : Nat) (f : Pkg → Pkg) : (s.modPkg c f).regs = s.regs := rfl
@[simp] theorem State.modPkg_reqs (s : State) (c : Nat) (f : Pkg → Pkg) : (s.modPkg c f).reqs = s.reqs := rfl
@[simp] theorem State.modPkg_cmds (s : State) (c : Nat) (f : Pkg → Pkg) : (s.modPkg c f).cmds = s.cmds := rfl
@[simp] theorem State.modPkg_msgs (s : State) (c : Nat) (f : Pkg → Pkg) : (s.modPkg c f).msgs = s.msgs := rfl
@[simp] theorem State.modPkg_eseqs (s : State) (c : Nat) (f : Pkg → Pkg) : (s.modPkg c f).eseqs = s.eseqs := rfl
@[simp] theorem State.modPkg_stitch (s : State) (c : Nat) (f : Pkg → Pkg) : (s.modPkg c f).stitch = s.stitch := rfl
@[simp] theorem State.modPkg_memPhs (s : State) (c : Nat) (f : Pkg → Pkg) : (s.modPkg c f).memPhs = s.memPhs := rfl
@[simp] theorem State.modPkg_filters (s : State) (c : Nat) (f : Pkg → Pkg) : (s.modPkg c f).filters = s.filters := rfl
@[simp] theorem State.modPkg_deliveries (s : State) (c : Nat) (f : Pkg → Pkg) : (s.modPkg c f).deliveries = s.deliveries := rfl
@[simp] theorem State.modPkg_agentParks (s : State) (c : Nat) (f : Pkg → Pkg) : (s.modPkg c f).agentParks = s.agentParks := rfl
@[simp] theorem State.modPkg_launches (s : State) (c : Nat) (f : Pkg → Pkg) : (s.modPkg c f).launches = s.launches := rfl
@[simp] theorem State.modPkg_packets (s : State) (c : Nat) (f : Pkg → Pkg) : (s.modPkg c f).packets = s.packets := rfl
@[simp] theorem State.modPkg_hbm (s : State) (c : Nat) (f : Pkg → Pkg) : (s.modPkg c f).hbm = s.hbm := rfl

/-- A key kept by a change, found after it. -/
theorem find?_map_key {α : Type} (key : α → Nat) (i : Nat) (f : α → α) (hf : ∀ a, key (f a) = key a) (l : List α) (j : Nat) :
    (l.map (fun a => if key a = i then f a else a)).find? (fun a => key a == j) =
      if j = i then (l.find? (fun a => key a == j)).map f else l.find? (fun a => key a == j) := by
  induction l with
  | nil => simp
  | cons a r ih =>
    by_cases h : key a = i
    · by_cases h' : i = j
      · subst h'; simp [h, hf]
      · have h'' : j ≠ i := fun e => h' e.symm
        simp [h, h', h'', hf] at ih ⊢
        simpa using ih
    · by_cases h' : key a = j
      · have : j ≠ i := fun e => h (h'.trans e)
        simp [h', this]
      · simp [h, h'] at ih ⊢
        simpa using ih

theorem State.team?_modTeam (s : State) (i : Nat) (f : Team → Team) (hf : ∀ t, (f t).tid = t.tid) (j : Nat) :
    (s.modTeam i f).team? j = if j = i then (s.team? j).map f else s.team? j :=
  find?_map_key Team.tid i f hf s.teams j
theorem Team.fibre?_modFibre (t : Team) (i : Nat) (g : Fibre → Fibre) (hg : ∀ f, (g f).fid = f.fid) (j : Nat) :
    (t.modFibre i g).fibre? j = if j = i then (t.fibre? j).map g else t.fibre? j :=
  find?_map_key Fibre.fid i g hg t.fibres j

/-- A lane looked up after one fibre has changed. -/
theorem State.fibre?_modFibre (s : State) (l : Lane) (g : Fibre → Fibre) (hg : ∀ f, (g f).fid = f.fid) (k : Lane) :
    (s.modFibre l g).fibre? k = if k = l then (s.fibre? k).map g else s.fibre? k := by
  obtain ⟨kt, kf⟩ := k
  obtain ⟨lt, lf⟩ := l
  simp only [State.fibre?, State.modFibre, Lane.mk.injEq]
  rw [State.team?_modTeam s lt (fun t => t.modFibre lf g) (fun _ => rfl)]
  by_cases h : kt = lt
  · subst h
    cases ht : s.team? kt with
    | none => simp
    | some t =>
      simp only [if_true, Option.map_some, Option.bind_some, true_and]
      rw [Team.fibre?_modFibre _ _ _ hg]
  · simp [h]
/-- A lane looked up after a change of a team that keeps its fibres. -/
theorem State.fibre?_modTeam (s : State) (i : Nat) (f : Team → Team) (hf : ∀ t, (f t).tid = t.tid)
    (hk : ∀ t, (f t).fibres = t.fibres) (k : Lane) : (s.modTeam i f).fibre? k = s.fibre? k := by
  simp only [State.fibre?]
  rw [State.team?_modTeam _ _ _ hf]
  by_cases h : k.tid = i
  · cases ht : s.team? k.tid with
    | none => simp
    | some t => simp [h, Team.fibre?, hk]
  · simp [h]
theorem State.fibre_eq (s : State) (l : Lane) (f : Fibre) (h : s.fibre? l = some f) : s.fibre l = f := by
  simp only [State.fibre?] at h
  cases ht : s.team? l.tid with
  | none => simp [ht] at h
  | some t =>
    simp only [ht, Option.bind_some] at h
    simp [State.fibre, State.team, ht, Team.fibre, h]
theorem State.fibre?_of_isSome (s : State) (l : Lane) (h : (s.fibre? l).isSome = true) : s.fibre? l = some (s.fibre l) := by
  obtain ⟨f, hf⟩ := Option.isSome_iff_exists.mp h
  rw [hf, State.fibre_eq _ _ _ hf]

/-- The outlines of the teams after a change of one fibre. -/
theorem State.modFibre_outlines (s : State) (l : Lane) (g : Fibre → Fibre) :
    (s.modFibre l g).teams.map Team.outline = s.teams.map Team.outline := by
  simp only [State.modFibre, State.modTeam, List.map_map]
  apply List.map_congr_left
  intro t _
  by_cases h : t.tid = l.tid <;> simp [h]
theorem State.modFibre_rest (s : State) (l : Lane) (g : Fibre → Fibre) :
    { s.modFibre l g with teams := [] } = { s with teams := [] } := rfl

end Sys2Proof.Machine
end

