-- ==== Sys2Proof/Laws/Lanes.lean ====
section
/-! SUPPORT. What the shared operations over lanes do: one lane's registers written, the lane gone on, and the lanes of a signature
one after another (runLanes). -/

namespace Sys2Proof.Machine

/-- What an instruction that writes only registers has left of the teams. -/
def teamsAfter (i : Nat) (sc : List Word → List Word) (fl : List FlagPend) (ts : List Team) : List Team :=
  ts.map (fun x => if x.tid = i then { x.outline with scalars := sc x.scalars, flagPend := x.flagPend ++ fl } else x.outline)
/-- A core's stochastic state advanced n times. -/
def coreDrawn (s : State) (key n c : Nat) : Core :=
  if c = key then { s.coreAt c with srng := times xorshift n (s.coreAt c).srng } else s.coreAt c

/-- t is s with the registers of w written in lane l, and n advances of the stochastic state of a core; nothing else but what is on
its way. -/
structure Wrote (s t : State) (l : Lane) (key n : Nat) (w : LaneWrite) : Prop where
  fibre : ∀ f, s.fibre? l = some f → ∃ p, t.fibre? l = some { w.onFibre f with pend := p }
  others : ∀ k, k ≠ l → t.fibre? k = s.fibre? k
  teams : t.teams.map Team.outline = teamsAfter l.tid w.onScalars w.flags s.teams
  cores : ∀ c, t.coreAt c = coreDrawn s key n c
  rest : { t with teams := [], cores := [] } = { s with teams := [], cores := [] }

theorem times_add {α : Type} (f : α → α) (m n : Nat) (x : α) : times f n (times f m x) = times f (m + n) x := by
  induction m generalizing x with
  | zero => simp [times]
  | succ m ih => rw [Nat.add_right_comm]; exact ih (f x)

theorem coreDrawn_zero (s : State) (key c : Nat) : coreDrawn s key 0 c = s.coreAt c := by
  by_cases h : c = key <;> simp [coreDrawn, times, h]

theorem put_pend (f : Fibre) (p : List Pend) (r : RegName) (v : Word) :
    Fibre.put { f with pend := p } r v = { Fibre.put f r v with pend := p } := by
  cases r with
  | pred i => by_cases h : i = 0 <;> simp [Fibre.put, h]
  | _ => rfl
theorem putAll_pend (rs : List (RegName × Word)) (f : Fibre) (p : List Pend) :
    rs.foldl (fun f q => f.put q.1 q.2) { f with pend := p } =
      { rs.foldl (fun f q => f.put q.1 q.2) f with pend := p } := by
  induction rs generalizing f with
  | nil => rfl
  | cons a r ih => rw [List.foldl_cons, List.foldl_cons, put_pend, ih]
theorem onFibre_pend (w : LaneWrite) (f : Fibre) (p : List Pend) :
    w.onFibre { f with pend := p } = { w.onFibre f with pend := p } := by
  unfold LaneWrite.onFibre
  rw [putAll_pend]
  cases w.last <;> rfl
theorem put_fid (f : Fibre) (r : RegName) (v : Word) : (f.put r v).fid = f.fid := by
  cases r with
  | pred i => by_cases h : i = 0 <;> simp [Fibre.put, h]
  | _ => rfl
theorem put_level (f : Fibre) (r : RegName) (v : Word) : (f.put r v).level = f.level := by
  cases r with
  | pred i => by_cases h : i = 0 <;> simp [Fibre.put, h]
  | _ => rfl
theorem put_pc (f : Fibre) (r : RegName) (v : Word) : (f.put r v).pc = f.pc := by
  cases r with
  | pred i => by_cases h : i = 0 <;> simp [Fibre.put, h]
  | _ => rfl
theorem put_last (f : Fibre) (r : RegName) (v a b : Word) :
    Fibre.put { f with y0 := a, y1 := b } r v = { Fibre.put f r v with y0 := a, y1 := b } := by
  cases r with
  | pred i => by_cases h : i = 0 <;> simp [Fibre.put, h]
  | _ => rfl
theorem putAll_last (rs : List (RegName × Word)) (f : Fibre) (a b : Word) :
    rs.foldl (fun f q => f.put q.1 q.2) { f with y0 := a, y1 := b } =
      { rs.foldl (fun f q => f.put q.1 q.2) f with y0 := a, y1 := b } := by
  induction rs generalizing f with
  | nil => rfl
  | cons x r ih => rw [List.foldl_cons, List.foldl_cons, put_last, ih]

theorem onFibre_and (a b : LaneWrite) (f : Fibre) : (a.and b).onFibre f = b.onFibre (a.onFibre f) := by
  unfold LaneWrite.onFibre LaneWrite.and
  simp only [List.foldl_append]
  cases ha : a.last with
  | none => cases hb : b.last <;> simp
  | some p => cases hb : b.last <;> simp [putAll_last]
theorem onScalars_and (a b : LaneWrite) (c : List Word) : (a.and b).onScalars c = b.onScalars (a.onScalars c) := by
  simp [LaneWrite.onScalars, LaneWrite.and, List.foldl_append]

/-- The outline of a team of a number. -/
theorem team?_outline (s : State) (i : Nat) :
    (s.team? i).map Team.outline = (s.teams.map Team.outline).find? (fun t => t.tid == i) := by
  rw [List.find?_map]; rfl
theorem teamsAfter_find (i : Nat) (sc : List Word → List Word) (fl : List FlagPend) (s : State) (j : Nat) :
    ((teamsAfter i sc fl s.teams).find? (fun t => t.tid == j)).map (fun x => { x with scalars := [], flagPend := [] }) =
      (s.team? j).map (fun x => { x.outline with scalars := [], flagPend := [] }) := by
  unfold teamsAfter
  rw [List.find?_map]
  have : ((fun t : Team => t.tid == j) ∘ fun x : Team =>
      if x.tid = i then { x.outline with scalars := sc x.scalars, flagPend := x.flagPend ++ fl } else x.outline) =
      fun t => t.tid == j := by
    funext x; by_cases h : x.tid = i <;> simp [h]
  rw [this, Option.map_map]
  show (s.team? j).map _ = _
  congr 1
  funext x
  by_cases h : x.tid = i <;> simp [h, Team.outline]

theorem Wrote.team (hw : Wrote s t l key n w) (i : Nat) :
    { (t.team i).outline with scalars := [], flagPend := [] } = { (s.team i).outline with scalars := [], flagPend := [] } := by
  have h := congrArg (fun o => Option.map (fun x : Team => { x with scalars := [], flagPend := [] }) o) (team?_outline t i)
  simp only [hw.teams, teamsAfter_find, Option.map_map] at h
  unfold State.team
  cases ht : t.team? i <;> cases hs : s.team? i <;> simp [ht, hs] at h ⊢
  exact h
theorem Wrote.dbgctl (hw : Wrote s t l key n w) (i : Nat) : (t.team i).dbgctl = (s.team i).dbgctl := by
  have := congrArg Team.dbgctl (hw.team i)
  simpa [Team.outline] using this
theorem Wrote.coreKey (hw : Wrote s t l key n w) (i : Nat) : (t.team i).coreKey = (s.team i).coreKey := by
  have := congrArg Team.coreKey (hw.team i)
  simpa [Team.outline, Team.coreKey] using this
theorem Wrote.rmode (hw : Wrote s t l key n w) (i : Nat) : (t.team i).rmode = (s.team i).rmode := by
  have := congrArg Team.rmode (hw.team i)
  simpa [Team.outline] using this
theorem Wrote.now (hw : Wrote s t l key n w) : t.now = s.now := by
  have := congrArg State.now hw.rest; simpa using this
theorem Wrote.seq (hw : Wrote s t l key n w) : t.seq = s.seq := by
  have := congrArg State.seq hw.rest; simpa using this

theorem Wrote.refl (s : State) (l : Lane) (key : Nat) : Wrote s s l key 0 { } where
  fibre := fun f h => ⟨f.pend, h⟩
  others := fun _ _ => rfl
  teams := by
    unfold teamsAfter
    apply List.map_congr_left
    intro x _
    by_cases h : x.tid = l.tid <;> simp [h, LaneWrite.onScalars, Team.outline]
  cores := fun c => (coreDrawn_zero s key c).symm
  rest := rfl

/-- Two writes of one lane, one after the other. -/
theorem Wrote.trans (h1 : Wrote s t l key m a) (h2 : Wrote t u l key n b) : Wrote s u l key (m + n) (a.and b) where
  fibre := by
    intro f hf
    obtain ⟨p, hp⟩ := h1.fibre f hf
    obtain ⟨q, hq⟩ := h2.fibre _ hp
    refine ⟨q, ?_⟩
    rw [hq, onFibre_and, onFibre_pend]
  others := fun k hk => (h2.others k hk).trans (h1.others k hk)
  teams := by
    rw [h2.teams]
    have e : teamsAfter l.tid b.onScalars b.flags t.teams = (t.teams.map Team.outline).map (fun x =>
        if x.tid = l.tid then { x with scalars := b.onScalars x.scalars, flagPend := x.flagPend ++ b.flags } else x) := by
      rw [List.map_map]; unfold teamsAfter
      apply List.map_congr_left
      intro x _
      by_cases h : x.tid = l.tid <;> simp [h, Team.outline]
    rw [e, h1.teams]
    unfold teamsAfter
    rw [List.map_map]
    apply List.map_congr_left
    intro x _
    by_cases h : x.tid = l.tid
    · simp [h, Team.outline, onScalars_and]; simp [LaneWrite.and]
    · simp [h]
  cores := by
    intro c
    rw [h2.cores c, coreDrawn, coreDrawn, h1.cores c, coreDrawn]
    by_cases h : c = key <;> simp [h, times_add]
  rest := h2.rest.trans h1.rest

/-- A register written (R37 WriteReg). -/
theorem writeName_wrote (s : State) (l : Lane) (key : Nat) (r : RegName) (v : Word) (lat : Option Nat) :
    Wrote s (s.writeName l r v lat) l key 0 { regs := [(r, v)] } := by
  have hfid : ∀ (old : Word) (g : Fibre), ((g.note s.now r old lat s.seq).put r v).fid = g.fid :=
    fun _ g => put_fid _ _ _
  have hput : ∀ (old : Word) (f : Fibre), ∃ p, (f.note s.now r old lat s.seq).put r v =
      { LaneWrite.onFibre { regs := [(r, v)] } f with pend := p } := by
    intro old f
    exact ⟨_, by rw [Fibre.note, put_pend]; rfl⟩
  have base : ∀ (hr : ∀ i, r ≠ .scalar i), Wrote s (s.modFibre l (fun f =>
      (f.note s.now r ((s.team l.tid).stored (s.fibre l) r) lat s.seq).put r v)) l key 0 { regs := [(r, v)] } := by
    intro hr
    refine ⟨?_, ?_, ?_, ?_, rfl⟩
    · intro f hf
      obtain ⟨p, hp⟩ := hput _ f
      refine ⟨p, ?_⟩
      rw [State.fibre?_modFibre _ _ _ (hfid _), if_pos rfl, hf, Option.map_some, hp]
    · intro k hk
      rw [State.fibre?_modFibre _ _ _ (hfid _), if_neg hk]
    · rw [State.modFibre_outlines]
      unfold teamsAfter
      apply List.map_congr_left
      intro x _
      have : LaneWrite.onScalars { regs := [(r, v)] } x.scalars = x.scalars := by
        cases r with
        | scalar i => exact absurd rfl (hr i)
        | _ => rfl
      by_cases h : x.tid = l.tid <;> simp [h, this, Team.outline]
    · intro c; rw [State.modFibre_coreAt, coreDrawn_zero]
  cases r with
  | scalar i =>
    refine ⟨?_, ?_, ?_, ?_, rfl⟩
    · intro f hf
      obtain ⟨p, hp⟩ := hput _ f
      refine ⟨p, ?_⟩
      simp only [State.writeName]
      rw [State.fibre?_modTeam _ _ _ (by intro _; rfl) (by intro _; rfl), State.fibre?_modFibre _ _ _ (hfid _), if_pos rfl, hf,
        Option.map_some, hp]
    · intro k hk
      simp only [State.writeName]
      rw [State.fibre?_modTeam _ _ _ (by intro _; rfl) (by intro _; rfl), State.fibre?_modFibre _ _ _ (hfid _), if_neg hk]
    · simp only [State.writeName, State.modFibre, State.modTeam, teamsAfter, List.map_map]
      apply List.map_congr_left
      intro x _
      by_cases h : x.tid = l.tid
      · simp [h, Team.outline, Team.putScalar, LaneWrite.onScalars, Team.modFibre]
      · simp [h]
    · intro c
      simp only [State.writeName, State.modTeam_coreAt, State.modFibre_coreAt, coreDrawn_zero]
  | _ => exact base (by intro i; simp)

/-- A register written under the name of an operand field. -/
theorem writePair_wrote (s : State) (l : Lane) (key : Nat) (fld : Field) (v : Dword) (lat : Option Nat) :
    Wrote s (s.writePair l fld v lat) l key 0
      { regs := [(regName fld.file fld.idx, v.lo), (regName fld.file (fld.idx + 1), v.hi)] } :=
  (writeName_wrote s l key _ v.lo lat).trans (writeName_wrote _ l key _ v.hi lat)
/-- The last-result file changed, nothing else but what is on its way. -/
theorem last_wrote (s : State) (l : Lane) (key : Nat) (g : Fibre → Fibre) (a b : Word)
    (hg : ∀ f, s.fibre? l = some f → ∃ p, g f = { f with y0 := a, y1 := b, pend := p }) (hf : ∀ f, (g f).fid = f.fid) :
    Wrote s (s.modFibre l g) l key 0 { last := some (a, b) } where
  fibre := by
    intro f h
    obtain ⟨p, hp⟩ := hg f h
    exact ⟨p, by rw [State.fibre?_modFibre _ _ _ hf, if_pos rfl, h, Option.map_some, hp]; rfl⟩
  others := fun k hk => by rw [State.fibre?_modFibre _ _ _ hf, if_neg hk]
  teams := by
    rw [State.modFibre_outlines]; unfold teamsAfter
    apply List.map_congr_left
    intro x _
    by_cases h : x.tid = l.tid <;> simp [h, LaneWrite.onScalars, Team.outline]
  cores := fun c => by rw [State.modFibre_coreAt, coreDrawn_zero]
  rest := rfl
/-- A 32-bit result (R21): y1 takes y0, y0 the result. -/
theorem result32_wrote (s : State) (l : Lane) (key : Nat) (fld : Field) (v : Word) (lat : Option Nat) (f : Fibre)
    (hf : s.fibre? l = some f) :
    Wrote s (s.result32 l fld v lat) l key 0 { regs := [(regName fld.file fld.idx, v)], last := some (v, f.y0) } := by
  have h1 := writeName_wrote s l key (regName fld.file fld.idx) v lat
  have hy : ∀ (f : Fibre) (r : RegName) (v : Word), (f.put r v).y0 = f.y0 := by
    intro f r v
    cases r with
    | pred i => by_cases h : i = 0 <;> simp [Fibre.put, h]
    | _ => rfl
  refine h1.trans (last_wrote _ l key (fun f => f.shiftLast s.now v lat s.seq) v f.y0 ?_ (fun _ => rfl))
  intro g hg
  obtain ⟨p, hp⟩ := h1.fibre f hf
  rw [hg, Option.some_inj] at hp
  have : g.y0 = f.y0 := by rw [hp]; exact hy _ _ _
  exact ⟨_, by rw [Fibre.shiftLast, this]⟩
/-- A 64-bit result (R21): y0 and y1 take its halves. -/
theorem result64_wrote (s : State) (l : Lane) (key : Nat) (fld : Field) (v : Dword) (lat : Option Nat) :
    Wrote s (s.result64 l fld v lat) l key 0 (pairWrite fld v) :=
  (writePair_wrote s l key fld v lat).trans
    (last_wrote _ l key (fun f => f.setLast s.now v lat s.seq) v.lo v.hi (fun _ _ => ⟨_, rfl⟩) (fun _ => rfl))
/-- A result under an integer type. -/
theorem writeInt_wrote (s0 s : State) (l : Lane) (key : Nat) (fld : Field) (ty : IType) (x : Int) (lat : Option Nat)
    (hl : (s.fibre? l).isSome = true) (he : s.fibre? l = s0.fibre? l) :
    Wrote s (s.writeInt l fld ty x lat) l key 0 (s0.intWrite l fld ty x) := by
  unfold State.writeInt State.intWrite
  split
  · exact result64_wrote s l key fld _ lat
  · obtain ⟨f, hf⟩ := Option.isSome_iff_exists.mp hl
    have : (s0.fibre l).y0 = f.y0 := by rw [State.fibre_eq s0 l f (he ▸ hf)]
    rw [State.wordWrite, this]
    exact result32_wrote s l key fld _ lat f hf
/-- A predicate written; p0 ignores it (R16). -/
theorem writePred_wrote (s : State) (l : Lane) (key n : Nat) (v : Bool) (lat : Option Nat) :
    Wrote s (s.writePred l n v lat) l key 0 (predWrite n v) := by
  unfold State.writePred predWrite
  split
  · exact Wrote.refl s l key
  · exact writeName_wrote s l key _ _ lat

/-- Where no STEP trap follows, completing moves the PC and nothing else (R114). -/
theorem complete_unstepped (s : State) (l : Lane) (st : BitVec 4) (lv : Level) (pc : Dword)
    (h : lv = .user → (s.team l.tid).dbgctl.getLsbD 1 = false) : s.complete l st lv pc = s.setPc l st pc := by
  unfold State.complete State.stepTrap
  have : ((s.setPc l st pc).team l.tid).dbgctl = (s.team l.tid).dbgctl := by
    unfold State.setPc State.modFibre State.team
    rw [State.team?_modTeam _ _ _ (by intro _; rfl)]
    cases s.team? l.tid <;> simp
  rw [this]
  by_cases hl : lv = .user
  · rw [h hl]; simp
  · simp [hl]
theorem setPc_eq (s : State) (l : Lane) (st : BitVec 4) (pc : Dword) :
    s.setPc l st pc = s.modFibre l (fun f => f.movedTo pc s.now st) := rfl

/-- Going on in sequence is a transfer to the next slot. -/
theorem finish_done_eq (s t : State) (l : Lane) (h : Head) :
    s.finish l h (.done t) = s.finish l h (.goto (nextPc (s.fibre l).pc) t) := rfl
/-- A lane that completes: its registers written, and the PC moved. -/
theorem finish_goto (s t : State) (l : Lane) (h : Head) (pc : Dword) (key n : Nat) (w : LaneWrite) (hw : Wrote s t l key n w)
    (hl : (s.fibre? l).isSome = true)
    (hs : (s.fibre l).level = .user → (s.team l.tid).dbgctl.getLsbD 1 = false) :
    let u := s.finish l h (.goto pc t)
    (∃ p, u.fibre? l = some { ((w.onFibre (s.fibre l)).movedTo pc s.now h.stall) with pend := p }) ∧
    (∀ k, k ≠ l → u.fibre? k = s.fibre? k) ∧
    u.teams.map Team.outline = teamsAfter l.tid w.onScalars w.flags s.teams ∧
    (∀ c, u.coreAt c = coreDrawn s key n c) ∧
    { u with teams := [], cores := [] } = { s with teams := [], cores := [] } := by
  intro u
  have hu : u = t.modFibre l (fun f => f.movedTo pc t.now h.stall) := by
    show s.finish l h (.goto pc t) = _
    rw [State.finish, complete_unstepped _ _ _ _ _ (by rw [hw.dbgctl]; exact hs), setPc_eq]
  have hfid : ∀ f : Fibre, (f.movedTo pc t.now h.stall).fid = f.fid := fun _ => rfl
  have hf := State.fibre?_of_isSome s l hl
  refine ⟨?_, ?_, ?_, ?_, ?_⟩
  · obtain ⟨p, hp⟩ := hw.fibre _ hf
    refine ⟨p, ?_⟩
    rw [hu, State.fibre?_modFibre _ _ _ hfid, if_pos rfl, hp, Option.map_some, hw.now]
    rfl
  · intro k hk
    rw [hu, State.fibre?_modFibre _ _ _ hfid, if_neg hk]; exact hw.others k hk
  · rw [hu, State.modFibre_outlines, hw.teams]
  · intro c; rw [hu, State.modFibre_coreAt, hw.cores c]
  · rw [hu]; exact hw.rest
theorem finish_passed (s : State) (l : Lane) (h : Head) (hl : (s.fibre? l).isSome = true)
    (hs : (s.fibre l).level = .user → (s.team l.tid).dbgctl.getLsbD 1 = false) :
    (s.finish l h (.done s)).fibre? l = some ((s.fibre l).moved s.now h.stall) := by
  rw [State.finish, complete_unstepped _ _ _ _ _ hs, setPc_eq, State.fibre?_modFibre _ _ _ (by intro _; rfl), if_pos rfl,
    State.fibre?_of_isSome s l hl, Option.map_some]
  rfl

/-- The number of draws before a lane, and through it, within the guarded lanes. -/
theorem filter_cons_idx (g : Lane → Bool) (a l : Lane) (r : List Lane) (hal : l ≠ a) :
    ((a :: r).filter g).idxOf l = (if g a then 1 else 0) + (r.filter g).idxOf l := by
  by_cases h : g a
  · simp [h, hal.symm, Nat.add_comm]
  · simp [h]

/-- The lanes of a list run one after another, each writing what `w` gives for its place among the guarded ones: n says how many
draws each makes (0 or 1). -/
theorem foldl_lanes (h : Head) (g : Lane → Bool) (body : State → Lane → State) (pc : State → Lane → Dword) (pcs : Lane → Dword) (key n T : Nat)
    (w : Nat → Lane → LaneWrite) (s0 : State)
    (hpc : ∀ (t : State) (l : Lane), (t.fibre? l).isSome = true → t.fibre? l = s0.fibre? l → pc t l = pcs l)
    (hbody : ∀ (t : State) (l : Lane) (k : Nat), l.tid = T → (t.fibre? l).isSome = true → t.fibre? l = s0.fibre? l →
      t.now = s0.now → t.seq = s0.seq → (∀ i, (t.team i).rmode = (s0.team i).rmode) → (∀ i, (t.team i).coreKey = (s0.team i).coreKey) →
      (∀ c, t.coreAt c = coreDrawn s0 key k c) → Wrote t (body t l) l key n (w k l))
    (ls : List Lane) :
    ∀ (s : State) (k : Nat), ls.Nodup → (∀ l ∈ ls, l.tid = T) → (∀ l ∈ ls, (s.fibre? l).isSome = true) →
      (∀ l ∈ ls, s.fibre? l = s0.fibre? l) →
      (∀ l ∈ ls, (s.fibre l).level = .user → (s.team l.tid).dbgctl.getLsbD 1 = false) → s.now = s0.now → s.seq = s0.seq →
      (∀ i, (s.team i).rmode = (s0.team i).rmode) → (∀ i, (s.team i).coreKey = (s0.team i).coreKey) →
      (∀ c, s.coreAt c = coreDrawn s0 key k c) →
      let u := ls.foldl (fun s l => s.finish l h (if g l then .goto (pc s l) (body s l) else .done s)) s
      let wl := fun l => w (k + n * (ls.filter g).idxOf l) l
      (∀ l ∈ ls, g l = true → ∃ p, u.fibre? l = some { (((wl l).onFibre (s.fibre l)).movedTo (pcs l) s.now h.stall) with pend := p }) ∧
      (∀ l ∈ ls, g l = false → u.fibre? l = some ((s.fibre l).moved s.now h.stall)) ∧
      (∀ l, l ∉ ls → u.fibre? l = s.fibre? l) ∧
      u.teams.map Team.outline = teamsAfter T (fun c => (ls.filter g).foldl (fun c l => (wl l).onScalars c) c)
        ((ls.filter g).flatMap (fun l => (wl l).flags)) s.teams ∧
      (∀ c, u.coreAt c = coreDrawn s key (n * (ls.filter g).length) c) ∧
      { u with teams := [], cores := [] } = { s with teams := [], cores := [] } := by
  induction ls with
  | nil =>
    intro s k _ _ _ _ _ _ _ _ _ _
    refine ⟨by simp, by simp, fun _ _ => rfl, ?_, ?_, rfl⟩
    · simp only [List.foldl_nil, List.filter_nil, List.flatMap_nil]
      unfold teamsAfter
      apply List.map_congr_left
      intro x _
      by_cases e : x.tid = T <;> simp [e, Team.outline]
    · intro c
      simp only [List.foldl_nil, List.filter_nil, List.length_nil, Nat.mul_zero]
      exact (coreDrawn_zero s key c).symm
  | cons a r ih =>
    intro s k hnd hT hpres hsame hstep hnow hseq hrm hck hcores
    have haT := hT a (by simp)
    have hpa := hpres a (by simp)
    have hsa := hstep a (by simp)
    obtain ⟨hna, hnr⟩ := List.nodup_cons.mp hnd
    -- the head lane
    have key1 : ∃ (b : LaneWrite) (d : Nat) (t : State),
        s.finish a h (if g a then LaneRes.goto (pc s a) (body s a) else .done s) =
          s.finish a h (.goto (if g a then pcs a else nextPc (s.fibre a).pc) t) ∧ Wrote s t a key d b ∧
        d = (if g a then n else 0) ∧ b = (if g a then w k a else { }) := by
      by_cases e : g a
      · exact ⟨w k a, n, body s a, by simp [e, hpc s a hpa (hsame a (by simp))],
          hbody s a k haT hpa (hsame a (by simp)) hnow hseq hrm hck hcores, by simp [e], by simp [e]⟩
      · exact ⟨{ }, 0, s, by simp [e, finish_done_eq], Wrote.refl s a key, by simp [e], by simp [e]⟩
    obtain ⟨b, d, t, ht, hw, hd, hb⟩ := key1
    have hfin := finish_goto s t a h (if g a then pcs a else nextPc (s.fibre a).pc) key d b hw hpa hsa
    rw [← ht] at hfin
    have hpass : g a = false → (s.finish a h (if g a then .goto (pc s a) (body s a) else .done s)).fibre? a =
        some ((s.fibre a).moved s.now h.stall) := by
      intro e; simp only [e, Bool.false_eq_true, if_false]; exact finish_passed s a h hpa hsa
    generalize hs1 : s.finish a h (if g a then .goto (pc s a) (body s a) else .done s) = s1 at hfin hpass
    obtain ⟨f1, f2, f3, f4, f5⟩ := hfin
    have hteam : ∀ i, { (s1.team i).outline with scalars := [], flagPend := [] } =
        { (s.team i).outline with scalars := [], flagPend := [] } := by
      intro i
      have e := congrArg (fun o => Option.map (fun x : Team => { x with scalars := [], flagPend := [] }) o) (team?_outline s1 i)
      simp only [f3, teamsAfter_find, Option.map_map] at e
      unfold State.team
      cases h1 : s1.team? i <;> cases h2 : s.team? i <;> simp [h1, h2] at e ⊢
      exact e
    have hdb : ∀ i, (s1.team i).dbgctl = (s.team i).dbgctl := fun i => by
      have := congrArg Team.dbgctl (hteam i); simpa [Team.outline] using this
    have hrm1 : ∀ i, (s1.team i).rmode = (s0.team i).rmode := fun i => by
      have := congrArg Team.rmode (hteam i)
      rw [← hrm i]; simpa [Team.outline] using this
    have hck1 : ∀ i, (s1.team i).coreKey = (s0.team i).coreKey := fun i => by
      have := congrArg Team.coreKey (hteam i)
      rw [← hck i]; simpa [Team.outline, Team.coreKey] using this
    have hne : ∀ l ∈ r, l ≠ a := fun l hl e => hna (e ▸ hl)
    have hf1 : ∀ l ∈ r, s1.fibre l = s.fibre l := by
      intro l hl
      have h1 := f2 l (hne l hl)
      have h2 := State.fibre?_of_isSome s l (hpres l (by simp [hl]))
      exact State.fibre_eq s1 l _ (h1.trans h2)
    have hnow1 : s1.now = s.now := by have := congrArg State.now f5; simpa using this
    have hseq1 : s1.seq = s.seq := by have := congrArg State.seq f5; simpa using this
    have hcores1 : ∀ c, s1.coreAt c = coreDrawn s0 key (k + d) c := by
      intro c
      rw [f4 c, coreDrawn, hcores c, coreDrawn, coreDrawn]
      by_cases e : c = key <;> simp [e, times_add]
    have := ih s1 (k + d) hnr (fun l hl => hT l (by simp [hl])) (fun l hl => by rw [f2 l (hne l hl)]; exact hpres l (by simp [hl]))
      (fun l hl => (f2 l (hne l hl)).trans (hsame l (by simp [hl])))
      (fun l hl hlv => by rw [hdb]; exact hstep l (by simp [hl]) (by rw [← hf1 l hl]; exact hlv))
      (hnow1.trans hnow) (hseq1.trans hseq) hrm1 hck1 hcores1
    simp only [List.foldl_cons]
    rw [hs1]
    obtain ⟨g1, g2, g3, g4, g5, g6⟩ := this
    have hidx : ∀ l ∈ r, k + n * ((a :: r).filter g).idxOf l = k + d + n * (r.filter g).idxOf l := by
      intro l hl
      rw [filter_cons_idx g a l r (hne l hl), hd]
      by_cases e : g a <;> simp [e, Nat.mul_add]; omega
    have hidxa : g a = true → ((a :: r).filter g).idxOf a = 0 := by intro e; simp [e]
    have hfoldr : ∀ (c : List Word),
        ((r.filter g).foldl (fun c l => (w (k + n * ((a :: r).filter g).idxOf l) l).onScalars c) c) =
        (r.filter g).foldl (fun c l => (w (k + d + n * (r.filter g).idxOf l) l).onScalars c) c := by
      intro c
      apply List.foldl_ext
      intro c' l hl
      rw [hidx l (List.mem_of_mem_filter hl)]
    have hflat : ((r.filter g).flatMap (fun l => (w (k + n * ((a :: r).filter g).idxOf l) l).flags)) =
        (r.filter g).flatMap (fun l => (w (k + d + n * (r.filter g).idxOf l) l).flags) := by
      apply List.flatMap_congr
      intro l hl
      rw [hidx l (List.mem_of_mem_filter hl)]
    refine ⟨?_, ?_, ?_, ?_, ?_, ?_⟩
    · intro l hl hg
      rcases List.mem_cons.mp hl with e | hl
      · subst e
        rw [g3 l hna, hidxa hg]
        simpa [hb, hg] using f1
      · rw [hidx l hl, ← hf1 l hl, ← hnow1]
        exact g1 l hl hg
    · intro l hl hg
      rcases List.mem_cons.mp hl with e | hl
      · subst e; rw [g3 l hna]; exact hpass hg
      · rw [← hf1 l hl, ← hnow1]; exact g2 l hl hg
    · intro l hl
      have hla : l ≠ a := fun e => hl (by simp [e])
      rw [g3 l (fun e => hl (by simp [e])), f2 l hla]
    · rw [g4]
      have e2 : teamsAfter T (fun c => (r.filter g).foldl (fun c l => (w (k + d + n * (r.filter g).idxOf l) l).onScalars c) c)
          ((r.filter g).flatMap (fun l => (w (k + d + n * (r.filter g).idxOf l) l).flags)) s1.teams =
          (s1.teams.map Team.outline).map (fun x => if x.tid = T then { x with
            scalars := (r.filter g).foldl (fun c l => (w (k + d + n * (r.filter g).idxOf l) l).onScalars c) x.scalars
            flagPend := x.flagPend ++ (r.filter g).flatMap (fun l => (w (k + d + n * (r.filter g).idxOf l) l).flags) } else x) := by
        rw [List.map_map]; unfold teamsAfter
        apply List.map_congr_left
        intro x _
        by_cases e : x.tid = T <;> simp [e, Team.outline]
      rw [e2, f3, haT]
      unfold teamsAfter
      rw [List.map_map]
      apply List.map_congr_left
      intro x _
      by_cases e : x.tid = T
      · have H1 : ∀ (F : List Word → Lane → List Word) (c : List Word),
            List.foldl F c ((a :: r).filter g) = List.foldl F (if g a then F c a else c) (r.filter g) := by
          intro F c; by_cases eg : g a <;> simp [eg]
        have H2 : ∀ (F : Lane → List FlagPend),
            List.flatMap F ((a :: r).filter g) = (if g a then F a else []) ++ List.flatMap F (r.filter g) := by
          intro F; by_cases eg : g a <;> simp [eg]
        simp only [Function.comp, e, if_true, Team.outline, H1, H2, hfoldr, hflat]
        by_cases eg : g a
        · simp only [eg, if_true, hidxa eg, Nat.mul_zero, Nat.add_zero, hb, List.append_assoc]
        · simp only [eg, hb, if_false, LaneWrite.onScalars, List.foldl_nil, List.append_nil, List.nil_append, Bool.false_eq_true]
      · simp [e]
    · intro c
      rw [g5 c, coreDrawn, f4 c, coreDrawn, coreDrawn]
      by_cases e : c = key
      · by_cases eg : g a <;> simp [e, times_add, hd, eg, Nat.mul_add, Nat.add_comm, times]
      · simp [e]
    · exact g6.trans f5

theorem mem_insertByLane (f g : Nat) (l : List Nat) : g ∈ insertByLane f l ↔ g = f ∨ g ∈ l := by
  induction l with
  | nil => simp [insertByLane]
  | cons a r ih =>
    unfold insertByLane
    split
    · simp
    · simp [ih, or_left_comm]
theorem mem_orderByLane (g : Nat) (l : List Nat) : g ∈ orderByLane l ↔ g ∈ l := by
  induction l with
  | nil => simp [orderByLane]
  | cons a r ih => simp [orderByLane, mem_insertByLane, ih]
theorem nodup_insertByLane (f : Nat) (l : List Nat) (h : l.Nodup) (hf : f ∉ l) : (insertByLane f l).Nodup := by
  induction l with
  | nil => simp [insertByLane]
  | cons a r ih =>
    unfold insertByLane
    split
    · exact List.nodup_cons.mpr ⟨hf, h⟩
    · obtain ⟨ha, hr⟩ := List.nodup_cons.mp h
      simp only [List.mem_cons, not_or] at hf
      refine List.nodup_cons.mpr ⟨?_, ih hr hf.2⟩
      rw [mem_insertByLane]
      rintro (e | e)
      · exact hf.1 e.symm
      · exact ha e
theorem nodup_orderByLane (l : List Nat) (h : l.Nodup) : (orderByLane l).Nodup := by
  induction l with
  | nil => simp [orderByLane]
  | cons a r ih =>
    obtain ⟨ha, hr⟩ := List.nodup_cons.mp h
    exact nodup_insertByLane a _ (ih hr) (by rwa [mem_orderByLane])
theorem sigLanes_nodup (s : State) (h : s.sig.fids.Nodup) : s.sigLanes.Nodup := by
  unfold State.sigLanes
  refine List.Nodup.map ?_ (nodup_orderByLane _ h)
  intro a b e
  simpa using e
theorem mem_sigLanes (s : State) (l : Lane) : l ∈ s.sigLanes ↔ l.tid = s.sig.tid ∧ l.fid ∈ s.sig.fids := by
  obtain ⟨t, f⟩ := l
  simp only [State.sigLanes, List.mem_map, mem_orderByLane, Lane.mk.injEq]
  constructor
  · rintro ⟨a, ha, rfl, rfl⟩; exact ⟨rfl, ha⟩
  · rintro ⟨rfl, hf⟩; exact ⟨f, hf, rfl, rfl⟩

/-- The shared law of the instructions that write only registers: where each lane's body writes w and advances the stochastic state n
times, nothing else, and goes on at pc, the signature as a whole has the effect that LaneEffect states. -/
theorem runLanes_goto (s : State) (h : Head) (n : Nat) (body : State → Lane → State) (pc : State → Lane → Dword) (pcs : Lane → Dword)
    (w : Nat → Lane → LaneWrite) (hi : s.Issued)
    (hpc : ∀ (t : State) (l : Lane), (t.fibre? l).isSome = true → t.fibre? l = s.fibre? l → pc t l = pcs l)
    (hbody : ∀ (t : State) (l : Lane) (k : Nat), l.tid = s.sig.tid → (t.fibre? l).isSome = true → t.fibre? l = s.fibre? l →
      t.now = s.now → t.seq = s.seq → (∀ i, (t.team i).rmode = (s.team i).rmode) → (∀ i, (t.team i).coreKey = (s.team i).coreKey) →
      (∀ c, t.coreAt c = coreDrawn s (s.team s.sig.tid).coreKey k c) →
      Wrote t (body t l) l (s.team s.sig.tid).coreKey n (w k l)) :
    LaneEffect s (s.runLanes h (fun t l => .goto (pc t l) (body t l))) s.sigLanes (s.guard h) h.stall n
      (fun l => w (n * (s.guarded h).idxOf l) l) pcs := by
  have hT : ∀ l ∈ s.sigLanes, l.tid = s.sig.tid := fun l hl => ((mem_sigLanes s l).mp hl).1
  have hF : ∀ l ∈ s.sigLanes, (⟨s.sig.tid, l.fid⟩ : Lane) = l := fun l hl => by
    have := hT l hl; obtain ⟨a, b⟩ := l; simp at this; simp [this]
  have hp : ∀ l ∈ s.sigLanes, (s.fibre? l).isSome = true := fun l hl => by
    have := hi.2.1 _ ((mem_sigLanes s l).mp hl).2; rwa [hF l hl] at this
  have hs : ∀ l ∈ s.sigLanes, (s.fibre l).level = .user → (s.team l.tid).dbgctl.getLsbD 1 = false := fun l hl e => by
    rw [hT l hl]
    exact hi.2.2 _ ((mem_sigLanes s l).mp hl).2 (by rw [hF l hl]; exact e)
  obtain ⟨g1, g2, g3, g4, g5, g6⟩ := foldl_lanes h (s.guard h) body pc pcs (s.team s.sig.tid).coreKey n s.sig.tid w s hpc hbody s.sigLanes s 0
    (sigLanes_nodup s hi.1) hT hp (fun _ _ => rfl) hs rfl rfl (fun _ => rfl) (fun _ => rfl) (fun c => (coreDrawn_zero s _ c).symm)
  simp only [Nat.zero_add] at g1 g4
  exact ⟨g1, g2, g3, g4, g5, g6⟩

/-- The same where every lane goes on in sequence. -/
theorem runLanes_effect (s : State) (h : Head) (n : Nat) (body : State → Lane → State) (w : Nat → Lane → LaneWrite)
    (hi : s.Issued)
    (hbody : ∀ (t : State) (l : Lane) (k : Nat), l.tid = s.sig.tid → (t.fibre? l).isSome = true → t.fibre? l = s.fibre? l →
      t.now = s.now → t.seq = s.seq → (∀ i, (t.team i).rmode = (s.team i).rmode) → (∀ i, (t.team i).coreKey = (s.team i).coreKey) →
      (∀ c, t.coreAt c = coreDrawn s (s.team s.sig.tid).coreKey k c) →
      Wrote t (body t l) l (s.team s.sig.tid).coreKey n (w k l)) :
    RegisterEffect s (s.runLanes h (fun t l => .done (body t l))) h n (fun l => w (n * (s.guarded h).idxOf l) l) := by
  have := runLanes_goto s h n body (fun t l => nextPc (t.fibre l).pc) (fun l => nextPc (s.fibre l).pc) w hi
    (fun t l hp he => by rw [State.fibre_eq s l (t.fibre l) (he ▸ State.fibre?_of_isSome t l hp)]) hbody
  have e : s.runLanes h (fun t l => .goto (nextPc (t.fibre l).pc) (body t l)) = s.runLanes h (fun t l => .done (body t l)) := by
    unfold State.runLanes
    congr 1
    funext t l
    by_cases hg : s.guard h l <;> simp [hg, finish_done_eq]
  rw [e] at this
  exact this

/-- Bodies that agree on the guarded lanes give the same run. -/
theorem runLanes_congr (s : State) (h : Head) (a b : State → Lane → LaneRes) (e : ∀ t, ∀ l ∈ s.guarded h, a t l = b t l) :
    s.runLanes h a = s.runLanes h b := by
  unfold State.runLanes
  apply List.foldl_ext
  intro t l hl
  by_cases hg : s.guard h l
  · simp only [hg, if_true]; rw [e t l (List.mem_filter.mpr ⟨hl, hg⟩)]
  · simp [hg]
/-- A guarded lane belongs to the team of the signature. -/
theorem guarded_tid (s : State) (h : Head) (l : Lane) (hl : l ∈ s.guarded h) : l.tid = s.sig.tid :=
  ((mem_sigLanes s l).mp (List.mem_filter.mp hl).1).1

end Sys2Proof.Machine
end

