-- ==== Sys2Proof/Laws/Float.lean ====
section
/-! SUPPORT. What the shared operations of the floating-point and conversion groups do: flags raised (R172), the stochastic state drawn
(R86), results delivered (R167), and the register and immediate forms. -/

namespace Sys2Proof.Machine

/-- Flags noted, nothing else. -/
theorem raiseFlags_wrote (s0 s : State) (l : Lane) (key : Nat) (fl : FFlags) (lat : Option Nat) (hn : s.now = s0.now) (hq : s.seq = s0.seq) :
    Wrote s (s.raiseFlags l fl lat) l key 0 { flags := s0.flagNote l fl lat } := by
  unfold State.raiseFlags State.flagNote
  rw [← hn, ← hq]
  split
  · exact Wrote.refl s l key
  · refine ⟨fun f hf => ⟨f.pend, ?_⟩, fun k _ => ?_, ?_, fun c => ?_, rfl⟩
    · rw [State.fibre?_modTeam _ _ _ (by intro _; rfl) (by intro _; rfl)]; exact hf
    · rw [State.fibre?_modTeam _ _ _ (by intro _; rfl) (by intro _; rfl)]
    · simp only [State.modTeam, teamsAfter, List.map_map]
      apply List.map_congr_left
      intro x _
      by_cases h : x.tid = l.tid <;> simp [h, Team.outline, LaneWrite.onScalars]
    · rw [State.modTeam_coreAt, coreDrawn_zero]

/-- One draw for one element (R86). -/
theorem draw_wrote (s : State) (l : Lane) (key : Nat) (mode : RMode) :
    Wrote s (s.draw key mode).2 l key (drawsOf mode 1) { } := by
  unfold State.draw drawsOf
  by_cases h : mode = .sr
  · simp only [h, if_true]
    refine ⟨fun f hf => ⟨f.pend, hf⟩, fun _ _ => rfl, (Wrote.refl s l key).teams, fun c => ?_, rfl⟩
    rw [State.coreAt_modCore, coreDrawn]
    by_cases e : c = key <;> simp [e, times]
  · simp only [h, if_false]; exact Wrote.refl s l key
/-- The word that a draw gives, where k draws have been made since s0. -/
theorem draw_word (s0 s : State) (key k : Nat) (mode : RMode) (hc : ∀ c, s.coreAt c = coreDrawn s0 key k c) :
    (s.draw key mode).1 = if mode = .sr then times xorshift (k + 1) (s0.coreAt key).srng else 0 := by
  unfold State.draw
  by_cases h : mode = .sr
  · simp only [h, if_true, hc, coreDrawn]
    rw [← times_add]; rfl
  · simp [h]
theorem drawsOf_sr (n : Nat) : drawsOf .sr n = n := by simp [drawsOf]

/-- A result and its flags delivered (R167, R172). -/
theorem deliver_wrote (s0 s : State) (l : Lane) (key : Nat) (fld : Field) (code : Nat) (fl : FFlags) (lat : Option Nat)
    (hl : (s.fibre? l).isSome = true) (he : s.fibre? l = s0.fibre? l) (hn : s.now = s0.now) (hq : s.seq = s0.seq) :
    Wrote s (s.deliver l fld code fl lat) l key 0 (s0.floatWrite l fld code fl lat) := by
  obtain ⟨f, hf⟩ := Option.isSome_iff_exists.mp hl
  have hy : (s0.fibre l).y0 = f.y0 := by rw [State.fibre_eq s0 l f (he ▸ hf)]
  have h1 := result32_wrote s l key fld (BitVec.ofNat 32 code) lat f hf
  have h2 := raiseFlags_wrote s0 (s.result32 l fld (BitVec.ofNat 32 code) lat) l key fl lat (h1.now.trans hn) (h1.seq.trans hq)
  unfold State.floatWrite State.wordWrite
  rw [hy]
  exact h1.trans h2
/-- An instruction that delivers a code and flags in every guarded lane. -/
theorem deliver_effect (s : State) (h : Head) (code : Lane → Nat) (fl : Lane → FFlags) (lat : Option Nat) (hi : s.Issued) :
    RegisterEffect s (s.runLanes h (fun t l => .done (t.deliver l h.dst (code l) (fl l) lat))) h 0
      (fun l => s.floatWrite l h.dst (code l) (fl l) lat) :=
  runLanes_effect s h 0 (fun t l => t.deliver l h.dst (code l) (fl l) lat) (fun _ l => s.floatWrite l h.dst (code l) (fl l) lat) hi
    (fun t l _ _ hp he hn hq _ _ _ => deliver_wrote s t l _ h.dst (code l) (fl l) lat hp he hn hq)

/-- The number of draws before a lane, under SR. -/
theorem drawsOf_idx (mode : RMode) (n k : Nat) : drawsOf mode n * k = if mode = .sr then n * k else 0 := by
  unfold drawsOf; split <;> simp
/-- An instruction that draws once and delivers what `r` makes of the word, in every guarded lane; `key` names the core. -/
theorem drawDeliver_effect (s : State) (h : Head) (mode : RMode) (key : State → Lane → Nat) (r : Lane → Word → Nat × FFlags)
    (lat : Option Nat) (hi : s.Issued)
    (hkey : ∀ t l, l.tid = s.sig.tid → (∀ i, (t.team i).coreKey = (s.team i).coreKey) → key t l = (s.team s.sig.tid).coreKey) :
    RegisterEffect s (s.runLanes h (fun t l =>
      .done ((t.draw (key t l) mode).2.deliver l h.dst (r l (t.draw (key t l) mode).1).1 (r l (t.draw (key t l) mode).1).2 lat)))
      h (drawsOf mode 1)
      (fun l => s.floatWrite l h.dst (r l (s.drawn h l mode 1 1)).1 (r l (s.drawn h l mode 1 1)).2 lat) := by
  have := runLanes_effect s h (drawsOf mode 1)
    (fun t l => (t.draw (key t l) mode).2.deliver l h.dst (r l (t.draw (key t l) mode).1).1 (r l (t.draw (key t l) mode).1).2 lat)
    (fun k l =>
      let x := if mode = .sr then times xorshift (k + 1) (s.coreAt (s.team s.sig.tid).coreKey).srng else 0
      s.floatWrite l h.dst (r l x).1 (r l x).2 lat) hi ?_
  · have e : ∀ l, (if mode = .sr then times xorshift (drawsOf mode 1 * (s.guarded h).idxOf l + 1)
        (s.coreAt (s.team s.sig.tid).coreKey).srng else 0) = s.drawn h l mode 1 1 := by
      intro l; unfold State.drawn
      by_cases hm : mode = .sr <;> simp [hm, drawsOf]
    simpa only [e] using this
  · intro t l k ht hp he hn hq hrm hck hc
    have hd := draw_wrote t l (s.team s.sig.tid).coreKey mode
    have hw := draw_word s t (s.team s.sig.tid).coreKey k mode hc
    simp only [hkey t l ht hck]
    rw [hw]
    have hp' : (((t.draw (s.team s.sig.tid).coreKey mode).2).fibre? l) = t.fibre? l := by
      unfold State.draw; split <;> rfl
    have := hd.trans (deliver_wrote s (t.draw (s.team s.sig.tid).coreKey mode).2 l (s.team s.sig.tid).coreKey h.dst
      (r l (if mode = .sr then times xorshift (k + 1) (s.coreAt (s.team s.sig.tid).coreKey).srng else 0)).1
      (r l (if mode = .sr then times xorshift (k + 1) (s.coreAt (s.team s.sig.tid).coreKey).srng else 0)).2 lat
      (by rw [hp']; exact hp) (hp'.trans he) (hd.now.trans hn) (hd.seq.trans hq))
    exact this
/-- What one lane of a rounding instruction makes of its exact value v and its word x. -/
def roundOf (f : Fmt) (mode : RMode) (sat ftz : Bool) (v : FVal × FFlags) (x : Word) : Nat × FFlags :=
  ((f.round mode sat ftz x v.1).1, v.2 ||| (f.round mode sat ftz x v.1).2)
/-- An instruction that rounds and delivers an exact value in every guarded lane (R173). -/
theorem deliverRound_effect (s : State) (h : Head) (f : Fmt) (mode : RMode) (sat ftz : Bool) (v : Lane → FVal × FFlags)
    (lat : Option Nat) (hi : s.Issued) :
    RegisterEffect s (s.runLanes h (fun t l => .done (t.deliverRound l h.dst f mode sat ftz (v l) lat))) h (drawsOf mode 1)
      (fun l => s.floatWrite l h.dst (f.round mode sat ftz (s.drawn h l mode 1 1) (v l).1).1
        ((v l).2 ||| (f.round mode sat ftz (s.drawn h l mode 1 1) (v l).1).2) lat) :=
  drawDeliver_effect s h mode (fun t l => (t.team l.tid).coreKey) (fun l x => roundOf f mode sat ftz (v l) x) lat hi
    (fun t l ht hck => by rw [hck, ht])

/-- A register form of FADD's kind (R173). -/
theorem floatReg_spec (h : Head) (m : FloatMod) (lat : Option Nat) (g : RMode → FVal → FVal → FVal → FVal × FFlags) (s : State)
    (hi : s.Issued) :
    ∃ t, floatReg h m lat g s = .next t ∧ RegisterEffect s t h (drawsOf (s.modeOf m.rnd) 1) (fun l =>
      let f := ftypeFmt m.ty
      let v := g (s.modeOf m.rnd) (s.readFloat l .sa h.sa f m.ftz) (s.readFloat l .sb h.sb f m.ftz) (s.readFloat l .sc h.sc f m.ftz)
      let r := f.round (s.modeOf m.rnd) false m.ftz (s.drawn h l (s.modeOf m.rnd) 1 1) v.1
      s.floatWrite l h.dst r.1 (v.2 ||| r.2) lat) := by
  refine ⟨_, rfl, ?_⟩
  rw [runLanes_congr s h _ (fun t l => .done (t.deliverRound l h.dst (ftypeFmt m.ty) (s.modeOf m.rnd) false m.ftz
      (g (s.modeOf m.rnd) (s.readFloat l .sa h.sa (ftypeFmt m.ty) m.ftz) (s.readFloat l .sb h.sb (ftypeFmt m.ty) m.ftz)
        (s.readFloat l .sc h.sc (ftypeFmt m.ty) m.ftz)) lat))]
  · exact deliverRound_effect s h _ _ _ _ (fun l => g (s.modeOf m.rnd) (s.readFloat l .sa h.sa (ftypeFmt m.ty) m.ftz)
      (s.readFloat l .sb h.sb (ftypeFmt m.ty) m.ftz) (s.readFloat l .sc h.sc (ftypeFmt m.ty) m.ftz)) lat hi
  · intro t l hl
    have e : rndMode m.rnd (s.team l.tid).rmode = s.modeOf m.rnd := by rw [guarded_tid s h l hl]; rfl
    simp only [e]
/-- An immediate form of FADD's kind (R168, R173). -/
theorem floatImm_spec (h : Head) (m : FloatImmMod) (g : RMode → FVal → FVal → FVal → FVal × FFlags) (s : State) (hi : s.Issued) :
    ∃ t, floatImm h m g s = .next t ∧ RegisterEffect s t h (drawsOf (s.modeOf m.rnd) 1) (fun l =>
      let v := g (s.modeOf m.rnd) (s.readFloat l .sa h.sa fmtF32 m.ftz) (fmtF32.operand m.ftz m.imm.toNat)
        (s.readFloat l .sc h.sc fmtF32 m.ftz)
      let r := fmtF32.round (s.modeOf m.rnd) false m.ftz (s.drawn h l (s.modeOf m.rnd) 1 1) v.1
      s.floatWrite l h.dst r.1 (v.2 ||| r.2) (some 4)) := by
  refine ⟨_, rfl, ?_⟩
  rw [runLanes_congr s h _ (fun t l => .done (t.deliverRound l h.dst fmtF32 (s.modeOf m.rnd) false m.ftz
      (g (s.modeOf m.rnd) (s.readFloat l .sa h.sa fmtF32 m.ftz) (fmtF32.operand m.ftz m.imm.toNat)
        (s.readFloat l .sc h.sc fmtF32 m.ftz)) (some 4)))]
  · exact deliverRound_effect s h _ _ _ _ (fun l => g (s.modeOf m.rnd) (s.readFloat l .sa h.sa fmtF32 m.ftz)
      (fmtF32.operand m.ftz m.imm.toNat) (s.readFloat l .sc h.sc fmtF32 m.ftz)) (some 4) hi
  · intro t l hl
    have e : rndMode m.rnd (s.team l.tid).rmode = s.modeOf m.rnd := by rw [guarded_tid s h l hl]; rfl
    simp only [e]

end Sys2Proof.Machine
end

