-- ==== Sys2Proof/Laws/Convert.lean ====
section
/-! SUPPORT. What the shared operations of the block conversions do: a run of registers written (R187, R188), and elements rounded in
order with one advance of the stochastic state each (R86, R92). -/

namespace Sys2Proof.Machine

/-- Registers written one after another under the names that a list gives them. -/
theorem writeNames_wrote (l : Lane) (key : Nat) (lat : Option Nat) (ps : List (RegName × Word)) (s : State) :
    Wrote s (ps.foldl (fun t p => t.writeName l p.1 p.2 lat) s) l key 0 { regs := ps } := by
  induction ps generalizing s with
  | nil => exact Wrote.refl s l key
  | cons p r ih => exact (writeName_wrote s l key p.1 p.2 lat).trans (ih _)
/-- A run of registers and the last-result file (R188). -/
theorem writeRun_wrote (s : State) (l : Lane) (key : Nat) (fld : Field) (ws : List Word) :
    Wrote s (s.writeRun l fld ws) l key 0 (runWrite fld ws []) := by
  have h1 := writeNames_wrote l key none (ws.zipIdx.map (fun p => (regName fld.file (fld.idx + p.2), p.1))) s
  rw [List.foldl_map] at h1
  have h2 := last_wrote (ws.zipIdx.foldl (fun t p => t.writeName l (regName fld.file (fld.idx + p.2)) p.1 none) s) l key
    (fun f => f.setLast s.now (pairOf (ws.getD (ws.length - 1) 0) (ws.getD (ws.length - 2) 0)) none s.seq)
    (ws.getD (ws.length - 1) 0) (ws.getD (ws.length - 2) 0)
    (fun f _ => ⟨_, by rw [Fibre.setLast, pairOf_lo, pairOf_hi]⟩) (fun _ => rfl)
  have h3 := h1.trans h2
  have e : LaneWrite.and { regs := ws.zipIdx.map (fun p => (regName fld.file (fld.idx + p.2), p.1)) }
      { last := some (ws.getD (ws.length - 1) 0, ws.getD (ws.length - 2) 0) } = runWrite fld ws [] := by
    simp [LaneWrite.and, runWrite]
  rw [e] at h3
  exact h3

/-- Elements rounded in order: the state moves by one draw each, the codes and flags are those of the words drawn. -/
theorem convertAll_spec (s0 : State) (l : Lane) (key : Nat) (mode : RMode) (g : Word → FVal → Nat × FFlags) (vs : List FVal) :
    ∀ (s : State) (k : Nat), (∀ c, s.coreAt c = coreDrawn s0 key k c) →
      let word := fun j => if mode = .sr then times xorshift (k + j) (s0.coreAt key).srng else 0
      Wrote s (s.convertAll key mode g vs).1 l key (drawsOf mode vs.length) { } ∧
      (s.convertAll key mode g vs).2.1 = vs.zipIdx.map (fun p => (g (word (p.2 + 1)) p.1).1) ∧
      (s.convertAll key mode g vs).2.2 = (vs.zipIdx.map (fun p => (g (word (p.2 + 1)) p.1).2)).foldr (· ||| ·) 0 := by
  induction vs with
  | nil =>
    intro s k _
    refine ⟨?_, rfl, rfl⟩
    have : drawsOf mode ([] : List FVal).length = 0 := by simp [drawsOf]
    rw [this]; exact Wrote.refl s l key
  | cons v r ih =>
    intro s k hc
    have hw := draw_word s0 s key k mode hc
    have hd := draw_wrote s l key mode
    by_cases hm : mode = .sr
    · subst hm
      simp only [if_true] at hw
      have hc' : ∀ c, (s.draw key .sr).2.coreAt c = coreDrawn s0 key (k + 1) c := by
        intro c
        rw [hd.cores c, coreDrawn, hc c, coreDrawn, coreDrawn]
        by_cases e : c = key <;> simp [e, times_add, drawsOf]
      obtain ⟨i1, i2, i3⟩ := ih (s.draw key .sr).2 (k + 1) hc'
      simp only [if_true] at i2 i3
      refine ⟨?_, ?_, ?_⟩
      · have := hd.trans i1
        have e : drawsOf .sr 1 + drawsOf .sr r.length = drawsOf .sr (v :: r).length := by simp [drawsOf, Nat.add_comm]
        rw [e] at this
        exact this
      · simp only [State.convertAll, i2, hw, if_true, List.zipIdx_cons, List.map_cons, Nat.zero_add, List.cons.injEq, true_and]
        rw [List.zipIdx_succ, List.map_map]
        apply List.map_congr_left
        intro p _
        simp [Nat.add_comm, Nat.add_left_comm]
      · simp only [State.convertAll, i3, hw, if_true, List.zipIdx_cons, List.map_cons, List.foldr_cons, Nat.zero_add]
        rw [List.zipIdx_succ, List.map_map]
        congr 2
        apply List.map_congr_left
        intro p _
        simp [Nat.add_comm, Nat.add_left_comm]
    · have hs : s.draw key mode = (0, s) := by simp [State.draw, hm]
      obtain ⟨i1, i2, i3⟩ := ih s k hc
      simp only [hm, if_false] at i2 i3
      refine ⟨?_, ?_, ?_⟩
      · simp only [State.convertAll, hs]
        have e : drawsOf mode (v :: r).length = drawsOf mode r.length := by simp [drawsOf, hm]
        rw [e]; exact i1
      · simp only [State.convertAll, hs, i2, hm, if_false, List.zipIdx_cons, List.map_cons, List.cons.injEq, true_and]
        rw [List.zipIdx_succ, List.map_map]; rfl
      · simp only [State.convertAll, hs, i3, hm, if_false, List.zipIdx_cons, List.map_cons, List.foldr_cons]
        rw [List.zipIdx_succ, List.map_map]; rfl

end Sys2Proof.Machine
end

