-- ==== Sys2Proof/Laws/Decode.lean ====
section
/-! SUPPORT. The fields of a slot and of each modifier layout read back as they were encoded (R111, R118 to R121), and the other way round
where the layout's reserved bits and codes are not used; then what this gives a whole instruction of each layout. -/

set_option linter.unusedSimpArgs false

namespace Sys2Proof.Machine

theorem extract_eq {n k : Nat} (x : BitVec n) (a : Nat) (y : BitVec k) (h : ∀ i, i < k → x.getLsbD (a + i) = y.getLsbD i) :
    x.extractLsb' a k = y := by
  apply BitVec.eq_of_getLsbD_eq
  intro i hi
  rw [BitVec.getLsbD_extractLsb', h i hi]
  simp [hi]
theorem append_at {n k : Nat} (x : BitVec n) (y : BitVec k) (a b i : Nat) (h : a ≤ i) (hb : a + k = b) :
    (x ++ y).getLsbD (i - a) = if i < b then y.getLsbD (i - a) else x.getLsbD (i - b) := by
  subst hb
  rw [BitVec.getLsbD_append]
  split_ifs <;> first | rfl | omega | (congr 1; omega)
theorem append_from {n k : Nat} (x : BitVec n) (y : BitVec k) (i : Nat) :
    (x ++ y).getLsbD i = if i < k then y.getLsbD i else x.getLsbD (i - k) := BitVec.getLsbD_append ..
theorem extract_at {n : Nat} (x : BitVec n) (a k i : Nat) (h1 : a ≤ i) (h2 : i - a < k) : (x.extractLsb' a k).getLsbD (i - a) = x.getLsbD i := by
  rw [BitVec.getLsbD_extractLsb', decide_eq_true h2, Bool.true_and, Nat.add_sub_cancel' h1]
theorem zero_bits {n : Nat} (x : BitVec n) (a k : Nat) (h : (x.extractLsb' a k).toNat = 0) (i : Nat) (h1 : a ≤ i) (h2 : i - a < k) :
    x.getLsbD i = (0#k).getLsbD (i - a) := by
  rw [← extract_at x a k i h1 h2, show x.extractLsb' a k = 0#k from BitVec.eq_of_toNat_eq (by simpa using h)]
theorem lowestBad_eq_none (l : List ModCheck) : lowestBad l = none ↔ ∀ c ∈ l, c.2 = false := by
  induction l with
  | nil => simp [lowestBad]
  | cons c r ih =>
    obtain ⟨b, bad⟩ := c
    rw [lowestBad]
    cases hr : lowestBad r with
    | none =>
      simp only [List.mem_cons, forall_eq_or_imp]
      cases bad
      · exact ⟨fun _ => ⟨rfl, ih.mp hr⟩, fun _ => rfl⟩
      · simp
    | some d =>
      have : ¬ ∀ c ∈ r, c.2 = false := fun h => by simp [ih.mpr h] at hr
      simp only [List.mem_cons, forall_eq_or_imp]
      constructor
      · intro h; split at h <;> cases h
      · intro h; exact absurd h.2 this

theorem slotOf_bits (o : BitVec 10) (h : Head) (m : BitVec 37) (i : Nat) : (Sys2Proof.slotOf o h m).getLsbD i =
    if i < 37 then m.getLsbD i
    else if i < 47 then h.sc.getLsbD (i - 37)
    else if i < 57 then h.sb.getLsbD (i - 47)
    else if i < 67 then h.sa.getLsbD (i - 57)
    else if i < 77 then h.dst.getLsbD (i - 67)
    else if i < 78 then (flag h.gi).getLsbD (i - 77)
    else if i < 82 then h.gp.getLsbD (i - 78)
    else if i < 86 then h.stall.getLsbD (i - 82)
    else o.getLsbD (i - 86) := by
  unfold Sys2Proof.slotOf
  refine (append_from _ _ i).trans ?_
  split
  · rfl
  refine (append_at _ _ 37 47 i (by omega) rfl).trans ?_
  split
  · rfl
  refine (append_at _ _ 47 57 i (by omega) rfl).trans ?_
  split
  · rfl
  refine (append_at _ _ 57 67 i (by omega) rfl).trans ?_
  split
  · rfl
  refine (append_at _ _ 67 77 i (by omega) rfl).trans ?_
  split
  · rfl
  refine (append_at _ _ 77 78 i (by omega) rfl).trans ?_
  split
  · rfl
  refine (append_at _ _ 78 82 i (by omega) rfl).trans ?_
  split
  · rfl
  refine (append_at _ _ 82 86 i (by omega) rfl).trans ?_
  split
  · rfl
  rfl

theorem slotOf_mod (o : BitVec 10) (h : Head) (m : BitVec 37) : (Sys2Proof.slotOf o h m).extractLsb' 0 37 = m := by
  refine extract_eq _ _ _ (fun i hi => ?_)
  rw [slotOf_bits, if_pos (by omega)]
  congr 1; omega
theorem slotOf_sc (o : BitVec 10) (h : Head) (m : BitVec 37) : (Sys2Proof.slotOf o h m).extractLsb' 37 10 = h.sc := by
  refine extract_eq _ _ _ (fun i hi => ?_)
  rw [slotOf_bits, if_neg (by omega), if_pos (by omega)]
  congr 1; omega
theorem slotOf_sb (o : BitVec 10) (h : Head) (m : BitVec 37) : (Sys2Proof.slotOf o h m).extractLsb' 47 10 = h.sb := by
  refine extract_eq _ _ _ (fun i hi => ?_)
  rw [slotOf_bits, if_neg (by omega), if_neg (by omega), if_pos (by omega)]
  congr 1; omega
theorem slotOf_sa (o : BitVec 10) (h : Head) (m : BitVec 37) : (Sys2Proof.slotOf o h m).extractLsb' 57 10 = h.sa := by
  refine extract_eq _ _ _ (fun i hi => ?_)
  rw [slotOf_bits]; (repeat rw [if_neg (by omega)])
  rw [if_pos (by omega)]
  congr 1; omega
theorem slotOf_dst (o : BitVec 10) (h : Head) (m : BitVec 37) : (Sys2Proof.slotOf o h m).extractLsb' 67 10 = h.dst := by
  refine extract_eq _ _ _ (fun i hi => ?_)
  rw [slotOf_bits]; (repeat rw [if_neg (by omega)])
  rw [if_pos (by omega)]
  congr 1; omega
theorem slotOf_gi (o : BitVec 10) (h : Head) (m : BitVec 37) : (Sys2Proof.slotOf o h m).getLsbD 77 = h.gi := by
  rw [slotOf_bits]; simp [flag]
theorem slotOf_gp (o : BitVec 10) (h : Head) (m : BitVec 37) : (Sys2Proof.slotOf o h m).extractLsb' 78 4 = h.gp := by
  refine extract_eq _ _ _ (fun i hi => ?_)
  rw [slotOf_bits]; (repeat rw [if_neg (by omega)])
  rw [if_pos (by omega)]
  congr 1; omega
theorem slotOf_stall (o : BitVec 10) (h : Head) (m : BitVec 37) : (Sys2Proof.slotOf o h m).extractLsb' 82 4 = h.stall := by
  refine extract_eq _ _ _ (fun i hi => ?_)
  rw [slotOf_bits]; (repeat rw [if_neg (by omega)])
  rw [if_pos (by omega)]
  congr 1; omega
theorem slotOf_opc (o : BitVec 10) (h : Head) (m : BitVec 37) : (Sys2Proof.slotOf o h m).extractLsb' 86 10 = o := by
  refine extract_eq _ _ _ (fun i hi => ?_)
  rw [slotOf_bits]; (repeat rw [if_neg (by omega)])
  congr 1; omega
theorem readHead_slotOf (o : BitVec 10) (h : Head) (m : BitVec 37) : readHead (Sys2Proof.slotOf o h m) = h := by
  simp only [readHead, slotOf_sc, slotOf_sb, slotOf_sa, slotOf_dst, slotOf_gp, slotOf_stall, slotOf_gi]
theorem readMod_slotOf (o : BitVec 10) (h : Head) (m : BitVec 37) : readMod (Sys2Proof.slotOf o h m) = m := slotOf_mod o h m
theorem opcodeOf_slotOf (o : BitVec 10) (h : Head) (m : BitVec 37) : opcodeOf (Sys2Proof.slotOf o h m) = o.toNat := by
  rw [opcodeOf, slotOf_opc]
/-- A slot is its opcode, its common fields and MOD (R111). -/
theorem slotOf_read (w : BitVec 96) : Sys2Proof.slotOf (w.extractLsb' 86 10) (readHead w) (readMod w) = w := by
  apply BitVec.eq_of_getLsbD_eq
  intro i hi
  rw [slotOf_bits]
  have e : ∀ a n, i - a < n → a ≤ i → (w.extractLsb' a n).getLsbD (i - a) = w.getLsbD i := by
    intro a n h1 h2
    rw [BitVec.getLsbD_extractLsb', decide_eq_true h1, Bool.true_and, Nat.add_sub_cancel' h2]
  have e0 : i < 37 → (w.extractLsb' 0 37).getLsbD i = w.getLsbD i := fun h => e 0 37 h (Nat.zero_le _)
  simp only [readHead, readMod]
  split_ifs
  · exact e0 ‹_›
  any_goals exact e _ _ (by omega) (by omega)
  rw [show i = 77 by omega]; simp [flag]

@[simp] theorem itypeOf_code (x : IType) : Sys2Proof.itypeOf (Sys2Proof.itypeCode x) = x := by cases x <;> rfl
theorem itypeCode_of (b : BitVec 3) : Sys2Proof.itypeCode (Sys2Proof.itypeOf b) = b := by revert b; decide
@[simp] theorem ftypeOf_code (x : FType) : Sys2Proof.ftypeOf (Sys2Proof.ftypeCode x) = x := by cases x <;> rfl
theorem ftypeCode_of (b : BitVec 3) (h : b.toNat ≤ 2) : Sys2Proof.ftypeCode (Sys2Proof.ftypeOf b) = b := by revert b; decide
theorem ftypeCode_le (x : FType) : (Sys2Proof.ftypeCode x).toNat ≤ 2 := by cases x <;> decide
@[simp] theorem condOf_code (x : Cond) : Sys2Proof.condOf (Sys2Proof.condCode x) = x := by cases x <;> rfl
theorem condCode_of (b : BitVec 3) (h : b.toNat ≤ 5) : Sys2Proof.condCode (Sys2Proof.condOf b) = b := by revert b; decide
theorem condCode_le (x : Cond) : (Sys2Proof.condCode x).toNat ≤ 5 := by cases x <;> decide
@[simp] theorem ctypeOf_code (x : CType) : Sys2Proof.ctypeOf (Sys2Proof.ctypeCode x) = x := by cases x <;> rfl
theorem ctypeCode_of (b : BitVec 2) : Sys2Proof.ctypeCode (Sys2Proof.ctypeOf b) = b := by revert b; decide
@[simp] theorem fcondOf_code (x : FCond) : Sys2Proof.fcondOf (Sys2Proof.fcondCode x) = x := by cases x <;> rfl
theorem fcondCode_of (b : BitVec 4) (h : b.toNat ≤ 7) : Sys2Proof.fcondCode (Sys2Proof.fcondOf b) = b := by revert b; decide
theorem fcondCode_le (x : FCond) : (Sys2Proof.fcondCode x).toNat ≤ 7 := by cases x <;> decide
@[simp] theorem rndOf_code (x : Rnd) : Sys2Proof.rndOf (Sys2Proof.rndCode x) = x := by cases x <;> rfl
theorem rndCode_of (b : BitVec 3) (h : b.toNat ≤ 6) : Sys2Proof.rndCode (Sys2Proof.rndOf b) = b := by revert b; decide
theorem rndCode_le (x : Rnd) : (Sys2Proof.rndCode x).toNat ≤ 6 := by cases x <;> decide
@[simp] theorem ordOf_code (x : Ord) : Sys2Proof.ordOf (Sys2Proof.ordCode x) = x := by cases x <;> rfl
theorem ordCode_of (b : BitVec 2) : Sys2Proof.ordCode (Sys2Proof.ordOf b) = b := by revert b; decide
@[simp] theorem evictOf_code (x : Evict) : Sys2Proof.evictOf (Sys2Proof.evictCode x) = x := by cases x <;> rfl
theorem evictCode_of (b : BitVec 3) (h : b.toNat ≤ 6) : Sys2Proof.evictCode (Sys2Proof.evictOf b) = b := by revert b; decide
theorem evictCode_le (x : Evict) : (Sys2Proof.evictCode x).toNat ≤ 6 := by cases x <;> decide
@[simp] theorem sizeOf_code (x : Size) : Sys2Proof.sizeOf (Sys2Proof.sizeCode x) = x := by cases x <;> rfl
theorem sizeCode_of (b : BitVec 3) (h : b.toNat ≤ 4) : Sys2Proof.sizeCode (Sys2Proof.sizeOf b) = b := by revert b; decide
theorem sizeCode_le (x : Size) : (Sys2Proof.sizeCode x).toNat ≤ 4 := by cases x <;> decide
@[simp] theorem aopOf_code (x : Aop) : Sys2Proof.aopOf (Sys2Proof.aopCode x) = x := by cases x <;> rfl
theorem aopCode_of (b : BitVec 4) (h : b.toNat ≤ 12) : Sys2Proof.aopCode (Sys2Proof.aopOf b) = b := by revert b; decide
theorem aopCode_le (x : Aop) : (Sys2Proof.aopCode x).toNat ≤ 12 := by cases x <;> decide

theorem intBits_bits (m : IntMod) (i : Nat) : (intBits m).getLsbD i =
    if i < 3 then (Sys2Proof.itypeCode m.ty).getLsbD i
    else if i < 4 then (flag m.sat).getLsbD (i - 3)
    else if i < 7 then (Sys2Proof.condCode m.cond).getLsbD (i - 4)
    else if i < 8 then (0#1).getLsbD (i - 7)
    else if i < 12 then m.pred.getLsbD (i - 8)
    else if i < 13 then (flag m.pinv).getLsbD (i - 12)
    else (0#24).getLsbD (i - 13) := by
  unfold intBits
  refine (append_from _ _ i).trans ?_
  split
  · rfl
  refine (append_at _ _ 3 4 i (by omega) rfl).trans ?_
  split
  · rfl
  refine (append_at _ _ 4 7 i (by omega) rfl).trans ?_
  split
  · rfl
  refine (append_at _ _ 7 8 i (by omega) rfl).trans ?_
  split
  · rfl
  refine (append_at _ _ 8 12 i (by omega) rfl).trans ?_
  split
  · rfl
  refine (append_at _ _ 12 13 i (by omega) rfl).trans ?_
  split
  · rfl
  rfl
theorem intBits_ty (m : IntMod) : (intBits m).extractLsb' 0 3 = (Sys2Proof.itypeCode m.ty) := by
  refine extract_eq _ _ _ (fun i hi => ?_)
  rw [intBits_bits, if_pos (by omega)]
  congr 1; omega
theorem intBits_sat (m : IntMod) : (intBits m).getLsbD 3 = m.sat := by
  rw [intBits_bits, if_neg (by omega), if_pos (by omega)]; simp [flag]
theorem intBits_cond (m : IntMod) : (intBits m).extractLsb' 4 3 = (Sys2Proof.condCode m.cond) := by
  refine extract_eq _ _ _ (fun i hi => ?_)
  rw [intBits_bits, if_neg (by omega), if_neg (by omega), if_pos (by omega)]
  congr 1; omega
theorem intBits_zero7 (m : IntMod) : (intBits m).extractLsb' 7 1 = 0#1 := by
  refine extract_eq _ _ _ (fun i hi => ?_)
  rw [intBits_bits]; (repeat rw [if_neg (by omega)])
  rw [if_pos (by omega)]; simp
theorem intBits_pred (m : IntMod) : (intBits m).extractLsb' 8 4 = m.pred := by
  refine extract_eq _ _ _ (fun i hi => ?_)
  rw [intBits_bits]; (repeat rw [if_neg (by omega)])
  rw [if_pos (by omega)]
  congr 1; omega
theorem intBits_pinv (m : IntMod) : (intBits m).getLsbD 12 = m.pinv := by
  rw [intBits_bits]; (repeat rw [if_neg (by omega)])
  rw [if_pos (by omega)]; simp [flag]
theorem intBits_zero13 (m : IntMod) : (intBits m).extractLsb' 13 24 = 0#24 := by
  refine extract_eq _ _ _ (fun i hi => ?_)
  rw [intBits_bits]; (repeat rw [if_neg (by omega)]); simp
/-- The layout read back (R118). -/
theorem readInt_intBits (m : IntMod) : readInt (intBits m) = m := by
  simp only [readInt, intBits_ty, intBits_sat, intBits_cond, intBits_pred, intBits_pinv, condOf_code, itypeOf_code]
theorem intBits_bit7 (m : IntMod) : (intBits m)[7] = false := by
  rw [← BitVec.getLsbD_eq_getElem, intBits_bits, if_neg (by omega), if_neg (by omega), if_neg (by omega), if_pos (by omega)]; rfl
/-- No reserved bit and no reserved code is set in it (R84, R118 to R121). -/
theorem intBits_raw (m : IntMod) : ∀ c ∈ rawChecks .int (intBits m), c.2 = false := by
  simp [rawChecks, exceeds, someBits, intBits_cond, intBits_bit7, intBits_zero13, condCode_le]
/-- A MOD field without reserved bits and codes is what its layout reads (R118). -/
theorem intBits_readInt (m : BitVec 37) (h : ∀ c ∈ rawChecks .int m, c.2 = false) : intBits (readInt m) = m := by
  apply BitVec.eq_of_getLsbD_eq
  intro i hi
  rw [intBits_bits]
  simp only [rawChecks, exceeds, someBits, List.mem_cons, List.not_mem_nil, or_false, forall_eq_or_imp, forall_eq, decide_eq_false_iff_not, bne_eq_false_iff_eq, Nat.not_lt] at h
  obtain ⟨h4, h7, h13⟩ := h
  simp only [readInt, itypeCode_of, condCode_of _ h4]
  by_cases c0 : i < 3
  · rw [if_pos c0]
    exact (extract_at m 0 3 i (Nat.zero_le i) (by omega))
  rw [if_neg c0]
  by_cases c3 : i < 4
  · rw [if_pos c3]
    rw [show i = 3 by omega]; simp [flag]
  rw [if_neg c3]
  by_cases c4 : i < 7
  · rw [if_pos c4]
    exact extract_at m 4 3 i (by omega) (by omega)
  rw [if_neg c4]
  by_cases c7 : i < 8
  · rw [if_pos c7]
    rw [show i = 7 by omega, h7]; rfl
  rw [if_neg c7]
  by_cases c8 : i < 12
  · rw [if_pos c8]
    exact extract_at m 8 4 i (by omega) (by omega)
  rw [if_neg c8]
  by_cases c12 : i < 13
  · rw [if_pos c12]
    rw [show i = 12 by omega]; simp [flag]
  rw [if_neg c12]
  exact (zero_bits m 13 24 h13 i (by omega) (by omega)).symm

theorem immBits_bits (m : ImmMod) (i : Nat) : (immBits m).getLsbD i =
    if i < 32 then m.imm.getLsbD i
    else if i < 35 then (Sys2Proof.itypeCode m.ty).getLsbD (i - 32)
    else if i < 36 then (flag m.sat).getLsbD (i - 35)
    else (0#1).getLsbD (i - 36) := by
  unfold immBits
  refine (append_from _ _ i).trans ?_
  split
  · rfl
  refine (append_at _ _ 32 35 i (by omega) rfl).trans ?_
  split
  · rfl
  refine (append_at _ _ 35 36 i (by omega) rfl).trans ?_
  split
  · rfl
  rfl
theorem immBits_imm (m : ImmMod) : (immBits m).extractLsb' 0 32 = m.imm := by
  refine extract_eq _ _ _ (fun i hi => ?_)
  rw [immBits_bits, if_pos (by omega)]
  congr 1; omega
theorem immBits_ty (m : ImmMod) : (immBits m).extractLsb' 32 3 = (Sys2Proof.itypeCode m.ty) := by
  refine extract_eq _ _ _ (fun i hi => ?_)
  rw [immBits_bits, if_neg (by omega), if_pos (by omega)]
  congr 1; omega
theorem immBits_sat (m : ImmMod) : (immBits m).getLsbD 35 = m.sat := by
  rw [immBits_bits, if_neg (by omega), if_neg (by omega), if_pos (by omega)]; simp [flag]
theorem immBits_zero36 (m : ImmMod) : (immBits m).extractLsb' 36 1 = 0#1 := by
  refine extract_eq _ _ _ (fun i hi => ?_)
  rw [immBits_bits]; (repeat rw [if_neg (by omega)]); simp
/-- The layout read back (R118). -/
theorem readImm_immBits (m : ImmMod) : readImm (immBits m) = m := by
  simp only [readImm, immBits_imm, immBits_ty, immBits_sat, itypeOf_code]
theorem immBits_bit36 (m : ImmMod) : (immBits m)[36] = false := by
  rw [← BitVec.getLsbD_eq_getElem, immBits_bits, if_neg (by omega), if_neg (by omega), if_neg (by omega)]; rfl
/-- No reserved bit and no reserved code is set in it (R84, R118 to R121). -/
theorem immBits_raw (m : ImmMod) : ∀ c ∈ rawChecks .imm (immBits m), c.2 = false := by
  simp [rawChecks, exceeds, someBits, immBits_bit36]
/-- A MOD field without reserved bits and codes is what its layout reads (R118). -/
theorem immBits_readImm (m : BitVec 37) (h : ∀ c ∈ rawChecks .imm m, c.2 = false) : immBits (readImm m) = m := by
  apply BitVec.eq_of_getLsbD_eq
  intro i hi
  rw [immBits_bits]
  simp only [rawChecks, exceeds, someBits, List.mem_cons, List.not_mem_nil, or_false, forall_eq_or_imp, forall_eq, decide_eq_false_iff_not, bne_eq_false_iff_eq, Nat.not_lt] at h
  have h36 := h
  simp only [readImm, itypeCode_of]
  by_cases c0 : i < 32
  · rw [if_pos c0]
    exact (extract_at m 0 32 i (Nat.zero_le i) (by omega))
  rw [if_neg c0]
  by_cases c32 : i < 35
  · rw [if_pos c32]
    exact extract_at m 32 3 i (by omega) (by omega)
  rw [if_neg c32]
  by_cases c35 : i < 36
  · rw [if_pos c35]
    rw [show i = 35 by omega]; simp [flag]
  rw [if_neg c35]
  rw [show i = 36 by omega, h36]; rfl

theorem cmpImmBits_bits (m : CmpImmMod) (i : Nat) : (cmpImmBits m).getLsbD i =
    if i < 32 then m.imm.getLsbD i
    else if i < 34 then (Sys2Proof.ctypeCode m.ty).getLsbD (i - 32)
    else (Sys2Proof.condCode m.cond).getLsbD (i - 34) := by
  unfold cmpImmBits
  refine (append_from _ _ i).trans ?_
  split
  · rfl
  refine (append_at _ _ 32 34 i (by omega) rfl).trans ?_
  split
  · rfl
  rfl
theorem cmpImmBits_imm (m : CmpImmMod) : (cmpImmBits m).extractLsb' 0 32 = m.imm := by
  refine extract_eq _ _ _ (fun i hi => ?_)
  rw [cmpImmBits_bits, if_pos (by omega)]
  congr 1; omega
theorem cmpImmBits_ty (m : CmpImmMod) : (cmpImmBits m).extractLsb' 32 2 = (Sys2Proof.ctypeCode m.ty) := by
  refine extract_eq _ _ _ (fun i hi => ?_)
  rw [cmpImmBits_bits, if_neg (by omega), if_pos (by omega)]
  congr 1; omega
theorem cmpImmBits_cond (m : CmpImmMod) : (cmpImmBits m).extractLsb' 34 3 = (Sys2Proof.condCode m.cond) := by
  refine extract_eq _ _ _ (fun i hi => ?_)
  rw [cmpImmBits_bits, if_neg (by omega), if_neg (by omega)]
  congr 1; omega
/-- The layout read back (R118). -/
theorem readCmpImm_cmpImmBits (m : CmpImmMod) : readCmpImm (cmpImmBits m) = m := by
  simp only [readCmpImm, cmpImmBits_imm, cmpImmBits_ty, cmpImmBits_cond, condOf_code, ctypeOf_code]
/-- No reserved bit and no reserved code is set in it (R84, R118 to R121). -/
theorem cmpImmBits_raw (m : CmpImmMod) : ∀ c ∈ rawChecks .cmpImm (cmpImmBits m), c.2 = false := by
  simp [rawChecks, exceeds, someBits, cmpImmBits_cond, condCode_le]
/-- A MOD field without reserved bits and codes is what its layout reads (R118). -/
theorem cmpImmBits_readCmpImm (m : BitVec 37) (h : ∀ c ∈ rawChecks .cmpImm m, c.2 = false) : cmpImmBits (readCmpImm m) = m := by
  apply BitVec.eq_of_getLsbD_eq
  intro i hi
  rw [cmpImmBits_bits]
  simp only [rawChecks, exceeds, someBits, List.mem_cons, List.not_mem_nil, or_false, forall_eq_or_imp, forall_eq, decide_eq_false_iff_not, bne_eq_false_iff_eq, Nat.not_lt] at h
  have h34 := h
  simp only [readCmpImm, ctypeCode_of, condCode_of _ h34]
  by_cases c0 : i < 32
  · rw [if_pos c0]
    exact (extract_at m 0 32 i (Nat.zero_le i) (by omega))
  rw [if_neg c0]
  by_cases c32 : i < 34
  · rw [if_pos c32]
    exact extract_at m 32 2 i (by omega) (by omega)
  rw [if_neg c32]
  exact extract_at m 34 3 i (by omega) (by omega)

theorem specialBits_bits (m : SpecialMod) (i : Nat) : (specialBits m).getLsbD i =
    if i < 8 then m.sreg.getLsbD i
    else (0#29).getLsbD (i - 8) := by
  unfold specialBits
  refine (append_from _ _ i).trans ?_
  split
  · rfl
  rfl
theorem specialBits_sreg (m : SpecialMod) : (specialBits m).extractLsb' 0 8 = m.sreg := by
  refine extract_eq _ _ _ (fun i hi => ?_)
  rw [specialBits_bits, if_pos (by omega)]
  congr 1; omega
theorem specialBits_zero8 (m : SpecialMod) : (specialBits m).extractLsb' 8 29 = 0#29 := by
  refine extract_eq _ _ _ (fun i hi => ?_)
  rw [specialBits_bits, if_neg (by omega)]; simp
/-- The layout read back (R118). -/
theorem readSpecial_specialBits (m : SpecialMod) : readSpecial (specialBits m) = m := by
  simp only [readSpecial, specialBits_sreg]
/-- No reserved bit and no reserved code is set in it (R84, R118 to R121). -/
theorem specialBits_raw (m : SpecialMod) : ∀ c ∈ rawChecks .special (specialBits m), c.2 = false := by
  simp [rawChecks, exceeds, someBits, specialBits_zero8]
/-- A MOD field without reserved bits and codes is what its layout reads (R118). -/
theorem specialBits_readSpecial (m : BitVec 37) (h : ∀ c ∈ rawChecks .special m, c.2 = false) : specialBits (readSpecial m) = m := by
  apply BitVec.eq_of_getLsbD_eq
  intro i hi
  rw [specialBits_bits]
  simp only [rawChecks, exceeds, someBits, List.mem_cons, List.not_mem_nil, or_false, forall_eq_or_imp, forall_eq, decide_eq_false_iff_not, bne_eq_false_iff_eq, Nat.not_lt] at h
  have h8 := h
  simp only [readSpecial]
  by_cases c0 : i < 8
  · rw [if_pos c0]
    exact (extract_at m 0 8 i (Nat.zero_le i) (by omega))
  rw [if_neg c0]
  exact (zero_bits m 8 29 h8 i (by omega) (by omega)).symm

theorem floatBits_bits (m : FloatMod) (i : Nat) : (floatBits m).getLsbD i =
    if i < 3 then (Sys2Proof.ftypeCode m.ty).getLsbD i
    else if i < 6 then (Sys2Proof.rndCode m.rnd).getLsbD (i - 3)
    else if i < 7 then (flag m.ftz).getLsbD (i - 6)
    else if i < 11 then (Sys2Proof.fcondCode m.fcond).getLsbD (i - 7)
    else (0#26).getLsbD (i - 11) := by
  unfold floatBits
  refine (append_from _ _ i).trans ?_
  split
  · rfl
  refine (append_at _ _ 3 6 i (by omega) rfl).trans ?_
  split
  · rfl
  refine (append_at _ _ 6 7 i (by omega) rfl).trans ?_
  split
  · rfl
  refine (append_at _ _ 7 11 i (by omega) rfl).trans ?_
  split
  · rfl
  rfl
theorem floatBits_ty (m : FloatMod) : (floatBits m).extractLsb' 0 3 = (Sys2Proof.ftypeCode m.ty) := by
  refine extract_eq _ _ _ (fun i hi => ?_)
  rw [floatBits_bits, if_pos (by omega)]
  congr 1; omega
theorem floatBits_rnd (m : FloatMod) : (floatBits m).extractLsb' 3 3 = (Sys2Proof.rndCode m.rnd) := by
  refine extract_eq _ _ _ (fun i hi => ?_)
  rw [floatBits_bits, if_neg (by omega), if_pos (by omega)]
  congr 1; omega
theorem floatBits_ftz (m : FloatMod) : (floatBits m).getLsbD 6 = m.ftz := by
  rw [floatBits_bits, if_neg (by omega), if_neg (by omega), if_pos (by omega)]; simp [flag]
theorem floatBits_fcond (m : FloatMod) : (floatBits m).extractLsb' 7 4 = (Sys2Proof.fcondCode m.fcond) := by
  refine extract_eq _ _ _ (fun i hi => ?_)
  rw [floatBits_bits]; (repeat rw [if_neg (by omega)])
  rw [if_pos (by omega)]
  congr 1; omega
theorem floatBits_zero11 (m : FloatMod) : (floatBits m).extractLsb' 11 26 = 0#26 := by
  refine extract_eq _ _ _ (fun i hi => ?_)
  rw [floatBits_bits]; (repeat rw [if_neg (by omega)]); simp
/-- The layout read back (R118). -/
theorem readFloat_floatBits (m : FloatMod) : readFloat (floatBits m) = m := by
  simp only [readFloat, floatBits_ty, floatBits_rnd, floatBits_ftz, floatBits_fcond, fcondOf_code, ftypeOf_code, rndOf_code]
/-- No reserved bit and no reserved code is set in it (R84, R118 to R121). -/
theorem floatBits_raw (m : FloatMod) : ∀ c ∈ rawChecks .float (floatBits m), c.2 = false := by
  simp [rawChecks, exceeds, someBits, floatBits_ty, floatBits_rnd, floatBits_fcond, floatBits_zero11, ftypeCode_le, rndCode_le, fcondCode_le]
/-- A MOD field without reserved bits and codes is what its layout reads (R118). -/
theorem floatBits_readFloat (m : BitVec 37) (h : ∀ c ∈ rawChecks .float m, c.2 = false) : floatBits (readFloat m) = m := by
  apply BitVec.eq_of_getLsbD_eq
  intro i hi
  rw [floatBits_bits]
  simp only [rawChecks, exceeds, someBits, List.mem_cons, List.not_mem_nil, or_false, forall_eq_or_imp, forall_eq, decide_eq_false_iff_not, bne_eq_false_iff_eq, Nat.not_lt] at h
  obtain ⟨h0, h3, h7, h11⟩ := h
  simp only [readFloat, ftypeCode_of _ h0, rndCode_of _ h3, fcondCode_of _ h7]
  by_cases c0 : i < 3
  · rw [if_pos c0]
    exact (extract_at m 0 3 i (Nat.zero_le i) (by omega))
  rw [if_neg c0]
  by_cases c3 : i < 6
  · rw [if_pos c3]
    exact extract_at m 3 3 i (by omega) (by omega)
  rw [if_neg c3]
  by_cases c6 : i < 7
  · rw [if_pos c6]
    rw [show i = 6 by omega]; simp [flag]
  rw [if_neg c6]
  by_cases c7 : i < 11
  · rw [if_pos c7]
    exact extract_at m 7 4 i (by omega) (by omega)
  rw [if_neg c7]
  exact (zero_bits m 11 26 h11 i (by omega) (by omega)).symm

theorem floatImmBits_bits (m : FloatImmMod) (i : Nat) : (floatImmBits m).getLsbD i =
    if i < 32 then m.imm.getLsbD i
    else if i < 35 then (Sys2Proof.rndCode m.rnd).getLsbD (i - 32)
    else if i < 36 then (flag m.ftz).getLsbD (i - 35)
    else (0#1).getLsbD (i - 36) := by
  unfold floatImmBits
  refine (append_from _ _ i).trans ?_
  split
  · rfl
  refine (append_at _ _ 32 35 i (by omega) rfl).trans ?_
  split
  · rfl
  refine (append_at _ _ 35 36 i (by omega) rfl).trans ?_
  split
  · rfl
  rfl
theorem floatImmBits_imm (m : FloatImmMod) : (floatImmBits m).extractLsb' 0 32 = m.imm := by
  refine extract_eq _ _ _ (fun i hi => ?_)
  rw [floatImmBits_bits, if_pos (by omega)]
  congr 1; omega
theorem floatImmBits_rnd (m : FloatImmMod) : (floatImmBits m).extractLsb' 32 3 = (Sys2Proof.rndCode m.rnd) := by
  refine extract_eq _ _ _ (fun i hi => ?_)
  rw [floatImmBits_bits, if_neg (by omega), if_pos (by omega)]
  congr 1; omega
theorem floatImmBits_ftz (m : FloatImmMod) : (floatImmBits m).getLsbD 35 = m.ftz := by
  rw [floatImmBits_bits, if_neg (by omega), if_neg (by omega), if_pos (by omega)]; simp [flag]
theorem floatImmBits_zero36 (m : FloatImmMod) : (floatImmBits m).extractLsb' 36 1 = 0#1 := by
  refine extract_eq _ _ _ (fun i hi => ?_)
  rw [floatImmBits_bits]; (repeat rw [if_neg (by omega)]); simp
/-- The layout read back (R118). -/
theorem readFloatImm_floatImmBits (m : FloatImmMod) : readFloatImm (floatImmBits m) = m := by
  simp only [readFloatImm, floatImmBits_imm, floatImmBits_rnd, floatImmBits_ftz, rndOf_code]
theorem floatImmBits_bit36 (m : FloatImmMod) : (floatImmBits m)[36] = false := by
  rw [← BitVec.getLsbD_eq_getElem, floatImmBits_bits, if_neg (by omega), if_neg (by omega), if_neg (by omega)]; rfl
/-- No reserved bit and no reserved code is set in it (R84, R118 to R121). -/
theorem floatImmBits_raw (m : FloatImmMod) : ∀ c ∈ rawChecks .floatImm (floatImmBits m), c.2 = false := by
  simp [rawChecks, exceeds, someBits, floatImmBits_rnd, floatImmBits_bit36, rndCode_le]
/-- A MOD field without reserved bits and codes is what its layout reads (R118). -/
theorem floatImmBits_readFloatImm (m : BitVec 37) (h : ∀ c ∈ rawChecks .floatImm m, c.2 = false) : floatImmBits (readFloatImm m) = m := by
  apply BitVec.eq_of_getLsbD_eq
  intro i hi
  rw [floatImmBits_bits]
  simp only [rawChecks, exceeds, someBits, List.mem_cons, List.not_mem_nil, or_false, forall_eq_or_imp, forall_eq, decide_eq_false_iff_not, bne_eq_false_iff_eq, Nat.not_lt] at h
  obtain ⟨h32, h36⟩ := h
  simp only [readFloatImm, rndCode_of _ h32]
  by_cases c0 : i < 32
  · rw [if_pos c0]
    exact (extract_at m 0 32 i (Nat.zero_le i) (by omega))
  rw [if_neg c0]
  by_cases c32 : i < 35
  · rw [if_pos c32]
    exact extract_at m 32 3 i (by omega) (by omega)
  rw [if_neg c32]
  by_cases c35 : i < 36
  · rw [if_pos c35]
    rw [show i = 35 by omega]; simp [flag]
  rw [if_neg c35]
  rw [show i = 36 by omega, h36]; rfl

theorem convBits_bits (m : ConvMod) (i : Nat) : (convBits m).getLsbD i =
    if i < 6 then m.dfmt.getLsbD i
    else if i < 12 then m.sfmt.getLsbD (i - 6)
    else if i < 15 then (Sys2Proof.rndCode m.rnd).getLsbD (i - 12)
    else if i < 16 then (flag m.sat).getLsbD (i - 15)
    else if i < 17 then (flag m.ftz).getLsbD (i - 16)
    else if i < 19 then m.cti.getLsbD (i - 17)
    else if i < 20 then (flag m.dint).getLsbD (i - 19)
    else if i < 23 then (Sys2Proof.itypeCode m.dity).getLsbD (i - 20)
    else if i < 24 then (flag m.sint).getLsbD (i - 23)
    else if i < 27 then (Sys2Proof.itypeCode m.sity).getLsbD (i - 24)
    else (0#10).getLsbD (i - 27) := by
  unfold convBits
  refine (append_from _ _ i).trans ?_
  split
  · rfl
  refine (append_at _ _ 6 12 i (by omega) rfl).trans ?_
  split
  · rfl
  refine (append_at _ _ 12 15 i (by omega) rfl).trans ?_
  split
  · rfl
  refine (append_at _ _ 15 16 i (by omega) rfl).trans ?_
  split
  · rfl
  refine (append_at _ _ 16 17 i (by omega) rfl).trans ?_
  split
  · rfl
  refine (append_at _ _ 17 19 i (by omega) rfl).trans ?_
  split
  · rfl
  refine (append_at _ _ 19 20 i (by omega) rfl).trans ?_
  split
  · rfl
  refine (append_at _ _ 20 23 i (by omega) rfl).trans ?_
  split
  · rfl
  refine (append_at _ _ 23 24 i (by omega) rfl).trans ?_
  split
  · rfl
  refine (append_at _ _ 24 27 i (by omega) rfl).trans ?_
  split
  · rfl
  rfl
theorem convBits_dfmt (m : ConvMod) : (convBits m).extractLsb' 0 6 = m.dfmt := by
  refine extract_eq _ _ _ (fun i hi => ?_)
  rw [convBits_bits, if_pos (by omega)]
  congr 1; omega
theorem convBits_sfmt (m : ConvMod) : (convBits m).extractLsb' 6 6 = m.sfmt := by
  refine extract_eq _ _ _ (fun i hi => ?_)
  rw [convBits_bits, if_neg (by omega), if_pos (by omega)]
  congr 1; omega
theorem convBits_rnd (m : ConvMod) : (convBits m).extractLsb' 12 3 = (Sys2Proof.rndCode m.rnd) := by
  refine extract_eq _ _ _ (fun i hi => ?_)
  rw [convBits_bits, if_neg (by omega), if_neg (by omega), if_pos (by omega)]
  congr 1; omega
theorem convBits_sat (m : ConvMod) : (convBits m).getLsbD 15 = m.sat := by
  rw [convBits_bits]; (repeat rw [if_neg (by omega)])
  rw [if_pos (by omega)]; simp [flag]
theorem convBits_ftz (m : ConvMod) : (convBits m).getLsbD 16 = m.ftz := by
  rw [convBits_bits]; (repeat rw [if_neg (by omega)])
  rw [if_pos (by omega)]; simp [flag]
theorem convBits_cti (m : ConvMod) : (convBits m).extractLsb' 17 2 = m.cti := by
  refine extract_eq _ _ _ (fun i hi => ?_)
  rw [convBits_bits]; (repeat rw [if_neg (by omega)])
  rw [if_pos (by omega)]
  congr 1; omega
theorem convBits_dint (m : ConvMod) : (convBits m).getLsbD 19 = m.dint := by
  rw [convBits_bits]; (repeat rw [if_neg (by omega)])
  rw [if_pos (by omega)]; simp [flag]
theorem convBits_dity (m : ConvMod) : (convBits m).extractLsb' 20 3 = (Sys2Proof.itypeCode m.dity) := by
  refine extract_eq _ _ _ (fun i hi => ?_)
  rw [convBits_bits]; (repeat rw [if_neg (by omega)])
  rw [if_pos (by omega)]
  congr 1; omega
theorem convBits_sint (m : ConvMod) : (convBits m).getLsbD 23 = m.sint := by
  rw [convBits_bits]; (repeat rw [if_neg (by omega)])
  rw [if_pos (by omega)]; simp [flag]
theorem convBits_sity (m : ConvMod) : (convBits m).extractLsb' 24 3 = (Sys2Proof.itypeCode m.sity) := by
  refine extract_eq _ _ _ (fun i hi => ?_)
  rw [convBits_bits]; (repeat rw [if_neg (by omega)])
  rw [if_pos (by omega)]
  congr 1; omega
theorem convBits_zero27 (m : ConvMod) : (convBits m).extractLsb' 27 10 = 0#10 := by
  refine extract_eq _ _ _ (fun i hi => ?_)
  rw [convBits_bits]; (repeat rw [if_neg (by omega)]); simp
/-- The layout read back (R118). -/
theorem readConv_convBits (m : ConvMod) : readConv (convBits m) = m := by
  simp only [readConv, convBits_dfmt, convBits_sfmt, convBits_rnd, convBits_sat, convBits_ftz, convBits_cti, convBits_dint, convBits_dity, convBits_sint, convBits_sity, itypeOf_code, rndOf_code]
/-- No reserved bit and no reserved code is set in it (R84, R118 to R121). -/
theorem convBits_raw (m : ConvMod) : ∀ c ∈ rawChecks .conv (convBits m), c.2 = false := by
  simp [rawChecks, exceeds, someBits, convBits_rnd, convBits_zero27, rndCode_le]
/-- A MOD field without reserved bits and codes is what its layout reads (R118). -/
theorem convBits_readConv (m : BitVec 37) (h : ∀ c ∈ rawChecks .conv m, c.2 = false) : convBits (readConv m) = m := by
  apply BitVec.eq_of_getLsbD_eq
  intro i hi
  rw [convBits_bits]
  simp only [rawChecks, exceeds, someBits, List.mem_cons, List.not_mem_nil, or_false, forall_eq_or_imp, forall_eq, decide_eq_false_iff_not, bne_eq_false_iff_eq, Nat.not_lt] at h
  obtain ⟨h12, h27⟩ := h
  simp only [readConv, rndCode_of _ h12, itypeCode_of, itypeCode_of]
  by_cases c0 : i < 6
  · rw [if_pos c0]
    exact (extract_at m 0 6 i (Nat.zero_le i) (by omega))
  rw [if_neg c0]
  by_cases c6 : i < 12
  · rw [if_pos c6]
    exact extract_at m 6 6 i (by omega) (by omega)
  rw [if_neg c6]
  by_cases c12 : i < 15
  · rw [if_pos c12]
    exact extract_at m 12 3 i (by omega) (by omega)
  rw [if_neg c12]
  by_cases c15 : i < 16
  · rw [if_pos c15]
    rw [show i = 15 by omega]; simp [flag]
  rw [if_neg c15]
  by_cases c16 : i < 17
  · rw [if_pos c16]
    rw [show i = 16 by omega]; simp [flag]
  rw [if_neg c16]
  by_cases c17 : i < 19
  · rw [if_pos c17]
    exact extract_at m 17 2 i (by omega) (by omega)
  rw [if_neg c17]
  by_cases c19 : i < 20
  · rw [if_pos c19]
    rw [show i = 19 by omega]; simp [flag]
  rw [if_neg c19]
  by_cases c20 : i < 23
  · rw [if_pos c20]
    exact extract_at m 20 3 i (by omega) (by omega)
  rw [if_neg c20]
  by_cases c23 : i < 24
  · rw [if_pos c23]
    rw [show i = 23 by omega]; simp [flag]
  rw [if_neg c23]
  by_cases c24 : i < 27
  · rw [if_pos c24]
    exact extract_at m 24 3 i (by omega) (by omega)
  rw [if_neg c24]
  exact (zero_bits m 27 10 h27 i (by omega) (by omega)).symm

theorem globalBits_bits (m : GlobalMod) (i : Nat) : (globalBits m).getLsbD i =
    if i < 2 then (Sys2Proof.ordCode m.ord).getLsbD i
    else if i < 5 then m.scope.getLsbD (i - 2)
    else if i < 8 then (Sys2Proof.evictCode m.evict).getLsbD (i - 5)
    else if i < 11 then (Sys2Proof.sizeCode m.size).getLsbD (i - 8)
    else if i < 12 then (flag m.sx).getLsbD (i - 11)
    else if i < 13 then (0#1).getLsbD (i - 12)
    else m.off.getLsbD (i - 13) := by
  unfold globalBits
  refine (append_from _ _ i).trans ?_
  split
  · rfl
  refine (append_at _ _ 2 5 i (by omega) rfl).trans ?_
  split
  · rfl
  refine (append_at _ _ 5 8 i (by omega) rfl).trans ?_
  split
  · rfl
  refine (append_at _ _ 8 11 i (by omega) rfl).trans ?_
  split
  · rfl
  refine (append_at _ _ 11 12 i (by omega) rfl).trans ?_
  split
  · rfl
  refine (append_at _ _ 12 13 i (by omega) rfl).trans ?_
  split
  · rfl
  rfl
theorem globalBits_ord (m : GlobalMod) : (globalBits m).extractLsb' 0 2 = (Sys2Proof.ordCode m.ord) := by
  refine extract_eq _ _ _ (fun i hi => ?_)
  rw [globalBits_bits, if_pos (by omega)]
  congr 1; omega
theorem globalBits_scope (m : GlobalMod) : (globalBits m).extractLsb' 2 3 = m.scope := by
  refine extract_eq _ _ _ (fun i hi => ?_)
  rw [globalBits_bits, if_neg (by omega), if_pos (by omega)]
  congr 1; omega
theorem globalBits_evict (m : GlobalMod) : (globalBits m).extractLsb' 5 3 = (Sys2Proof.evictCode m.evict) := by
  refine extract_eq _ _ _ (fun i hi => ?_)
  rw [globalBits_bits, if_neg (by omega), if_neg (by omega), if_pos (by omega)]
  congr 1; omega
theorem globalBits_size (m : GlobalMod) : (globalBits m).extractLsb' 8 3 = (Sys2Proof.sizeCode m.size) := by
  refine extract_eq _ _ _ (fun i hi => ?_)
  rw [globalBits_bits]; (repeat rw [if_neg (by omega)])
  rw [if_pos (by omega)]
  congr 1; omega
theorem globalBits_sx (m : GlobalMod) : (globalBits m).getLsbD 11 = m.sx := by
  rw [globalBits_bits]; (repeat rw [if_neg (by omega)])
  rw [if_pos (by omega)]; simp [flag]
theorem globalBits_zero12 (m : GlobalMod) : (globalBits m).extractLsb' 12 1 = 0#1 := by
  refine extract_eq _ _ _ (fun i hi => ?_)
  rw [globalBits_bits]; (repeat rw [if_neg (by omega)])
  rw [if_pos (by omega)]; simp
theorem globalBits_off (m : GlobalMod) : (globalBits m).extractLsb' 13 24 = m.off := by
  refine extract_eq _ _ _ (fun i hi => ?_)
  rw [globalBits_bits]; (repeat rw [if_neg (by omega)])
  congr 1; omega
/-- The layout read back (R118). -/
theorem readGlobal_globalBits (m : GlobalMod) : readGlobal (globalBits m) = m := by
  simp only [readGlobal, globalBits_ord, globalBits_scope, globalBits_evict, globalBits_size, globalBits_sx, globalBits_off, evictOf_code, ordOf_code, sizeOf_code]
theorem globalBits_bit12 (m : GlobalMod) : (globalBits m)[12] = false := by
  rw [← BitVec.getLsbD_eq_getElem, globalBits_bits, if_neg (by omega), if_neg (by omega), if_neg (by omega), if_neg (by omega), if_neg (by omega), if_pos (by omega)]; rfl
/-- No reserved bit and no reserved code is set in it (R84, R118 to R121). -/
theorem globalBits_raw (m : GlobalMod) : ∀ c ∈ rawChecks .global (globalBits m), c.2 = false := by
  simp [rawChecks, exceeds, someBits, globalBits_evict, globalBits_size, globalBits_bit12, evictCode_le, sizeCode_le]
/-- A MOD field without reserved bits and codes is what its layout reads (R118). -/
theorem globalBits_readGlobal (m : BitVec 37) (h : ∀ c ∈ rawChecks .global m, c.2 = false) : globalBits (readGlobal m) = m := by
  apply BitVec.eq_of_getLsbD_eq
  intro i hi
  rw [globalBits_bits]
  simp only [rawChecks, exceeds, someBits, List.mem_cons, List.not_mem_nil, or_false, forall_eq_or_imp, forall_eq, decide_eq_false_iff_not, bne_eq_false_iff_eq, Nat.not_lt] at h
  obtain ⟨h5, h8, h12⟩ := h
  simp only [readGlobal, ordCode_of, evictCode_of _ h5, sizeCode_of _ h8]
  by_cases c0 : i < 2
  · rw [if_pos c0]
    exact (extract_at m 0 2 i (Nat.zero_le i) (by omega))
  rw [if_neg c0]
  by_cases c2 : i < 5
  · rw [if_pos c2]
    exact extract_at m 2 3 i (by omega) (by omega)
  rw [if_neg c2]
  by_cases c5 : i < 8
  · rw [if_pos c5]
    exact extract_at m 5 3 i (by omega) (by omega)
  rw [if_neg c5]
  by_cases c8 : i < 11
  · rw [if_pos c8]
    exact extract_at m 8 3 i (by omega) (by omega)
  rw [if_neg c8]
  by_cases c11 : i < 12
  · rw [if_pos c11]
    rw [show i = 11 by omega]; simp [flag]
  rw [if_neg c11]
  by_cases c12 : i < 13
  · rw [if_pos c12]
    rw [show i = 12 by omega, h12]; rfl
  rw [if_neg c12]
  exact extract_at m 13 24 i (by omega) (by omega)

theorem scratchBits_bits (m : ScratchMod) (i : Nat) : (scratchBits m).getLsbD i =
    if i < 8 then (0#8).getLsbD i
    else if i < 11 then (Sys2Proof.sizeCode m.size).getLsbD (i - 8)
    else if i < 12 then (flag m.sx).getLsbD (i - 11)
    else if i < 14 then m.cidx.getLsbD (i - 12)
    else m.off.getLsbD (i - 14) := by
  unfold scratchBits
  refine (append_from _ _ i).trans ?_
  split
  · rfl
  refine (append_at _ _ 8 11 i (by omega) rfl).trans ?_
  split
  · rfl
  refine (append_at _ _ 11 12 i (by omega) rfl).trans ?_
  split
  · rfl
  refine (append_at _ _ 12 14 i (by omega) rfl).trans ?_
  split
  · rfl
  rfl
theorem scratchBits_zero0 (m : ScratchMod) : (scratchBits m).extractLsb' 0 8 = 0#8 := by
  refine extract_eq _ _ _ (fun i hi => ?_)
  rw [scratchBits_bits, if_pos (by omega)]; simp
theorem scratchBits_size (m : ScratchMod) : (scratchBits m).extractLsb' 8 3 = (Sys2Proof.sizeCode m.size) := by
  refine extract_eq _ _ _ (fun i hi => ?_)
  rw [scratchBits_bits, if_neg (by omega), if_pos (by omega)]
  congr 1; omega
theorem scratchBits_sx (m : ScratchMod) : (scratchBits m).getLsbD 11 = m.sx := by
  rw [scratchBits_bits, if_neg (by omega), if_neg (by omega), if_pos (by omega)]; simp [flag]
theorem scratchBits_cidx (m : ScratchMod) : (scratchBits m).extractLsb' 12 2 = m.cidx := by
  refine extract_eq _ _ _ (fun i hi => ?_)
  rw [scratchBits_bits]; (repeat rw [if_neg (by omega)])
  rw [if_pos (by omega)]
  congr 1; omega
theorem scratchBits_off (m : ScratchMod) : (scratchBits m).extractLsb' 14 23 = m.off := by
  refine extract_eq _ _ _ (fun i hi => ?_)
  rw [scratchBits_bits]; (repeat rw [if_neg (by omega)])
  congr 1; omega
/-- The layout read back (R118). -/
theorem readScratch_scratchBits (m : ScratchMod) : readScratch (scratchBits m) = m := by
  simp only [readScratch, scratchBits_size, scratchBits_sx, scratchBits_cidx, scratchBits_off, sizeOf_code]
/-- No reserved bit and no reserved code is set in it (R84, R118 to R121). -/
theorem scratchBits_raw (m : ScratchMod) : ∀ c ∈ rawChecks .scratch (scratchBits m), c.2 = false := by
  simp [rawChecks, exceeds, someBits, scratchBits_size, scratchBits_zero0, sizeCode_le]
/-- A MOD field without reserved bits and codes is what its layout reads (R118). -/
theorem scratchBits_readScratch (m : BitVec 37) (h : ∀ c ∈ rawChecks .scratch m, c.2 = false) : scratchBits (readScratch m) = m := by
  apply BitVec.eq_of_getLsbD_eq
  intro i hi
  rw [scratchBits_bits]
  simp only [rawChecks, exceeds, someBits, List.mem_cons, List.not_mem_nil, or_false, forall_eq_or_imp, forall_eq, decide_eq_false_iff_not, bne_eq_false_iff_eq, Nat.not_lt] at h
  obtain ⟨h0, h8⟩ := h
  simp only [readScratch, sizeCode_of _ h8]
  by_cases c0 : i < 8
  · rw [if_pos c0]
    exact (zero_bits m 0 8 h0 i (by omega) (by omega)).symm
  rw [if_neg c0]
  by_cases c8 : i < 11
  · rw [if_pos c8]
    exact extract_at m 8 3 i (by omega) (by omega)
  rw [if_neg c8]
  by_cases c11 : i < 12
  · rw [if_pos c11]
    rw [show i = 11 by omega]; simp [flag]
  rw [if_neg c11]
  by_cases c12 : i < 14
  · rw [if_pos c12]
    exact extract_at m 12 2 i (by omega) (by omega)
  rw [if_neg c12]
  exact extract_at m 14 23 i (by omega) (by omega)

theorem atomicBits_bits (m : AtomicMod) (i : Nat) : (atomicBits m).getLsbD i =
    if i < 2 then (Sys2Proof.ordCode m.ord).getLsbD i
    else if i < 5 then m.scope.getLsbD (i - 2)
    else if i < 8 then (Sys2Proof.evictCode m.evict).getLsbD (i - 5)
    else if i < 11 then (Sys2Proof.sizeCode m.size).getLsbD (i - 8)
    else if i < 12 then (flag m.sgn).getLsbD (i - 11)
    else if i < 16 then (Sys2Proof.aopCode m.aop).getLsbD (i - 12)
    else m.off.getLsbD (i - 16) := by
  unfold atomicBits
  refine (append_from _ _ i).trans ?_
  split
  · rfl
  refine (append_at _ _ 2 5 i (by omega) rfl).trans ?_
  split
  · rfl
  refine (append_at _ _ 5 8 i (by omega) rfl).trans ?_
  split
  · rfl
  refine (append_at _ _ 8 11 i (by omega) rfl).trans ?_
  split
  · rfl
  refine (append_at _ _ 11 12 i (by omega) rfl).trans ?_
  split
  · rfl
  refine (append_at _ _ 12 16 i (by omega) rfl).trans ?_
  split
  · rfl
  rfl
theorem atomicBits_ord (m : AtomicMod) : (atomicBits m).extractLsb' 0 2 = (Sys2Proof.ordCode m.ord) := by
  refine extract_eq _ _ _ (fun i hi => ?_)
  rw [atomicBits_bits, if_pos (by omega)]
  congr 1; omega
theorem atomicBits_scope (m : AtomicMod) : (atomicBits m).extractLsb' 2 3 = m.scope := by
  refine extract_eq _ _ _ (fun i hi => ?_)
  rw [atomicBits_bits, if_neg (by omega), if_pos (by omega)]
  congr 1; omega
theorem atomicBits_evict (m : AtomicMod) : (atomicBits m).extractLsb' 5 3 = (Sys2Proof.evictCode m.evict) := by
  refine extract_eq _ _ _ (fun i hi => ?_)
  rw [atomicBits_bits, if_neg (by omega), if_neg (by omega), if_pos (by omega)]
  congr 1; omega
theorem atomicBits_size (m : AtomicMod) : (atomicBits m).extractLsb' 8 3 = (Sys2Proof.sizeCode m.size) := by
  refine extract_eq _ _ _ (fun i hi => ?_)
  rw [atomicBits_bits]; (repeat rw [if_neg (by omega)])
  rw [if_pos (by omega)]
  congr 1; omega
theorem atomicBits_sgn (m : AtomicMod) : (atomicBits m).getLsbD 11 = m.sgn := by
  rw [atomicBits_bits]; (repeat rw [if_neg (by omega)])
  rw [if_pos (by omega)]; simp [flag]
theorem atomicBits_aop (m : AtomicMod) : (atomicBits m).extractLsb' 12 4 = (Sys2Proof.aopCode m.aop) := by
  refine extract_eq _ _ _ (fun i hi => ?_)
  rw [atomicBits_bits]; (repeat rw [if_neg (by omega)])
  rw [if_pos (by omega)]
  congr 1; omega
theorem atomicBits_off (m : AtomicMod) : (atomicBits m).extractLsb' 16 21 = m.off := by
  refine extract_eq _ _ _ (fun i hi => ?_)
  rw [atomicBits_bits]; (repeat rw [if_neg (by omega)])
  congr 1; omega
/-- The layout read back (R118). -/
theorem readAtomic_atomicBits (m : AtomicMod) : readAtomic (atomicBits m) = m := by
  simp only [readAtomic, atomicBits_ord, atomicBits_scope, atomicBits_evict, atomicBits_size, atomicBits_sgn, atomicBits_aop, atomicBits_off, aopOf_code, evictOf_code, ordOf_code, sizeOf_code]
/-- No reserved bit and no reserved code is set in it (R84, R118 to R121). -/
theorem atomicBits_raw (m : AtomicMod) : ∀ c ∈ rawChecks .atomic (atomicBits m), c.2 = false := by
  simp [rawChecks, exceeds, someBits, atomicBits_evict, atomicBits_size, atomicBits_aop, evictCode_le, sizeCode_le, aopCode_le]
/-- A MOD field without reserved bits and codes is what its layout reads (R118). -/
theorem atomicBits_readAtomic (m : BitVec 37) (h : ∀ c ∈ rawChecks .atomic m, c.2 = false) : atomicBits (readAtomic m) = m := by
  apply BitVec.eq_of_getLsbD_eq
  intro i hi
  rw [atomicBits_bits]
  simp only [rawChecks, exceeds, someBits, List.mem_cons, List.not_mem_nil, or_false, forall_eq_or_imp, forall_eq, decide_eq_false_iff_not, bne_eq_false_iff_eq, Nat.not_lt] at h
  obtain ⟨h5, h8, h12⟩ := h
  simp only [readAtomic, ordCode_of, evictCode_of _ h5, sizeCode_of _ h8, aopCode_of _ h12]
  by_cases c0 : i < 2
  · rw [if_pos c0]
    exact (extract_at m 0 2 i (Nat.zero_le i) (by omega))
  rw [if_neg c0]
  by_cases c2 : i < 5
  · rw [if_pos c2]
    exact extract_at m 2 3 i (by omega) (by omega)
  rw [if_neg c2]
  by_cases c5 : i < 8
  · rw [if_pos c5]
    exact extract_at m 5 3 i (by omega) (by omega)
  rw [if_neg c5]
  by_cases c8 : i < 11
  · rw [if_pos c8]
    exact extract_at m 8 3 i (by omega) (by omega)
  rw [if_neg c8]
  by_cases c11 : i < 12
  · rw [if_pos c11]
    rw [show i = 11 by omega]; simp [flag]
  rw [if_neg c11]
  by_cases c12 : i < 16
  · rw [if_pos c12]
    exact extract_at m 12 4 i (by omega) (by omega)
  rw [if_neg c12]
  exact extract_at m 16 21 i (by omega) (by omega)

theorem engineBits_bits (m : EngineMod) (i : Nat) : (engineBits m).getLsbD i =
    if i < 2 then (Sys2Proof.ordCode m.ord).getLsbD i
    else if i < 5 then m.scope.getLsbD (i - 2)
    else if i < 8 then (Sys2Proof.evictCode m.evict).getLsbD (i - 5)
    else if i < 16 then m.arg8.getLsbD (i - 8)
    else (0#21).getLsbD (i - 16) := by
  unfold engineBits
  refine (append_from _ _ i).trans ?_
  split
  · rfl
  refine (append_at _ _ 2 5 i (by omega) rfl).trans ?_
  split
  · rfl
  refine (append_at _ _ 5 8 i (by omega) rfl).trans ?_
  split
  · rfl
  refine (append_at _ _ 8 16 i (by omega) rfl).trans ?_
  split
  · rfl
  rfl
theorem engineBits_ord (m : EngineMod) : (engineBits m).extractLsb' 0 2 = (Sys2Proof.ordCode m.ord) := by
  refine extract_eq _ _ _ (fun i hi => ?_)
  rw [engineBits_bits, if_pos (by omega)]
  congr 1; omega
theorem engineBits_scope (m : EngineMod) : (engineBits m).extractLsb' 2 3 = m.scope := by
  refine extract_eq _ _ _ (fun i hi => ?_)
  rw [engineBits_bits, if_neg (by omega), if_pos (by omega)]
  congr 1; omega
theorem engineBits_evict (m : EngineMod) : (engineBits m).extractLsb' 5 3 = (Sys2Proof.evictCode m.evict) := by
  refine extract_eq _ _ _ (fun i hi => ?_)
  rw [engineBits_bits, if_neg (by omega), if_neg (by omega), if_pos (by omega)]
  congr 1; omega
theorem engineBits_arg8 (m : EngineMod) : (engineBits m).extractLsb' 8 8 = m.arg8 := by
  refine extract_eq _ _ _ (fun i hi => ?_)
  rw [engineBits_bits]; (repeat rw [if_neg (by omega)])
  rw [if_pos (by omega)]
  congr 1; omega
theorem engineBits_zero16 (m : EngineMod) : (engineBits m).extractLsb' 16 21 = 0#21 := by
  refine extract_eq _ _ _ (fun i hi => ?_)
  rw [engineBits_bits]; (repeat rw [if_neg (by omega)]); simp
/-- The layout read back (R118). -/
theorem readEngine_engineBits (m : EngineMod) : readEngine (engineBits m) = m := by
  simp only [readEngine, engineBits_ord, engineBits_scope, engineBits_evict, engineBits_arg8, evictOf_code, ordOf_code]
/-- No reserved bit and no reserved code is set in it (R84, R118 to R121). -/
theorem engineBits_raw (m : EngineMod) : ∀ c ∈ rawChecks .engine (engineBits m), c.2 = false := by
  simp [rawChecks, exceeds, someBits, engineBits_evict, engineBits_zero16, evictCode_le]
/-- A MOD field without reserved bits and codes is what its layout reads (R118). -/
theorem engineBits_readEngine (m : BitVec 37) (h : ∀ c ∈ rawChecks .engine m, c.2 = false) : engineBits (readEngine m) = m := by
  apply BitVec.eq_of_getLsbD_eq
  intro i hi
  rw [engineBits_bits]
  simp only [rawChecks, exceeds, someBits, List.mem_cons, List.not_mem_nil, or_false, forall_eq_or_imp, forall_eq, decide_eq_false_iff_not, bne_eq_false_iff_eq, Nat.not_lt] at h
  obtain ⟨h5, h16⟩ := h
  simp only [readEngine, ordCode_of, evictCode_of _ h5]
  by_cases c0 : i < 2
  · rw [if_pos c0]
    exact (extract_at m 0 2 i (Nat.zero_le i) (by omega))
  rw [if_neg c0]
  by_cases c2 : i < 5
  · rw [if_pos c2]
    exact extract_at m 2 3 i (by omega) (by omega)
  rw [if_neg c2]
  by_cases c5 : i < 8
  · rw [if_pos c5]
    exact extract_at m 5 3 i (by omega) (by omega)
  rw [if_neg c5]
  by_cases c8 : i < 16
  · rw [if_pos c8]
    exact extract_at m 8 8 i (by omega) (by omega)
  rw [if_neg c8]
  exact (zero_bits m 16 21 h16 i (by omega) (by omega)).symm

theorem branchBits_bits (m : BranchMod) (i : Nat) : (branchBits m).getLsbD i =
    if i < 3 then m.tslot.getLsbD i
    else if i < 32 then m.ldisp.getLsbD (i - 3)
    else (0#5).getLsbD (i - 32) := by
  unfold branchBits
  refine (append_from _ _ i).trans ?_
  split
  · rfl
  refine (append_at _ _ 3 32 i (by omega) rfl).trans ?_
  split
  · rfl
  rfl
theorem branchBits_tslot (m : BranchMod) : (branchBits m).extractLsb' 0 3 = m.tslot := by
  refine extract_eq _ _ _ (fun i hi => ?_)
  rw [branchBits_bits, if_pos (by omega)]
  congr 1; omega
theorem branchBits_ldisp (m : BranchMod) : (branchBits m).extractLsb' 3 29 = m.ldisp := by
  refine extract_eq _ _ _ (fun i hi => ?_)
  rw [branchBits_bits, if_neg (by omega), if_pos (by omega)]
  congr 1; omega
theorem branchBits_zero32 (m : BranchMod) : (branchBits m).extractLsb' 32 5 = 0#5 := by
  refine extract_eq _ _ _ (fun i hi => ?_)
  rw [branchBits_bits, if_neg (by omega), if_neg (by omega)]; simp
/-- The layout read back (R118). -/
theorem readBranch_branchBits (m : BranchMod) : readBranch (branchBits m) = m := by
  simp only [readBranch, branchBits_tslot, branchBits_ldisp]
/-- No reserved bit and no reserved code is set in it (R84, R118 to R121). -/
theorem branchBits_raw (m : BranchMod) : ∀ c ∈ rawChecks .branch (branchBits m), c.2 = false := by
  simp [rawChecks, exceeds, someBits, branchBits_zero32]
/-- A MOD field without reserved bits and codes is what its layout reads (R118). -/
theorem branchBits_readBranch (m : BitVec 37) (h : ∀ c ∈ rawChecks .branch m, c.2 = false) : branchBits (readBranch m) = m := by
  apply BitVec.eq_of_getLsbD_eq
  intro i hi
  rw [branchBits_bits]
  simp only [rawChecks, exceeds, someBits, List.mem_cons, List.not_mem_nil, or_false, forall_eq_or_imp, forall_eq, decide_eq_false_iff_not, bne_eq_false_iff_eq, Nat.not_lt] at h
  have h32 := h
  simp only [readBranch]
  by_cases c0 : i < 3
  · rw [if_pos c0]
    exact (extract_at m 0 3 i (Nat.zero_le i) (by omega))
  rw [if_neg c0]
  by_cases c3 : i < 32
  · rw [if_pos c3]
    exact extract_at m 3 29 i (by omega) (by omega)
  rw [if_neg c3]
  exact (zero_bits m 32 5 h32 i (by omega) (by omega)).symm

theorem syncBits_bits (m : SyncMod) (i : Nat) : (syncBits m).getLsbD i =
    if i < 4 then m.subop.getLsbD i
    else if i < 8 then m.optype.getLsbD (i - 4)
    else if i < 12 then m.pred.getLsbD (i - 8)
    else if i < 13 then (flag m.pinv).getLsbD (i - 12)
    else m.imm24.getLsbD (i - 13) := by
  unfold syncBits
  refine (append_from _ _ i).trans ?_
  split
  · rfl
  refine (append_at _ _ 4 8 i (by omega) rfl).trans ?_
  split
  · rfl
  refine (append_at _ _ 8 12 i (by omega) rfl).trans ?_
  split
  · rfl
  refine (append_at _ _ 12 13 i (by omega) rfl).trans ?_
  split
  · rfl
  rfl
theorem syncBits_subop (m : SyncMod) : (syncBits m).extractLsb' 0 4 = m.subop := by
  refine extract_eq _ _ _ (fun i hi => ?_)
  rw [syncBits_bits, if_pos (by omega)]
  congr 1; omega
theorem syncBits_optype (m : SyncMod) : (syncBits m).extractLsb' 4 4 = m.optype := by
  refine extract_eq _ _ _ (fun i hi => ?_)
  rw [syncBits_bits, if_neg (by omega), if_pos (by omega)]
  congr 1; omega
theorem syncBits_pred (m : SyncMod) : (syncBits m).extractLsb' 8 4 = m.pred := by
  refine extract_eq _ _ _ (fun i hi => ?_)
  rw [syncBits_bits, if_neg (by omega), if_neg (by omega), if_pos (by omega)]
  congr 1; omega
theorem syncBits_pinv (m : SyncMod) : (syncBits m).getLsbD 12 = m.pinv := by
  rw [syncBits_bits]; (repeat rw [if_neg (by omega)])
  rw [if_pos (by omega)]; simp [flag]
theorem syncBits_imm24 (m : SyncMod) : (syncBits m).extractLsb' 13 24 = m.imm24 := by
  refine extract_eq _ _ _ (fun i hi => ?_)
  rw [syncBits_bits]; (repeat rw [if_neg (by omega)])
  congr 1; omega
/-- The layout read back (R118). -/
theorem readSync_syncBits (m : SyncMod) : readSync (syncBits m) = m := by
  simp only [readSync, syncBits_subop, syncBits_optype, syncBits_pred, syncBits_pinv, syncBits_imm24]
theorem syncBits_raw (m : SyncMod) : ∀ c ∈ rawChecks .sync (syncBits m), c.2 = false := by simp [rawChecks]
/-- A MOD field without reserved bits and codes is what its layout reads (R118). -/
theorem syncBits_readSync (m : BitVec 37) (_h : ∀ c ∈ rawChecks .sync m, c.2 = false) : syncBits (readSync m) = m := by
  apply BitVec.eq_of_getLsbD_eq
  intro i hi
  rw [syncBits_bits]
  simp only [readSync]
  by_cases c0 : i < 4
  · rw [if_pos c0]
    exact (extract_at m 0 4 i (Nat.zero_le i) (by omega))
  rw [if_neg c0]
  by_cases c4 : i < 8
  · rw [if_pos c4]
    exact extract_at m 4 4 i (by omega) (by omega)
  rw [if_neg c4]
  by_cases c8 : i < 12
  · rw [if_pos c8]
    exact extract_at m 8 4 i (by omega) (by omega)
  rw [if_neg c8]
  by_cases c12 : i < 13
  · rw [if_pos c12]
    rw [show i = 12 by omega]; simp [flag]
  rw [if_neg c12]
  exact extract_at m 13 24 i (by omega) (by omega)

theorem foldBits_bits (m : FoldMod) (i : Nat) : (foldBits m).getLsbD i =
    if i < 9 then m.live.getLsbD i
    else (0#28).getLsbD (i - 9) := by
  unfold foldBits
  refine (append_from _ _ i).trans ?_
  split
  · rfl
  rfl
theorem foldBits_live (m : FoldMod) : (foldBits m).extractLsb' 0 9 = m.live := by
  refine extract_eq _ _ _ (fun i hi => ?_)
  rw [foldBits_bits, if_pos (by omega)]
  congr 1; omega
theorem foldBits_zero9 (m : FoldMod) : (foldBits m).extractLsb' 9 28 = 0#28 := by
  refine extract_eq _ _ _ (fun i hi => ?_)
  rw [foldBits_bits, if_neg (by omega)]; simp
/-- The layout read back (R118). -/
theorem readFold_foldBits (m : FoldMod) : readFold (foldBits m) = m := by
  simp only [readFold, foldBits_live]
/-- No reserved bit and no reserved code is set in it (R84, R118 to R121). -/
theorem foldBits_raw (m : FoldMod) : ∀ c ∈ rawChecks .fold (foldBits m), c.2 = false := by
  simp [rawChecks, exceeds, someBits, foldBits_zero9]
/-- A MOD field without reserved bits and codes is what its layout reads (R118). -/
theorem foldBits_readFold (m : BitVec 37) (h : ∀ c ∈ rawChecks .fold m, c.2 = false) : foldBits (readFold m) = m := by
  apply BitVec.eq_of_getLsbD_eq
  intro i hi
  rw [foldBits_bits]
  simp only [rawChecks, exceeds, someBits, List.mem_cons, List.not_mem_nil, or_false, forall_eq_or_imp, forall_eq, decide_eq_false_iff_not, bne_eq_false_iff_eq, Nat.not_lt] at h
  have h9 := h
  simp only [readFold]
  by_cases c0 : i < 9
  · rw [if_pos c0]
    exact (extract_at m 0 9 i (Nat.zero_le i) (by omega))
  rw [if_neg c0]
  exact (zero_bits m 9 28 h9 i (by omega) (by omega)).symm

theorem systemBits_bits (m : SystemMod) (i : Nat) : (systemBits m).getLsbD i =
    if i < 8 then m.sreg.getLsbD i
    else if i < 16 then m.code.getLsbD (i - 8)
    else (0#21).getLsbD (i - 16) := by
  unfold systemBits
  refine (append_from _ _ i).trans ?_
  split
  · rfl
  refine (append_at _ _ 8 16 i (by omega) rfl).trans ?_
  split
  · rfl
  rfl
theorem systemBits_sreg (m : SystemMod) : (systemBits m).extractLsb' 0 8 = m.sreg := by
  refine extract_eq _ _ _ (fun i hi => ?_)
  rw [systemBits_bits, if_pos (by omega)]
  congr 1; omega
theorem systemBits_code (m : SystemMod) : (systemBits m).extractLsb' 8 8 = m.code := by
  refine extract_eq _ _ _ (fun i hi => ?_)
  rw [systemBits_bits, if_neg (by omega), if_pos (by omega)]
  congr 1; omega
theorem systemBits_zero16 (m : SystemMod) : (systemBits m).extractLsb' 16 21 = 0#21 := by
  refine extract_eq _ _ _ (fun i hi => ?_)
  rw [systemBits_bits, if_neg (by omega), if_neg (by omega)]; simp
/-- The layout read back (R118). -/
theorem readSystem_systemBits (m : SystemMod) : readSystem (systemBits m) = m := by
  simp only [readSystem, systemBits_sreg, systemBits_code]
/-- No reserved bit and no reserved code is set in it (R84, R118 to R121). -/
theorem systemBits_raw (m : SystemMod) : ∀ c ∈ rawChecks .system (systemBits m), c.2 = false := by
  simp [rawChecks, exceeds, someBits, systemBits_zero16]
/-- A MOD field without reserved bits and codes is what its layout reads (R118). -/
theorem systemBits_readSystem (m : BitVec 37) (h : ∀ c ∈ rawChecks .system m, c.2 = false) : systemBits (readSystem m) = m := by
  apply BitVec.eq_of_getLsbD_eq
  intro i hi
  rw [systemBits_bits]
  simp only [rawChecks, exceeds, someBits, List.mem_cons, List.not_mem_nil, or_false, forall_eq_or_imp, forall_eq, decide_eq_false_iff_not, bne_eq_false_iff_eq, Nat.not_lt] at h
  have h16 := h
  simp only [readSystem]
  by_cases c0 : i < 8
  · rw [if_pos c0]
    exact (extract_at m 0 8 i (Nat.zero_le i) (by omega))
  rw [if_neg c0]
  by_cases c8 : i < 16
  · rw [if_pos c8]
    exact extract_at m 8 8 i (by omega) (by omega)
  rw [if_neg c8]
  exact (zero_bits m 16 21 h16 i (by omega) (by omega)).symm

end Sys2Proof.Machine
end

