-- ==== Sys2Proof/Laws/Integer.lean ====
section
/-! SUPPORT. What the shared operations of the integer group do (R139 to R151): the value each form leaves, the value of an N-bit
pattern, and what narrowing leaves. -/

namespace Sys2Proof.Machine

theorem width_pos (ty : IType) : 0 < width ty := by cases ty <;> decide
theorem width_le (ty : IType) : width ty ≤ 64 := by cases ty <;> decide
theorem minV_le_maxV (ty : IType) : minV ty ≤ maxV ty := by cases ty <;> decide

theorem wrap_lt (n : Nat) (x : Int) : wrap n x < 2 ^ n := by
  unfold wrap
  have h : (0 : Int) < (2 ^ n : Nat) := by exact_mod_cast Nat.two_pow_pos n
  have := Int.emod_lt_of_pos x h
  have h0 := Int.emod_nonneg x (ne_of_gt h)
  omega
theorem wrap_cast (n : Nat) (x : Int) : (wrap n x : Int) = x % (2 ^ n : Nat) := by
  unfold wrap
  exact Int.toNat_of_nonneg (Int.emod_nonneg x (by have := Nat.two_pow_pos n; omega))

/-- An N-bit pattern read as a type: in range, and equal to the pattern modulo 2^N. -/
theorem readAs_spec (ty : IType) (x : Nat) :
    minV ty ≤ readAs ty x ∧ readAs ty x ≤ maxV ty ∧ (2 ^ width ty : Int) ∣ readAs ty x - x := by
  have h0 : x % 2 ^ width ty < 2 ^ width ty := Nat.mod_lt _ (Nat.two_pow_pos _)
  have hd : (2 ^ width ty : Int) ∣ ((x % 2 ^ width ty : Nat) : Int) - x := by
    have := Nat.div_add_mod x (2 ^ width ty)
    refine ⟨-(x / 2 ^ width ty : Nat), ?_⟩
    have e : ((2 ^ width ty : Nat) : Int) = (2 : Int) ^ width ty := by push_cast; rfl
    have : ((2 ^ width ty : Nat) : Int) * (x / 2 ^ width ty : Nat) + (x % 2 ^ width ty : Nat) = x := by exact_mod_cast this
    rw [← e]; rw [Int.mul_neg]; omega
  by_cases hs : signed ty
  · have hw := width_pos ty
    have h2 : 2 ^ width ty = 2 * 2 ^ (width ty - 1) := by rw [← Nat.pow_succ']; congr 1; omega
    have e : ((2 ^ width ty : Nat) : Int) = (2 : Int) ^ width ty := by push_cast; rfl
    simp only [readAs, hs, if_true, toSigned, minV, maxV, if_neg (show ¬ width ty = 0 by omega)]
    split
    · exact ⟨by omega, by omega, hd⟩
    · refine ⟨?_, ?_, ?_⟩
      · rw [← e]; omega
      · rw [← e]; omega
      · have := Int.dvd_sub hd (Int.dvd_refl ((2 : Int) ^ width ty))
        rwa [show ((x % 2 ^ width ty : Nat) : Int) - 2 ^ width ty - x = (x % 2 ^ width ty : Nat) - x - 2 ^ width ty by omega]
  · have : signed ty = false := by simpa using hs
    simp only [readAs, this, minV, maxV, Bool.false_eq_true, if_false]
    exact ⟨by omega, by omega, hd⟩

/-- What narrowing leaves (R141). -/
theorem narrow_spec (ty : IType) (sat : Bool) (x : Int) : Narrowed ty sat x (narrow ty sat x) := by
  have e : ((2 ^ width ty : Nat) : Int) = (2 : Int) ^ width ty := by push_cast; rfl
  obtain ⟨h1, h2, h3⟩ := readAs_spec ty (wrap (width ty) (if sat then clampTo ty x else x))
  refine ⟨h1, h2, ?_⟩
  have hw : (2 ^ width ty : Int) ∣ (wrap (width ty) (if sat then clampTo ty x else x) : Int) - (if sat then clampTo ty x else x) := by
    rw [wrap_cast, e]
    generalize (if sat then clampTo ty x else x) = y
    refine ⟨-(y / 2 ^ width ty), ?_⟩
    have := Int.emod_add_mul_ediv y (2 ^ width ty)
    rw [Int.mul_neg]; omega
  have hd : (2 ^ width ty : Int) ∣ narrow ty sat x - (if sat then clampTo ty x else x) := by
    have := Int.dvd_add h3 hw
    rwa [show ∀ a b c : Int, a - b + (b - c) = a - c by intros; omega] at this
  cases sat with
  | false => simpa using hd
  | true =>
    simp only [if_true] at hd ⊢
    have hm := minV_le_maxV ty
    have hc : clampTo ty x = max (minV ty) (min x (maxV ty)) := by
      unfold clampTo; split
      · omega
      · split <;> omega
    have hc1 : minV ty ≤ clampTo ty x := by rw [hc]; omega
    have hc2 : clampTo ty x ≤ maxV ty := by rw [hc]; omega
    have hspan : maxV ty - minV ty + 1 = 2 ^ width ty := by cases ty <;> decide
    rw [← hc]
    obtain ⟨k, hk⟩ := hd
    have hn1 : minV ty ≤ narrow ty true x := h1
    have hn2 : narrow ty true x ≤ maxV ty := h2
    have : k = 0 := by
      rcases lt_trichotomy k 0 with hk0 | hk0 | hk0
      · have : (2 : Int) ^ width ty * k ≤ 2 ^ width ty * (-1) := Int.mul_le_mul_of_nonneg_left (by omega) (by positivity)
        omega
      · exact hk0
      · have : (2 : Int) ^ width ty * 1 ≤ 2 ^ width ty * k := Int.mul_le_mul_of_nonneg_left (by omega) (by positivity)
        omega
    rw [this] at hk
    omega

/-- The bits of a pattern read as a type. -/
theorem readAs_bits (ty : IType) (x : Nat) : HasBits ty (readAs ty x) (fun i => x.testBit i) := by
  obtain ⟨h1, h2, h3⟩ := readAs_spec ty x
  refine ⟨h1, h2, ?_⟩
  intro i hi
  have e : ((2 ^ width ty : Nat) : Int) = (2 : Int) ^ width ty := by push_cast; rfl
  have : readAs ty x % 2 ^ width ty = ((x % 2 ^ width ty : Nat) : Int) := by
    rw [Int.emod_eq_emod_iff_emod_sub_eq_zero.mpr (Int.emod_eq_zero_of_dvd h3)]
    push_cast; rfl
  rw [this, Int.toNat_natCast, Nat.testBit_mod_two_pow]
  simp [hi]
/-- A value with given bits, by the pattern that has them. -/
theorem hasBits_of_testBit (ty : IType) (x : Nat) (b : Nat → Bool) (h : ∀ i, i < width ty → x.testBit i = b i) :
    HasBits ty (readAs ty x) b := by
  obtain ⟨h1, h2, h3⟩ := readAs_bits ty x
  exact ⟨h1, h2, fun i hi => (h3 i hi).trans (h i hi)⟩

/-- An instruction that writes a result under its type in every guarded lane (R139). -/
theorem writeInt_effect (s : State) (h : Head) (ty : IType) (lat : Option Nat) (v : Lane → Int) (hi : s.Issued) :
    RegisterEffect s (s.runLanes h (fun t l => .done (t.writeInt l h.dst ty (v l) lat))) h 0
      (fun l => s.intWrite l h.dst ty (v l)) :=
  runLanes_effect s h 0 (fun t l => t.writeInt l h.dst ty (v l) lat) (fun _ l => s.intWrite l h.dst ty (v l)) hi
    (fun t l _ _ hp he _ _ _ _ _ => writeInt_wrote s t l _ h.dst ty (v l) lat hp he)
/-- An instruction that writes a 32-bit result in every guarded lane (R21). -/
theorem result32_effect (s : State) (h : Head) (lat : Option Nat) (v : Lane → Word) (hi : s.Issued) :
    RegisterEffect s (s.runLanes h (fun t l => .done (t.result32 l h.dst (v l) lat))) h 0
      (fun l => s.wordWrite l h.dst (v l)) := by
  refine runLanes_effect s h 0 (fun t l => t.result32 l h.dst (v l) lat) (fun _ l => s.wordWrite l h.dst (v l)) hi ?_
  intro t l _ _ hp he _ _ _ _ _
  obtain ⟨f, hf⟩ := Option.isSome_iff_exists.mp hp
  have : (s.fibre l).y0 = f.y0 := by rw [State.fibre_eq s l f (he ▸ hf)]
  rw [State.wordWrite, this]
  exact result32_wrote t l _ h.dst (v l) lat f hf
/-- An instruction that writes a 64-bit result in every guarded lane (R21). -/
theorem result64_effect (s : State) (h : Head) (lat : Option Nat) (v : Lane → Dword) (hi : s.Issued) :
    RegisterEffect s (s.runLanes h (fun t l => .done (t.result64 l h.dst (v l) lat))) h 0 (fun l => pairWrite h.dst (v l)) :=
  runLanes_effect s h 0 (fun t l => t.result64 l h.dst (v l) lat) (fun _ l => pairWrite h.dst (v l)) hi
    (fun t l _ _ _ _ _ _ _ _ _ => result64_wrote t l _ h.dst (v l) lat)
/-- An instruction that writes one predicate in every guarded lane (R143). -/
theorem writePred_effect (s : State) (h : Head) (lat : Option Nat) (v : Lane → Bool) (hi : s.Issued) :
    RegisterEffect s (s.runLanes h (fun t l => .done (t.writePred l h.dst.pred (v l) lat))) h 0
      (fun l => predWrite h.dst.pred (v l)) :=
  runLanes_effect s h 0 (fun t l => t.writePred l h.dst.pred (v l) lat) (fun _ l => predWrite h.dst.pred (v l)) hi
    (fun t l _ _ _ _ _ _ _ _ _ => writePred_wrote t l _ h.dst.pred (v l) lat)
/-- A 32-bit result and a predicate, in every guarded lane (R146). -/
theorem result32Pred_effect (s : State) (h : Head) (lat : Option Nat) (n : Nat) (v : Lane → Word) (p : Lane → Bool) (hi : s.Issued) :
    RegisterEffect s (s.runLanes h (fun t l => .done ((t.result32 l h.dst (v l) lat).writePred l n (p l) lat))) h 0
      (fun l => (s.wordWrite l h.dst (v l)).and (predWrite n (p l))) := by
  refine runLanes_effect s h 0 (fun t l => (t.result32 l h.dst (v l) lat).writePred l n (p l) lat)
    (fun _ l => (s.wordWrite l h.dst (v l)).and (predWrite n (p l))) hi ?_
  intro t l _ _ hp he _ _ _ _ _
  obtain ⟨f, hf⟩ := Option.isSome_iff_exists.mp hp
  have : (s.fibre l).y0 = f.y0 := by rw [State.fibre_eq s l f (he ▸ hf)]
  rw [State.wordWrite, this]
  exact (result32_wrote t l _ h.dst (v l) lat f hf).trans (writePred_wrote _ l _ n (p l) lat)

/-- A register form of the arithmetic group: every guarded lane holds the narrowed value (R141). -/
theorem intReg_spec (s : State) (h : Head) (m : IntMod) (lat : Option Nat) (f : Int → Int → Int → Int) (hi : s.Issued) :
    ∃ (t : State) (v : Lane → Int), intReg h m lat f s = .next t ∧
      RegisterEffect s t h 0 (fun l => s.intWrite l h.dst m.ty (v l)) ∧
      ∀ l ∈ s.guarded h, Narrowed m.ty m.sat
        (f (s.readInt l .sa h.sa m.ty) (s.readInt l .sb h.sb m.ty) (s.readInt l .sc h.sc m.ty)) (v l) :=
  ⟨_, _, rfl, writeInt_effect s h m.ty lat _ hi, fun _ _ => narrow_spec _ _ _⟩
/-- An immediate form of the arithmetic group (R140, R141). -/
theorem intImm_spec (s : State) (h : Head) (m : ImmMod) (lat : Option Nat) (f : Int → Int → Int → Int) (hi : s.Issued) :
    ∃ (t : State) (v : Lane → Int), intImm h m lat f s = .next t ∧
      RegisterEffect s t h 0 (fun l => s.intWrite l h.dst m.ty (v l)) ∧
      ∀ l ∈ s.guarded h, Narrowed m.ty m.sat
        (f (s.readInt l .sa h.sa m.ty) (immAs m.ty m.imm) (s.readInt l .sc h.sc m.ty)) (v l) :=
  ⟨_, _, rfl, writeInt_effect s h m.ty lat _ hi, fun _ _ => narrow_spec _ _ _⟩
/-- A bit-pattern register form whose function has the bits b (R147, R148). -/
theorem bitReg_spec (s : State) (h : Head) (m : IntMod) (f : Nat → Nat → Nat → Nat → Nat) (b : Nat → Nat → Nat → Nat → Bool)
    (hf : ∀ a x c, ∀ i < width m.ty, a < 2 ^ width m.ty → c < 2 ^ width m.ty → (f (width m.ty) a x c).testBit i = b a x c i)
    (hi : s.Issued) :
    ∃ (t : State) (v : Lane → Int), bitReg h m f s = .next t ∧
      RegisterEffect s t h 0 (fun l => s.intWrite l h.dst m.ty (v l)) ∧
      ∀ l ∈ s.guarded h, HasBits m.ty (v l)
        (b (s.pattern l .sa h.sa m.ty) (s.readReg l .sb h.sb).toNat (s.pattern l .sc h.sc m.ty)) := by
  have hlt : ∀ l pos fld, s.pattern l pos fld m.ty < 2 ^ width m.ty := by
    intro l pos fld
    have e : (2 : Int) ^ width m.ty = ((2 ^ width m.ty : Nat) : Int) := by push_cast; rfl
    have h0 : (0 : Int) < 2 ^ width m.ty := by positivity
    have h1 := Int.emod_lt_of_pos (s.readInt l pos fld m.ty) h0
    unfold State.pattern; omega
  exact ⟨_, _, rfl, writeInt_effect s h m.ty (some 2) _ hi,
    fun l _ => hasBits_of_testBit m.ty _ _ (fun i hi' => hf _ _ _ i hi' (hlt l .sa h.sa) (hlt l .sc h.sc))⟩
/-- A bit-pattern immediate form whose function has the bits b (R140, R147, R148). -/
theorem bitImm_spec (s : State) (h : Head) (m : ImmMod) (f : Nat → Nat → Nat → Nat → Nat) (b : Nat → Nat → Nat → Nat → Bool)
    (hf : ∀ a x c, ∀ i < width m.ty, a < 2 ^ width m.ty → c < 2 ^ width m.ty → (f (width m.ty) a x c).testBit i = b a x c i)
    (hi : s.Issued) :
    ∃ (t : State) (v : Lane → Int), bitImm h m f s = .next t ∧
      RegisterEffect s t h 0 (fun l => s.intWrite l h.dst m.ty (v l)) ∧
      ∀ l ∈ s.guarded h, HasBits m.ty (v l) (b (s.pattern l .sa h.sa m.ty) m.imm.toNat (s.pattern l .sc h.sc m.ty)) := by
  have hlt : ∀ l pos fld, s.pattern l pos fld m.ty < 2 ^ width m.ty := by
    intro l pos fld
    have e : (2 : Int) ^ width m.ty = ((2 ^ width m.ty : Nat) : Int) := by push_cast; rfl
    have h0 : (0 : Int) < 2 ^ width m.ty := by positivity
    have h1 := Int.emod_lt_of_pos (s.readInt l pos fld m.ty) h0
    unfold State.pattern; omega
  exact ⟨_, _, rfl, writeInt_effect s h m.ty (some 2) _ hi,
    fun l _ => hasBits_of_testBit m.ty _ _ (fun i hi' => hf _ _ _ i hi' (hlt l .sa h.sa) (hlt l .sc h.sc))⟩
/-- A count (R147). -/
theorem countReg_spec (s : State) (h : Head) (m : IntMod) (f : Nat → Nat → Nat) (hi : s.Issued) :
    ∃ t, countReg h m f s = .next t ∧ RegisterEffect s t h 0
      (fun l => s.wordWrite l h.dst (BitVec.ofNat 32 (f (width m.ty) (s.pattern l .sa h.sa m.ty)))) :=
  ⟨_, rfl, result32_effect s h (some 2) _ hi⟩
/-- Two predicates into one (R151). -/
theorem predOp_spec (s : State) (h : Head) (f : Bool → Bool → Bool) (hi : s.Issued) :
    ∃ t, predOp h f s = .next t ∧ RegisterEffect s t h 0
      (fun l => predWrite h.dst.pred (f (s.readPred l .sa h.sa.pred) (s.readPred l .sb h.sb.pred))) :=
  ⟨_, rfl, writePred_effect s h (some 2) _ hi⟩
/-- MOVHI (R144, R21): what one lane writes. -/
def movhiWrite (s : State) (h : Head) (m : ImmMod) (l : Lane) : LaneWrite where
  regs := [(regName h.dst.file (h.dst.idx + 1), m.imm)]
  last := some (s.readReg l .dst h.dst, m.imm)
theorem movhi_spec (s : State) (h : Head) (m : ImmMod) (hi : s.Issued) :
    ∃ t, execMovhi h m s = .next t ∧ RegisterEffect s t h 0 (movhiWrite s h m) := by
  refine ⟨_, rfl, runLanes_effect s h 0 (fun t l =>
      let u := t.writeName l (regName h.dst.file (h.dst.idx + 1)) m.imm (some 2)
      u.modFibre l (fun f =>
        f.setLast u.now (pairOf (s.readReg l .dst h.dst) m.imm) (some 2) u.seq))
    (fun _ l => movhiWrite s h m l) hi ?_⟩
  intro t l _ _ _ _ _ _ _ _ _
  have hl := last_wrote (t.writeName l (regName h.dst.file (h.dst.idx + 1)) m.imm (some 2)) l (s.team s.sig.tid).coreKey
    (fun f => f.setLast (t.writeName l (regName h.dst.file (h.dst.idx + 1)) m.imm (some 2)).now
      (pairOf (s.readReg l .dst h.dst) m.imm) (some 2)
      (t.writeName l (regName h.dst.file (h.dst.idx + 1)) m.imm (some 2)).seq)
    _ m.imm (fun f _ => ⟨_, by rw [Fibre.setLast, pairOf_lo, pairOf_hi]⟩) (fun _ => rfl)
  exact (writeName_wrote t l _ (regName h.dst.file (h.dst.idx + 1)) m.imm (some 2)).trans hl

end Sys2Proof.Machine
end

