-- ==== Sys2Proof/Laws/Memory.lean ====
section
/-! SUPPORT. The byte memories of Store.lean: every operation keeps the canonical form, and what a byte reads as after it. -/

namespace Sys2Proof.Machine

theorem Memory.wfFrom_mono (m : List Host.Cell) (a b : Nat) (h : a ≤ b) (hw : Memory.wfFrom b m = true) : Memory.wfFrom a m = true := by
  cases m with
  | nil => rfl
  | cons c r =>
    obtain ⟨k, v⟩ := c
    simp only [Memory.wfFrom, Bool.and_eq_true, decide_eq_true_eq] at hw ⊢
    exact ⟨⟨by omega, hw.1.2⟩, hw.2⟩
/-- An address below all listed ones reads as zero. -/
theorem Memory.byte_below (m : List Host.Cell) (lo a : Nat) (h : a < lo) (hw : Memory.wfFrom lo m = true) : Memory.byte m a = 0 := by
  induction m generalizing lo with
  | nil => rfl
  | cons c r ih =>
    obtain ⟨k, v⟩ := c
    simp only [Memory.wfFrom, Bool.and_eq_true, decide_eq_true_eq] at hw
    rw [Memory.byte, lookupD, if_neg (by omega)]
    exact ih (k + 1) (by omega) hw.2
theorem Memory.set_wfFrom (m : List Host.Cell) (lo a : Nat) (v : Byte) (h : lo ≤ a) (hw : Memory.wfFrom lo m = true) :
    Memory.wfFrom lo (Memory.set m a v) = true := by
  induction m generalizing lo with
  | nil =>
    rw [Memory.set]
    split
    · rfl
    · simp [Memory.wfFrom, h]; assumption
  | cons c r ih =>
    obtain ⟨k, x⟩ := c
    have hc := hw
    simp only [Memory.wfFrom, Bool.and_eq_true, decide_eq_true_eq] at hc
    rw [Memory.set]
    split
    · split
      · exact hw
      · rename_i h1 h2
        simp only [Memory.wfFrom, Bool.and_eq_true, decide_eq_true_eq, bne_iff_ne]
        exact ⟨⟨h, h2⟩, ⟨⟨by omega, by simpa using hc.1.2⟩, hc.2⟩⟩
    · split
      · split
        · exact Memory.wfFrom_mono r lo (k + 1) (by omega) hc.2
        · rename_i h1 h2 h3
          simp only [Memory.wfFrom, Bool.and_eq_true, decide_eq_true_eq, bne_iff_ne]
          exact ⟨⟨h, h3⟩, h2 ▸ hc.2⟩
      · simp only [Memory.wfFrom, Bool.and_eq_true, decide_eq_true_eq]
        exact ⟨hc.1, ih (k + 1) (by omega) hc.2⟩
/-- A byte written keeps the canonical form. -/
theorem Memory.set_wf (m : List Host.Cell) (a : Nat) (v : Byte) (h : Memory.wf m = true) : Memory.wf (Memory.set m a v) = true :=
  Memory.set_wfFrom m 0 a v (Nat.zero_le a) h
/-- Bytes written keep the canonical form. -/
theorem Memory.write_wf (m : List Host.Cell) (a : Nat) (bs : List Byte) (h : Memory.wf m = true) : Memory.wf (Memory.write m a bs) = true := by
  induction bs generalizing m a with
  | nil => exact h
  | cons b r ih => exact ih _ _ (Memory.set_wf m a b h)
theorem Memory.filter_wfFrom (m : List Host.Cell) (p : Host.Cell → Bool) (lo : Nat) (hw : Memory.wfFrom lo m = true) :
    Memory.wfFrom lo (m.filter p) = true := by
  induction m generalizing lo with
  | nil => rfl
  | cons c r ih =>
    obtain ⟨k, v⟩ := c
    have hc := hw
    simp only [Memory.wfFrom, Bool.and_eq_true, decide_eq_true_eq] at hc
    rw [List.filter_cons]
    split
    · simp only [Memory.wfFrom, Bool.and_eq_true, decide_eq_true_eq]
      exact ⟨hc.1, ih (k + 1) hc.2⟩
    · exact Memory.wfFrom_mono _ lo (k + 1) (by omega) (ih (k + 1) hc.2)
/-- Entries taken out keep the canonical form. -/
theorem Memory.filter_wf (m : List Host.Cell) (p : Host.Cell → Bool) (h : Memory.wf m = true) : Memory.wf (m.filter p) = true :=
  Memory.filter_wfFrom m p 0 h
/-- A range cleared keeps the canonical form. -/
theorem Memory.clear_wf (m : List Host.Cell) (a b : Nat) (h : Memory.wf m = true) : Memory.wf (Memory.clear m a b) = true :=
  Memory.filter_wf m _ h
theorem Memory.byte_set_from (m : List Host.Cell) (lo a b : Nat) (v : Byte) (hw : Memory.wfFrom lo m = true) :
    Memory.byte (Memory.set m a v) b = if b = a then v else Memory.byte m b := by
  induction m generalizing lo with
  | nil =>
    rw [Memory.set]
    split <;> rename_i h
    · split <;> simp_all [Memory.byte, lookupD]
    · simp only [Memory.byte, lookupD]
      by_cases e : b = a
      · rw [if_pos e.symm, if_pos e]
      · rw [if_neg (fun x => e x.symm), if_neg e]
  | cons c r ih =>
    obtain ⟨k, x⟩ := c
    have hc := hw
    simp only [Memory.wfFrom, Bool.and_eq_true, decide_eq_true_eq] at hc
    have below : ∀ y, y < k → Memory.byte ((k, x) :: r) y = 0 := fun y hy =>
      Memory.byte_below _ k y hy (by simp only [Memory.wfFrom, Bool.and_eq_true, decide_eq_true_eq]; exact ⟨⟨Nat.le_refl k, hc.1.2⟩, hc.2⟩)
    rw [Memory.set]
    split
    · rename_i h1
      split
      · rename_i h2
        by_cases e : b = a
        · rw [if_pos e, e, below a h1, h2]
        · rw [if_neg e]
      · by_cases e : b = a
        · rw [if_pos e, e]; simp [Memory.byte, lookupD]
        · rw [if_neg e]
          show lookupD 0 b ((a, v) :: (k, x) :: r) = lookupD 0 b ((k, x) :: r)
          rw [lookupD, if_neg (fun h => e h.symm)]
    · split
      · rename_i h1 h2
        subst h2
        have past : Memory.byte r a = 0 := Memory.byte_below r (a + 1) a (by omega) hc.2
        split
        · rename_i h3
          by_cases e : b = a
          · rw [if_pos e, e, past, h3]
          · rw [if_neg e]
            show lookupD 0 b r = lookupD 0 b ((a, x) :: r)
            rw [lookupD, if_neg (fun h => e h.symm)]
        · by_cases e : b = a
          · rw [if_pos e, e]; simp [Memory.byte, lookupD]
          · rw [if_neg e]
            show lookupD 0 b ((a, v) :: r) = lookupD 0 b ((a, x) :: r)
            rw [lookupD, lookupD, if_neg (fun h => e h.symm), if_neg (fun h => e h.symm)]
      · rename_i h1 h2
        show lookupD 0 b ((k, x) :: Memory.set r a v) = if b = a then v else lookupD 0 b ((k, x) :: r)
        rw [lookupD, lookupD]
        by_cases e : k = b
        · rw [if_pos e, if_pos e, if_neg (by omega)]
        · rw [if_neg e, if_neg e]
          exact ih (k + 1) hc.2
/-- What a byte reads as after one is written. -/
theorem Memory.byte_set (m : List Host.Cell) (a b : Nat) (v : Byte) (h : Memory.wf m = true) :
    Memory.byte (Memory.set m a v) b = if b = a then v else Memory.byte m b := Memory.byte_set_from m 0 a b v h
/-- A byte outside a written range reads as before. -/
theorem Memory.byte_write_outside (m : List Host.Cell) (a b : Nat) (bs : List Byte) (h : Memory.wf m = true) (ho : b < a ∨ a + bs.length ≤ b) :
    Memory.byte (Memory.write m a bs) b = Memory.byte m b := by
  induction bs generalizing m a with
  | nil => rfl
  | cons c r ih =>
    simp only [List.length_cons] at ho
    rw [Memory.write, ih _ _ (Memory.set_wf m a c h) (by omega), Memory.byte_set m a b c h, if_neg (by omega)]
/-- A byte inside a written range reads as written. -/
theorem Memory.byte_write_inside (m : List Host.Cell) (a i : Nat) (bs : List Byte) (h : Memory.wf m = true) (hi : i < bs.length) :
    Memory.byte (Memory.write m a bs) (a + i) = bs[i] := by
  induction bs generalizing m a i with
  | nil => cases hi
  | cons c r ih =>
    rw [Memory.write]
    cases i with
    | zero =>
      rw [Memory.byte_write_outside _ _ _ _ (Memory.set_wf m a c h) (by omega), Memory.byte_set m a _ c h]
      simp
    | succ j =>
      rw [show a + (j + 1) = a + 1 + j by omega, ih _ _ j (Memory.set_wf m a c h) (by simpa using hi)]
      rfl
/-- A range cleared reads as zero, and every other byte as before. -/
theorem Memory.byte_clear (m : List Host.Cell) (lo hi b : Nat) :
    Memory.byte (Memory.clear m lo hi) b = if lo ≤ b ∧ b < hi then 0 else Memory.byte m b := by
  induction m with
  | nil => simp [Memory.clear, Memory.byte, lookupD]
  | cons c r ih =>
    obtain ⟨k, v⟩ := c
    simp only [Memory.clear, List.filter_cons, Memory.byte] at ih ⊢
    split
    · rename_i h
      simp only [Bool.or_eq_true, decide_eq_true_eq] at h
      rw [lookupD, lookupD, ih]
      by_cases e : k = b
      · rw [if_pos e, if_pos e, if_neg (by omega)]
      · rw [if_neg e, if_neg e]
    · rename_i h
      simp only [Bool.or_eq_true, decide_eq_true_eq] at h
      rw [ih, lookupD]
      by_cases e : k = b
      · rw [if_pos e, if_pos (by omega), if_pos (by omega)]
      · rw [if_neg e]

end Sys2Proof.Machine
end

