-- ==== Sys2Proof/Laws/PerInstr.lean ====
section
/-! SUPPORT. For every constructor: what its encoding decodes to (R111, R118 to R124). -/

set_option linter.unusedVariables false

namespace Sys2Proof.Laws.Recoded

open Sys2Proof Sys2Proof.Machine

/-- A well-formed instruction's slot decodes to it; a machine step has none. -/
def Statement (i : Instr) : Prop := i.wf = true → ∀ w, encode i = some w → decode w = .ok i

/-- A well-formed instruction raises no ILLEGAL_MOD. -/
theorem modFault_none {i : Instr} {h : Head} (hh : headOf i = some h) (hw : i.wf = true) : ∀ c ∈ modChecks i ++ unusedChecks h (uses i), c.2 = false := by
  have e : modFault i = lowestBad (modChecks i ++ unusedChecks h (uses i)) := by rw [modFault, hh]
  rw [← lowestBad_eq_none, ← e]
  unfold Instr.wf at hw
  split at hw
  · cases hh
  · exact Option.isNone_iff_eq_none.mp (Bool.and_eq_true_iff.mp hw).1
/-- A check that a well-formed instruction passes. -/
theorem check_false {i : Instr} {h : Head} {p : Nat} {b : Bool} (hh : headOf i = some h) (hw : i.wf = true) (e : (p, b) ∈ modChecks i) : b = false :=
  modFault_none hh hw (p, b) (List.mem_append_left _ e)
/-- What an opcode's entry in the map gives a slot of it. -/
theorem of_map {i : Instr} {o : BitVec 10} {h : Head} {mb : BitVec 37} {l : Layout} (he : encode i = some (Sys2Proof.slotOf o h mb))
    (hh : headOf i = some h) (hr : ∀ c ∈ rawChecks l mb, c.2 = false) (hm : i.wf = true → opcodeMap o.toNat h mb = some (i, l)) : Statement i := by
  intro hw w e
  cases Option.some.inj (he.symm.trans e)
  have hb : lowestBad (rawChecks l mb ++ modChecks i ++ unusedChecks h (uses i)) = none := by
    rw [lowestBad_eq_none]
    intro c hc
    rw [List.append_assoc, List.mem_append] at hc
    exact hc.elim (hr c) (modFault_none hh hw c)
  rw [decode, opcodeOf_slotOf, readHead_slotOf, readMod_slotOf, hm hw]
  simp only [hb]

/-- An opcode of the int layout with one constructor. -/
theorem of_int (f : Head → IntMod → Instr) (o : BitVec 10) (he : ∀ h m, encode (f h m) = some (Sys2Proof.slotOf o h (intBits m)))
    (hh : ∀ h m, headOf (f h m) = some h) (hm : ∀ h mb, opcodeMap o.toNat h mb = some (f h (readInt mb), .int)) (h : Head) (m : IntMod) : Statement (f h m) :=
  of_map (he h m) (hh h m) (intBits_raw m) (fun _ => by rw [hm, readInt_intBits])
/-- An opcode of the imm layout with one constructor. -/
theorem of_imm (f : Head → ImmMod → Instr) (o : BitVec 10) (he : ∀ h m, encode (f h m) = some (Sys2Proof.slotOf o h (immBits m)))
    (hh : ∀ h m, headOf (f h m) = some h) (hm : ∀ h mb, opcodeMap o.toNat h mb = some (f h (readImm mb), .imm)) (h : Head) (m : ImmMod) : Statement (f h m) :=
  of_map (he h m) (hh h m) (immBits_raw m) (fun _ => by rw [hm, readImm_immBits])
/-- An opcode of the special layout with one constructor. -/
theorem of_special (f : Head → SpecialMod → Instr) (o : BitVec 10) (he : ∀ h m, encode (f h m) = some (Sys2Proof.slotOf o h (specialBits m)))
    (hh : ∀ h m, headOf (f h m) = some h) (hm : ∀ h mb, opcodeMap o.toNat h mb = some (f h (readSpecial mb), .special)) (h : Head) (m : SpecialMod) : Statement (f h m) :=
  of_map (he h m) (hh h m) (specialBits_raw m) (fun _ => by rw [hm, readSpecial_specialBits])
/-- An opcode of the cmpImm layout with one constructor. -/
theorem of_cmpImm (f : Head → CmpImmMod → Instr) (o : BitVec 10) (he : ∀ h m, encode (f h m) = some (Sys2Proof.slotOf o h (cmpImmBits m)))
    (hh : ∀ h m, headOf (f h m) = some h) (hm : ∀ h mb, opcodeMap o.toNat h mb = some (f h (readCmpImm mb), .cmpImm)) (h : Head) (m : CmpImmMod) : Statement (f h m) :=
  of_map (he h m) (hh h m) (cmpImmBits_raw m) (fun _ => by rw [hm, readCmpImm_cmpImmBits])
/-- An opcode of the float layout with one constructor. -/
theorem of_float (f : Head → FloatMod → Instr) (o : BitVec 10) (he : ∀ h m, encode (f h m) = some (Sys2Proof.slotOf o h (floatBits m)))
    (hh : ∀ h m, headOf (f h m) = some h) (hm : ∀ h mb, opcodeMap o.toNat h mb = some (f h (readFloat mb), .float)) (h : Head) (m : FloatMod) : Statement (f h m) :=
  of_map (he h m) (hh h m) (floatBits_raw m) (fun _ => by rw [hm, readFloat_floatBits])
/-- An opcode of the floatImm layout with one constructor. -/
theorem of_floatImm (f : Head → FloatImmMod → Instr) (o : BitVec 10) (he : ∀ h m, encode (f h m) = some (Sys2Proof.slotOf o h (floatImmBits m)))
    (hh : ∀ h m, headOf (f h m) = some h) (hm : ∀ h mb, opcodeMap o.toNat h mb = some (f h (readFloatImm mb), .floatImm)) (h : Head) (m : FloatImmMod) : Statement (f h m) :=
  of_map (he h m) (hh h m) (floatImmBits_raw m) (fun _ => by rw [hm, readFloatImm_floatImmBits])
/-- An opcode of the conv layout with one constructor. -/
theorem of_conv (f : Head → ConvMod → Instr) (o : BitVec 10) (he : ∀ h m, encode (f h m) = some (Sys2Proof.slotOf o h (convBits m)))
    (hh : ∀ h m, headOf (f h m) = some h) (hm : ∀ h mb, opcodeMap o.toNat h mb = some (f h (readConv mb), .conv)) (h : Head) (m : ConvMod) : Statement (f h m) :=
  of_map (he h m) (hh h m) (convBits_raw m) (fun _ => by rw [hm, readConv_convBits])
/-- An opcode of the global layout with one constructor. -/
theorem of_global (f : Head → GlobalMod → Instr) (o : BitVec 10) (he : ∀ h m, encode (f h m) = some (Sys2Proof.slotOf o h (globalBits m)))
    (hh : ∀ h m, headOf (f h m) = some h) (hm : ∀ h mb, opcodeMap o.toNat h mb = some (f h (readGlobal mb), .global)) (h : Head) (m : GlobalMod) : Statement (f h m) :=
  of_map (he h m) (hh h m) (globalBits_raw m) (fun _ => by rw [hm, readGlobal_globalBits])
/-- An opcode of the scratch layout with one constructor. -/
theorem of_scratch (f : Head → ScratchMod → Instr) (o : BitVec 10) (he : ∀ h m, encode (f h m) = some (Sys2Proof.slotOf o h (scratchBits m)))
    (hh : ∀ h m, headOf (f h m) = some h) (hm : ∀ h mb, opcodeMap o.toNat h mb = some (f h (readScratch mb), .scratch)) (h : Head) (m : ScratchMod) : Statement (f h m) :=
  of_map (he h m) (hh h m) (scratchBits_raw m) (fun _ => by rw [hm, readScratch_scratchBits])
/-- An opcode of the atomic layout with one constructor. -/
theorem of_atomic (f : Head → AtomicMod → Instr) (o : BitVec 10) (he : ∀ h m, encode (f h m) = some (Sys2Proof.slotOf o h (atomicBits m)))
    (hh : ∀ h m, headOf (f h m) = some h) (hm : ∀ h mb, opcodeMap o.toNat h mb = some (f h (readAtomic mb), .atomic)) (h : Head) (m : AtomicMod) : Statement (f h m) :=
  of_map (he h m) (hh h m) (atomicBits_raw m) (fun _ => by rw [hm, readAtomic_atomicBits])
/-- An opcode of the engine layout with one constructor. -/
theorem of_engine (f : Head → EngineMod → Instr) (o : BitVec 10) (he : ∀ h m, encode (f h m) = some (Sys2Proof.slotOf o h (engineBits m)))
    (hh : ∀ h m, headOf (f h m) = some h) (hm : ∀ h mb, opcodeMap o.toNat h mb = some (f h (readEngine mb), .engine)) (h : Head) (m : EngineMod) : Statement (f h m) :=
  of_map (he h m) (hh h m) (engineBits_raw m) (fun _ => by rw [hm, readEngine_engineBits])
/-- An opcode of the branch layout with one constructor. -/
theorem of_branch (f : Head → BranchMod → Instr) (o : BitVec 10) (he : ∀ h m, encode (f h m) = some (Sys2Proof.slotOf o h (branchBits m)))
    (hh : ∀ h m, headOf (f h m) = some h) (hm : ∀ h mb, opcodeMap o.toNat h mb = some (f h (readBranch mb), .branch)) (h : Head) (m : BranchMod) : Statement (f h m) :=
  of_map (he h m) (hh h m) (branchBits_raw m) (fun _ => by rw [hm, readBranch_branchBits])
/-- An opcode of the sync layout with one constructor. -/
theorem of_sync (f : Head → SyncMod → Instr) (o : BitVec 10) (he : ∀ h m, encode (f h m) = some (Sys2Proof.slotOf o h (syncBits m)))
    (hh : ∀ h m, headOf (f h m) = some h) (hm : ∀ h mb, opcodeMap o.toNat h mb = some (f h (readSync mb), .sync)) (h : Head) (m : SyncMod) : Statement (f h m) :=
  of_map (he h m) (hh h m) (syncBits_raw m) (fun _ => by rw [hm, readSync_syncBits])
/-- An opcode of the fold layout with one constructor. -/
theorem of_fold (f : Head → FoldMod → Instr) (o : BitVec 10) (he : ∀ h m, encode (f h m) = some (Sys2Proof.slotOf o h (foldBits m)))
    (hh : ∀ h m, headOf (f h m) = some h) (hm : ∀ h mb, opcodeMap o.toNat h mb = some (f h (readFold mb), .fold)) (h : Head) (m : FoldMod) : Statement (f h m) :=
  of_map (he h m) (hh h m) (foldBits_raw m) (fun _ => by rw [hm, readFold_foldBits])
/-- An opcode of the system layout with one constructor. -/
theorem of_system (f : Head → SystemMod → Instr) (o : BitVec 10) (he : ∀ h m, encode (f h m) = some (Sys2Proof.slotOf o h (systemBits m)))
    (hh : ∀ h m, headOf (f h m) = some h) (hm : ∀ h mb, opcodeMap o.toNat h mb = some (f h (readSystem mb), .system)) (h : Head) (m : SystemMod) : Statement (f h m) :=
  of_map (he h m) (hh h m) (systemBits_raw m) (fun _ => by rw [hm, readSystem_systemBits])

theorem mov (h : Head) (m : IntMod) : Statement (.mov h m) := of_int .mov 0x000 (fun _ _ => rfl) (fun _ _ => rfl) (fun _ _ => rfl) h m
theorem movi (h : Head) (m : ImmMod) : Statement (.movi h m) := of_imm .movi 0x001 (fun _ _ => rfl) (fun _ _ => rfl) (fun _ _ => rfl) h m
theorem movhi (h : Head) (m : ImmMod) : Statement (.movhi h m) := of_imm .movhi 0x002 (fun _ _ => rfl) (fun _ _ => rfl) (fun _ _ => rfl) h m
theorem rds (h : Head) (m : SpecialMod) : Statement (.rds h m) := of_special .rds 0x003 (fun _ _ => rfl) (fun _ _ => rfl) (fun _ _ => rfl) h m
theorem add (h : Head) (m : IntMod) : Statement (.add h m) := of_int .add 0x004 (fun _ _ => rfl) (fun _ _ => rfl) (fun _ _ => rfl) h m
theorem addImm (h : Head) (m : ImmMod) : Statement (.addImm h m) := of_imm .addImm 0x005 (fun _ _ => rfl) (fun _ _ => rfl) (fun _ _ => rfl) h m
theorem addc (h : Head) (m : IntMod) : Statement (.addc h m) := of_int .addc 0x006 (fun _ _ => rfl) (fun _ _ => rfl) (fun _ _ => rfl) h m
theorem sub (h : Head) (m : IntMod) : Statement (.sub h m) := of_int .sub 0x008 (fun _ _ => rfl) (fun _ _ => rfl) (fun _ _ => rfl) h m
theorem subImm (h : Head) (m : ImmMod) : Statement (.subImm h m) := of_imm .subImm 0x009 (fun _ _ => rfl) (fun _ _ => rfl) (fun _ _ => rfl) h m
theorem subb (h : Head) (m : IntMod) : Statement (.subb h m) := of_int .subb 0x00A (fun _ _ => rfl) (fun _ _ => rfl) (fun _ _ => rfl) h m
theorem mul (h : Head) (m : IntMod) : Statement (.mul h m) := of_int .mul 0x00C (fun _ _ => rfl) (fun _ _ => rfl) (fun _ _ => rfl) h m
theorem mulImm (h : Head) (m : ImmMod) : Statement (.mulImm h m) := of_imm .mulImm 0x00D (fun _ _ => rfl) (fun _ _ => rfl) (fun _ _ => rfl) h m
theorem mulhi (h : Head) (m : IntMod) : Statement (.mulhi h m) := of_int .mulhi 0x00E (fun _ _ => rfl) (fun _ _ => rfl) (fun _ _ => rfl) h m
theorem mulhiImm (h : Head) (m : ImmMod) : Statement (.mulhiImm h m) := of_imm .mulhiImm 0x00F (fun _ _ => rfl) (fun _ _ => rfl) (fun _ _ => rfl) h m
theorem mad (h : Head) (m : IntMod) : Statement (.mad h m) := of_int .mad 0x010 (fun _ _ => rfl) (fun _ _ => rfl) (fun _ _ => rfl) h m
theorem madImm (h : Head) (m : ImmMod) : Statement (.madImm h m) := of_imm .madImm 0x011 (fun _ _ => rfl) (fun _ _ => rfl) (fun _ _ => rfl) h m
theorem madw (h : Head) (m : IntMod) : Statement (.madw h m) := of_int .madw 0x012 (fun _ _ => rfl) (fun _ _ => rfl) (fun _ _ => rfl) h m
theorem madwImm (h : Head) (m : ImmMod) : Statement (.madwImm h m) := of_imm .madwImm 0x013 (fun _ _ => rfl) (fun _ _ => rfl) (fun _ _ => rfl) h m
theorem div (h : Head) (m : IntMod) : Statement (.div h m) := of_int .div 0x014 (fun _ _ => rfl) (fun _ _ => rfl) (fun _ _ => rfl) h m
theorem divImm (h : Head) (m : ImmMod) : Statement (.divImm h m) := of_imm .divImm 0x015 (fun _ _ => rfl) (fun _ _ => rfl) (fun _ _ => rfl) h m
theorem rem (h : Head) (m : IntMod) : Statement (.rem h m) := of_int .rem 0x016 (fun _ _ => rfl) (fun _ _ => rfl) (fun _ _ => rfl) h m
theorem remImm (h : Head) (m : ImmMod) : Statement (.remImm h m) := of_imm .remImm 0x017 (fun _ _ => rfl) (fun _ _ => rfl) (fun _ _ => rfl) h m
theorem abs (h : Head) (m : IntMod) : Statement (.abs h m) := of_int .abs 0x018 (fun _ _ => rfl) (fun _ _ => rfl) (fun _ _ => rfl) h m
theorem neg (h : Head) (m : IntMod) : Statement (.neg h m) := of_int .neg 0x019 (fun _ _ => rfl) (fun _ _ => rfl) (fun _ _ => rfl) h m
theorem min (h : Head) (m : IntMod) : Statement (.min h m) := of_int .min 0x01A (fun _ _ => rfl) (fun _ _ => rfl) (fun _ _ => rfl) h m
theorem minImm (h : Head) (m : ImmMod) : Statement (.minImm h m) := of_imm .minImm 0x01B (fun _ _ => rfl) (fun _ _ => rfl) (fun _ _ => rfl) h m
theorem max (h : Head) (m : IntMod) : Statement (.max h m) := of_int .max 0x01C (fun _ _ => rfl) (fun _ _ => rfl) (fun _ _ => rfl) h m
theorem maxImm (h : Head) (m : ImmMod) : Statement (.maxImm h m) := of_imm .maxImm 0x01D (fun _ _ => rfl) (fun _ _ => rfl) (fun _ _ => rfl) h m
theorem clamp (h : Head) (m : IntMod) : Statement (.clamp h m) := of_int .clamp 0x01E (fun _ _ => rfl) (fun _ _ => rfl) (fun _ _ => rfl) h m
theorem and (h : Head) (m : IntMod) : Statement (.and h m) := of_int .and 0x020 (fun _ _ => rfl) (fun _ _ => rfl) (fun _ _ => rfl) h m
theorem andImm (h : Head) (m : ImmMod) : Statement (.andImm h m) := of_imm .andImm 0x021 (fun _ _ => rfl) (fun _ _ => rfl) (fun _ _ => rfl) h m
theorem or (h : Head) (m : IntMod) : Statement (.or h m) := of_int .or 0x022 (fun _ _ => rfl) (fun _ _ => rfl) (fun _ _ => rfl) h m
theorem orImm (h : Head) (m : ImmMod) : Statement (.orImm h m) := of_imm .orImm 0x023 (fun _ _ => rfl) (fun _ _ => rfl) (fun _ _ => rfl) h m
theorem xor (h : Head) (m : IntMod) : Statement (.xor h m) := of_int .xor 0x024 (fun _ _ => rfl) (fun _ _ => rfl) (fun _ _ => rfl) h m
theorem xorImm (h : Head) (m : ImmMod) : Statement (.xorImm h m) := of_imm .xorImm 0x025 (fun _ _ => rfl) (fun _ _ => rfl) (fun _ _ => rfl) h m
theorem andn (h : Head) (m : IntMod) : Statement (.andn h m) := of_int .andn 0x026 (fun _ _ => rfl) (fun _ _ => rfl) (fun _ _ => rfl) h m
theorem andnImm (h : Head) (m : ImmMod) : Statement (.andnImm h m) := of_imm .andnImm 0x027 (fun _ _ => rfl) (fun _ _ => rfl) (fun _ _ => rfl) h m
theorem orn (h : Head) (m : IntMod) : Statement (.orn h m) := of_int .orn 0x028 (fun _ _ => rfl) (fun _ _ => rfl) (fun _ _ => rfl) h m
theorem ornImm (h : Head) (m : ImmMod) : Statement (.ornImm h m) := of_imm .ornImm 0x029 (fun _ _ => rfl) (fun _ _ => rfl) (fun _ _ => rfl) h m
theorem shl (h : Head) (m : IntMod) : Statement (.shl h m) := of_int .shl 0x02A (fun _ _ => rfl) (fun _ _ => rfl) (fun _ _ => rfl) h m
theorem shlImm (h : Head) (m : ImmMod) : Statement (.shlImm h m) := of_imm .shlImm 0x02B (fun _ _ => rfl) (fun _ _ => rfl) (fun _ _ => rfl) h m
theorem shr (h : Head) (m : IntMod) : Statement (.shr h m) := of_int .shr 0x02C (fun _ _ => rfl) (fun _ _ => rfl) (fun _ _ => rfl) h m
theorem shrImm (h : Head) (m : ImmMod) : Statement (.shrImm h m) := of_imm .shrImm 0x02D (fun _ _ => rfl) (fun _ _ => rfl) (fun _ _ => rfl) h m
theorem sar (h : Head) (m : IntMod) : Statement (.sar h m) := of_int .sar 0x02E (fun _ _ => rfl) (fun _ _ => rfl) (fun _ _ => rfl) h m
theorem sarImm (h : Head) (m : ImmMod) : Statement (.sarImm h m) := of_imm .sarImm 0x02F (fun _ _ => rfl) (fun _ _ => rfl) (fun _ _ => rfl) h m
theorem rotl (h : Head) (m : IntMod) : Statement (.rotl h m) := of_int .rotl 0x030 (fun _ _ => rfl) (fun _ _ => rfl) (fun _ _ => rfl) h m
theorem rotlImm (h : Head) (m : ImmMod) : Statement (.rotlImm h m) := of_imm .rotlImm 0x031 (fun _ _ => rfl) (fun _ _ => rfl) (fun _ _ => rfl) h m
theorem fshl (h : Head) (m : IntMod) : Statement (.fshl h m) := of_int .fshl 0x032 (fun _ _ => rfl) (fun _ _ => rfl) (fun _ _ => rfl) h m
theorem fshlImm (h : Head) (m : ImmMod) : Statement (.fshlImm h m) := of_imm .fshlImm 0x033 (fun _ _ => rfl) (fun _ _ => rfl) (fun _ _ => rfl) h m
theorem bfx (h : Head) (m : IntMod) : Statement (.bfx h m) := of_int .bfx 0x034 (fun _ _ => rfl) (fun _ _ => rfl) (fun _ _ => rfl) h m
theorem bfxImm (h : Head) (m : ImmMod) : Statement (.bfxImm h m) := of_imm .bfxImm 0x035 (fun _ _ => rfl) (fun _ _ => rfl) (fun _ _ => rfl) h m
theorem bfi (h : Head) (m : IntMod) : Statement (.bfi h m) := of_int .bfi 0x036 (fun _ _ => rfl) (fun _ _ => rfl) (fun _ _ => rfl) h m
theorem bfiImm (h : Head) (m : ImmMod) : Statement (.bfiImm h m) := of_imm .bfiImm 0x037 (fun _ _ => rfl) (fun _ _ => rfl) (fun _ _ => rfl) h m
theorem brev (h : Head) (m : IntMod) : Statement (.brev h m) := of_int .brev 0x038 (fun _ _ => rfl) (fun _ _ => rfl) (fun _ _ => rfl) h m
theorem popc (h : Head) (m : IntMod) : Statement (.popc h m) := of_int .popc 0x039 (fun _ _ => rfl) (fun _ _ => rfl) (fun _ _ => rfl) h m
theorem clz (h : Head) (m : IntMod) : Statement (.clz h m) := of_int .clz 0x03A (fun _ _ => rfl) (fun _ _ => rfl) (fun _ _ => rfl) h m
theorem ctz (h : Head) (m : IntMod) : Statement (.ctz h m) := of_int .ctz 0x03B (fun _ _ => rfl) (fun _ _ => rfl) (fun _ _ => rfl) h m
theorem bytep (h : Head) (m : IntMod) : Statement (.bytep h m) := of_int .bytep 0x03C (fun _ _ => rfl) (fun _ _ => rfl) (fun _ _ => rfl) h m
theorem bytepImm (h : Head) (m : ImmMod) : Statement (.bytepImm h m) := of_imm .bytepImm 0x03D (fun _ _ => rfl) (fun _ _ => rfl) (fun _ _ => rfl) h m
theorem sel (h : Head) (m : IntMod) : Statement (.sel h m) := of_int .sel 0x03E (fun _ _ => rfl) (fun _ _ => rfl) (fun _ _ => rfl) h m
theorem cmp (h : Head) (m : IntMod) : Statement (.cmp h m) := of_int .cmp 0x040 (fun _ _ => rfl) (fun _ _ => rfl) (fun _ _ => rfl) h m
theorem cmpImm (h : Head) (m : CmpImmMod) : Statement (.cmpImm h m) := of_cmpImm .cmpImm 0x041 (fun _ _ => rfl) (fun _ _ => rfl) (fun _ _ => rfl) h m
theorem pand (h : Head) (m : IntMod) : Statement (.pand h m) := of_int .pand 0x042 (fun _ _ => rfl) (fun _ _ => rfl) (fun _ _ => rfl) h m
theorem por (h : Head) (m : IntMod) : Statement (.por h m) := of_int .por 0x043 (fun _ _ => rfl) (fun _ _ => rfl) (fun _ _ => rfl) h m
theorem pxor (h : Head) (m : IntMod) : Statement (.pxor h m) := of_int .pxor 0x044 (fun _ _ => rfl) (fun _ _ => rfl) (fun _ _ => rfl) h m
theorem pnot (h : Head) (m : IntMod) : Statement (.pnot h m) := of_int .pnot 0x045 (fun _ _ => rfl) (fun _ _ => rfl) (fun _ _ => rfl) h m
theorem lea (h : Head) (m : IntMod) : Statement (.lea h m) := of_int .lea 0x046 (fun _ _ => rfl) (fun _ _ => rfl) (fun _ _ => rfl) h m
theorem leaImm (h : Head) (m : ImmMod) : Statement (.leaImm h m) := of_imm .leaImm 0x047 (fun _ _ => rfl) (fun _ _ => rfl) (fun _ _ => rfl) h m
theorem fadd (h : Head) (m : FloatMod) : Statement (.fadd h m) := of_float .fadd 0x080 (fun _ _ => rfl) (fun _ _ => rfl) (fun _ _ => rfl) h m
theorem faddImm (h : Head) (m : FloatImmMod) : Statement (.faddImm h m) := of_floatImm .faddImm 0x081 (fun _ _ => rfl) (fun _ _ => rfl) (fun _ _ => rfl) h m
theorem fsub (h : Head) (m : FloatMod) : Statement (.fsub h m) := of_float .fsub 0x082 (fun _ _ => rfl) (fun _ _ => rfl) (fun _ _ => rfl) h m
theorem fsubImm (h : Head) (m : FloatImmMod) : Statement (.fsubImm h m) := of_floatImm .fsubImm 0x083 (fun _ _ => rfl) (fun _ _ => rfl) (fun _ _ => rfl) h m
theorem fmul (h : Head) (m : FloatMod) : Statement (.fmul h m) := of_float .fmul 0x084 (fun _ _ => rfl) (fun _ _ => rfl) (fun _ _ => rfl) h m
theorem fmulImm (h : Head) (m : FloatImmMod) : Statement (.fmulImm h m) := of_floatImm .fmulImm 0x085 (fun _ _ => rfl) (fun _ _ => rfl) (fun _ _ => rfl) h m
theorem ffma (h : Head) (m : FloatMod) : Statement (.ffma h m) := of_float .ffma 0x086 (fun _ _ => rfl) (fun _ _ => rfl) (fun _ _ => rfl) h m
theorem ffmaImm (h : Head) (m : FloatImmMod) : Statement (.ffmaImm h m) := of_floatImm .ffmaImm 0x087 (fun _ _ => rfl) (fun _ _ => rfl) (fun _ _ => rfl) h m
theorem fmin (h : Head) (m : FloatMod) : Statement (.fmin h m) := of_float .fmin 0x088 (fun _ _ => rfl) (fun _ _ => rfl) (fun _ _ => rfl) h m
theorem fmax (h : Head) (m : FloatMod) : Statement (.fmax h m) := of_float .fmax 0x089 (fun _ _ => rfl) (fun _ _ => rfl) (fun _ _ => rfl) h m
theorem fcmp (h : Head) (m : FloatMod) : Statement (.fcmp h m) := of_float .fcmp 0x08A (fun _ _ => rfl) (fun _ _ => rfl) (fun _ _ => rfl) h m
theorem fclass (h : Head) (m : FloatMod) : Statement (.fclass h m) := of_float .fclass 0x08B (fun _ _ => rfl) (fun _ _ => rfl) (fun _ _ => rfl) h m
theorem fdiv (h : Head) (m : FloatMod) : Statement (.fdiv h m) := of_float .fdiv 0x08C (fun _ _ => rfl) (fun _ _ => rfl) (fun _ _ => rfl) h m
theorem fsqrt (h : Head) (m : FloatMod) : Statement (.fsqrt h m) := of_float .fsqrt 0x08D (fun _ _ => rfl) (fun _ _ => rfl) (fun _ _ => rfl) h m
theorem frcp (h : Head) (m : FloatMod) : Statement (.frcp h m) := of_float .frcp 0x08E (fun _ _ => rfl) (fun _ _ => rfl) (fun _ _ => rfl) h m
theorem frsq (h : Head) (m : FloatMod) : Statement (.frsq h m) := of_float .frsq 0x08F (fun _ _ => rfl) (fun _ _ => rfl) (fun _ _ => rfl) h m
theorem fexp2 (h : Head) (m : FloatMod) : Statement (.fexp2 h m) := of_float .fexp2 0x090 (fun _ _ => rfl) (fun _ _ => rfl) (fun _ _ => rfl) h m
theorem flog2 (h : Head) (m : FloatMod) : Statement (.flog2 h m) := of_float .flog2 0x091 (fun _ _ => rfl) (fun _ _ => rfl) (fun _ _ => rfl) h m
theorem fsin (h : Head) (m : FloatMod) : Statement (.fsin h m) := of_float .fsin 0x092 (fun _ _ => rfl) (fun _ _ => rfl) (fun _ _ => rfl) h m
theorem fcos (h : Head) (m : FloatMod) : Statement (.fcos h m) := of_float .fcos 0x093 (fun _ _ => rfl) (fun _ _ => rfl) (fun _ _ => rfl) h m
theorem ftanh (h : Head) (m : FloatMod) : Statement (.ftanh h m) := of_float .ftanh 0x094 (fun _ _ => rfl) (fun _ _ => rfl) (fun _ _ => rfl) h m
theorem frnd (h : Head) (m : FloatMod) : Statement (.frnd h m) := of_float .frnd 0x095 (fun _ _ => rfl) (fun _ _ => rfl) (fun _ _ => rfl) h m
theorem fscale (h : Head) (m : FloatMod) : Statement (.fscale h m) := of_float .fscale 0x096 (fun _ _ => rfl) (fun _ _ => rfl) (fun _ _ => rfl) h m
theorem fabs (h : Head) (m : FloatMod) : Statement (.fabs h m) := of_float .fabs 0x097 (fun _ _ => rfl) (fun _ _ => rfl) (fun _ _ => rfl) h m
theorem fneg (h : Head) (m : FloatMod) : Statement (.fneg h m) := of_float .fneg 0x098 (fun _ _ => rfl) (fun _ _ => rfl) (fun _ _ => rfl) h m
theorem cvt (h : Head) (m : ConvMod) : Statement (.cvt h m) := of_conv .cvt 0x100 (fun _ _ => rfl) (fun _ _ => rfl) (fun _ _ => rfl) h m
theorem cvtblk (h : Head) (m : ConvMod) : Statement (.cvtblk h m) := of_conv .cvtblk 0x101 (fun _ _ => rfl) (fun _ _ => rfl) (fun _ _ => rfl) h m
theorem deqblk (h : Head) (m : ConvMod) : Statement (.deqblk h m) := of_conv .deqblk 0x102 (fun _ _ => rfl) (fun _ _ => rfl) (fun _ _ => rfl) h m
theorem hadd2 (h : Head) (m : ConvMod) : Statement (.hadd2 h m) := of_conv .hadd2 0x103 (fun _ _ => rfl) (fun _ _ => rfl) (fun _ _ => rfl) h m
theorem hfma2 (h : Head) (m : ConvMod) : Statement (.hfma2 h m) := of_conv .hfma2 0x104 (fun _ _ => rfl) (fun _ _ => rfl) (fun _ _ => rfl) h m
theorem dot2 (h : Head) (m : ConvMod) : Statement (.dot2 h m) := of_conv .dot2 0x105 (fun _ _ => rfl) (fun _ _ => rfl) (fun _ _ => rfl) h m
theorem dot4 (h : Head) (m : ConvMod) : Statement (.dot4 h m) := of_conv .dot4 0x106 (fun _ _ => rfl) (fun _ _ => rfl) (fun _ _ => rfl) h m
theorem ld (h : Head) (m : GlobalMod) : Statement (.ld h m) := of_global .ld 0x180 (fun _ _ => rfl) (fun _ _ => rfl) (fun _ _ => rfl) h m
theorem st (h : Head) (m : GlobalMod) : Statement (.st h m) := of_global .st 0x181 (fun _ _ => rfl) (fun _ _ => rfl) (fun _ _ => rfl) h m
theorem ldb (h : Head) (m : GlobalMod) : Statement (.ldb h m) := of_global .ldb 0x182 (fun _ _ => rfl) (fun _ _ => rfl) (fun _ _ => rfl) h m
theorem lds (h : Head) (m : ScratchMod) : Statement (.lds h m) := of_scratch .lds 0x183 (fun _ _ => rfl) (fun _ _ => rfl) (fun _ _ => rfl) h m
theorem sts (h : Head) (m : ScratchMod) : Statement (.sts h m) := of_scratch .sts 0x184 (fun _ _ => rfl) (fun _ _ => rfl) (fun _ _ => rfl) h m
theorem ldn (h : Head) (m : ScratchMod) : Statement (.ldn h m) := of_scratch .ldn 0x185 (fun _ _ => rfl) (fun _ _ => rfl) (fun _ _ => rfl) h m
theorem tld (h : Head) (m : GlobalMod) : Statement (.tld h m) := of_global .tld 0x186 (fun _ _ => rfl) (fun _ _ => rfl) (fun _ _ => rfl) h m
theorem tst (h : Head) (m : GlobalMod) : Statement (.tst h m) := of_global .tst 0x187 (fun _ _ => rfl) (fun _ _ => rfl) (fun _ _ => rfl) h m
theorem pref (h : Head) (m : GlobalMod) : Statement (.pref h m) := of_global .pref 0x188 (fun _ _ => rfl) (fun _ _ => rfl) (fun _ _ => rfl) h m
theorem cwb (h : Head) (m : GlobalMod) : Statement (.cwb h m) := of_global .cwb 0x189 (fun _ _ => rfl) (fun _ _ => rfl) (fun _ _ => rfl) h m
theorem leafwt (h : Head) (m : ScratchMod) : Statement (.leafwt h m) := of_scratch .leafwt 0x18A (fun _ _ => rfl) (fun _ _ => rfl) (fun _ _ => rfl) h m
theorem leaftst (h : Head) (m : ScratchMod) : Statement (.leaftst h m) := of_scratch .leaftst 0x18B (fun _ _ => rfl) (fun _ _ => rfl) (fun _ _ => rfl) h m
theorem atom (h : Head) (m : AtomicMod) : Statement (.atom h m) := of_atomic .atom 0x200 (fun _ _ => rfl) (fun _ _ => rfl) (fun _ _ => rfl) h m
theorem cas (h : Head) (m : AtomicMod) : Statement (.cas h m) := of_atomic .cas 0x201 (fun _ _ => rfl) (fun _ _ => rfl) (fun _ _ => rfl) h m
theorem red (h : Head) (m : AtomicMod) : Statement (.red h m) := of_atomic .red 0x202 (fun _ _ => rfl) (fun _ _ => rfl) (fun _ _ => rfl) h m
theorem fence (h : Head) (m : GlobalMod) : Statement (.fence h m) := of_global .fence 0x203 (fun _ _ => rfl) (fun _ _ => rfl) (fun _ _ => rfl) h m
theorem obres (h : Head) (m : EngineMod) : Statement (.obres h m) := of_engine .obres 0x280 (fun _ _ => rfl) (fun _ _ => rfl) (fun _ _ => rfl) h m
theorem obrel (h : Head) (m : EngineMod) : Statement (.obrel h m) := of_engine .obrel 0x281 (fun _ _ => rfl) (fun _ _ => rfl) (fun _ _ => rfl) h m
theorem mma (h : Head) (m : EngineMod) : Statement (.mma h m) := of_engine .mma 0x282 (fun _ _ => rfl) (fun _ _ => rfl) (fun _ _ => rfl) h m
theorem accz (h : Head) (m : EngineMod) : Statement (.accz h m) := of_engine .accz 0x283 (fun _ _ => rfl) (fun _ _ => rfl) (fun _ _ => rfl) h m
theorem accrd (h : Head) (m : EngineMod) : Statement (.accrd h m) := of_engine .accrd 0x284 (fun _ _ => rfl) (fun _ _ => rfl) (fun _ _ => rfl) h m
theorem ctab (h : Head) (m : EngineMod) : Statement (.ctab h m) := of_engine .ctab 0x285 (fun _ _ => rfl) (fun _ _ => rfl) (fun _ _ => rfl) h m
theorem tcopy (h : Head) (m : EngineMod) : Statement (.tcopy h m) := of_engine .tcopy 0x286 (fun _ _ => rfl) (fun _ _ => rfl) (fun _ _ => rfl) h m
theorem tgath (h : Head) (m : EngineMod) : Statement (.tgath h m) := of_engine .tgath 0x287 (fun _ _ => rfl) (fun _ _ => rfl) (fun _ _ => rfl) h m
theorem qpush (h : Head) (m : EngineMod) : Statement (.qpush h m) := of_engine .qpush 0x288 (fun _ _ => rfl) (fun _ _ => rfl) (fun _ _ => rfl) h m
theorem ctradd (h : Head) (m : EngineMod) : Statement (.ctradd h m) := of_engine .ctradd 0x289 (fun _ _ => rfl) (fun _ _ => rfl) (fun _ _ => rfl) h m
theorem ctrwait (h : Head) (m : EngineMod) : Statement (.ctrwait h m) := of_engine .ctrwait 0x28A (fun _ _ => rfl) (fun _ _ => rfl) (fun _ _ => rfl) h m
theorem ctrtest (h : Head) (m : EngineMod) : Statement (.ctrtest h m) := of_engine .ctrtest 0x28B (fun _ _ => rfl) (fun _ _ => rfl) (fun _ _ => rfl) h m
theorem bra (h : Head) (m : BranchMod) : Statement (.bra h m) := of_branch .bra 0x300 (fun _ _ => rfl) (fun _ _ => rfl) (fun _ _ => rfl) h m
theorem brx (h : Head) (m : SyncMod) : Statement (.brx h m) := of_sync .brx 0x301 (fun _ _ => rfl) (fun _ _ => rfl) (fun _ _ => rfl) h m
theorem call (h : Head) (m : BranchMod) : Statement (.call h m) := of_branch .call 0x302 (fun _ _ => rfl) (fun _ _ => rfl) (fun _ _ => rfl) h m
theorem callx (h : Head) (m : SyncMod) : Statement (.callx h m) := of_sync .callx 0x303 (fun _ _ => rfl) (fun _ _ => rfl) (fun _ _ => rfl) h m
theorem ret (h : Head) (m : SyncMod) : Statement (.ret h m) := of_sync .ret 0x304 (fun _ _ => rfl) (fun _ _ => rfl) (fun _ _ => rfl) h m
theorem nop (h : Head) (m : FoldMod) : Statement (.nop h m) := of_fold .nop 0x305 (fun _ _ => rfl) (fun _ _ => rfl) (fun _ _ => rfl) h m
theorem yieldN (h : Head) (m : SyncMod) : Statement (.yieldN h m) := of_sync .yieldN 0x306 (fun _ _ => rfl) (fun _ _ => rfl) (fun _ _ => rfl) h m
theorem sleep (h : Head) (m : SyncMod) : Statement (.sleep h m) := by
  refine of_map (o := 0x307) (l := .sync) rfl rfl (syncBits_raw m) (fun hw => ?_)
  have hc : (!decide (m.subop = 0)) = false := check_false (i := .sleep h m) (p := 0) rfl hw (List.mem_cons_self ..)
  have hs : m.subop = 0 := by simpa using hc
  show some ((if (readSync (syncBits m)).subop = 1 then .sleepReg h (readSync (syncBits m)) else .sleep h (readSync (syncBits m)) : Instr), Layout.sync) = _
  rw [readSync_syncBits, if_neg (by rw [hs]; decide)]
theorem sleepReg (h : Head) (m : SyncMod) : Statement (.sleepReg h m) := by
  refine of_map (o := 0x307) (l := .sync) rfl rfl (syncBits_raw m) (fun hw => ?_)
  have hc : (!decide (m.subop = 1)) = false := check_false (i := .sleepReg h m) (p := 0) rfl hw (List.mem_cons_self ..)
  have hs : m.subop = 1 := by simpa using hc
  show some ((if (readSync (syncBits m)).subop = 1 then .sleepReg h (readSync (syncBits m)) else .sleep h (readSync (syncBits m)) : Instr), Layout.sync) = _
  rw [readSync_syncBits, if_pos hs]
theorem voteAny (h : Head) (m : SyncMod) : Statement (.voteAny h m) := by
  refine of_map (o := 0x310) (l := .sync) rfl rfl (syncBits_raw m) (fun hw => ?_)
  have hc : (!decide (m.subop = 0)) = false := check_false (i := .voteAny h m) (p := 0) rfl hw (List.mem_cons_self ..)
  have hs : m.subop = 0 := by simpa using hc
  show some ((if (readSync (syncBits m)).subop = 1 then .voteAll h (readSync (syncBits m)) else if (readSync (syncBits m)).subop = 2 then .voteBallot h (readSync (syncBits m)) else if (readSync (syncBits m)).subop = 3 then .voteCount h (readSync (syncBits m)) else .voteAny h (readSync (syncBits m)) : Instr), Layout.sync) = _
  rw [readSync_syncBits, if_neg (by rw [hs]; decide), if_neg (by rw [hs]; decide), if_neg (by rw [hs]; decide)]
theorem voteAll (h : Head) (m : SyncMod) : Statement (.voteAll h m) := by
  refine of_map (o := 0x310) (l := .sync) rfl rfl (syncBits_raw m) (fun hw => ?_)
  have hc : (!decide (m.subop = 1)) = false := check_false (i := .voteAll h m) (p := 0) rfl hw (List.mem_cons_self ..)
  have hs : m.subop = 1 := by simpa using hc
  show some ((if (readSync (syncBits m)).subop = 1 then .voteAll h (readSync (syncBits m)) else if (readSync (syncBits m)).subop = 2 then .voteBallot h (readSync (syncBits m)) else if (readSync (syncBits m)).subop = 3 then .voteCount h (readSync (syncBits m)) else .voteAny h (readSync (syncBits m)) : Instr), Layout.sync) = _
  rw [readSync_syncBits, if_pos hs]
theorem voteBallot (h : Head) (m : SyncMod) : Statement (.voteBallot h m) := by
  refine of_map (o := 0x310) (l := .sync) rfl rfl (syncBits_raw m) (fun hw => ?_)
  have hc : (!decide (m.subop = 2)) = false := check_false (i := .voteBallot h m) (p := 0) rfl hw (List.mem_cons_self ..)
  have hs : m.subop = 2 := by simpa using hc
  show some ((if (readSync (syncBits m)).subop = 1 then .voteAll h (readSync (syncBits m)) else if (readSync (syncBits m)).subop = 2 then .voteBallot h (readSync (syncBits m)) else if (readSync (syncBits m)).subop = 3 then .voteCount h (readSync (syncBits m)) else .voteAny h (readSync (syncBits m)) : Instr), Layout.sync) = _
  rw [readSync_syncBits, if_neg (by rw [hs]; decide), if_pos hs]
theorem voteCount (h : Head) (m : SyncMod) : Statement (.voteCount h m) := by
  refine of_map (o := 0x310) (l := .sync) rfl rfl (syncBits_raw m) (fun hw => ?_)
  have hc : (!decide (m.subop = 3)) = false := check_false (i := .voteCount h m) (p := 0) rfl hw (List.mem_cons_self ..)
  have hs : m.subop = 3 := by simpa using hc
  show some ((if (readSync (syncBits m)).subop = 1 then .voteAll h (readSync (syncBits m)) else if (readSync (syncBits m)).subop = 2 then .voteBallot h (readSync (syncBits m)) else if (readSync (syncBits m)).subop = 3 then .voteCount h (readSync (syncBits m)) else .voteAny h (readSync (syncBits m)) : Instr), Layout.sync) = _
  rw [readSync_syncBits, if_neg (by rw [hs]; decide), if_neg (by rw [hs]; decide), if_pos hs]
theorem shfl (h : Head) (m : SyncMod) : Statement (.shfl h m) := of_sync .shfl 0x311 (fun _ _ => rfl) (fun _ _ => rfl) (fun _ _ => rfl) h m
theorem breduce (h : Head) (m : SyncMod) : Statement (.breduce h m) := of_sync .breduce 0x312 (fun _ _ => rfl) (fun _ _ => rfl) (fun _ _ => rfl) h m
theorem bscan (h : Head) (m : SyncMod) : Statement (.bscan h m) := of_sync .bscan 0x313 (fun _ _ => rfl) (fun _ _ => rfl) (fun _ _ => rfl) h m
theorem matchLead (h : Head) (m : SyncMod) : Statement (.matchLead h m) := by
  refine of_map (o := 0x314) (l := .sync) rfl rfl (syncBits_raw m) (fun hw => ?_)
  have hc : (!decide (m.subop = 0)) = false := check_false (i := .matchLead h m) (p := 0) rfl hw (List.mem_cons_self ..)
  have hs : m.subop = 0 := by simpa using hc
  show some ((if (readSync (syncBits m)).subop = 1 then .matchUni h (readSync (syncBits m)) else .matchLead h (readSync (syncBits m)) : Instr), Layout.sync) = _
  rw [readSync_syncBits, if_neg (by rw [hs]; decide)]
theorem matchUni (h : Head) (m : SyncMod) : Statement (.matchUni h m) := by
  refine of_map (o := 0x314) (l := .sync) rfl rfl (syncBits_raw m) (fun hw => ?_)
  have hc : (!decide (m.subop = 1)) = false := check_false (i := .matchUni h m) (p := 0) rfl hw (List.mem_cons_self ..)
  have hs : m.subop = 1 := by simpa using hc
  show some ((if (readSync (syncBits m)).subop = 1 then .matchUni h (readSync (syncBits m)) else .matchLead h (readSync (syncBits m)) : Instr), Layout.sync) = _
  rw [readSync_syncBits, if_pos hs]
theorem bsync (h : Head) (m : SyncMod) : Statement (.bsync h m) := by
  refine of_map (o := 0x315) (l := .sync) rfl rfl (syncBits_raw m) (fun hw => ?_)
  have hc : (!decide (m.subop = 0)) = false := check_false (i := .bsync h m) (p := 0) rfl hw (List.mem_cons_self ..)
  have hs : m.subop = 0 := by simpa using hc
  show some ((if (readSync (syncBits m)).subop = 1 then .bsyncMask h (readSync (syncBits m)) else .bsync h (readSync (syncBits m)) : Instr), Layout.sync) = _
  rw [readSync_syncBits, if_neg (by rw [hs]; decide)]
theorem bsyncMask (h : Head) (m : SyncMod) : Statement (.bsyncMask h m) := by
  refine of_map (o := 0x315) (l := .sync) rfl rfl (syncBits_raw m) (fun hw => ?_)
  have hc : (!decide (m.subop = 1)) = false := check_false (i := .bsyncMask h m) (p := 0) rfl hw (List.mem_cons_self ..)
  have hs : m.subop = 1 := by simpa using hc
  show some ((if (readSync (syncBits m)).subop = 1 then .bsyncMask h (readSync (syncBits m)) else .bsync h (readSync (syncBits m)) : Instr), Layout.sync) = _
  rw [readSync_syncBits, if_pos hs]
theorem baralloc (h : Head) (m : SyncMod) : Statement (.baralloc h m) := by
  refine of_map (o := 0x320) (l := .sync) rfl rfl (syncBits_raw m) (fun hw => ?_)
  have hc : (!decide (m.subop = 0)) = false := check_false (i := .baralloc h m) (p := 0) rfl hw (List.mem_cons_self ..)
  have hs : m.subop = 0 := by simpa using hc
  show some ((if (readSync (syncBits m)).subop = 1 then .barallocImm h (readSync (syncBits m)) else .baralloc h (readSync (syncBits m)) : Instr), Layout.sync) = _
  rw [readSync_syncBits, if_neg (by rw [hs]; decide)]
theorem barallocImm (h : Head) (m : SyncMod) : Statement (.barallocImm h m) := by
  refine of_map (o := 0x320) (l := .sync) rfl rfl (syncBits_raw m) (fun hw => ?_)
  have hc : (!decide (m.subop = 1)) = false := check_false (i := .barallocImm h m) (p := 0) rfl hw (List.mem_cons_self ..)
  have hs : m.subop = 1 := by simpa using hc
  show some ((if (readSync (syncBits m)).subop = 1 then .barallocImm h (readSync (syncBits m)) else .baralloc h (readSync (syncBits m)) : Instr), Layout.sync) = _
  rw [readSync_syncBits, if_pos hs]
theorem barfree (h : Head) (m : SyncMod) : Statement (.barfree h m) := of_sync .barfree 0x321 (fun _ _ => rfl) (fun _ _ => rfl) (fun _ _ => rfl) h m
theorem bararv (h : Head) (m : SyncMod) : Statement (.bararv h m) := of_sync .bararv 0x322 (fun _ _ => rfl) (fun _ _ => rfl) (fun _ _ => rfl) h m
theorem barwt (h : Head) (m : SyncMod) : Statement (.barwt h m) := of_sync .barwt 0x323 (fun _ _ => rfl) (fun _ _ => rfl) (fun _ _ => rfl) h m
theorem barsync (h : Head) (m : SyncMod) : Statement (.barsync h m) := of_sync .barsync 0x324 (fun _ _ => rfl) (fun _ _ => rfl) (fun _ _ => rfl) h m
theorem futset (h : Head) (m : SyncMod) : Statement (.futset h m) := by
  refine of_map (o := 0x328) (l := .sync) rfl rfl (syncBits_raw m) (fun hw => ?_)
  have hc : (!decide (m.subop = 0)) = false := check_false (i := .futset h m) (p := 0) rfl hw (List.mem_cons_self ..)
  have hs : m.subop = 0 := by simpa using hc
  show some ((if (readSync (syncBits m)).subop = 1 then .futsetFail h (readSync (syncBits m)) else .futset h (readSync (syncBits m)) : Instr), Layout.sync) = _
  rw [readSync_syncBits, if_neg (by rw [hs]; decide)]
theorem futsetFail (h : Head) (m : SyncMod) : Statement (.futsetFail h m) := by
  refine of_map (o := 0x328) (l := .sync) rfl rfl (syncBits_raw m) (fun hw => ?_)
  have hc : (!decide (m.subop = 1)) = false := check_false (i := .futsetFail h m) (p := 0) rfl hw (List.mem_cons_self ..)
  have hs : m.subop = 1 := by simpa using hc
  show some ((if (readSync (syncBits m)).subop = 1 then .futsetFail h (readSync (syncBits m)) else .futset h (readSync (syncBits m)) : Instr), Layout.sync) = _
  rw [readSync_syncBits, if_pos hs]
theorem futwaitPark (h : Head) (m : SyncMod) : Statement (.futwaitPark h m) := by
  refine of_map (o := 0x329) (l := .sync) rfl rfl (syncBits_raw m) (fun hw => ?_)
  have hc : (!decide (m.subop = 0)) = false := check_false (i := .futwaitPark h m) (p := 0) rfl hw (List.mem_cons_self ..)
  have hs : m.subop = 0 := by simpa using hc
  show some ((if (readSync (syncBits m)).subop = 1 then .futwaitCont h (readSync (syncBits m)) else .futwaitPark h (readSync (syncBits m)) : Instr), Layout.sync) = _
  rw [readSync_syncBits, if_neg (by rw [hs]; decide)]
theorem futwaitCont (h : Head) (m : SyncMod) : Statement (.futwaitCont h m) := by
  refine of_map (o := 0x329) (l := .sync) rfl rfl (syncBits_raw m) (fun hw => ?_)
  have hc : (!decide (m.subop = 1)) = false := check_false (i := .futwaitCont h m) (p := 0) rfl hw (List.mem_cons_self ..)
  have hs : m.subop = 1 := by simpa using hc
  show some ((if (readSync (syncBits m)).subop = 1 then .futwaitCont h (readSync (syncBits m)) else .futwaitPark h (readSync (syncBits m)) : Instr), Layout.sync) = _
  rw [readSync_syncBits, if_pos hs]
theorem futtest (h : Head) (m : SyncMod) : Statement (.futtest h m) := of_sync .futtest 0x32A (fun _ _ => rfl) (fun _ _ => rfl) (fun _ _ => rfl) h m
theorem fspawn (h : Head) (m : SyncMod) : Statement (.fspawn h m) := of_sync .fspawn 0x330 (fun _ _ => rfl) (fun _ _ => rfl) (fun _ _ => rfl) h m
theorem ffork (h : Head) (m : SyncMod) : Statement (.ffork h m) := by
  refine of_map (o := 0x331) (l := .sync) rfl rfl (syncBits_raw m) (fun hw => ?_)
  have hc : (!decide (m.subop = 0)) = false := check_false (i := .ffork h m) (p := 0) rfl hw (List.mem_cons_self ..)
  have hs : m.subop = 0 := by simpa using hc
  show some ((if (readSync (syncBits m)).subop = 1 then .fforkImm h (readSync (syncBits m)) else .ffork h (readSync (syncBits m)) : Instr), Layout.sync) = _
  rw [readSync_syncBits, if_neg (by rw [hs]; decide)]
theorem fforkImm (h : Head) (m : SyncMod) : Statement (.fforkImm h m) := by
  refine of_map (o := 0x331) (l := .sync) rfl rfl (syncBits_raw m) (fun hw => ?_)
  have hc : (!decide (m.subop = 1)) = false := check_false (i := .fforkImm h m) (p := 0) rfl hw (List.mem_cons_self ..)
  have hs : m.subop = 1 := by simpa using hc
  show some ((if (readSync (syncBits m)).subop = 1 then .fforkImm h (readSync (syncBits m)) else .ffork h (readSync (syncBits m)) : Instr), Layout.sync) = _
  rw [readSync_syncBits, if_pos hs]
theorem fend (h : Head) (m : SyncMod) : Statement (.fend h m) := of_sync .fend 0x332 (fun _ _ => rfl) (fun _ _ => rfl) (fun _ _ => rfl) h m
theorem grow (h : Head) (m : SyncMod) : Statement (.grow h m) := of_sync .grow 0x333 (fun _ _ => rfl) (fun _ _ => rfl) (fun _ _ => rfl) h m
theorem shrink (h : Head) (m : SyncMod) : Statement (.shrink h m) := of_sync .shrink 0x334 (fun _ _ => rfl) (fun _ _ => rfl) (fun _ _ => rfl) h m
theorem launch (h : Head) (m : SyncMod) : Statement (.launch h m) := of_sync .launch 0x335 (fun _ _ => rfl) (fun _ _ => rfl) (fun _ _ => rfl) h m
theorem phregCreate (h : Head) (m : SyncMod) : Statement (.phregCreate h m) := by
  refine of_map (o := 0x338) (l := .sync) rfl rfl (syncBits_raw m) (fun hw => ?_)
  have hc : (!(m.subop.getLsbD 2 && !m.subop.getLsbD 3)) = false := check_false (i := .phregCreate h m) (p := 0) rfl hw (List.mem_cons_self ..)
  have hs : m.subop.getLsbD 2 = true := by cases e : m.subop.getLsbD 2 <;> simp_all
  show some ((if (readSync (syncBits m)).subop.getLsbD 2 then .phregCreate h (readSync (syncBits m)) else .phregJoin h (readSync (syncBits m)) : Instr), Layout.sync) = _
  rw [readSync_syncBits, if_pos hs]
theorem phregJoin (h : Head) (m : SyncMod) : Statement (.phregJoin h m) := by
  refine of_map (o := 0x338) (l := .sync) rfl rfl (syncBits_raw m) (fun hw => ?_)
  have hc : (!decide (m.subop.toNat < 4)) = false := check_false (i := .phregJoin h m) (p := 0) rfl hw (List.mem_cons_self ..)
  have hs : ¬ m.subop.getLsbD 2 = true := by
    have h4 : m.subop.toNat < 4 := by simpa using hc
    intro e
    rw [BitVec.getLsbD, Nat.testBit_eq_decide_div_mod_eq, Nat.div_eq_of_lt (by omega)] at e
    simp at e
  show some ((if (readSync (syncBits m)).subop.getLsbD 2 then .phregCreate h (readSync (syncBits m)) else .phregJoin h (readSync (syncBits m)) : Instr), Layout.sync) = _
  rw [readSync_syncBits, if_neg hs]
theorem phdrop (h : Head) (m : SyncMod) : Statement (.phdrop h m) := of_sync .phdrop 0x339 (fun _ _ => rfl) (fun _ _ => rfl) (fun _ _ => rfl) h m
theorem phsig (h : Head) (m : SyncMod) : Statement (.phsig h m) := of_sync .phsig 0x33A (fun _ _ => rfl) (fun _ _ => rfl) (fun _ _ => rfl) h m
theorem phwait (h : Head) (m : SyncMod) : Statement (.phwait h m) := of_sync .phwait 0x33B (fun _ _ => rfl) (fun _ _ => rfl) (fun _ _ => rfl) h m
theorem phany (h : Head) (m : SyncMod) : Statement (.phany h m) := of_sync .phany 0x33C (fun _ _ => rfl) (fun _ _ => rfl) (fun _ _ => rfl) h m
theorem phtest (h : Head) (m : SyncMod) : Statement (.phtest h m) := by
  refine of_map (o := 0x33D) (l := .sync) rfl rfl (syncBits_raw m) (fun hw => ?_)
  have hc : (!decide (m.subop = 0)) = false := check_false (i := .phtest h m) (p := 0) rfl hw (List.mem_cons_self ..)
  have hs : m.subop = 0 := by simpa using hc
  show some ((if (readSync (syncBits m)).subop = 1 then .phtestRd h (readSync (syncBits m)) else .phtest h (readSync (syncBits m)) : Instr), Layout.sync) = _
  rw [readSync_syncBits, if_neg (by rw [hs]; decide)]
theorem phtestRd (h : Head) (m : SyncMod) : Statement (.phtestRd h m) := by
  refine of_map (o := 0x33D) (l := .sync) rfl rfl (syncBits_raw m) (fun hw => ?_)
  have hc : (!decide (m.subop = 1)) = false := check_false (i := .phtestRd h m) (p := 0) rfl hw (List.mem_cons_self ..)
  have hs : m.subop = 1 := by simpa using hc
  show some ((if (readSync (syncBits m)).subop = 1 then .phtestRd h (readSync (syncBits m)) else .phtest h (readSync (syncBits m)) : Instr), Layout.sync) = _
  rw [readSync_syncBits, if_pos hs]
theorem trap (h : Head) (m : SystemMod) : Statement (.trap h m) := of_system .trap 0x380 (fun _ _ => rfl) (fun _ _ => rfl) (fun _ _ => rfl) h m
theorem sysc (h : Head) (m : SystemMod) : Statement (.sysc h m) := of_system .sysc 0x381 (fun _ _ => rfl) (fun _ _ => rfl) (fun _ _ => rfl) h m
theorem rett (h : Head) (m : SystemMod) : Statement (.rett h m) := by
  refine of_map (o := 0x382) (l := .system) rfl rfl (systemBits_raw m) (fun hw => ?_)
  have hc : (!decide (m.code = 0)) = false := check_false (i := .rett h m) (p := 8) rfl hw (List.mem_cons_of_mem _ (List.mem_cons_self ..))
  have hs : m.code = 0 := by simpa using hc
  show some ((if (readSystem (systemBits m)).code = 1 then .rettNext h (readSystem (systemBits m)) else .rett h (readSystem (systemBits m)) : Instr), Layout.system) = _
  rw [readSystem_systemBits, if_neg (by rw [hs]; decide)]
theorem rettNext (h : Head) (m : SystemMod) : Statement (.rettNext h m) := by
  refine of_map (o := 0x382) (l := .system) rfl rfl (systemBits_raw m) (fun hw => ?_)
  have hc : (!decide (m.code = 1)) = false := check_false (i := .rettNext h m) (p := 8) rfl hw (List.mem_cons_of_mem _ (List.mem_cons_self ..))
  have hs : m.code = 1 := by simpa using hc
  show some ((if (readSystem (systemBits m)).code = 1 then .rettNext h (readSystem (systemBits m)) else .rett h (readSystem (systemBits m)) : Instr), Layout.system) = _
  rw [readSystem_systemBits, if_pos hs]
theorem mts (h : Head) (m : SystemMod) : Statement (.mts h m) := of_system .mts 0x383 (fun _ _ => rfl) (fun _ _ => rfl) (fun _ _ => rfl) h m
theorem mfs (h : Head) (m : SystemMod) : Statement (.mfs h m) := of_system .mfs 0x384 (fun _ _ => rfl) (fun _ _ => rfl) (fun _ _ => rfl) h m
theorem evpop (h : Head) (m : SystemMod) : Statement (.evpop h m) := of_system .evpop 0x385 (fun _ _ => rfl) (fun _ _ => rfl) (fun _ _ => rfl) h m
theorem wfe (h : Head) (m : SystemMod) : Statement (.wfe h m) := of_system .wfe 0x386 (fun _ _ => rfl) (fun _ _ => rfl) (fun _ _ => rfl) h m
theorem icinv (h : Head) (m : SystemMod) : Statement (.icinv h m) := of_system .icinv 0x387 (fun _ _ => rfl) (fun _ _ => rfl) (fun _ _ => rfl) h m
theorem xinv (h : Head) (m : SystemMod) : Statement (.xinv h m) := of_system .xinv 0x388 (fun _ _ => rfl) (fun _ _ => rfl) (fun _ _ => rfl) h m
theorem jksave (h : Head) (m : SystemMod) : Statement (.jksave h m) := of_system .jksave 0x389 (fun _ _ => rfl) (fun _ _ => rfl) (fun _ _ => rfl) h m
theorem jkload (h : Head) (m : SystemMod) : Statement (.jkload h m) := of_system .jkload 0x38A (fun _ _ => rfl) (fun _ _ => rfl) (fun _ _ => rfl) h m
theorem bkpt (h : Head) (m : SystemMod) : Statement (.bkpt h m) := of_system .bkpt 0x38B (fun _ _ => rfl) (fun _ _ => rfl) (fun _ _ => rfl) h m
theorem haltc (h : Head) (m : SystemMod) : Statement (.haltc h m) := of_system .haltc 0x38C (fun _ _ => rfl) (fun _ _ => rfl) (fun _ _ => rfl) h m

/-- An opcode outside the map has no entry in it (R124). -/
theorem unassigned {n : Nat} (hn : opcodeAssigned n = false) (h : Head) (m : BitVec 37) : opcodeMap n h m = none := by
  cases e : opcodeMap n h m with
  | none => rfl
  | some x =>
    exfalso
    revert hn
    unfold opcodeMap at e
    split at e
    · unfold intGroupOf at e; split at e <;> first | cases e; done | simp [opcodeAssigned]
    · unfold floatGroupOf at e; split at e <;> first | cases e; done | simp [opcodeAssigned]
    · unfold convGroupOf at e; split at e <;> first | cases e; done | simp [opcodeAssigned]
    · unfold memoryGroupOf at e; split at e <;> first | cases e; done | simp [opcodeAssigned]
    · unfold atomicGroupOf at e; split at e <;> first | cases e; done | simp [opcodeAssigned]
    · unfold engineGroupOf at e; split at e <;> first | cases e; done | simp [opcodeAssigned]
    · unfold syncGroupOf at e; split at e <;> first | cases e; done | simp [opcodeAssigned]
    · unfold systemGroupOf at e; split at e <;> first | cases e; done | simp [opcodeAssigned]
    · cases e
theorem unassignedOpcode (w : BitVec 96) : Statement (.unassignedOpcode w) := by
  intro hw v e
  cases Option.some.inj e
  have : opcodeAssigned (opcodeOf w) = false := by simpa [Instr.wf] using hw
  rw [decode, unassigned this]

theorem lineFill (tid : Nat) (fid : Nat) : Statement (.lineFill tid fid) := fun _ _ e => by cases e
theorem bandSplit (tid : Nat) (band : Nat) : Statement (.bandSplit tid band) := fun _ _ e => by cases e
theorem resultArrival (tid : Nat) (fid : Nat) (id : Nat) : Statement (.resultArrival tid fid id) := fun _ _ e => by cases e
theorem yieldExpiry (tid : Nat) (fid : Nat) : Statement (.yieldExpiry tid fid) := fun _ _ e => by cases e
theorem sleepExpiry (tid : Nat) (fid : Nat) : Statement (.sleepExpiry tid fid) := fun _ _ e => by cases e
theorem longWaitExpiry (tid : Nat) : Statement (.longWaitExpiry tid) := fun _ _ e => by cases e
theorem growDeadlockJacket (pkg : Nat) (core : Nat) : Statement (.growDeadlockJacket pkg core) := fun _ _ e => by cases e
theorem growGrant (tid : Nat) (fid : Nat) : Statement (.growGrant tid fid) := fun _ _ e => by cases e
theorem fforkGrant (tid : Nat) (fid : Nat) : Statement (.fforkGrant tid fid) := fun _ _ e => by cases e
theorem jacketSave (tid : Nat) : Statement (.jacketSave tid) := fun _ _ e => by cases e
theorem jacketRestore (tid : Nat) : Statement (.jacketRestore tid) := fun _ _ e => by cases e
theorem foldStop (tid : Nat) (fid : Nat) : Statement (.foldStop tid fid) := fun _ _ e => by cases e
theorem graceExpiry (pkg : Nat) (part : Nat) : Statement (.graceExpiry pkg part) := fun _ _ e => by cases e
theorem teamPlace (launch : Nat) (cores : List Nat) : Statement (.teamPlace launch cores) := fun _ _ e => by cases e
theorem teamEnd (tid : Nat) : Statement (.teamEnd tid) := fun _ _ e => by cases e
theorem launchRecordCheck (launch : Nat) : Statement (.launchRecordCheck launch) := fun _ _ e => by cases e
theorem launchAccept (launch : Nat) : Statement (.launchAccept launch) := fun _ _ e => by cases e
theorem launchPreFault (launch : Nat) : Statement (.launchPreFault launch) := fun _ _ e => by cases e
theorem launchComplete (launch : Nat) : Statement (.launchComplete launch) := fun _ _ e => by cases e
theorem spawnBinTimeout (pkg : Nat) (core : Nat) (bin : Nat) : Statement (.spawnBinTimeout pkg core bin) := fun _ _ e => by cases e
theorem spawnTeamPlace (pkg : Nat) (core : Nat) (bin : Nat) : Statement (.spawnTeamPlace pkg core bin) := fun _ _ e => by cases e
theorem continuationDeliver (id : Nat) : Statement (.continuationDeliver id) := fun _ _ e => by cases e
theorem engineCommandComplete (id : Nat) : Statement (.engineCommandComplete id) := fun _ _ e => by cases e
theorem engineAbort (id : Nat) : Statement (.engineAbort id) := fun _ _ e => by cases e
theorem neighbourFetch (id : Nat) (opB : Bool) : Statement (.neighbourFetch id opB) := fun _ _ e => by cases e
theorem ctabTableWrite (id : Nat) : Statement (.ctabTableWrite id) := fun _ _ e => by cases e
theorem obRangeReturn (pkg : Nat) (core : Nat) (num : Nat) : Statement (.obRangeReturn pkg core num) := fun _ _ e => by cases e
theorem drain (id : Nat) : Statement (.drain id) := fun _ _ e => by cases e
theorem register (id : Nat) : Statement (.register id) := fun _ _ e => by cases e
theorem acknowledge (id : Nat) : Statement (.acknowledge id) := fun _ _ e => by cases e
theorem read (id : Nat) : Statement (.read id) := fun _ _ e => by cases e
theorem fill (pkg : Nat) (core : Nat) (ia : Nat) : Statement (.fill pkg core ia) := fun _ _ e => by cases e
theorem writeBack (pkg : Nat) (core : Nat) (ia : Nat) : Statement (.writeBack pkg core ia) := fun _ _ e => by cases e
theorem ageOut (pkg : Nat) (core : Nat) (ia : Nat) : Statement (.ageOut pkg core ia) := fun _ _ e => by cases e
theorem atomicStep (id : Nat) : Statement (.atomicStep id) := fun _ _ e => by cases e
theorem tileStep (id : Nat) : Statement (.tileStep id) := fun _ _ e => by cases e
theorem deliver (id : Nat) : Statement (.deliver id) := fun _ _ e => by cases e
theorem releaseComplete (tid : Nat) (fid : Nat) (seq : Nat) : Statement (.releaseComplete tid fid seq) := fun _ _ e => by cases e
theorem claspGrant (pkg : Nat) (line : Nat) : Statement (.claspGrant pkg line) := fun _ _ e => by cases e
theorem parkLimit (pkg : Nat) (page : Nat) : Statement (.parkLimit pkg page) := fun _ _ e => by cases e
theorem pgready (pkg : Nat) (part : Nat) (page : Nat) : Statement (.pgready pkg part page) := fun _ _ e => by cases e
theorem ingressLeaseExpiry (pkg : Nat) (line : Nat) : Statement (.ingressLeaseExpiry pkg line) := fun _ _ e => by cases e
theorem packetTake (pkg : Nat) (part : Nat) (queue : Nat) (engine : Nat) : Statement (.packetTake pkg part queue engine) := fun _ _ e => by cases e
theorem copyChunk (id : Nat) : Statement (.copyChunk id) := fun _ _ e => by cases e
theorem packetFinish (id : Nat) : Statement (.packetFinish id) := fun _ _ e => by cases e
theorem chainHop (id : Nat) : Statement (.chainHop id) := fun _ _ e => by cases e
theorem frontEndPacketTake (pkg : Nat) (part : Nat) (queue : Nat) : Statement (.frontEndPacketTake pkg part queue) := fun _ _ e => by cases e
theorem spawnPacketTake (pkg : Nat) (part : Nat) (queue : Nat) (core : Nat) : Statement (.spawnPacketTake pkg part queue core) := fun _ _ e => by cases e
theorem boundArrivalRelease (id : Nat) : Statement (.boundArrivalRelease id) := fun _ _ e => by cases e
theorem stitchArrival (id : Nat) : Statement (.stitchArrival id) := fun _ _ e => by cases e
theorem phaseBroadcast (id : Nat) : Statement (.phaseBroadcast id) := fun _ _ e => by cases e
theorem stitchJoin (id : Nat) : Statement (.stitchJoin id) := fun _ _ e => by cases e
theorem stitchDrop (id : Nat) : Statement (.stitchDrop id) := fun _ _ e => by cases e
theorem stitchLinkFail (pkg : Nat) : Statement (.stitchLinkFail pkg) := fun _ _ e => by cases e
theorem flitReceive (pkg : Nat) (port : Nat) (flit : Flit) : Statement (.flitReceive pkg port flit) := fun _ _ e => by cases e
theorem replayRequest (pkg : Nat) (port : Nat) (lack : Nat) : Statement (.replayRequest pkg port lack) := fun _ _ e => by cases e
theorem laneFail (pkg : Nat) (port : Nat) (lane : Nat) : Statement (.laneFail pkg port lane) := fun _ _ e => by cases e
theorem portRetrain (pkg : Nat) (port : Nat) : Statement (.portRetrain pkg port) := fun _ _ e => by cases e
theorem messageReceive (id : Nat) : Statement (.messageReceive id) := fun _ _ e => by cases e
theorem e2eRetryTimeout (id : Nat) : Statement (.e2eRetryTimeout id) := fun _ _ e => by cases e
theorem get (id : Nat) : Statement (.get id) := fun _ _ e => by cases e
theorem getx (id : Nat) : Statement (.getx id) := fun _ _ e => by cases e
theorem reg (id : Nat) : Statement (.reg id) := fun _ _ e => by cases e
theorem wb (id : Nat) : Statement (.wb id) := fun _ _ e => by cases e
theorem stale (id : Nat) : Statement (.stale id) := fun _ _ e => by cases e
theorem draw (id : Nat) : Statement (.draw id) := fun _ _ e => by cases e
theorem atm (id : Nat) : Statement (.atm id) := fun _ _ e => by cases e
theorem clasp (id : Nat) : Statement (.clasp id) := fun _ _ e => by cases e
theorem unclasp (id : Nat) : Statement (.unclasp id) := fun _ _ e => by cases e
theorem chain (id : Nat) : Statement (.chain id) := fun _ _ e => by cases e
theorem lease (id : Nat) : Statement (.lease id) := fun _ _ e => by cases e
theorem data (id : Nat) : Statement (.data id) := fun _ _ e => by cases e
theorem ack (id : Nat) : Statement (.ack id) := fun _ _ e => by cases e
theorem nack (id : Nat) : Statement (.nack id) := fun _ _ e => by cases e
theorem redirect (id : Nat) : Statement (.redirect id) := fun _ _ e => by cases e
theorem srseedWrite (pkg : Nat) (core : Nat) (v : Word) : Statement (.srseedWrite pkg core v) := fun _ _ e => by cases e
theorem preqSave (pkg : Nat) (part : Nat) : Statement (.preqSave pkg part) := fun _ _ e => by cases e
theorem preqResume (pkg : Nat) (part : Nat) : Statement (.preqResume pkg part) := fun _ _ e => by cases e
theorem leaseOpen (pkg : Nat) (index : Nat) : Statement (.leaseOpen pkg index) := fun _ _ e => by cases e
theorem leaseRecallCmd (pkg : Nat) (index : Nat) : Statement (.leaseRecallCmd pkg index) := fun _ _ e => by cases e
theorem leaseClose (pkg : Nat) (index : Nat) : Statement (.leaseClose pkg index) := fun _ _ e => by cases e
theorem leaseSpill (pkg : Nat) (index : Nat) : Statement (.leaseSpill pkg index) := fun _ _ e => by cases e
theorem tierClockStep (pkg : Nat) (tier : Nat) : Statement (.tierClockStep pkg tier) := fun _ _ e => by cases e
theorem pageDemote (pkg : Nat) (tier : Nat) (record : Nat) : Statement (.pageDemote pkg tier record) := fun _ _ e => by cases e
theorem meterSnap (pkg : Nat) (part : Nat) : Statement (.meterSnap pkg part) := fun _ _ e => by cases e
theorem spdmGetMeasurements (pkg : Nat) (part : Nat) (index : Nat) (signed : Bool) : Statement (.spdmGetMeasurements pkg part index signed) := fun _ _ e => by cases e
theorem partitionEnable (pkg : Nat) (part : Nat) (v : Word) : Statement (.partitionEnable pkg part v) := fun _ _ e => by cases e
theorem partitionDisable (pkg : Nat) (part : Nat) (v : Word) : Statement (.partitionDisable pkg part v) := fun _ _ e => by cases e
theorem pbandWrite (pkg : Nat) (part : Nat) (v : Dword) : Statement (.pbandWrite pkg part v) := fun _ _ e => by cases e
theorem partitionNarrow (pkg : Nat) (part : Nat) (field : NarrowField) (v : Dword) : Statement (.partitionNarrow pkg part field v) := fun _ _ e => by cases e
theorem queueBind (pkg : Nat) (part : Nat) (field : BindField) (v : Dword) : Statement (.queueBind pkg part field v) := fun _ _ e => by cases e
theorem fpctlWrite (pkg : Nat) (v : Word) : Statement (.fpctlWrite pkg v) := fun _ _ e => by cases e
theorem fpoolWrite (pkg : Nat) (v : Word) : Statement (.fpoolWrite pkg v) := fun _ _ e => by cases e
theorem ffloorWrite (pkg : Nat) (v : Word) : Statement (.ffloorWrite pkg v) := fun _ _ e => by cases e
theorem snctlWrite (pkg : Nat) (v : Word) : Statement (.snctlWrite pkg v) := fun _ _ e => by cases e
theorem colctlUnfreeze (pkg : Nat) : Statement (.colctlUnfreeze pkg) := fun _ _ e => by cases e
theorem timeSliceExpiry (pkg : Nat) (group : Nat) : Statement (.timeSliceExpiry pkg group) := fun _ _ e => by cases e
theorem bandwidthWindow (pkg : Nat) : Statement (.bandwidthWindow pkg) := fun _ _ e => by cases e
theorem hbmRequestStart (pkg : Nat) (group : Nat) : Statement (.hbmRequestStart pkg group) := fun _ _ e => by cases e
theorem correctedError (pkg : Nat) (part : Nat) (core : Nat) : Statement (.correctedError pkg part core) := fun _ _ e => by cases e
theorem uncorrectableError (pkg : Nat) (place : ErrPlace) : Statement (.uncorrectableError pkg place) := fun _ _ e => by cases e
theorem patrolScrub (pkg : Nat) (word : Nat) (outcome : ScrubOutcome) : Statement (.patrolScrub pkg word outcome) := fun _ _ e => by cases e
theorem llcTagParityError (pkg : Nat) (ia : Nat) (owned1 : Bool) (owned2 : Bool) : Statement (.llcTagParityError pkg ia owned1 owned2) := fun _ _ e => by cases e
theorem fatalDump (pkg : Nat) : Statement (.fatalDump pkg) := fun _ _ e => by cases e
theorem thermalLimit (pkg : Nat) (temp : Nat) (overPower : Bool) : Statement (.thermalLimit pkg temp overPower) := fun _ _ e => by cases e
theorem powerFault (pkg : Nat) : Statement (.powerFault pkg) := fun _ _ e => by cases e
theorem watchdogExpiry (pkg : Nat) : Statement (.watchdogExpiry pkg) := fun _ _ e => by cases e
theorem coldReset (pkg : Nat) (fault : BootFault) : Statement (.coldReset pkg fault) := fun _ _ e => by cases e
theorem warmReset (pkg : Nat) (cause : Nat) (fault : BootFault) : Statement (.warmReset pkg cause fault) := fun _ _ e => by cases e
theorem functionLevelReset (pkg : Nat) (part : Nat) : Statement (.functionLevelReset pkg part) := fun _ _ e => by cases e
theorem hostLinkTraining (pkg : Nat) (up : HostLink) (accepts : Bool) : Statement (.hostLinkTraining pkg up accepts) := fun _ _ e => by cases e
theorem hostAccess (pkg : Nat) (addr : Nat) (size : Nat) (write : Option Dword) : Statement (.hostAccess pkg addr size write) := fun _ _ e => by cases e
theorem coreResume (pkg : Nat) (core : Nat) : Statement (.coreResume pkg core) := fun _ _ e => by cases e
theorem stitchLinkUp (pkg : Nat) (linkB : Bool) : Statement (.stitchLinkUp pkg linkB) := fun _ _ e => by cases e
theorem stitchNodeFail (pkg : Nat) (node : Nat) : Statement (.stitchNodeFail pkg node) := fun _ _ e => by cases e
theorem expanderFatalError (pkg : Nat) : Statement (.expanderFatalError pkg) := fun _ _ e => by cases e
theorem throttleEnd (pkg : Nat) : Statement (.throttleEnd pkg) := fun _ _ e => by cases e

end Sys2Proof.Laws.Recoded
end

