-- ==== Sys2Proof/Laws/Traps.lean ====
section
/-! SUPPORT. The pieces of taking a trap (R327, R329) and of a lane that traps: the copies of the trap registers, the events that go with
it, and which fibres an event or a halt leaves alone. -/

namespace Sys2Proof.Machine

theorem Fibre.copy_setCopy (f : Fibre) (l k : Level) (r : TrapRegs) : (f.setCopy l r).copy k = if k = l then r else f.copy k := by
  cases l <;> cases k <;> rfl
@[simp] theorem Fibre.setCopy_fid (f : Fibre) (l : Level) (r : TrapRegs) : (f.setCopy l r).fid = f.fid := by cases l <;> rfl
@[simp] theorem Fibre.setCopy_pc (f : Fibre) (l : Level) (r : TrapRegs) : (f.setCopy l r).pc = f.pc := by cases l <;> rfl
@[simp] theorem Fibre.setCopy_regs (f : Fibre) (l : Level) (r : TrapRegs) : (f.setCopy l r).regs = f.regs := by cases l <;> rfl
@[simp] theorem Fibre.settle_fid (f : Fibre) : f.settle.fid = f.fid := rfl
@[simp] theorem Fibre.settle_pc (f : Fibre) : f.settle.pc = f.pc := rfl
@[simp] theorem Fibre.copy_settle (f : Fibre) (l : Level) : f.settle.copy l = f.copy l := by cases l <;> rfl

theorem lostEvents_other (s : State) (l : Lane) (c : Cause.Code) (h1 : c ≠ Cause.storeDeferred) (h2 : c ≠ Cause.engFault) :
    s.lostEvents l c = s := by simp [State.lostEvents, h1, h2]
@[simp] theorem logEvent_teams (s : State) (pkg part : Nat) (e : Event) : (s.logEvent pkg part e).teams = s.teams := by
  unfold State.logEvent; split <;> rfl
@[simp] theorem monitorEvent_teams (s : State) (pkg : Nat) (e : Event) (part : Nat) : (s.monitorEvent pkg e part).teams = s.teams := by
  rw [State.monitorEvent]; exact logEvent_teams s pkg part e
@[simp] theorem supervisorEvent_teams (s : State) (p : Nat) (e : Event) : (s.supervisorEvent p e).teams = s.teams := by
  rw [State.supervisorEvent]; exact logEvent_teams s _ _ e
@[simp] theorem sendEvent_teams (s : State) (p : Nat) (e : Event) : (s.sendEvent p e).teams = s.teams := by
  unfold State.sendEvent; split <;> simp
theorem fibre?_of_teams (s t : State) (h : t.teams = s.teams) (k : Lane) : t.fibre? k = s.fibre? k := by
  simp [State.fibre?, State.team?, h]
theorem haltFibre_fibre? (s : State) (l k : Lane) : (s.haltFibre l).fibre? k = if k = l
    then (s.fibre? l).map (fun f => { f with halted := true, wait := none, hold := none, gathered := false, turn := none }) else s.fibre? k := by
  have e : (s.haltFibre l).fibre? k =
      (s.modFibre l (fun f => { f with halted := true, wait := none, hold := none, gathered := false, turn := none })).fibre? k :=
    fibre?_of_teams _ _ (sendEvent_teams _ _ _) k
  rw [e, State.fibre?_modFibre]
  · by_cases h : k = l <;> simp [h]
  · intro f; rfl
/-- A lane that traps: nothing while its results are in flight, else the trap, its next issue fixed first. -/
theorem finish_trap (s : State) (l : Lane) (h : Head) (c : Cause.Code) (v : Dword) :
    s.finish l h (.trap c v) = if (s.fibre l).inFlight then s else s.trapped l h c v := rfl

end Sys2Proof.Machine
end

