-- ==== Sys2Proof/Tests/Slice0.lean ====
section
/-! SUPPORT. Tests of the model on fixed values: the form of instructions, decoding, single steps, and for each statement that has
hypotheses a state and operands that meet them. Expected values are computed by hand from the rules that each comment cites. -/

namespace Sys2Proof.Tests

open Sys2Proof.Machine
set_option Elab.async false

/-- An instruction's common fields: stall 1, always executed, no operands. -/
def h0 : Head := { stall := 1, gp := 0, gi := false, dst := 0, sa := 0, sb := 0, sc := 0 }
/-- The same with operands. -/
def hops (dst sa sb sc : Nat) : Head :=
  { h0 with dst := BitVec.ofNat 10 dst, sa := BitVec.ofNat 10 sa, sb := BitVec.ofNat 10 sb, sc := BitVec.ofNat 10 sc }
/-- Modifiers with every field zero but the ones named. -/
def im (ty : IType) : IntMod := { ty := ty, sat := false, cond := .eq, pred := 0, pinv := false }
def mm (imm : Nat) (ty : IType) : ImmMod := { imm := BitVec.ofNat 32 imm, ty := ty, sat := false }
def fm (ty : FType) : FloatMod := { ty := ty, rnd := .rne, ftz := false, fcond := .eq }
def cm (d s : Nat) : ConvMod :=
  { dfmt := BitVec.ofNat 6 d, sfmt := BitVec.ofNat 6 s, rnd := .rne, sat := false, ftz := false, cti := 0, dint := false, dity := .s32,
    sint := false, sity := .s32 }
def gm (o : Ord) (sc : Nat) (z : Size) (off : Int) : GlobalMod :=
  { ord := o, scope := BitVec.ofNat 3 sc, evict := .default, size := z, sx := false, off := BitVec.ofInt 24 off }
def cs (z : Size) (off : Int) : ScratchMod := { size := z, sx := false, cidx := 0, off := BitVec.ofInt 23 off }
def am (o : Ord) (sc : Nat) (z : Size) (a : Aop) : AtomicMod :=
  { ord := o, scope := BitVec.ofNat 3 sc, evict := .default, size := z, sgn := false, aop := a, off := 0 }
def em (o : Ord) (sc arg : Nat) : EngineMod := { ord := o, scope := BitVec.ofNat 3 sc, evict := .default, arg8 := BitVec.ofNat 8 arg }
def ym (sub opt imm : Nat) : SyncMod :=
  { subop := BitVec.ofNat 4 sub, optype := BitVec.ofNat 4 opt, pred := 0, pinv := false, imm24 := BitVec.ofNat 24 imm }
def sm (sreg code : Nat) : SystemMod := { sreg := BitVec.ofNat 8 sreg, code := BitVec.ofNat 8 code }

/-! WellFormed: a term that each check refuses (R118 to R126, R142, R169, R191, R259, R264, R335). -/

/-- R142: the types, SAT, COND, PRED and PINV of the integer layouts. -/
theorem test_wf_integer : (Instr.and (hops 4 5 6 0) (im .s8)).wf = false ∧ (Instr.abs (hops 4 5 0 0) (im .n32)).wf = false ∧
    (Instr.mul (hops 4 5 6 0) { im .s32 with cond := .ne }).wf = false ∧ (Instr.mulhi (hops 4 5 6 0) { im .s32 with sat := true }).wf = false ∧
    (Instr.add (hops 4 5 6 0) { im .s32 with pred := 3 }).wf = false ∧ (Instr.add (hops 4 5 6 0) { im .s32 with pinv := true }).wf = false ∧
    (Instr.addc (hops 4 5 6 2) { im .s32 with pinv := true }).wf = false ∧ (Instr.movhi (hops 4 0 0 0) (mm 1 .s32)).wf = false ∧
    (Instr.divImm (hops 4 5 0 0) { mm 1 .s32 with sat := true }).wf = false ∧ (Instr.pand (hops 4 1 2 0) (im .n32)).wf = false ∧
    (Instr.bytep (hops 4 5 6 7) (im .s32)).wf = false ∧ (Instr.add (hops 4 5 6 0) { im .s32 with sat := true }).wf = true := by decide

/-- R169: RND, FTZ and FCOND of the float layouts. -/
theorem test_wf_float : (Instr.fabs (hops 4 5 0 0) { fm .f32 with rnd := .rup }).wf = false ∧
    (Instr.fclass (hops 4 5 0 0) { fm .f32 with ftz := true }).wf = false ∧ (Instr.fadd (hops 4 5 6 0) { fm .f32 with fcond := .lt }).wf = false ∧
    (Instr.fexp2 (hops 4 5 0 0) { fm .f32 with rnd := .rtz }).wf = false ∧ (Instr.fcmp (hops 4 5 6 0) { fm .f16 with fcond := .ord }).wf = true := by
  decide

/-- R170, R182, R185, R189: the conversion layout. -/
theorem test_wf_conversion : (Instr.cvt (hops 4 6 0 0) { cm 0 0 with dint := true, sint := true }).wf = false ∧
    (Instr.cvt (hops 4 6 0 0) { cm 1 0 with dint := true }).wf = false ∧ (Instr.cvt (hops 4 6 0 0) (cm 11 0)).wf = false ∧ (Instr.cvt (hops 4 6 0 0) (cm 32 0)).wf = false ∧
    (Instr.cvt (hops 4 6 0 0) { cm 10 0 with sat := true }).wf = false ∧ (Instr.cvt (hops 4 6 0 0) { cm 10 0 with rnd := .sr }).wf = false ∧
    (Instr.cvt (hops 4 6 0 0) { cm 0 1 with cti := 1 }).wf = false ∧ (Instr.cvt (hops 4 6 0 0) { cm 0 0 with dity := .s64 }).wf = false ∧
    (Instr.cvt (hops 4 6 0 0) { cm 3 4 with ftz := true }).wf = false ∧ (Instr.cvt (hops 4 6 0 0) { cm 0 0 with dint := true, dity := .s8 }).wf = false ∧
    (Instr.cvtblk (hops 4 6 0 0) (cm 0 0)).wf = false ∧ (Instr.cvtblk (hops 4 6 0 0) { cm 3 0 with sat := true }).wf = false ∧
    (Instr.deqblk (hops 4 6 0 0) (cm 3 3)).wf = false ∧ (Instr.hadd2 (hops 4 5 6 0) (cm 1 2)).wf = false ∧
    (Instr.dot2 (hops 4 5 6 7) (cm 0 0)).wf = false ∧ (Instr.dot4 (hops 4 5 6 7) (cm 1 3)).wf = false ∧
    (Instr.dot4 (hops 4 5 6 7) { cm 0 8 with dint := true, sat := true }).wf = false ∧
    (Instr.dot4 (hops 4 5 6 7) { cm 0 8 with dint := true }).wf = true := by decide

/-- R120, R191: ORD, EVICT, SIZE and SX of the memory layouts. -/
theorem test_wf_memory : (Instr.ld (hops 4 6 0 0) (gm .rel 0 .b4 0)).wf = false ∧ (Instr.st (hops 0 6 4 0) (gm .acq 0 .b4 0)).wf = false ∧
    (Instr.st (hops 0 6 4 0) { gm .rlx 0 .b4 0 with evict := .ro }).wf = false ∧ (Instr.ldb (hops 4 6 0 0) (gm .rlx 0 .b2 0)).wf = false ∧
    (Instr.ld (hops 4 6 0 0) { gm .rlx 0 .b8 0 with sx := true }).wf = false ∧ (Instr.tld (hops 0 6 4 8) (gm .rlx 0 .b4 0)).wf = false ∧
    (Instr.pref (hops 0 6 0 0) { gm .rlx 0 .b1 0 with evict := .last }).wf = false ∧ (Instr.fence h0 (gm .rlx 0 .b1 0)).wf = false ∧
    (Instr.fence h0 (gm .acq 0 .b1 4)).wf = false ∧ (Instr.lds (hops 4 6 0 0) { cs .b4 0 with cidx := 1 }).wf = false ∧
    (Instr.sts (hops 0 6 4 0) { cs .b4 0 with sx := true }).wf = false ∧ (Instr.leafwt (hops 0 6 4 0) (cs .b2 0)).wf = false ∧
    (Instr.ldn (hops 4 6 0 0) { cs .b4 0 with cidx := 3 }).wf = true := by decide

/-- R121, R191, R220: the atomic layout. -/
theorem test_wf_atomic : (Instr.atom (hops 4 6 8 0) (am .rlx 0 .b16 .add)).wf = false ∧ (Instr.atom (hops 4 6 8 0) (am .rlx 0 .b8 .fmin)).wf = false ∧
    (Instr.atom (hops 4 6 8 0) { am .rlx 0 .b4 .add with sgn := true }).wf = false ∧ (Instr.cas (hops 4 6 8 10) (am .rlx 0 .b4 .min)).wf = false ∧
    (Instr.cas (hops 4 6 8 10) (am .rlx 0 .b2 .add)).wf = false ∧ (Instr.red (hops 0 6 8 0) (am .acq 0 .b4 .add)).wf = false ∧
    (Instr.atom (hops 4 6 8 0) { am .rlx 0 .b4 .add with evict := .last }).wf = false ∧
    (Instr.atom (hops 4 6 8 0) { am .ar 3 .b4 .min with sgn := true }).wf = true := by decide

/-- R259: the engine layout. -/
theorem test_wf_engine : (Instr.mma (hops 0 4 0 0) (em .acq 0 0)).wf = false ∧ (Instr.mma (hops 0 4 0 0) (em .rlx 1 0)).wf = false ∧
    (Instr.accz (hops 0 4 0 0) (em .rlx 0 1)).wf = false ∧ (Instr.ctab (hops 0 4 0 0) (em .rlx 0 4)).wf = false ∧
    (Instr.accrd (hops 0 4 5 0) (em .rlx 0 3)).wf = false ∧ (Instr.accrd (hops 0 4 5 0) (em .rlx 0 32)).wf = false ∧
    (Instr.tcopy (hops 0 4 0 0) (em .ar 0 0)).wf = false ∧ (Instr.tgath (hops 0 4 0 0) (em .rel 0 0)).wf = false ∧
    (Instr.ctradd (hops 0 4 6 0) (em .rel 2 1)).wf = false ∧ (Instr.accrd (hops 0 4 5 0) (em .rlx 0 33)).wf = true := by decide

/-- R122, R156, R157, R159 to R164, R264, R272, R278: the branch, fold and sync layouts. -/
theorem test_wf_sync : (Instr.bra h0 { tslot := 5, ldisp := 0 }).wf = false ∧ (Instr.nop h0 { live := 8 }).wf = false ∧
    (Instr.nop h0 { live := 272 }).wf = false ∧ (Instr.yieldN h0 (ym 0 0 4097)).wf = false ∧ (Instr.ret (hops 0 4 0 0) (ym 1 0 0)).wf = false ∧
    (Instr.voteAny (hops 4 2 0 0) (ym 0 0 0x500)).wf = false ∧ (Instr.shfl (hops 4 5 6 0) (ym 4 0 0)).wf = false ∧
    (Instr.shfl (hops 4 5 6 0) (ym 0 0 3)).wf = false ∧ (Instr.breduce (hops 4 5 0 0) (ym 6 0 0)).wf = false ∧
    (Instr.bscan (hops 4 5 0 0) (ym 0 4 0)).wf = false ∧ (Instr.bararv (hops 4 6 0 0) (ym 0 8 0)).wf = false ∧
    (Instr.bararv (hops 4 6 0 0) { ym 0 0 0 with pred := 2 }).wf = false ∧ (Instr.futset (hops 0 6 8 0) { ym 0 0 0 with pinv := true }).wf = false ∧
    (Instr.grow h0 (ym 0 0 24)).wf = false ∧ (Instr.shrink h0 (ym 0 0 272)).wf = false ∧ (Instr.phregCreate (hops 4 0 0 0) (ym 4 3 1)).wf = false ∧
    (Instr.phregCreate (hops 4 0 0 0) (ym 4 0 0)).wf = false ∧ (Instr.phregJoin (hops 4 6 0 0) (ym 1 0 1)).wf = false ∧
    (Instr.phregCreate (hops 4 0 0 0) (ym 6 1 65535)).wf = true ∧ (Instr.grow h0 (ym 0 0 256)).wf = true := by decide

/-- R335: the system layout; R112, R125: an unused operand field. -/
theorem test_wf_system : (Instr.trap h0 (sm 1 0)).wf = false ∧ (Instr.rett h0 (sm 0 1)).wf = false ∧ (Instr.mfs (hops 4 0 0 0) (sm 0x40 1)).wf = false ∧
    (Instr.haltc h0 (sm 0 3)).wf = false ∧ (Instr.haltc (hops 1 0 0 0) (sm 0 0)).wf = false ∧ (Instr.fabs (hops 4 5 6 0) (fm .f32)).wf = false ∧
    (Instr.fabs (hops 4 5 0 6) (fm .f32)).wf = false ∧ (Instr.movi (hops 4 5 0 0) (mm 1 .s32)).wf = false ∧ (Instr.trap h0 (sm 0 0x28)).wf = true := by
  decide

/-- R17, R18, R21, R112, R153, R155, R187, R192, R228, R337: the operand fields: a pair's parity, the file's size, the last-result file as
a destination, as a wide source and as an atomic's data, a file the instruction may not write, a predicate field, a run, a block. -/
theorem test_wf_operands : (Instr.add (hops 5 6 8 0) (im .s64)).wf = false ∧ (Instr.add (hops 4 0x108 6 0) (im .s32)).wf = false ∧
    (Instr.add (hops 4 0x340 6 0) (im .s32)).wf = false ∧ (Instr.add (hops 0x200 5 6 0) (im .s32)).wf = false ∧
    (Instr.add (hops 4 0x200 6 0) (im .s64)).wf = false ∧ (Instr.atom (hops 4 6 0x200 0) (am .rlx 0 .b4 .add)).wf = false ∧
    (Instr.rds (hops 0x300 0 0 0) { sreg := 5 }).wf = false ∧ (Instr.callx (hops 0x300 4 0 0) (ym 0 0 0)).wf = false ∧
    (Instr.pand (hops 16 1 2 0) (im .s32)).wf = false ∧ (Instr.pand (hops 4 16 2 0) (im .s32)).wf = false ∧
    (Instr.cvtblk (hops 4 0x300 0 0) (cm 3 0)).wf = false ∧ (Instr.cvtblk (hops 4 250 0 0) (cm 3 0)).wf = false ∧
    (Instr.mma (hops 0 0x301 0 0) (em .rlx 0 0)).wf = false ∧ (Instr.mma (hops 0 0x200 0 0) (em .rlx 0 0)).wf = false ∧
    (Instr.rds (hops 4 0 0 0) { sreg := 0x20 }).wf = false ∧ (Instr.mfs (hops 4 0 0 0) (sm 0x4B 0)).wf = false ∧
    (Instr.add (hops 0x300 0x301 0x201 0) (im .s32)).wf = true ∧ (Instr.mma (hops 0 0x310 0 0) (em .rlx 0 0)).wf = true := by decide

/-- R123, R124: the unassigned instruction holds an unassigned opcode. -/
theorem test_wf_unassigned : (Instr.unassignedOpcode 0x004400200000000000000010).wf = false ∧
    (Instr.unassignedOpcode 0xFFC000000000000000000000).wf = true := by decide

/-! Decoding: words written out from R111, R112 and R118 to R123 (OPC at bit 86, STALL 82, GP 78, GI 77, DST 67, SA 57, SB 47, SC 37, the
modifier below). -/

/-- The worked line of the manual, and the fold point. -/
theorem test_decode_line :
    decode 0x600000080800000000080209 = .ok (.ld { h0 with stall := 0, dst := 1, sa := 4 } (gm .acq 2 .b4 0x40)) ∧
    decode 0x104800100200000900000064 = .ok (.cmpImm { h0 with stall := 2, dst := 2, sa := 1 } { imm := 100, ty := .n32, cond := .lt }) ∧
    decode 0xC00080000000000000000000 = .ok (.bra { h0 with stall := 0, gp := 2 } { tslot := 0, ldisp := 0 }) ∧
    decode 0x014000100200000100000001 = .ok (.addImm { h0 with stall := 0, dst := 2, sa := 1 } (mm 1 .n32)) ∧
    decode 0xC14000000000000000000020 = .ok (.nop { h0 with stall := 0 } { live := 32 }) := by decide

/-- Integer: MOV.n64 v4:5, s2:3 (selector 3 at bits 66:65); PAND p4, p1, p2. -/
theorem test_decode_integer :
    decode 0x000400260400000000000003 = .ok (.mov (hops 4 0x302 0 0) (im .n64)) ∧
    decode 0x108400200201000000000000 = .ok (.pand (hops 4 1 2 0) (im .s32)) := by decide

/-- Float: FMUL.rtz.ftz v7, v8, 1.0 with stall 4; FADD with FTYPE 3 is refused at bit 0. -/
theorem test_decode_float :
    decode 0x21500038100000093F800000 = .ok (.fmulImm { hops 7 8 0 0 with stall := 4 } { imm := 0x3F800000, rnd := .rtz, ftz := true }) ∧
    decode 0x200400200000000000000003 = .error (.illegalMod 0) := by decide

/-- Conversion: CVT.s32.f32.rtz v5, v6; CVT to format 0x24 from FP32 under SR with SAT. -/
theorem test_decode_conversion :
    decode 0x400400280C00000000081000 = .ok (.cvt (hops 5 6 0 0) { cm 0 0 with rnd := .rtz, dint := true }) ∧
    decode 0x400400280C0000000000D024 = .ok (.cvt (hops 5 6 0 0) { cm 0x24 0 with rnd := .sr, sat := true }) := by decide

/-- Memory: LDS.32 v8, [v2 + 0x10]; ATOM.and.64 with SCOPE 1. -/
theorem test_decode_memory :
    decode 0x60C400400400000000040200 = .ok (.lds (hops 8 2 0 0) (cs .b4 0x10)) ∧
    decode 0x800400400402000000003304 = .ok (.atom (hops 8 2 4 0) (am .rlx 1 .b8 .and)) := by decide

/-- Engines: MMA v4; TGATH.acq.lv2 v4. -/
theorem test_decode_engine :
    decode 0xA08400000800000000000000 = .ok (.mma (hops 0 4 0 0) (em .rlx 0 0)) ∧
    decode 0xA1C400000800000000000009 = .ok (.tgath (hops 0 4 0 0) (em .acq 2 0)) := by decide

/-- Control and synchronisation: VOTE.ballot v7, p2 in segments of two lanes; BARARV v5, [v2:3] at level 2; FEND with IMM24. -/
theorem test_decode_sync :
    decode 0xC40400380400000000200002 = .ok (.voteBallot (hops 7 2 0 0) (ym 2 0 0x100)) ∧
    decode 0xC88800280400000000000020 = .ok (.bararv { hops 5 2 0 0 with stall := 2 } (ym 0 2 0)) ∧
    decode 0xCC8400000000000000100000 = .error (.illegalMod 13) := by decide

/-- System: TRAP 0x28 under !p3; RDS v4 of register 5. -/
theorem test_decode_system :
    decode 0xE004E0000000000000002800 = .ok (.trap { h0 with gp := 3, gi := true } (sm 0 0x28)) ∧
    decode 0x00C400200000000000000005 = .ok (.rds (hops 4 0 0 0) { sreg := 5 }) := by decide

/-- Refusals: a modifier bit outside the layout, a BRA slot of 5; an unassigned opcode is its own instruction. -/
theorem test_decode_refused :
    decode 0x004400200000001000000010 = .error (.illegalMod 36) ∧ decode 0xC00000000000000000000005 = .error (.illegalMod 0) ∧
    decode 0xFFC000000000000000000000 = .ok (.unassignedOpcode 0xFFC000000000000000000000) := by decide

/-! Small states: one team of one or two fibres at 0x40, on core 0 of partition 0, its page and its range those of the machine's loader
map. -/

/-- The levels of a team's handles: lanes 32, 4, 2 and 1 at the scope points core, package, pod and system. -/
def lvls : List Lvl := [⟨32, 0, .core⟩, ⟨4, 1, .package⟩, ⟨2, 2, .pod⟩, ⟨1, 3, .system⟩]
/-- A fibre in a window of 64 registers. -/
def fib (i : Nat) (rs : List Word) (level : Level) : Fibre :=
  { fid := i, regs := rs ++ List.replicate (64 - rs.length) 0, level := level, pc := 0x40 }
/-- Team 1. -/
def tm (fs : List Fibre) : Team := { tid := 1, levels := lvls, fibres := fs, leaves := 4, bars := 2, acct := 4, upper := [1, 2, 3] }
/-- Fibre 0 of team 1 issues. -/
def st (fs : List Fibre) : State :=
  { State.reset.loaderMap with now := 1000, seq := 100, teams := [tm fs], sig := { tid := 1, fids := [0] } }
/-- v6:7 an address, v8 to v14 data. -/
def rs (lo hi : Word) : List Word := [0, 0, 0, 0, 0, 0, lo, hi, 0x11223344, 0x55667788, 0x99, 0xAA, 1, 2, 3]
/-- One fibre, at user, supervisor or monitor privilege. -/
def us (lo : Word) : State := st [fib 0 (rs lo 0) .user]
def ss (lo : Word) : State := st [fib 0 (rs lo 0) .supervisor]
def ms (lo : Word) : State := st [fib 0 (rs lo 0) .monitor]
/-- The lane of fibre 0. -/
def ln : Lane := ⟨1, 0⟩
/-- The state after an instruction. -/
def run (i : Instr) (s : State) : State :=
  match exec i s with
  | .next t => t
  | .fault _ => State.reset
  | .refused _ => State.reset
/-- A register of fibre 0 after an instruction. -/
def reg (i : Instr) (s : State) (n : Nat) : Word := ((run i s).fibre ln).regs.getD n 0
/-- What a witness of an issue, of a calm lane, of an access that passes or of one at its home has to show, as one decidable fact. -/
theorem issued_of {s : State} (p : s.sig.fids.Nodup ∧ (∀ f ∈ s.sig.fids, (s.fibre? ⟨s.sig.tid, f⟩).isSome = true) ∧
    ∀ f ∈ s.sig.fids, (s.fibre ⟨s.sig.tid, f⟩).level = .user → (s.team s.sig.tid).dbgctl.getLsbD 1 = false) : s.Issued := p
theorem alone_of {s : State} {h : Head} {l : Lane} (p : s.sig.tid = l.tid ∧ s.sig.fids = [l.fid] ∧ (s.sig.fids.Nodup ∧
    (∀ f ∈ s.sig.fids, (s.fibre? ⟨s.sig.tid, f⟩).isSome = true) ∧
    ∀ f ∈ s.sig.fids, (s.fibre ⟨s.sig.tid, f⟩).level = .user → (s.team s.sig.tid).dbgctl.getLsbD 1 = false) ∧ s.guard h l = true) : s.Alone h l := p
theorem calm_of {s : State} {l : Lane} (p : (s.fibre l).wait = none ∧ (s.fibre l).hold = none ∧ (s.fibre l).storeFault = none ∧
    (s.fibre l).engineFault = none ∧ ∀ q ∈ s.reqs, ¬ (q.tid = l.tid ∧ q.fid = l.fid)) : s.Calm l := ⟨p.1, p.2.1, p.2.2.1, p.2.2.2.1, p.2.2.2.2⟩
theorem passes_of {s : State} {l : Lane} {lv : Nat} {ks : List Acc} {va : Dword} {n : Nat} {pt : Point} {ia : Nat}
    (p : ((s.team l.tid).levels[lv]?).map Lvl.pt = some pt ∧ va.toNat < 2 ^ 56 ∧ va.toNat % n = 0 ∧
      (∀ k ∈ ks, s.preciseCheck (s.team l.tid).partKey (s.fibre l).level k va.toNat = .ok ia) ∧
      (s.team l.tid).watched (s.fibre l) ks va.toNat n = false ∧ s.poisoned (s.team l.tid).coreKey (s.space (s.team l.tid).partKey ia) ia n = false) :
    s.Passes l lv ks va n pt ia := ⟨p.1, p.2.1, p.2.2.1, p.2.2.2.1, p.2.2.2.2.1, p.2.2.2.2.2⟩
/-- A block operand in leaves that can be read (R228). -/
theorem ready_of {s : State} {l : Lane} {pos : Pos} {fld : Field} {n : Nat} (p : (s.readReg l pos fld).toNat % n = 0 ∧
    (n = 0 ∨ (s.readReg l pos fld).toNat + n ≤ 2048 * (s.team l.tid).leaves) ∧ ∀ c ∈ (s.team l.tid).claims, ∀ i ∈ c.2,
      ¬ (n ≠ 0 ∧ (s.readReg l pos fld).toNat / 2048 ≤ i ∧ i ≤ ((s.readReg l pos fld).toNat + n - 1) / 2048)) : s.blockReady l pos fld n := .inr p
/-- True when a predicate of fibre 0 is set after an instruction. -/
def pred (i : Instr) (s : State) (n : Nat) : Bool := ((run i s).fibre ln).preds.getLsbD n

/-! Each theorem `meets_<Statement>` gives a state and operands that meet the hypotheses of that statement of Obligations. -/

theorem meets_IntegerRegisterResults : (us 0x1000).Issued := by refine ⟨by decide, by decide, by decide⟩
theorem meets_IntegerImmediateResults : (ss 0x1000).Issued := by refine ⟨by decide, by decide, by decide⟩
theorem meets_LogicAndShiftResults : (ms 0x1000).Issued ∧ (im .n32).sat = false ∧ (mm 5 .n32).sat = false := by
  refine ⟨issued_of (by decide), rfl, rfl⟩
/-- BYTEP's hypothesis on the type. -/
theorem meets_BitFieldAndCountResults : (us 0x1000).Issued ∧ (im .n32).ty = .n32 ∧ (mm 0x123 .n32).ty = .n32 := by
  refine ⟨issued_of (by decide), rfl, rfl⟩
/-- MADW_IMM's hypothesis on the type. -/
theorem meets_PredicateAndPairResults : (us 0x1000).Issued ∧ width (mm 7 .s32).ty = 32 := by
  refine ⟨issued_of (by decide), rfl⟩

/-- R144: 0x11223344 + 0x55667788, 1 - 2, 1 * 2 + 3; the PC, the last-result file. -/
theorem test_add_sub_mad : reg (.add (hops 4 8 9 0) (im .s32)) (us 0) 4 = 0x6688AACC ∧
    ((run (.add (hops 4 8 9 0) (im .s32)) (us 0)).fibre ln).y0 = 0x6688AACC ∧ ((run (.add (hops 4 8 9 0) (im .s32)) (us 0)).fibre ln).pc = 0x4C ∧
    reg (.sub (hops 4 12 13 0) (im .s32)) (us 0) 4 = 0xFFFFFFFF ∧ reg (.mad (hops 4 12 13 14) (im .s32)) (us 0) 4 = 5 ∧
    reg (.addImm (hops 4 9 0 0) { mm 0x7FFFFFFF .s32 with sat := true }) (us 0) 4 = 0x7FFFFFFF ∧
    reg (.sub (hops 4 12 13 0) { im .n32 with sat := true }) (us 0) 4 = 0 := by decide
/-- R144: 0x55667788 * 16 keeps the low half and gives the upper half; NEG, ABS, MIN, CLAMP. -/
theorem test_mul_min_clamp : reg (.mulImm (hops 4 9 0 0) (mm 16 .n32)) (us 0) 4 = 0x56677880 ∧
    reg (.mulhiImm (hops 4 9 0 0) (mm 16 .n32)) (us 0) 4 = 5 ∧ reg (.neg (hops 4 12 0 0) (im .s32)) (us 0) 4 = 0xFFFFFFFF ∧
    reg (.abs (hops 4 9 0 0) (im .s8)) (us 0) 4 = 0x78 ∧ reg (.minImm (hops 4 12 0 0) (mm 0xFFFFFFFF .s32)) (us 0) 4 = 0xFFFFFFFF ∧
    reg (.minImm (hops 4 12 0 0) (mm 0xFFFFFFFF .n32)) (us 0) 4 = 1 ∧ reg (.clamp (hops 4 10 12 14) (im .s32)) (us 0) 4 = 3 := by decide
/-- R145: division by zero gives the limit of A's sign, and the remainder A. -/
theorem test_div_rem : reg (.div (hops 4 8 0 0) (im .s32)) (us 0) 4 = 0x7FFFFFFF ∧ reg (.rem (hops 4 8 0 0) (im .s32)) (us 0) 4 = 0x11223344 ∧
    reg (.divImm (hops 4 10 0 0) (mm 0xFFFFFFF0 .s32)) (us 0) 4 = 0xFFFFFFF7 ∧ reg (.remImm (hops 4 10 0 0) (mm 0xFFFFFFF0 .s32)) (us 0) 4 = 9 := by
  decide
/-- R147: a count past the width; ROTL by 8; FSHL takes C's high bits; SAR of a negative byte pattern. -/
theorem test_shift : reg (.shlImm (hops 4 12 0 0) (mm 33 .s32)) (us 0) 4 = 0 ∧ reg (.rotlImm (hops 4 8 0 0) (mm 8 .n32)) (us 0) 4 = 0x22334411 ∧
    reg (.fshlImm (hops 4 8 0 9) (mm 8 .n32)) (us 0) 4 = 0x22334455 ∧ reg (.sarImm (hops 4 9 0 0) (mm 255 .s32)) (us 0) 4 = 0 ∧
    reg (.andn (hops 4 8 9 0) (im .n32)) (us 0) 4 = 0x00000044 ∧ reg (.ornImm (hops 4 12 0 0) (mm 0xFFFFFFFD .n32)) (us 0) 4 = 3 := by decide
/-- R147 to R149: BFX sign-extends the field 0x88; BFI at bit 8; BREV, POPC, CLZ, CTZ; BYTEP reverses the bytes. -/
theorem test_fields : reg (.bfxImm (hops 4 9 0 0) (mm 0x800 .s32)) (us 0) 4 = 0xFFFFFF88 ∧ reg (.bfiImm (hops 4 12 0 8) (mm 0x0808 .n32)) (us 0) 4 = 0x11220144 ∧
    reg (.brev (hops 4 12 0 0) (im .n32)) (us 0) 4 = 0x80000000 ∧ reg (.popc (hops 4 8 0 0) (im .n32)) (us 0) 4 = 10 ∧
    reg (.clz (hops 4 8 0 0) (im .n32)) (us 0) 4 = 3 ∧ reg (.ctz (hops 4 8 0 0) (im .n32)) (us 0) 4 = 2 ∧
    reg (.bytepImm (hops 4 8 0 9) (mm 0x0123 .n32)) (us 0) 4 = 0x44332211 := by decide
/-- R150, R151: CMP ANDs its relation with the predicate operand; SEL; PNOT of p0 (true) is false; p0 ignores a write. -/
theorem test_predicates : pred (.cmp (hops 4 12 13 0) { im .s32 with cond := .lt }) (us 0) 4 = true ∧
    pred (.cmp (hops 4 12 13 0) { im .s32 with cond := .lt, pred := 5 }) (us 0) 4 = false ∧
    reg (.sel (hops 4 12 13 0) { im .s32 with pred := 5 }) (us 0) 4 = 2 ∧ pred (.pnot (hops 4 5 0 0) (im .s32)) (us 0) 4 = true ∧
    pred (.cmpImm (hops 4 12 0 0) { imm := 0xFFFFFFFF, ty := .s32, cond := .gt }) (us 0) 4 = true := by decide
/-- R144, R146, R152: MADW 1 * 2 + 0x1000; ADDC's carry-out of 0xFFFFFFFF + 1; LEA 0x1000 + 2 * 16; MOVHI writes the odd register. -/
theorem test_pairs : reg (.madw (hops 4 12 13 6) (im .s32)) (us 0x1000) 4 = 0x1002 ∧ pred (.addc (hops 4 6 12 3) (im .n32)) (us 0xFFFFFFFF) 3 = true ∧
    reg (.subb (hops 4 12 13 3) (im .n32)) (us 0) 4 = 0xFFFFFFFF ∧ pred (.subb (hops 4 12 13 3) (im .n32)) (us 0) 3 = true ∧
    reg (.leaImm (hops 4 6 0 13) (mm 16 .s32)) (us 0x1000) 4 = 0x1020 ∧ reg (.movhi (hops 4 0 0 0) (mm 9 .n64)) (us 0) 5 = 9 ∧
    reg (.movi (hops 4 0 0 0) (mm 0xFF .s8)) (us 0) 4 = 0xFFFFFFFF := by decide

/-- FP32 operands: v8 to v11 are 1, 2, -3 and a quiet NaN, v12 is the integer 3; FP16 and INT8 operands in v13 and v14. -/
def fs : State := st [fib 0 [0, 0, 0, 0, 0, 0, 0, 0, 0x3F800000, 0x40000000, 0xC0400000, 0x7FC00000, 3, 0x3C004000, 0xFF020304] .user]
/-- The flags that fibre 0 has on their way. -/
def flagsOf (i : Instr) (s : State) : FFlags := ((run i s).team 1).flagPend.foldr (fun p a => p.flags ||| a) 0

theorem meets_FloatArithmeticResults : fs.Issued := by refine ⟨by decide, by decide, by decide⟩
theorem meets_FloatImmediateResults : (us 0x3F800000).Issued := by refine ⟨by decide, by decide, by decide⟩
/-- Operands 1, 2 and -3 in FP32, the divisor not zero, the radicand not negative; no overflow in the sum, the product and the quotient. -/
theorem meets_ArithmeticIsCorrectlyRounded :
    let a := fmtF32.decode 0x3F800000
    let b := fmtF32.decode 0x40000000
    let c := fmtF32.decode 0xC0400000
    ftypeFmt .f32 = fmtF32 ∧ fmtF32.size = 32 ∧ a.isFin = true ∧ b.isFin = true ∧ c.isFin = true ∧
    (fmtF32.round .rne false false 0 (a.add .rne b).1).2 &&& flOverflow = 0 ∧ (fmtF32.round .rne false false 0 (a.mul b).1).2 &&& flOverflow = 0 ∧
    (fmtF32.round .rne false false 0 (a.div b).1).2 &&& flOverflow = 0 ∧ (fmtF32.round .rne false false 0 a.sqrt.1).2 &&& flOverflow = 0 := by
  decide +kernel
theorem meets_ArithmeticIsCorrectlyRounded_signs : ((fmtF32.decode 0x40000000).value : ℝ) ≠ 0 ∧ (0 : ℝ) ≤ ((fmtF32.decode 0x3F800000).value : ℚ) := by
  have h2 : fmtF32.decode 0x40000000 = .fin false 0x800000 (-22) := by decide
  have h1 : fmtF32.decode 0x3F800000 = .fin false 0x800000 (-23) := by decide
  rw [h1, h2]
  constructor
  · simp [FVal.value]
  · exact_mod_cast (by simp [FVal.value] : (0 : ℚ) ≤ (FVal.fin false 0x800000 (-23)).value)
theorem meets_FrndAndRepresentableResults : fs.Issued ∧ elemOf 3 = some (.float ⟨8, true, 2, 15, .ieee⟩) ∧
    ((⟨8, true, 2, 15, .ieee⟩ : Fmt).decode 0x3C).isFin = true ∧ (fmtF32.decode 0x3F800000).isFin = true := by
  refine ⟨issued_of (by decide), by decide, by decide, by decide⟩
theorem meets_FloatSelectAndCompareResults : fs.Issued ∧ (fmtF32.decode 0x3F800000).isFin = true ∧ (fmtF32.decode 0xC0400000).isFin = true := by
  refine ⟨issued_of (by decide), by decide, by decide⟩
/-- An operand of FRSQ's bound. -/
theorem meets_ApproximateFunctionResults : fs.Issued ∧ 0x00800000 ≤ (0x3F800000 : Word).toNat ∧ (0x3F800000 : Word).toNat < 0x7F800000 := by
  refine ⟨issued_of (by decide), by decide, by decide⟩
/-- A destination of each kind: integer, float, INT8 and a code table. -/
theorem meets_CvtResult : fs.Issued ∧ ({ cm 0 0 with dint := true } : ConvMod).dint = true ∧ (cm 1 0).dint = false ∧
    elemOf (cm 1 0).dfmt.toNat = some (.float fmtF16) ∧ elemOf (cm 8 0).dfmt.toNat = some (.int 8) ∧ elemOf (cm 10 0).dfmt.toNat = some .table := by
  refine ⟨issued_of (by decide), rfl, rfl, by decide, by decide, by decide⟩
theorem meets_BlockConversionResults : fs.Issued ∧ elemOf (cm 3 0).sfmt.toNat = some (.float fmtF32) ∧ elemOf (cm 2 3).dfmt.toNat = some (.float fmtBF16) := by
  refine ⟨issued_of (by decide), by decide, by decide⟩
theorem meets_PackedAndDotResults : fs.Issued ∧ (cm 1 1).dint = false ∧ ({ cm 0 8 with dint := true } : ConvMod).dint = true ∧
    (FVal.fin false 1 0).isFin = true := by
  refine ⟨issued_of (by decide), rfl, rfl, rfl⟩

/-- R173: 1 + 2, 1 - 2, 1 * 2 - 3, 1 / 2 and 1 * 2^3; 1 / 3 is inexact. -/
theorem test_float_arithmetic : reg (.fadd (hops 4 8 9 0) (fm .f32)) fs 4 = 0x40400000 ∧ reg (.fsub (hops 4 8 9 0) (fm .f32)) fs 4 = 0xBF800000 ∧
    reg (.ffma (hops 4 8 9 10) (fm .f32)) fs 4 = 0xBF800000 ∧ reg (.fdiv (hops 4 8 9 0) (fm .f32)) fs 4 = 0x3F000000 ∧
    reg (.fscale (hops 4 8 12 0) (fm .f32)) fs 4 = 0x41000000 ∧ reg (.frcp (hops 4 10 0 0) (fm .f32)) fs 4 = 0xBEAAAAAB ∧
    flagsOf (.frcp (hops 4 10 0 0) (fm .f32)) fs = flInexact ∧ reg (.fsqrt (hops 4 8 0 0) (fm .f32)) fs 4 = 0x3F800000 := by decide +kernel
/-- R175 to R178: a NaN gives the other operand; -3 is a negative normal number (bit 1); the quiet NaN is bit 9. -/
theorem test_float_select : reg (.fmax (hops 4 11 9 0) (fm .f32)) fs 4 = 0x40000000 ∧ reg (.fmin (hops 4 9 10 0) (fm .f32)) fs 4 = 0xC0400000 ∧
    reg (.fabs (hops 4 10 0 0) (fm .f32)) fs 4 = 0x40400000 ∧ reg (.fneg (hops 4 8 0 0) (fm .f32)) fs 4 = 0xBF800000 ∧
    reg (.fclass (hops 4 10 0 0) (fm .f32)) fs 4 = 2 ∧ reg (.fclass (hops 4 11 0 0) (fm .f32)) fs 4 = 0x200 ∧
    pred (.fcmp (hops 4 8 9 0) { fm .f32 with fcond := .lt }) fs 4 = true ∧ flagsOf (.fcmp (hops 4 8 11 0) { fm .f32 with fcond := .lt }) fs = flInvalid := by
  decide
/-- R179: 2^0 and cos 0 are 1, log2 0 is minus infinity with division by zero, the root of a negative number is invalid. -/
theorem test_float_special : reg (.fexp2 (hops 4 0 0 0) (fm .f32)) fs 4 = 0x3F800000 ∧ reg (.fcos (hops 4 0 0 0) (fm .f32)) fs 4 = 0x3F800000 ∧
    reg (.flog2 (hops 4 0 0 0) (fm .f32)) fs 4 = 0xFF800000 ∧ flagsOf (.flog2 (hops 4 0 0 0) (fm .f32)) fs = flDivZero ∧
    flagsOf (.frsq (hops 4 10 0 0) (fm .f32)) fs = flInvalid ∧ reg (.fsin (hops 4 0 0 0) (fm .f32)) fs 4 = 0 ∧
    reg (.ftanh (hops 4 0 0 0) (fm .f32)) fs 4 = 0 := by decide
/-- R181 to R184: -3 to a signed integer; the integer 3 to FP32; 1 to FP16; -3 to an unsigned integer is 0 and invalid. -/
theorem test_convert : reg (.cvt (hops 4 10 0 0) { cm 0 0 with dint := true, rnd := .rtz }) fs 4 = 0xFFFFFFFD ∧
    reg (.cvt (hops 4 12 0 0) { cm 0 0 with sint := true }) fs 4 = 0x40400000 ∧ reg (.cvt (hops 4 8 0 0) (cm 1 0)) fs 4 = 0x3C00 ∧
    reg (.cvt (hops 4 10 0 0) { cm 0 0 with dint := true, dity := .n32 }) fs 4 = 0 ∧
    flagsOf (.cvt (hops 4 10 0 0) { cm 0 0 with dint := true, dity := .n32 }) fs = flInvalid ||| flInexact := by decide
/-- R189: FP16 halves 1 and 2 added to themselves; the INT8 dot product 4 * 4 + 3 * 3 + 2 * 2 + 1 of 0xFF020304 with itself, plus 3. -/
theorem test_packed : reg (.hadd2 (hops 4 13 13 0) (cm 1 1)) fs 4 = 0x40004400 ∧
    reg (.dot4 (hops 4 14 14 12) { cm 0 8 with dint := true }) fs 4 = 33 := by decide

/-- A slot word of MOVI v4, 0x10, and the state in which the next step fetches it (log 3). -/
def placed : State := State.reset.withFetchWord 96 0x004400200000000000000010
/-- The first clause: the signature is named by the agenda, its line cached, its slot decoded. -/
theorem meets_StepRunsDecoded : placed.sig.second = none ∧ placed.agenda = [.issue 0 [0]] ∧ { placed with agenda := [] }.mayIssue 0 [0] = true ∧
    (∃ line, { placed with agenda := [] }.issueLine (placed.team 0) (((placed.team 0).fibre 0).level) (((placed.team 0).fibre 0).pc) = some line ∧
      issueFault placed.now ((placed.team 0).dbgctl.getLsbD 0) ((placed.team 0).fibre 0) line = none ∧
      decode (rawSlot line ((placed.team 0).fibre 0).pc) = .ok (.movi (hops 4 0 0 0) (mm 0x10 .s32))) := by
  refine ⟨by decide, by decide, by decide +kernel, lineWith 0x004400200000000000000010, by decide +kernel, by decide +kernel, by decide +kernel⟩
/-- The second clause: the second slot of a pair is waiting; the third: the schedule has named a machine step. -/
def second : State := { us 0 with sig := { tid := 1, fids := [0], second := some (0x004400200000000000000010, false, 0x40) } }
theorem meets_StepRunsDecoded_pair : second.sig.second = some (0x004400200000000000000010, false, 0x40) ∧
    second.pairFibres 0x004400200000000000000010 false 0x40 = [0] ∧
    slotFault second.now ((second.team 1).dbgctl.getLsbD 0) ((second.team 1).fibre 0) 0x004400200000000000000010 false = none ∧
    decode 0x004400200000000000000010 = .ok (.movi (hops 4 0 0 0) (mm 0x10 .s32)) := by
  refine ⟨rfl, by decide +kernel, by decide +kernel, by decide +kernel⟩
theorem meets_StepRunsDecoded_event : (us 0).sig.second = none ∧ { us 0 with agenda := [.event (.preqSave 0 0)] }.agenda = [.event (.preqSave 0 0)] ∧
    isMachineStep (.preqSave 0 0) = true := ⟨rfl, rfl, rfl⟩

/-- A line whose slots are branch targets, at 0x40 of the code page (R102, R107). -/
def coded (s : State) : State := { s with mem := Memory.write s.mem (physKey 1 0 0x40) (toBytes 64 (0x1F * 2 ^ 480)) }
def cs0 : State := coded (us 0x4C)
theorem meets_TransferResults : cs0.Issued ∧ cs0.guarded h0 = [ln] ∧
    BitVec.ofInt 64 ((cs0.fibre ln).pc.toNat / 64 * 64 + 12) = 0x4C ∧ cs0.readPair ln .sa 6 = 0x4C ∧
    cs0.targetAway (cs0.team 1) .user 0x4C = none ∧ cs0.targetCheck (cs0.team 1) .user 0x4C = .ok (toBytes 64 (0x1F * 2 ^ 480)) := by
  refine ⟨issued_of (by decide), by decide, by decide +kernel, by decide +kernel, by decide +kernel, by decide +kernel⟩
/-- Each target fault: high bits, no slot, a line that cannot be fetched, no TGT bit; and none. -/
theorem meets_TransferTraps : 2 ^ 56 ≤ (0x100000000000040 : Dword).toNat ∧ (0x44 : Dword).toNat % 64 ≠ 12 ∧
    (∃ v, cs0.fetchLine (cs0.team 1) .user 0x20000 = .error v) ∧
    (∃ line, cs0.fetchLine (cs0.team 1) .user 0x40 = .ok line ∧ bitAt (lineWord line) 0 = true) ∧
    (∃ line, cs0.fetchLine (cs0.team 1) .user 0x80 = .ok line ∧ bitAt (lineWord line) 0 = false) := by
  refine ⟨by decide, by decide, ⟨_, rfl⟩, ⟨toBytes 64 (0x1F * 2 ^ 480), by decide +kernel, by decide +kernel⟩,
    ⟨List.replicate 64 0, by decide +kernel, by decide +kernel⟩⟩
theorem meets_TransferTraps_trap : (us 0x80).Alone h0 ln ∧ ((us 0x80).fibre ln).inFlight = false ∧
    branchTarget 0x40 { tslot := 0, ldisp := 1 } = 0x80 ∧ (us 0x80).readPair ln .sa 6 = 0x80 ∧
    (us 0x80).targetAway ((us 0x80).team 1) .user 0x80 = none ∧ (us 0x80).targetCheck ((us 0x80).team 1) .user 0x80 = .error (0x04, 0x80) := by
  refine ⟨alone_of (by decide), by decide, by decide +kernel, by decide +kernel, by decide +kernel, by decide +kernel⟩
/-- A team whose code is another package's: its target's line comes over the fabric. -/
def farCode : State := (us 0).modPart 0 (fun p => { p with ranges := [{ perm := 0x7F, off := 68719476736 }] })
theorem meets_TransferTraps_away : farCode.Alone h0 ln ∧ ((farCode.modPart 96 (fun p => { p with podtag := 0x101, ptroot := 0x10000 })).lineAway
    (farCode.team 1) .user 0x40) = some 0x10000000000040 := by
  refine ⟨alone_of (by decide), by decide +kernel⟩
/-- Single-stepping at user privilege is the hypothesis of the last clause. -/
def stepping : State := (us 0).modTeam 1 (fun t => { t with dbgctl := 2 })
theorem meets_NopYieldSleepAndStepResults : (us 0).Issued ∧ stepping.sig.fids = [ln.fid] ∧ stepping.guard h0 ln = true ∧
    (stepping.fibre? ln).isSome = true ∧ (stepping.fibre ln).level = .user ∧ (stepping.team 1).dbgctl.getLsbD 1 = true := by
  refine ⟨issued_of (by decide), rfl, by decide, by decide, by decide, by decide⟩
/-- R154: BRX to a marked slot; to one without its bit, which takes BR_TARGET at the vector 0x800 with the PC saved (R329). -/
def vec (s : State) : State := (s.modPart 0 (fun p => { p with stvec := 0x800, mdeleg := [0x10, 0, 0, 0] })).modPkg 0 (fun p => { p with mtvec := 0xC00 })
theorem test_brx : ((run (.brx (hops 0 6 0 0) (ym 0 0 0)) cs0).fibre ln).pc = 0x4C ∧
    ((run (.brx (hops 0 6 0 0) (ym 0 0 0)) (vec (us 0x80))).fibre ln).pc = 0x800 ∧
    ((run (.brx (hops 0 6 0 0) (ym 0 0 0)) (vec (us 0x80))).fibre ln).supCopy = ⟨0x40, 4, 0x80, .user, true⟩ := by decide +kernel
/-- R154: CALL's link pair holds the next slot. -/
theorem test_call : reg (.call (hops 4 0 0 0) { tslot := 1, ldisp := 0 }) cs0 4 = 0x4C ∧
    ((run (.call (hops 4 0 0 0) { tslot := 1, ldisp := 0 }) cs0).fibre ln).pc = 0x4C := by decide +kernel
/-- R156, R157: SLEEP 5 suspends with its PC in place; YIELD 3 goes on. -/
theorem test_sleep : ((run (.sleep h0 (ym 0 0 5)) (us 0)).fibre ln).pc = 0x40 ∧ ((run (.sleep h0 (ym 0 0 5)) (us 0)).fibre ln).wait.isSome = true ∧
    ((run (.yieldN h0 (ym 0 0 3)) (us 0)).fibre ln).pc = 0x4C ∧ ((run (.yieldN h0 (ym 0 0 3)) (us 0)).fibre ln).hold = some (.yield 1003) := by
  decide +kernel

/-- Each case of TrapEntry: delivered to the supervisor; doubled, the copy being in use; halted, the monitor's copy being in use. -/
def nested : State := (vec (us 0)).modFibre ln (fun f => { f with supCopy := { f.supCopy with nest := true } })
def stuck : State := (ms 0).modFibre ln (fun f => { f with monCopy := { f.monCopy with nest := true } })
theorem meets_TrapEntry : ((vec (us 0)).fibre? ln).isSome = true ∧ ((vec (us 0)).fibre ln).supCopy.nest = false ∧ ((vec (us 0)).partAt 0).stvec ≠ 0 ∧
    (nested.fibre? ln).isSome = true ∧ (nested.fibre ln).supCopy.nest = true ∧ (nested.fibre ln).monCopy.nest = false ∧ (nested.pkgAt 0).mtvec ≠ 0 ∧
    (stuck.fibre? ln).isSome = true ∧ (stuck.fibre ln).monCopy.nest = true := by decide +kernel
/-- R329: cause 4 of a user is delegated to the supervisor; a second one becomes DOUBLE_TRAP at the monitor, its value the cause. -/
theorem test_trap_entry : (((vec (us 0)).takeTrap ln 0x04 9).fibre ln).pc = 0x800 ∧ (((vec (us 0)).takeTrap ln 0x04 9).fibre ln).level = .supervisor ∧
    (((vec (us 0)).takeTrap ln 0x04 9).fibre ln).supCopy = ⟨0x40, 4, 9, .user, true⟩ ∧
    ((nested.takeTrap ln 0x04 9).fibre ln).monCopy = ⟨0x40, 0x0E, 4, .user, true⟩ ∧ ((nested.takeTrap ln 0x04 9).fibre ln).pc = 0xC00 ∧
    ((stuck.takeTrap ln 0x04 9).fibre ln).halted = true := by decide +kernel

/-- In a handler of each level, with a saved PC; with results in flight. -/
def inHandler (s : State) (epc : Dword) : State := (vec s).modFibre ln (fun f =>
  { f with supCopy := ⟨epc, 3, 4, .user, true⟩, monCopy := ⟨epc, 3, 4, .user, true⟩ })
def flying : State := (us 0).modFibre ln (fun f => { f with pend := [⟨.main 3, 0, none, 5⟩] })
theorem alone_us : (us 0).Alone h0 ln := alone_of (by decide)
theorem alone_ss : (ss 0).Alone h0 ln := alone_of (by decide)
theorem alone_ms : (ms 0).Alone h0 ln := alone_of (by decide)
theorem meets_TrapInstructionResults : (us 0).Alone h0 ln ∧ ((us 0).fibre ln).inFlight = false ∧
    (flying.Alone h0 ln ∧ (flying.fibre ln).inFlight = true) ∧ readHead 0xFFC400000000000000000000 = h0 := by
  refine ⟨alone_us, by decide, ⟨alone_of (by decide), by decide⟩, by decide⟩
/-- The returns: no trap open; the saved PC no slot; the saved PC a slot. -/
theorem meets_TrapInstructionResults_return : (ss 0).Alone h0 ln ∧ (((ss 0).fibre ln).copy .supervisor).nest = false ∧
    (inHandler (ss 0) 0x4C).Alone h0 ln ∧ ((inHandler (ss 0) 0x4C).fibre ln).inFlight = false ∧
    (((inHandler (ss 0) 0x4C).fibre ln).copy .supervisor).nest = true ∧ pcSlotOk 0x4C = true ∧ pcSlotOk (nextPc 0x4C) = true ∧
    (inHandler (ms 0) 0x44).Alone h0 ln ∧ pcSlotOk 0x44 = false := by
  refine ⟨alone_ss, by decide, alone_of (by decide), by decide, by decide, by decide, by decide,
    alone_of (by decide), by decide⟩
/-- R330, R336: RETT takes up the saved PC and level and closes the trap; TRAP 0x28 raises cause 0x28, TRAP 3 TRAP_INSN with the code. -/
theorem test_rett : ((run (.rett h0 (sm 0 0)) (inHandler (ss 0) 0x4C)).fibre ln).pc = 0x4C ∧
    ((run (.rett h0 (sm 0 0)) (inHandler (ss 0) 0x4C)).fibre ln).level = .user ∧
    ((run (.rett h0 (sm 0 0)) (inHandler (ss 0) 0x4C)).fibre ln).supCopy.nest = false ∧
    ((run (.rettNext h0 (sm 0 1)) (inHandler (ss 0) 0x4C)).fibre ln).pc = 0x58 := by decide +kernel
theorem test_trap : ((run (.trap h0 (sm 0 0x28)) (vec (us 0))).fibre ln).monCopy.cause = 0x28 ∧
    ((run (.trap h0 (sm 0 3)) (vec (us 0))).fibre ln).monCopy.cause = 0x09 ∧ ((run (.trap h0 (sm 0 3)) (vec (us 0))).fibre ln).monCopy.val = 3 ∧
    ((run (.sysc h0 (sm 0 7)) (vec (us 0))).fibre ln).monCopy.cause = 0x0A := by decide +kernel

/-- A register of each width of RDS; one outside its range (R326). -/
theorem meets_RdsResults : (us 0).Issued ∧ ({ sreg := 0x06 } : SpecialMod).sreg.toNat = 0x06 ∧ ({ sreg := 0x05 } : SpecialMod).sreg.toNat = 0x05 ∧
    ({ sreg := 0x1F } : SpecialMod).sreg.toNat = 0x18 + 7 ∧ (us 0).Alone h0 ln ∧ ((us 0).fibre ln).inFlight = false ∧
    0x40 ≤ ({ sreg := 0x40 } : SpecialMod).sreg.toNat := by
  refine ⟨issued_of (by decide), rfl, rfl, rfl, alone_us, by decide, by decide⟩
/-- MFS may read; MTS may write, or only read; a level below the register's; MFS at user privilege. -/
theorem meets_MoveSpecialResults : (ss 0).Issued ∧ (∀ l ∈ (ss 0).guarded h0, ((ss 0).fibre l).level ≠ .user) ∧ (sregReader 0x48).num ≤ Level.supervisor.num ∧
    (ms 0).Alone h0 ln ∧ sregWriter 0x54 .monitor = true ∧ (ss 0).Alone h0 ln ∧ ((ss 0).fibre ln).inFlight = false ∧
    ¬ (sregReader 0x80).num ≤ Level.supervisor.num ∧ (us 0).Alone h0 ln ∧ ((us 0).fibre ln).level = .user := by
  refine ⟨issued_of (by decide), by decide, by decide, alone_ms, by decide, alone_ss, by decide, by decide, alone_us, by decide⟩
theorem meets_SpecialRegistersReadBack : ((ms 0).fibre? ln).isSome = true ∧ ((ms 0).fibre ln).level = .monitor := by decide
/-- R153, R23: the window is 64 registers; R337, R328: MTS of $GRACE at 100 is raised to 1,650, its least. -/
theorem test_special : reg (.rds (hops 4 0 0 0) { sreg := 6 }) (us 0) 4 = 64 ∧
    ((run (.mts (hops 0 6 0 0) (sm 0x58 0)) (ms 100)).partAt 0).grace = 1650 ∧
    ((run (.mfs (hops 4 0 0 0) (sm 0x58 0)) (vec (us 0))).fibre ln).monCopy.cause = 0x61 := by decide +kernel

/-- A queue of events at the supervisor and an empty one; a user. -/
def evs : State := (ss 0).modPart 0 (fun p => { p with events := [{ cause := 0x65, core := 3, slot := 2, fid := 900, aux := 5, value := 0x123 }] })
theorem meets_EventQueueResults : evs.Alone h0 ln ∧ (evs.fibre ln).level ≠ .user ∧ (evs.fibre ln).wait = none ∧ (evs.partAt 0).events ≠ [] ∧
    (ss 0).Alone h0 ln ∧ ((ss 0).partAt 0).events = [] ∧ (us 0).Alone h0 ln ∧ ((us 0).fibre ln).inFlight = false := by
  refine ⟨alone_of (by decide), by decide, by decide, by decide, alone_ss, by decide, alone_us, by decide⟩
/-- R332: the record's fields: 0x65 + 3 * 2^8 + 2 * 2^17 + 900 * 2^22. -/
theorem test_evpop : reg (.evpop (hops 4 0 0 0) (sm 0 0)) evs 4 = 0xE1040365 ∧ reg (.evpop (hops 4 0 0 0) (sm 0 0)) evs 5 = 5 ∧
    ((run (.evpop (hops 4 0 0 0) (sm 0 0)) evs).partAt 0).events = [] ∧ reg (.evpop (hops 4 0 0 0) (sm 0 0)) (ss 0) 4 = 0xFFFFFFFF := by decide +kernel

/-- A range inside the address space; pages to drop at the supervisor with no tile; HALTC at the monitor, running and halted; below it. -/
def paged : State := st [fib 0 [0, 0, 0, 0, 0, 0, 0x10000, 0, 2] .supervisor]
def haltedCore : State := (ms 0).modCore 0 (fun c => { c with halted := true })
def hX : Head := hops 0 6 8 0
theorem meets_InvalidateAndHaltResults : paged.Alone hX ln ∧ (paged.readPair ln .sa 6).toNat + (paged.readReg ln .sb 8).toNat ≤ 2 ^ 56 ∧
    (paged.fibre ln).hold = none ∧ (paged.readPair ln .sa 6).toNat % 2 ^ 16 = 0 ∧ 0 < (paged.readReg ln .sb 8).toNat ∧
    (∀ kp ∈ paged.pkgs, ∀ c ∈ kp.2.clasps, c.held = true → c.sp ≠ 0) ∧
    (ms 0).Alone hX ln ∧ ((ms 0).coreAt 0).halted = false ∧ haltedCore.Alone hX ln ∧ (haltedCore.coreAt 0).halted = true ∧
    (us 0).Alone hX ln ∧ ((us 0).fibre ln).inFlight = false := by
  refine ⟨alone_of (by decide), by decide, by decide, by decide, by decide, by decide,
    alone_of (by decide), by decide, alone_of (by decide), by decide,
    alone_of (by decide), by decide⟩
theorem test_haltc : ((run (.haltc h0 (sm 0 0)) (ms 0)).coreAt 0).halted = true ∧ ((run (.haltc h0 (sm 0 0)) (ms 0)).pkgAt 0).events.length = 1 ∧
    ((run (.haltc h0 (sm 0 0)) (vec (us 0))).fibre ln).monCopy.cause = 0x61 := by decide +kernel

/-- JKSAVE and JKLOAD of slot a: of a team that is resident, of one beside 64 frames in use, of a held team, of none. -/
def slotted (a : Word) (more : List Team) : State :=
  let s := st [fib 0 [0, 0, 0, 0, 0, 0, a] .supervisor]
  { s with teams := s.teams ++ more }
def fellow : Team := { tm [fib 0 [] .user] with tid := 2, slot := 5 }
def heldTeam : Team := { tm [fib 0 [] .user] with tid := 3, slot := 6, res := .jacketed 2 true false }
def fullFrames : List Team := (List.range 64).map (fun i => { tm [] with tid := 10 + i, slot := 9, res := .jacketed i true false })
def named (s : State) (a : Nat) : Option Team := (s.residents 0).find? (fun x => (if a = 32 then x.tid = 1 else x.slot = a) && x.partKey = 0 && x.res = .resident)
theorem meets_JacketInstructionResults : (slotted 5 [fellow]).Alone hX ln ∧ ((slotted 5 [fellow]).fibre ln).level ≠ .user ∧
    ((slotted 5 [fellow]).fibre ln).hold = none ∧ named (slotted 5 [fellow]) 5 = some fellow ∧ ((slotted 5 [fellow]).framesOf 0 0).length < 64 ∧
    named (slotted 5 (fellow :: fullFrames)) 5 = some fellow ∧ 64 ≤ ((slotted 5 (fellow :: fullFrames)).framesOf 0 0).length ∧
    named (slotted 7 []) 7 = none ∧ (slotted 2 [heldTeam]).jkTarget ((slotted 2 [heldTeam]).team 1) 2 = some heldTeam ∧
    (slotted 7 []).jkTarget ((slotted 7 []).team 1) 7 = none := by
  refine ⟨alone_of (by decide), by decide +kernel, by decide +kernel, by decide +kernel, by decide +kernel,
    by decide +kernel, by decide +kernel, by decide +kernel, by decide +kernel, by decide +kernel⟩

/-- A band of three fibres: one has not reached the collective; all have. -/
def bfib (i : Nat) (a : Word) (p : BitVec 16) (g : Bool) : Fibre := { fib i [0, 0, a] .user with preds := p, gathered := g }
def partBand : State := st [bfib 0 5 0b101 false, bfib 1 7 0b001 false, bfib 2 5 0b101 false]
def wholeBand : State := st [bfib 0 5 0b101 false, bfib 1 7 0b001 true, bfib 2 5 0b101 true]
theorem meets_CollectiveWaitsForItsBand : partBand.Issued ∧ (∀ i ∈ partBand.sig.fids, i / 32 = 0) ∧
    ∃ f ∈ (partBand.team 1).fibres, f.fid / 32 = 0 ∧ f.wait = none ∧ f.fid ∉ partBand.sig.fids ∧ (partBand.fibre ⟨1, f.fid⟩).gathered = false := by
  refine ⟨issued_of (by decide), by decide, ?_⟩
  exact ⟨bfib 1 7 0b001 false, by decide, by decide, by decide, by decide, by decide⟩
theorem meets_CollectiveResults : wholeBand.Whole 0 ∧ (ym 0 0 0x400).imm24.toNat / 2 ^ 8 % 2 ^ 3 ≤ 4 ∧ (ym 3 0 0).subop.toNat < 4 := by
  refine ⟨⟨issued_of (by decide), by decide, by decide, by decide, by decide, by decide⟩, by decide, by decide⟩
/-- R158 to R163: lanes 0 and 2 vote p2; the sum 5 + 7 + 5 and the exclusive sum of lane 2; lane 1 reads lane 0 by SHFL up 1 and 3 by lane. -/
theorem test_collectives : reg (.voteBallot (hops 4 2 0 0) (ym 2 0 0)) wholeBand 4 = 5 ∧ reg (.voteCount (hops 4 2 0 0) (ym 3 0 0)) wholeBand 4 = 2 ∧
    reg (.breduce (hops 4 2 0 0) (ym 0 0 0)) wholeBand 4 = 17 ∧
    ((run (.bscan (hops 4 2 0 0) (ym 0 2 0)) wholeBand).fibre ⟨1, 2⟩).regs.getD 4 0 = 12 ∧
    ((run (.shfl (hops 4 2 0 0) (ym 1 1 1)) wholeBand).fibre ⟨1, 1⟩).regs.getD 4 0 = 5 ∧
    pred (.voteAll (hops 4 2 0 0) (ym 1 0 0)) wholeBand 4 = false ∧ pred (.matchUni (hops 4 2 0 0) (ym 1 0 0)) wholeBand 4 = false := by
  decide +kernel
/-- R44, R163: MATCH gives the lowest matching lane, the number of matches and the place among them; BSYNC lets every participant go on. -/
theorem test_match : ((run (.matchLead (hops 4 2 0 0) (ym 0 0 0)) wholeBand).fibre ⟨1, 2⟩).regs.getD 4 0 = 0 + 2 ^ 5 * 2 + 2 ^ 11 * 1 ∧
    reg (.bsyncMask (hops 4 0 0 0) (ym 1 0 0)) wholeBand 4 = 7 ∧ ((run (.bsync h0 (ym 0 0 0)) wholeBand).fibre ⟨1, 1⟩).pc = 0x4C ∧
    ((run (.bsync h0 (ym 0 0 0)) partBand).fibre ln).pc = 0x40 ∧ ((run (.bsync h0 (ym 0 0 0)) partBand).fibre ln).gathered = true := by decide +kernel

/-- Data in global memory of package 0, and the address's range moved to package 1 (R353, R403). -/
def withMem (s : State) (a : Nat) (bs : List Byte) : State := { s with mem := Memory.write s.mem (physKey 1 0 a) bs }
def far (s : State) : State :=
  let s := (s.modPart 0 (fun p => { p with podtag := 0x101, ranges := p.ranges.set 0 { perm := 0x7F, off := 0x10000000000000 / 65536 } })).modPart 96
    (fun x => { x with podtag := 0x101, ptroot := 0x10000 })
  { s with mem := Memory.write (Memory.write s.mem (physKey 1 1 0x10000) (toBytes 8 0x20000001)) (physKey 1 1 0x20000) (toBytes 8 0x1007F) }
/-- An access whose answer has come from its home. -/
def answered (bs : List Byte) : State := (us 0x1000).modFibre ln (fun f => { f with wait := some ⟨.answer bs, true, 5⟩ })
def hM : Head := hops 4 6 8 10
theorem calm_us : (us 0x1000).Calm ln := calm_of (by decide)
theorem alone_usM : (us 0x1000).Alone hM ln := alone_of (by decide)

/-- Each trap: a recorded store fault behind a release, an undeclared level, high bits, misalignment, no permission, no page. -/
def sfault : State := (us 0x1000).modFibre ln (fun f => { f with storeFault := some 0x77 })
def noPerm : State := (us 0x1000).modPart 0 (fun p => { p with ranges := p.ranges.set 0 { perm := 0 } })
def noPage : State := { us 0x1000 with mem := [] }
theorem meets_AccessTraps : (us 0x1000).Alone hM ln ∧ ((us 0x1000).fibre ln).inFlight = false ∧ (∀ q ∈ (us 0x1000).reqs, ¬ (q.tid = 1 ∧ q.fid = 0)) ∧
    sfault.Alone hM ln ∧ (sfault.fibre ln).storeFault = some 0x77 ∧ ((us 0x1000).team 1).levels[7]? = none ∧ ((us 0x1000).team 1).levels[1]? ≠ none ∧
    ((us 0x1000).readPair ln .sa 6).toNat < 2 ^ 56 ∧ 2 ^ 56 ≤ ((us 0x1000).readPair ln .sa 8).toNat ∧
    ((us 0x1000).readPair ln .sa 6 + (gm .rlx 1 .b4 2).off.signExtend 64).toNat % 4 ≠ 0 ∧
    noPerm.Alone hM ln ∧ (∃ c, noPerm.rangeCheck 0 .user .read 0x1000 = .error c) ∧
    noPage.Alone hM ln ∧ (∃ ia, noPage.rangeCheck 0 .user .read 0x1000 = .ok ia ∧ noPage.blockAt 0 .user .read ia = none) ∧
    ∃ c, noPage.preciseCheck 0 .user .read 0x1000 = .error c := by
  refine ⟨alone_usM, by decide, by decide, alone_of (by decide), by decide, by decide, by decide, by decide, by decide,
    by decide, alone_of (by decide), ⟨0x12, by decide +kernel⟩, alone_of (by decide),
    ⟨0x1000, by decide +kernel, by decide +kernel⟩, ⟨0x14, by decide +kernel⟩⟩

/-- A load and a store near; a load far; an answered load. -/
theorem passes_us : (us 0x1000).Passes ln 1 [.read] ((us 0x1000).readPair ln .sa 6 + (gm .rlx 1 .b4 0).off.signExtend 64) 4 .package 0x1000 :=
  passes_of (by decide +kernel)
theorem meets_LoadStoreResults : (us 0x1000).Alone hM ln ∧ (us 0x1000).Calm ln ∧
    (us 0x1000).Passes ln 1 [.read] ((us 0x1000).readPair ln .sa 6 + (gm .rlx 1 .b4 0).off.signExtend 64) 4 .package 0x1000 ∧
    (us 0x1000).blockAt 0 .user .read 0x1000 = none ∧ homePkg 0x1000 = corePkg 0 ∧
    (us 0x1000).rangeCheck 0 .user .write 0x1000 = .ok 0x1000 ∧ ((us 0x1000).team 1).watched ((us 0x1000).fibre ln) [.write] 0x1000 4 = false ∧
    (us 0x1000).blockAt 0 .user .write 0x1000 = none ∧ (us 0x1000).releaseReady ln (us 0x1000).seq .package = true := by
  refine ⟨alone_usM, calm_us, passes_us, by decide +kernel, by decide, by decide +kernel, by decide +kernel, by decide +kernel, by decide +kernel⟩
theorem meets_LoadStoreResults_far : (far (us 0x1000)).Alone hM ln ∧ (far (us 0x1000)).Calm ln ∧
    (far (us 0x1000)).Passes ln 1 [.read] ((far (us 0x1000)).readPair ln .sa 6 + (gm .rlx 1 .b4 0).off.signExtend 64) 4 .package 0x10000000001000 ∧
    (far (us 0x1000)).blockAt 0 .user .read 0x10000000001000 = none ∧ homePkg 0x10000000001000 ≠ corePkg 0 ∧
    (answered [1, 2, 3, 4]).Alone hM ln ∧ ((answered [1, 2, 3, 4]).fibre ln).wait = some ⟨.answer [1, 2, 3, 4], true, 5⟩ ∧ Ord.rlx.acquires = false := by
  refine ⟨alone_of (by decide), calm_of (by decide),
    passes_of (by decide +kernel), by decide +kernel, by decide,
    alone_of (by decide), by decide, rfl⟩
/-- R197, R291: a load leaves a pending access of 4 bytes and changes no register; the answered one sign-extends a byte; a store queues
its bytes lowest first. -/
theorem test_load_store : ((run (.ld hM (gm .rlx 1 .b4 0)) (us 0x1000)).reqs.map (fun q => (q.ia, q.size))) = [(0x1000, 4)] ∧
    reg (.ld hM (gm .rlx 1 .b4 0)) (us 0x1000) 4 = 0 ∧ reg (.ld hM { gm .rlx 1 .b1 0 with sx := true }) (answered [0x84]) 4 = 0xFFFFFF84 ∧
    ((run (.st hM (gm .rlx 1 .b4 0)) (us 0x1000)).wq.map (fun e => (e.ia, e.bytes))) = [(0x1000, [0x44, 0x33, 0x22, 0x11])] ∧
    (run (.st hM (gm .rlx 1 .b4 0)) (us 0x1000)).mem = (us 0x1000).mem := by decide +kernel
/-- R193, R33: a level of 7, a misaligned address. -/
theorem test_access_traps : ((run (.ld hM (gm .rlx 7 .b4 0)) (vec (us 0x1000))).fibre ln).monCopy.cause = 0x1B ∧
    ((run (.ld hM (gm .rlx 1 .b4 2)) (vec (us 0x1000))).fibre ln).monCopy.cause = 0x17 ∧
    ((run (.ld hM (gm .rlx 1 .b4 2)) (vec (us 0x1000))).fibre ln).monCopy.val = 0x1002 := by decide +kernel

/-- A scratchpad with bytes at 8, no leaf engine-owned, or leaves 1 and 3; a core of a die team beside one of the bytes' owner. -/
def scratch (off k : Word) : State :=
  (st [fib 0 [0, 0, 0, 0, 0, 0, off, 0, k] .user]).modTeam 1 (fun t => { t with scratch := Memory.write [] 8 [1, 2, 3, 0x84, 5, 6, 7, 8] })
def owned (s : State) : State := s.modTeam 1 (fun t => { t with claims := [(7, [1, 3])] })
def neighbour : Team := { tm [fib 0 [] .user] with tid := 2, scratch := Memory.write [] 8 [0xFF, 2, 3, 0x84] }
def dieTeam : State :=
  let s := (scratch 8 4).modTeam 1 (fun t => { t with core := 1, levels := t.levels ++ [⟨2, 4, .package⟩], neighbours := [some 2, none, none, none] })
  { s with teams := s.teams ++ [neighbour] }
theorem free_scratch : ((scratch 8 4).team 1).leafFree 8 4 := by refine ⟨by decide, by decide +kernel⟩
theorem meets_ScratchpadResults : (scratch 8 4).Alone hM ln ∧ ((scratch 8 4).fibre ln).wait = none ∧ ((scratch 8 4).fibre ln).engineFault = none ∧
    (scratch 8 4).acquiring ln = false ∧ (owned (scratch 0x800 4)).acquiring ln = false ∧ (scratch 0x2000 4).acquiring ln = false ∧
    ((scratch 8 4).team 1).leafFree 8 4 ∧ (owned (scratch 0x800 4)).Alone hM ln ∧ 0x800 + 4 ≤ 2048 * ((owned (scratch 0x800 4)).team 1).leaves ∧
    ¬ ((owned (scratch 0x800 4)).team 1).leafFree 0x800 4 ∧ (scratch 9 4).Alone hM ln ∧ ((scratch 9 4).fibre ln).inFlight = false ∧
    (scratch 0x2000 4).Alone hM ln ∧ 2048 * ((scratch 0x2000 4).team 1).leaves < 0x2000 + 4 ∧
    ((scratch 8 4).team 1).levels.any (fun x => x.dom = 4) = false := by
  refine ⟨alone_of (by decide), by decide, by decide, by decide, by decide, by decide, free_scratch,
    alone_of (by decide), by decide, ?_, alone_of (by decide), by decide,
    alone_of (by decide), by decide, by decide⟩
  intro h
  exact h.2 (7, [1, 3]) (by decide +kernel) 1 (by decide) (by decide)
theorem meets_ScratchpadResults_neighbour : dieTeam.Alone hM ln ∧ (dieTeam.team 1).levels.any (fun x => x.dom = 4) = true ∧
    (dieTeam.team 1).core % 4 ≠ (0 : BitVec 2).toNat ∧ (dieTeam.team 1).neighbours.getD 0 none = some 2 ∧ dieTeam.team? 2 = some neighbour ∧
    neighbour.inJacket = false ∧ { neighbour with res := .jacketed 0 false false }.inJacket = true ∧ neighbour.leafFree 8 4 := by
  refine ⟨alone_of (by decide), by decide, by decide, by decide, by decide +kernel, by decide, by decide, ⟨by decide, by decide⟩⟩
/-- R204, R207: LDS joins four bytes lowest first; STS; LDN of the neighbour; a range past the leaves; an engine-owned leaf holds the fibre. -/
theorem test_scratchpad : reg (.lds hM (cs .b4 0)) (scratch 8 4) 4 = 0x84030201 ∧ reg (.ldn hM (cs .b4 0)) dieTeam 4 = 0x840302FF ∧
    Memory.byte ((run (.sts hM (cs .b1 0)) (scratch 8 0x55)).team 1).scratch 8 = 0x55 ∧
    ((run (.lds hM (cs .b4 0)) (vec (scratch 0x2000 4))).fibre ln).monCopy.cause = 0x1A ∧
    ((run (.leafwt hM (cs .b1 0)) (owned (scratch 0x800 4))).fibre ln).wait.isSome = true ∧
    pred (.leaftst hM (cs .b1 0)) (owned (scratch 0x800 4)) 4 = false ∧ pred (.leaftst hM (cs .b1 0)) (scratch 8 4) 4 = true := by decide +kernel

theorem meets_AtomicInstructionResults : (us 0x1000).Alone hM ln ∧ (us 0x1000).Calm ln ∧
    (us 0x1000).Passes ln 1 [.read, .write] ((us 0x1000).readPair ln .sa 6 + (am .acq 1 .b4 .add).off.signExtend 64) 4 .package 0x1000 ∧
    (us 0x1000).Passes ln 1 [.write] ((us 0x1000).readPair ln .sa 6 + (am .rlx 1 .b4 .add).off.signExtend 64) 4 .package 0x1000 ∧
    (us 0x1000).Passes ln 1 [.read, .write] ((us 0x1000).readPair ln .sa 6) 8 .package 0x1000 ∧ homePkg 0x1000 = corePkg 0 ∧
    (answered [1, 2, 3, 4]).Alone hM ln ∧ ((answered [1, 2, 3, 4]).fibre ln).wait = some ⟨.answer [1, 2, 3, 4], true, 5⟩ := by
  refine ⟨alone_usM, calm_us, passes_of (by decide +kernel),
    passes_of (by decide +kernel),
    passes_of (by decide +kernel), by decide,
    alone_of (by decide), by decide⟩
theorem meets_AtomicInstructionResults_far : (far (us 0x1000)).Alone hM ln ∧ (far (us 0x1000)).Calm ln ∧
    (far (us 0x1000)).Passes ln 1 [.read, .write] ((far (us 0x1000)).readPair ln .sa 6 + (am .rlx 1 .b4 .add).off.signExtend 64) 4 .package 0x10000000001000 ∧
    homePkg 0x10000000001000 ≠ corePkg 0 := by
  refine ⟨alone_of (by decide), calm_of (by decide),
    passes_of (by decide +kernel), by decide⟩
theorem meets_AtomicOperationValues : 0 < 32 ∧ 0xFFFFFFFF < 2 ^ 32 ∧ 1 < 2 ^ 32 ∧ 5 < 2 ^ 32 := by decide
/-- R220: the sum wraps; -1 is the lesser, signed; the wrapping increment and decrement; CAS where the value differs. -/
theorem test_atomic : atomicOp .add false false 32 0xFFFFFFFF 1 0 = 0 ∧ atomicOp .min true false 32 0xFFFFFFFF 1 0 = 0xFFFFFFFF ∧
    atomicOp .min false false 32 0xFFFFFFFF 1 0 = 1 ∧ atomicOp .incw false false 32 5 5 0 = 0 ∧ atomicOp .decw false false 32 0 9 0 = 9 ∧
    atomicOp .add false true 32 5 6 7 = 5 ∧ atomicOp .add false true 32 5 5 7 = 7 ∧
    ((run (.red hM (am .rlx 1 .b4 .add)) (us 0x1000)).reqs.map (fun q => (q.ia, q.b))) = [(0x1000, 0x11223344)] := by decide +kernel

/-- A tile of two rows of 4 bytes, 8 apart, at 0x1000; one whose step has been taken. -/
def tileAt : State := withMem (st [fib 0 [0, 0, 0, 0, 0, 0, 0x1000, 0, 0x40, 0, 0x4004, 8] .user]) 0x1000 [1, 2, 3, 4, 5, 6, 7, 8, 9, 10, 11, 12]
def tileReq : Req :=
  { id := 50, kind := .tileLoad, tid := 1, fid := 0, core := 0, part := 0, order := 50, va := 0x1000, sp := 0, ia := 0x1000
    size := 8, pt := .package, off := 0x40, data := [1, 2, 3, 4, 9, 10, 11, 12] }
def tileDone : State := { tileAt.modFibre ln (fun f => { f with hold := some (.tile 50 true) }) with reqs := [tileReq] }
theorem meets_TileBlockAndFenceResults : tileDone.Alone hM ln ∧ (tileDone.fibre ln).wait = none ∧ (tileDone.fibre ln).hold = some (.tile 50 true) ∧
    tileDone.reqs.find? (fun r => r.id = 50) = some tileReq ∧ (tileDone.team 1).leafFree 0x40 8 ∧ tileAt.Alone hM ln ∧ tileAt.Calm ln ∧
    (∃ x, tileChecks (tileAt.team 1) 1 (tileAt.readPair ln .sc 10) 0x1000 0x40 = .ok (x, .package) ∧
      tileAt.tileProbe (tileAt.team 1) (tileAt.fibre ln) .read (x.runs 0x1000) = .ok [(0, 0x1000, 4), (0, 0x1008, 4)] ∧
      (x.runs 0x1000).any (fun r => (tileAt.team 1).watched (tileAt.fibre ln) [.read] r.1 r.2) = false) ∧
    tileAt.heldRun (tileAt.team 1) (tileAt.fibre ln) .read [(0, 0x1000, 4), (0, 0x1008, 4)] = none ∧ tileAt.releaseReady ln tileAt.seq .package = true ∧
    tileAt.cwbRuns 0 65538 0x1000 0x40 = .ok [(0x1000, 64)] ∧ tileAt.pageCheck 0 .user (some .write) 0x1000 ≠ .held ∧
    ∃ c, noPerm.accessChecks (noPerm.team 1) (noPerm.fibre ln) 1 [.read] 0x1000 1 = .error c := by
  refine ⟨alone_of (by decide), by decide, by decide, by decide, ⟨by decide, by decide⟩,
    alone_of (by decide), calm_of (by decide),
    ⟨⟨4, 2, 8⟩, by decide, by decide +kernel, by decide +kernel⟩, by decide +kernel, by decide +kernel, by decide +kernel, by decide +kernel, ⟨(0x12, 0x1000), by decide +kernel⟩⟩
/-- A whole band at an LDB of 32 words. -/
def blockBand : State :=
  withMem (st [{ fib 0 (rs 0x1000 0) .user with gathered := false }, { fib 1 (rs 0x1000 0) .user with gathered := true }]) 0x1000 [1, 2, 3, 4, 5, 6, 7, 8]
theorem meets_TileBlockAndFenceResults_block : blockBand.Whole 0 ∧ ((blockBand.bandLanes 0).filter (blockBand.guard hM)).head? = some ln ∧
    (∀ q ∈ blockBand.reqs, q.tid ≠ 1) ∧ (blockBand.readPair ln .sa 6).toNat % (32 * 4) = 0 ∧
    blockBand.blockChecks (blockBand.team 1) (blockBand.fibre ln) (fun sp => (blockBand.ldbReader [ln, ⟨1, 1⟩] sp 0x1000 4).own) 0x1000 1 0 = .ok () ∧ blockBand.rangeCheck 0 .user .read 0x1000 = .ok 0x1000 ∧
    blockBand.pageCheck 0 .user (some .read) 0x1000 ≠ .held ∧ blockBand.regs = [] ∧
    (blockBand.takeAll 0 (blockBand.ldbReader [ln, ⟨1, 1⟩] 0 0x1000 4) 0 0x1000 .package .default 128).2.isSome = true := by
  refine ⟨⟨issued_of (by decide), by decide, by decide, by decide, by decide, by decide⟩, by decide, by decide, by decide, by decide +kernel,
    by decide +kernel, by decide +kernel, rfl, by decide +kernel⟩
/-- R201: lane 1 of an LDB of words receives the second word of the block; R217: PREF goes on. -/
theorem test_block : ((run (.ldb hM (gm .rlx 1 .b4 0)) blockBand).fibre ⟨1, 1⟩).regs.getD 4 0 = 0x08070605 ∧
    ((run (.pref hM (gm .rlx 1 .b1 0)) (us 0x1000)).fibre ln).pc = 0x4C ∧
    ((run (.tld hM (gm .rlx 1 .b1 0)) tileDone).fibre ln).pc = 0x4C ∧ Memory.byte ((run (.tld hM (gm .rlx 1 .b1 0)) tileDone).team 1).scratch 0x44 = 9 := by
  decide +kernel

/-- Words and blocks in bytes. -/
def wds (ws : List Nat) : List Byte := ws.flatMap (toBytes 4)
def pad (n : Nat) (b : List Byte) : List Byte := (b ++ List.replicate n 0).take n
/-- A reservation's record in s16 to s19 and the core's reservations; v7 is 3. -/
def resv (num base len : Nat) (e : BitVec 6) : Resv := ⟨num, 1, base, len, e, false, false, 0, 16, 0, 0, none⟩
def recorded (w0 : Word) (rs : List Resv) : State :=
  ((st [fib 0 [0, 0, 0, 0, 0, 0, 3, 20] .user]).modTeam 1 (fun t => { t with scalars := List.replicate 16 0 ++ [w0, 0x40, 0, 0] ++ List.replicate 44 0 })).modCore 0
    (fun c => { c with resvs := rs, ob := [(5, 1), (1024 * 250, 9)] })
def hS : Head := hops 4 0x310 0 0
def sixteen : List Resv := (List.range 16).map (fun i => resv i (2 * i) 1 3)
/-- Length 16 in format 3 is 16 + 3 * 2^9; no number free; no room for 200 granules; a length of 0. -/
theorem meets_ReservationResults : (recorded (0x610) []).Alone hS ln ∧ (recorded 0x610 []).Calm ln ∧ (recorded 0x610 []).blockReady ln .sa 0x310 16 ∧
    ofBytes (((recorded 0x610 []).blockBytes ln .sa 0x310 16).take 4) = 0x610 ∧ (elemOf 3).isSome = true ∧
    (recorded 0x610 sixteen).Alone hS ln ∧ (recorded 0x610 sixteen).Calm ln ∧ (∀ n, n < 16 → ∃ r ∈ sixteen, r.num = n) ∧
    (recorded 0x6C8 [resv 0 0 100 3]).Alone hS ln ∧ (∀ base, 256 < base + 200 ∨ ∃ r ∈ [resv 0 0 100 3], base < r.base + r.len ∧ r.base < base + 200) ∧
    (recorded 0x600 []).Alone hS ln ∧ ((recorded 0x600 []).fibre ln).inFlight = false := by
  refine ⟨alone_of (by decide), calm_of (by decide), .inl (by decide), by decide, by decide,
    alone_of (by decide), calm_of (by decide), by decide,
    alone_of (by decide), ?_, alone_of (by decide), by decide⟩
  intro base
  by_cases h : 256 < base + 200
  · exact .inl h
  · exact .inr ⟨resv 0 0 100 3, by simp, by simp [resv]; omega, by simp [resv]⟩
/-- OBREL of a number past 15, of one that the team does not hold, of one that it holds. -/
def releasing (num : Word) (rs : List Resv) : State := (st [fib 0 [0, 0, 0, 0, 0, 0, num] .user]).modCore 0 (fun c => { c with resvs := rs })
def hR : Head := hops 0 6 0 0
theorem meets_ReservationResults_release : (releasing 16 []).Alone hR ln ∧ ((releasing 16 []).fibre ln).inFlight = false ∧ 16 ≤ ((releasing 16 []).readReg ln .sa 6).toNat ∧
    (releasing 3 []).Alone hR ln ∧ ((releasing 3 []).readReg ln .sa 6).toNat < 16 ∧ (releasing 3 [resv 3 0 16 3]).Alone hR ln ∧
    (releasing 3 [resv 3 0 16 3]).Calm ln ∧ ((releasing 3 [resv 3 0 16 3]).coreAt 0).resvs.find? (fun r => r.num = 3 && r.tid = 1 && r.gone = none) = some (resv 3 0 16 3) := by
  refine ⟨alone_of (by decide), by decide, by decide, alone_of (by decide), by decide,
    alone_of (by decide), calm_of (by decide), by decide⟩
/-- R233 to R236: the lowest free number at the lowest base; after a reservation of 100, base 100; OB_RECORD for a length of 0. -/
theorem test_obres : reg (.obres hS (em .rlx 0 0)) (recorded 0x610 [resv 0 0 100 3]) 4 = 1 ∧
    ((run (.obres hS (em .rlx 0 0)) (recorded 0x610 [resv 0 0 100 3])).coreAt 0).resvs.map (fun r => (r.num, r.base, r.len)) = [(0, 0, 100), (1, 100, 16)] ∧
    reg (.obres hS (em .rlx 0 0)) (recorded 0x610 sixteen) 4 = 0xFFFFFFFF ∧
    ((run (.obres hS (em .rlx 0 0)) (vec (recorded 0x600 []))).fibre ln).monCopy.cause = 0x42 := by decide +kernel

/-- v6 and v8 are a and b; a block at 0x400 of the scratchpad; reservations of the core. -/
def engine (a b : Word) (blk : List Byte) : State :=
  ((st [fib 0 [0, 0, 0, 0, 0, 0, a, 0, b] .user]).modTeam 1 (fun t => { t with scratch := Memory.write [] 0x400 blk })).modCore 0
    (fun c => { c with resvs := [resv 1 0 100 3, resv 2 100 100 3], tableVer := [3, 4, 5, 6] })
def efault : State := (engine 0x400 0 []).modFibre ln (fun f => { f with engineFault := some 0x99 })
/-- MMA of a 32 by 32 by 16 block of reservations 1 and 2; TCOPY of 32 bytes from 0x1000; TGATH of 4 rows from row 2. -/
def mmaBlock : List Byte := pad 64 (wds [1 + 2 * 16 + 2 ^ 14])
def copyBlock : List Byte := pad 128 (toBytes 8 0x1000 ++ wds [4 * 2, 0, 0, 0, 16, 8])
def gatherBlock : List Byte := pad 64 (toBytes 8 0x1000 ++ toBytes 8 0x1100 ++ toBytes 8 0x1200 ++ wds [2, 4, 0, 0x800, 0x900])
/-- The fault; ACCZ in the grant, past it, and malformed; ACCRD; CTAB. -/
theorem meets_EngineCommandResults : efault.Alone hM ln ∧ (efault.fibre ln).engineFault = some 0x99 ∧ (efault.fibre ln).storeFault = none ∧
    (efault.fibre ln).inFlight = false ∧ (engine 0x102 0x102 []).Alone hM ln ∧ ((engine 0x102 0x102 []).fibre ln).engineFault = none ∧
    ((engine 0x102 0x102 []).fibre ln).wait = none ∧ ((engine 0x102 0x102 []).readReg ln .sa 6).toNat % 64 + 1 + 1 ≤ ((engine 0x102 0x102 []).team 1).acct ∧
    (engine 0x303 0 []).Alone hM ln ∧ ((engine 0x303 0 []).team 1).acct < 3 + 3 + 1 ∧ (engine 0x4000 0 []).Alone hM ln ∧
    (engine 0x800 0x100 []).Alone hM ln ∧ 0x800 + 1024 * 2 * 2 ≤ 2048 * ((engine 0x800 0x100 []).team 1).leaves ∧
    (engine 0x400 0 (pad 32 (wds [1, 2, 3]))).Alone hM ln ∧ (engine 0x400 0 (pad 32 (wds [1, 2, 3]))).blockReady ln .sa 6 32 := by
  refine ⟨alone_of (by decide), by decide, by decide, by decide, alone_of (by decide), by decide, by decide,
    by decide, alone_of (by decide), by decide, alone_of (by decide),
    alone_of (by decide), by decide, alone_of (by decide),
    ready_of (by decide +kernel)⟩
def mmaAt : State := engine 0x400 0 mmaBlock
theorem meets_EngineCommandResults_mma : mmaAt.Alone hM ln ∧ mmaAt.acquiring ln = false ∧ mmaAt.blockReady ln .sa 6 64 ∧ mmaAt.blockBytes ln .sa 6 64 = mmaBlock ∧
    (mmaAt.coreAt 0).liveResv 1 1 = some (resv 1 0 100 3) ∧ (mmaAt.coreAt 0).liveResv 1 2 = some (resv 2 100 100 3) ∧
    (resv 1 0 100 3).fits (readMma mmaBlock).m (readMma mmaBlock).kept (readMma mmaBlock).k = true ∧
    (resv 2 100 100 3).fits (readMma mmaBlock).n 16 (readMma mmaBlock).k = true ∧ (readMma mmaBlock).acc + 1 ≤ (mmaAt.team 1).acct ∧
    (readMma mmaBlock).m / 32 * ((readMma mmaBlock).n / 32) = 1 ∧ mmaAt.neighbourCheck (mmaAt.team 1) 0 0 0 = none := by
  refine ⟨alone_of (by decide), by decide, ready_of (by decide +kernel), by decide +kernel, by decide, by decide, by decide +kernel,
    by decide +kernel, by decide +kernel, by decide +kernel, by decide +kernel⟩
def copyAt : State := engine 0x400 0 copyBlock
def gatherAt : State := engine 0x400 0 gatherBlock
theorem meets_EngineCommandResults_copy : copyAt.Alone hM ln ∧ copyAt.blockReady ln .sa 6 128 ∧ copyAt.blockBytes ln .sa 6 128 = copyBlock ∧
    copyBad copyBlock (em .rlx 1 0) = none ∧ copyResv (copyAt.coreAt 0) 1 (readCopy copyBlock) = .ok none ∧
    copyAt.copyRange (copyAt.team 1) (copyAt.fibre ln) (readCopy copyBlock) = none ∧ (readCopy copyBlock).esz * (readCopy copyBlock).count ≤ 2048 ∧
    gatherAt.Alone hM ln ∧ gatherAt.blockReady ln .sa 6 64 ∧ gatherAt.blockBytes ln .sa 6 64 = gatherBlock ∧ (readGather gatherBlock).nrow = 4 ∧
    (∀ x ∈ [(readGather gatherBlock).rowptr, (readGather gatherBlock).cols, (readGather gatherBlock).ptroff, (readGather gatherBlock).coloff], x % 4 = 0) ∧
    (∀ x ∈ [(readGather gatherBlock).vals, (readGather gatherBlock).valoff], x % (readGather gatherBlock).vsz = 0) := by
  refine ⟨alone_of (by decide), ready_of (by decide +kernel), by decide +kernel, by decide +kernel, by decide +kernel,
    by decide +kernel, by decide +kernel, alone_of (by decide), ready_of (by decide +kernel), by decide +kernel,
    by decide +kernel, by decide +kernel, by decide +kernel⟩
/-- R226, R244: ACCZ of tiles 2 and 3 enters the order; past the grant of 4 tiles ACC_RANGE with the first tile outside; the fault first. -/
theorem test_engine : (run (.accz hM (em .rlx 0 0)) (engine 0x102 0 [])).cmds.map (fun c => (c.tile, c.tiles)) = [(2, 2)] ∧
    ((run (.accz hM (em .rlx 0 0)) (vec (engine 0x303 0 []))).fibre ln).monCopy.cause = 0x40 ∧
    ((run (.accz hM (em .rlx 0 0)) (vec (engine 0x303 0 []))).fibre ln).monCopy.val = 4 ∧
    ((run (.mma hM (em .rlx 0 0)) (vec efault)).fibre ln).monCopy.cause = 0x45 ∧ (run (.mma hM (em .rlx 0 0)) mmaAt).cmds.length = 1 ∧
    ((run (.tcopy hM (em .rlx 1 0)) copyAt).team 1).claims.map (·.2) = [[0]] := by decide +kernel

/-- A queue header at 0x1000 with WRITE, READ, the base 0x2000 and room for 16; a counter at 0x1000. -/
def hQ : Head := hops 4 6 0x310 0
def header (wr rd : Nat) : List Byte := toBytes 8 wr ++ toBytes 8 rd ++ toBytes 8 0 ++ toBytes 8 0x2000 ++ toBytes 4 4
def pushing (wr rd : Nat) : State :=
  withMem ((us 0x1000).modTeam 1 (fun t => { t with scalars := (List.range 64).map (BitVec.ofNat 32) })) 0x1000 (header wr rd)
def counting (v : Nat) (target : Word) : State := withMem (st [fib 0 [0, 0, 0, 0, 0, 0, 0x1000, 0, target] .user]) 0x1000 (toBytes 8 v)
theorem meets_QueueAndCounterResults : (pushing 5 4).Alone hQ ln ∧ (pushing 5 4).Calm ln ∧
    (pushing 5 4).Passes ln 1 [.read, .write] ((pushing 5 4).readPair ln .sa 6) 128 .package 0x1000 ∧ (pushing 5 4).Homed ln 0x1000 128 ∧
    (pushing 5 4).blockReady ln .sb 0x310 64 ∧ (pushing 5 4).Passes ln 0 [.read, .write] ((pushing 5 4).readPair ln .sa 6) 128 .core 0x1000 ∧
    queueBad ((pushing 5 4).homeTake 0 0 0x1000 128).1 = false ∧
    (∀ o, o < 64 → (pushing 5 4).rangeCheck 0 .user .write (0x2000 + 64 * 5 + o) = .ok (0x2140 + o)) ∧
    (∀ i, i < 8 → ((pushing 5 4).team 1).watched ((pushing 5 4).fibre ln) [.write] (0x2140 + 8 * i) 8 = false) ∧
    queueBad ((us 0x1000).homeTake 0 0 0x1000 128).1 = true ∧ (20 + 2 ^ 64 - 4) % 2 ^ 64 = 16 := by
  refine ⟨alone_of (by decide), calm_of (by decide),
    passes_of (by decide +kernel), ⟨by decide, by decide, by decide, by decide +kernel, by decide +kernel⟩, .inl (by decide),
    passes_of (by decide +kernel), by decide +kernel, by decide +kernel, by decide +kernel, by decide +kernel, by decide⟩
theorem meets_QueueAndCounterResults_counter : (counting 7 7).Alone hM ln ∧ (counting 7 7).Calm ln ∧
    (counting 7 7).Passes ln 1 [.read] ((counting 7 7).readPair ln .sa 6) 8 .package 0x1000 ∧ (counting 7 7).Homed ln 0x1000 8 ∧
    ((counting 7 7).readPair ln .sb 8).toNat ≤ ofBytes ((counting 7 7).homeTake 0 0 0x1000 8).1 ∧ (counting 7 8).Alone hM ln ∧
    ofBytes ((counting 7 8).homeTake 0 0 0x1000 8).1 < ((counting 7 8).readPair ln .sb 8).toNat := by
  refine ⟨alone_of (by decide), calm_of (by decide),
    passes_of (by decide +kernel), ⟨by decide, by decide, by decide, by decide +kernel, by decide +kernel⟩, by decide +kernel,
    alone_of (by decide), by decide +kernel⟩
/-- R251, R257: QPUSH returns the index 5, WRITE becomes 6, the header of the packet is queued last; a full queue answers all ones;
CTRTEST. -/
theorem test_queue : reg (.qpush hQ (em .rlx 1 0)) (pushing 5 4) 4 = 5 ∧ ((run (.qpush hQ (em .rlx 1 0)) (pushing 5 4)).wq.map (·.ia)).getLast? = some 0x2140 ∧
    reg (.qpush hQ (em .rlx 1 0)) (pushing 20 4) 4 = 0xFFFFFFFF ∧ pred (.ctrtest hM (em .rlx 1 0)) (counting 7 7) 4 = true ∧
    pred (.ctrtest hM (em .rlx 1 0)) (counting 7 8) 4 = false ∧ ((run (.ctrwait hM (em .rlx 1 0)) (counting 7 8)).fibre ln).wait.isSome = true := by
  decide +kernel

/-- A handle of the team's barrier 0 with TAG 1, a token in v8, and the barrier (R261, R265). -/
def barHandle : Dword := BitVec.ofNat 64 (2 ^ 63 + 2 ^ 32)
def atBarrier (tok : Word) (bars : List Barrier) : State :=
  (st [fib 0 [0, 0, 0, 0, 0, 0, barHandle.lo, barHandle.hi, tok] .user]).modTeam 1 (fun t => { t with barriers := bars })
def bar (exp cnt : Nat) (gen : Word) : Barrier := ⟨true, exp, cnt, gen⟩
/-- A lane whose team has no fibre in turn is the foremost. -/
theorem foremost_of_none (s : State) (l : Lane) (obj : Dword) (h : ∀ g ∈ (s.team l.tid).fibres, g.turn = none) : s.Foremost l obj := by
  intro g hg _ x hx
  rw [h g hg] at hx
  cases hx
/-- Allocation: a count of 0, of 65,535 with barrier 1 free, of 5 with both in use. -/
theorem meets_BarrierResults : (us 0).Alone hM ln ∧ ((us 0).fibre ln).inFlight = false ∧ ((us 0).readReg ln .sa 6).toNat = 0 ∧
    (us 0xFFFF).Alone hM ln ∧ 1 ≤ ((us 0xFFFF).readReg ln .sa 6).toNat ∧ ((us 0xFFFF).readReg ln .sa 6).toNat ≤ 65535 ∧
    1 < ((us 0xFFFF).team 1).bars ∧ (({ us 0xFFFF with teams := [{ tm [] with barriers := [bar 1 0 0] }] }.team 1).barriers.getD 1 { }).live = false ∧
    (atBarrier 0 [bar 1 0 0, bar 1 0 0]).Alone hM ln ∧ ∀ i, i < 2 → (((atBarrier 0 [bar 1 0 0, bar 1 0 0]).team 1).barriers.getD i { }).live = true := by
  refine ⟨alone_of (by decide), by decide, by decide, alone_of (by decide), by decide, by decide,
    by decide, by decide, alone_of (by decide), by decide⟩
/-- The handle names barrier 0, whose last arrival is due, or another; its generation is the token's, or not; it names none. -/
theorem meets_BarrierResults_handle : (atBarrier 5 [bar 3 2 5]).Alone hM ln ∧ (atBarrier 5 [bar 3 2 5]).Calm ln ∧
    (((atBarrier 5 [bar 3 2 5]).team 1).levels[1]?).map Lvl.pt = some .package ∧ (atBarrier 5 [bar 3 2 5]).readPair ln .sa 6 = barHandle ∧
    (atBarrier 5 [bar 3 2 5]).barTag ((atBarrier 5 [bar 3 2 5]).team 1) 0 = 1 ∧ (bar 3 2 5).cnt + 1 = (bar 3 2 5).exp ∧
    (atBarrier 5 [bar 3 2 5]).readReg ln .sb 8 = (bar 3 2 5).gen ∧ (atBarrier 5 [bar 3 2 5]).releaseReady ln (atBarrier 5 [bar 3 2 5]).seq .package = true ∧
    (atBarrier 4 [bar 3 0 5]).Alone hM ln ∧ (bar 3 0 5).cnt + 1 ≠ (bar 3 0 5).exp ∧ (bar 3 0 5).gen ≠ (atBarrier 4 [bar 3 0 5]).readReg ln .sb 8 ∧
    (∀ f ∈ ((atBarrier 4 [bar 3 0 5]).team 1).fibres, f.wait = none) ∧ (atBarrier 4 []).Alone hM ln ∧ 2 ^ 63 ≤ ((atBarrier 4 []).readPair ln .sa 6).toNat ∧
    ∀ i, i < 64 → (((atBarrier 4 []).team 1).barriers.getD i { }).live = false := by
  refine ⟨alone_of (by decide), calm_of (by decide), by decide, by decide, by decide, by decide,
    by decide, by decide +kernel, alone_of (by decide), by decide, by decide, by decide,
    alone_of (by decide), by decide, by decide⟩
/-- Barrier 0 with fibre 1 ahead on it. -/
def behind : State :=
  (st [fib 0 [0, 0, 0, 0, 0, 0, barHandle.lo, barHandle.hi, 5] .user, { fib 1 [] .user with turn := some (barHandle.toNat, 7) }]).modTeam 1
    (fun t => { t with barriers := [bar 3 2 5] })
theorem meets_BarrierResults_turn : (atBarrier 5 [bar 3 2 5]).Foremost ln barHandle ∧ (atBarrier 4 [bar 3 0 5]).Foremost ln barHandle ∧
    behind.Alone hM ln ∧ behind.Calm ln ∧ behind.readPair ln .sa 6 = barHandle ∧ ¬ behind.Foremost ln barHandle := by
  refine ⟨foremost_of_none _ _ _ (by decide), foremost_of_none _ _ _ (by decide), alone_of (by decide),
    calm_of (by decide), by decide, fun h => ?_⟩
  exact absurd (h { fib 1 [] .user with turn := some (barHandle.toNat, 7) } (by decide) (by decide) _ rfl rfl) (by decide)
/-- R261 to R265: the third of three arrivals opens generation 6 and goes on; the first one waits; BARARV returns the generation it met. -/
theorem test_barrier : ((run (.barsync hM (ym 0 1 0)) (atBarrier 5 [bar 3 2 5])).team 1).barriers.head? = some (bar 3 0 6) ∧
    ((run (.barsync hM (ym 0 1 0)) (atBarrier 5 [bar 3 2 5])).fibre ln).pc = 0x4C ∧
    ((run (.barsync hM (ym 0 1 0)) (atBarrier 5 [bar 3 0 5])).fibre ln).wait.isSome = true ∧
    reg (.bararv hM (ym 0 1 0)) (atBarrier 5 [bar 3 0 5]) 4 = 5 ∧ reg (.barallocImm hM (ym 1 0 3)) (us 0) 5 = 0x80000001 := by decide +kernel

/-- A barrier of 3 in memory at 0x1000, one arrival before the last; malformed with a count of 0. -/
def memBar (exp cnt gen : Nat) (tok : Word) : State := withMem (st [fib 0 [0, 0, 0, 0, 0, 0, 0x1000, 0, tok] .user]) 0x1000 (wds [exp, cnt, gen, 0])
theorem meets_MemoryBarrierResults : (memBar 3 1 3 3).Alone hM ln ∧ (memBar 3 1 3 3).Calm ln ∧ (memBar 3 1 3 3).Homed ln 0x1000 16 ∧ (memBar 3 1 3 3).Foremost ln 0x1000 ∧
    (((memBar 3 1 3 3).team 1).levels[1]?).map Lvl.pt = some .package ∧ ((memBar 3 1 3 3).readPair ln .sa 6).toNat < 2 ^ 63 ∧
    (memBar 3 1 3 3).releaseReady ln (memBar 3 1 3 3).seq .package = true ∧
    (memBar 3 1 3 3).objectChecks ((memBar 3 1 3 3).team 1) ((memBar 3 1 3 3).fibre ln) [.read, .write] 0x1000 16 = .ok 0x1000 ∧
    ((memBar 3 1 3 3).homeTake 0 0 0x1000 16).1 = wds [3, 1, 3, 0] ∧ ((memBar 3 2 4 3).homeTake 0 0 0x1000 16).1 = wds [3, 2, 4, 0] ∧
    ((memBar 0 0 0 3).homeTake 0 0 0x1000 16).1 = wds [0, 0, 0, 0] := by
  refine ⟨alone_of (by decide), calm_of (by decide),
    ⟨by decide, by decide, by decide, by decide +kernel, by decide +kernel⟩, foremost_of_none _ _ _ (by decide), by decide, by decide, by decide +kernel, by decide +kernel, by decide +kernel, by decide +kernel, by decide +kernel⟩
theorem test_memory_barrier : reg (.bararv hM (ym 0 1 0)) (memBar 3 1 3 3) 4 = 3 ∧ ((run (.barsync hM (ym 0 1 0)) (memBar 3 2 4 3)).fibre ln).pc = 0x4C ∧
    ((run (.barsync hM (ym 0 1 0)) (vec (memBar 0 0 0 3))).fibre ln).monCopy.cause = 0x52 := by decide +kernel

/-- A future at 0x1000: unresolved, resolved, malformed; a continuation record at 0x3000. -/
def futWord (state count head : Nat) : List Byte := toBytes 8 (state * 2 ^ 62 + count * 2 ^ 48 + head)
def future (state count head : Nat) : State :=
  withMem (withMem (st [fib 0 [0, 0, 0, 0, 0, 0, 0x1000, 0, 0x3000] .user]) 0x1000 (futWord state count head ++ toBytes 8 0x77)) 0x3000
    ([0x5000, 1, 2, 3, 4, 0, 0, 0x21].flatMap (toBytes 8))
theorem meets_FutureResults : (future 0 0 0).Alone hM ln ∧ (future 0 0 0).Calm ln ∧ (future 0 0 0).Homed ln 0x1000 16 ∧ (future 0 0 0).Foremost ln 0x1000 ∧
    (((future 0 0 0).team 1).levels[1]?).map Lvl.pt = some .package ∧
    (future 0 0 0).objectChecks ((future 0 0 0).team 1) ((future 0 0 0).fibre ln) [.read, .write] 0x1000 16 = .ok 0x1000 ∧
    (future 0 0 0).objectChecks ((future 0 0 0).team 1) ((future 0 0 0).fibre ln) [.read] 0x1000 16 = .ok 0x1000 ∧
    (future 0 0 0).releaseReady ln (future 0 0 0).seq .package = true ∧ ((future 0 0 0).homeTake 0 0 0x1000 16).1 = futWord 0 0 0 ++ toBytes 8 0x77 ∧
    ((future 2 0 0).homeTake 0 0 0x1000 16).1 = futWord 2 0 0 ++ toBytes 8 0x77 ∧ ((future 1 0 9).homeTake 0 0 0x1000 16).1 = futWord 1 0 9 ++ toBytes 8 0x77 := by
  refine ⟨alone_of (by decide), calm_of (by decide),
    ⟨by decide, by decide, by decide, by decide +kernel, by decide +kernel⟩, foremost_of_none _ _ _ (by decide), by decide, by decide +kernel, by decide +kernel, by decide +kernel, by decide +kernel, by decide +kernel,
    by decide +kernel⟩
theorem meets_FutureResults_cont : ((future 0 0 0).readPair ln .sb 8).toNat % 2 ^ 8 = 0 ∧
    (future 0 0 0).kindChecks ((future 0 0 0).team 1) ((future 0 0 0).fibre ln) [.read, .write] 0x3000 64 = .ok 0x3000 ∧ (future 0 0 0).Homed ln 0x3000 64 ∧
    recordBad 0x3000 ((future 0 0 0).homeTake 0 0 0x3000 64).1 = false := by
  refine ⟨by decide, by decide +kernel, ⟨by decide, by decide, by decide, by decide +kernel, by decide +kernel⟩, by decide +kernel⟩
/-- R268, R269: FUTWAIT.park of a resolved future returns its value and success; FUTTEST of an unresolved one; a second FUTSET traps. -/
theorem test_future : reg (.futwaitPark hM { ym 0 1 0 with pred := 5 }) (future 2 0 0) 4 = 0x77 ∧ pred (.futwaitPark hM { ym 0 1 0 with pred := 5 }) (future 2 0 0) 5 = true ∧
    pred (.futtest hM (ym 0 1 0)) (future 0 0 0) 4 = false ∧ ((run (.futset hM (ym 0 1 0)) (vec (future 2 0 0))).fibre ln).monCopy.cause = 0x50 := by decide +kernel

/-- A phaser's handle and slot on core 50's node, and the team's registration (R276 to R278). -/
def phHandle : Dword := BitVec.ofNat 64 (2 ^ 63 + 2 ^ 32 + 2 ^ 30 + 2 ^ 16)
def phSlot (any : Bool) : PhSlot :=
  ⟨1, 0, true, 1, phHandle, { any := any, phase := 5, parties := 5, arrived := 1, waiters := 1, payload := 0x33, apkg := 4 },
    [{ team := some 1, cur := 2, wt := true }, { team := none, cur := 3 }], none⟩
def phasing (b : Word) (any : Bool) (sigp : Nat) (wt : Bool) : State :=
  ((st [fib 0 [0, 0, 0, 0, 0, 0, phHandle.lo, phHandle.hi, b] .user]).modTeam 1 (fun t => { t with phasers := [⟨phHandle, sigp, wt⟩], core := 50 })).modPkg 0
    (fun p => { p with slots := [phSlot any] })
def sixteenRegs : State := (phasing 5 false 2 true).modTeam 1 (fun t => { t with phasers := (List.range 16).map (fun i => ⟨BitVec.ofNat 64 i, 1, true⟩) })
/-- Creation: sixteen registrations; a free slot. -/
theorem meets_PhaserResults : sixteenRegs.Alone hM ln ∧ sixteenRegs.Calm ln ∧ 16 ≤ (sixteenRegs.team 1).phasers.length ∧ (ym 4 0 3).subop.toNat % 4 ≠ 3 ∧
    (phasing 5 false 2 true).Alone hM ln ∧ (phasing 5 false 2 true).Calm ln ∧ ((phasing 5 false 2 true).team 1).phasers.length < 16 ∧
    ((phasing 5 false 2 true).freeSlot 0 1).isSome = true := by
  refine ⟨alone_of (by decide), calm_of (by decide), by decide, by decide,
    alone_of (by decide), calm_of (by decide), by decide, by decide +kernel⟩
/-- A handle that the team may use, and one that names nothing; a drop within the registration and past it; an arrival; a wait. -/
def lost : State := (phasing 5 false 2 true).modPkg 0 (fun p => { p with slots := [] })
theorem meets_PhaserResults_handle : 2 ^ 63 ≤ ((phasing 5 false 2 true).readPair ln .sa 6).toNat ∧ (phasing 5 false 2 true).phOk ((phasing 5 false 2 true).team 1) phHandle = true ∧
    ((phasing 5 false 2 true).team 1).phReg phHandle = ⟨phHandle, 2, true⟩ ∧ ((phasing 5 false 2 true).homeSlot phHandle).map (·.ph.any) = some false ∧
    (phasing 5 false 2 true).podCopy 0 phHandle false ≠ none ∧ 3 ≤ (countOf (phSlot false).counts none).held ∧
    (phasing 5 false 2 true).countSlot 0 phHandle = some (phSlot false) ∧ (phasing 5 false 2 true).phPending 1 phHandle = false ∧ (phasing 5 false 2 true).Foremost ln phHandle ∧
    (phasing 6 true 0 false).Alone hM ln ∧ (phasing 6 true 0 false).Calm ln ∧ ((phasing 6 true 0 false).homeSlot phHandle).map (·.ph.any) = some true ∧
    ((phasing 6 true 0 false).fibre ln).inFlight = false ∧ lost.Alone hM ln ∧ lost.phOk (lost.team 1) phHandle = false := by
  refine ⟨by decide, by decide +kernel, by decide, by decide +kernel, by decide +kernel, by decide +kernel, by decide +kernel, by decide +kernel, foremost_of_none _ _ _ (by decide),
    alone_of (by decide), calm_of (by decide), by decide +kernel, by decide,
    alone_of (by decide), by decide +kernel⟩
/-- R280 to R283: PHWAIT of phase 5 goes on with the payload; of phase 6 waits; PHTEST.rd reads 5; a signal by one not registered to. -/
theorem test_phaser : reg (.phwait hM (ym 0 1 0)) (phasing 5 false 2 true) 4 = 0x33 ∧ reg (.phwait hM (ym 0 1 0)) (phasing 5 false 2 true) 5 = 4 ∧
    ((run (.phwait hM (ym 0 1 0)) (phasing 6 false 2 true)).fibre ln).wait.isSome = true ∧ reg (.phtestRd hM (ym 1 1 0)) (phasing 6 false 2 true) 4 = 5 ∧
    ((run (.phsig hM (ym 0 1 0)) (vec (phasing 5 false 0 true))).fibre ln).monCopy.cause = 0x54 ∧
    ((run (.phsig hM (ym 0 1 0)) (phasing 5 false 2 true)).stitch.map (·.handle)) = [phHandle] := by decide +kernel

/-- Growing with room and behind a waiter of the core; past the core's registers beside a full team; forking. -/
def crowd : Team := { tm ((List.range 1000).map (fun i => { fid := i, regs := List.replicate 131 0 })) with tid := 2, slot := 3 }
def waiter : Team := { tm [{ fib 0 [] .user with wait := some ⟨.grow 96, false, 4⟩ }] with tid := 3, slot := 4 }
def beside (x : Team) : State := { us 0x200 with teams := (us 0x200).teams ++ [x] }
theorem meets_FibreAndTeamResults : (us 0x200).Alone hM ln ∧ (us 0x200).Calm ln ∧ ((us 0x200).fibre ln).regs.length < (ym 0 0 80).imm24.toNat ∧
    (∀ r ∈ (us 0x200).requests 0, r.prio < ((us 0x200).team 1).prio) ∧ 80 - 64 ≤ (us 0x200).freeRegs 0 ∧ (us 0x200).freeFibres 0 ≥ 2 ∧
    (beside waiter).Alone hM ln ∧ (∃ r ∈ (beside waiter).requests 0, ((beside waiter).team 1).prio ≤ r.prio) ∧ ((us 0x200).fibre ln).inFlight = false ∧
    (beside crowd).Alone hM ln ∧ (beside crowd).freeRegs 0 < 80 - 64 := by
  refine ⟨alone_of (by decide), calm_of (by decide), by decide, by decide +kernel, by decide +kernel,
    by decide +kernel, alone_of (by decide), by decide +kernel, by decide, ⟨rfl, rfl, ⟨by decide, by decide +kernel, by decide +kernel⟩, by decide +kernel⟩,
    by decide +kernel⟩
/-- A spawn record and a launch record in the scratchpad; four launches queued. -/
def spawning (blk : List Byte) : State := (us 0x400).modTeam 1 (fun t => { t with scratch := Memory.write [] 0x400 blk, spwin := 2, spleaves := 1, spscope := .package })
theorem meets_FibreAndTeamResults_record : (spawning (toBytes 8 0x5000)).Alone hM ln ∧ (spawning (toBytes 8 0x5000)).blockReady ln .sa 6 64 ∧
    (∀ i, 0x28 ≤ i → i < 64 → ((spawning (toBytes 8 0x5000)).blockBytes ln .sa 6 64).getD i 0 = 0) ∧ (spawning []).blockReady ln .sa 6 128 ∧
    (((spawning []).team 1).levels[1]?).map Lvl.pt = some .package ∧ ((spawning []).pending 1).length < 4 ∧
    (spawning []).releaseReady ln (spawning []).seq .package = true ∧
    4 ≤ ({ spawning [] with launches := (List.range 4).map (fun i => { id := i, part := 0, owner := some 1, rec_ := [] }) }.pending 1).length := by
  refine ⟨alone_of (by decide), ready_of (by decide +kernel), by decide +kernel,
    ready_of (by decide +kernel), by decide, by decide, by decide +kernel, by decide⟩
/-- R68, R271, R60: GROW to 80; two fibres forked as 1 and 2, the second with v1 = 1; FEND; a LAUNCH queued. -/
theorem test_fibres : ((run (.grow h0 (ym 0 0 80)) (us 0)).fibre ln).regs.length = 80 ∧ ((run (.shrink h0 (ym 0 0 32)) (us 0)).fibre ln).regs.length = 32 ∧
    reg (.fforkImm hM (ym 1 0 2)) (us 0x200) 4 = 1 ∧ ((run (.fforkImm hM (ym 1 0 2)) (us 0x200)).fibre ⟨1, 2⟩).regs.take 3 = [0, 1, 0] ∧
    ((run (.fforkImm hM (ym 1 0 2)) (us 0x200)).fibre ⟨1, 2⟩).pc = 0x200 ∧ ((run (.fend h0 (ym 0 0 0)) (us 0)).team 1).fibres = [] ∧
    (run (.launch hM (ym 0 1 0)) (spawning [])).launches.length = 1 := by decide +kernel

/-! Machine steps. -/

/-- A line of one instruction at address 0 and a fibre whose PC is `pc`; its slot a fold point. -/
def lineOfWord (w extra : Nat) : List Byte :=
  let word := 1 + extra + 2 ^ 30 + 2 ^ 24 * (popcount 96 (w % 2 ^ 96) % 2)
  toBytes 12 w ++ List.replicate 48 0 ++ toBytes 4 (word + 2 ^ 29 * (popcount 32 word % 2))
def codeLine : List Byte := lineWith 0xC14000000000000000000010
def foldLine : List Byte := lineOfWord 0xC14000000000000000000020 32
def fetching (line : List Byte) (pc : Dword) : State := withMem (st [{ fib 0 [1] .user with pc := pc }]) 0 line
/-- A fibre that may fetch: at high bits, at no slot, at a line that cannot be fetched, at one that can. -/
theorem meets_FibreStepResults : ((fetching codeLine 0).fibre? ln).isSome = true ∧ ((fetching codeLine 0).fibre ln).halted = false ∧
    ((fetching codeLine 0).fibre ln).inFlight = false ∧ ((fetching codeLine 0).fibre ln).gathered = false ∧
    ((fetching codeLine 0).team 1).lets ((fetching codeLine 0).fibre ln) = true ∧ ((fetching codeLine 0).fibre ln).awake = true ∧
    ((fetching codeLine 0).fibre ln).readyAt ≤ (fetching codeLine 0).now ∧ 2 ^ 56 ≤ (0x0100000000000000 : Dword).toNat ∧
    (0x06 : Dword).toNat % 64 ∉ [0, 12, 24, 36, 48] ∧ (∃ v, (fetching codeLine 0x12340000).fetchLine ((fetching codeLine 0).team 1) .user 0x12340000 = .error v) ∧
    (fetching codeLine 0).fetchLine ((fetching codeLine 0).team 1) .user 0 = .ok codeLine ∧
    (fetching codeLine 0).linePoison ((fetching codeLine 0).team 1) .user 0 = false ∧ (fetching codeLine 0).lineAway ((fetching codeLine 0).team 1) .user 0 = none ∧
    lineParityOk codeLine = true ∧ ((fetching codeLine 0).coreAt 0).refetch = [] := by
  refine ⟨by decide, by decide, by decide, by decide, by decide, by decide, by decide, by decide, by decide, ⟨fetchFaultVal 0x12340000 0x12, by decide +kernel⟩,
    by decide +kernel, by decide +kernel, by decide +kernel, by decide +kernel, by decide⟩
/-- A line of package 1; one whose parity fails, and the same fetched a second time. -/
def farLine : State := far (fetching codeLine 0x1000)
def badLine : List Byte := codeLine.set 60 (codeLine.getD 60 0 ^^^ 1)
def again : State := (fetching badLine 0).modCore 0 (fun c => { c with refetch := [(icacheKey ((us 0).team 1) .user, 0)] })
theorem meets_FibreStepResults_lines : farLine.lineAway (farLine.team 1) .user 0x1000 = some 0x10000000001000 ∧ (farLine.fibre ln).wait = none ∧
    (farLine.fetchLine (farLine.team 1) .user 0x1000).isOk = true ∧ (fetching badLine 0).fetchLine ((fetching badLine 0).team 1) .user 0 = .ok badLine ∧
    lineParityOk badLine = false ∧ (fetching badLine 0).linePoison ((fetching badLine 0).team 1) .user 0 = false ∧
    (icacheKey (again.team 1) .user, 0) ∈ (again.coreAt 0).refetch ∧ again.fetchLine (again.team 1) .user 0 = .ok badLine := by
  and_intros <;> decide +kernel
/-- A band split over two addresses; a result on its way; a YIELD and a SLEEP that have run out; a GROW and an FFORK at the head; a fold point. -/
def splitBand : State := st [{ bfib 0 5 1 true with pc := 0x40 }, { bfib 1 5 1 true with pc := 0x4C }]
def arriving : State := (us 0).modFibre ln (fun f => { f with pend := [⟨.main 3, 9, none, 5⟩] })
def yielding : State := (us 0).modFibre ln (fun f => { f with hold := some (.yield 1000) })
def waitingOn (w : WaitOn) : State := (us 0).modFibre ln (fun f => { f with wait := some ⟨w, false, 7⟩ })
def folding : State :=
  let s := (fetching foldLine 0).modPart 0 (fun p => { p with phase := .folding })
  s.cacheLine (s.team 1) .user 0 foldLine
theorem meets_FibreStepResults_waits : (∀ i ∈ (splitBand.team 1).enrolled 0, ((splitBand.team 1).fibre i).gathered = true ∧ ((splitBand.team 1).fibre i).inFlight = false) ∧
    (0 ∈ (splitBand.team 1).enrolled 0 ∧ 1 ∈ (splitBand.team 1).enrolled 0 ∧ ((splitBand.team 1).fibre 0).pc ≠ ((splitBand.team 1).fibre 1).pc) ∧
    (arriving.fibre? ln).isSome = true ∧ arriving.untaken 1 (some 0) 5 = false ∧ (yielding.fibre ln).hold = some (.yield 1000) ∧ 1000 ≤ yielding.now ∧
    ((waitingOn (.sleep 1000)).fibre ln).wait = some ⟨.sleep 1000, false, 7⟩ ∧ 1000 ≤ (waitingOn (.sleep 1000)).now ∧
    ((waitingOn (.grow 80)).headRequest 0).map (fun r => (r.tid, r.fid, (waitingOn (.grow 80)).covers 0 r)) = some (1, 0, true) ∧
    ((waitingOn (.fork 3 0x55)).headRequest 0).map (fun r => (r.tid, r.fid, (waitingOn (.fork 3 0x55)).covers 0 r)) = some (1, 0, true) := by
  and_intros <;> decide +kernel
theorem meets_FibreStepResults_fold : (folding.partAt 0).phase = .folding ∧ (folding.team 1).res = .resident ∧ (folding.fibre ln).folded = false ∧
    (folding.fibre ln).hold = none ∧ (folding.fibre ln).readyAt ≤ folding.now ∧ folding.issueLine (folding.team 1) .user 0 = some foldLine ∧
    lineFold foldLine 0 = true ∧ lineFault foldLine (lineOf 0) = none := by
  and_intros <;> decide +kernel
/-- R105, R156, R350: the line fills the cache; the fibre stops with LIVE 32; a SLEEP runs out. -/
theorem test_fibre_steps : ((run (.lineFill 1 0) (fetching codeLine 0)).coreAt 0).icache.length = 1 ∧
    ((run (.lineFill 1 0) (fetching badLine 0)).coreAt 0).icache.length = 0 ∧ ((run (.lineFill 1 0) again).coreAt 0).icache.length = 1 ∧
    (run (.lineFill 1 0) farLine).reqs.map (·.code) = [true] ∧
    ((run (.foldStop 1 0) folding).fibre ln).stopped = some (some 32) ∧
    ((run (.sleepExpiry 1 0) (waitingOn (.sleep 1000))).fibre ln).wait = some ⟨.sleep 1000, true, 7⟩ ∧
    ((run (.bandSplit 1 0) (vec splitBand)).fibre ln).monCopy.cause = 0x58 := by decide +kernel

/-- A fibre that waits for a future, in a team whose wait began at clk 10; the clk is 100,000. -/
def waitFib (w : WaitOn) : Fibre := { fib 0 [1] .user with wait := some ⟨w, false, 5⟩ }
def waitTeam : Team := { tm [waitFib (.future 0 0x1000)] with waitSince := some 10 }
def later (ts : List Team) : State := { st [] with teams := ts, now := 100000 }
def frames : List Team := (List.range 64).map (fun i => { tm [] with tid := 10 + i, slot := 9, res := .jacketed i true false })
/-- A GROW of 256 that another team's registers block. -/
def grower : Team := { tm [{ waitFib (.grow 256) with regs := List.replicate 16 0 }] with placed := 3, waitSince := some 10 }
def blocker : Team :=
  { tm ((List.range 1000).map (fun i => { waitFib (.grow 256) with fid := i, regs := List.replicate 131 0 })) with tid := 2, slot := 3, waitSince := some 5, placed := 9, prio := 1 }
theorem meets_TeamStepResults_wait : (later [waitTeam]).team? 1 = some waitTeam ∧ ((later [waitTeam]).coreAt 0).waitlim.toNat = 16384 ∧ 10 + 16384 ≤ (later [waitTeam]).now ∧
    waitTeam.waiting = true ∧ waitTeam.monitored = false ∧ ((later [waitTeam]).framesOf 0 0).length < 64 ∧ 64 ≤ ((later (waitTeam :: frames)).framesOf 0 0).length := by
  decide +kernel
theorem meets_TeamStepResults_deadlock : ((later [grower, blocker]).headRequest 0).map (fun r => (r.tid, (later [grower, blocker]).covers 0 r)) = some (2, false) ∧
    ((later [grower, blocker]).deadlockTeam 0).isSome = true ∧ (∀ x ∈ (later [grower, blocker]).residents 0, x.waiting = true ∧ x.blocked = true) ∧
    ((later [grower, blocker]).framesOf 0 0).length < 64 := by decide +kernel
def held (r : Residence) : Team := { waitTeam with res := r }
def saved : State := (later [held (.jacketed 3 true false)]).modPart 0 (fun p => { p with phase := .saved })
def folding2 : State := (later [waitTeam]).modPart 0 (fun p => { p with phase := .folding, graceEnd := some 100000 })
def unmapped : State := { later [held (.jacketed 3 false true)] with mem := [] }
def sharing : State :=
  { ((((later [tm [fib 0 [1] .user]]).modPart 0 (fun p => { p with pctl := 0x11, jkbase := 0x400000 })).modPart 1 (fun p => { p with pctl := 0x11, jkbase := 0x800000 })).modPkg 0
      (fun p => { p with groups := [⟨1, 0, 5, false⟩] })) with now := 3300006 }
theorem meets_TeamStepResults : (folding2.partAt 0).phase = .folding ∧ (folding2.partAt 0).graceEnd = some 100000 ∧ 100000 ≤ folding2.now ∧
    (later [tm []]).team? 1 = some (tm []) ∧ (∀ c ∈ (later [tm []]).cmds, c.tid ≠ 1) ∧
    saved.team? 1 = some (held (.jacketed 3 true false)) ∧ (held (.jacketed 3 true false)).jkHeld = false ∧ (saved.partAt 0).phase = .saved ∧ (saved.partAt 0).pctl.toNat / 2 ^ 4 % 2 ^ 4 = 0 ∧
    ((later [waitTeam]).partAt 0).phase = .running ∧ unmapped.team? 1 = some (held (.jacketed 3 false true)) ∧ (unmapped.partAt 0).failed = false ∧
    (unmapped.coreAt 0).halted = false ∧ (∀ x ∈ unmapped.residents 0, x.slot ≠ 0) ∧
    ((unmapped.acquire 0 .package).frameReach 0 .read (unmapped.frameVa (held (.jacketed 3 false true)) 3) [(0, 0x800)] = .error 0x14 ∨
      (unmapped.acquire 0 .package).frameReach 0 .read (unmapped.frameVa (held (.jacketed 3 false true)) 3) [(0, 0x800)] = .error 0x12) := by decide +kernel
theorem meets_TeamStepResults_slice : (sharing.pkgAt 0).groups.find? (fun g => g.num = 1) = some ⟨1, 0, 5, false⟩ ∧ sharing.nextMember 0 1 0 = some 1 ∧
    (sharing.partAt 0).en = true ∧ (sharing.partAt 0).selfSaved = false ∧ 5 + (sharing.partAt 0).tsq.toNat * 3300 ≤ sharing.now ∧
    (sharing.partAt 0).phase = .running := by decide +kernel
/-- R64, R351, R385: the long wait begins a save; the grace timer stops the fibre; the slice begins the fold. -/
theorem test_team_steps : ((run (.longWaitExpiry 1) (later [waitTeam])).team 1).res = .saving 1 ∧ ((run (.graceExpiry 0 0) folding2).partAt 0).phase = .saving ∧
    ((run (.preqResume 0 0) saved).team 1).res = .jacketed 3 false true ∧ ((run (.timeSliceExpiry 0 1) sharing).partAt 0).phase = .folding ∧
    (run (.teamEnd 1) (later [tm []])).teams = [] := by decide +kernel

/-- Launch records: of one team (R53), without and with a precondition on a counter; one whose kind of precondition is bad. -/
def recOf (k ad : Nat) : List Byte :=
  pad 128 (toBytes 8 (0x0000040200020024 + k * 2 ^ 10) ++ toBytes 8 0 ++ toBytes 8 0x40 ++ wds [0x40, 0x02000004, 0, 0, 0, 0, 0, 0] ++ toBytes 8 ad)
def launchOf (r : List Byte) (stage : LaunchStage) : Launch := { id := 7, part := 0, owner := some 1, slot := some 0, rec_ := r, stage := stage }
def launching (x : Launch) : State := { us 0 with launches := [x] }
def ranOut : Launch := { launchOf (recOf 0 0) .accepted with begun := 4, dealt := 4, ended := 4, allBegun := true }
theorem meets_LaunchStepResults : (launching (launchOf (recOf 0 0) .queued)).isHead (launchOf (recOf 0 0) .queued) = true ∧
    (∀ st, (launching (launchOf (recOf 1 0x1004) st)).served (launchOf (recOf 1 0x1004) st) = true) ∧
    (launching (launchOf (recOf 0 0) .queued)).recCheck 0 .user (recOf 0 0) = none ∧ ((launching (launchOf (recOf 5 0) .queued)).recCheck 0 .user (recOf 5 0)).isSome = true ∧
    (∀ p ∈ (launching (launchOf (recOf 0 0) .held)).pres 0 .user (readRec (recOf 0 0)), p = .met) ∧
    .fault ∈ (launching (launchOf (recOf 1 0x1004) .held)).pres 0 .user (readRec (recOf 1 0x1004)) ∧
    ranOut.ranOut (readRec ranOut.rec_) = true ∧ (launching ranOut).launchReleased ranOut (readRec ranOut.rec_).top = true ∧ (readRec ranOut.rec_).donectr = 0 ∧
    (readRec ranOut.rec_).donefut = 0 := by
  refine ⟨by decide +kernel, fun _ => rfl, ?_⟩
  and_intros <;> decide +kernel
theorem meets_LaunchStepResults_place : (launching (launchOf (recOf 0 0) .accepted)).nextCluster (launchOf (recOf 0 0) .accepted) (readRec (recOf 0 0)) = some 0 ∧
    (launchOf (recOf 0 0) .accepted).pendingTeam (readRec (recOf 0 0)) = true ∧ (launching (launchOf (recOf 0 0) .accepted)).turnOf (launchOf (recOf 0 0) .accepted) = true ∧
    (launching (launchOf (recOf 0 0) .accepted)).mayPlace 0 = true ∧ (readRec (recOf 0 0)).gang = 1 ∧ (readRec (recOf 0 0)).gangOf 3 = 1 ∧
    1 ≤ (launching (launchOf (recOf 0 0) .accepted)).room 0 (readRec (recOf 0 0)) := by decide +kernel
/-- A queue of partition 0 with one packet: a launch, a malformed one, a spawn; a bin whose time has come; a continuation that waits. -/
def queued (pkt : List Byte) : State :=
  let s := (us 0).modPart 0 (fun p => { p with qdesc := p.qdesc.set 0 (BitVec.ofNat 64 (2 ^ 56 * 8 + 0x1000 + 1)) })
  withMem (withMem (withMem s 0x1000 (toBytes 8 7 ++ toBytes 8 5 ++ toBytes 8 5 ++ toBytes 8 0x2000 ++ toBytes 4 4)) 0x2140 pkt) 0x4000 (recOf 0 0)
def launchPkt : List Byte := pad 64 (wds [8, 6] ++ toBytes 8 0x4000)
def spawnPkt : List Byte := pad 64 (wds [9, 6] ++ toBytes 8 0x5000 ++ wds [1, 2, 3, 4, 5, 6, 7, 8] ++ toBytes 8 0x21)
def taken (s : State) : Option (List Byte) := match s.look 0 .user 0x1000 with | .ready r => some r.pkt | _ => none
theorem meets_LaunchStepResults_queue : ((queued launchPkt).slotAt 0 0).map (fun y => (y.hdr, y.agent)) = some (0x1000, .user) ∧ taken (queued launchPkt) = some launchPkt ∧
    (queued launchPkt).chosen 0 = some 2 ∧ launchPacketBad launchPkt = false ∧ launchPacketBad (pad 64 (wds [8, 6] ++ toBytes 8 0x4001)) = true ∧
    (queued launchPkt).agentAccess 0 .user [.read] 0x4000 = .ok (some 0x4000) ∧ taken (queued spawnPkt) = some spawnPkt ∧ spawnPacketBad spawnPkt = false ∧
    spawnPacketBad (pad 64 (wds [9, 6])) = true ∧ (us 0).slotAt 0 0 = none := by
  and_intros <;> decide +kernel
def key : SpawnKey := ⟨0x40, 2, 1, .package, 1, 0⟩
def binned (closed : Bool) : State :=
  (us 0).modCore 0 (fun c => { c with bins := c.bins.set 2 { key := key, opened := 5, limit := 900, recs := [wds [1, 2, 3, 4, 5, 6, 7, 8]], closed := closed } })
def delivering : State := { us 0 with deliveries := [⟨9, 0, .user, 0, 0x3000, 0, some (0, key, wds [1, 2, 3]), none, none, none⟩] }
theorem meets_LaunchStepResults_bin : 5 + 900 ≤ (binned false).now ∧ (((binned true).coreAt 0).bins.getD 2 { }).closed = true ∧ ((binned true).partAt 0).phase = .running ∧
    (binned true).restoreFirst 0 1 = false ∧ ((binned true).coreAt 0).halted = false ∧ (binned true).fits 0 ⟨1, 32, 1, 0⟩ = true ∧
    ((delivering.coreAt 0).intoBin 1000 key (wds [1, 2, 3])).isSome = true := by decide +kernel
/-- R57, R61, R316: the record is held; a team of one fibre starts at the bin's entry with its arguments; the packet becomes a launch. -/
theorem test_launch_steps : (run (.launchRecordCheck 7) (launching (launchOf (recOf 0 0) .queued))).launches.map (·.stage) = [.held] ∧
    (run (.spawnTeamPlace 0 0 2) (binned true)).teams.length = 2 ∧ (run (.spawnBinTimeout 0 0 2) (binned false)).coreAt 0 = (binned true).coreAt 0 ∧
    (run (.frontEndPacketTake 0 0 0) (queued launchPkt)).launches.length = 1 ∧ (run (.launchComplete 7) (launching ranOut)).launches = [] := by decide +kernel

/-- States with one command in the engine order: as the instructions above leave it, or as given. -/
def commanded (c : Cmd) : State := { engine 0x400 0 [] with cmds := [c] }
def cmdOf (kind : CmdKind) (block : List Byte) : Cmd := { id := 100, core := 0, tid := 1, fid := 0, part := 0, kind := kind, block := block, pt := .package }
def mmaCmd : Cmd := { cmdOf .mma mmaBlock with tiles := 1, resA := some (resv 1 0 100 3), resB := some (resv 2 100 100 3) }
def acczCmd : Cmd := { cmdOf .accz [] with tile := 2, tiles := 2 }
def accrdCmd : Cmd := { cmdOf .accrd [] with tile := 2, tiles := 1, off := 0x800 }
def innerCmd : Cmd := { cmdOf .tcopy (pad 128 (toBytes 8 0x1000 ++ wds [3 + 4 * 2 + 2 ^ 8, 0x20, 0x10, 0, 16, 8])) with resA := some (resv 1 0 100 3) }
def copyCmd : Cmd := { cmdOf .tcopy copyBlock with moved := true }
def gatherCmd : Cmd := { cmdOf .tgath gatherBlock with moved := true }
def failing : State := (commanded (cmdOf .tcopy copyBlock)).modPart 0 (fun p => { p with ranges := p.ranges.set 0 { perm := 0 } })
theorem meets_EngineStepResults : (∀ c ∈ [mmaCmd, acczCmd, accrdCmd, innerCmd, copyCmd, gatherCmd],
      (commanded c).cmds.find? (fun d => d.id = c.id) = some c ∧ (commanded c).cmdFree c = true) ∧
    mmaCmd.landed = true ∧ (commanded mmaCmd).tablesReady mmaCmd = true ∧ (readCopy innerCmd.block).dir = 3 ∧ (readCopy copyCmd.block).dir = 0 ∧
    copyCmd.finished = true ∧ (commanded copyCmd).cmdAcked copyCmd = true ∧ gatherCmd.finished = true ∧
    failing.cmdFault (cmdOf .tcopy copyBlock) = some 0x1000 ∧ ((commanded mmaCmd).partAt mmaCmd.part).meters.length = 15 ∧
    (resv 1 0 100 3).elemBits = 8 := by
  and_intros <;> decide +kernel
/-- R392: 32 x 32 outputs of 16 products; the class of the slower operand, and R96's own. -/
theorem test_matrix_meters : (readMma mmaBlock).products = 16384 ∧ mmaMeter (resv 1 0 100 1) (resv 2 100 100 7) = 0 ∧
    mmaMeter (resv 1 0 100 9) (resv 2 100 100 8) = 2 ∧ mmaMeter (resv 1 0 100 9) (resv 2 100 100 7) = 3 := by decide +kernel
/-- An MMA whose A lies in a neighbour's leaves; a CTAB; a reservation released and unused; none of them held up. -/
def farMma : Cmd := { mmaCmd with block := pad 64 (wds [1 + 2 * 16 + 4 * 2 ^ 8 + 2 ^ 14, 0, 0, 8]) }
def nearby : State := { dieTeam with cmds := [farMma] }
def ctabCmd : Cmd := { cmdOf .ctab (pad 32 (wds [0x00020001])) with arg8 := 2 }
def gone : State := releasing 3 [{ resv 3 0 16 3 with gone := some 50 }]
theorem meets_EngineStepResults_tables : nearby.cmdFree farMma = true ∧ farMma.gotA = false ∧ 4 ≤ (readMma farMma.block).loca ∧
    (((nearby.team 1).neighbour ((readMma farMma.block).loca - 4)).bind nearby.team?) = some neighbour ∧ neighbour.inJacket = false ∧
    neighbour.leafFree (readMma farMma.block).noffa ((resv 1 0 100 3).used (readMma farMma.block).m (readMma farMma.block).kept (readMma farMma.block).k) ∧
    (∀ d ∈ (commanded ctabCmd).cmds, d.id < ctabCmd.id → False) ∧ (gone.coreAt 0).resvs.find? (fun r => r.num = 3) = some { resv 3 0 16 3 with gone := some 50 } ∧
    gone.cmds = [] := by
  refine ⟨by decide +kernel, by decide, by decide +kernel, by decide +kernel, by decide, ⟨by decide +kernel, by decide⟩, by decide, by decide, rfl⟩
/-- A bulk queue with a COPY of 64 bytes from 0x1000 to 0x3000; its packet taken, done, and a COUNTER-ADD; a chain's message at its target. -/
def copyPkt (w0 : Nat) : List Byte := pad 64 (wds [w0, 6] ++ toBytes 8 0x1000 ++ toBytes 8 0x3000 ++ wds [64, 0x10001])
def addPkt : List Byte := pad 64 (wds [4 + 2 ^ 4, 6] ++ toBytes 8 0x1000 ++ toBytes 8 5)
def chainPkt : List Byte := pad 64 (wds [3 + 2 ^ 5, 6] ++ toBytes 8 0x1000 ++ toBytes 8 0x12340000 ++ wds [64 + 2 ^ 16, 0, 1])
def bulk : State :=
  let s := (us 0).modPart 0 (fun p => { p with qdesc := p.qdesc.set 0 (BitVec.ofNat 64 (2 ^ 56 * 8 + 0x2000 + 3)), qeng := p.qeng.set 0 1 })
  withMem (withMem (withMem s 0x1000 [1, 2, 3, 4]) 0x2000 (toBytes 8 7 ++ toBytes 8 5 ++ toBytes 8 5 ++ toBytes 8 0x4000 ++ toBytes 4 4)) 0x4140 (copyPkt 17)
def packet (bytes : List Byte) (effect : Bool) : Packet :=
  { id := 90, pkg := 0, part := 0, queue := 0, engine := 0, hdr := 0x2000, index := 5, slot := 0x4140, bytes := bytes, effect := effect,
    ranges := ((us 0).partAt 0).ranges }
def copying (x : Packet) : State := { bulk with packets := [x] }
def chained : State :=
  { copying (packet chainPkt false) with msgs := [{ id := 95, src := 0, dst := 1, eseq := 0, epoch := 0, op := .chain 90 0 [1, 2], stage := .applied }] }
def bulkReady (s : State) : Option (List Byte) := match s.bulkLook 0 0 with | .ready r => some r.pkt | _ => none
theorem meets_EngineStepResults_bulk : bulk.engineLoad 0 0 < 8 ∧ ((bulk.partAt 0).qeng.getD 0 0).getLsbD 0 = true ∧ bulk.bulkSlot 0 0 = some (0x2000, 8) ∧
    bulkReady bulk = some (copyPkt 17) ∧ bulk.nextQueue 0 0 = some 0 ∧ bulk.retake 0 0x2000 = none ∧ packetBad (copyPkt 17) = false ∧
    (∀ x ∈ [packet (copyPkt 17) false, packet chainPkt false, packet addPkt false, packet (copyPkt 17) true],
      (copying x).packets.find? (fun y => y.id = x.id) = some x ∧ x.stopped = false ∧ ((copying x).pkgAt 0).down = false ∧ x.asked = false ∧ x.arrival = none) ∧
    (copying (packet addPkt false)).queueAbsent (packet addPkt false) = none ∧ (packet (copyPkt 17) true).kind = 1 ∧ (packet chainPkt false).kind = 3 ∧
    4 ≤ (packet addPkt false).kind ∧ (packet (copyPkt 17) true).doneKind = 0 ∧ rangeIn (packet chainPkt false).ranges .user .write 0x12340000 = .error 0x12 ∧
    chained.msgs.map (fun m => (m.id, m.answered)) = [(95, false)] ∧ (packet (copyPkt 17) true).failing = none ∧ (packet (copyPkt 17) true).opFailed = none := by
  and_intros <;> decide +kernel
/-- A packet that stops with a cause; one whose operation has failed elsewhere; one whose queue's page is away. -/
def stopping : Packet := { packet (copyPkt 17) false with failing := some (0x14, 3) }
def opFails : Packet := { packet addPkt false with opFailed := some 0x73 }
def pageless : State := { copying (packet (copyPkt 17) true) with mem := [] }
theorem meets_EngineStepResults_stops : (copying stopping).queueAbsent stopping = none ∧ (copying opFails).queueAbsent opFails = none ∧ opFails.failing = none ∧
    pageless.queueAbsent (packet (copyPkt 17) true) = some 0x4140 ∧ opFails.arrival = none ∧ stopping.arrival = none := by
  and_intros <;> decide +kernel
/-- R100, R254 to R256: the table's first two entries and its version; the packet is taken; its chunk has its effect; STATE 1 ends it. -/
theorem test_engine_steps : (((run (.ctabTableWrite 100) (commanded ctabCmd)).coreAt 0).tables.getD 2 []).take 2 = [1, 2] ∧
    (((run (.ctabTableWrite 100) (commanded ctabCmd)).coreAt 0).tableVer) = [3, 4, 6, 6] ∧ (run (.packetTake 0 0 0 0) bulk).packets.length = 1 ∧
    (run (.packetFinish 90) (copying (packet (copyPkt 17) true))).packets = [] ∧ ((run (.obRangeReturn 0 0 3) gone).coreAt 0).resvs = [] ∧
    (run (.engineAbort 100) failing).cmds = [] ∧ ((run (.engineAbort 100) failing).fibre ln).engineFault = some 0x1000 := by decide +kernel

/-- A store of two bytes in the write queue; its registration, not made and made; a load, an atomic and a tile store with its clasp. -/
def entry : WEntry := { id := 70, core := 0, tid := 1, fid := 0, order := 70, part := 0, sp := 0, ia := 0x1000, bytes := [7, 8], pt := .package, va := 0x1000 }
def storing : State := { us 0x1000 with wq := [entry] }
def registering (done : Bool) : State := { us 0x1000 with regs := [{ entry := entry, registered := done }] }
def loadReq : Req := { id := 60, kind := .load, tid := 1, fid := 0, core := 0, part := 0, order := 60, va := 0x1000, sp := 0, ia := 0x1000, size := 4, pt := .package, dst := some 4 }
def loading : State :=
  withMem ({ us 0x1000 with reqs := [loadReq] }.modFibre ln (fun f => { f with pend := [⟨.main 4, 0, none, 60⟩] })) 0x1000 [1, 2, 3, 4]
def atomReq : Req := { loadReq with kind := .atomic, b := 5, dst := none }
def atomicAt : State := withMem { us 0x1000 with reqs := [atomReq] } 0x1000 [3]
def tileStore : Req := { loadReq with kind := .tileStore, dst := none, size := 4, data := [1, 2, 3, 4], segs := [(0, 0x1000, 4)] }
def tiling : State := ({ us 0x1000 with reqs := [tileStore] }.modPkg 0 (fun p => { p with clasps := [⟨0, 32, 60, true, 0, false⟩] })).modFibre ln (fun f => { f with hold := some (.tile 60 false) })
def releasingNow : State := (us 0x1000).modFibre ln (fun f => { f with rels := [⟨55, .package⟩], hold := some (.release 55 false) })
def clasping : State := (us 0x1000).modPkg 0 (fun p => { p with clasps := [⟨0, 32, 60, false, 0, false⟩] })
theorem meets_OrderingStepResults : storing.wq.find? (fun d => d.id = 70) = some entry ∧ storing.mayDrain entry = true ∧ entry.remote = false ∧
    (registering false).readParked 0 0x1000 (registering false).seq = false ∧ (registering true).regs.find? (fun x => x.entry.id = 70) = some { entry := entry, registered := true } ∧
    loading.behind loadReq = false ∧ loading.loadHeld loadReq = false ∧ (loading.take 0 1 0 60 0 0x1000 .package .default 4).2 = some [1, 2, 3, 4] ∧ loading.barred 0 0 0x1000 = false ∧
    (∃ p ∈ (loading.fibre ln).pend, p.reg = .main 4 ∧ p.id = 60) ∧ loading.pageCheck 0 .user (some .read) 0x1000 ≠ .held ∧ ((storing.coreAt 0).l1Lines.filter (fun x => x.line % 256 = 32)).length < 8 ∧
    atomicAt.atomicReady atomReq = true ∧ atomReq.aop ≠ .faddAny ∧ atomReq.into = none ∧ (registering false).barred 0 0 0x1000 = false ∧ tiling.holdsClasps tileStore = true ∧ tiling.tileBehind tileStore = false ∧
    releasingNow.releaseReady ln 55 .package = true ∧ (releasingNow.fibre ln).rels.find? (fun x => x.seq = 55) = some ⟨55, .package⟩ ∧
    (clasping.pkgAt 0).clasps = [⟨0, 32, 60, false, 0, false⟩] ∧ (∀ q, q < 96 → (us 0).oldestParked (96 * 0 + q) 1 = none) ∧ 1 * 65536 / 2 ^ 52 % 256 = 0 := by
  and_intros <;> decide +kernel
/-- An L1 whose four bytes are one copy, newer than the floor; the load reads it and not the memory behind it. -/
def oneCopy : State := loading.modCore 0 (fun c => { c with l1 := (List.range 4).map (fun i => { sp := 0, ia := 0x1000 + i, val := 9, st := .valid, ver := 50 }) })
theorem meets_OrderingStepResults_copy : (∀ i, i < 4 → ((oneCopy.reader 1 0 60 0).own (0x1000 + i)) = none ∧
      (findByte (oneCopy.coreAt 0).l1 0 (0x1000 + i)).map (fun c => (decide ((oneCopy.reader 1 0 60 0).floor c.ia ≤ c.ver), c.ver, c.val)) = some (true, 50, 9)) ∧
    (oneCopy.takeLine 0 (oneCopy.reader 1 0 60 0) 0 0x1000 .package .default 4).2 = some [9, 9, 9, 9] := by decide +kernel
/-- R289, R291, R296, R297: the drained byte is owned; the load writes its word; the atomic's sum; the tile's hold is over; the clasp is held. -/
theorem test_ordering : ((findByte ((run (.drain 70) storing).coreAt 0).l1 0 0x1001).map (fun c => (c.st, c.val))) = some (.owned, 8) ∧
    ((run (.read 60) loading).fibre ln).regs.getD 4 0 = 0x04030201 ∧ (run (.atomicStep 60) atomicAt).reqs = [] ∧
    ((run (.atomicStep 60) atomicAt).take 0 1 0 100 0 0x1000 .package .default 1).2 = some [8] ∧ ((run (.tileStep 60) tiling).fibre ln).hold = some (.tile 60 true) ∧
    ((run (.claspGrant 0 32) clasping).pkgAt 0).clasps.map (·.held) = [true] ∧ (run (.acknowledge 70) (registering true)).regs = [] := by decide +kernel

/-! Stitch messages and the fabric. -/

/-- A slot and a handle of the package level; one of the pod level, whose home is package 0 too. -/
def upHandle (lvl : Nat) : Dword := BitVec.ofNat 64 (2 ^ 63 + 2 ^ 32 + 2 ^ 28 * lvl)
def upSlot (lvl : Nat) (any : Bool) : PhSlot := { phSlot any with handle := upHandle lvl }
def stitching (lvl : Nat) (any : Bool) (m : Stitch) : State :=
  { later [waitTeam] with stitch := [m] }.modPkg 0 (fun p => { p with slots := [upSlot lvl any], slaUp := true, slbUp := true })
def arrival (path : List Node) : Stitch := { id := 80, kind := .arrival, handle := upHandle 1, path := path }
def homeArrival : Stitch := { arrival [.pkg 0] with phase := some 5 }
def joining (path : List Node) : Stitch := { arrival path with kind := .join, parties := 2 }
def dropping (path : List Node) : Stitch := { arrival path with kind := .drop, counted := true, parts := [(5, false, 1)] }
def spread (path : List Node) : Stitch := { arrival path with kind := .broadcast 6 0x44 2 none }
def boundFor : Stitch := { arrival [.pkg 0] with bound := true, marks := [7] }
theorem meets_StitchStepResults : (∀ m ∈ [arrival [.switch 1, .root], arrival [.die 0 1, .pkg 0], homeArrival, joining [.die 0 1, .pkg 0], joining [.pkg 0],
      dropping [.die 0 1, .pkg 0], dropping [.pkg 0]], (stitching 1 false m).Free m) ∧
    (stitching 1 false boundFor).stitch.find? (fun x => x.id = 80 && x.bound) = some boundFor ∧ (stitching 1 false boundFor).wq = [] ∧
    (stitching 1 false boundFor).regs = [] ∧ (stitching 1 false boundFor).reqs = [] ∧ phLevel (upHandle 1) ≠ 0 ∧
    (stitching 1 false homeArrival).homeSlot (upHandle 1) = some (upSlot 1 false) ∧ (5 : Word) = (upSlot 1 false).ph.phase ∧
    (upSlot 1 false).ph.arrived + 1 ≠ (upSlot 1 false).ph.parties := by
  refine ⟨fun m hm => ?_, by decide, rfl, rfl, rfl, by decide, by decide +kernel, by decide, by decide⟩
  simp only [List.mem_cons, List.not_mem_nil, or_false] at hm
  rcases hm with rfl | rfl | rfl | rfl | rfl | rfl | rfl <;> exact ⟨by decide, by decide, by decide, by decide +kernel⟩
theorem meets_StitchStepResults_phase : (∀ p ∈ [[Node.die 0 1], [.pkg 0]], (stitching 1 false (spread p)).stitch.find? (fun x => x.id = 80) = some (spread p) ∧
      ∀ x ∈ (stitching 1 false (spread p)).stitch, ¬ x.id < 80) ∧
    ((stitching 1 false (spread [.pkg 0])).pkgAt 0).deadNodes = [] ∧ (stitching 1 false (spread [.pkg 0])).linkUp 0 = true ∧
    ((stitching 1 false (spread [.pkg 0])).pkgAt 0).slotOf (upHandle 1) = some (upSlot 1 false) ∧ ((6 : Word) - (upSlot 1 false).ph.phase).toNat < 2 ^ 31 ∧
    ((stitching 1 false (spread [])).pkgAt 0).snact = false ∧ ((stitching 1 false (spread [])).pkgAt 0).slaUp = true := by
  and_intros <;> decide +kernel
/-- Two woken arrivals at one node, the older one first; a join of two parties and a drop at their home. -/
def firstOne : Stitch := { arrival [.pkg 0] with id := 79, woken := true }
def laterOne : Stitch := { arrival [.pkg 0] with woken := true, port := 1 }
def wokenPair : State :=
  { stitching 1 false laterOne with stitch := [firstOne, laterOne] }
theorem meets_StitchStepResults_woken : wokenPair.stitch.find? (fun y => y.id = 80 && y.kind = .arrival) = some laterOne ∧
    firstOne ∈ wokenPair.stitch ∧ firstOne.place < laterOne.place ∧
    (joining [.pkg 0]).parties ≠ 0 ∧ (dropping [.pkg 0]).object = none ∧ (dropping [.pkg 0]).counted = true := by decide +kernel
def broken : State := (stitching 1 false (spread [])).modPkg 0 (fun p => { p with snact := true, slaUp := false })
theorem meets_StitchStepResults_links : (broken.pkgAt 0).snact = true ∧ (broken.pkgAt 0).slbUp = true ∧ (broken.pkgAt 0).slaUp = false ∧
    (broken.pkgAt 0).deadNodes.contains 3 = false := by decide
/-- R282, R413, R415: an arrival enters the package node from die 1; one is counted at home; two parties join; a phase reaches the slot. -/
theorem test_stitch : (run (.stitchArrival 80) (stitching 1 false (arrival [.die 0 1, .pkg 0]))).stitch.map (fun m => (m.path, m.port)) = [([.pkg 0], 1)] ∧
    ((run (.stitchArrival 80) (stitching 1 false homeArrival)).homeSlot (upHandle 1)).map (·.ph.arrived) = some 2 ∧
    ((run (.stitchJoin 80) (stitching 1 false (joining [.pkg 0]))).homeSlot (upHandle 1)).map (fun x => (x.ph.joinnext, x.ph.parties)) = some (2, 5) ∧
    ((run (.phaseBroadcast 80) (stitching 1 false (spread [.pkg 0]))).homeSlot (upHandle 1)).map (fun x => (x.ph.phase, x.ph.payload)) = some (6, 0x44) ∧
    ((run (.stitchLinkFail 0) (stitching 1 false (spread []))).pkgAt 0).snact = true := by decide +kernel

/-- Packages 0 and 1 with their ports up, and one message from 1 to 0. -/
def linked (m : Msg) : State :=
  (({ us 0x1000 with msgs := [m] }.modPkg 0 (fun p => { p with ports := List.replicate 18 { state := 2 } })).modPkg 1
    (fun p => { p with ports := List.replicate 18 { state := 2 } }))
def msg (op : MsgOp) (stage : MsgStage) : Msg := { id := 90, src := 1, dst := 0, eseq := 0, epoch := 0, op := op, stage := stage }
def sent : Msg := msg (.stale 0 0x1000 4) .flying
def unsent (m : Msg) : State := { us 0x1000 with msgs := [m], now := 20000000 }
def waited (m : Msg) : State := { linked m with now := 20000000 }
theorem meets_FabricStepResults : (linked sent).msg? 90 = some sent ∧ (linked sent).reaches 1 0 = true ∧ (unsent sent).reaches 1 0 = false ∧
    (linked sent).windowLow 1 0 = 0 ∧ sent.answered = false ∧ (waited sent).reaches 1 0 = true ∧
    sent.sentAt + ((waited sent).pkgAt 1).retry * 3300 ≤ (waited sent).now ∧ sent.sends < ((waited sent).pkgAt 1).maxtry ∧
    ((waited sent).pkgAt 1).maxtry ≤ { sent with sends := 100 }.sends := by
  and_intros <;> decide +kernel
/-- Flits in order, empty, of a replay, with a message; ports training with all lanes, with four, with none. -/
def flit (ftype : Nat) (ms : List Nat) : Flit := ⟨1, 0, ftype, 0, 0, true, ms⟩
def port (f : Port → Port) : State := (linked sent).modPkg 0 (fun p => { p with ports := p.ports.set 3 (f { state := 2 }), fpctl := 8 })
theorem meets_FabricStepResults_ports : ((linked sent).pkgAt 0).ports.getD 3 { } = { state := 2 } ∧ ((linked sent).pkgAt 0).ports.length = 18 ∧
    (flit 1 [90]).lseq = ({ state := 2 : Port }.lastGood + 1) % 4096 ∧ ((linked sent).ingressClass 0 3 (flit 1 [90])).isSome = true ∧
    ((port id).pkgAt 0).down = false ∧ bitAt ((port id).pkgAt 0).fpctl 3 = true ∧
    (((port (fun q => { q with state := 1, badLanes := [7] })).pkgAt 0).ports.getD 3 { }).badLanes = [7] ∧
    ¬ (∀ i ∈ [0, 1, 2, 3], i ∉ (((port (fun q => { q with state := 1, badLanes := [0, 7] })).pkgAt 0).ports.getD 3 { }).badLanes) ∧
    ¬ (∀ i ∈ [4, 5, 6, 7], i ∉ (((port (fun q => { q with state := 1, badLanes := [0, 7] })).pkgAt 0).ports.getD 3 { }).badLanes) := by
  and_intros <;> decide +kernel
/-- R396 to R400: accepted; sent again; a flit out of order is asked for; a lane fails, and the port trains at 4 lanes. -/
theorem test_fabric : ((run (.messageReceive 90) (linked sent)).msg? 90).map (·.stage) = some .accepted ∧
    ((run (.e2eRetryTimeout 90) (waited sent)).msg? 90).map (·.sends) = some 2 ∧
    ((((run (.flitReceive 0 3 { flit 1 [90] with lseq := 2 }) (linked sent)).pkgAt 0).ports.getD 3 { }).asking) = true ∧
    ((((run (.laneFail 0 3 7) (port id)).pkgAt 0).ports.getD 3 { }).state) = 1 ∧
    ((((run (.portRetrain 0 3) (port (fun q => { q with state := 1, badLanes := [7] }))).pkgAt 0).ports.getD 3 { }).state) = 3 := by decide +kernel

/-- An accepted message at package 0 with the request, registration or clasps it speaks of. -/
def served (op : MsgOp) (qs : List Req) : State := { linked (msg op .accepted) with reqs := qs }
def written (ia : Nat) : State := { served (.reg 70) [] with regs := [{ entry := { entry with ia := ia } }] }
theorem meets_MessageResults : (∀ op ∈ [MsgOp.getx 60 0 32, .reg 70, .wb 0 0x1000 [], .stale 0 0x1000 4, .draw 0 0x1000 4, .clasp 60 0 32, .unclasp 60 0 32,
      .chain 90 0 [1], .lease 1 5 0, .ack 60, .nack 60 0x14, .redirect 60], (served op []).Accepted (msg op .accepted)) ∧
    (served (.get 60) [loadReq]).Served (msg (.get 60) .accepted) loadReq .read ∧ (served (.atm 60) [atomReq]).Served (msg (.atm 60) .accepted) atomReq .write ∧
    ((served (.atm 60) [atomReq]).pkgAt 0).clasps = [] ∧ (served (.reg 70) []).regs = [] ∧ (served (.clasp 60 0 32) [loadReq]).req? 60 ≠ none := by
  refine ⟨fun op h => ?_, ⟨by decide, ⟨physKey 1 0 0x1000, by decide +kernel⟩, by decide +kernel, by decide, by decide +kernel⟩,
    ⟨by decide, ⟨physKey 1 0 0x1000, by decide +kernel⟩, by decide +kernel, by decide, by decide +kernel⟩, by decide, rfl, by decide⟩
  simp only [List.mem_cons, List.not_mem_nil, or_false] at h
  rcases h with rfl | rfl | rfl | rfl | rfl | rfl | rfl | rfl | rfl | rfl | rfl | rfl <;> exact ⟨by decide, rfl, by decide⟩
/-- A registration that arrives at a page, one that a page refuses, data and an answer for a load and an atomic, and a line owned by a peer. -/
def ownedLine (x : Bool) : State :=
  let b : CByte := { sp := 0, ia := 0x1000, val := 7, st := if x then .owned else .valid, pt := .package }
  (served (.wb 0 0x1000 [b]) []).modPkg 1 (fun p => { p with llc := [b] })
theorem meets_MessageResults_answers : (written 0x1000).regs.find? (fun x => x.entry.id = 70) = some { entry := { entry with ia := 0x1000 } } ∧
    ((written 0x1000).pageCheck 0 .user (some .write) 0x1000 = .place (physKey 1 0 0x1000)) ∧
    ((written 0x1000).arriveReg { entry with ia := 0x1000 }).regs.any (fun y => y.entry.id = 70 && y.registered) = true ∧
    (written (2 ^ 55)).pageCheck 0 .user (some .write) (2 ^ 55) = .fail 0x15 ∧
    (served (.get 60) [{ loadReq with ia := 0x2000000000 }]).pageCheck 0 .user (some .read) 0x2000000000 = .absent ∧ (served (.data 60 [1]) [atomReq]).req? 60 = some atomReq ∧
    (served (.data 60 [1]) [loadReq]).req? 60 = some loadReq ∧ (served (.ack 60) [loadReq]).req? 60 = some loadReq ∧ (served (.ack 60) []).packets = [] := by
  refine ⟨by decide, by decide +kernel, by decide +kernel, by decide +kernel, by decide +kernel, by decide, by decide, by decide, rfl⟩
theorem meets_MessageResults_lines : (ownedLine true).Accepted (msg (.wb 0 0x1000 [{ sp := 0, ia := 0x1000, val := 7, st := .owned, pt := .package }]) .accepted) ∧
    (findByte ((ownedLine true).pkgAt 1).llc 0 0x1000).map (·.st) = some .owned ∧
    (findByte ((ownedLine false).pkgAt 1).llc 0 0x1000).map (·.st) = some .valid := by
  refine ⟨⟨by decide, rfl, by decide⟩, by decide, by decide⟩
/-- A line held exclusively for package 2, so that a get of it waits; a load, a line of code and a line brought ahead whose answers come. -/
def exclusive : State := (served (.get 60) [loadReq]).modPkg 0 (fun p => { p with clasps := [⟨0, 32, 61, true, 2, true⟩] })
def codeReq : Req := { loadReq with kind := .line, code := true, dst := none }
def arrived : State := (served (.data 60 [5, 6, 7, 8]) [loadReq]).modFibre ln (fun f => { f with pend := [⟨.main 4, 0, none, 60⟩] })
def prefReq : Req := { loadReq with kind := .pref, dst := none, size := 128 }
theorem meets_MessageResults_more : exclusive.barredRun 1 0 0x1000 4 = true ∧ exclusive.req? 60 = some loadReq ∧
    (served (.get 60) [loadReq]).barredRun 1 0 0x1000 4 = false ∧ (written 0x1000).barredRun 1 0 0x1000 2 = false ∧
    (written 0x1000).readParked 0 0x1000 (written 0x1000).seq = false ∧ (served (.nack 60 0x14) [codeReq]).req? 60 = some codeReq ∧ codeReq.code = true ∧
    (served (.data 60 []) [prefReq]).req? 60 = some prefReq ∧ ((served (.data 60 []) [loadReq]).pkgAt 0).llc = [] ∧
    ((served (.data 60 []) [loadReq]).coreAt 0).l1 = [] ∧ (∃ c ∈ (exclusive.pkgAt 0).clasps, c.held = true ∧ c.sp = 0 ∧ c.line = 32) ∧
    arrived.req? 60 = some loadReq ∧ loadReq.ia % 128 + loadReq.size ≤ 128 ∧ (∃ p ∈ (arrived.fibre ln).pend, p.reg = .main 4 ∧ p.id = 60) ∧
    arrived.Accepted (msg (.data 60 [5, 6, 7, 8]) .accepted) := by
  and_intros <;> first | exact ⟨by decide, rfl, by decide⟩ | decide +kernel
/-- R289, R407 to R409: a get answers with data; a getx asks for the clasp; stale marks the line; an atomic's old value; an ack; a lost page. -/
theorem test_messages : (run (.get 90) (served (.get 60) [loadReq])).msgs.map (fun m => (m.src, m.dst)) = [(0, 1)] ∧
    (run (.ack 90) { served (.ack 70) [] with regs := [{ entry := entry, registered := true }] }).regs = [] ∧
    ((run (.clasp 90) (served (.clasp 60 0 32) [loadReq])).pkgAt 0).clasps.map (·.line) = [32] ∧
    ((run (.nack 90) (served (.nack 60 0x14) [loadReq])).reqs) = [] ∧ (run (.reg 90) (written 0x1000)).msgs.map (·.op) = [.ack 70] ∧
    ((run (.data 90) arrived).fibre ln).regs.getD 4 0 = 0x08070605 ∧ (run (.data 90) arrived).reqs = [] := by decide +kernel

/-! Registers written, tiers, leases, errors and resets. -/

/-- Partition 3 disabled, with what R380 asks for; with its limit below its base; busy; a request of partition 0 under its floor. -/
def parting (f : Part → Part) : State :=
  ((us 0).modPart 0 (fun p => { p with pclu := 0 })).modPart 3 (fun p => f { p with pctl := 0, pclu := 0x0101, pcol0 := 1, pchan := 1, pband := 0x100000000 })
def alone : State := (parting id).modPart 0 (fun p => { p with pctl := 0 })
def onPart (f : Part → Part) : State := (us 0).modPart 0 f
def resetRec : ColRec := ⟨0, 1, 0, 0, 0, 0, 0, 0⟩
def hbmReq : HbmReq := ⟨0, 5, 9, 0, false⟩
def hbmState : State := { onPart (fun p => { p with pband := 10, pchan := 32 }) with hbm := [hbmReq] }
theorem meets_RegisterWriteResults : ((us 0).coreAt 0).halted = false ∧ (((us 0).modCore 0 (fun c => { c with halted := true })).coreAt 0).halted = true ∧
    (1 : Word).getLsbD 0 = true ∧ ((parting id).partAt 3).en = false ∧ (parting id).enableCheck 3 { ((parting id).partAt 3) with pctl := 1 } = none ∧
    ((us 0).partAt 0).en = true ∧ (us 0).partBusy 0 = true ∧ ({ us 0 with teams := [] } : State).partBusy 0 = false ∧
    ((parting (fun p => { p with pclu := 3 })).partAt 3).clim < ((parting (fun p => { p with pclu := 3 })).partAt 3).cbase ∧
    ((us 0).partAt 0).qsel < 16 ∧ ((us 0).partAt 0).qdesc.length = 16 ∧ ((us 0).partAt 0).qeng.length = 16 ∧
    (1 : Dword) &&& ((us 0).partAt 0).pchan = 1 := by
  and_intros <;> decide +kernel
theorem meets_RegisterWriteResults_alone : (∀ q, q < 96 → q ≠ 3 → (alone.partAt (96 * 0 + q)).en = false) ∧
    ((parting id).partAt 3).cbase ≤ ((parting id).partAt 3).clim ∧ ((parting id).partAt 3).colours ≠ 0 ∧ ((parting id).partAt 3).pchan ≠ 0 ∧
    bandWeight ((parting id).partAt 3).pband ≠ 0 ∧ bandCeil ((parting id).partAt 3).pband = 0 ∧
    bandFloor ((parting id).partAt 3).pband * 1000 / ((parting id).partAt 3).chanCount ≤ 737280 := by
  and_intros <;> decide +kernel
theorem meets_RegisterWriteResults_fabric : (0x00010002 : Word).toNat / 65536 % 2048 ≤ (0x00010002 : Word).toNat % 2048 ∧
    (0x00010002 : Word).toNat % 2048 ≤ 1024 - ((us 0).pkgAt 0).floorSum ∧ (0x00020001 : Word).toNat % 2048 < (0x00020001 : Word).toNat / 65536 % 2048 ∧
    ((us 0).pkgAt 0).floorSum - lookupD 0 ((us 0).pkgAt 0).ffsel ((us 0).pkgAt 0).floors + (4 : Word).toNat % 1024 ≤ 512 ∧
    512 < ((us 0).pkgAt 0).floorSum - lookupD 0 ((us 0).pkgAt 0).ffsel ((us 0).pkgAt 0).floors + (600 : Word).toNat % 1024 ∧
    (broken.pkgAt 0).slbUp = true ∧ ((us 0).pkgAt 0).resetDue = none ∧
    (((us 0).modPkg 0 (fun p => { p with resetDue := some resetRec })).pkgAt 0).resetDue = some resetRec ∧
    ((us 0).now < ((us 0).pkgAt 0).winStart + 3300) ∧ ((later []).pkgAt 0).winStart + 3300 ≤ (later []).now ∧
    (hbmState.hbm.filter (fun r => r.pkg = 0 && r.group = 5)).find? (fun r => decide ((hbmState.partAt r.part).counted 5 < (hbmState.partAt r.part).floorShare)) =
      some hbmReq ∧ 8 ≤ (hbmState.partAt 0).meters.length := by
  and_intros <;> decide +kernel
/-- R380, R410, R388: code 1 for a limit below its base; an enable; a floor refused; a request counts 128 bytes. -/
theorem test_registers : ((run (.partitionEnable 0 3 1) (parting (fun p => { p with pclu := 3 }))).partAt 3).pctl.toNat / 256 = 1 ∧
    ((run (.partitionEnable 0 3 1) (parting id)).partAt 3).en = true ∧ ((run (.ffloorWrite 0 600) (us 0)).pkgAt 0).ferr = 1 ∧
    ((run (.hbmRequestStart 0 5) hbmState).partAt 0).counted 5 = 128 := by decide +kernel
/-- R388: a request pending through a window in which nothing was served misses the floor; one that came during it does not. -/
theorem test_floor : ((run (.bandwidthWindow 0) { hbmState.modPkg 0 (fun p => { p with pressed := [(0, 5)] }) with now := 100000 }).partAt 0).perr = 2 ∧
    ((run (.bandwidthWindow 0) { hbmState with now := 100000 }).partAt 0).perr = 0 := by decide +kernel

/-- A tier of two frames, the first of page 1 of partition 0, USED above HI; and a tier below it with one free frame of package 1. -/
def tiers (used : Nat) (leaf : Nat) (below : Nat) : State :=
  let s := withMem (withMem (withMem (withMem (us 0) 0x20000 (toBytes 8 0x30000001)) 0x30000 (toBytes 8 0x40000001)) 0x40008 (toBytes 8 leaf)) 0x8000
    (wds [2, used, 2, 1, 3, 0] ++ toBytes 8 0x9000 ++ wds [0])
  let s := withMem (withMem s 0x9000 (toBytes 8 0x50001 ++ toBytes 8 0x40008 ++ toBytes 8 0x10000)) 0x8040 (wds [below, 0, 1, 0, 3, 0] ++ toBytes 8 0x9400)
  (withMem s 0x9400 (toBytes 8 (2 ^ 52 + 0x60000))).modPkg 0 (fun p => { p with tdesc := [0x8000, 0x8040, 0, 0] })
def clocking (on : List Nat) (used : Nat) : State := (tiers used 0x5001007F 1).modPkg 0 (fun p => { p with demoting := on })
def victim (below : Nat) : State := (tiers 3 0x5001007F below).modPkg 0 (fun p => { p with victims := [(1, 0, none)] })
theorem meets_TierAndLeaseResults : ((clocking [] 3).pkgAt 0).down = false ∧ (clocking [] 3).tierDesc 0 1 = 0x8000 ∧ (clocking [] 3).nframe 0 1 = 2 ∧
    (clocking [] 3).phys 0 0x8008 4 < (clocking [] 3).phys 0 0x8004 4 ∧ ((clocking [] 3).pkgAt 0).victims = [] ∧
    (clocking [] 2).phys 0 0x8004 4 ≤ (clocking [] 2).phys 0 0x8008 4 ∧ 1 ∈ ((clocking [1] 1).pkgAt 0).demoting ∧
    (clocking [1] 1).phys 0 0x8004 4 ≤ (clocking [1] 1).phys 0 0x800C 4 ∧ (victim 1).frame 0 1 0 = ⟨true, 0x50000, 0, 0x40008, 1, 0⟩ ∧
    (victim 1).frameLeaf 0 ((victim 1).frame 0 1 0) = some 0x5001007F ∧ (victim 1).demoteTo 0 1 = some (2, 0) ∧ (victim 0).demoteTo 0 1 = none ∧
    bitAt 0x5001007F 19 = false := by
  and_intros <;> decide +kernel
/-- A lease of 1 GiB from package 0 to package 1, at each state. -/
def lease (state : Nat) : Lease := ⟨3, state, 0, 7, 1, 1, 2 ^ 30, 0, 2 ^ 31, 1, 0xA000, 0⟩
def leasing (x : Lease) : State := { (us 0).modPkg 0 (fun p => { p with leases := [x] }) with now := 2000000 }
theorem meets_TierAndLeaseResults_leases : ((us 0).pkgAt 0).leases = [] ∧ ((us 0).readLease 0 3).state = 0 ∧
    ((withMem (us 0) 192 [2]).readLease 0 3).state ≠ 0 ∧ (∀ x ∈ [1, 2, 3, 5], ((leasing (lease x)).pkgAt 0).leases.find? (fun y => y.index = 3) = some (lease x)) ∧
    (lease 3).start + 1031250 * 1 ≤ (leasing (lease 3)).clk 0 ∧ (withMem (leasing (lease 3)) 0xA000 [1]).mapClear 0 (lease 3) = false ∧
    (leasing { lease 3 with start := 1999999 }).clk 0 < 1999999 + 1031250 * 1 := by
  and_intros <;> decide +kernel
/-- Four victims of a tier at once; a victim whose MIG is set and whose page a tile holds; a spilling lease whose window a tile holds. -/
def full : State := (clocking [1] 3).modPkg 0 (fun p => { p with victims := [(1, 0, none), (1, 1, none), (1, 2, none), (1, 3, none)] })
def tileOn (ia : Nat) : Req := { id := 60, kind := .tileLoad, tid := 1, fid := 0, core := 0, part := 0, order := 60, va := 0, sp := 0, ia := ia, size := 64, pt := .package, segs := [(0, ia, 64)] }
def heldPage : State := { (victim 1).modPkg 0 (fun p => { p with victims := [(1, 0, some 0x5001007F)] }) with reqs := [tileOn 0x10000] }
def spilling : Lease := { lease 4 with peer := 0, window := 0 }
def heldLease : State := { tiers 3 0x1002507F 1 with reqs := [tileOn 0x10000] }.modPkg 0 (fun p => { p with leases := [spilling] })
theorem meets_TierAndLeaseResults_held : (full.pkgAt 0).victims.length = 4 ∧ full.phys 0 0x800C 4 < full.phys 0 0x8004 4 ∧
    ((heldPage.flushPhys (physKey 1 0 0x40008) 8).pkgAt 0).victims = [(1, 0, some 0x5001007F)] ∧
    (heldPage.flushPhys (physKey 1 0 0x40008) 8).frameLeaf 0 (heldPage.frame 0 1 0) = some 0x5001007F ∧
    (heldPage.flushPhys (physKey 1 0 0x40008) 8).pagesHeld 0 1 1 = true ∧
    ((victim 1).flushPhys (physKey 1 0 0x40008) 8).frameLeaf 0 ((victim 1).frame 0 1 0) = some 0x5001007F ∧ heldLease.tilesIn 0 spilling = true := by
  and_intros <;> decide +kernel
/-- R370 to R373, R393: the clock starts and examines a frame; the victim's MIG; a lease opens and is recalled; a snapshot's SEQ. -/
theorem test_tiers : ((run (.tierClockStep 0 1) (clocking [] 3)).pkgAt 0).demoting = [1] ∧ (run (.tierClockStep 0 1) (clocking [] 3)).phys 0 0x8020 4 = 1 ∧
    (run (.pageDemote 0 1 0) (victim 1)).phys 0 0x40008 8 = 0x5009007F ∧ ((run (.leaseOpen 0 3) (us 0)).pkgAt 0).leases.map (·.state) = [1] ∧
    (run (.leaseOpen 0 3) (us 0)).phys 0 192 1 = 1 ∧ ((run (.leaseRecallCmd 0 3) (leasing (lease 2))).pkgAt 0).leases.map (·.state) ≠ [2] ∧
    ((run (.meterSnap 0 0) (us 0)).partAt 0).snapseq = 1 := by decide +kernel

/-- A slice's line, a fatal package before and after its dump has been asked for, a host link that is up. -/
def slice : CByte := { sp := 0, ia := 0x1000, val := 7, st := .valid, pt := .package }
def pkg0 (f : Pkg → Pkg) : State := (us 0).modPkg 0 f
theorem meets_IntegrityStepResults : physKey 1 0 (4 * 0x400) / 4 ∉ (us 0).poison ∧ (us 0).team? 1 = some (tm [fib 0 (rs 0 0) .user]) ∧ ((us 0).team 2).pkg = 0 ∧
    ((pkg0 (fun p => { p with llc := [slice] })).pkgAt 0).llc.find? (fun c => c.ia / 128 = 0x1000 / 128) = some slice ∧ ((us 0).partAt 0).en = true ∧
    bitAt ((us 0).partAt 0).colours (((us 0).partAt 0).setOf 0x1000 / 16) = true ∧ (us 0).packets = [] ∧ ((us 0).pkgAt 0).fatal = none ∧
    ((us 0).pkgAt 0).therm < 256 ∧ bitAt 0x16E 8 = true ∧ ((pkg0 (fun p => { p with hostcfg := 4 })).pkgAt 0).hostcfg / 2 % 4 ≠ 0 ∧
    ((us 0).pkgAt 0).hostcfg / 2 % 4 = 0 ∧ ((us 0).pkgAt 0).hostcfg % 2 = 0 ∧ ((pkg0 (fun p => { p with hostcfg := 3 })).pkgAt 0).hostcfg % 2 = 1 ∧
    inBlock 0x1000 = false ∧ loading.req? loadReq.id = some loadReq := by
  and_intros <;> decide +kernel
theorem meets_IntegrityStepResults_fatal : ((pkg0 (fun p => { p with fatal := some { cause := 1 }, dumpstat := 3 })).pkgAt 0).fatal.isSome = true ∧
    ((pkg0 (fun p => { p with fatal := some { cause := 1 }, dumpstat := 3 })).pkgAt 0).dumpstat = 3 ∧
    ((pkg0 (fun p => { p with fatal := some { cause := 1 } })).pkgAt 0).dumpstat ≠ 3 ∧ ((pkg0 (fun p => { p with fatal := some { cause := 1 } })).pkgAt 0).down = false ∧
    ((pkg0 (fun p => { p with dumpbase := 0x40000 })).pkgAt 0).dumpbase ≠ 0 ∧ bitAt ((us 0).pkgAt 0).therm 8 = false ∧
    bitAt ((pkg0 (fun p => { p with therm := 256 })).pkgAt 0).therm 8 = true := by decide
/-- R334: a slice's clean line goes with MC_LLC; the directory refuses a load at pod level; one of HBM is no access of the host's memory. -/
theorem test_uncorrectable : ((run (.uncorrectableError 0 (.line 0x1000)) (us 0)).pkgAt 0).events.map (·.cause) = [0x7C] ∧
    (run (.uncorrectableError 0 (.access 60 .directory)) { loading with reqs := [{ loadReq with pt := .pod }] }).reqs = [] ∧
    (run (.uncorrectableError 0 (.access 60 .host)) loading).reqs = [loadReq] := by decide +kernel
/-- R391, R418, R420, R426, R427: a poisoned word; a dead team; an FLR's PERR; 105 degrees throttle; a host's write. -/
theorem test_integrity : (run (.uncorrectableError 0 (.word 0x400)) (us 0)).poison.length = 1 ∧ (run (.uncorrectableError 0 (.regfile 1)) (us 0)).teams = [] ∧
    (run (.functionLevelReset 0 0) (us 0)).teams = [] ∧ ((run (.thermalLimit 0 105 false) (us 0)).pkgAt 0).therm = 361 ∧
    Memory.byte (run (.hostAccess 0 0x1000 4 (some 0x0A0B0C0D)) (pkg0 (fun p => { p with hostcfg := 4 }))).mem (physKey 1 0 0x1001) = 0x0C ∧
    ((run (.warmReset 0 3 .none) (us 0)).pkgAt 0).rstcause = 3 ∧ ((run (.coldReset 0 .none) (us 0)).pkgAt 0).rstcause = 1 := by decide +kernel

/-! The whole machine: a memory in canonical form, an encoded instruction, an unassigned opcode, records that are kept. -/

theorem meets_RecordsAreKept : ({ us 0 with agenda := [.event (.preqSave 0 0)] } : State).Kept ∧
    ∃ t, core.step { us 0 with agenda := [.event (.preqSave 0 0)] } = .next t := by
  refine ⟨⟨by decide, by decide, by decide, fun p h => ?_⟩, _, rfl⟩
  by_cases hp : p = 0
  · subst hp; exact absurd h (by decide)
  · have e : ({ us 0 with agenda := [.event (.preqSave 0 0)] } : State).partAt p = Part.fresh p := by
      simp [us, st, State.loaderMap, State.partAt, State.modPart, State.modPkg, State.reset, insertAt, lookupD, Ne.symm hp]
    exact absurd h (by rw [e]; unfold Part.fresh; split <;> decide)
theorem meets_MemoryLaws : Memory.wf (us 0).mem = true ∧ (us 0).mem ≠ [] := by decide
theorem meets_EncodeThenDecode : (Instr.nop (h0) { live := 0x10 }).wf = true ∧ (encode (.nop h0 { live := 0x10 })).isSome = true ∧
    operandFault 256 (.nop h0 { live := 0x10 }) = none ∧ decode 0xC14400000000000000000010 = .ok (.nop h0 { live := 0x10 }) := by decide +kernel
theorem meets_UnassignedOpcodes : opcodeAssigned (opcodeOf 0xFFC000000000000000000000) = false ∧
    opcodeAssigned (opcodeOf 0x0100002C0003000000000000) = true ∧ (us 0).Issued ∧ (us 0).sigLanes = [ln] := by
  refine ⟨by decide, by decide, ⟨by decide, by decide, by decide⟩, by decide⟩

/-! Forms that complete. -/

/-- A fibre that sleeps and is met; a nested trap to return from. -/
def slept : State := (us 0).modFibre ln (fun f => { f with wait := some ⟨.sleep 1000, true, 7⟩ })
theorem meets_FormsComplete : (us 0x1000).Issued ∧ (∀ l ∈ (us 0x1000).guarded h0, ((us 0x1000).fibre l).wait = none) ∧
    (∀ l ∈ (us 0x1000).guarded hM, (us 0x1000).readReg l .sa hM.sa ≠ 0) ∧ (ym 0 0 5).imm24 ≠ 0 ∧
    (slept.Issued ∧ ∀ l ∈ slept.guarded h0, ∃ w, (slept.fibre l).wait = some w ∧ w.met = true) ∧
    (inHandler (ss 0) 0x4C).Alone h0 ln ∧ ((inHandler (ss 0) 0x4C).fibre ln).inFlight = false ∧ (gm .rlx 1 .b4 0).ord.releases = false ∧
    (∃ x, tileChecks (tileAt.team 1) 1 (tileAt.readPair ln .sc 10) 0x1000 0x40 = .ok (x, .package) ∧
      tileAt.tileProbe (tileAt.team 1) (tileAt.fibre ln) .write (x.runs 0x1000) = .ok [(0, 0x1000, 4), (0, 0x1008, 4)] ∧
      (x.runs 0x1000).any (fun r => (tileAt.team 1).watched (tileAt.fibre ln) [.write] r.1 r.2) = false ∧ (tileAt.team 1).leafFree 0x40 (x.rows * x.rowb)) ∧
    tileAt.heldRun (tileAt.team 1) (tileAt.fibre ln) .write [(0, 0x1000, 4), (0, 0x1008, 4)] = none := by
  refine ⟨issued_of (by decide), by decide, by decide, by decide, ⟨issued_of (by decide), fun l h => ?_⟩,
    alone_of (by decide), by decide, by decide,
    ⟨⟨4, 2, 8⟩, by decide, by decide +kernel, by decide +kernel, ⟨by decide, by decide⟩⟩, by decide +kernel⟩
  obtain rfl : l = ln := List.mem_singleton.mp ((by decide : slept.guarded h0 = [ln]) ▸ h)
  exact ⟨⟨.sleep 1000, true, 7⟩, by decide, rfl⟩
/-- A partition whose first range holds a frame; a team being saved, and a jacket with its frame in memory. -/
def wide (s : State) : State := s.modPart 0 (fun p => { p with ranges := p.ranges.set 0 { perm := 0x7F, lim := 0xFF } })
def small (r : Residence) : Team := { waitTeam with leaves := 0, acct := 0, res := r }
def saving : State := wide (later [small (.saving 1)])
def jacket : State :=
  withMem (withMem (withMem (wide (later [small (.jacketed 0 false true)])) 0 (1 :: List.replicate 15 0)) 0x80 [1]) 0x1008 (toBytes 8 (2 ^ 32 * 4))
theorem meets_FormsComplete_save : saving.saveReason (small (.saving 1)) = some 1 ∧
    (saving.modTeam 1 (fun t => { t with res := .saving 1 })).quiet (small (.saving 1)) = true ∧ (saving.framesOf 0 0).length < 64 ∧
    saving.freeJacket 0 0 = some 0 ∧ saving.frameReach 0 .write (saving.frameVa (small (.saving 1)) 0)
      (((small (.saving 1)).framePieces saving.now 1 (saving.pending 1)).map (fun p => (p.1, p.2.length))) = .ok none := by
  and_intros <;> decide +kernel
theorem meets_FormsComplete_restore : let v := jacket.acquire 0 .package
    let rd := v.frameRead (small (.jacketed 0 false true)) (jacket.frameVa (small (.jacketed 0 false true)) 0)
    (∀ x ∈ [[(0, 0x800)], frameSpans rd, windowSpans rd], v.frameReach 0 .read (jacket.frameVa (small (.jacketed 0 false true)) 0) x = .ok none) ∧
    (rd 0 1).headD 0 = 1 ∧ jacket.fits 0 ⟨1, 4, 0, 0⟩ = true ∧ (∀ x ∈ jacket.residents 0, x.slot ≠ 0) := by
  and_intros <;> decide +kernel
/-- An owned byte of an L1; a page parked past its limit; a chain at its last target; a spilling lease that no tile holds. -/
def owning : State := (us 0x1000).modCore 0 (fun c => { c with l1 := [{ sp := 0, ia := 0x1000, val := 7, st := .owned, pt := .package }] })
def parkedLong : State :=
  ({ us 0 with agentParks := [(0, 0x200000, 10)], now := 2000 }.modPart 0 (fun p => { p with parklim := 100 }))
def chainLast : State :=
  { copying (packet (pad 64 (wds [3 + 2 ^ 5, 6] ++ toBytes 8 0x1000 ++ toBytes 8 0x3000 ++ wds [64 + 2 ^ 16, 0, 1])) false) with
    msgs := [{ id := 95, src := 1, dst := 0, eseq := 0, epoch := 0, op := .chain 90 0 [1, 2], stage := .applied }] }
def lent : State :=
  ((us 0).modPkg 0 (fun p => { p with leases := [lease 4] })).modPkg 1 (fun p => { p with leases := [{ lease 4 with role := 1, peer := 0 }] })
theorem meets_FormsComplete_steps : ((owning.coreAt 0).l1.map (fun b => decide (b.pt ≠ .core) &&
      (match owning.backCheck b with | .place _ => true | _ => false))) = [true] ∧
    parkedLong.oldestParked 0 0x200000 = some 10 ∧ (∀ r, r < 96 → r ≠ 0 → parkedLong.oldestParked r 0x200000 = none) ∧ parkedLong.pageOpen 0 0x200000 = false ∧
    (parkedLong.partAt 0).parklim ≠ 0 ∧ ((parkedLong.pkgAt 0).limitSent) = [] ∧
    chainLast.packets.map (fun x => (match rangeIn x.ranges .user .write 0x3000 with | .ok a => a | .error _ => 1)) = [0x3000] ∧
    chainLast.packets.map (fun x => (match chainLast.chainMeets x [(0x3000, 2)] with | .ok none => true | _ => false)) = [true] ∧
    chainLast.poison = [] ∧ lent.tilesIn 0 (lease 4) = false ∧ (lent.peerLease 0 (lease 4)).isSome = true := by
  and_intros <;> decide +kernel

end Sys2Proof.Tests
end

section
/-! PROOFS. The laws of the byte memories (R35, log 5), and the state after reset (R8, R23, R30, R328, R378, R380, R410, R420). -/

namespace Sys2Proof.Machine

/-! Byte memories: a byte and the canonical form by the shape of the list, a range read back, and equality of canonical memories. -/

@[simp] theorem Memory.byte_nil (a : Nat) : Memory.byte [] a = 0 := rfl
@[simp] theorem Memory.byte_cons (r : List Host.Cell) (k a : Nat) (v : Byte) :
    Memory.byte ((k, v) :: r) a = if k = a then v else Memory.byte r a := rfl
theorem Memory.wfFrom_cons (r : List Host.Cell) (lo k : Nat) (v : Byte) :
    Memory.wfFrom lo ((k, v) :: r) = true ↔ lo ≤ k ∧ v ≠ 0 ∧ Memory.wfFrom (k + 1) r = true := by
  simp [Memory.wfFrom, and_assoc]
/-- A canonical memory begins at its first entry. -/
theorem Memory.wfFrom_head {r : List Host.Cell} {lo k : Nat} {v : Byte} (h : Memory.wfFrom lo ((k, v) :: r) = true) :
    Memory.wfFrom k ((k, v) :: r) = true := by
  obtain ⟨-, hv, hr⟩ := (Memory.wfFrom_cons r lo k v).mp h
  exact (Memory.wfFrom_cons r k k v).mpr ⟨le_rfl, hv, hr⟩
/-- A byte that is not zero lies no lower than the memory's bound. -/
theorem Memory.le_of_byte_ne_zero {m : List Host.Cell} {lo a : Nat} (hw : Memory.wfFrom lo m = true) (hb : Memory.byte m a ≠ 0) :
    lo ≤ a :=
  Nat.le_of_not_lt fun h => hb (Memory.byte_below m lo a h hw)
/-- A range written reads back as it was written. -/
theorem Memory.read_write_same (m : List Host.Cell) (a : Nat) (bs : List Byte) (h : Memory.wf m = true) :
    Memory.read (Memory.write m a bs) a bs.length = bs := by
  induction bs generalizing m a with
  | nil => rfl
  | cons b r ih =>
    have hs := Memory.set_wf m a b h
    have head : Memory.byte (Memory.write (Memory.set m a b) (a + 1) r) a = b := by
      rw [Memory.byte_write_outside _ _ _ _ hs (.inl (Nat.lt_succ_self a)), Memory.byte_set m a a b h, if_pos rfl]
    rw [Memory.write, List.length_cons, Memory.read, head, ih _ _ hs]
/-- Above its first entry a canonical memory reads as its rest does, and the rest reads zero up to there. -/
theorem Memory.byte_tail {r : List Host.Cell} {k : Nat} (v : Byte) (hr : Memory.wfFrom (k + 1) r = true) (a : Nat) :
    Memory.byte r a = if a ≤ k then 0 else Memory.byte ((k, v) :: r) a := by
  split
  · exact Memory.byte_below r (k + 1) a (by omega) hr
  · rw [Memory.byte_cons, if_neg (by omega)]
/-- Two canonical memories whose bytes agree are the same list. The first entry of either is a byte that is not zero, so the other does not
begin above it: both begin at one address with one byte, and the rests agree in turn. -/
theorem Memory.eq_of_byte_eq {m n : List Host.Cell} {lo : Nat} (hm : Memory.wfFrom lo m = true) (hn : Memory.wfFrom lo n = true)
    (h : ∀ a, Memory.byte m a = Memory.byte n a) : m = n := by
  induction m generalizing n lo with
  | nil =>
    cases n with
    | nil => rfl
    | cons c r =>
      obtain ⟨k, v⟩ := c
      obtain ⟨-, hv, -⟩ := (Memory.wfFrom_cons r lo k v).mp hn
      exact absurd (by simpa using (h k).symm) hv
  | cons c r ih =>
    obtain ⟨k, v⟩ := c
    obtain ⟨-, hv, hr⟩ := (Memory.wfFrom_cons r lo k v).mp hm
    cases n with
    | nil => exact absurd (by simpa using h k) hv
    | cons c' r' =>
      obtain ⟨k', v'⟩ := c'
      obtain ⟨-, hv', hr'⟩ := (Memory.wfFrom_cons r' lo k' v').mp hn
      have hk : k' ≤ k := Memory.le_of_byte_ne_zero (Memory.wfFrom_head hn) (by rw [← h k]; simpa using hv)
      have hk' : k ≤ k' := Memory.le_of_byte_ne_zero (Memory.wfFrom_head hm) (by rw [h k']; simpa using hv')
      obtain rfl : k = k' := le_antisymm hk' hk
      obtain rfl : v = v' := by simpa using h k
      rw [ih hr hr' fun a => by rw [Memory.byte_tail v hr, Memory.byte_tail v hr', h a]]

/-! The state after reset: it lists no core, partition or package, so each has its fresh record (log 44). -/

@[simp] theorem State.reset_teams : State.reset.teams = [] := rfl
@[simp] theorem State.reset_coreAt (c : Nat) : State.reset.coreAt c = { } := rfl
@[simp] theorem State.reset_partAt (p : Nat) : State.reset.partAt p = Part.fresh p := rfl
@[simp] theorem State.reset_pkgAt (g : Nat) : State.reset.pkgAt g = { } := rfl
@[simp] theorem Part.fresh_en (p : Nat) : (Part.fresh p).en = decide (p % 96 = 0) := by
  unfold Part.fresh; split <;> rename_i h <;> simp [h, Part.en]
@[simp] theorem Part.fresh_phase (p : Nat) : (Part.fresh p).phase = .running := by
  unfold Part.fresh; split <;> rfl
/-- After reset there is no team for a record to speak of, and no partition is being saved. -/
theorem State.reset_kept : State.reset.Kept where
  flags := by simp
  timer := by simp
  waits := by simp
  saved := by simp

/-- Settles O1: the lists are empty, and a core, a package or a partition has the values of its fresh record; a partition's depend on its number
in EN alone. -/
theorem resetValues : Obligations.ResetValues := by
  unfold Obligations.ResetValues
  refine ⟨rfl, rfl, rfl, rfl, rfl, Memory.byte_nil, fun c => ?core, fun p => ⟨Part.fresh_en p, ?part⟩, fun g => ?pkg⟩
  case core =>
    have fresh : State.coreAt core.reset c = { } := State.reset_coreAt c
    rw [fresh]
    decide
  case part =>
    have fresh : State.partAt core.reset p = Part.fresh p := State.reset_partAt p
    rw [fresh, Part.fresh]
    split <;> decide
  case pkg =>
    have fresh : State.pkgAt core.reset g = { } := State.reset_pkgAt g
    rw [fresh]
    decide

/-- Settles O7: each law is the lemma of its operation; equality of memories is Memory.eq_of_byte_eq. -/
theorem memoryLaws : Obligations.MemoryLaws := by
  unfold Obligations.MemoryLaws
  refine ⟨rfl, State.reset_kept, fun m a b lo hi v bs hm => ?_⟩
  exact ⟨Memory.set_wf m a v hm, Memory.write_wf m a bs hm, Memory.clear_wf m lo hi hm, Memory.byte_set m a b v hm,
    Memory.read_write_same m a bs hm, Memory.byte_write_outside m a b bs hm, Memory.byte_clear m lo hi b,
    fun _ hn h => Memory.eq_of_byte_eq hm hn h⟩

end Sys2Proof.Machine
end

section
/-! PROOFS. What moving bytes between the caches and memory leaves alone (R286 to R289, R361), and what an event leaves alone (R332). -/

namespace Sys2Proof.Machine

/-- A keyed list whose values change, looked up: what every change keeps of a value is kept. -/
theorem lookupD_map_proj {α β : Type} (π : α → β) (d : α) (k : Nat) (f : Nat × α → α) (hf : ∀ x, π (f x) = π x.2) (l : List (Nat × α)) :
    π (lookupD d k (l.map (fun x => (x.1, f x)))) = π (lookupD d k l) := by
  induction l with
  | nil => rfl
  | cons x r ih =>
    by_cases h : x.1 = k
    · simp [lookupD, h, hf]
    · simpa [lookupD, h] using ih

/-- The state without memory, the packages, the cores, the fresh numbers and the requests noted for HBM. -/
def State.besideBytes (s : State) : State :=
  { s with seq := 0, mem := [], poison := [], memCache := [], hbm := [], cores := [], pkgs := [] }
/-- A core without its L1's bytes. -/
def Core.besideBytes (k : Core) : Core := { k with l1 := [] }
/-- A step from `s` to `t` that moves bytes between the caches and memory and does nothing else: of the cores only bytes of their L1s
differ. -/
structure State.MovesBytes (s t : State) : Prop where
  rest : t.besideBytes = s.besideBytes
  core : ∀ c, (t.coreAt c).besideBytes = (s.coreAt c).besideBytes

namespace State.MovesBytes

variable {s t u : State}

theorem refl (s : State) : s.MovesBytes s := ⟨rfl, fun _ => rfl⟩
theorem trans (h1 : s.MovesBytes t) (h2 : t.MovesBytes u) : s.MovesBytes u :=
  ⟨h2.rest.trans h1.rest, fun c => (h2.core c).trans (h1.core c)⟩
theorem foldl {α : Type} (f : State → α → State) (hf : ∀ t x, State.MovesBytes t (f t x)) (l : List α) (s : State) :
    s.MovesBytes (l.foldl f s) := by
  induction l generalizing s with
  | nil => exact refl s
  | cons x r ih => exact (hf s x).trans (ih _)

theorem teams (h : s.MovesBytes t) : t.teams = s.teams := (congrArg State.teams h.rest :)
theorem packets (h : s.MovesBytes t) : t.packets = s.packets := (congrArg State.packets h.rest :)
theorem icache (h : s.MovesBytes t) (c : Nat) : (t.coreAt c).icache = (s.coreAt c).icache := (congrArg Core.icache (h.core c) :)
theorem refetch (h : s.MovesBytes t) (c : Nat) : (t.coreAt c).refetch = (s.coreAt c).refetch := (congrArg Core.refetch (h.core c) :)

/-! The steps themselves, in the order in which the model builds them. -/

theorem number (s : State) (n : Nat) : s.MovesBytes { s with seq := n } := ⟨rfl, fun _ => rfl⟩
theorem memory (s : State) (m : List Host.Cell) (p : List Nat) (c : List CByte) :
    s.MovesBytes { s with mem := m, poison := p, memCache := c } := ⟨rfl, fun _ => rfl⟩
theorem modPkg (s : State) (p : Nat) (f : Pkg → Pkg) : s.MovesBytes (s.modPkg p f) := ⟨rfl, fun _ => rfl⟩
theorem modL1 (s : State) (c : Nat) (g : List CByte → List CByte) :
    s.MovesBytes (s.modCore c (fun k => { k with l1 := g k.l1 })) where
  rest := rfl
  core d := by rw [State.coreAt_modCore]; split <;> rfl

theorem hbmNote (s : State) (sp ia : Nat) (w : Bool) : s.MovesBytes (s.hbmNote sp ia w) := by
  unfold State.hbmNote
  cases s.sysKey sp ia with
  | none => exact refl s
  | some k => dsimp only; generalize HbmReq.mk _ _ _ _ _ = r; split <;> exact ⟨rfl, fun _ => rfl⟩
theorem writeSys (s : State) (sp ia : Nat) (v : Byte) : s.MovesBytes (s.writeSys sp ia v) := by
  unfold State.writeSys
  cases s.sysKey sp ia with
  | none => exact refl s
  | some k => exact (memory s _ s.poison _).trans (hbmNote ..)
/-- A registration marks the copies in each L1 and changes the slices. -/
theorem supersede (s : State) (sp ia : Nat) (pt : Point) (p core : Option Nat) (slice : Bool) :
    s.MovesBytes (s.supersede sp ia pt p core slice) where
  rest := rfl
  core c := by
    refine lookupD_map_proj Core.besideBytes { } c _ ?_ s.cores
    exact fun _ => rfl

theorem backHome (s : State) (p : Nat) (b : CByte) : s.MovesBytes (s.backHome p b) := by
  unfold State.backHome
  split
  · exact (supersede s ..).trans (modPkg ..)
  · split
    · exact refl s
    · exact (((number s _).trans (supersede ..)).trans (writeSys ..)).trans (modPkg ..)
theorem drawCore (s : State) (p core : Nat) (b : CByte) : s.MovesBytes (s.drawCore p core b) := by
  unfold State.drawCore
  exact ((number s _).trans (modL1 _ core (fun l => markByte l b.sp b.ia (·.passed s.seq)))).trans (modPkg ..)
theorem drawIn (s : State) (p sp ia : Nat) : s.MovesBytes (s.drawIn p sp ia) := by
  unfold State.drawIn
  split
  · exact drawCore ..
  · split
    · exact refl s
    · split
      · exact drawCore ..
      · exact ((number s _).trans (modPkg ..)).trans (modPkg ..)
      · exact refl s
theorem flushSys (s : State) (sp ia : Nat) : s.MovesBytes (s.flushSys sp ia) := by
  unfold State.flushSys
  dsimp only
  split
  · split
    · exact backHome ..
    · exact refl s
  · exact refl s
theorem flushPhys (s : State) (key n : Nat) : s.MovesBytes (s.flushPhys key n) := by
  unfold State.flushPhys
  exact foldl _ (fun t x => (drawIn t ..).trans (flushSys ..)) _ s
theorem writePhys (s : State) (key : Nat) (bs : List Byte) : s.MovesBytes (s.writePhys key bs) := by
  unfold State.writePhys
  exact (foldl _ (fun t x => supersede t ..) _ s).trans (memory ..)
theorem updateEntry (s : State) (key : Nat) (g : Nat → Nat) : s.MovesBytes (s.updateEntry key g) := by
  unfold State.updateEntry
  exact (flushPhys s ..).trans (writePhys ..)
theorem touchPage (s : State) (part ia : Nat) : s.MovesBytes (s.touchPage part ia) := by
  unfold State.touchPage
  split
  · exact refl s
  · split
    · dsimp only
      refine trans ?_ (modPkg ..)
      split
      · exact refl s
      · exact updateEntry ..
    · exact refl s
/-- An agent's write at a home: it has no L1 whose copies would go. -/
theorem homePut (s : State) (sp ia : Nat) (bs : List Byte) (w : List Writer) : s.MovesBytes (s.homePut none sp ia bs w) := by
  unfold State.homePut
  exact (number s _).trans (foldl _ (fun t b => (supersede t ..).trans (modPkg ..)) _ _)
theorem agentPut (s : State) (part ia : Nat) (bs : List Byte) (w : List Writer) : s.MovesBytes (s.agentPut part ia bs w) := by
  unfold State.agentPut
  exact (homePut s ..).trans (touchPage ..)
theorem touchCode (s : State) (t : Team) (level : Level) (pc : Dword) : s.MovesBytes (s.touchCode t level pc) := by
  unfold State.touchCode
  split
  · exact touchPage ..
  · exact refl s
theorem queuePut (s : State) (x : Packet) (va : Nat) (bs : List Byte) : s.MovesBytes (s.queuePut x va bs) := by
  unfold State.queuePut
  split
  · exact agentPut ..
  · exact refl s
theorem advanceDone (s : State) (x : Packet) : s.MovesBytes (s.advanceDone x) := by
  unfold State.advanceDone
  split
  · exact agentPut ..
  · exact refl s

end State.MovesBytes

/-! Events leave the teams (Laws/Traps) and the cores as they are. -/

@[simp] theorem logEvent_cores (s : State) (pkg part : Nat) (e : Event) : (s.logEvent pkg part e).cores = s.cores := by
  unfold State.logEvent; split <;> rfl
@[simp] theorem monitorEvent_cores (s : State) (pkg : Nat) (e : Event) (part : Nat) : (s.monitorEvent pkg e part).cores = s.cores :=
  logEvent_cores s pkg part e
@[simp] theorem supervisorEvent_cores (s : State) (p : Nat) (e : Event) : (s.supervisorEvent p e).cores = s.cores :=
  logEvent_cores s _ _ e
@[simp] theorem sendEvent_cores (s : State) (p : Nat) (e : Event) : (s.sendEvent p e).cores = s.cores := by
  unfold State.sendEvent; split <;> simp
@[simp] theorem corrected_cores (s : State) (pkg part core : Nat) : (s.corrected pkg part core).cores = s.cores := by
  unfold State.corrected; dsimp only; split <;> simp
@[simp] theorem corrected_teams (s : State) (pkg part core : Nat) : (s.corrected pkg part core).teams = s.teams := by
  unfold State.corrected; dsimp only; split <;> simp
@[simp] theorem corrected_coreAt (s : State) (pkg part core c : Nat) : (s.corrected pkg part core).coreAt c = s.coreAt c := by
  rw [State.coreAt, corrected_cores, State.coreAt]

end Sys2Proof.Machine
end

section
/-! PROOFS. The machine steps of one fibre: a line of code fills (R103, R105), a band splits (R45), results and timers (R116, R156, R157),
grants (R68, R271) and fold points (R350). -/

namespace Sys2Proof.Machine

/-! A line enters the cache of code lines. -/

@[simp] theorem State.cacheLine_teams (s : State) (t : Team) (level : Level) (pc : Dword) (line : List Byte) :
    (s.cacheLine t level pc line).teams = s.teams := rfl
@[simp] theorem State.cacheLine_cachedLine (s : State) (t : Team) (level : Level) (pc : Dword) (line : List Byte) :
    ((s.cacheLine t level pc line).coreAt t.coreKey).cachedLine (icacheKey t level) (lineOf pc) = some line := by
  simp [State.cacheLine, Core.cachedLine]
@[simp] theorem State.cacheLine_refetch (s : State) (t : Team) (level : Level) (pc : Dword) (line : List Byte) :
    ((s.cacheLine t level pc line).coreAt t.coreKey).refetch = (s.coreAt t.coreKey).refetch := by
  simp [State.cacheLine]

theorem State.fillLine_teams (s : State) (t : Team) (level : Level) (pc : Dword) (line : List Byte) :
    (s.fillLine t level pc line).teams = s.teams := by
  unfold State.fillLine
  dsimp only
  split
  · exact (State.MovesBytes.touchCode s t level pc).teams
  · split
    · rw [corrected_teams]; exact (State.MovesBytes.touchCode s t level pc).teams
    · exact (State.MovesBytes.touchCode s t level pc).teams
/-- A line whose parities hold, or one fetched once more, is cached under its name, and the name is no longer among those to be fetched once
more (R105). -/
theorem State.fillLine_kept (s : State) (t : Team) (level : Level) (pc : Dword) (line : List Byte)
    (h : lineParityOk line = true ∨ (icacheKey t level, lineOf pc) ∈ (s.coreAt t.coreKey).refetch) :
    ((s.fillLine t level pc line).coreAt t.coreKey).cachedLine (icacheKey t level) (lineOf pc) = some line ∧
      (icacheKey t level, lineOf pc) ∉ ((s.fillLine t level pc line).coreAt t.coreKey).refetch := by
  unfold State.fillLine
  dsimp only
  rw [if_neg (by simpa [or_iff_not_imp_left] using h)]
  split <;> simp [h.symm]
/-- A line whose parity fails at its first fetch is not cached; its name is noted, to be fetched once more (R105). -/
theorem State.fillLine_discarded (s : State) (t : Team) (level : Level) (pc : Dword) (line : List Byte) (hp : lineParityOk line = false)
    (ha : (icacheKey t level, lineOf pc) ∉ (s.coreAt t.coreKey).refetch) :
    ((s.fillLine t level pc line).coreAt t.coreKey).icache = (s.coreAt t.coreKey).icache ∧
      (icacheKey t level, lineOf pc) ∈ ((s.fillLine t level pc line).coreAt t.coreKey).refetch := by
  unfold State.fillLine
  simp [hp, ha, (State.MovesBytes.touchCode s t level pc).icache]

/-! LINE_FILL by what its fibre's PC meets, where the fibre could issue (R39). -/

theorem addrHighBad_iff (a : Dword) : addrHighBad a = true ↔ 2 ^ 56 ≤ a.toNat := by
  simp only [addrHighBad, bne_iff_ne, ne_eq, Nat.div_eq_zero_iff]
  omega
theorem not_addrHighBad {a : Dword} (h : a.toNat < 2 ^ 56) : ¬ addrHighBad a = true := by
  rw [addrHighBad_iff]; omega
theorem pcSlotOk_iff (pc : Dword) : pcSlotOk pc = true ↔ pc.toNat % 64 ∈ [0, 12, 24, 36, 48] := by
  simp [pcSlotOk, or_assoc]

/-- A fibre that fetches: it could issue, were its line there. -/
structure State.Fetches (s : State) (l : Lane) : Prop where
  alive : (s.fibre? l).isSome = true
  running : (s.fibre l).halted = false
  arrived : (s.fibre l).inFlight = false
  ungathered : (s.fibre l).gathered = false
  lets : (s.team l.tid).lets (s.fibre l) = true
  awake : (s.fibre l).awake = true
  due : (s.fibre l).readyAt ≤ s.now

section
variable {s : State} {l : Lane} (h : s.Fetches l)
include h

theorem State.Fetches.guard : ¬ (s.fibre? l = none || (s.fibre l).halted || (s.fibre l).inFlight || (s.fibre l).gathered ||
    !(s.team l.tid).lets (s.fibre l) || !(s.fibre l).awake || decide (s.now < (s.fibre l).readyAt)) = true := by
  obtain ⟨alive, running, arrived, ungathered, lets, awake, due⟩ := h
  simp [Option.isSome_iff_ne_none.mp alive, running, arrived, ungathered, lets, awake, due]
/-- ADDR_HIGH comes before everything else (R126). -/
theorem execLineFill_addrHigh (hp : 2 ^ 56 ≤ (s.fibre l).pc.toNat) :
    execLineFill l.tid l.fid s = .next (s.takeTrap l 0x10 (s.fibre l).pc) := by
  unfold execLineFill
  dsimp only
  rw [if_neg h.guard, if_pos ((addrHighBad_iff _).mpr hp)]
  rfl

variable (hp : (s.fibre l).pc.toNat < 2 ^ 56)
include hp

/-- PC_SLOT comes next. -/
theorem execLineFill_pcSlot (hs : (s.fibre l).pc.toNat % 64 ∉ [0, 12, 24, 36, 48]) :
    execLineFill l.tid l.fid s = .next (s.takeTrap l 0x05 (s.fibre l).pc) := by
  unfold execLineFill
  dsimp only
  rw [if_neg h.guard, if_neg (not_addrHighBad hp), if_pos (by rw [← pcSlotOk_iff] at hs; simpa using hs)]
  rfl

variable (hs : (s.fibre l).pc.toNat % 64 ∈ [0, 12, 24, 36, 48])
include hs

theorem execLineFill_fetchFault {v : Dword} (hf : s.fetchLine (s.team l.tid) (s.fibre l).level (s.fibre l).pc = .error v) :
    execLineFill l.tid l.fid s = .next (s.takeTrap l 0x11 v) := by
  unfold execLineFill
  dsimp only
  rw [if_neg h.guard, if_neg (not_addrHighBad hp), if_neg (by simp [(pcSlotOk_iff _).mpr hs]), hf]
  rfl

variable {line : List Byte} (hf : s.fetchLine (s.team l.tid) (s.fibre l).level (s.fibre l).pc = .ok line)
include hf

/-- A fibre without a wait asks for a line of another package (R103). -/
theorem execLineFill_away {ia : Nat} (hw : (s.fibre l).wait = none)
    (ha : s.lineAway (s.team l.tid) (s.fibre l).level (s.fibre l).pc = some ia) :
    execLineFill l.tid l.fid s = .next (s.awaitLine l (s.fibre l).pc ia) := by
  unfold execLineFill
  dsimp only
  rw [if_neg h.guard, if_neg (not_addrHighBad hp), if_neg (by simp [(pcSlotOk_iff _).mpr hs]), hf]
  simp [hw, ha]
/-- A line that is read at once fills, unless a word of it is poisoned (R103, R418). -/
theorem execLineFill_here (hw : (s.fibre l).wait ≠ none ∨ s.lineAway (s.team l.tid) (s.fibre l).level (s.fibre l).pc = none) :
    execLineFill l.tid l.fid s = .next (if s.linePoison (s.team l.tid) (s.fibre l).level (s.fibre l).pc
      then s.takeTrap l 0x70 (s.fibre l).pc else s.fillLine (s.team l.tid) (s.fibre l).level (s.fibre l).pc line) := by
  have notAway : (if (s.fibre l).wait.isNone then s.lineAway (s.team l.tid) (s.fibre l).level (s.fibre l).pc else none) = none := by
    rcases hw with hw | hw
    · simp [hw]
    · simp [hw]
  unfold execLineFill
  dsimp only
  rw [if_neg h.guard, if_neg (not_addrHighBad hp), if_neg (by simp [(pcSlotOk_iff _).mpr hs]), hf]
  simp only [notAway]
  rfl
end

/-! The other steps. -/

/-- Two enrolled fibres of a band at different addresses, all gathered: one of them is not where the band's first is (R45). -/
theorem Team.bandSplit_of_two {t : Team} {b i j : Nat} (hi : i ∈ t.enrolled b) (hj : j ∈ t.enrolled b) (hij : (t.fibre i).pc ≠ (t.fibre j).pc)
    (hg : ∀ i ∈ t.enrolled b, (t.fibre i).gathered = true) : t.bandSplit b = true := by
  unfold Team.bandSplit
  cases he : t.enrolled b with
  | nil => simp [he] at hi
  | cons k r =>
    rw [he] at hi hj hg
    have apart : ∃ m ∈ r, (t.fibre m).pc ≠ (t.fibre k).pc := by
      by_contra hn
      push Not at hn
      have all : ∀ m ∈ k :: r, (t.fibre m).pc = (t.fibre k).pc := by simpa using hn
      exact hij ((all i hi).trans (all j hj).symm)
    have here : (k :: r).all (fun j => (t.fibre j).gathered) = true := List.all_eq_true.mpr hg
    dsimp only
    rw [here, Bool.true_and, List.any_eq_true]
    exact apart.imp fun m hm => ⟨hm.1, decide_eq_true hm.2⟩
theorem execBandSplit_splits {s : State} {l : Lane} {b : Nat} (hs : (s.team l.tid).bandSplit b = true)
    (ha : ∀ i ∈ (s.team l.tid).enrolled b, ((s.team l.tid).fibre i).inFlight = false) :
    execBandSplit l.tid b s =
      .next (((s.team l.tid).enrolled b).foldl (fun s i => s.takeTrap ⟨l.tid, i⟩ 0x58 (BitVec.ofNat 64 b)) s) := by
  have quiet : ((s.team l.tid).enrolled b).any (fun i => ((s.team l.tid).fibre i).inFlight) = false := by simpa using ha
  unfold execBandSplit
  simp only [hs, quiet]
  rfl

theorem State.team?_of_fibre? {s : State} {l : Lane} (h : (s.fibre? l).isSome = true) : s.team? l.tid = some (s.team l.tid) := by
  unfold State.team
  cases ht : s.team? l.tid with
  | none => simp [State.fibre?, ht] at h
  | some t => rfl
/-- A met wait: the fibre after it, and every other fibre. -/
theorem State.fibre?_meet (s : State) (l k : Lane) : (s.meet l).fibre? k = if k = l then (s.fibre? k).map (fun f =>
    { f with wait := f.wait.map (fun w => { w with met := true }), readySince := max f.readyAt s.now }) else s.fibre? k := by
  unfold State.meet
  rw [State.fibre?_modTeam, State.fibre?_modFibre]
  · exact fun _ => rfl
  · intro t; split <;> rfl
  · intro t; split <;> rfl

/-- A fibre's results under a number arrive (R116). -/
def Fibre.arrive (f : Fibre) (id : Nat) : Fibre := { f with pend := f.pend.filter (fun p => !(p.id = id && p.due = none)) }
/-- A team as a result of a fibre arrives: its flags (R172), and the team-scalars whose last lane it was (R22). -/
def Team.arrive (t : Team) (fid id : Nat) (more : Bool) : Team := { t with
  fflags := t.flagPend.foldl (fun a p => if p.fid = fid && p.id = id && p.due = none then a ||| p.flags else a) t.fflags
  flagPend := t.flagPend.filter (fun p => !(p.fid = fid && p.id = id && p.due = none))
  scalarPend := t.scalarPend.filter (fun p => !(p.id = id && p.due = none && !more &&
    !(t.fibre p.fid).pend.any (fun q => q.id = id && q.due = none))) }
@[simp] theorem Fibre.arrive_fid (f : Fibre) (id : Nat) : (f.arrive id).fid = f.fid := rfl
@[simp] theorem Team.arrive_tid (t : Team) (fid id : Nat) (more : Bool) : (t.arrive fid id more).tid = t.tid := rfl
@[simp] theorem Team.arrive_fibres (t : Team) (fid id : Nat) (more : Bool) : (t.arrive fid id more).fibres = t.fibres := rfl
theorem Team.arrive_fflags (t : Team) (fid id : Nat) (more : Bool) : (t.arrive fid id more).fflags =
    t.flagPend.foldl (fun a p => if p.fid = fid ∧ p.id = id ∧ p.due = none then a ||| p.flags else a) t.fflags := by
  simp [Team.arrive, and_assoc]

/-- The state after a result's arrival. -/
def State.arrive (s : State) (l : Lane) (id : Nat) : State :=
  (s.modFibre l (·.arrive id)).modTeam l.tid (·.arrive l.fid id (s.untaken l.tid none id))
theorem execResultArrival_taken {s : State} {l : Lane} {id : Nat} (h : s.untaken l.tid (some l.fid) id = false) :
    execResultArrival l.tid l.fid id s = .next (s.arrive l id) := by
  unfold execResultArrival
  rw [h]
  rfl
theorem State.fibre?_arrive (s : State) (l k : Lane) (id : Nat) :
    (s.arrive l id).fibre? k = if k = l then (s.fibre? k).map (·.arrive id) else s.fibre? k := by
  unfold State.arrive
  rw [State.fibre?_modTeam, State.fibre?_modFibre] <;> simp
theorem State.team_arrive_fflags (s : State) (l : Lane) (id : Nat) (h : (s.fibre? l).isSome = true) :
    ((s.arrive l id).team l.tid).fflags = (s.team l.tid).flagPend.foldl (fun a p =>
      if p.fid = l.fid ∧ p.id = id ∧ p.due = none then a ||| p.flags else a) (s.team l.tid).fflags := by
  have ht : (s.arrive l id).team? l.tid =
      some (((s.team l.tid).modFibre l.fid (·.arrive id)).arrive l.fid id (s.untaken l.tid none id)) := by
    unfold State.arrive State.modFibre
    rw [State.team?_modTeam, State.team?_modTeam, State.team?_of_fibre? h] <;> simp
  rw [State.team, ht, Option.getD_some, Team.arrive_fflags]
  rfl

theorem execYieldExpiry_over {s : State} {l : Lane} {till : Nat} (hh : (s.fibre l).hold = some (.yield till)) (ht : till ≤ s.now) :
    execYieldExpiry l.tid l.fid s = .next (s.modFibre l (fun f => { f with hold := none, readySince := max f.readyAt till })) := by
  unfold execYieldExpiry
  simp [hh, ht]
theorem execSleepExpiry_over {s : State} {l : Lane} {till since : Nat} (hw : (s.fibre l).wait = some ⟨.sleep till, false, since⟩)
    (ht : till ≤ s.now) : execSleepExpiry l.tid l.fid s = .next (s.meet l) := by
  unfold execSleepExpiry
  simp [hw, ht]
/-- The head of the core's order is granted its registers (R68). -/
theorem execGrowGrant_head {s : State} {l : Lane} {n since : Nat} {r : Request} (hw : (s.fibre l).wait = some ⟨.grow n, false, since⟩)
    (hr : s.headRequest (s.team l.tid).coreKey = some r) (ht : r.tid = l.tid) (hf : r.fid = l.fid)
    (hn : ((s.team l.tid).fibres.map (fun g => g.regs.length)).sum - (s.fibre l).regs.length + n ≤ 131072)
    (hc : s.covers (s.team l.tid).coreKey r = true) : execGrowGrant l.tid l.fid s = .next ((s.modFibre l (·.resize n)).meet l) := by
  have room : ¬ Config.mainRegs < (s.team l.tid).windowRegs - (s.fibre l).regs.length + n := Nat.not_lt.mpr hn
  unfold execGrowGrant
  simp [hw, hr, ht, hf, room, hc]
/-- The head of the core's order is granted its fibres (R68, R271). -/
theorem execFforkGrant_head {s : State} {l : Lane} {n since : Nat} {entry : Dword} {r : Request}
    (hw : (s.fibre l).wait = some ⟨.fork n entry, false, since⟩) (hr : s.headRequest (s.team l.tid).coreKey = some r) (ht : r.tid = l.tid)
    (hf : r.fid = l.fid) (hn : (s.team l.tid).fibres.length + n ≤ 1024) (hc : s.covers (s.team l.tid).coreKey r = true) :
    execFforkGrant l.tid l.fid s = .next ((s.forked l n entry).2.answer l (.answer (toBytes 4 (s.forked l n entry).1))) := by
  unfold execFforkGrant
  simp [hw, hr, ht, hf, hc, Nat.not_lt.mpr hn]
/-- A fibre at a fold point of a partition that folds stops there, the slot's LIVE kept (R350). -/
theorem execFoldStop_stops {s : State} {l : Lane} {line : List Byte} (hp : (s.partAt (s.team l.tid).partKey).phase = .folding)
    (hr : (s.team l.tid).res = .resident) (hl : (s.fibre l).level ≠ .monitor) (hd : (s.fibre l).folded = false) (hh : (s.fibre l).hold = none)
    (ha : (s.fibre l).readyAt ≤ s.now) (hs : (s.fibre? l).isSome = true)
    (hi : s.issueLine (s.team l.tid) (s.fibre l).level (s.fibre l).pc = some line) (hf : lineFold line (slotOf (s.fibre l).pc) = true)
    (hn : lineFault line (lineOf (s.fibre l).pc) = none) : execFoldStop l.tid l.fid s =
      .next (s.modFibre l (fun f => { f with stopped := some (some (slotBits line (slotOf f.pc) % 2 ^ 9)) })) := by
  have alive : s.fibre? l ≠ none := Option.isSome_iff_ne_none.mp hs
  unfold execFoldStop
  simp [hp, hr, hl, hd, hh, Nat.not_lt.mpr ha, alive, hi, hf, hn, bits]

/-- Settles O49: each step is the lemma of its own name. That a fibre with a met wait fills a line of another package at once is the model's
choice (log 54). -/
theorem fibreStepResults : Obligations.FibreStepResults := by
  unfold Obligations.FibreStepResults
  intro s l
  simp only [exec_lineFill, exec_bandSplit, exec_resultArrival, exec_yieldExpiry, exec_sleepExpiry, exec_growGrant, exec_fforkGrant, exec_foldStop]
  refine ⟨fun h1 h2 h3 h4 h5 h6 h7 => ?fill, fun b ⟨i, j, hi, hj, hij⟩ hg => ?split, fun id hl hu => ?arrival,
    fun till => execYieldExpiry_over, fun till since hl hw ht => ?sleep, fun n since r => execGrowGrant_head,
    fun n entry since r => execFforkGrant_head, fun line => execFoldStop_stops⟩
  case fill =>
    have hF : s.Fetches l := ⟨h1, h2, h3, h4, h5, h6, h7⟩
    refine ⟨execLineFill_addrHigh hF, execLineFill_pcSlot hF, fun hp hs => ⟨fun v => execLineFill_fetchFault hF hp hs, fun line hf =>
      ⟨fun ia => execLineFill_away hF hp hs hf, fun hw => ⟨fun poison => ?_, fun clean => ?_⟩⟩⟩⟩
    · rw [execLineFill_here hF hp hs hf hw, if_pos poison]
    · refine ⟨_, execLineFill_here hF hp hs hf hw, ?_⟩
      rw [if_neg (by simp [clean])]
      exact ⟨State.fillLine_teams _ _ _ _ _, State.fillLine_kept _ _ _ _ _, State.fillLine_discarded _ _ _ _ _⟩
  case split =>
    exact execBandSplit_splits (Team.bandSplit_of_two hi hj hij fun k hk => (hg k hk).1) fun k hk => (hg k hk).2
  case arrival =>
    refine ⟨_, execResultArrival_taken hu, ?_, fun k hk => ?_, State.team_arrive_fflags s l id hl, rfl⟩
    · rw [State.fibre?_arrive, if_pos rfl, State.fibre?_of_isSome s l hl]
      rfl
    · rw [State.fibre?_arrive, if_neg hk]
  case sleep =>
    refine ⟨_, execSleepExpiry_over hw ht, ?_, fun k hk => ?_⟩
    · rw [State.fibre?_meet, if_pos rfl, State.fibre?_of_isSome s l hl, Option.map_some, hw]
      rfl
    · rw [State.fibre?_meet, if_neg hk]

end Sys2Proof.Machine
end

section
/-! PROOFS. Register writes of the board controller and of supervisors (R23, R378 to R382, R410, R420, R428), bandwidth windows and the
requests that a channel group starts (R388). -/

namespace Sys2Proof.Machine

/-! A change of one part of the state by what it does to that part. -/

theorem State.modPkg_congr {s : State} {p : Nat} {f g : Pkg → Pkg} (h : f (s.pkgAt p) = g (s.pkgAt p)) : s.modPkg p f = s.modPkg p g := by
  simp [State.modPkg, h]
theorem bitAt_eq_testBit (n i : Nat) : bitAt n i = n.testBit i := by
  rw [Nat.testBit_eq_decide_div_mod_eq]
  rfl
theorem getLsbD_eq_bitAt {n : Nat} (v : BitVec n) (i : Nat) : v.getLsbD i = bitAt v.toNat i := (bitAt_eq_testBit _ _).symm
theorem getLsbD_zero_iff {n : Nat} (v : BitVec n) : v.getLsbD 0 = true ↔ v.toNat % 2 = 1 := by
  simp [getLsbD_eq_bitAt, bitAt]
theorem getLsbD_zero_iff_not {n : Nat} (v : BitVec n) : v.getLsbD 0 = false ↔ v.toNat % 2 = 0 := by
  simp [getLsbD_eq_bitAt, bitAt]

/-! $PCTL (R379, R380). -/

/-- The partition as a $PCTL write would leave it (R379). -/
def Part.withPctl (x : Part) (v : Word) : Part := { x with pctl := BitVec.ofNat 16 (v.toNat % 4 + 16 * (v.toNat / 16 % 16)) }
theorem Part.withPctl_tsg (x : Part) (v : Word) : (x.withPctl v).tsg = v.toNat / 16 % 16 := by
  simp only [Part.withPctl, Part.tsg, bits, BitVec.toNat_ofNat]
  omega
theorem Part.withPctl_eq (x : Part) (v : Word) :
    x.withPctl v = { x with pctl := BitVec.ofNat 16 (v.toNat % 2 + 2 * (v.toNat / 2 % 2) + 16 * bits v.toNat 7 4) } := by
  have e : v.toNat % 2 + 2 * (v.toNat / 2 % 2) + 16 * bits v.toNat 7 4 = v.toNat % 4 + 16 * (v.toNat / 16 % 16) := by
    simp only [bits]
    omega
  rw [e, Part.withPctl]
theorem Part.refuse_en (x : Part) (c : Nat) : (x.refuse c).en = x.en := by
  rw [Bool.eq_iff_iff]
  simp only [Part.en, Part.refuse, getLsbD_zero_iff, BitVec.toNat_ofNat]
  omega
theorem Part.cleared_en (x : Part) : ({ x with pctl := x.pctl &&& 0xFFFE } : Part).en = false := by
  simp [Part.en]

/-- EN is set where the checks refuse it: REFUSE takes the code (R380). -/
theorem State.setPctl_refused {s : State} {p code : Nat} {v : Word} (hv : v.getLsbD 0 = true) (hx : (s.partAt p).en = false)
    (hc : s.enableCheck p ((s.partAt p).withPctl v) = some code) : s.setPctl p v.toNat = s.modPart p (·.refuse code) := by
  rw [getLsbD_zero_iff] at hv
  unfold State.setPctl
  simp only [← Part.withPctl_eq]
  simp [hx, hv, hc]
/-- EN is set, in no time-slice group. -/
theorem State.setPctl_enabled {s : State} {p : Nat} {v : Word} (hv : v.getLsbD 0 = true) (hx : (s.partAt p).en = false)
    (hc : s.enableCheck p ((s.partAt p).withPctl v) = none) (hg : v.toNat / 16 % 16 = 0) :
    s.setPctl p v.toNat = s.modPart p (fun _ => (s.partAt p).withPctl v) := by
  rw [getLsbD_zero_iff] at hv
  unfold State.setPctl
  simp only [← Part.withPctl_eq]
  simp [hx, hv, hc, State.joinGroup, Part.withPctl_tsg, hg]
/-- EN stays while the partition has work. -/
theorem State.setPctl_busy {s : State} {p : Nat} {v : Word} (hv : v.getLsbD 0 = false) (hx : (s.partAt p).en = true)
    (hb : s.partBusy p = true) : s.setPctl p v.toNat = s.modPart p (·.refuse 0x0A) := by
  rw [getLsbD_zero_iff_not] at hv
  unfold State.setPctl
  simp [hx, hv, hb]
@[simp] theorem State.leaveGroup_teams (s : State) (p : Nat) : (s.leaveGroup p).teams = s.teams := by
  unfold State.leaveGroup; dsimp only; split <;> rfl
/-- EN is cleared where it has none. -/
theorem State.setPctl_disabled {s : State} {p : Nat} {v : Word} (hv : v.getLsbD 0 = false) (hx : (s.partAt p).en = true)
    (hb : s.partBusy p = false) : ((s.setPctl p v.toNat).partAt p).en = false ∧ (s.setPctl p v.toNat).teams = s.teams := by
  rw [getLsbD_zero_iff_not] at hv
  unfold State.setPctl
  simpa [hx, hv, hb, Part.refuse_en] using Part.cleared_en _

/-! The checks of R380. -/

theorem State.enableCheck_clusters (s : State) (p : Nat) (x : Part) (h : x.clim < x.cbase) : s.enableCheck p x = some 1 := by
  simp [State.enableCheck, firstBad, h]
/-- No other partition of the package is enabled. -/
theorem State.enabledOthers_nil (s : State) {pkg part : Nat} (hp : part < 96)
    (h : ∀ q, q < 96 → q ≠ part → (s.partAt (96 * pkg + q)).en = false) : s.enabledOthers (96 * pkg + part) = [] := by
  have base : (96 * pkg + part) / 96 * 96 = 96 * pkg := by omega
  unfold State.enabledOthers
  rw [base, List.filter_eq_nil_iff]
  intro y hy
  obtain ⟨q, hq, rfl⟩ := List.mem_map.mp hy
  by_cases e : q = part
  · simp [e]
  · simp [h q (List.mem_range.mp hq) e]
/-- A partition that is alone is refused only for what its own registers hold; the floors of a group sum to its own share. -/
theorem State.enableCheck_alone {s : State} {p : Nat} {x : Part} (ho : s.enabledOthers p = []) (hcl : x.cbase ≤ x.clim) (hco : x.colours ≠ 0)
    (hch : x.pchan ≠ 0) (hw : bandWeight x.pband ≠ 0) (hce : bandCeil x.pband = 0 ∨ bandFloor x.pband ≤ bandCeil x.pband)
    (hf : bandFloor x.pband * 1000 / x.chanCount ≤ 737280) : s.enableCheck p x = none := by
  have ceil : (bandCeil x.pband ≠ 0 && decide (bandCeil x.pband < bandFloor x.pband)) = false := by
    rcases hce with h | h
    · simp [h]
    · simp [Nat.not_lt.mpr h]
  have floors : ∀ g, ((([x] : List Part).filter (fun y => y.pchan.getLsbD g)).map (fun y => bandFloor y.pband * 1000 / y.chanCount)).sum ≤ 737280 := by
    intro g
    by_cases hg : x.pchan.getLsbD g = true <;> simp [hg, hf]
  have nine : (List.range 64).any (fun g => decide (737280 < ((([x] : List Part).filter (fun y => y.pchan.getLsbD g)).map (fun y =>
      bandFloor y.pband * 1000 / y.chanCount)).sum)) = false := by
    simpa using fun g _ => floors g
  simp only [State.enableCheck, ho, List.map_nil, nine, ceil]
  simpa [firstBad, Nat.not_lt.mpr hcl, hco, hw] using hch

/-! The other registers of a partition. -/

theorem State.setPband_disabled {s : State} {p : Nat} (v : Dword) (h : (s.partAt p).en = false) : s.setPband p v.toNat = s.modPart p (fun x =>
    { x with pband := BitVec.ofNat 40 v.toNat, pbandOld := some (x.pbandOld.getD x.pband) }) := by
  unfold State.setPband
  simp only [h]
  rfl
theorem State.setPcol_disabled {s : State} {p : Nat} (high : Bool) (v : Dword) (h : (s.partAt p).en = false) : s.setPcol p high v =
    s.modPart p (fun x => if high then { x with pcol1 := v } else { x with pcol0 := v }) := by
  unfold State.setPcol
  simp only [h]
  rfl
theorem narrows_iff (v x : Dword) : narrows v.toNat x.toNat = true ↔ v ≠ 0 ∧ v &&& x = v := by
  have zero : v.toNat = 0 ↔ v = 0 := BitVec.toNat_inj (y := 0)
  simp only [narrows, Bool.and_eq_true, decide_eq_true_eq, ne_eq, zero, ← BitVec.toNat_and, BitVec.toNat_inj]
theorem State.setPchan_narrowed {s : State} {p : Nat} {v : Dword} (hv : v ≠ 0) (h : v &&& (s.partAt p).pchan = v) :
    s.setPchan p v = s.modPart p (fun x => { x with pchan := v }) := by
  unfold State.setPchan
  simp [(narrows_iff _ _).mpr ⟨hv, h⟩]
theorem State.setPchan_refused {s : State} {p : Nat} {v : Dword} (he : (s.partAt p).en = true) (h : v = 0 ∨ v &&& (s.partAt p).pchan ≠ v) :
    s.setPchan p v = s.modPart p (·.refuse 0x0B) := by
  have wide : ¬ narrows v.toNat (s.partAt p).pchan.toNat = true := by
    rw [narrows_iff]; tauto
  unfold State.setPchan
  simp [he, wide]
theorem State.setPclu_disabled {s : State} {p : Nat} (v : Dword) (h : (s.partAt p).en = false) :
    ((s.setPclu p v.toNat).partAt p).cbase = v.toNat % 128 ∧ ((s.setPclu p v.toNat).partAt p).clim = v.toNat / 256 % 128 := by
  unfold State.setPclu
  simp only [h, Bool.not_false, if_true, State.partAt_modPart, Part.cbase, Part.clim, bits, BitVec.toNat_ofNat]
  omega
/-- A descriptor as it is stored: its fields alone, and a QUOTA of 0 as 1 (R382). -/
def storedDesc (v : Dword) : Dword := BitVec.ofNat 64 (v.toNat % 16 + 128 * bits v.toNat 55 7 +
  2 ^ 56 * (if bits v.toNat 63 56 = 0 then 1 else bits v.toNat 63 56))
theorem storedDesc_fields (v : Dword) : (storedDesc v).toNat / 2 ^ 56 = (if v.toNat / 2 ^ 56 = 0 then 1 else v.toNat / 2 ^ 56) ∧
    (storedDesc v).toNat / 2 ^ 7 % 2 ^ 49 = v.toNat / 2 ^ 7 % 2 ^ 49 ∧ (storedDesc v).toNat % 16 = v.toNat % 16 := by
  have hv := v.isLt
  have quota : bits v.toNat 63 56 = v.toNat / 2 ^ 56 := Nat.mod_eq_of_lt (by omega)
  simp only [storedDesc, quota]
  by_cases hq : v.toNat / 2 ^ 56 = 0 <;> simp only [hq, if_true, if_false, bits, BitVec.toNat_ofNat] <;> omega
theorem State.setQdesc_qdesc (s : State) (p : Nat) (v : Dword) :
    ((s.setQdesc p v.toNat).partAt p).qdesc = (s.partAt p).qdesc.set (s.partAt p).qsel (storedDesc v) := by
  simp [State.setQdesc, storedDesc]
theorem State.setQeng_qeng (s : State) (p : Nat) (v : Dword) :
    ((s.setQeng p v.toNat).partAt p).qeng = (s.partAt p).qeng.set (s.partAt p).qsel (BitVec.ofNat 48 v.toNat) := by
  simp [State.setQeng]

/-! The fabric block's registers (R410, R420). -/

/-- One port as $FPCTL is written (R410). -/
def State.portCtl (pkg v before : Nat) (t : State) (i : Nat) : State :=
  if bitAt v i then (if bitAt before i then t else t.modPkg pkg (fun p => p.modPort i (fun q => if q.state = 0 then { q with state := 1 } else q)))
  else if ((t.pkgAt pkg).ports.getD i { }).state = 0 then t else t.portDown pkg i
theorem State.setFpctl_eq (s : State) (pkg v : Nat) : s.setFpctl pkg v = (List.range 18).foldl
    (State.portCtl pkg (v % 2 ^ 18) (s.pkgAt pkg).fpctl) (s.modPkg pkg (fun p => { p with fpctl := v % 2 ^ 18 })) := rfl

/-- What a step of a write to $FPCTL leaves of its package: the register, and the other ports. -/
structure Pkg.ButPort (p q : Pkg) (i : Nat) : Prop where
  fpctl : q.fpctl = p.fpctl
  ports : ∀ j, j ≠ i → q.ports[j]? = p.ports[j]?
theorem Pkg.ButPort.refl (p : Pkg) (i : Nat) : p.ButPort p i := ⟨rfl, fun _ _ => rfl⟩
theorem Pkg.modPort_butPort (p : Pkg) (i : Nat) (g : Port → Port) : p.ButPort (p.modPort i g) i :=
  ⟨rfl, fun _ hj => List.getElem?_set_ne hj.symm⟩

/-- An event for the monitor leaves the fabric block's registers and the ports of its package. -/
theorem State.logEvent_fabric (s : State) (pkg part : Nat) (e : Event) : ((s.logEvent pkg part e).pkgAt pkg).fpctl = (s.pkgAt pkg).fpctl ∧
    ((s.logEvent pkg part e).pkgAt pkg).ports = (s.pkgAt pkg).ports := by
  have record : ∀ p : Pkg, (p.record s.now part e).fpctl = p.fpctl ∧ (p.record s.now part e).ports = p.ports := by
    intro p
    unfold Pkg.record
    split <;> exact ⟨rfl, rfl⟩
  unfold State.logEvent
  split
  · rw [State.pkgAt_modPkg, if_pos rfl]
    dsimp only
    split <;> exact record _
  · exact ⟨rfl, rfl⟩
theorem State.monitorEvent_fabric (s : State) (pkg : Nat) (e : Event) (part : Nat) :
    ((s.monitorEvent pkg e part).pkgAt pkg).fpctl = (s.pkgAt pkg).fpctl ∧
      ((s.monitorEvent pkg e part).pkgAt pkg).ports = (s.pkgAt pkg).ports := by
  unfold State.monitorEvent
  rw [State.pkgAt_modPkg, if_pos rfl]
  exact State.logEvent_fabric s pkg part e
theorem State.portDown_fabric (s : State) (pkg i : Nat) : ((s.portDown pkg i).pkgAt pkg).fpctl = (s.pkgAt pkg).fpctl ∧
    ((s.portDown pkg i).pkgAt pkg).ports = (s.pkgAt pkg).ports.set i { (s.pkgAt pkg).ports.getD i { } with state := 0, inRow := 0, buffer := [] } := by
  unfold State.portDown
  obtain ⟨hf, hp⟩ := State.monitorEvent_fabric (s.modPkg pkg (fun p =>
    { p.modPort i (fun q => { q with state := 0, inRow := 0, buffer := [] }) with ferr := p.ferr ||| 4 })) pkg
    { cause := Cause.mcLink, aux := BitVec.ofNat 32 i } 0x7F
  rw [hf, hp, State.pkgAt_modPkg, if_pos rfl]
  exact ⟨rfl, rfl⟩

theorem State.portCtl_butPort (pkg v before : Nat) (t : State) (i : Nat) :
    (t.pkgAt pkg).ButPort ((State.portCtl pkg v before t i).pkgAt pkg) i := by
  unfold State.portCtl
  split
  · split
    · exact .refl _ i
    · rw [State.pkgAt_modPkg, if_pos rfl]
      exact Pkg.modPort_butPort ..
  · split
    · exact .refl _ i
    · obtain ⟨hf, hp⟩ := t.portDown_fabric pkg i
      exact ⟨hf, fun j hj => by rw [hp, List.getElem?_set_ne hj.symm]⟩
/-- A cleared port is down (R396). -/
theorem State.portCtl_cleared {pkg v before : Nat} {t : State} {i : Nat} (hv : bitAt v i = false) {y : Port}
    (hy : ((State.portCtl pkg v before t i).pkgAt pkg).ports[i]? = some y) : y.state = 0 := by
  unfold State.portCtl at hy
  rw [if_neg (ne_true_of_eq_false hv)] at hy
  split at hy
  · rename_i down
    rwa [List.getD_eq_getElem?_getD, hy] at down
  · rw [(t.portDown_fabric pkg i).2, List.getElem?_set_self'] at hy
    obtain ⟨_, -, rfl⟩ := Option.map_eq_some_iff.mp hy
    rfl
/-- After the first n ports the register is as written, and those of them that it clears are down. -/
theorem State.portCtl_fold (pkg v before n : Nat) (s : State) :
    (((List.range n).foldl (State.portCtl pkg v before) s).pkgAt pkg).fpctl = (s.pkgAt pkg).fpctl ∧
      ∀ i, i < n → bitAt v i = false → ∀ y, (((List.range n).foldl (State.portCtl pkg v before) s).pkgAt pkg).ports[i]? = some y → y.state = 0 := by
  induction n with
  | zero => exact ⟨rfl, fun i hi => absurd hi (Nat.not_lt_zero i)⟩
  | succ n ih =>
    obtain ⟨hf, hd⟩ := ih
    rw [List.range_succ, List.foldl_append, List.foldl_cons, List.foldl_nil]
    obtain ⟨kf, kp⟩ := State.portCtl_butPort pkg v before ((List.range n).foldl (State.portCtl pkg v before) s) n
    refine ⟨kf.trans hf, fun i hi hv y hy => ?_⟩
    by_cases e : i = n
    · subst e; exact State.portCtl_cleared hv hy
    · exact hd i (by omega) hv y (kp i e ▸ hy)
theorem State.setFpctl_ports (s : State) (pkg : Nat) (v : Word) : ((s.setFpctl pkg v.toNat).pkgAt pkg).fpctl = v.toNat % 2 ^ 18 ∧
    ∀ i, i < 18 → v.getLsbD i = false → ∀ y, ((s.setFpctl pkg v.toNat).pkgAt pkg).ports[i]? = some y → y.state = 0 := by
  rw [State.setFpctl_eq]
  obtain ⟨hf, hd⟩ := State.portCtl_fold pkg (v.toNat % 2 ^ 18) (s.pkgAt pkg).fpctl 18 (s.modPkg pkg (fun p => { p with fpctl := v.toNat % 2 ^ 18 }))
  refine ⟨hf.trans (by rw [State.pkgAt_modPkg, if_pos rfl]), fun i hi hv => hd i hi ?_⟩
  rw [bitAt_eq_testBit, Nat.testBit_mod_two_pow, decide_eq_true hi, Bool.true_and]
  exact hv

theorem State.setFpool_cases (s : State) (pkg : Nat) (v : Word) :
    (v.toNat / 65536 % 2048 ≤ v.toNat % 2048 → v.toNat % 2048 ≤ 1024 - (s.pkgAt pkg).floorSum → s.setFpool pkg v.toNat =
      s.modPkg pkg (fun p => { p with fhi := v.toNat % 2048, flo := v.toNat / 65536 % 2048 })) ∧
    ((v.toNat % 2048 < v.toNat / 65536 % 2048 ∨ 1024 - (s.pkgAt pkg).floorSum < v.toNat % 2048) →
      s.setFpool pkg v.toNat = s.modPkg pkg (fun p => { p with ferr := p.ferr ||| 2 })) := by
  have hi : bits v.toNat 10 0 = v.toNat % 2048 := by simp [bits]
  have lo : bits v.toNat 26 16 = v.toNat / 65536 % 2048 := by simp [bits]
  unfold State.setFpool
  simp only [hi, lo]
  refine ⟨fun h1 h2 => State.modPkg_congr (if_neg ?_), fun h => State.modPkg_congr (if_pos ?_)⟩
  · simpa using ⟨h1, h2⟩
  · simpa using h
theorem State.setFfloor_cases (s : State) (pkg : Nat) (v : Word) :
    let sum := (s.pkgAt pkg).floorSum - lookupD 0 (s.pkgAt pkg).ffsel (s.pkgAt pkg).floors + v.toNat % 1024
    (sum ≤ 512 → s.setFfloor pkg v.toNat = s.modPkg pkg (fun p => { p with floors := insertAt p.ffsel (v.toNat % 1024) p.floors })) ∧
      (512 < sum → s.setFfloor pkg v.toNat = s.modPkg pkg (fun p => { p with ferr := p.ferr ||| 1 })) :=
  ⟨fun h => State.modPkg_congr (if_neg (Nat.not_lt.mpr h)), fun h => State.modPkg_congr (if_pos h)⟩
theorem State.setSnctl_up {s : State} {pkg : Nat} {v : Word} (h : (if v.getLsbD 0 then (s.pkgAt pkg).slbUp else (s.pkgAt pkg).slaUp) = true) :
    s.setSnctl pkg v.toNat = s.modPkg pkg (fun p => { p with snact := v.getLsbD 0 }) := by
  refine State.modPkg_congr ?_
  dsimp only
  simp only [← getLsbD_zero_iff v, Bool.decide_eq_true]
  exact if_pos h
theorem Pkg.unfreeze_none {p : Pkg} (h : p.resetDue = none) : p.unfreeze = { p with frozen := false } := by
  unfold Pkg.unfreeze
  rw [h]
theorem Pkg.unfreeze_some {p : Pkg} {r : ColRec} (h : p.resetDue = some r) : p.unfreeze = { p with
    frozen := false, resetDue := none, colophon := ({ r with seq := p.colseq } :: p.colophon).take 2048, colseq := (p.colseq + 1) % 2 ^ 32 } := by
  unfold Pkg.unfreeze
  rw [h]

/-! Bandwidth windows and requests of the channel groups (R388, R392). -/

/-- A keyed list whose values change by their keys, looked up. An unlisted key reads as the default, which the change must then keep. -/
theorem lookupD_map_value {α : Type} (d : α) (k : Nat) (g : Nat → α → α) (l : List (Nat × α)) (hd : lookupD d k l = d → g k d = d) :
    lookupD d k (l.map (fun x => (x.1, g x.1 x.2))) = g k (lookupD d k l) := by
  induction l with
  | nil => exact (hd rfl).symm
  | cons x r ih =>
    obtain ⟨j, v⟩ := x
    by_cases h : j = k
    · simp [lookupD, h]
    · simp only [lookupD, List.map_cons, h, if_false] at hd ⊢
      exact ih hd
@[simp] theorem Part.fresh_floorShare (p : Nat) : (Part.fresh p).floorShare = 0 := by
  have floor : bandFloor (Part.fresh p).band = 0 := by unfold Part.fresh; split <;> decide
  rw [Part.floorShare, floor, Nat.zero_mul, Nat.zero_div]

/-- A partition of the package as a window begins. -/
def Part.window (x : Part) (missed : Bool) : Part :=
  { x with counts := [], pbandOld := none, perr := if missed then x.perr ||| 2 else x.perr }
/-- The state as a package's window begins. -/
def State.window (s : State) (pkg : Nat) : State :=
  { (s.modPkg pkg (fun k => { k with winStart := s.now, pressed := s.pressing pkg })) with
    parts := s.parts.map (fun kp => (kp.1, if kp.1 / 96 = pkg then kp.2.window (s.floorMissed pkg kp.1) else kp.2)) }
theorem execBandwidthWindow_due {s : State} {pkg : Nat} (h : (s.pkgAt pkg).winStart + 3300 ≤ s.now) :
    execBandwidthWindow pkg s = .next (s.window pkg) := by
  unfold execBandwidthWindow
  rw [if_pos h, State.window]
  have e : ∀ kp : Nat × Part, (if kp.1 / 96 = pkg then (kp.1, kp.2.window (s.floorMissed pkg kp.1)) else kp) =
      (kp.1, if kp.1 / 96 = pkg then kp.2.window (s.floorMissed pkg kp.1) else kp.2) := fun kp => by split <;> rfl
  simp only [← e]
  rfl
theorem State.pkgAt_window (s : State) (pkg : Nat) :
    (s.window pkg).pkgAt pkg = { s.pkgAt pkg with winStart := s.now, pressed := s.pressing pkg } :=
  (s.pkgAt_modPkg pkg pkg (fun k => { k with winStart := s.now, pressed := s.pressing pkg })).trans (if_pos rfl)
/-- A partition at its reset values has no floor to miss. -/
theorem State.floorMissed_fresh {s : State} {pkg q : Nat} (h : s.partAt q = Part.fresh q) : s.floorMissed pkg q = false := by
  simp [State.floorMissed, h]
theorem State.partAt_window (s : State) {pkg q : Nat} (h : q / 96 = pkg) :
    (s.window pkg).partAt q = (s.partAt q).window (s.floorMissed pkg q) := by
  refine (lookupD_map_value (Part.fresh q) q (fun k x => if k / 96 = pkg then x.window (s.floorMissed pkg k) else x) s.parts ?_).trans (if_pos h)
  intro unlisted
  rw [if_pos h, State.floorMissed_fresh unlisted]
  unfold Part.fresh
  split <;> rfl

theorem State.pickHbm_none {s : State} {pkg group : Nat} (h : s.hbm.filter (fun r => r.pkg = pkg && r.group = group) = []) :
    s.pickHbm pkg group = none := by
  simp [State.pickHbm, h]
/-- A request below its partition's floor share starts first (R388). -/
theorem State.pickHbm_floor {s : State} {pkg group : Nat} {r : HbmReq} (hg : group < 64)
    (h : (s.hbm.filter (fun r => r.pkg = pkg && r.group = group)).find? (fun r =>
      decide ((s.partAt r.part).counted group < (s.partAt r.part).floorShare)) = some r) : s.pickHbm pkg group = some r := by
  unfold State.pickHbm
  simp only [h, Nat.ne_of_lt hg, if_false]
/-- A request started: it is no longer among those waiting, and its 128 bytes count for its partition, in its group and in a meter. -/
def State.startHbm (s : State) (pkg group : Nat) (r : HbmReq) : State :=
  ((({ s with hbm := s.hbm.erase r }).modPkg pkg (fun k => { k with
    pressed := k.pressed.filter (fun x => x ≠ (r.part, group) || ({ s with hbm := s.hbm.erase r }.pressing pkg).contains x) })).modPart r.part
      (fun x => { x with counts := insertAt group (x.counted group + 128) x.counts })).meter r.part (if r.write then 7 else 6) 128
theorem execHbmRequestStart_picked {s : State} {pkg group : Nat} {r : HbmReq} (hg : group < 64) (h : s.pickHbm pkg group = some r) :
    execHbmRequestStart pkg group s = .next (s.startHbm pkg group r) := by
  unfold execHbmRequestStart
  simp only [h, Nat.ne_of_lt hg, if_false]
  rfl
theorem State.meter_hbm (s : State) (p m n : Nat) : (s.meter p m n).hbm = s.hbm := by
  unfold State.meter; split <;> rfl
theorem State.startHbm_part (s : State) (pkg group : Nat) (r : HbmReq) :
    ((s.startHbm pkg group r).partAt r.part).counted group = (s.partAt r.part).counted group + 128 ∧
    ((s.startHbm pkg group r).partAt r.part).meters = (s.partAt r.part).meters.set (if r.write then 7 else 6)
      ((s.partAt r.part).meters.getD (if r.write then 7 else 6) 0 + 128) := by
  unfold State.startHbm State.meter
  rw [if_neg (by decide), State.partAt_modPart, if_pos rfl, State.partAt_modPart, if_pos rfl]
  exact ⟨by rw [Part.counted, lookupD_insertAt, if_pos rfl]; rfl, rfl⟩

/-- Settles O57: each register's write is the lemma of its name. A resumption of a core that runs, a window that is not over and a group
without requests leave the state as it is (log 30); the board controller's writes are steps of the machine (log 27). -/
theorem registerWriteResults : Obligations.RegisterWriteResults := by
  unfold Obligations.RegisterWriteResults
  refine ⟨fun s pkg core v => ?core, fun s pkg part v => ?enable, fun s pkg part v => ?part, fun s pkg v => ?fabric, fun s pkg => ?window,
    fun s pkg group => ?hbm⟩
  case core =>
    simp only [exec_srseedWrite, exec_coreResume, execSrseedWrite, execCoreResume]
    exact ⟨rfl, fun h => congrArg _ (if_pos h), fun h => congrArg _ (if_neg (ne_true_of_eq_false h))⟩
  case enable =>
    simp only [exec_partitionEnable, exec_partitionDisable, execPartitionEnable, execPartitionDisable]
    refine ⟨fun hv hx => ⟨fun code hc => ?_, fun hc hg => ?_⟩, fun hv hx => ⟨fun hb => ?_, fun hb => ?_⟩, State.enableCheck_clusters s _ _,
      fun ho hp => State.enableCheck_alone (s.enabledOthers_nil hp ho)⟩
    · rw [if_pos hv, State.setPctl_refused hv hx hc]; rfl
    · rw [if_pos hv, State.setPctl_enabled hv hx hc hg]; rfl
    · rw [if_neg (ne_true_of_eq_false hv), State.setPctl_busy hv hx hb]; rfl
    · exact ⟨_, congrArg _ (if_neg (ne_true_of_eq_false hv)), State.setPctl_disabled hv hx hb⟩
  case part =>
    simp only [exec_pbandWrite, exec_partitionNarrow, exec_queueBind, execPbandWrite, execPartitionNarrow, execQueueBind, State.setNarrow]
    refine ⟨fun hx => by rw [State.setPband_disabled v hx], fun hx => by rw [State.setPcol_disabled false v hx]; rfl,
      fun hx => by rw [State.setPcol_disabled true v hx]; rfl, fun _ hv h => by rw [State.setPchan_narrowed hv h],
      fun hx h => by rw [State.setPchan_refused hx h]; rfl, fun hx => ⟨_, rfl, State.setPclu_disabled v hx⟩,
      fun hq hl => ⟨_, rfl, storedDesc v, ?_⟩, fun hq hl => ⟨_, rfl, ?_⟩⟩
    · obtain ⟨quota, addr, low⟩ := storedDesc_fields v
      rw [State.setQdesc_qdesc]
      exact ⟨List.getElem?_set_self (by omega), quota, addr, low, fun i hi => List.getElem?_set_ne hi.symm⟩
    · rw [State.setQeng_qeng]
      exact ⟨List.getElem?_set_self (by omega), fun i hi => List.getElem?_set_ne hi.symm⟩
  case fabric =>
    simp only [exec_fpctlWrite, exec_fpoolWrite, exec_ffloorWrite, exec_snctlWrite, exec_colctlUnfreeze, execFpctlWrite, execFpoolWrite,
      execFfloorWrite, execSnctlWrite, execColctlUnfreeze]
    refine ⟨⟨_, rfl, State.setFpctl_ports s pkg v⟩, fun h1 h2 => congrArg _ ((State.setFpool_cases s pkg v).1 h1 h2),
      fun h => congrArg _ ((State.setFpool_cases s pkg v).2 h), fun h => congrArg _ ((State.setFfloor_cases s pkg v).1 h),
      fun h => congrArg _ ((State.setFfloor_cases s pkg v).2 h), fun h => congrArg _ (State.setSnctl_up h),
      fun h => congrArg _ (State.modPkg_congr (Pkg.unfreeze_none h)), fun r h => congrArg _ (State.modPkg_congr (Pkg.unfreeze_some h))⟩
  case window =>
    rw [exec_bandwidthWindow]
    refine ⟨fun h => congrArg _ (if_neg (Nat.not_le.mpr h)), fun h => ⟨_, execBandwidthWindow_due h, ?_, fun q hq => ?_⟩⟩
    · rw [State.pkgAt_window]
    · rw [s.partAt_window (by omega), State.pkgAt_window]
      exact ⟨rfl, rfl, rfl, rfl, rfl⟩
  case hbm =>
    rw [exec_hbmRequestStart]
    refine ⟨fun h => ?_, fun r h hg => ?_⟩
    · unfold execHbmRequestStart
      rw [State.pickHbm_none h]
    · obtain ⟨counted, meters⟩ := s.startHbm_part pkg group r
      refine ⟨_, execHbmRequestStart_picked hg (State.pickHbm_floor hg h), State.meter_hbm .., counted, fun hl => ?_⟩
      rw [meters]
      exact List.getElem?_set_self (by split <;> omega)

end Sys2Proof.Machine
end

section
/-! PROOFS. The machine steps of the engines and the bulk queues (R28, R30, R100, R230 to R232, R237, R241 to R244, R253 to R256, R384, R392,
R409). -/

namespace Sys2Proof.Machine

/-! ENGINE_COMMAND_COMPLETE by the kind of the command (R230, R241 to R244, R247). -/

/-- A command as the state now holds it leaves its core's order. -/
def State.endNow (s : State) (id : Nat) : State :=
  match s.cmd? id with
  | some c => s.endCmd c
  | none => s
theorem State.endNow_eq (s : State) (id : Nat) : s.endNow id = ((s.cmds.find? (fun d => d.id = id)).map s.endCmd).getD s := by
  unfold State.endNow State.cmd?
  cases s.cmds.find? (fun d => d.id = id) <;> rfl

section
variable {s : State} {c : Cmd} (hc : s.cmds.find? (fun d => d.id = c.id) = some c)
include hc

theorem State.cmd?_eq : s.cmd? c.id = some c := hc

variable (hf : s.cmdFree c = true)
include hf

theorem execEngineCommandComplete_mma (hk : c.kind = .mma) (hl : c.landed = true) (ht : s.tablesReady c = true) :
    execEngineCommandComplete c.id s = .next ((s.runMma c).endNow c.id) := by
  unfold execEngineCommandComplete
  simp only [State.cmd?_eq hc, hf, hk, hl, ht]
  rfl
theorem execEngineCommandComplete_accz (hk : c.kind = .accz) :
    execEngineCommandComplete c.id s = .next ((s.modTeam c.tid (fun t => { t with accs := t.accs.filter (fun a =>
      !(decide (1024 * c.tile ≤ a.1) && decide (a.1 < 1024 * (c.tile + c.tiles)))) })).endNow c.id) := by
  unfold execEngineCommandComplete
  simp only [State.cmd?_eq hc, hf, hk]
  rfl
theorem execEngineCommandComplete_accrd (hk : c.kind = .accrd) :
    execEngineCommandComplete c.id s = .next ((s.runAccrd c).endNow c.id) := by
  unfold execEngineCommandComplete
  simp only [State.cmd?_eq hc, hf, hk]
  rfl
theorem execEngineCommandComplete_inner (hk : c.kind = .tcopy) (hd : (readCopy c.block).dir = 3) :
    execEngineCommandComplete c.id s = .next ((s.runInner c).endNow c.id) := by
  unfold execEngineCommandComplete
  simp only [State.cmd?_eq hc, hf, hk, hd]
  rfl
theorem execEngineCommandComplete_tcopy (hk : c.kind = .tcopy) (hd : (readCopy c.block).dir ≠ 3) (hm : c.finished = true)
    (ha : s.cmdAcked c = true) : execEngineCommandComplete c.id s = .next (s.endCmd c) := by
  unfold execEngineCommandComplete
  simp [State.cmd?_eq hc, hf, hk, hd, hm, ha]
theorem execEngineCommandComplete_tgath (hk : c.kind = .tgath) (hm : c.finished = true) :
    execEngineCommandComplete c.id s = .next (s.endCmd c) := by
  unfold execEngineCommandComplete
  simp [State.cmd?_eq hc, hf, hk, hm]
end

/-! A matrix command's multiply-adds (R392). -/

/-- The widths of the element formats of at most 16 bits (R73). -/
theorem Resv.elemBits_cases (r : Resv) (h : r.elemBits ≤ 16) :
    r.elemBits = 16 ∨ r.elemBits = 8 ∨ r.elemBits = 6 ∨ r.elemBits = 4 := by
  have codes : ∀ e, e < 64 → let b := ((elemOf e).getD (.float fmtF32)).bits; b = 32 ∨ b = 16 ∨ b = 8 ∨ b = 6 ∨ b = 4 := by decide
  rcases codes r.efmt.toNat r.efmt.isLt with e | e
  · exact absurd (show r.elemBits = 32 from e) (by omega)
  · exact e
theorem mmaIsInt_iff (ra rb : Resv) : mmaIsInt ra rb = true ↔
    ra.efmt ∈ [8, 9] ∧ rb.efmt ∈ [8, 9] ∧ ra.scaled = false ∧ rb.scaled = false := by
  simp [mmaIsInt, and_assoc]
/-- The meter of a matrix command: integers, or the class of the wider operand. -/
theorem mmaMeter_eq (ra rb : Resv) (ha : ra.elemBits ≤ 16) (hb : rb.elemBits ≤ 16) : mmaMeter ra rb =
    if ra.efmt ∈ [8, 9] ∧ rb.efmt ∈ [8, 9] ∧ ra.scaled = false ∧ rb.scaled = false then 2
    else if 16 ∈ [ra.elemBits, rb.elemBits] then 0 else if 8 ∈ [ra.elemBits, rb.elemBits] then 1 else 3 := by
  unfold mmaMeter
  simp only [mmaIsInt_iff]
  congr 1
  rcases ra.elemBits_cases ha with h | h | h | h <;> rcases rb.elemBits_cases hb with h' | h' | h' | h' <;> simp [h, h']
theorem State.meter_meters {s : State} {p m n i : Nat} (hl : (s.partAt p).meters.length = 15) (hi : i < 15) :
    ((s.meter p m n).partAt p).meters[i]? = some ((s.partAt p).meters.getD i 0 + if i = m then BitVec.ofNat 64 n else 0) := by
  have hi' : i < (s.partAt p).meters.length := hl ▸ hi
  have here : (s.partAt p).meters[i]? = some ((s.partAt p).meters.getD i 0) := by
    rw [List.getD_eq_getElem _ _ hi', List.getElem?_eq_getElem hi']
  unfold State.meter
  by_cases hn : n = 0
  · rw [if_pos hn, here, hn]; simp
  · rw [if_neg hn, State.partAt_modPart, if_pos rfl]
    by_cases e : i = m
    · subst e; rw [List.getElem?_set_self hi', if_pos rfl]
    · rw [List.getElem?_set_ne (Ne.symm e), here, if_neg e]; simp
theorem State.runMma_meters {s : State} {c : Cmd} {ra rb : Resv} (ha : c.resA = some ra) (hb : c.resB = some rb)
    (hl : (s.partAt c.part).meters.length = 15) {i : Nat} (hi : i < 15) :
    ((s.runMma c).partAt c.part).meters[i]? = some ((s.partAt c.part).meters.getD i 0 +
      if i = mmaMeter ra rb then BitVec.ofNat 64 (readMma c.block).products else 0) := by
  unfold State.runMma
  rw [ha, hb]
  exact State.meter_meters hl hi

/-! The other steps of a core's engines. -/

/-- A range read byte by byte. -/
theorem Memory.read_eq_map (m : List Host.Cell) (a n : Nat) : Memory.read m a n = (List.range n).map (fun i => Memory.byte m (a + i)) := by
  induction n generalizing a with
  | zero => rfl
  | succ n ih => simp [Memory.read, ih, List.range_succ_eq_map, Nat.add_assoc, Nat.add_comm 1]
theorem Team.readLeaf_eq (t : Team) (off n : Nat) : t.readLeaf off n = t.leafBytes off n := Memory.read_eq_map t.scratch off n
theorem Team.leafFree.thread_owned {t : Team} {off n : Nat} (h : t.leafFree off n) : t.engineOwned (leafSpan off n) = false := by
  obtain ⟨-, free⟩ := h
  rw [Team.engineOwned, List.any_eq_false]
  intro c hc
  rw [Bool.not_eq_true, List.any_eq_false]
  intro i hi
  have apart := free c hc i hi
  unfold leafSpan
  split <;> simp only [Bool.and_eq_true, decide_eq_true_eq] <;> omega

section
variable {s : State} {c : Cmd} (hc : s.cmds.find? (fun d => d.id = c.id) = some c)
include hc

theorem execEngineAbort_fails {v : Nat} (hv : s.cmdFault c = some v) :
    execEngineAbort c.id s = .next ((s.endCmd c).recordEngineFault c.tid c.fid c.part (BitVec.ofNat 64 v)) := by
  unfold execEngineAbort
  simp only [State.cmd?_eq hc, hv]

/-- A neighbour's bytes go into the operand buffer once none of its leaves that they lie in is owned by an engine (R242). -/
theorem execNeighbourFetch_fetches {r : Resv} {x : Team} {p : MmaParams} (hp : readMma c.block = p) (hk : c.kind = .mma)
    (hr : c.resA = some r) (hloc : 4 ≤ p.loca) (hg : c.gotA = false) (hf : s.cmdFree c = true)
    (hx : ((s.team c.tid).neighbour (p.loca - 4)).bind s.team? = some x) (hj : x.inJacket = false)
    (hl : x.leafFree p.noffa (r.used p.m p.kept p.k)) : execNeighbourFetch c.id false s = .next
      ((s.modCore c.core (fun k => { k with ob := Memory.write k.ob (1024 * r.base) (x.leafBytes p.noffa (r.used p.m p.kept p.k)) })).modCmd c.id
        (fun c => { c with gotA := true })) := by
  have free := hl.thread_owned
  unfold execNeighbourFetch
  simp only [State.cmd?_eq hc, hp, hk, hr, hg, hf, hj, hx, free, Team.readLeaf_eq, Bool.false_eq_true, if_false]
  rw [if_neg (by simpa using hloc)]
  rfl

/-- A code table is written once no earlier command of the core names it or writes it (R100). -/
theorem execCtabTableWrite_writes (hk : c.kind = .ctab)
    (he : ∀ d ∈ s.cmds, d.core = c.core → d.id < c.id → c.arg8 ∉ d.tables ∧ ¬ (d.kind = .ctab ∧ d.arg8 = c.arg8)) :
    execCtabTableWrite c.id s = .next ({ s with cmds := s.cmds.filter (fun d => d.id ≠ c.id) }.modCore c.core (fun k =>
      { k with
        tables := k.tables.set c.arg8 ((List.range 16).map (fun i => BitVec.ofNat 16 (ofBytes ((c.block.drop (2 * i)).take 2))))
        tableVer := k.tableVer.set c.arg8 ((k.tableVer.getD c.arg8 0 + 1) % 2 ^ 16) })) := by
  have none_before : s.cmds.any (fun d => d.core = c.core && decide (d.id < c.id) &&
      (d.tables.contains c.arg8 || (d.kind = .ctab && d.arg8 = c.arg8))) = false := by
    rw [List.any_eq_false]
    intro d hd
    have := he d hd
    simp only [Bool.and_eq_true, Bool.or_eq_true, decide_eq_true_eq, List.contains_iff_mem]
    tauto
  unfold execCtabTableWrite
  simp only [State.cmd?_eq hc, hk, none_before]
  rfl
end

/-- A range of the operand buffer returns once no earlier command names its reservation (R237). -/
theorem execObRangeReturn_returns {s : State} {pkg core num g : Nat} {r : Resv}
    (hr : (s.coreAt (384 * pkg + core)).resvs.find? (fun r => r.num = num) = some r) (hg : r.gone = some g)
    (he : ∀ c ∈ s.cmds, c.core = 384 * pkg + core → c.id < g → ∀ x ∈ c.resA.toList ++ c.resB.toList, x.num ≠ num) :
    execObRangeReturn pkg core num s =
      .next (s.modCore (384 * pkg + core) (fun c => { c with resvs := c.resvs.filter (fun r => r.num ≠ num) })) := by
  have none_before : s.cmds.any (fun c => c.core = Config.coresPerPkg * pkg + core && decide (c.id < g) &&
      (c.resA.toList ++ c.resB.toList).any (fun r => r.num = num)) = false := by
    rw [List.any_eq_false]
    intro c hc
    have := he c hc
    simp only [Bool.and_eq_true, decide_eq_true_eq, List.any_eq_true]
    rintro ⟨⟨h1, h2⟩, x, hx, hn⟩
    exact this h1 h2 x hx hn
  obtain ⟨num', tid, base, len, efmt, scaled, blkl, ct, estr, sstr, soff, gone⟩ := r
  obtain rfl : gone = some g := hg
  have hr' : (s.coreAt (Config.coresPerPkg * pkg + core)).resvs.find? (fun r => r.num = num) = _ := hr
  unfold execObRangeReturn
  simp only [hr', none_before]
  rfl

/-! Bulk packets (R254 to R256, R384, R409). -/

/-- A queue with nothing to take again has no stopped packet (R256). -/
theorem State.retake_none_iff (s : State) (p hdr : Nat) : s.retake p hdr = none ↔ (s.takenOf p hdr).filter (·.stopped) = [] := by
  unfold State.retake
  generalize (s.takenOf p hdr).filter (·.stopped) = xs
  constructor
  · intro h
    dsimp only at h
    split at h
    · exact nomatch h
    · exact List.head?_eq_none_iff.mp h
  · rintro rfl
    rfl
theorem State.modPkg_retake {s : State} {p hdr : Nat} (pkg : Nat) (f : Pkg → Pkg) (h : s.retake p hdr = none) :
    (s.modPkg pkg f).retake p hdr = none :=
  (State.retake_none_iff _ p hdr).mpr ((State.retake_none_iff s p hdr).mp h)

/-- A new packet is taken into the list of those at work (R254). -/
theorem execPacketTake_takes {s : State} {pkg part queue engine hdr lvl : Nat} {r : Ready} (h1 : engine < 48) (h2 : part < 96)
    (h3 : queue < 16) (h4 : s.engineLoad pkg engine < 8) (h5 : ((s.partAt (96 * pkg + part)).qeng.getD queue 0).getLsbD engine = true)
    (hs : s.bulkSlot (96 * pkg + part) queue = some (hdr, lvl)) (hl : s.bulkLook (96 * pkg + part) queue = .ready r)
    (hn : s.nextQueue pkg engine = some (16 * part + queue)) (hr : s.retake (96 * pkg + part) hdr = none) (hb : packetBad r.pkt = false) :
    ∃ u, execPacketTake pkg part queue engine s = .next u ∧ ∃ x : Packet, u.packets = s.packets ++ [x] ∧ x.queue = queue ∧ x.engine = engine ∧
      x.index = r.idx ∧ x.bytes = r.pkt ∧ x.hdr = BitVec.ofNat 64 hdr ∧ x.part = 96 * pkg + part ∧ x.pkg = pkg := by
  have guard : ¬ (48 ≤ engine || 96 ≤ part || 16 ≤ queue || 8 ≤ s.engineLoad pkg engine ||
      !((s.partAt (96 * pkg + part)).qeng.getD queue 0).getLsbD engine) = true := by
    simp only [h5, Bool.not_true, Bool.or_false, Bool.or_eq_true, decide_eq_true_eq]
    omega
  unfold execPacketTake
  dsimp only
  rw [if_neg guard, hs, hl]
  simp only [hn, ne_eq, not_true_eq_false, if_false, State.modPkg_retake pkg _ hr, hb, Bool.false_eq_true]
  exact ⟨_, rfl, _, congrArg (· ++ [_]) (State.MovesBytes.agentPut _ _ _ _ _).packets, rfl, rfl, rfl, rfl, rfl, rfl, rfl⟩

section
variable {s : State} {x : Packet} (hx : s.packets.find? (fun y => y.id = x.id) = some x) (hs : x.stopped = false)
  (hd : (s.pkgAt x.pkg).down = false) (ha : x.asked = false)
include hx hs hd ha

theorem execCopyChunk_works (he : x.effect = false) (hf : x.failing = none) :
    (x.kind = 1 ∨ x.kind = 2 → execCopyChunk x.id s = .next (s.copyChunk x)) ∧
      (x.kind = 3 → execCopyChunk x.id s = .next (s.chainStart x)) := by
  unfold execCopyChunk
  simp only [hx, hs, hd, ha, he, hf]
  exact ⟨fun hk => by rcases hk with hk | hk <;> simp [hk], fun hk => by simp [hk]⟩

variable (hf : x.arrival = none)
include hf

/-- PACKET_FINISH waits for a page of the packet's queue. -/
theorem execPacketFinish_waits {va : Nat} (hq : s.queueAbsent x = some va) : execPacketFinish x.id s = .next (s.parkPacket x .write va) := by
  unfold execPacketFinish
  simp [hx, hs, hd, ha, hf, hq]

variable (hq : s.queueAbsent x = none)
include hq

theorem execPacketFinish_stops {c : BitVec 7} {k : Nat} (h : x.failing = some (c, k)) :
    execPacketFinish x.id s = .next (s.packetStop x c k) := by
  unfold execPacketFinish
  simp [hx, hs, hd, ha, hf, hq, h]
theorem execPacketFinish_fails {c : BitVec 7} (h : x.failing = none) (ho : x.opFailed = some c) :
    execPacketFinish x.id s = .next (s.operationFails (if x.acted then x else { x with effect := false }) c) := by
  unfold execPacketFinish
  simp [hx, hs, hd, ha, hf, hq, h, ho]
theorem execPacketFinish_done (h : x.failing = none) (ho : x.opFailed = none) (he : x.effect = true) (hk : x.doneKind = 0 ∨ x.acted = true) :
    execPacketFinish x.id s = .next (s.packetDone x 1 x.cause) := by
  unfold execPacketFinish
  simp [hx, hs, hd, ha, hf, hq, h, ho, he, hk]
theorem execPacketFinish_operates (h : x.failing = none) (ho : x.opFailed = none)
    (hk : (x.effect = true ∧ x.doneKind ≠ 0 ∧ x.acted = false) ∨ (x.effect = false ∧ 4 ≤ x.kind)) :
    execPacketFinish x.id s = .next (s.operate x) := by
  unfold execPacketFinish
  rcases hk with ⟨he, hk, hn⟩ | ⟨he, hk⟩
  · simp [hx, hs, hd, ha, hf, hq, h, ho, he, hk, hn]
  · simp [hx, hs, hd, ha, hf, hq, h, ho, he, hk]
end
/-- A finished packet leaves the list of those at work. -/
theorem State.packetDone_packets {s : State} {x : Packet} (hq : s.queueAbsent x = none) (state : Nat) (cause : BitVec 7) :
    (s.packetDone x state cause).packets = s.packets.filter (fun y => y.id ≠ x.id) := by
  unfold State.packetDone
  rw [hq]
  dsimp only
  rw [(State.MovesBytes.advanceDone _ x).packets, (State.MovesBytes.queuePut s x _ _).packets]

/-- A chain whose target faults tells its origin the cause (R409). -/
theorem execChainHop_faults {s : State} {m : Msg} {x : Packet} {pkt hop : Nat} {bs : List Byte} {c : Cause.Code}
    (hm : s.msgs.find? (fun y => y.id = m.id) = some m) (ho : m.op = .chain pkt hop bs) (hst : m.stage = .applied) (hn : m.answered = false)
    (hx : s.packets.find? (fun y => y.id = pkt) = some x) (hr : rangeIn x.ranges .user .write (ofBytes ((x.bytes.drop 0x10).take 8)) = .error c) :
    execChainHop m.id s = .next (State.send { s with msgs := s.msgs.map (fun y => if y.id = m.id then { y with answered := true } else y) } m.dst
      x.pkg (.nack m.id c)) := by
  have hm' : s.msg? m.id = some m := hm
  have hr' : rangeIn x.ranges .user .write (blockDword x.bytes 0x10) = .error c := hr
  unfold execChainHop
  simp only [hm', ho, hst, hn, hx, hr']
  rfl

/-- Settles O52: each step is the lemma of its name; a matrix command's meter is State.runMma_meters with mmaMeter_eq. -/
theorem engineStepResults : Obligations.EngineStepResults := by
  unfold Obligations.EngineStepResults
  simp only [exec_engineCommandComplete, exec_engineAbort, exec_neighbourFetch, exec_ctabTableWrite, exec_obRangeReturn, exec_packetTake,
    exec_copyChunk, exec_packetFinish, exec_chainHop, ← State.endNow_eq]
  refine ⟨fun s c hc hf => ⟨execEngineCommandComplete_mma hc hf, execEngineCommandComplete_accz hc hf, execEngineCommandComplete_accrd hc hf,
      execEngineCommandComplete_inner hc hf, execEngineCommandComplete_tcopy hc hf, execEngineCommandComplete_tgath hc hf⟩,
    fun s c ra rb ha hb hl hra hrb i hi => ?meters, fun s c v hc => execEngineAbort_fails hc,
    fun s c r x hc hk hr hloc hg hf => execNeighbourFetch_fetches hc rfl hk hr hloc hg hf, fun s c hc => execCtabTableWrite_writes hc,
    fun s pkg core num g r => execObRangeReturn_returns,
    fun s pkg part queue engine hdr lvl r => execPacketTake_takes, fun s x hx hs hd ha => ?packet,
    fun s m x pkt hop bs c => execChainHop_faults⟩
  case meters =>
    rw [State.runMma_meters ha hb hl hi, mmaMeter_eq ra rb hra hrb]
    rfl
  case packet =>
    refine ⟨execCopyChunk_works hx hs hd ha, fun hf hq => ⟨fun c k => execPacketFinish_stops hx hs hd ha hf hq,
      fun c => execPacketFinish_fails hx hs hd ha hf hq, fun h ho => ⟨fun he hk => ?_, execPacketFinish_operates hx hs hd ha hf hq h ho⟩⟩,
      fun va hf => execPacketFinish_waits hx hs hd ha hf⟩
    exact ⟨_, execPacketFinish_done hx hs hd ha hf hq h ho he hk, rfl, State.packetDone_packets hq 1 x.cause⟩

end Sys2Proof.Machine
end

section
/-! PROOFS. The records of a state (R64, R351): a team's wait timer can outlive its residence. -/

namespace Sys2Proof.Machine

/-- A team of one fibre that sleeps, its wait timer running (R64, R157). -/
def asleepTeam : Team := { tid := 0, fibres := [{ fid := 0, wait := some { on := .sleep 100 } }], waitSince := some 0 }
/-- The machine after reset with that team, about to take one move. -/
def asleepBefore (m : Move) : State := { agenda := [m], teams := [asleepTeam] }

theorem asleepBefore_kept (m : Move) : (asleepBefore m).Kept where
  flags := by simp [asleepBefore, asleepTeam]
  timer := by simp [asleepBefore, asleepTeam, Fibre.waiting, Fibre.parked]
  waits := by simp [asleepBefore, asleepTeam]
  saved := fun p hp => by
    rw [show (asleepBefore m).partAt p = Part.fresh p from rfl, Part.fresh_phase] at hp
    simp at hp
/-- A fibre in Wait counts as folded (R350): as the team's supervisor writes SAVE, the upkeep of that same step begins the save of the team and
leaves its timer running. -/
theorem asleepBefore_save : ∃ u, core.step (asleepBefore (.event (.preqSave 0 0))) = .next u ∧
    u.teams.map (·.res) = [.saving 3] ∧ u.teams.map (·.waitSince) = [some 0] := ⟨_, rfl, rfl, rfl⟩

/-- Refutes O6: a wait timer is to run only in a resident team, but that of a team whose fibres all wait still runs once the fold of its
partition has begun the team's save. -/
theorem not_recordsAreKept : ¬ Obligations.RecordsAreKept := by
  unfold Obligations.RecordsAreKept
  intro h
  obtain ⟨u, hu, hres, hsince⟩ := asleepBefore_save
  have timer := (h _ u (asleepBefore_kept _) hu).timer
  obtain ⟨t, ht, saving⟩ := List.map_eq_singleton_iff.mp hres
  have runs : t.waitSince = some 0 := by simpa [ht] using hsince
  obtain ⟨resident, -⟩ := timer t (by simp [ht]) (by simp [runs])
  simp [saving] at resident

end Sys2Proof.Machine
end

section
/-! PROOFS. Band-collectives (R44, R158 to R164): the gathering, and one execution for a whole band. -/

namespace Sys2Proof.Machine

/-! The gathering (R44): what it leaves of the team, of each fibre and of what a lane reads. -/

/-- A fibre that has reached a collective. -/
def Fibre.atCollective (f : Fibre) : Fibre := { f with gathered := true, wait := none }
/-- A team in which the fibres of a list of numbers have reached a collective. -/
def Team.gather (t : Team) (fids : List Nat) : Team :=
  { t with fibres := t.fibres.map (fun f => if f.fid ∈ fids then f.atCollective else f) }

@[simp] theorem Fibre.atCollective_fid (f : Fibre) : f.atCollective.fid = f.fid := rfl
@[simp] theorem Team.gather_tid (t : Team) (L : List Nat) : (t.gather L).tid = t.tid := rfl
theorem Team.gather_nil (t : Team) : t.gather [] = t := by simp [Team.gather]
theorem Team.gather_cons (t : Team) (i : Nat) (L : List Nat) :
    (t.modFibre i Fibre.atCollective).gather L = t.gather (i :: L) := by
  unfold Team.gather Team.modFibre
  simp only [List.map_map]
  congr 1
  apply List.map_congr_left
  intro f _
  by_cases hi : f.fid = i <;> by_cases hL : f.fid ∈ L <;> simp [hi, hL] <;> simp_all [Fibre.atCollective]
theorem Team.gather_congr (t : Team) {L M : List Nat} (h : ∀ i, i ∈ L ↔ i ∈ M) : t.gather L = t.gather M := by
  simp only [Team.gather, h]

theorem State.modTeam_self (s : State) (i : Nat) : s.modTeam i (fun t => t) = s := by simp [State.modTeam]
theorem State.modTeam_modTeam (s : State) (i : Nat) (f g : Team → Team) (hf : ∀ t, (f t).tid = t.tid) :
    (s.modTeam i f).modTeam i g = s.modTeam i (fun t => g (f t)) := by
  simp only [State.modTeam, List.map_map]
  congr 1
  apply List.map_congr_left
  intro t _
  by_cases h : t.tid = i <;> simp [h, hf]
theorem State.foldl_atCollective (T : Nat) (L : List Nat) (s : State) :
    (L.map (fun i => (⟨T, i⟩ : Lane))).foldl (fun t l => t.modFibre l Fibre.atCollective) s = s.modTeam T (·.gather L) := by
  induction L generalizing s with
  | nil => simp [Team.gather_nil, State.modTeam_self]
  | cons i L ih =>
    rw [List.map_cons, List.foldl_cons, ih, State.modFibre, State.modTeam_modTeam _ _ _ _ (by intro _; rfl)]
    simp only [Team.gather_cons]
/-- The gathering changes the team of the signature alone. -/
theorem State.reach_eq (s : State) : s.reach = s.modTeam s.sig.tid (·.gather s.sig.fids) := by
  have e := State.foldl_atCollective s.sig.tid (orderByLane s.sig.fids) s
  simp only [Team.gather_congr _ (fun i => mem_orderByLane i s.sig.fids)] at e
  exact e

theorem State.team_modTeam (s : State) (i : Nat) (f : Team → Team) (hf : ∀ t, (f t).tid = t.tid) (he : f { tid := i } = { tid := i }) (j : Nat) :
    (s.modTeam i f).team j = if j = i then f (s.team j) else s.team j := by
  unfold State.team
  rw [State.team?_modTeam s i f hf]
  by_cases h : j = i
  · subst h
    cases s.team? j with
    | none => rw [if_pos rfl, if_pos rfl]; exact he.symm
    | some t => rw [if_pos rfl, if_pos rfl]; rfl
  · simp [h]
theorem State.team_reach (s : State) (i : Nat) : s.reach.team i = if i = s.sig.tid then (s.team i).gather s.sig.fids else s.team i := by
  rw [State.reach_eq]
  exact State.team_modTeam s s.sig.tid (·.gather s.sig.fids) (fun _ => rfl) rfl i
theorem Team.fibre?_gather (t : Team) (L : List Nat) (i : Nat) :
    (t.gather L).fibre? i = (t.fibre? i).map (fun f => if i ∈ L then f.atCollective else f) := by
  unfold Team.fibre? Team.gather
  rw [List.find?_map]
  have : ((fun f : Fibre => f.fid == i) ∘ fun f => if f.fid ∈ L then f.atCollective else f) = fun f => f.fid == i := by
    funext f
    by_cases h : f.fid ∈ L <;> simp [h]
  rw [this]
  cases h : t.fibres.find? (fun f => f.fid == i) with
  | none => rfl
  | some f =>
    have : f.fid = i := by simpa using List.find?_some h
    simp [this]
/-- A lane looked up after the gathering. -/
theorem State.fibre?_reach (s : State) (l : Lane) :
    s.reach.fibre? l = if l ∈ s.sigLanes then (s.fibre? l).map Fibre.atCollective else s.fibre? l := by
  rw [State.reach_eq]
  unfold State.fibre?
  rw [State.team?_modTeam _ _ _ (by intro _; rfl)]
  simp only [mem_sigLanes]
  by_cases ht : l.tid = s.sig.tid
  · simp only [ht, true_and, if_true]
    cases s.team? s.sig.tid with
    | none => simp
    | some t => by_cases hf : l.fid ∈ s.sig.fids <;> simp [Team.fibre?_gather, hf]
  · simp [ht]
theorem State.fibre_eq_getD (s : State) (l : Lane) : s.fibre l = (s.fibre? l).getD { fid := l.fid } := by
  unfold State.fibre State.fibre? State.team Team.fibre
  cases s.team? l.tid <;> simp [Team.fibre?]
theorem State.fibre_reach_of_not_mem {s : State} {l : Lane} (h : l ∉ s.sigLanes) : s.reach.fibre l = s.fibre l := by
  rw [State.fibre_eq_getD, State.fibre_eq_getD, State.fibre?_reach, if_neg h]
theorem State.fibre_reach_of_mem {s : State} {l : Lane} (h : l ∈ s.sigLanes) (he : (s.fibre? l).isSome = true) :
    s.reach.fibre l = (s.fibre l).atCollective := by
  apply State.fibre_eq
  rw [State.fibre?_reach, if_pos h, State.fibre?_of_isSome s l he, Option.map_some]
theorem State.fibre_reach_or (s : State) (l : Lane) : s.reach.fibre l = s.fibre l ∨ s.reach.fibre l = (s.fibre l).atCollective := by
  by_cases h : l ∈ s.sigLanes
  · cases he : s.fibre? l with
    | none => left; rw [State.fibre_eq_getD, State.fibre_eq_getD, State.fibre?_reach, if_pos h, he, Option.map_none]
    | some f => exact .inr (State.fibre_reach_of_mem h (by simp [he]))
  · exact .inl (State.fibre_reach_of_not_mem h)

/-- What a lane reads is as before the gathering. -/
@[simp] theorem State.readName_reach (s : State) (l : Lane) (pos : Pos) (off : Nat) (r : RegName) :
    s.reach.readName l pos off r = s.readName l pos off r := by
  have hteam : (s.reach.team l.tid).scalars = (s.team l.tid).scalars ∧ (s.reach.team l.tid).scalarPend = (s.team l.tid).scalarPend := by
    rw [State.team_reach]
    split <;> exact ⟨rfl, rfl⟩
  obtain ⟨hscalars, hpend⟩ := hteam
  have hforeign : (s.reach.team l.tid).foreign s.now l.fid r = (s.team l.tid).foreign s.now l.fid r := by
    cases r <;> simp [Team.foreign, hpend]
  have hstored : ∀ f : Fibre, (s.reach.team l.tid).stored f r = (s.team l.tid).stored f r := by
    intro f
    cases r <;> simp [Team.stored, hscalars]
  have hnow : s.reach.now = s.now := by rw [State.reach_eq]; rfl
  have hfree : s.reach.freeCtr = s.freeCtr := by rw [State.reach_eq]; rfl
  unfold State.readName
  simp only [hforeign, hstored, hnow, hfree]
  rcases State.fibre_reach_or s l with h | h
  · rw [h]
  · rw [h]; rfl
@[simp] theorem State.readReg_reach (s : State) (l : Lane) (pos : Pos) (fld : Field) : s.reach.readReg l pos fld = s.readReg l pos fld :=
  State.readName_reach s l pos 0 _
@[simp] theorem State.readPair_reach (s : State) (l : Lane) (pos : Pos) (fld : Field) : s.reach.readPair l pos fld = s.readPair l pos fld := by
  simp [State.readPair, State.readOff]
@[simp] theorem State.readPred_reach (s : State) (l : Lane) (pos : Pos) (n : Nat) : s.reach.readPred l pos n = s.readPred l pos n := by
  simp [State.readPred]
@[simp] theorem State.guard_reach (s : State) (h : Head) (l : Lane) : s.reach.guard h l = s.guard h l := by
  simp [State.guard]

/-! Which band a signature's lanes have made whole. -/

theorem mem_dedup (i : Nat) (l : List Nat) : i ∈ dedup l ↔ i ∈ l := by
  induction l with
  | nil => simp [dedup]
  | cons a r ih =>
    simp only [dedup, List.contains_iff_mem]
    split
    · rename_i h
      by_cases hi : i = a
      · simp [hi, h]
      · simp [hi, ih]
    · simp [ih]
theorem dedup_constant {b : Nat} {l : List Nat} (hne : l ≠ []) (h : ∀ i ∈ l, i = b) : dedup l = [b] := by
  induction l with
  | nil => exact absurd rfl hne
  | cons a r ih =>
    obtain rfl : a = b := h a (by simp)
    by_cases hr : r = []
    · subst hr; rfl
    · simp [dedup, ih hr (fun i hi => h i (by simp [hi]))]
/-- A signature in one band executes there, once the band is whole at the address of its first lane (R44). -/
theorem collective_ofBand {s : State} {h : Head} {b : Nat} (hne : s.sig.fids ≠ []) (hb : ∀ i ∈ s.sig.fids, i / 32 = b)
    (g : State → List Lane → State → Lane → LaneRes) : ∃ i ∈ s.sig.fids, collective h g s = .next
      (if (s.reach.team s.sig.tid).bandAt b (s.fibre ⟨s.sig.tid, i⟩).pc then s.reach.runBand h b (g s.reach) else s.reach) := by
  have bands : s.sigBands = [b] := dedup_constant (by simpa using hne) (by simpa [bandOf] using hb)
  cases hfind : s.sig.fids.find? (fun i => bandOf i = b) with
  | none =>
    obtain ⟨i, hi⟩ := List.exists_mem_of_ne_nil _ hne
    exact absurd (show bandOf i = b from hb i hi) (by simpa using List.find?_eq_none.mp hfind i hi)
  | some i =>
    refine ⟨i, List.mem_of_find?_eq_some hfind, ?_⟩
    simp only [collective, bands, List.foldl_cons, List.foldl_nil, hfind]

theorem Team.mem_enrolled (t : Team) (b i : Nat) : i ∈ t.enrolled b ↔ ∃ f ∈ t.fibres, f.fid = i ∧ i / 32 = b ∧ f.parked = false := by
  simp only [Team.enrolled, mem_orderByLane, List.mem_map, List.mem_filter, Bool.and_eq_true, decide_eq_true_eq, Bool.not_eq_true']
  exact ⟨fun ⟨f, ⟨hf, hb, hp⟩, hi⟩ => ⟨f, hf, hi, hi ▸ hb, hp⟩, fun ⟨f, hf, hi, hb, hp⟩ => ⟨f, ⟨hf, hi ▸ hb, hp⟩, hi⟩⟩

/-- A fibre of the band that is neither in Wait nor gathered where the signature is keeps the band from being whole. -/
theorem State.reach_not_whole {s : State} {b i : Nat} (hi : i ∈ s.sig.fids)
    (hf : ∃ f ∈ (s.team s.sig.tid).fibres, f.fid / 32 = b ∧ f.wait = none ∧ f.fid ∉ s.sig.fids ∧
      ((s.fibre ⟨s.sig.tid, f.fid⟩).gathered = false ∨
        ∀ i ∈ s.sig.fids, (s.fibre ⟨s.sig.tid, f.fid⟩).pc ≠ (s.fibre ⟨s.sig.tid, i⟩).pc)) :
    (s.reach.team s.sig.tid).bandAt b (s.fibre ⟨s.sig.tid, i⟩).pc = false := by
  obtain ⟨f, hf, hfb, hfw, hfs, hmiss⟩ := hf
  have stays : (s.reach.team s.sig.tid).fibre f.fid = s.fibre ⟨s.sig.tid, f.fid⟩ :=
    State.fibre_reach_of_not_mem (l := ⟨s.sig.tid, f.fid⟩) (by simp [mem_sigLanes, hfs])
  have enrolled : f.fid ∈ (s.reach.team s.sig.tid).enrolled b := by
    rw [Team.mem_enrolled, State.team_reach, if_pos rfl]
    exact ⟨f, List.mem_map.mpr ⟨f, hf, by simp [hfs]⟩, rfl, hfb, by simp [Fibre.parked, hfw]⟩
  rw [Team.bandAt, Bool.eq_false_iff, Ne, List.all_eq_true]
  intro whole
  have met := whole _ enrolled
  rw [stays, Bool.and_eq_true, decide_eq_true_eq] at met
  rcases hmiss with hg | hp
  · rw [hg] at met; exact absurd met.1 (by simp)
  · exact hp i hi met.2

theorem State.reach_bare (s : State) : s.reach.teams.map (fun x => { x with fibres := [] }) = s.teams.map (fun x => { x with fibres := [] }) := by
  rw [State.reach_eq]
  simp only [State.modTeam, List.map_map]
  apply List.map_congr_left
  intro x _
  by_cases h : x.tid = s.sig.tid <;> simp [h, Team.gather]
theorem State.reach_rest (s : State) : { s.reach with teams := [] } = { s with teams := [] } := by rw [State.reach_eq]; rfl
theorem State.Issued.present {s : State} (hi : s.Issued) {l : Lane} (hl : l ∈ s.sigLanes) : (s.fibre? l).isSome = true := by
  obtain ⟨tid, hfid⟩ := (mem_sigLanes s l).mp hl
  have := hi.2.1 _ hfid
  rwa [← tid] at this

/-- A collective that its band has not all reached gathers the lanes of the signature and does nothing else (R44). -/
theorem collective_gathers {s : State} {h : Head} {b : Nat} (hb : ∀ i ∈ s.sig.fids, i / 32 = b)
    (hf : ∃ f ∈ (s.team s.sig.tid).fibres, f.fid / 32 = b ∧ f.wait = none ∧ f.fid ∉ s.sig.fids ∧
      ((s.fibre ⟨s.sig.tid, f.fid⟩).gathered = false ∨
        ∀ i ∈ s.sig.fids, (s.fibre ⟨s.sig.tid, f.fid⟩).pc ≠ (s.fibre ⟨s.sig.tid, i⟩).pc))
    (g : State → List Lane → State → Lane → LaneRes) : collective h g s = .next s.reach := by
  by_cases hne : s.sig.fids = []
  · simp [collective, State.sigBands, hne, dedup]
  · obtain ⟨i, hi, e⟩ := collective_ofBand hne hb g
    rw [e, State.reach_not_whole hi hf]
    rfl

/-- Settles O33: whatever the collective, its lanes are gathered. -/
theorem collectiveWaitsForItsBand : Obligations.CollectiveWaitsForItsBand := by
  unfold Obligations.CollectiveWaitsForItsBand
  intro s h m b issued hb hf i hi
  have gathers := fun g => collective_gathers (h := h) hb hf g
  have answers : exec i s = .next s.reach := by
    fin_cases hi
    all_goals exact gathers _
  refine ⟨_, answers, fun l hl => ?_, fun l hl => ?_, s.reach_bare, s.reach_rest⟩
  · rw [State.fibre?_reach, if_pos hl, State.fibre?_of_isSome s l (issued.present hl)]
    rfl
  · rw [State.fibre?_reach, if_neg hl]

end Sys2Proof.Machine
end

section
/-! PROOFS. What a collective leaves of a band that is whole (R44, R158): each contributing lane's registers, and every participant gone on. -/

namespace Sys2Proof.Machine

theorem Team.gather_outline (t : Team) (L : List Nat) : (t.gather L).outline = t.outline := rfl
theorem teamsAfter_reach (s : State) (sc : List Word → List Word) (fl : List FlagPend) :
    teamsAfter s.sig.tid sc fl s.reach.teams = teamsAfter s.sig.tid sc fl s.teams := by
  rw [State.reach_eq]
  simp only [teamsAfter, State.modTeam, List.map_map]
  apply List.map_congr_left
  intro x _
  by_cases h : x.tid = s.sig.tid
  · simp only [Function.comp, h, if_true, Team.gather_tid]
    rfl
  · simp [h]
theorem put_atCollective (f : Fibre) (r : RegName) (v : Word) : f.atCollective.put r v = (f.put r v).atCollective := by
  cases r with
  | pred i => by_cases h : i = 0 <;> simp [Fibre.put, Fibre.atCollective, h]
  | _ => rfl
theorem onFibre_atCollective (w : LaneWrite) (f : Fibre) : w.onFibre f.atCollective = (w.onFibre f).atCollective := by
  have regs : ∀ (rs : List (RegName × Word)) (f : Fibre), rs.foldl (fun f p => f.put p.1 p.2) f.atCollective =
      (rs.foldl (fun f p => f.put p.1 p.2) f).atCollective := by
    intro rs
    induction rs with
    | nil => exact fun _ => rfl
    | cons p r ih => intro f; rw [List.foldl_cons, List.foldl_cons, put_atCollective, ih]
  unfold LaneWrite.onFibre
  rw [regs]
  cases w.last <;> rfl
/-- Going on ends the gathering. -/
theorem movedTo_atCollective (f : Fibre) (pc : Dword) (now : Nat) (st : BitVec 4) : f.atCollective.movedTo pc now st = f.movedTo pc now st := rfl

/-- Effects that agree on the guarded lanes are one. -/
theorem LaneEffect.congr {s t : State} {ls : List Lane} {g : Lane → Bool} {st : BitVec 4} {n : Nat} {w w' : Lane → LaneWrite} {pc : Lane → Dword}
    (he : LaneEffect s t ls g st n w pc) (h : ∀ l ∈ ls, g l = true → w l = w' l) : LaneEffect s t ls g st n w' pc where
  written := fun l hl hg => h l hl hg ▸ he.written l hl hg
  passed := he.passed
  others := he.others
  teams := by
    have scalars : ∀ c : List Word, (ls.filter g).foldl (fun c l => (w l).onScalars c) c = (ls.filter g).foldl (fun c l => (w' l).onScalars c) c := by
      intro c
      apply List.foldl_ext
      intro c l hl
      rw [h l (List.mem_filter.mp hl).1 (List.mem_filter.mp hl).2]
    have flags : (ls.filter g).flatMap (fun l => (w l).flags) = (ls.filter g).flatMap (fun l => (w' l).flags) := by
      apply List.flatMap_congr
      intro l hl
      rw [h l (List.mem_filter.mp hl).1 (List.mem_filter.mp hl).2]
    rw [he.teams, flags]
    simp only [scalars]
  cores := he.cores
  rest := he.rest

theorem mem_bandLanes {s : State} {b : Nat} {l : Lane} :
    l ∈ s.bandLanes b ↔ l.tid = s.sig.tid ∧ l.fid ∈ (s.team s.sig.tid).enrolled b := by
  obtain ⟨t, f⟩ := l
  simp only [State.bandLanes, List.mem_map, Lane.mk.injEq]
  exact ⟨fun ⟨i, hi, ht, hf⟩ => ⟨ht.symm, hf ▸ hi⟩, fun ⟨ht, hf⟩ => ⟨f, hf, ht.symm, rfl⟩⟩
theorem State.isSome_of_mem_fibres {s : State} {T : Nat} {f : Fibre} (h : f ∈ (s.team T).fibres) : (s.fibre? ⟨T, f.fid⟩).isSome = true := by
  unfold State.fibre?
  cases ht : s.team? T with
  | none => simp [State.team, ht] at h
  | some t =>
    rw [State.team, ht, Option.getD_some] at h
    simp only [Option.bind_some, Team.fibre?, List.find?_isSome]
    exact ⟨f, h, by simp⟩
theorem State.mem_fibres_of_isSome {s : State} {l : Lane} (h : (s.fibre? l).isSome = true) :
    s.fibre l ∈ (s.team l.tid).fibres ∧ (s.fibre l).fid = l.fid := by
  have e := State.fibre?_of_isSome s l h
  rw [State.fibre?, State.team?_of_fibre? h, Option.bind_some] at e
  exact ⟨List.mem_of_find?_eq_some e, by simpa using List.find?_some e⟩

theorem State.bandLanes_present {s : State} {b : Nat} {l : Lane} (hl : l ∈ s.bandLanes b) : (s.fibre? l).isSome = true := by
  obtain ⟨tid, hf⟩ := mem_bandLanes.mp hl
  obtain ⟨f, hf, hid, -, -⟩ := (Team.mem_enrolled _ _ _).mp hf
  have := State.isSome_of_mem_fibres hf
  rwa [hid, ← tid] at this
theorem State.bandLanes_band {s : State} {b : Nat} {l : Lane} (hl : l ∈ s.bandLanes b) : l.tid = s.sig.tid ∧ l.fid / 32 = b := by
  obtain ⟨tid, hf⟩ := mem_bandLanes.mp hl
  obtain ⟨-, -, -, hb, -⟩ := (Team.mem_enrolled _ _ _).mp hf
  exact ⟨tid, hb⟩
/-- Lanes of a band are told apart by their lane numbers. -/
theorem State.bandLanes_eq_of_num {s : State} {b : Nat} {k l : Lane} (hk : k ∈ s.bandLanes b) (hl : l ∈ s.bandLanes b) (h : k.fid % 32 = l.fid % 32) : k = l := by
  obtain ⟨ktid, kb⟩ := State.bandLanes_band hk
  obtain ⟨ltid, lb⟩ := State.bandLanes_band hl
  obtain ⟨kt, kf⟩ := k
  obtain ⟨lt, lf⟩ := l
  simp only [Lane.mk.injEq] at *
  exact ⟨ktid.trans ltid.symm, by omega⟩
theorem State.bandLanes_fibre_reach {s : State} {b : Nat} {l : Lane} (hl : l ∈ s.bandLanes b) (w : LaneWrite) (pc : Dword) (st : BitVec 4) :
    (w.onFibre (s.reach.fibre l)).movedTo pc s.now st = (w.onFibre (s.fibre l)).movedTo pc s.now st := by
  by_cases h : l ∈ s.sigLanes
  · rw [State.fibre_reach_of_mem h (State.bandLanes_present hl), onFibre_atCollective, movedTo_atCollective]
  · rw [State.fibre_reach_of_not_mem h]

section
variable {s : State} {b : Nat} (hw : s.Whole b)
include hw

/-- In a whole band a number names one fibre. -/
theorem State.Whole.unique {f : Fibre} (hf : f ∈ (s.team s.sig.tid).fibres) (hb : f.fid / 32 = b) : s.fibre ⟨s.sig.tid, f.fid⟩ = f := by
  obtain ⟨hm, hid⟩ := State.mem_fibres_of_isSome (State.isSome_of_mem_fibres hf)
  dsimp only at hm hid
  refine List.inj_on_of_nodup_map hw.once (List.mem_filter.mpr ⟨hm, ?_⟩) (List.mem_filter.mpr ⟨hf, ?_⟩) hid
  · simp [hid, hb]
  · simp [hb]
theorem State.Whole.enrolled_reach : (s.reach.team s.sig.tid).enrolled b = (s.team s.sig.tid).enrolled b := by
  rw [State.team_reach, if_pos rfl]
  unfold Team.enrolled Team.gather
  rw [List.filter_map, List.map_map]
  have fids : (Fibre.fid ∘ fun f : Fibre => if f.fid ∈ s.sig.fids then f.atCollective else f) = Fibre.fid := by
    funext f
    by_cases h : f.fid ∈ s.sig.fids <;> simp [h]
  rw [fids]
  congr 2
  apply List.filter_congr
  intro f hf
  by_cases h : f.fid ∈ s.sig.fids
  · obtain ⟨hb, hwait⟩ := hw.band _ h
    rw [hw.unique hf hb] at hwait
    simp [h, Fibre.parked, Fibre.atCollective, hwait]
  · simp [h]
theorem State.Whole.sigLanes_subset {l : Lane} (hl : l ∈ s.sigLanes) : l ∈ s.bandLanes b := by
  obtain ⟨tid, hfid⟩ := (mem_sigLanes s l).mp hl
  obtain ⟨hb, hwait⟩ := hw.band _ hfid
  obtain ⟨hm, hid⟩ := State.mem_fibres_of_isSome (hw.issued.present hl)
  rw [← tid] at hwait
  refine mem_bandLanes.mpr ⟨tid, (Team.mem_enrolled _ _ _).mpr ⟨s.fibre l, tid ▸ hm, hid, hb, ?_⟩⟩
  rw [Fibre.parked, show s.fibre l = s.fibre ⟨l.tid, l.fid⟩ from rfl, hwait]
theorem State.Whole.nodup : (s.bandLanes b).Nodup := by
  refine List.Nodup.map (fun i j e => by simpa using e) (nodup_orderByLane _ ?_)
  refine hw.once.sublist (List.Sublist.map _ ?_)
  have : (s.team s.sig.tid).fibres.filter (fun f => bandOf f.fid = b && !f.parked) =
      ((s.team s.sig.tid).fibres.filter (fun f => f.fid / 32 = b)).filter (fun f => !f.parked) := by
    rw [List.filter_filter]
    apply List.filter_congr
    exact fun f _ => Bool.and_comm _ _
  rw [this]
  exact List.filter_sublist
/-- Every enrolled fibre of the band has reached the collective where the signature is. -/
theorem State.Whole.bandAt {i : Nat} (hi : i ∈ s.sig.fids) : (s.reach.team s.sig.tid).bandAt b (s.fibre ⟨s.sig.tid, i⟩).pc = true := by
  rw [Team.bandAt, hw.enrolled_reach, List.all_eq_true]
  intro j hj
  have hl : (⟨s.sig.tid, j⟩ : Lane) ∈ s.bandLanes b := mem_bandLanes.mpr ⟨rfl, hj⟩
  obtain ⟨-, hg, hpc⟩ := hw.met _ hl
  have reached : (s.reach.team s.sig.tid).fibre j = s.reach.fibre ⟨s.sig.tid, j⟩ := rfl
  rw [reached]
  by_cases hs : (⟨s.sig.tid, j⟩ : Lane) ∈ s.sigLanes
  · rw [State.fibre_reach_of_mem hs (State.bandLanes_present hl)]
    simp [Fibre.atCollective, hpc i hi]
  · rw [State.fibre_reach_of_not_mem hs]
    have : (s.fibre ⟨s.sig.tid, j⟩).gathered = true := hg.resolve_right fun h => hs ((mem_sigLanes _ _).mpr ⟨rfl, h⟩)
    simp [this, hpc i hi]
/-- The shared law of the collectives: where each contributing lane's body writes w and nothing else, a whole band has the effect that
LaneEffect states. -/
theorem collective_effect (h : Head) (body : State → List Lane → State → Lane → State) (w : Lane → LaneWrite)
    (hbody : ∀ (t : State) (l : Lane), Wrote t (body s.reach ((s.bandLanes b).filter (s.guard h)) t l) l (s.team s.sig.tid).coreKey 0 (w l)) :
    ∃ t, collective h (fun s0 c t l => .done (body s0 c t l)) s = .next t ∧
      LaneEffect s t (s.bandLanes b) (s.guard h) h.stall 0 w (fun l => nextPc (s.fibre l).pc) := by
  obtain ⟨i, hi, e⟩ := collective_ofBand hw.some (fun i hi => (hw.band i hi).1) (h := h) (fun s0 c t l => .done (body s0 c t l))
  rw [e, hw.bandAt hi, if_pos rfl]
  refine ⟨_, rfl, ?_⟩
  have sig : s.reach.sig = s.sig := by rw [State.reach_eq]; rfl
  have now : s.reach.now = s.now := by rw [State.reach_eq]; rfl
  have level : ∀ l, (s.reach.fibre l).level = (s.fibre l).level ∧ (s.reach.fibre l).pc = (s.fibre l).pc := fun l => by
    rcases State.fibre_reach_or s l with h | h <;> rw [h] <;> exact ⟨rfl, rfl⟩
  have run : s.reach.runBand h b (fun c t l => .done (body s.reach c t l)) = (s.bandLanes b).foldl (fun t l => t.finish l h
      (if s.guard h l then .goto (nextPc (t.fibre l).pc) (body s.reach ((s.bandLanes b).filter (s.guard h)) t l) else .done t)) s.reach := by
    have guard : s.reach.guard h = s.guard h := by funext l; simp
    unfold State.runBand
    rw [sig, hw.enrolled_reach, guard]
    apply List.foldl_ext
    intro t l _
    split
    · exact finish_done_eq _ _ _ _
    · rfl
  obtain ⟨written, passed, others, teams, cores, rest⟩ := foldl_lanes h (s.guard h)
    (fun t l => body s.reach ((s.bandLanes b).filter (s.guard h)) t l) (fun t l => nextPc (t.fibre l).pc) (fun l => nextPc (s.fibre l).pc)
    (s.team s.sig.tid).coreKey 0 s.sig.tid (fun _ => w) s.reach
    (fun t l hp hs => by rw [State.fibre_eq_getD t, hs, ← State.fibre_eq_getD, (level l).2])
    (fun t l _ _ _ _ _ _ _ _ _ => hbody t l) (s.bandLanes b) s.reach 0 hw.nodup (fun l hl => (State.bandLanes_band hl).1)
    (fun l hl => by
      rw [State.fibre?_reach]
      have := State.bandLanes_present hl
      split
      · rwa [Option.isSome_map]
      · exact this)
    (fun _ _ => rfl)
    (fun l hl hlv => by
      have steps := hw.steps l hl ((level l).1 ▸ hlv)
      rw [State.team_reach, (State.bandLanes_band hl).1, if_pos rfl]
      exact steps)
    rfl rfl (fun _ => rfl) (fun _ => rfl) (fun c => (coreDrawn_zero _ _ c).symm)
  rw [← run] at written passed others teams cores rest
  refine ⟨fun l hl hg => ?_, fun l hl hg => ?_, fun l hl => ?_, ?_, fun c => ?_, ?_⟩
  · obtain ⟨p, hp⟩ := written l hl hg
    rw [now, State.bandLanes_fibre_reach hl] at hp
    exact ⟨p, hp⟩
  · rw [passed l hl hg, Fibre.moved, now, (level l).2]
    exact congrArg some (State.bandLanes_fibre_reach hl { } _ _)
  · rw [others l hl, State.fibre?_reach, if_neg fun h => hl (hw.sigLanes_subset h)]
  · rw [teams, teamsAfter_reach]
    rfl
  · rw [cores c, State.reach_eq]
    rfl
  · rw [rest, State.reach_eq]
    rfl
/-- A collective that writes a register in every contributing lane. -/
theorem collective_writesReg (h : Head) (v : State → List Lane → Lane → Word) :
    ∃ t, collective h (fun s0 c t l => .done (t.writeReg l h.dst (v s0 c l) none)) s = .next t ∧
      LaneEffect s t (s.bandLanes b) (s.guard h) h.stall 0
        (fun l => { regs := [(regName h.dst.file h.dst.idx, v s.reach ((s.bandLanes b).filter (s.guard h)) l)] })
        (fun l => nextPc (s.fibre l).pc) :=
  collective_effect hw h (fun s0 c t l => t.writeReg l h.dst (v s0 c l) none) _ fun t l => writeName_wrote t l _ _ _ none
/-- A collective that writes a predicate in every contributing lane. -/
theorem collective_writesPred (h : Head) (v : State → List Lane → Lane → Bool) :
    ∃ t, collective h (fun s0 c t l => .done (t.writePred l h.dst.pred (v s0 c l) none)) s = .next t ∧
      LaneEffect s t (s.bandLanes b) (s.guard h) h.stall 0
        (fun l => predWrite h.dst.pred (v s.reach ((s.bandLanes b).filter (s.guard h)) l)) (fun l => nextPc (s.fibre l).pc) :=
  collective_effect hw h (fun s0 c t l => t.writePred l h.dst.pred (v s0 c l) none) _ fun t l => writePred_wrote t l _ _ _ none
end

end Sys2Proof.Machine
end

section
/-! PROOFS. The values of the collectives (R160 to R164): masks, combinations, shuffles and matches over a segment's contributing lanes. -/

namespace Sys2Proof.Machine

/-! Folds over lanes and words. -/

theorem foldl_add_eq_sum {α : Type} (f : α → Nat) (l : List α) (n : Nat) : l.foldl (fun a k => a + f k) n = n + (l.map f).sum := by
  induction l generalizing n with
  | nil => rfl
  | cons k r ih => rw [List.foldl_cons, ih, List.map_cons, List.sum_cons, Nat.add_assoc]
theorem laneMask_eq (ls : List Lane) : laneMask ls = BitVec.ofNat 32 (ls.map (fun k => 2 ^ (k.fid % 32))).sum := by
  unfold laneMask
  rw [foldl_add_eq_sum, Nat.zero_add]
  rfl
/-- What a fold leaves that keeps, of two values, one that R prefers to both. -/
theorem foldl_prefers {α : Type} (R : α → α → Prop) (f : α → α → α) (refl : ∀ a, R a a) (trans : ∀ a b c, R a b → R b c → R a c)
    (hf : ∀ a b, (f a b = a ∨ f a b = b) ∧ R (f a b) a ∧ R (f a b) b) (l : List α) (a : α) :
    (l.foldl f a = a ∨ l.foldl f a ∈ l) ∧ R (l.foldl f a) a ∧ ∀ v ∈ l, R (l.foldl f a) v := by
  induction l generalizing a with
  | nil => exact ⟨.inl rfl, refl a, by simp⟩
  | cons b r ih =>
    obtain ⟨which, ha, hb⟩ := hf a b
    obtain ⟨inside, first, rest⟩ := ih (f a b)
    rw [List.foldl_cons]
    refine ⟨?_, trans _ _ _ first ha, fun v hv => ?_⟩
    · rcases inside with e | e
      · rcases which with e' | e'
        · exact .inl (e.trans e')
        · exact .inr (by rw [e, e']; exact List.mem_cons_self)
      · exact .inr (List.mem_cons_of_mem _ e)
    · rcases List.mem_cons.mp hv with rfl | hv
      · exact trans _ _ _ first hb
      · exact rest v hv
theorem foldl_min_lane (ls : List Lane) : (ls ≠ [] → ∃ k ∈ ls, k.fid % 32 = ls.foldl (fun a k => min a k.num) 31) ∧
    ∀ k ∈ ls, ls.foldl (fun a k => min a k.num) 31 ≤ k.fid % 32 := by
  have e : ls.foldl (fun a k => min a k.num) 31 = (ls.map Lane.num).foldl min 31 := by rw [List.foldl_map]
  obtain ⟨inside, -, least⟩ := foldl_prefers (· ≤ ·) min (fun a => le_refl a) (fun _ _ _ => le_trans)
    (fun a b => ⟨min_choice a b, min_le_left a b, min_le_right a b⟩) (ls.map Lane.num) 31
  rw [e]
  have lower : ∀ k ∈ ls, (ls.map Lane.num).foldl min 31 ≤ k.fid % 32 := fun k hk => least _ (List.mem_map.mpr ⟨k, hk, rfl⟩)
  refine ⟨fun hne => ?_, lower⟩
  rcases inside with e | e
  · obtain ⟨k, hk⟩ := List.exists_mem_of_ne_nil ls hne
    have := lower k hk
    exact ⟨k, hk, by omega⟩
  · obtain ⟨k, hk, hn⟩ := List.mem_map.mp e
    exact ⟨k, hk, hn⟩

/-! Combinations (R162). -/

theorem readAs_n32 (v : Word) : readAs .n32 v.toNat = (v.toNat : Int) := by
  simp [readAs, signed, width, Nat.mod_eq_of_lt v.isLt]
theorem readAs_s32 (v : Word) : readAs .s32 v.toNat = v.toInt := by
  have := v.isLt
  simp only [readAs, signed, width, toSigned, BitVec.toInt, if_true, Nat.mod_eq_of_lt this]
  rw [if_neg (by decide)]
  split
  · rw [if_pos (by omega)]
  · rw [if_neg (by omega)]
    rfl
/-- The type of a combination, by its flag. -/
def combineType (natural : Bool) : IType := if natural then .n32 else .s32
theorem readAs_combineType (natural : Bool) (v : Word) :
    readAs (combineType natural) v.toNat = if natural then (v.toNat : Int) else v.toInt := by
  cases natural
  · exact readAs_s32 v
  · exact readAs_n32 v
theorem readAs_combineType_inj {natural : Bool} {a b : Word}
    (h : readAs (combineType natural) a.toNat = readAs (combineType natural) b.toNat) : a = b := by
  rw [readAs_combineType, readAs_combineType] at h
  cases natural
  · exact BitVec.eq_of_toInt_eq h
  · exact BitVec.eq_of_toNat_eq (by simpa using h)

theorem toNat_foldl_add (vs : List Word) (a : Word) : (vs.foldl (· + ·) a).toNat = (a.toNat + (vs.map (·.toNat)).sum) % 2 ^ 32 := by
  induction vs generalizing a with
  | nil => simp [Nat.mod_eq_of_lt a.isLt]
  | cons v r ih =>
    rw [List.foldl_cons, ih, List.map_cons, List.sum_cons, BitVec.toNat_add, Nat.mod_add_mod, Nat.add_assoc]
theorem getLsbD_foldl_and (vs : List Word) (a : Word) (i : Nat) :
    (vs.foldl (· &&& ·) a).getLsbD i = (a.getLsbD i && vs.all (·.getLsbD i)) := by
  induction vs generalizing a with
  | nil => simp
  | cons v r ih => rw [List.foldl_cons, ih, BitVec.getLsbD_and, List.all_cons, Bool.and_assoc]
theorem getLsbD_foldl_or (vs : List Word) (a : Word) (i : Nat) :
    (vs.foldl (· ||| ·) a).getLsbD i = (a.getLsbD i || vs.any (·.getLsbD i)) := by
  induction vs generalizing a with
  | nil => simp
  | cons v r ih => rw [List.foldl_cons, ih, BitVec.getLsbD_or, List.any_cons, Bool.or_assoc]
theorem getLsbD_foldl_xor (vs : List Word) (a : Word) (i : Nat) :
    (vs.foldl (· ^^^ ·) a).getLsbD i = (a.getLsbD i ^^ decide ((vs.filter (·.getLsbD i)).length % 2 = 1)) := by
  induction vs generalizing a with
  | nil => simp
  | cons v r ih =>
    rw [List.foldl_cons, ih, BitVec.getLsbD_xor, Bool.xor_assoc]
    congr 1
    cases h : v.getLsbD i
    · simp [h]
    · rw [List.filter_cons_of_pos (p := fun x : Word => x.getLsbD i) h, List.length_cons, Bool.true_xor, ← decide_not]
      congr 1
      exact propext (by omega)

theorem combine_add (ty : IType) : combine 0 ty = (· + ·) := rfl
theorem combine_and (ty : IType) : combine 3 ty = (· &&& ·) := rfl
theorem combine_or (ty : IType) : combine 4 ty = (· ||| ·) := rfl
theorem combine_xor (ty : IType) : combine 5 ty = (· ^^^ ·) := rfl
theorem combine_least (ty : IType) (a b : Word) : combine 1 ty a b = if readAs ty a.toNat ≤ readAs ty b.toNat then a else b := rfl
theorem combine_greatest (ty : IType) (a b : Word) : combine 2 ty a b = if readAs ty a.toNat ≤ readAs ty b.toNat then b else a := rfl
theorem combine_least_prefers (ty : IType) (a b : Word) : (combine 1 ty a b = a ∨ combine 1 ty a b = b) ∧
    readAs ty (combine 1 ty a b).toNat ≤ readAs ty a.toNat ∧ readAs ty (combine 1 ty a b).toNat ≤ readAs ty b.toNat := by
  rw [combine_least]
  split
  · exact ⟨.inl rfl, le_refl _, by assumption⟩
  · exact ⟨.inr rfl, by omega, le_refl _⟩
theorem combine_greatest_prefers (ty : IType) (a b : Word) : (combine 2 ty a b = a ∨ combine 2 ty a b = b) ∧
    readAs ty a.toNat ≤ readAs ty (combine 2 ty a b).toNat ∧ readAs ty b.toNat ≤ readAs ty (combine 2 ty a b).toNat := by
  rw [combine_greatest]
  split
  · exact ⟨.inr rfl, by assumption, le_refl _⟩
  · exact ⟨.inl rfl, le_refl _, by omega⟩
theorem identityOf_least (natural : Bool) : identityOf 1 (combineType natural) = if natural then 0xFFFFFFFF else 0x7FFFFFFF := by
  cases natural <;> rfl
theorem identityOf_greatest (natural : Bool) : identityOf 2 (combineType natural) = if natural then 0 else 0x80000000 := by
  cases natural <;> rfl
theorem readAs_identityOf_least (natural : Bool) :
    readAs (combineType natural) (identityOf 1 (combineType natural)).toNat = maxV (combineType natural) := by cases natural <;> rfl
theorem readAs_identityOf_greatest (natural : Bool) :
    readAs (combineType natural) (identityOf 2 (combineType natural)).toNat = minV (combineType natural) := by cases natural <;> rfl

/-- Folding `combine` from its identity gives what R162 says of the values. -/
theorem combined_foldl (op : Nat) (hop : op < 6) (natural : Bool) (vs : List Word) :
    Combined op natural vs (vs.foldl (combine op (combineType natural)) (identityOf op (combineType natural))) := by
  have least := foldl_prefers (fun a b => readAs (combineType natural) a.toNat ≤ readAs (combineType natural) b.toNat)
    (combine 1 (combineType natural)) (fun _ => le_refl _) (fun _ _ _ => le_trans) (combine_least_prefers _) vs (identityOf 1 (combineType natural))
  have greatest := foldl_prefers (fun a b => readAs (combineType natural) b.toNat ≤ readAs (combineType natural) a.toNat)
    (combine 2 (combineType natural)) (fun _ => le_refl _) (fun _ _ _ h g => le_trans g h) (combine_greatest_prefers _) vs
    (identityOf 2 (combineType natural))
  simp only [readAs_identityOf_least, readAs_identityOf_greatest] at least greatest
  match op, hop with
  | 0, _ => simpa [combine_add, Combined, identityOf] using toNat_foldl_add vs 0
  | 1, _ =>
    obtain ⟨inside, -, lower⟩ := least
    refine ⟨fun e => by subst e; exact identityOf_least natural, fun hne => ⟨?_, fun v hv => ?_⟩⟩
    · rcases inside with e | e
      · obtain ⟨v, hv⟩ := List.exists_mem_of_ne_nil vs hne
        have hle := lower v hv
        rw [e, readAs_identityOf_least] at hle
        have : v = identityOf 1 (combineType natural) := readAs_combineType_inj (le_antisymm
          (by rw [readAs_identityOf_least]; exact (readAs_spec _ _).2.1) (by rw [readAs_identityOf_least]; exact hle))
        rw [e, ← this]; exact hv
      · exact e
    · simpa only [readAs_combineType] using lower v hv
  | 2, _ =>
    obtain ⟨inside, -, upper⟩ := greatest
    refine ⟨fun e => by subst e; exact identityOf_greatest natural, fun hne => ⟨?_, fun v hv => ?_⟩⟩
    · rcases inside with e | e
      · obtain ⟨v, hv⟩ := List.exists_mem_of_ne_nil vs hne
        have hle := upper v hv
        rw [e, readAs_identityOf_greatest] at hle
        have : v = identityOf 2 (combineType natural) := readAs_combineType_inj (le_antisymm
          (by rw [readAs_identityOf_greatest]; exact hle) (by rw [readAs_identityOf_greatest]; exact (readAs_spec _ _).1))
        rw [e, ← this]; exact hv
      · exact e
    · simpa only [readAs_combineType] using upper v hv
  | 3, _ =>
    intro i hi
    rw [combine_and, getLsbD_foldl_and]
    have ones : (identityOf 3 (combineType natural)).getLsbD i = true := by
      rw [show identityOf 3 (combineType natural) = BitVec.allOnes 32 from rfl, BitVec.getLsbD_allOnes]
      simpa using hi
    rw [ones, Bool.true_and]
  | 4, _ =>
    intro i _
    rw [combine_or, getLsbD_foldl_or]
    simp [identityOf]
  | 5, _ =>
    intro i _
    rw [combine_xor, getLsbD_foldl_xor]
    simp [identityOf]
/-- BREDUCE and BSCAN combine the first sources of their lanes (R162). -/
theorem combineAll_combined (s : State) (h : Head) (m : SyncMod) (hop : m.subop.toNat < 6) (ls : List Lane) :
    Combined m.subop.toNat (m.optype.getLsbD 0) (ls.map (fun k => s.readReg k .sa h.sa)) (combineAll s h m ls) := by
  have e : combineAll s h m ls = (ls.map (fun k => s.readReg k .sa h.sa)).foldl (combine m.subop.toNat (combineType (m.optype.getLsbD 0)))
      (identityOf m.subop.toNat (combineType (m.optype.getLsbD 0))) := by
    rw [List.foldl_map]
    rfl
  rw [e]
  exact combined_foldl _ hop _ _

/-! Shuffles (R161). -/

/-- The place that a lane reads in its segment, where it reads one. -/
def shflSource (mode r u w : Nat) : Nat :=
  match mode with
  | 0 => u % w
  | 1 => (r + 32 - u) % w
  | 2 => (r + u) % w
  | _ => r ^^^ (u % w)
/-- Out of its segment. -/
def shflOut (mode r u w : Nat) : Prop := (mode = 1 ∧ r < u) ∨ (mode = 2 ∧ w - 1 < r + u)
/-- A lane reads at its place; where that is out of the segment, at the place that it wraps to, which is the same number. -/
theorem shflPlace_eq {mode r u k : Nat} (hm : mode < 4) (hk : k ≤ 4) (hr : r < 32 / 2 ^ k) (hu : u < 32) :
    (shflOut mode r u (32 / 2 ^ k) ∧ shflPlace mode r u (32 / 2 ^ k) = none ∧
      shflWrap mode r u (32 / 2 ^ k) = shflSource mode r u (32 / 2 ^ k)) ∨
    (¬ shflOut mode r u (32 / 2 ^ k) ∧ shflPlace mode r u (32 / 2 ^ k) = some (shflSource mode r u (32 / 2 ^ k))) := by
  have split : ∀ w : Nat, w ∈ [32, 16, 8, 4, 2] → r < w → (shflOut mode r u w ∧ shflPlace mode r u w = none ∧
      shflWrap mode r u w = shflSource mode r u w) ∨ (¬ shflOut mode r u w ∧ shflPlace mode r u w = some (shflSource mode r u w)) := by
    intro w hw hr
    have div : w ∣ 32 := by fin_cases hw <;> decide
    obtain ⟨q, hq⟩ := div
    match mode, hm with
    | 0, _ => exact .inr ⟨by simp [shflOut], rfl⟩
    | 1, _ =>
      by_cases h : r < u
      · refine .inl ⟨.inl ⟨rfl, h⟩, by simp [shflPlace, h], ?_⟩
        have : r + 32 * w - u = r + 32 - u + w * (32 - q) := by
          rw [Nat.mul_sub, ← hq]
          omega
        simp [shflWrap, shflSource, this]
      · refine .inr ⟨by simp [shflOut, h], ?_⟩
        have : r + 32 - u = r - u + w * q := by omega
        simp [shflPlace, h, shflSource, this, Nat.mod_eq_of_lt (show r - u < w by omega)]
    | 2, _ =>
      by_cases h : w - 1 < r + u
      · exact .inl ⟨.inr ⟨rfl, h⟩, by simp [shflPlace, h], rfl⟩
      · exact .inr ⟨by simp [shflOut, h], by simp [shflPlace, h, shflSource, Nat.mod_eq_of_lt (show r + u < w by omega)]⟩
    | 3, _ => exact .inr ⟨by simp [shflOut], rfl⟩
  exact split _ (by interval_cases k <;> simp) hr

/-! The contributing lanes of a segment. -/

/-- The lanes of a band's collective that contribute. -/
def State.contributors (s : State) (h : Head) (b : Nat) : List Lane := (s.bandLanes b).filter (s.guard h)
theorem State.mem_contributors {s : State} {h : Head} {b : Nat} {k : Lane} : k ∈ s.contributors h b ↔ k ∈ s.bandLanes b ∧ s.guard h k = true :=
  List.mem_filter
theorem segment_contributors (s : State) (h : Head) (m : SyncMod) (b : Nat) (l : Lane) : segment m (s.contributors h b) l =
    (s.bandLanes b).filter (fun k => s.guard h k && decide (k.fid % 32 / (32 / 2 ^ (m.imm24.toNat / 2 ^ 8 % 2 ^ 3)) =
      l.fid % 32 / (32 / 2 ^ (m.imm24.toNat / 2 ^ 8 % 2 ^ 3)))) := by
  unfold segment State.contributors
  rw [List.filter_filter]
  exact List.filter_congr fun k _ => Bool.and_comm _ _
theorem self_mem_segment {m : SyncMod} {c : List Lane} {l : Lane} (h : l ∈ c) : l ∈ segment m c l :=
  List.mem_filter.mpr ⟨h, by simp⟩

theorem matchKey_reach (s : State) (h : Head) (m : SyncMod) : matchKey s.reach h m = matchKey s h m := by
  funext k
  simp [matchKey]
theorem combineAll_reach (s : State) (h : Head) (m : SyncMod) (ls : List Lane) : combineAll s.reach h m ls = combineAll s h m ls := by
  simp [combineAll]
theorem shflValue_reach (s : State) (h : Head) (m : SyncMod) (c : List Lane) (l : Lane) : shflValue s.reach h m c l = shflValue s h m c l := by
  simp [shflValue]

/-- What a lane finds at a place of its segment: the first source there, where a contributing lane has it (R161). -/
def State.shflFrom (s : State) (h : Head) (m : SyncMod) (c : List Lane) (l : Lane) (place : Nat) : Word :=
  match c.find? (fun k => k.num = l.num - l.num % segWidth m + place) with
  | some k => s.readReg k .sa h.sa
  | none => if m.imm24.getLsbD 11 then s.readReg l .sc h.sc else s.readReg l .sa h.sa
/-- The distance of a shuffle (R161). -/
def State.shflBy (s : State) (h : Head) (m : SyncMod) (l : Lane) : Nat :=
  if m.optype.getLsbD 0 then m.imm24.toNat % 32 else (s.readReg l .sb h.sb).toNat % 32
theorem shflValue_eq (s : State) (h : Head) (m : SyncMod) (c : List Lane) (l : Lane) : shflValue s h m c l =
    match shflPlace m.subop.toNat (l.num % segWidth m) (s.shflBy h m l) (segWidth m) with
    | some t => s.shflFrom h m c l t
    | none => if m.imm24.getLsbD 11 then s.readReg l .sc h.sc
      else s.shflFrom h m c l (shflWrap m.subop.toNat (l.num % segWidth m) (s.shflBy h m l) (segWidth m)) := rfl
section
variable {s : State} {h : Head} {m : SyncMod} {b : Nat} (hs : m.subop.toNat < 4) (hm : m.imm24.toNat / 2 ^ 8 % 2 ^ 3 ≤ 4)
include hs hm

/-- Out of its segment under FILL a lane has its third source; else it has what stands at its place (R161). -/
theorem shflValue_cases (c : List Lane) (l : Lane) :
    (shflOut m.subop.toNat (l.num % segWidth m) (s.shflBy h m l) (segWidth m) → m.imm24.getLsbD 11 = true →
      shflValue s h m c l = s.readReg l .sc h.sc) ∧
    (¬ (shflOut m.subop.toNat (l.num % segWidth m) (s.shflBy h m l) (segWidth m) ∧ m.imm24.getLsbD 11 = true) →
      shflValue s h m c l = s.shflFrom h m c l (shflSource m.subop.toNat (l.num % segWidth m) (s.shflBy h m l) (segWidth m))) := by
  have by32 : s.shflBy h m l < 32 := by
    unfold State.shflBy
    split <;> exact Nat.mod_lt _ (by decide)
  have within : l.num % segWidth m < segWidth m :=
    Nat.mod_lt _ (Nat.div_pos ((Nat.pow_le_pow_right (by decide) hm).trans (by decide)) (by positivity))
  rw [shflValue_eq]
  rcases shflPlace_eq hs hm within by32 with ⟨out, place, wrap⟩ | ⟨inside, place⟩
  · rw [show shflPlace m.subop.toNat (l.num % segWidth m) (s.shflBy h m l) (segWidth m) = none from place]
    refine ⟨fun _ fill => by rw [fill]; rfl, fun nofill => ?_⟩
    dsimp only
    rw [if_neg fun fill => nofill ⟨out, fill⟩]
    exact congrArg _ wrap
  · rw [show shflPlace m.subop.toNat (l.num % segWidth m) (s.shflBy h m l) (segWidth m) = some _ from place]
    exact ⟨fun out => absurd out inside, fun _ => rfl⟩
end
/-- The place holds the source of the contributing lane whose number it is. -/
theorem State.shflFrom_found {s : State} {h : Head} {m : SyncMod} {b : Nat} {k l : Lane} {place : Nat} (hk : k ∈ s.bandLanes b)
    (hg : s.guard h k = true) (hn : k.fid % 32 = l.fid % 32 - l.fid % 32 % segWidth m + place) :
    s.shflFrom h m (s.contributors h b) l place = s.readReg k .sa h.sa := by
  unfold State.shflFrom
  cases hf : (s.contributors h b).find? (fun k => k.num = l.num - l.num % segWidth m + place) with
  | none => exact absurd (show k.num = l.num - l.num % segWidth m + place from hn) (by simpa using List.find?_eq_none.mp hf k (State.mem_contributors.mpr ⟨hk, hg⟩))
  | some j =>
    have hj := (State.mem_contributors.mp (List.mem_of_find?_eq_some hf)).1
    have hjn : j.num = l.num - l.num % segWidth m + place := by simpa using List.find?_some hf
    rw [State.bandLanes_eq_of_num hj hk (Eq.trans hjn hn.symm)]
theorem State.shflFrom_missing {s : State} {h : Head} {m : SyncMod} {b : Nat} {l : Lane} {place : Nat}
    (hn : ∀ k ∈ s.bandLanes b, s.guard h k = true → k.fid % 32 ≠ l.fid % 32 - l.fid % 32 % segWidth m + place) :
    s.shflFrom h m (s.contributors h b) l place = if m.imm24.getLsbD 11 then s.readReg l .sc h.sc else s.readReg l .sa h.sa := by
  unfold State.shflFrom
  rw [List.find?_eq_none.mpr]
  intro k hk
  obtain ⟨hk, hg⟩ := State.mem_contributors.mp hk
  have : k.num ≠ l.num - l.num % segWidth m + place := hn k hk hg
  simpa using this

/-! Each collective over a band that is whole. -/

/-- An instruction executes once for a band: each contributing lane is left w, and every participant goes on. -/
def State.BandGives (s : State) (h : Head) (b : Nat) (i : Instr) (w : Lane → LaneWrite) : Prop :=
  ∃ t, exec i s = .next t ∧ LaneEffect s t (s.bandLanes b) (s.guard h) h.stall 0 w (fun l => nextPc (s.fibre l).pc)
/-- One destination register written. -/
def dstWrite (fld : Field) (v : Word) : LaneWrite := { regs := [(regName fld.file fld.idx, v)] }
theorem State.BandGives.congr {s : State} {h : Head} {b : Nat} {i : Instr} {w w' : Lane → LaneWrite} (hg : s.BandGives h b i w)
    (e : ∀ l ∈ s.contributors h b, w l = w' l) : s.BandGives h b i w' := by
  obtain ⟨t, ht, he⟩ := hg
  exact ⟨t, ht, he.congr fun l hl hg => e l (State.mem_contributors.mpr ⟨hl, hg⟩)⟩

section
variable {s : State} {b : Nat} (hw : s.Whole b) (h : Head) (m : SyncMod)
include hw

theorem voteAny_gives : s.BandGives h b (.voteAny h m) (fun l =>
    predWrite h.dst.pred ((segment m (s.contributors h b) l).any (fun k => s.readPred k .sa h.sa.pred))) :=
  State.BandGives.congr (collective_writesPred hw h fun s0 c l => (segment m c l).any (fun k => s0.readPred k .sa h.sa.pred))
    fun l _ => by simp [State.contributors]
theorem voteAll_gives : s.BandGives h b (.voteAll h m) (fun l =>
    predWrite h.dst.pred ((segment m (s.contributors h b) l).all (fun k => s.readPred k .sa h.sa.pred))) :=
  State.BandGives.congr (collective_writesPred hw h fun s0 c l => (segment m c l).all (fun k => s0.readPred k .sa h.sa.pred))
    fun l _ => by simp [State.contributors]
theorem voteBallot_gives : s.BandGives h b (.voteBallot h m) (fun l =>
    dstWrite h.dst (laneMask ((segment m (s.contributors h b) l).filter (fun k => s.readPred k .sa h.sa.pred)))) :=
  State.BandGives.congr (collective_writesReg hw h fun s0 c l => laneMask ((segment m c l).filter (fun k => s0.readPred k .sa h.sa.pred)))
    fun l _ => by simp [State.contributors, dstWrite]
theorem voteCount_gives : s.BandGives h b (.voteCount h m) (fun l =>
    dstWrite h.dst (BitVec.ofNat 32 ((segment m (s.contributors h b) l).filter (fun k => s.readPred k .sa h.sa.pred)).length)) :=
  State.BandGives.congr (collective_writesReg hw h fun s0 c l =>
    BitVec.ofNat 32 ((segment m c l).filter (fun k => s0.readPred k .sa h.sa.pred)).length) fun l _ => by simp [State.contributors, dstWrite]
theorem shfl_gives : s.BandGives h b (.shfl h m) (fun l => dstWrite h.dst (shflValue s h m (s.contributors h b) l)) :=
  State.BandGives.congr (collective_writesReg hw h fun s0 c l => shflValue s0 h m c l)
    fun l _ => by simp only [shflValue_reach]; rfl
theorem breduce_gives : s.BandGives h b (.breduce h m) (fun l => dstWrite h.dst (combineAll s h m (segment m (s.contributors h b) l))) :=
  State.BandGives.congr (collective_writesReg hw h fun s0 c l => combineAll s0 h m (segment m c l))
    fun l _ => by simp only [combineAll_reach]; rfl
theorem bscan_gives : s.BandGives h b (.bscan h m) (fun l => dstWrite h.dst (combineAll s h m ((segment m (s.contributors h b) l).filter (fun k =>
    decide (k.num < l.num) || (decide (k.num = l.num) && !m.optype.getLsbD 1))))) :=
  State.BandGives.congr (collective_writesReg hw h fun s0 c l => combineAll s0 h m ((segment m c l).filter (fun k =>
    decide (k.num < l.num) || (decide (k.num = l.num) && !m.optype.getLsbD 1)))) fun l _ => by simp only [combineAll_reach]; rfl
/-- The lanes of a lane's segment whose key is its own. -/
def State.sameKey (s : State) (h : Head) (m : SyncMod) (b : Nat) (l : Lane) : List Lane :=
  (segment m (s.contributors h b) l).filter (fun k => matchKey s h m k = matchKey s h m l)
theorem matchLead_gives : s.BandGives h b (.matchLead h m) (fun l => dstWrite h.dst (BitVec.ofNat 32
    ((s.sameKey h m b l).foldl (fun a k => min a k.num) 31 + 32 * (s.sameKey h m b l).length +
      2048 * ((s.sameKey h m b l).filter (fun k => decide (k.num < l.num))).length))) :=
  State.BandGives.congr (collective_writesReg hw h fun s0 c l =>
    let same := (segment m c l).filter (fun k => matchKey s0 h m k = matchKey s0 h m l)
    BitVec.ofNat 32 (same.foldl (fun a k => min a k.num) 31 + 32 * same.length + 2048 * (same.filter (fun k => decide (k.num < l.num))).length))
    fun l _ => by simp only [matchKey_reach]; rfl
theorem matchUni_gives : s.BandGives h b (.matchUni h m) (fun l =>
    predWrite h.dst.pred ((segment m (s.contributors h b) l).all (fun k => matchKey s h m k = matchKey s h m l))) :=
  State.BandGives.congr (collective_writesPred hw h fun s0 c l => (segment m c l).all (fun k => matchKey s0 h m k = matchKey s0 h m l))
    fun l _ => by simp only [matchKey_reach]; rfl
theorem bsync_gives : s.BandGives h b (.bsync h m) (fun _ => { }) :=
  collective_effect hw h (fun _ _ t _ => t) _ fun t l => Wrote.refl t l _
theorem bsyncMask_gives : s.BandGives h b (.bsyncMask h m) (fun _ => dstWrite h.dst (laneMask (s.bandLanes b))) := by
  refine State.BandGives.congr (collective_writesReg hw h fun s0 _ l =>
    laneMask (((s0.team l.tid).enrolled (bandOf l.fid)).map (fun i => ⟨l.tid, i⟩))) fun l hl => ?_
  obtain ⟨tid, band⟩ := State.bandLanes_band (State.mem_contributors.mp hl).1
  rw [show bandOf l.fid = b from band, tid, hw.enrolled_reach]
  rfl
end

theorem subop_eq_iff (v : BitVec 4) : (v = 1 ↔ v.toNat = 1) ∧ (v = 2 ↔ v.toNat = 2) := by
  constructor <;> exact ⟨fun h => by rw [h]; rfl, fun h => BitVec.eq_of_toNat_eq h⟩

/-- Settles O34: each collective is the lemma of its name; the combinations are combined_foldl, the shuffle shflValue_cases. -/
theorem collectiveResults : Obligations.CollectiveResults := by
  unfold Obligations.CollectiveResults
  intro s h m b hw hm
  simp only [← segment_contributors, ← laneMask_eq]
  refine ⟨voteAny_gives hw h m, voteAll_gives hw h m, voteBallot_gives hw h m, voteCount_gives hw h m,
    fun hs => ⟨_, shfl_gives hw h m, fun l hl _ => ?shuffle⟩,
    fun hop => ⟨_, breduce_gives hw h m, fun l _ _ => combineAll_combined s h m hop _⟩,
    fun hop => ⟨_, bscan_gives hw h m, fun l _ _ => ?scan⟩,
    ⟨⟨_, matchLead_gives hw h m, fun l hl hg => ?lead⟩, matchUni_gives hw h m⟩, bsync_gives hw h m, bsyncMask_gives hw h m⟩
  case shuffle =>
    obtain ⟨filled, taken⟩ := shflValue_cases (s := s) (h := h) hs hm (s.contributors h b) l
    rw [(subop_eq_iff _).1, (subop_eq_iff _).2]
    refine ⟨fun out => filled out.1 out.2, fun inside k hk hg hn => ?_, fun inside hn => ?_⟩
    · rw [taken inside]
      exact State.shflFrom_found hk hg hn
    · rw [taken inside]
      exact State.shflFrom_missing hn
  case scan =>
    have upTo : ∀ k : Lane, (decide (k.num < l.num) || (decide (k.num = l.num) && !m.optype.getLsbD 1)) =
        if m.optype.getLsbD 1 then decide (k.num < l.num) else decide (k.num ≤ l.num) := by
      intro k
      cases m.optype.getLsbD 1 <;> simp [le_iff_lt_or_eq]
    simp only [upTo]
    exact combineAll_combined s h m hop _
  case lead =>
    obtain ⟨reached, least⟩ := foldl_min_lane (s.sameKey h m b l)
    exact ⟨reached (List.ne_nil_of_mem (List.mem_filter.mpr ⟨self_mem_segment (State.mem_contributors.mpr ⟨hl, hg⟩), by simp⟩)), least⟩

end Sys2Proof.Machine
end

section
/-! PROOFS. A step runs what the slot decodes to (R39, R109, R126), and every instruction answers a next state (log 30). -/

namespace Sys2Proof.Machine

/-- Every arm of exec is `next` of some state; that of DOT4 in each of its two forms (log 30). -/
theorem exec_next (i : Instr) (s : State) : ∃ t, exec i s = .next t := by
  cases i with
  | dot4 h m =>
    rw [exec_dot4, execDot4]
    split <;> exact ⟨_, rfl⟩
  | _ => exact ⟨_, rfl⟩

/-- A fold whose every step leaves the state as it is. -/
theorem foldl_idle {α β : Type} {f : α → β → α} {l : List β} {a : α} (h : ∀ j ∈ l, f a j = a) : l.foldl f a = a := by
  induction l with
  | nil => rfl
  | cons j r ih =>
    rw [List.foldl_cons, h j (by simp)]
    exact ih fun k hk => h k (by simp [hk])
/-- An issue whose fibres meet no fault before the instruction's own runs the instruction for all of them (R126). -/
theorem State.issueSlot_clean {run : Instr → Doing} {s : State} {tid : Nat} {fids : List Nat} {w : BitVec 96}
    {fault : Fibre → Option (Cause.Code × Dword)} {i : Instr} (hne : fids ≠ []) (hc : ∀ j ∈ fids, fault ((s.team tid).fibre j) = none)
    (hd : decode w = .ok i) : s.issueSlot run tid fids w fault =
      run i { (s.prepare tid fids).meterIssue (readHead w) w tid fids with sig := { tid := tid, fids := fids } } := by
  have good : fids.filter (fun i => (fault ((s.team tid).fibre i)).isNone) = fids :=
    List.filter_eq_self.mpr fun j hj => by rw [hc j hj]; rfl
  unfold State.issueSlot
  dsimp only
  rw [good, hd, foldl_idle fun j hj => by rw [hc j hj]]
  simp [hne]
theorem State.useLine_teams (s : State) (t : Team) (level : Level) (pc : Dword) (line : List Byte) : (s.useLine t level pc line).teams = s.teams := by
  unfold State.useLine
  split
  · split
    · rfl
    · exact State.cacheLine_teams _ _ _ _ _
  · exact (State.MovesBytes.touchCode s t level pc).teams
/-- A signature whose line its core holds runs the instruction of its slot, and notes the second slot of a pair that the line forms (R109). -/
theorem State.issue_runs {s : State} {tid : Nat} {fids : List Nat} {line : List Byte} {i : Instr} {v : State}
    (hl : s.issueLine (s.team tid) ((s.team tid).fibre (fids.headD 0)).level ((s.team tid).fibre (fids.headD 0)).pc = some line)
    (hne : fids ≠ []) (hc : ∀ j ∈ fids, issueFault s.now ((s.team tid).dbgctl.getLsbD 0) ((s.team tid).fibre j) line = none)
    (hd : decode (rawSlot line ((s.team tid).fibre (fids.headD 0)).pc) = .ok i)
    (hv : exec i { ((s.useLine (s.team tid) ((s.team tid).fibre (fids.headD 0)).level ((s.team tid).fibre (fids.headD 0)).pc line).prepare tid
        fids).meterIssue (readHead (rawSlot line ((s.team tid).fibre (fids.headD 0)).pc)) (rawSlot line ((s.team tid).fibre (fids.headD 0)).pc)
        tid fids with sig := { tid := tid, fids := fids } } = .next v) :
    s.issue exec tid fids = .next { v with sig := { v.sig with
      second := secondOf s (s.team tid).coreKey line ((s.team tid).fibre (fids.headD 0)).pc } } := by
  unfold State.issue
  dsimp only
  rw [hl]
  dsimp only
  rw [State.issueSlot_clean hne ?_ hd, hv]
  intro j hj
  rw [show (s.useLine _ _ _ line).team tid = s.team tid from by unfold State.team State.team?; rw [State.useLine_teams]]
  exact hc j hj

/-- Settles O2: an issue is State.issue_runs, the second slot of a pair State.issueSlot_clean; that each answers a next state is exec_next,
which for a machine step that is not enabled is the model's choice (log 30). -/
theorem stepRunsDecoded : Obligations.StepRunsDecoded := by
  unfold Obligations.StepRunsDecoded
  refine ⟨fun s s0 tid fids line i hsec hmove hl hne hc hd => ?issue, fun s w fold pc i hsec hne hc hd => ?second,
    fun s i rest hsec hag hm => ?event, exec_next⟩
  case issue =>
    obtain ⟨v, hv⟩ := exec_next i _
    have now : s0.now = s.now := by rcases hmove with ⟨rest, -, rfl, -⟩ | ⟨-, rfl, -⟩ <;> rfl
    rw [← now] at hc
    have hi := State.issue_runs hl hne hc hd hv
    refine ⟨v, hv, ?_⟩
    rcases hmove with ⟨rest, hag, rfl, hmay⟩ | ⟨hag, rfl, hact, c, hpick, rfl, rfl⟩
    · rw [step, State.nextMove, hsec, hag]
      dsimp only [State.move]
      rw [if_pos hmay, hi]
      rfl
    · rw [step, State.nextMove, hsec, hag]
      dsimp only [State.auto]
      rw [hact, hpick]
      dsimp only
      rw [hi]
      rfl
  case second =>
    obtain ⟨v, hv⟩ := exec_next i _
    refine ⟨v, hv, ?_⟩
    rw [step, State.nextMove, hsec]
    dsimp only [State.issueSecond]
    rw [if_neg (by simpa using hne), State.issueSlot_clean hne hc hd, hv]
    rfl
  case event =>
    obtain ⟨v, hv⟩ := exec_next i { s with agenda := rest }
    refine ⟨v, hv, ?_⟩
    rw [step, State.nextMove, hsec, hag]
    dsimp only [State.move]
    rw [if_pos hm, hv]
    rfl

end Sys2Proof.Machine
end

section
/-! PROOFS. The save that a fold begins (R350). -/

namespace Sys2Proof.Machine

/-- Partition 0 folds, and its one team, which sleeps, is still resident. -/
def asleepFolding : State := { teams := [asleepTeam], parts := [(0, { Part.fresh 0 with phase := .folding })] }
/-- JACKET_SAVE of a resident team whose partition folds takes the team from its core, its fibres all having folded (R350): here its frame
cannot be reached, and it is abandoned. -/
theorem asleepFolding_save : ∃ u, exec (.jacketSave asleepTeam.tid) asleepFolding = .next u ∧
    (u.team? asleepTeam.tid).map (·.res) = some .abandoned := ⟨_, rfl, rfl⟩

/-- Refutes O50: JACKET_SAVE does not leave every resident team as it is; one whose fibres have all folded it saves. -/
theorem not_teamStepResults : ¬ Obligations.TeamStepResults := by
  unfold Obligations.TeamStepResults
  intro h
  obtain ⟨-, -, -, -, saves, -⟩ := h
  obtain ⟨-, stays⟩ := saves asleepFolding asleepTeam rfl
  obtain ⟨u, hu, same⟩ := stays rfl
  obtain ⟨v, hv, left⟩ := asleepFolding_save
  cases hu.symm.trans hv
  rw [same] at left
  exact absurd left (by decide)

end Sys2Proof.Machine
end

section
/-! PROOFS. Launches, front-end packets, spawn bins and continuations (R52 to R62, R270, R275, R316, R382, R383). -/

namespace Sys2Proof.Machine

/-! Launches (R56 to R58). -/

section
variable {s : State} {x : Launch} (hx : s.launches.find? (fun y => y.id = x.id) = some x)
include hx

theorem execLaunchRecordCheck_rejects {code : Nat} (hq : x.stage = .queued) (hh : s.isHead x = true) (hv : s.served x = true)
    (hc : s.recCheck x.part x.agentLevel x.rec_ = some code) : execLaunchRecordCheck x.id s = .next (s.rejectLaunch x code) := by
  unfold execLaunchRecordCheck
  simp [hx, hq, hh, hv, hc]
theorem execLaunchRecordCheck_holds (hq : x.stage = .queued) (hh : s.isHead x = true) (hv : s.served x = true)
    (hc : s.recCheck x.part x.agentLevel x.rec_ = none) :
    execLaunchRecordCheck x.id s = .next (s.modLaunch x.id (fun y => { y with stage := .held })) := by
  unfold execLaunchRecordCheck
  simp [hx, hq, hh, hv, hc]
theorem execLaunchAccept_accepts (hs : x.stage = .held) (hh : s.isHead x = true)
    (hp : ∀ p ∈ s.pres x.part x.agentLevel (readRec x.rec_), p = .met) (hslot : x.slot.isSome = true) :
    execLaunchAccept x.id s = .next (s.modLaunch x.id (fun y => { y with stage := .accepted })) := by
  have met : (s.pres x.part x.agentLevel (readRec x.rec_)).all (· = .met) = true := by simpa using hp
  unfold execLaunchAccept
  simp [hx, hs, hh, met, hslot]
theorem execLaunchPreFault_rejects (hs : x.stage = .held) (hf : .fault ∈ s.pres x.part x.agentLevel (readRec x.rec_))
    (hv : s.served x = true) : execLaunchPreFault x.id s = .next (s.rejectLaunch x 8) := by
  unfold execLaunchPreFault
  simp [hx, hs, hf, hv]
theorem execLaunchComplete_drops (hr : x.ranOut (readRec x.rec_) = true) (hl : s.launchReleased x (readRec x.rec_).top = true)
    (hc : (readRec x.rec_).donectr = 0) (hf : (readRec x.rec_).donefut = 0) : execLaunchComplete x.id s = .next (s.dropLaunch x.id) := by
  have accepted : x.stage = .accepted := by
    simp only [Launch.ranOut, Bool.and_eq_true, decide_eq_true_eq] at hr
    exact hr.1.1
  have act : x.act = none := by simp [Launch.act, accepted, hc, hf]
  unfold execLaunchComplete
  simp [hx, hr, hl, State.launchOperate, act]
end

/-! Placement (R52, R304, R383). -/

theorem State.acquire_teams (s : State) (c : Nat) (pt : Point) : (s.acquire c pt).teams = s.teams := by cases pt <;> rfl
theorem State.acquire_launches (s : State) (c : Nat) (pt : Point) : (s.acquire c pt).launches = s.launches := by cases pt <;> rfl
theorem State.acquire_seq (s : State) (c : Nat) (pt : Point) : (s.acquire c pt).seq = s.seq := by cases pt <;> rfl
theorem State.acquire_now (s : State) (c : Nat) (pt : Point) : (s.acquire c pt).now = s.now := by cases pt <;> rfl
theorem State.meter_teams (s : State) (p m n : Nat) : (s.meter p m n).teams = s.teams := by unfold State.meter; split <;> rfl
theorem State.meter_launches (s : State) (p m n : Nat) : (s.meter p m n).launches = s.launches := by unfold State.meter; split <;> rfl
theorem State.linkGang_length (s : State) (ids : List Nat) : (s.linkGang ids).teams.length = s.teams.length := by simp [State.linkGang]

/-- A launch found after a change of it that keeps its number. -/
theorem State.find?_modLaunch {s : State} {id : Nat} {x : Launch} {g : Launch → Launch} (hg : ∀ y, y.id = id → (g y).id = id)
    (h : s.launches.find? (fun y => y.id = id) = some x) : (s.modLaunch id g).launches.find? (fun y => y.id = id) = some (g x) := by
  unfold State.modLaunch
  rw [List.find?_map]
  have key : ((fun y : Launch => decide (y.id = id)) ∘ fun y => if y.id = id then g y else y) = fun y => decide (y.id = id) := by
    funext y
    by_cases e : y.id = id <;> simp [e, hg]
  have hid : x.id = id := by simpa using List.find?_some h
  rw [key, h, Option.map_some, if_pos hid]
/-- One team placed: it is the machine's last, and its launch counts it (R57). -/
theorem State.placeTeam_placed {s : State} {id : Nat} {x : Launch} (r : Rec) (core : Nat) (hx : s.launches.find? (fun y => y.id = id) = some x) :
    (∃ t, (s.placeTeam id r core).teams = s.teams ++ [t]) ∧ ∃ y, (s.placeTeam id r core).launches.find? (fun y => y.id = id) = some y ∧
      y.begun = x.begun + 1 ∧ y.tids = x.tids ++ [s.seq] := by
  have hid : x.id = id := by simpa using List.find?_some hx
  unfold State.placeTeam
  simp only [hx]
  rw [State.meter_teams, State.meter_launches]
  refine ⟨⟨s.startTeam x r x.begun core, ?_⟩, ?_⟩
  · show (s.acquire _ _).teams ++ _ = _
    rw [State.acquire_teams]
  · refine ⟨_, State.find?_modLaunch (fun _ _ => hid) (x := x) ?_, rfl, rfl⟩
    show (s.acquire _ _).launches.find? _ = _
    rw [State.acquire_launches]
    exact hx
/-- One core-bound team goes to a core with room, in the cluster that the rotation gives. -/
theorem execTeamPlace_places {s : State} {x : Launch} {c core : Nat} (hx : s.launches.find? (fun y => y.id = x.id) = some x)
    (hc : s.nextCluster x (readRec x.rec_) = some c) (hp : x.pendingTeam (readRec x.rec_) = true) (ht : s.turnOf x = true)
    (hm : s.mayPlace x.part = true) (hg : (readRec x.rec_).gang = 1) (hcore : core / 4 = c)
    (hr : 1 ≤ s.room (384 * (x.part / 96) + core) (readRec x.rec_)) : ∃ u, execTeamPlace x.id [core] s = .next u ∧
      u.teams.length = s.teams.length + 1 ∧ (u.partAt x.part).lastCluster = some c ∧
      ∃ y, u.launches.find? (fun y => y.id = x.id) = some y ∧ y.begun = x.begun + 1 ∧ y.tids = x.tids ++ [s.seq] := by
  obtain ⟨⟨t, hteams⟩, y, hy, hbegun, htids⟩ := State.placeTeam_placed (readRec x.rec_) core hx
  have room : 1 ≤ s.room (Config.coresPerPkg * (x.part / 96) + core) (readRec x.rec_) := hr
  unfold execTeamPlace
  simp only [hx, hc]
  refine ⟨_, rfl, ?_⟩
  rw [if_neg (by simp [hp, ht, hm, hg, hcore, room])]
  dsimp only [List.foldl_cons, List.foldl_nil]
  rw [State.partAt_modPart, if_pos rfl, State.modPart_teams, State.modPart_launches]
  refine ⟨?_, rfl, _, State.find?_modLaunch (fun _ e => e) (x := y) ?_, hbegun, htids⟩
  · show (ite _ _ _ : State).teams.length = _
    split <;> simp [State.linkGang_length, hteams]
  · split <;> exact hy

/-! Front-end packets (R275, R316). -/

section
variable {s : State} {pkg part queue : Nat} {y : Slot} {r : Ready}

theorem State.withPacket_unbound {p : Nat} (k : Slot → Ready → State) (h : s.slotAt p queue = none) : s.withPacket p queue k = s := by
  unfold State.withPacket
  rw [h]
theorem State.withPacket_ready {p : Nat} (k : Slot → Ready → State) (hs : s.slotAt p queue = some y) (hl : s.look p y.agent y.hdr = .ready r)
    (hc : s.chosen p = some (queue + 2)) : s.withPacket p queue k = k y r := by
  unfold State.withPacket
  simp [hs, hl, hc]

/-- A packet that a front end has taken from a slot: its STATE written, its queue the last taken. -/
def State.packetTaken (t : State) (p level queue : Nat) (r : Ready) (state : Nat) (c : BitVec 7) : State :=
  (t.finishSlot p r state c 0).taken p level (queue + 2)

variable (hs : s.slotAt (96 * pkg + part) queue = some y) (hl : s.look (96 * pkg + part) y.agent y.hdr = .ready r)
  (hc : s.chosen (96 * pkg + part) = some (queue + 2))
include hs hl hc

theorem execFrontEndPacketTake_rejects (hk : blockWord r.pkt 0 % 16 ≠ 9) (hb : launchPacketBad r.pkt = true) :
    execFrontEndPacketTake pkg part queue s = .next (s.packetTaken (96 * pkg + part) y.level queue r 3 Cause.paramBad) := by
  unfold execFrontEndPacketTake
  dsimp only
  rw [State.withPacket_ready _ hs hl hc, if_neg hk, if_pos hb]
  rfl
theorem execFrontEndPacketTake_launches (hb : launchPacketBad r.pkt = false) {ia : Nat}
    (ha : s.agentAccess (96 * pkg + part) y.agent [.read] (blockDword r.pkt 8) = .ok (some ia))
    (hr : s.recCheck (96 * pkg + part) y.agent (s.bytesAt (agentCore pkg) (s.space (96 * pkg + part) ia) ia .package 128) = none) :
    execFrontEndPacketTake pkg part queue s = .next ((s.addLaunch
      { id := 0, part := 96 * pkg + part, level := y.agent, slot := some queue, va := some (blockDword r.pkt 8), stage := .held
        rec_ := s.bytesAt (agentCore pkg) (s.space (96 * pkg + part) ia) ia .package 128
        prio := (readRec (s.bytesAt (agentCore pkg) (s.space (96 * pkg + part) ia) ia .package 128)).prio }).packetTaken
        (96 * pkg + part) y.level queue r 1 0) := by
  have launch : blockWord r.pkt 0 = 8 := by
    by_contra h
    simp [launchPacketBad, h] at hb
  unfold execFrontEndPacketTake
  dsimp only
  rw [State.withPacket_ready _ hs hl hc, if_neg (by rw [launch]; decide), if_neg (by simp [hb]), ha]
  dsimp only
  rw [hr]
  rfl
theorem execSpawnPacketTake_rejects (core : Nat) (hk : blockWord r.pkt 0 % 16 = 9) (hb : spawnPacketBad r.pkt = true) :
    execSpawnPacketTake pkg part queue core s = .next (s.packetTaken (96 * pkg + part) y.level queue r 3 Cause.paramBad) := by
  unfold execSpawnPacketTake
  dsimp only
  rw [State.withPacket_ready _ hs hl hc, if_neg (by simp [hk]), if_pos hb]
  rfl
theorem execSpawnPacketTake_enters {core : Nat} {k : Core} (hk : blockWord r.pkt 0 % 16 = 9) (hb : spawnPacketBad r.pkt = false)
    (h1 : (s.partAt (96 * pkg + part)).cbase ≤ core / 4) (h2 : core / 4 ≤ (s.partAt (96 * pkg + part)).clim) (h3 : core < 384)
    (hi : (s.coreAt (384 * pkg + core)).intoBin s.now ⟨BitVec.ofNat 64 (blockDword r.pkt 8), bits (blockDword r.pkt 0x30) 4 0,
      bits (blockDword r.pkt 0x30) 14 5, pointOf (bits (blockDword r.pkt 0x30) 16 15), bits (blockDword r.pkt 0x30) 18 17, 96 * pkg + part⟩
      ((r.pkt.drop 0x10).take 32) = some k) : execSpawnPacketTake pkg part queue core s =
        .next ((s.modCore (384 * pkg + core) (fun _ => k)).packetTaken (96 * pkg + part) y.level queue r 1 0) := by
  have inside : core < Config.coresPerPkg := h3
  unfold execSpawnPacketTake
  dsimp only
  rw [State.withPacket_ready _ hs hl hc, if_neg (by simp [hk]), if_neg (by simp [hb]), if_neg (by simp [h1, h2, inside])]
  rw [show (s.coreAt (Config.coresPerPkg * pkg + core)).intoBin s.now _ _ = some k from hi]
  rfl
end

/-! Spawn bins (R60, R61) and continuations (R270). -/

theorem execSpawnBinTimeout_closes {s : State} {pkg core bin : Nat} (hr : ((s.coreAt (384 * pkg + core)).bins.getD bin { }).recs ≠ [])
    (ht : ((s.coreAt (384 * pkg + core)).bins.getD bin { }).opened + ((s.coreAt (384 * pkg + core)).bins.getD bin { }).limit ≤ s.now) :
    execSpawnBinTimeout pkg core bin s = .next (s.modCore (384 * pkg + core) (fun c =>
      { c with bins := c.bins.set bin { (s.coreAt (384 * pkg + core)).bins.getD bin { } with closed := true } })) := by
  have fires : (!((s.coreAt (384 * pkg + core)).bins.getD bin { }).recs.isEmpty && decide
      (((s.coreAt (384 * pkg + core)).bins.getD bin { }).opened + ((s.coreAt (384 * pkg + core)).bins.getD bin { }).limit ≤ s.now)) = true := by
    rw [decide_eq_true ht]
    simpa using hr
  show Host.Outcome.next (s.modCore (384 * pkg + core) _) = _
  unfold State.modCore
  dsimp only
  rw [if_pos fires]

/-- Fibre i of a spawned team: at the bin's entry, the argument bytes of record i in v0 to v7. -/
theorem spawnFibres_getElem? (key : SpawnKey) (now : Nat) {recs : List (List Byte)} {i : Nat} (h : i < recs.length) :
    ∃ f, (spawnFibres key now recs)[i]? = some f ∧ f.fid = i ∧ f.pc = key.entry ∧
      f.regs.take 8 = (List.range 8).map (fun j => BitVec.ofNat 32 (blockWord (recs.getD i []) (4 * j))) := by
  unfold spawnFibres
  rw [List.getElem?_map, List.getElem?_zipIdx, List.getElem?_eq_getElem h]
  refine ⟨_, rfl, Nat.zero_add i, rfl, ?_⟩
  rw [List.getD_eq_getElem _ _ h]
  exact List.take_left' (by simp)
theorem execSpawnTeamPlace_starts {s : State} {pkg core bin : Nat} {b : Bin} (hb : (s.coreAt (384 * pkg + core)).bins.getD bin { } = b)
    (hc : b.closed = true) (hr : b.recs ≠ []) (hp : (s.partAt b.key.part).phase = .running)
    (hf : s.restoreFirst (384 * pkg + core) b.key.prio = false) (hh : (s.coreAt (384 * pkg + core)).halted = false)
    (hfits : s.fits (384 * pkg + core) ⟨b.recs.length, b.recs.length * 16 * b.key.win, b.key.leaves, 0⟩ = true) :
    ∃ u t, execSpawnTeamPlace pkg core bin s = .next u ∧ u.teams = s.teams ++ [t] ∧ t.tid = s.seq ∧ t.core = core ∧ t.pkg = pkg ∧
      t.prio = b.key.prio ∧ t.leaves = b.key.leaves ∧ ∃ now, t.fibres = spawnFibres b.key now b.recs := by
  unfold execSpawnTeamPlace
  rw [show Config.coresPerPkg = 384 from rfl]
  dsimp only
  rw [hb, if_neg (by simp [hc, hr, hp, hf, hh, hfits])]
  refine ⟨_, _, rfl, congrArg (· ++ _) (State.acquire_teams _ _ _), ?_⟩
  exact ⟨State.acquire_seq _ _ _, rfl, rfl, rfl, rfl, _, rfl⟩
theorem execContinuationDeliver_enters {s : State} {d : Delivery} {c : Nat} {key : SpawnKey} {args : List Byte} {k : Core}
    (hd : s.deliveries.find? (fun x => x.id = d.id) = some d) (hw : d.waiting = some (c, key, args))
    (hi : (s.coreAt c).intoBin s.now key args = some k) : execContinuationDeliver d.id s =
      .next ({ s with deliveries := s.deliveries.filter (fun x => x.id ≠ d.id) }.modCore c (fun _ => k)) := by
  unfold execContinuationDeliver
  simp [hd, hw, hi]

/-- Settles O51: each clause is its machine step's own lemma above. -/
theorem launchStepResults : Obligations.LaunchStepResults := by
  unfold Obligations.LaunchStepResults
  refine ⟨?_, ?_, ?_, ?_, ?_, ?_, ?_, ?_⟩
  · intro s x hx hq hh hv
    exact ⟨fun _ hc => execLaunchRecordCheck_rejects hx hq hh hv hc, fun hc => ⟨_, execLaunchRecordCheck_holds hx hq hh hv hc, rfl⟩⟩
  · intro s x hx hs
    exact ⟨fun hh hp hslot => execLaunchAccept_accepts hx hs hh hp hslot, fun hf hv => execLaunchPreFault_rejects hx hs hf hv⟩
  · intro s x c core hx r hc hp ht hm hg hcore _ hr
    exact execTeamPlace_places hx hc hp ht hm hg hcore hr
  · intro s x hx r hr hl hc hf
    exact execLaunchComplete_drops hx hr hl hc hf
  · intro s pkg part queue h
    exact ⟨congrArg Host.Outcome.next (State.withPacket_unbound _ h), fun _ => congrArg Host.Outcome.next (State.withPacket_unbound _ h)⟩
  · intro s pkg part queue y r p hs hl hc fin word dword
    refine ⟨fun hk hb => execFrontEndPacketTake_rejects hs hl hc hk hb, ?_, fun hk hb core => execSpawnPacketTake_rejects hs hl hc core hk hb, ?_⟩
    · intro hb ia ha b hr
      exact execFrontEndPacketTake_launches hs hl hc hb ha hr
    · intro hk hb core k h1 h2 h3 w hi
      refine execSpawnPacketTake_enters hs hl hc hk hb h1 h2 h3 ?_
      rw [show bits (blockDword r.pkt 0x30) 4 0 = w % 2 ^ 5 from congrArg (· % 2 ^ 5) (Nat.div_one _)]
      exact hi
  · intro s pkg core bin ck b
    refine ⟨fun hr ht => execSpawnBinTimeout_closes hr ht, fun hc hr hp hf hh hfits => ?_⟩
    obtain ⟨u, t, hu, hteams, htid, hcore, hpkg, hprio, hleaves, now, hfibres⟩ := execSpawnTeamPlace_starts rfl hc hr hp hf hh hfits
    refine ⟨u, t, hu, hteams, htid, hcore, hpkg, hprio, hleaves, ?_, fun i hi => ?_⟩
    · rw [hfibres]
      simp [spawnFibres, b]
      rfl
    · rw [hfibres]
      exact spawnFibres_getElem? _ _ hi
  · intro s d c key args k hd hw hi
    exact execContinuationDeliver_enters hd hw hi

end Sys2Proof.Machine
end

section
/-! PROOFS. Instructions that change only their own fibres (R156, R157), and the forms of R173 and R179 that deliver a result. -/

namespace Sys2Proof.Machine

/-! One lane changed. -/

/-- u is t with one lane's fibre become f: nothing else of the machine changed. -/
structure State.Alters (t u : State) (l : Lane) (f : Fibre) : Prop where
  fibre : u.fibre? l = some f
  others : ∀ k, k ≠ l → u.fibre? k = t.fibre? k
  teams : u.teams.map (fun x => { x with fibres := [] }) = t.teams.map (fun x => { x with fibres := [] })
  rest : { u with teams := [] } = { t with teams := [] }

theorem State.modFibre_bare (t : State) (l : Lane) (g : Fibre → Fibre) :
    (t.modFibre l g).teams.map (fun x => { x with fibres := [] }) = t.teams.map (fun x => { x with fibres := [] }) := by
  simp only [State.modFibre, State.modTeam, List.map_map]
  apply List.map_congr_left
  intro x _
  by_cases h : x.tid = l.tid <;> simp [h, Team.modFibre]
theorem State.alters_modFibre {t : State} {l : Lane} {f : Fibre} {g : Fibre → Fibre} (hl : t.fibre? l = some f) (hg : ∀ x, (g x).fid = x.fid) :
    t.Alters (t.modFibre l g) l (g f) where
  fibre := by rw [State.fibre?_modFibre _ _ _ hg, if_pos rfl, hl, Option.map_some]
  others := fun k hk => by rw [State.fibre?_modFibre _ _ _ hg, if_neg hk]
  teams := State.modFibre_bare t l g
  rest := rfl
theorem State.Alters.trans {t u v : State} {l : Lane} {f g : Fibre} (h : t.Alters u l f) (k : u.Alters v l g) : t.Alters v l g :=
  ⟨k.fibre, fun i hi => (k.others i hi).trans (h.others i hi), k.teams.trans h.teams, k.rest.trans h.rest⟩
/-- What the team of a number has apart from its fibres stands in the teams without their fibres. -/
theorem State.team_dbgctl_of_bare {t u : State} (i : Nat)
    (h : u.teams.map (fun x => { x with fibres := [] }) = t.teams.map (fun x => { x with fibres := [] })) :
    (u.team i).dbgctl = (t.team i).dbgctl := by
  have bare : ∀ v : State, ((v.teams.map (fun x : Team => { x with fibres := [] })).find? (fun x => x.tid == i)).map (·.dbgctl) =
      (v.team? i).map (·.dbgctl) := by
    intro v
    rw [List.find?_map, Option.map_map]
    rfl
  have same : (u.team? i).map (·.dbgctl) = (t.team? i).map (·.dbgctl) := by rw [← bare, ← bare, h]
  unfold State.team
  cases hu : u.team? i <;> cases ht : t.team? i <;> simp_all

theorem State.now_of_rest {t u : State} (h : { u with teams := [] } = { t with teams := [] }) : u.now = t.now := by
  have now := congrArg State.now h
  exact now

/-! A lane finished. -/

/-- The lane has no single step due after an instruction (R334). -/
def State.Unstepped (t : State) (l : Lane) : Prop := (t.fibre l).level = .user → (t.team l.tid).dbgctl.getLsbD 1 = false

/-- A lane that completes after a change of its own fibre. -/
theorem State.finish_done_alters {t u : State} {l : Lane} {f : Fibre} (h : Head) (ha : t.Alters u l f) (hs : t.Unstepped l) :
    t.Alters (t.finish l h (.done u)) l (f.movedTo (nextPc (t.fibre l).pc) t.now h.stall) := by
  have now : u.now = t.now := State.now_of_rest ha.rest
  show t.Alters (u.complete l h.stall _ _) l _
  rw [complete_unstepped _ _ _ _ _ (fun e => (State.team_dbgctl_of_bare l.tid ha.teams).symm ▸ hs e), setPc_eq, now]
  exact ha.trans (State.alters_modFibre ha.fibre fun _ => rfl)
theorem State.finish_passed_alters {t : State} {l : Lane} (h : Head) (hl : (t.fibre? l).isSome = true) (hs : t.Unstepped l) :
    t.Alters (t.finish l h (.done t)) l ((t.fibre l).moved t.now h.stall) :=
  t.finish_done_alters h ⟨State.fibre?_of_isSome t l hl, fun _ _ => rfl, rfl, rfl⟩ hs

/-! All lanes. -/

/-- The lanes of a list changed one after another, each from the fibre that it has in s0. -/
theorem State.foldl_alters {s0 : State} {step : State → Lane → State} {r : Lane → Fibre} :
    ∀ (ls : List Lane) (s : State), ls.Nodup → (∀ l ∈ ls, s.fibre? l = s0.fibre? l) →
      s.teams.map (fun x => { x with fibres := [] }) = s0.teams.map (fun x => { x with fibres := [] }) →
      { s with teams := [] } = { s0 with teams := [] } →
      (∀ (t : State), ∀ l ∈ ls, t.fibre? l = s0.fibre? l → t.now = s0.now → (t.team l.tid).dbgctl = (s0.team l.tid).dbgctl →
        t.Alters (step t l) l (r l)) →
      let u := ls.foldl step s
      (∀ l ∈ ls, u.fibre? l = some (r l)) ∧ (∀ l, l ∉ ls → u.fibre? l = s.fibre? l) ∧
        u.teams.map (fun x => { x with fibres := [] }) = s0.teams.map (fun x => { x with fibres := [] }) ∧
        { u with teams := [] } = { s0 with teams := [] }
  | [], s, _, _, ht, hr, _ => ⟨by simp, fun _ _ => rfl, ht, hr⟩
  | a :: ls, s, hn, hf, ht, hr, hstep => by
    obtain ⟨ha, hn⟩ := List.nodup_cons.mp hn
    have first := hstep s a (by simp) (hf a (by simp)) (State.now_of_rest hr) (State.team_dbgctl_of_bare _ ht)
    have hne : ∀ l ∈ ls, l ≠ a := fun l hl e => ha (e ▸ hl)
    obtain ⟨inside, outside, teams, rest⟩ := State.foldl_alters ls (step s a) hn
      (fun l hl => (first.others l (hne l hl)).trans (hf l (by simp [hl]))) (first.teams.trans ht) (first.rest.trans hr)
      (fun t l hl => hstep t l (by simp [hl]))
    refine ⟨fun l hl => ?_, fun l hl => ?_, teams, rest⟩
    · by_cases e : l = a
      · subst e
        exact (outside l ha).trans first.fibre
      · exact inside l ((List.mem_cons.mp hl).resolve_left e)
    · simp only [List.mem_cons, not_or] at hl
      exact (outside l hl.2).trans (first.others l hl.1)

/-- The shared law of the instructions that change only their own fibres. -/
theorem State.runLanes_fibreEffect {s : State} {h : Head} {body : State → Lane → LaneRes} {g : Lane → Fibre → Fibre} (hi : s.Issued)
    (hbody : ∀ t : State, ∀ l ∈ s.guarded h, t.fibre? l = some (s.fibre l) → t.now = s.now → t.Unstepped l →
      t.Alters (t.finish l h (body t l)) l (g l (s.fibre l))) : FibreEffect s (s.runLanes h body) h g := by
  have step : ∀ (t : State), ∀ l ∈ s.sigLanes, t.fibre? l = s.fibre? l → t.now = s.now → (t.team l.tid).dbgctl = (s.team l.tid).dbgctl →
      t.Alters (t.finish l h (if s.guard h l then body t l else .done t)) l
        (if s.guard h l then g l (s.fibre l) else (s.fibre l).moved s.now h.stall) := by
    intro t l hl hf hn hd
    have found : t.fibre? l = some (s.fibre l) := hf.trans (State.fibre?_of_isSome s l (hi.present hl))
    have same : t.fibre l = s.fibre l := State.fibre_eq t l _ found
    have unstepped : t.Unstepped l := by
      obtain ⟨htid, hfid⟩ := (mem_sigLanes s l).mp hl
      have own : (⟨s.sig.tid, l.fid⟩ : Lane) = l := by rw [← htid]
      intro e
      rw [hd, htid]
      exact hi.2.2 _ hfid (by rw [own, ← same]; exact e)
    by_cases hg : s.guard h l = true
    · rw [if_pos hg, if_pos hg]
      exact hbody t l (List.mem_filter.mpr ⟨hl, hg⟩) found hn unstepped
    · rw [if_neg hg, if_neg hg, ← same, ← hn]
      exact t.finish_passed_alters h (by simp [found]) unstepped
  obtain ⟨inside, outside, teams, rest⟩ := State.foldl_alters s.sigLanes s (sigLanes_nodup s hi.1) (fun _ _ => rfl) rfl rfl step
  refine ⟨fun l hl => ?_, fun l hl hg => ?_, outside, teams, rest⟩
  · obtain ⟨hm, hg⟩ := List.mem_filter.mp hl
    exact (inside l hm).trans (by rw [if_pos hg])
  · exact (inside l hl).trans (by rw [if_neg (by simp [hg])])

/-! YIELD and SLEEP. -/

section
variable {s : State} {h : Head} (hi : s.Issued)
include hi

theorem execYieldN_effect {m : SyncMod} (hm : m.imm24 ≠ 0) : ∃ t, execYieldN h m s = .next t ∧ FibreEffect s t h (fun _ f =>
    { f.moved s.now h.stall with hold := some (.yield (s.now + m.imm24.toNat)) }) := by
  refine ⟨_, rfl, State.runLanes_fibreEffect hi fun t l _ hf hn hs => ?_⟩
  rw [if_neg hm]
  have done := t.finish_done_alters h (State.alters_modFibre (g := fun f => { f with hold := some (.yield (s.now + m.imm24.toNat)) }) hf fun _ => rfl) hs
  rw [State.fibre_eq t l _ hf, hn] at done
  exact done
/-- A SLEEP begun: each guarded fibre waits for its n clk. -/
theorem runLanes_sleepLane_begins {n : Lane → Nat} (hw : ∀ l ∈ s.guarded h, (s.fibre l).wait = none) (hn : ∀ l ∈ s.guarded h, n l ≠ 0) :
    FibreEffect s (s.runLanes h (fun t l => sleepLane s t l (n l))) h (fun l f =>
      { f with wait := some { on := .sleep (s.now + n l), since := s.now }, waitAt := 0, turn := none }) := by
  refine State.runLanes_fibreEffect hi fun t l hl hf hnow hs => ?_
  have waits : sleepLane s t l (n l) = t.suspend l (.sleep (s.now + n l)) := by
    unfold sleepLane
    rw [hw l hl]
    exact if_neg (hn l hl)
  rw [waits, ← hnow]
  exact State.alters_modFibre hf fun _ => rfl
/-- A SLEEP whose time has run: each guarded fibre goes on. -/
theorem runLanes_sleepLane_ends (n : Lane → Nat) (hw : ∀ l ∈ s.guarded h, ∃ w, (s.fibre l).wait = some w ∧ w.met = true) :
    FibreEffect s (s.runLanes h (fun t l => sleepLane s t l (n l))) h (fun _ f => f.moved s.now h.stall) := by
  refine State.runLanes_fibreEffect hi fun t l hl hf hnow hs => ?_
  obtain ⟨w, hwait, hmet⟩ := hw l hl
  have resumes : sleepLane s t l (n l) = .done (t.resume l) := by
    unfold sleepLane
    rw [hwait]
    exact if_pos hmet
  have done := t.finish_done_alters h (State.alters_modFibre (g := fun f => { f with wait := none }) hf fun _ => rfl) hs
  rw [resumes]
  rw [State.fibre_eq t l _ hf, hnow] at done
  exact done
end

/-! Results delivered. -/

section
variable {s : State} (h : Head) (hi : s.Issued)
include hi

theorem floatApprox_effect (m : FloatMod) (g : Approx) : ∃ t, floatApprox h m g s = .next t ∧ RegisterEffect s t h 0 (fun l =>
    let r := g.eval (ftypeFmt m.ty) m.ftz (s.readReg l .sa h.sa)
    s.floatWrite l h.dst r.1 r.2 none) :=
  ⟨_, rfl, deliver_effect s h (fun l => (g.eval (ftypeFmt m.ty) m.ftz (s.readReg l .sa h.sa)).1)
    (fun l => (g.eval (ftypeFmt m.ty) m.ftz (s.readReg l .sa h.sa)).2) none hi⟩
theorem execFrnd_effect (m : FloatMod) : ∃ t, execFrnd h m s = .next t ∧ RegisterEffect s t h (drawsOf (s.modeOf m.rnd) 1) (fun l =>
    let f := ftypeFmt m.ty
    let v := FVal.integral (s.modeOf m.rnd) (s.drawn h l (s.modeOf m.rnd) 1 1) (s.readFloat l .sa h.sa f m.ftz)
    s.floatWrite l h.dst (f.round .rtz false false 0 v.1).1 v.2 (some 4)) := by
  have drawn := drawDeliver_effect s h (s.modeOf m.rnd) (fun _ l => (s.team l.tid).coreKey)
    (fun l x => let v := FVal.integral (s.modeOf m.rnd) x (s.readFloat l .sa h.sa (ftypeFmt m.ty) m.ftz)
      (((ftypeFmt m.ty).round .rtz false false 0 v.1).1, v.2)) (some 4) hi (fun _ _ ht _ => by rw [ht])
  refine ⟨_, rfl, ?_⟩
  rw [runLanes_congr s h _ _ fun t l hl => ?_]
  · exact drawn
  · dsimp only
    rw [guarded_tid s h l hl]
    rfl
theorem execNop_effect (m : FoldMod) : ∃ t, execNop h m s = .next t ∧ RegisterEffect s t h 0 (fun _ => { }) :=
  ⟨_, rfl, runLanes_effect s h 0 (fun t _ => t) (fun _ _ => { }) hi (fun t l _ _ _ _ _ _ _ _ _ => Wrote.refl t l _)⟩
end

end Sys2Proof.Machine
end

section
/-! PROOFS. An issue of one lane: the software traps and the returns (R330, R336), and a tile store begun (R211). -/

namespace Sys2Proof.Machine

/-- A lane that traps with no result in flight traps at once. -/
theorem State.finish_trap_settled {s : State} {l : Lane} (hf : (s.fibre l).inFlight = false) (h : Head) (c : Cause.Code) (v : Dword) :
    s.finish l h (.trap c v) = s.trapped l h c v := by
  rw [finish_trap, hf]
  rfl
/-- A fibre whose exception has ended (R330): TNEST of its level cleared, another level taken up. -/
def Fibre.returned (lv : Level) (f : Fibre) : Fibre := { (f.settle.setCopy f.level { f.copy f.level with nest := false }) with level := lv }
theorem Fibre.returned_fid (lv : Level) (f : Fibre) : (f.returned lv).fid = f.fid := by simp [Fibre.returned]
theorem Fibre.returned_regs (lv : Level) (f : Fibre) : (f.returned lv).regs = f.regs := by
  show (f.settle.setCopy _ _).regs = _
  rw [Fibre.setCopy_regs]
  rfl
theorem Fibre.returned_nest (lv : Level) (f : Fibre) : ((f.returned lv).copy f.level).nest = false := by
  show ((f.settle.setCopy f.level _).copy f.level).nest = false
  rw [Fibre.copy_setCopy, if_pos rfl]
/-- A lane returned from its exception, the waiting of its team counted afresh (R64). -/
def State.returned (s : State) (l : Lane) (lv : Level) : State :=
  (s.modFibre l (Fibre.returned lv)).modTeam l.tid (fun t => { t with waitSince := none })
theorem State.returned_fibre? {s : State} {l : Lane} {f : Fibre} (lv : Level) (hl : s.fibre? l = some f) :
    (s.returned l lv).fibre? l = some (f.returned lv) := by
  unfold State.returned
  rw [State.fibre?_modTeam _ _ _ (by intro _; rfl) (by intro _; rfl), State.fibre?_modFibre _ _ _ (Fibre.returned_fid lv), if_pos rfl, hl, Option.map_some]
theorem State.returned_dbgctl (s : State) (l : Lane) (lv : Level) : ((s.returned l lv).team l.tid).dbgctl = (s.team l.tid).dbgctl := by
  unfold State.returned State.modFibre State.team
  rw [State.team?_modTeam _ _ _ (by intro _; rfl), State.team?_modTeam _ _ _ (by intro _; rfl)]
  cases s.team? l.tid <;> simp

section
variable {s : State} {h : Head} {l : Lane} (ha : s.Alone h l)
include ha

theorem State.Alone.sigLanes : s.sigLanes = [l] := by
  obtain ⟨htid, hfids, -, -⟩ := ha
  unfold State.sigLanes
  rw [htid, hfids]
  rfl
/-- A run of one lane is the lane's own finish. -/
theorem State.Alone.runLanes (body : State → Lane → LaneRes) : s.runLanes h body = s.finish l h (body s l) := by
  obtain ⟨-, -, -, hg⟩ := id ha
  unfold State.runLanes
  rw [ha.sigLanes]
  show s.finish l h (if s.guard h l then _ else _) = _
  rw [if_pos hg]
theorem State.Alone.found : s.fibre? l = some (s.fibre l) := by
  obtain ⟨-, -, issued, -⟩ := id ha
  exact State.fibre?_of_isSome s l (issued.present (by simp [ha.sigLanes]))
theorem State.Alone.unstepped : s.Unstepped l := by
  obtain ⟨htid, hfids, ⟨-, -, stepped⟩, -⟩ := ha
  have := stepped l.fid (by simp [hfids])
  rw [htid] at this
  exact this

/-! Traps (R336, R124). -/

variable (hf : (s.fibre l).inFlight = false)
include hf

theorem execTrap_own {m : SystemMod} (hm : m.code.toNat < 0x28) :
    execTrap h m s = .next (s.trapped l h 0x09 (BitVec.ofNat 64 m.code.toNat)) := by
  have hard : softCause m.code.toNat = false := by simp [softCause]; omega
  unfold execTrap
  rw [ha.runLanes, hard]
  exact congrArg Host.Outcome.next (State.finish_trap_settled hf h _ _)
theorem execTrap_soft {m : SystemMod} (h1 : 0x28 ≤ m.code.toNat) (h2 : m.code.toNat ≤ 0x3F) :
    execTrap h m s = .next (s.trapped l h (BitVec.ofNat 7 m.code.toNat) 0) := by
  have soft : softCause m.code.toNat = true := by simp [softCause, h1, h2]
  unfold execTrap
  rw [ha.runLanes, soft]
  exact congrArg Host.Outcome.next (State.finish_trap_settled hf h _ _)
theorem execSysc_traps (m : SystemMod) : execSysc h m s = .next (s.trapped l h 0x0A (BitVec.ofNat 64 m.code.toNat)) := by
  unfold execSysc
  rw [ha.runLanes]
  exact congrArg Host.Outcome.next (State.finish_trap_settled hf h _ _)
theorem execBkpt_traps (m : SystemMod) : execBkpt h m s = .next (s.trapped l h 0x0B (BitVec.ofNat 64 m.code.toNat)) := by
  unfold execBkpt
  rw [ha.runLanes]
  exact congrArg Host.Outcome.next (State.finish_trap_settled hf h _ _)
theorem execUnassignedOpcode_traps {w : BitVec 96} (hw : readHead w = h) :
    execUnassignedOpcode w s = .next (s.trapped l h 0x01 (BitVec.ofNat 64 (opcodeOf w))) := by
  unfold execUnassignedOpcode
  rw [ha.sigLanes, hw]
  exact congrArg Host.Outcome.next (State.finish_trap_settled hf h _ _)

/-- A return (R330): the level before the trap and the address taken up, the copy's TNEST cleared, no register changed. -/
theorem State.Alone.rettLane_returns {next : Bool} {pc : Dword} (hn : ((s.fibre l).copy (s.fibre l).level).nest = true)
    (hpc : (if next then nextPc ((s.fibre l).copy (s.fibre l).level).epc else ((s.fibre l).copy (s.fibre l).level).epc) = pc)
    (hok : pcSlotOk pc = true) : ∃ f, (s.runLanes h (rettLane next s)).fibre? l = some f ∧
      f.level = ((s.fibre l).copy (s.fibre l).level).ppriv ∧ f.pc = pc ∧ (f.copy (s.fibre l).level).nest = false ∧ f.regs = (s.fibre l).regs := by
  have goes : rettLane next s s l = .goto pc (s.returned l ((s.fibre l).copy (s.fibre l).level).ppriv) := by
    unfold rettLane
    dsimp only
    rw [hpc, if_neg (by simp [hn]), if_neg (by simp [hok]), if_neg (by simp [hf])]
    rfl
  refine ⟨((s.fibre l).returned ((s.fibre l).copy (s.fibre l).level).ppriv).movedTo pc s.now h.stall, ?_, rfl, rfl,
    (s.fibre l).returned_nest ((s.fibre l).copy (s.fibre l).level).ppriv, (s.fibre l).returned_regs ((s.fibre l).copy (s.fibre l).level).ppriv⟩
  rw [ha.runLanes, goes]
  show (State.complete _ l h.stall (s.fibre l).level pc).fibre? l = _
  rw [complete_unstepped _ _ _ _ _ (by rw [State.returned_dbgctl]; exact ha.unstepped), setPc_eq, State.fibre?_modFibre _ _ _ (by intro _; rfl), if_pos rfl,
    State.returned_fibre? _ ha.found, Option.map_some]
  rfl
end

/-! A tile store begun (R211). -/

theorem State.keepFlit_teams (s : State) (a b id : Nat) : (s.keepFlit a b id).teams = s.teams := by
  unfold State.keepFlit
  split
  · rfl
  · split <;> rfl
theorem State.keepFlit_reqs (s : State) (a b id : Nat) : (s.keepFlit a b id).reqs = s.reqs := by
  unfold State.keepFlit
  split
  · rfl
  · split <;> rfl
theorem State.claimNext_teams (s : State) (q : Req) : (s.claimNext q).teams = s.teams := by
  unfold State.claimNext
  dsimp only
  split
  · rfl
  · split
    · rfl
    · split <;> exact s.keepFlit_teams _ _ _
theorem State.claimNext_reqs (s : State) (q : Req) : (s.claimNext q).reqs = s.reqs := by
  unfold State.claimNext
  dsimp only
  split
  · rfl
  · split
    · rfl
    · split <;> exact s.keepFlit_reqs _ _ _
theorem State.Calm.acquiring {s : State} {l : Lane} (hc : s.Calm l) : s.acquiring l = false := by
  unfold State.acquiring
  rw [List.any_eq_false]
  intro q hq
  have apart := hc.reqs q hq
  simp only [Bool.and_eq_true, decide_eq_true_eq]
  exact fun ⟨own, _⟩ => apart own

theorem State.withLeaves_free {t : State} {l : Lane} {owner off n : Nat} {k : State → LaneRes} (hl : (t.team owner).leafFree off n) :
    t.withLeaves l owner off n k = k (t.resume l) := by
  unfold State.withLeaves
  dsimp only
  rw [hl.thread_owned]
  rfl
theorem State.resume_leafBytes (s : State) (l : Lane) (i off n : Nat) : ((s.resume l).team i).leafBytes off n = (s.team i).leafBytes off n := by
  unfold State.resume State.modFibre
  rw [State.team_modTeam s l.tid (fun t => t.modFibre l.fid (fun f => { f with wait := none })) (fun _ => rfl) rfl]
  split <;> rfl
theorem afterDeferred_unreleasing (f : Fibre) (k : LaneRes) : afterDeferred f false k = k := rfl

section
variable {s : State} {h : Head} {m : GlobalMod} {l : Lane} {x : Shape} {pt : Point} {segs : List (Nat × Nat × Nat)}

/-- What a tile store records as it begins. -/
def State.tileStoreReq (s : State) (h : Head) (m : GlobalMod) (l : Lane) (x : Shape) (pt : Point) (segs : List (Nat × Nat × Nat)) : Req :=
  { s.access l .tileStore (s.globalVa l h.sa m.off) (segs.headD (0, 0, 0)).2.1 (x.rows * x.rowb) pt with
    off := (s.readReg l .sb h.sb).toNat, segs := segs, acq := m.ord.acquires
    data := (s.team l.tid).leafBytes (s.readReg l .sb h.sb).toNat (x.rows * x.rowb) }

variable (hc : s.Calm l) (hm : m.ord.releases = false)
  (hx : tileChecks (s.team l.tid) m.scope.toNat (s.readPair l .sc h.sc) (s.globalVa l h.sa m.off) (s.readReg l .sb h.sb).toNat = .ok (x, pt))
  (hp : s.tileProbe (s.team l.tid) (s.fibre l) .write (x.runs (s.globalVa l h.sa m.off).toNat) = .ok segs)
  (hw : (x.runs (s.globalVa l h.sa m.off).toNat).any (fun r => (s.team l.tid).watched (s.fibre l) [.write] r.1 r.2) = false)
  (hh : s.heldRun (s.team l.tid) (s.fibre l) .write segs = none)
  (hl : (s.team l.tid).leafFree (s.readReg l .sb h.sb).toNat (x.rows * x.rowb))
include hc hm hx hp hw hh hl

theorem tileLane_begins : tileLane h m true s s l = .stay ((((s.resume l).addReq (s.tileStoreReq h m l x pt segs)).modFibre l (fun f =>
    { f with hold := some (.tile s.seq false) })).claimNext (s.tileStoreReq h m l x pt segs)) := by
  unfold tileLane
  rw [answered]
  simp only [hc.wait, hc.hold]
  rw [afterAcquire, hc.acquiring, if_neg (by simp), hm, afterDeferred_unreleasing]
  simp only [hx, reduceIte, hp, hw, Bool.false_eq_true, hh]
  rw [State.withLeaves_free hl, Team.readLeaf_eq, State.resume_leafBytes]
  rfl
/-- TST begins its tile: the fibre is held by it, and the access stands with the leaf's bytes. -/
theorem execTst_begins (ha : s.Alone h l) : ∃ u, execTst h m s = .next u ∧ u.fibre? l = some { s.fibre l with hold := some (.tile s.seq false) } ∧
    u.reqs = s.reqs ++ [s.tileStoreReq h m l x pt segs] := by
  have resumed : (s.resume l).fibre? l = some (s.fibre l) := by
    unfold State.resume
    rw [State.fibre?_modFibre _ _ _ (by intro _; rfl), if_pos rfl, ha.found, Option.map_some, ← hc.wait]
  refine ⟨_, rfl, ?_, ?_⟩
  · rw [ha.runLanes, tileLane_begins hc hm hx hp hw hh hl]
    show (State.claimNext _ _).fibre? l = _
    rw [fibre?_of_teams _ _ (State.claimNext_teams _ _), State.fibre?_modFibre _ _ _ (by intro _; rfl), if_pos rfl]
    exact congrArg (Option.map _) resumed
  · rw [ha.runLanes, tileLane_begins hc hm hx hp hw hh hl]
    exact State.claimNext_reqs _ _
end

end Sys2Proof.Machine
end

section
/-! PROOFS. Machine steps that complete: frames (R344 to R350), write-backs (R289), park limits (R367), chains (R409), snapshots (R394),
the watchdog (R425) and a lent window spilled (R375). -/

namespace Sys2Proof.Machine

/-! Frames. -/

theorem State.jacketSave_saves {s : State} {t : Team} {r n : Nat} (ht : s.team? t.tid = some t) (hr : s.saveReason t = some r)
    (hq : (s.modTeam t.tid (fun t => { t with res := .saving r })).quiet t = true)
    (hroom : ((s.modTeam t.tid (fun t => { t with res := .saving r })).framesOf t.coreKey t.partKey).length < 64)
    (hfree : (s.modTeam t.tid (fun t => { t with res := .saving r })).freeJacket t.coreKey t.partKey = some n)
    (hreach : (s.modTeam t.tid (fun t => { t with res := .saving r })).frameReach t.partKey .write
      ((s.modTeam t.tid (fun t => { t with res := .saving r })).frameVa t n)
      ((t.framePieces s.now r ((s.modTeam t.tid (fun t => { t with res := .saving r })).pending t.tid)).map (fun p => (p.1, p.2.length))) = .ok none) :
    s.jacketSave t.tid = (s.modTeam t.tid (fun t => { t with res := .saving r })).saveInto t n r := by
  unfold State.jacketSave
  simp only [ht, hr, hq, hroom, hfree]
  simp [hreach]

/-- The space and the intermediate address of a user's address that a restored wait names (R346). -/
def State.waitPlace (s : State) (part a : Nat) : Option (Nat × Nat) :=
  match s.rangeCheck part .user .read a with
  | .ok ia => some (s.space part ia, ia)
  | .error _ => none

section
variable {s v : State} {t back : Team} {n : Nat} {rd : Nat → Nat → List Byte} (ht : s.team? t.tid = some t) (hres : t.res = .jacketed n false true)
  (hok : (s.partAt t.partKey).failed = false) (hup : (s.coreAt t.coreKey).halted = false) (hslot : ∀ x ∈ s.residents t.coreKey, x.slot ≠ t.slot)
  (hv : s.acquire t.coreKey .package = v) (hrd : v.frameRead t (s.frameVa t n) = rd) (hback : t.restored rd s.now (v.waitPlace t.partKey) = back)
  (hreach : ∀ x ∈ [[(0, 0x800)], frameSpans rd, windowSpans rd], v.frameReach t.partKey .read (s.frameVa t n) x = .ok none)
  (hform : (rd 0 1).headD 0 = 1) (hfits : s.fits t.coreKey ⟨back.fibres.length, back.windowRegs, back.leaves, back.acct⟩ = true)
include ht hres hok hup hslot hv hrd hback hreach hform hfits

theorem execJacketRestore_restores : execJacketRestore t.tid s =
    .next ((((v.frameTouch t (s.frameVa t n) ((0, 0x800) :: (frameSpans rd ++ windowSpans rd))).bringBack t back rd).meter t.partKey 13
      (0x800 + ((frameSpans rd ++ windowSpans rd).map (·.2)).sum)).noteRestored t.partKey t.tid) := by
  have free : (s.residents t.coreKey).any (fun x => x.slot = t.slot) = false := by simpa using hslot
  have header := hreach [(0, 0x800)] (by simp)
  have records := hreach (frameSpans rd) (by simp)
  have windows := hreach (windowSpans rd) (by simp)
  unfold execJacketRestore
  simp only [ht, hres]
  rw [hok, hup, free, if_neg (by simp), hv, hrd]
  simp only [header, hform, records, windows, ne_eq, not_true_eq_false, if_false]
  change Host.Outcome.next (if (!s.fits t.coreKey ⟨(t.restored rd s.now (v.waitPlace t.partKey)).fibres.length,
      (t.restored rd s.now (v.waitPlace t.partKey)).windowRegs, (t.restored rd s.now (v.waitPlace t.partKey)).leaves,
      (t.restored rd s.now (v.waitPlace t.partKey)).acct⟩) = true then s
    else State.noteRestored (State.meter (State.bringBack _ t (t.restored rd s.now (v.waitPlace t.partKey)) rd) _ _ _) _ _) = _
  rw [hback, hfits, if_neg (by simp), List.cons_append]
end

/-! Write-backs. -/

/-- The bytes of a word that are owned, as a write-back names them. -/
theorem owned_word_eq (ia : Nat) : (fun c : CByte => c.isOwned && decide (wordOf c.ia = wordOf ia)) =
    fun c => decide (c.st = .owned) && decide (c.ia / 4 = ia / 4) := by
  funext c
  congr 2
  unfold wordOf
  rw [eq_iff_iff]
  omega

theorem execWriteBack_core {s : State} {pkg core ia key : Nat} {b : CByte} (hc : core < 384)
    (hb : (s.coreAt (384 * pkg + core)).l1.filter (fun c => decide (c.st = .owned) && decide (c.ia / 4 = ia / 4)) = [b])
    (hk : s.backCheck b = .place key) (hp : b.pt ≠ .core) : execWriteBack pkg core ia s =
      .next ((s.backL1 (384 * pkg + core) b).touchPage ((b.wr.head?.map (·.part)).getD b.sp) b.ia) := by
  have own : (s.coreAt (384 * pkg + core)).l1.contains b = true := by
    rw [List.contains_iff_mem]
    exact (List.mem_filter.mp (hb ▸ List.mem_singleton_self b)).1
  unfold execWriteBack State.writeBackWord
  dsimp only
  rw [if_pos (show core < Config.coresPerPkg from hc), owned_word_eq, show Config.coresPerPkg = 384 from rfl, hb, List.foldl_cons, List.foldl_nil,
    if_neg (by simpa using own)]
  simp [hk, hp]
theorem execWriteBack_home {s : State} {pkg core ia : Nat} (hc : 384 ≤ core) (hh : homePkg ia = pkg) : execWriteBack pkg core ia s =
    .next (((s.pkgAt pkg).llc.filter (fun c => decide (c.st = .owned) && decide (c.ia / 4 = ia / 4))).foldl (fun u b => u.backHome pkg b) s) := by
  unfold execWriteBack State.writeBackWord
  dsimp only
  rw [if_neg (show ¬ core < Config.coresPerPkg from Nat.not_lt.mpr hc), owned_word_eq]
  cases (s.pkgAt pkg).llc.filter (fun c => decide (c.st = .owned) && decide (c.ia / 4 = ia / 4)) with
  | nil => rfl
  | cons b r => simp [hh]

/-! A page parked too long. -/

/-- A fold in which one element alone does anything. -/
theorem foldl_single {α β : Type} {f : β → α → β} {l : List α} {q : α} {s u : β} (hn : l.Nodup) (hq : q ∈ l) (before : ∀ r ∈ l, r ≠ q → f s r = s)
    (here : f s q = u) (after : ∀ r ∈ l, r ≠ q → f u r = u) : l.foldl f s = u := by
  induction l generalizing s with
  | nil => simp at hq
  | cons a l ih =>
    obtain ⟨ha, hn⟩ := List.nodup_cons.mp hn
    by_cases e : a = q
    · subst e
      have rest : ∀ r ∈ l, f u r = u := fun r hr => after r (by simp [hr]) fun e => ha (e ▸ hr)
      rw [List.foldl_cons, here, foldl_idle rest]
    · rw [List.foldl_cons, before a (by simp) e]
      exact ih hn ((List.mem_cons.mp hq).resolve_left (Ne.symm e)) (fun r hr => before r (by simp [hr])) here (fun r hr => after r (by simp [hr]))

end Sys2Proof.Machine
end

section
/-! PROOFS. Machine steps that complete: park limits (R367), chains (R409), snapshots (R394), the watchdog (R425) and a lent window spilled
(R375). -/

namespace Sys2Proof.Machine

/-! A page parked too long. -/

/-- Where a request may be parked: what tells the oldest parked request of a page. -/
theorem State.oldestParked_congr {s t : State} (hr : t.regs = s.regs) (hq : t.reqs = s.reqs) (ha : t.agentParks = s.agentParks) (hc : t.cmds = s.cmds)
    (sp page : Nat) : t.oldestParked sp page = s.oldestParked sp page := by
  unfold State.oldestParked
  rw [hr, hq, ha, hc]
theorem logEvent_oldestParked (s : State) (pkg part : Nat) (e : Event) (sp page : Nat) :
    (s.logEvent pkg part e).oldestParked sp page = s.oldestParked sp page := by
  unfold State.logEvent
  split <;> rfl
/-- PARK_LIMIT as its steps are: one partition of the package after another. -/
def State.limitStep (pkg page : Nat) (t : State) (q : Nat) : State :=
  match t.oldestParked (96 * pkg + q) page with
  | some since =>
    if (t.partAt (96 * pkg + q)).parklim.toNat ≠ 0 && since + (t.partAt (96 * pkg + q)).parklim.toNat ≤ t.now && !t.pageOpen (96 * pkg + q) page &&
        !(t.pkgAt pkg).limitSent.contains (96 * pkg + q, page) then
      (t.modPkg pkg (fun p => { p with limitSent := (96 * pkg + q, page) :: p.limitSent })).supervisorEvent (96 * pkg + q)
        { cause := Cause.parkLimit, value := BitVec.ofNat 64 (page * 65536) }
    else t
  | none => t
theorem execParkLimit_eq (pkg page : Nat) (s : State) : execParkLimit pkg page s = .next ((List.range 96).foldl (State.limitStep pkg page) s) := rfl
theorem State.limitStep_none {pkg page q : Nat} {t : State} (h : t.oldestParked (96 * pkg + q) page = none) : t.limitStep pkg page q = t := by
  unfold State.limitStep
  rw [h]
theorem execParkLimit_reports {s : State} {pkg q page since : Nat} (hq : q < 96)
    (hothers : ∀ r, r < 96 → r ≠ q → s.oldestParked (96 * pkg + r) page = none) (hold : s.oldestParked (96 * pkg + q) page = some since)
    (hlim : (s.partAt (96 * pkg + q)).parklim ≠ 0) (hdue : since + (s.partAt (96 * pkg + q)).parklim.toNat ≤ s.now)
    (hshut : s.pageOpen (96 * pkg + q) page = false) (hnew : (96 * pkg + q, page) ∉ (s.pkgAt pkg).limitSent) : execParkLimit pkg page s =
      .next ((s.modPkg pkg (fun p => { p with limitSent := (96 * pkg + q, page) :: p.limitSent })).supervisorEvent (96 * pkg + q)
        { cause := 0x1F, value := BitVec.ofNat 64 (page * 65536) }) := by
  have limit : (s.partAt (96 * pkg + q)).parklim.toNat ≠ 0 := fun e => hlim (BitVec.eq_of_toNat_eq e)
  rw [execParkLimit_eq]
  refine congrArg Host.Outcome.next (foldl_single List.nodup_range (List.mem_range.mpr hq) (fun r hr hne => ?before) ?here (fun r hr hne => ?after))
  case before => exact State.limitStep_none (hothers r (List.mem_range.mp hr) hne)
  case here =>
    unfold State.limitStep
    rw [hold]
    dsimp only
    rw [if_pos (by simp [limit, hdue, hshut, hnew])]
    rfl
  case after =>
    refine State.limitStep_none (Eq.trans ?_ (hothers r (List.mem_range.mp hr) hne))
    exact logEvent_oldestParked (s.modPkg pkg _) _ _ _ _ _

/-! A chain's target (R409). -/

theorem State.addPoison_nil (s : State) : s.addPoison [] = s := rfl

section
variable {s : State} {m : Msg} {x : Packet} {hop ia0 : Nat} {bs : List Byte}

/-- The bytes of a chain written at a target, run by run, and its message gone. -/
def State.chainWritten (s : State) (m : Msg) (x : Packet) (runs : List (Nat × Nat)) (bs : List Byte) : State :=
  (runs.foldl (fun (acc : State × List Byte) r => (acc.1.agentStore m.dst x.part r.1 x.point (acc.2.take r.2), acc.2.drop r.2)) (s, bs)).1.dropMsg m.id

theorem execChainHop_writes (hm : s.msg? m.id = some m) (ho : m.op = .chain x.id hop bs) (hst : m.stage = .applied) (hn : m.answered = false)
    (hx : s.packets.find? (fun y => y.id = x.id) = some x) (hp : s.poison = [])
    (hr : rangeIn x.ranges .user .write (blockDword x.bytes 0x10) = .ok ia0)
    (hmeets : s.chainMeets x (splitRun (ia0 % 2 ^ 52 + 2 ^ 52 * m.dst) bs.length) = .ok none) : execChainHop m.id s =
      .next (if x.targets ≤ hop + 1 then (s.chainWritten m x (splitRun (ia0 % 2 ^ 52 + 2 ^ 52 * m.dst) bs.length) bs).send m.dst x.pkg (.ack x.id)
        else (s.chainWritten m x (splitRun (ia0 % 2 ^ 52 + 2 ^ 52 * m.dst) bs.length) bs).send m.dst (x.target (hop + 1)) (.chain x.id (hop + 1) bs)) := by
  unfold execChainHop
  simp only [hm, ho, hst, hn, hx, hr, hmeets, hp]
  simp only [List.isEmpty_nil, Bool.not_true, Bool.false_and, Bool.false_eq_true, if_false, List.filterMap_none, State.addPoison_nil, ne_eq,
    not_true_eq_false, decide_false, Bool.or_self]
  rfl
end

/-! A snapshot (R394). -/

namespace State.MovesBytes

theorem modCore (s : State) (c : Nat) {f : Core → Core} (hf : ∀ k, (f k).besideBytes = k.besideBytes) : s.MovesBytes (s.modCore c f) where
  rest := rfl
  core d := by
    rw [State.coreAt_modCore]
    split
    · exact hf _
    · rfl
theorem writeAt (s : State) (core sp ia : Nat) (pt : Point) (v : Byte) (wr : List Writer) : s.MovesBytes (s.writeAt core sp ia pt v wr) := by
  unfold State.writeAt
  dsimp only
  split
  · exact (number s _).trans (modCore _ core (by intro _; rfl))
  · split
    · exact (((number s _).trans (supersede ..)).trans (modCore _ core (by intro _; rfl))).trans ((writeSys ..).trans (modPkg ..))
    · exact (((number s _).trans (supersede ..)).trans (modCore _ core (by intro _; rfl))).trans (modPkg ..)
theorem writeRange (s : State) (core sp ia : Nat) (pt : Point) (bs : List Byte) (wr : List Writer) :
    s.MovesBytes (s.writeRange core sp ia pt bs wr) := by
  unfold State.writeRange
  exact foldl _ (fun t x => writeAt t ..) _ s
theorem cleanWords (s : State) (sp ia n : Nat) : s.MovesBytes (s.cleanWords sp ia n) := by
  unfold State.cleanWords
  split
  · exact refl s
  · exact memory s s.mem _ s.memCache
theorem endIngress (s : State) (p sp ia n : Nat) : s.MovesBytes (s.endIngress p sp ia n) := by
  unfold State.endIngress
  dsimp only
  split
  · exact modPkg ..
  · exact refl s
theorem agentStore (s : State) (pkg part ia : Nat) (pt : Point) (bs : List Byte) : s.MovesBytes (s.agentStore pkg part ia pt bs) := by
  unfold State.agentStore
  refine trans (trans (trans ?_ (writeRange ..)) (cleanWords ..)) (touchPage ..)
  split
  · exact endIngress ..
  · exact refl s
theorem partAt {s t : State} (h : s.MovesBytes t) (p : Nat) : t.partAt p = s.partAt p := by
  unfold State.partAt
  rw [show t.parts = s.parts from (congrArg State.parts h.rest :)]

end State.MovesBytes

theorem supervisorEvent_record (s : State) (p : Nat) (e : Event) : ((s.supervisorEvent p e).partAt p).snapseq = (s.partAt p).snapseq ∧
    ((s.supervisorEvent p e).partAt p).digest = (s.partAt p).digest := by
  have parts : (s.logEvent (p / 96) (p % 96) e).partAt p = s.partAt p := by
    unfold State.logEvent
    split <;> rfl
  unfold State.supervisorEvent
  rw [State.partAt_modPart, if_pos rfl, parts]
  exact ⟨rfl, rfl⟩
/-- A snapshot advances SEQ and sets DIGEST to that of its record. -/
theorem State.snapshot_record (s : State) (p : Nat) : ((s.snapshot p).2.partAt p).snapseq = (s.partAt p).snapseq + 1 ∧
    ((s.snapshot p).2.partAt p).digest = sha384 (s.snapBytes p) := by
  have advanced : (s.modPart p (fun x => { x with snapseq := x.snapseq + 1, digest := sha384 (s.snapBytes p) })).partAt p =
      { s.partAt p with snapseq := (s.partAt p).snapseq + 1, digest := sha384 (s.snapBytes p) } := by
    rw [State.partAt_modPart, if_pos rfl]
  unfold State.snapshot
  dsimp only
  rw [(supervisorEvent_record _ p _).1, (supervisorEvent_record _ p _).2]
  split
  · rw [advanced]
    exact ⟨rfl, rfl⟩
  · split
    · rw [(State.MovesBytes.agentStore ..).partAt, advanced]
      exact ⟨rfl, rfl⟩
    · rw [advanced]
      exact ⟨rfl, rfl⟩
theorem execSpdmGetMeasurements_snapshot {index : Nat} (hi : index = 0x10 ∨ index = 0xFF) (pkg part : Nat) (sign : Bool) (s : State) :
    execSpdmGetMeasurements pkg part index sign s = .next (s.snapshot (96 * pkg + part)).2 := by
  unfold execSpdmGetMeasurements
  rw [if_pos (by simpa using hi)]

/-! The watchdog (R425) and the spill of a lent window (R375). -/

theorem Pkg.resetRecord_rstcause (p : Pkg) (now cause : Nat) : (p.resetRecord now cause).rstcause = p.rstcause := by
  unfold Pkg.resetRecord
  dsimp only
  split <;> rfl
theorem State.resetPkg_watchdog (s : State) (pkg : Nat) : (∀ t ∈ (s.resetPkg pkg 3 .none).teams, t.pkg ≠ pkg) ∧
    ((s.resetPkg pkg 3 .none).pkgAt pkg).rstcause = 3 := by
  constructor
  · intro t ht
    have gone : t ∈ ((s.peersDown pkg).clearPkg pkg).teams := ht
    simpa using (List.mem_filter.mp gone).2
  · unfold State.resetPkg
    dsimp only
    rw [State.pkgAt_modPkg, if_pos rfl, Pkg.resetRecord_rstcause]
    unfold State.pkgAt
    rw [lookupD_insertAt, if_pos rfl]
    rfl
theorem execLeaseSpill_spills {s : State} {pkg : Nat} {x y : Lease} (hx : (s.pkgAt pkg).leases.find? (fun z => z.index = x.index) = some x)
    (hrole : x.role = 0) (hstate : x.state = 4) (htiles : s.tilesIn pkg x = false) (hy : s.peerLease pkg x = some y) : execLeaseSpill pkg x.index s =
      .next ((((((s.drawLent x.peer x).mapPages pkg x).foldl (fun u p => u.copyPage (physKey 1 pkg (x.window + 65536 * p))
        (physKey y.sptier x.peer (y.spill + 65536 * p))) (s.drawLent x.peer x)).setLease pkg x.index 5).recallEvents pkg x 2).send pkg x.peer
          (.lease 7 x.lid 0)) := by
  unfold execLeaseSpill
  simp [hx, hrole, hstate, htiles, hy]

end Sys2Proof.Machine
end

section
/-! PROOFS. The forms that complete (R44, R156 to R164, R173, R179, R211, R330, R336, R342, R367, R375, R394, R409), together. -/

namespace Sys2Proof.Machine

/-- Every collective executes once for a band that is whole (R44). -/
theorem collective_completes {s : State} {b : Nat} (hw : s.Whole b) (h : Head) (m : SyncMod) :
    ∀ i ∈ [Instr.voteAny h m, .voteAll h m, .voteBallot h m, .voteCount h m, .shfl h m, .breduce h m, .bscan h m, .matchLead h m,
      .matchUni h m, .bsync h m, .bsyncMask h m], ∃ w, s.BandGives h b i w := by
  simp only [List.forall_mem_cons]
  exact ⟨⟨_, voteAny_gives hw h m⟩, ⟨_, voteAll_gives hw h m⟩, ⟨_, voteBallot_gives hw h m⟩, ⟨_, voteCount_gives hw h m⟩, ⟨_, shfl_gives hw h m⟩,
    ⟨_, breduce_gives hw h m⟩, ⟨_, bscan_gives hw h m⟩, ⟨_, matchLead_gives hw h m⟩, ⟨_, matchUni_gives hw h m⟩, ⟨_, bsync_gives hw h m⟩,
    ⟨_, bsyncMask_gives hw h m⟩, by simp⟩

/-- A count that is not zero reads as a number that is not zero. -/
theorem toNat_ne_zero {w : Nat} {v : BitVec w} (h : v ≠ 0) : v.toNat ≠ 0 := fun e => h (BitVec.eq_of_toNat_eq e)

/-- Settles O60: each form is the lemma of its name. -/
theorem formsComplete : Obligations.FormsComplete := by
  unfold Obligations.FormsComplete
  refine ⟨?_, ?_, ?_, ?_, ?_, ?_, ?_, ?_, ?_, ?_, ?_, ?_⟩
  · intro s h hi
    refine ⟨?_, execFrnd_effect h hi, execNop_effect h hi, fun m hm => execYieldN_effect hi hm, ?_, ?_⟩
    · simp only [List.forall_mem_cons]
      exact ⟨fun m => floatApprox_effect h hi m .rsq, fun m => floatApprox_effect h hi m .exp2, fun m => floatApprox_effect h hi m .log2,
        fun m => floatApprox_effect h hi m .sin, fun m => floatApprox_effect h hi m .cos, fun m => floatApprox_effect h hi m .tanh, by simp⟩
    · intro hw m
      exact ⟨fun hm => ⟨_, rfl, runLanes_sleepLane_begins hi hw fun _ _ => toNat_ne_zero hm⟩,
        fun hm => ⟨_, rfl, runLanes_sleepLane_begins hi hw fun l hl => toNat_ne_zero (hm l hl)⟩⟩
    · intro hw m
      simp only [List.forall_mem_cons]
      exact ⟨⟨_, rfl, runLanes_sleepLane_ends hi (fun _ => m.imm24.toNat) hw⟩,
        ⟨_, rfl, runLanes_sleepLane_ends hi (fun l => (s.readReg l .sa h.sa).toNat) hw⟩, by simp⟩
  · intro s h m b hw _ _ i hi
    obtain ⟨w, t, ht, effect⟩ := collective_completes hw h m i hi
    exact ⟨t, w, ht, effect⟩
  · intro s h m l ha hf
    refine ⟨execTrap_own ha hf, execTrap_soft ha hf, execSysc_traps ha hf m, execBkpt_traps ha hf m, fun w => execUnassignedOpcode_traps ha hf, ?_⟩
    intro r hn
    simp only [List.forall_mem_cons]
    refine ⟨fun hok => ?_, fun hok => ?_, by simp⟩
    · obtain ⟨f, hfound, returned⟩ := ha.rettLane_returns hf (next := false) hn rfl hok
      exact ⟨_, f, rfl, hfound, returned⟩
    · obtain ⟨f, hfound, returned⟩ := ha.rettLane_returns hf (next := true) hn rfl hok
      exact ⟨_, f, rfl, hfound, returned⟩
  · intro s h m l ha hc hm t va off x pt segs hx hp hw hh hl
    exact execTst_begins hc hm hx hp hw hh hl ha
  · intro s t r n ht hr v va hq hroom hfree hreach
    exact congrArg Host.Outcome.next (State.jacketSave_saves ht hr hq hroom hfree hreach)
  · intro s t n ht hres hok hup hslot v va rd spans place back hreach hform hfits
    exact execJacketRestore_restores ht hres hok hup hslot rfl rfl rfl hreach hform hfits
  · intro s pkg core ia key b ck mine
    exact ⟨fun hc hb hk hp => execWriteBack_core hc hb hk hp, fun hc hh => execWriteBack_home hc hh⟩
  · intro s pkg q page since sp hq hothers hold hlim hdue hshut hnew
    exact execParkLimit_reports hq hothers hold hlim hdue hshut hnew
  · intro s m x hop ia0 bs hm ho hst hn hx hp hr runs hmeets w gone
    exact execChainHop_writes hm ho hst hn hx hp hr hmeets
  · intro s pkg part sign index hi
    refine ⟨_, execSpdmGetMeasurements_snapshot (by simpa using hi) pkg part sign s, s.snapshot_record (96 * pkg + part)⟩
  · intro s pkg
    exact ⟨_, rfl, State.resetPkg_watchdog _ pkg⟩
  · intro s pkg x y hx hrole hstate htiles hy v w
    exact execLeaseSpill_spills hx hrole hstate htiles hy

end Sys2Proof.Machine
end

section
/-! PROOFS. Rounding to a multiple of a quantum (R84): which of the two neighbours of a number each mode takes, and that a sticky last bit
stands for what was cut off. -/

namespace Sys2Proof.Machine

theorem zpow_mul_pow_toNat {a b : ℤ} (h : a ≤ b) : (2 : ℝ) ^ (b - a).toNat * 2 ^ a = 2 ^ b := by
  rw [← zpow_natCast, Int.toNat_of_nonneg (by omega), ← zpow_add₀ (by norm_num), sub_add_cancel]
theorem pow_mul_zpow_sub {a b : ℤ} {n : ℕ} (h : b - a = n) : (2 : ℝ) ^ n * 2 ^ (a - b) = 1 := by
  rw [← zpow_natCast, ← h, ← zpow_add₀ (by norm_num), sub_add_sub_cancel, sub_self, zpow_zero]
theorem two_pow_even {n : ℕ} (h : n ≠ 0) : 2 ^ n % 2 = 0 := Nat.mod_eq_zero_of_dvd (dvd_pow_self 2 h)

/-- W is the one of the neighbours A and B of a magnitude Y between them that a mode takes for a number of a sign (R84); `even` says that
W counts as even. -/
def Chosen (mode : RMode) (neg : Bool) (even : Prop) (A B Y W : ℝ) : Prop :=
  match mode with
  | .rne => (W = A ∧ Y - A ≤ B - Y ∨ W = B ∧ B - Y ≤ Y - A) ∧ (Y - A = B - Y → even)
  | .rna => W = A ∧ Y - A < B - Y ∨ W = B ∧ B - Y ≤ Y - A
  | .rtz => W = A
  | .rup => W = if neg then A else B
  | .rdn => W = if neg then B else A
  | .sr => W = A ∨ W = B

section
variable {mode : RMode} {neg : Bool} {even : Prop} {A B Y W : ℝ}

/-- What is taken is one of the two neighbours. -/
theorem Chosen.lower_or_upper (h : Chosen mode neg even A B Y W) : W = A ∨ W = B := by
  cases mode with
  | rne => exact h.1.imp And.left And.left
  | rna => exact Or.imp And.left And.left h
  | rtz => exact .inl h
  | rup => cases neg <;> simp_all [Chosen]
  | rdn => cases neg <;> simp_all [Chosen]
  | sr => exact h
theorem Chosen.nat_lower_or_upper {n lo : ℕ} {y : ℝ} (h : Chosen mode neg even lo (lo + 1) y n) : n = lo ∨ n = lo + 1 := by
  exact_mod_cast h.lower_or_upper
/-- The choice is the same at every scale. -/
theorem Chosen.scale (h : Chosen mode neg even A B Y W) {k : ℝ} (hk : 0 < k) : Chosen mode neg even (A * k) (B * k) (Y * k) (W * k) := by
  have le : ∀ a b c d : ℝ, a - b ≤ c - d → a * k - b * k ≤ c * k - d * k := fun a b c d h => by
    rw [← sub_mul, ← sub_mul]; exact mul_le_mul_of_nonneg_right h hk.le
  have lt : ∀ a b c d : ℝ, a - b < c - d → a * k - b * k < c * k - d * k := fun a b c d h => by
    rw [← sub_mul, ← sub_mul]; exact mul_lt_mul_of_pos_right h hk
  cases mode with
  | rne =>
    obtain ⟨near, tie⟩ := h
    refine ⟨near.imp ?_ ?_, fun e => tie (mul_right_cancel₀ hk.ne' (by linarith))⟩
    · exact fun ⟨w, d⟩ => ⟨by rw [w], le _ _ _ _ d⟩
    · exact fun ⟨w, d⟩ => ⟨by rw [w], le _ _ _ _ d⟩
  | rna =>
    refine Or.imp ?_ ?_ h
    · exact fun ⟨w, d⟩ => ⟨by rw [w], lt _ _ _ _ d⟩
    · exact fun ⟨w, d⟩ => ⟨by rw [w], le _ _ _ _ d⟩
  | rtz => exact congrArg (· * k) h
  | rup => cases neg <;> exact congrArg (· * k) h
  | rdn => cases neg <;> exact congrArg (· * k) h
  | sr => exact Or.imp (congrArg (· * k)) (congrArg (· * k)) h
end

/-- r is a number y >= 0 rounded to a whole number, and whether it differs from y. -/
structure RoundsTo (mode : RMode) (neg : Bool) (y : ℝ) (r : Nat × Bool) : Prop where
  exact : r.2 = false → (r.1 : ℝ) = y
  inexact : r.2 = true → ∃ lo : ℕ, (lo : ℝ) < y ∧ y < lo + 1 ∧ Chosen mode neg (r.1 % 2 = 0) lo (lo + 1) y r.1

/-! roundAt, case by case: a quantum that divides the number leaves it as it is; otherwise the modes take the quotient or the next. -/

theorem roundAt_whole (mode : RMode) (neg : Bool) (sig : ℕ) {exp q : ℤ} (x : Word) (h : q ≤ exp) :
    roundAt mode neg sig exp q x = (sig * 2 ^ (exp - q).toNat, false) := by
  simp [roundAt, h]

section
variable {exp q : ℤ} {sh : ℕ} (hq : ¬ q ≤ exp) (hsh : q - exp = sh) (mode : RMode) (neg : Bool) {sig : ℕ} (x : Word)
include hq hsh

theorem roundAt_divides (hr : sig % 2 ^ sh = 0) : roundAt mode neg sig exp q x = (sig / 2 ^ sh, false) := by
  simp [roundAt, hq, hsh, hr]

variable (hr : sig % 2 ^ sh ≠ 0)
include hr

theorem roundAt_inexact : (roundAt mode neg sig exp q x).2 = true := by simp [roundAt, hq, hsh, hr]
theorem roundAt_rtz : (roundAt .rtz neg sig exp q x).1 = sig / 2 ^ sh := by simp [roundAt, hq, hsh, hr]
theorem roundAt_rup : (roundAt .rup neg sig exp q x).1 = if neg then sig / 2 ^ sh else sig / 2 ^ sh + 1 := by
  cases neg <;> simp [roundAt, hq, hsh, hr]
theorem roundAt_rdn : (roundAt .rdn neg sig exp q x).1 = if neg then sig / 2 ^ sh + 1 else sig / 2 ^ sh := by
  simp [roundAt, hq, hsh, hr]
theorem roundAt_rna : (roundAt .rna neg sig exp q x).1 = if 2 ^ sh ≤ 2 * (sig % 2 ^ sh) then sig / 2 ^ sh + 1 else sig / 2 ^ sh := by
  simp [roundAt, hq, hsh, hr]
theorem roundAt_rne : (roundAt .rne neg sig exp q x).1 =
    if 2 ^ sh < 2 * (sig % 2 ^ sh) ∨ 2 * (sig % 2 ^ sh) = 2 ^ sh ∧ sig / 2 ^ sh % 2 = 1 then sig / 2 ^ sh + 1 else sig / 2 ^ sh := by
  simp [roundAt, hq, hsh, hr]
theorem roundAt_sr : (roundAt .sr neg sig exp q x).1 = sig / 2 ^ sh ∨ (roundAt .sr neg sig exp q x).1 = sig / 2 ^ sh + 1 := by
  simp only [roundAt, hq, hsh, hr, if_false, Int.toNat_natCast]
  split
  · exact .inr rfl
  · exact .inl rfl

/-- The choice of roundAt in units of the number's own last place: the remainder against half the quantum. -/
theorem roundAt_chosen : Chosen mode neg ((roundAt mode neg sig exp q x).1 % 2 = 0) ((sig / 2 ^ sh : ℕ) * 2 ^ sh)
    (((sig / 2 ^ sh : ℕ) + 1) * 2 ^ sh) sig ((roundAt mode neg sig exp q x).1 * 2 ^ sh) := by
  have parts : (sig : ℝ) = (sig / 2 ^ sh : ℕ) * 2 ^ sh + (sig % 2 ^ sh : ℕ) := by exact_mod_cast (Nat.div_add_mod' sig (2 ^ sh)).symm
  have below : (sig : ℝ) - (sig / 2 ^ sh : ℕ) * 2 ^ sh = (sig % 2 ^ sh : ℕ) := by linarith
  have above : ((sig / 2 ^ sh : ℕ) + 1 : ℝ) * 2 ^ sh - sig = 2 ^ sh - (sig % 2 ^ sh : ℕ) := by linarith
  cases mode with
  | rtz => rw [roundAt_rtz hq hsh neg x hr]; rfl
  | rup => rw [roundAt_rup hq hsh neg x hr]; cases neg <;> simp [Chosen]
  | rdn => rw [roundAt_rdn hq hsh neg x hr]; cases neg <;> simp [Chosen]
  | sr => rcases roundAt_sr hq hsh neg x hr with e | e <;> simp [e, Chosen]
  | rna =>
    dsimp only [Chosen]
    rw [roundAt_rna hq hsh neg x hr, below, above]
    split
    case isTrue h =>
      have : (2 ^ sh : ℝ) ≤ 2 * (sig % 2 ^ sh : ℕ) := by exact_mod_cast h
      exact .inr ⟨by push_cast; rfl, by linarith⟩
    case isFalse h =>
      have : (2 * (sig % 2 ^ sh : ℕ) : ℝ) < 2 ^ sh := by exact_mod_cast Nat.lt_of_not_le h
      exact .inl ⟨rfl, by linarith⟩
  | rne =>
    dsimp only [Chosen]
    rw [roundAt_rne hq hsh neg x hr, below, above]
    split
    case isTrue h =>
      have : (2 ^ sh : ℝ) ≤ 2 * (sig % 2 ^ sh : ℕ) := by exact_mod_cast h.elim le_of_lt fun h => h.1.ge
      refine ⟨.inr ⟨by push_cast; rfl, by linarith⟩, fun e => ?_⟩
      have tie : 2 * (sig % 2 ^ sh) = 2 ^ sh := by exact_mod_cast (by linarith : (2 * (sig % 2 ^ sh : ℕ) : ℝ) = 2 ^ sh)
      omega
    case isFalse h =>
      rw [not_or, not_lt, not_and] at h
      have : (2 * (sig % 2 ^ sh : ℕ) : ℝ) ≤ 2 ^ sh := by exact_mod_cast h.1
      refine ⟨.inl ⟨rfl, by linarith⟩, fun e => ?_⟩
      have tie : 2 * (sig % 2 ^ sh) = 2 ^ sh := by exact_mod_cast (by linarith : (2 * (sig % 2 ^ sh : ℕ) : ℝ) = 2 ^ sh)
      have := h.2 tie
      omega
end

/-- roundAt rounds to a multiple of 2^q (R84). -/
theorem roundAt_roundsTo (mode : RMode) (neg : Bool) (sig : ℕ) (exp q : ℤ) (x : Word) :
    RoundsTo mode neg (sig * (2 : ℝ) ^ (exp - q)) (roundAt mode neg sig exp q x) := by
  by_cases hq : q ≤ exp
  · rw [roundAt_whole mode neg sig x hq]
    refine ⟨fun _ => ?_, nofun⟩
    rw [Nat.cast_mul, Nat.cast_pow, Nat.cast_ofNat, ← zpow_natCast, Int.toNat_of_nonneg (by omega)]
  · obtain ⟨sh, hsh⟩ : ∃ sh : ℕ, q - exp = sh := ⟨(q - exp).toNat, by omega⟩
    have parts : (sig : ℝ) = (sig / 2 ^ sh : ℕ) * 2 ^ sh + (sig % 2 ^ sh : ℕ) := by exact_mod_cast (Nat.div_add_mod' sig (2 ^ sh)).symm
    have down : ∀ a : ℝ, a * 2 ^ sh * 2 ^ (exp - q) = a := fun a => by rw [mul_assoc, pow_mul_zpow_sub hsh, mul_one]
    by_cases hr : sig % 2 ^ sh = 0
    · rw [roundAt_divides hq hsh mode neg x hr]
      refine ⟨fun _ => ?_, nofun⟩
      rw [parts, hr, Nat.cast_zero, add_zero, down]
    · have pos : (0 : ℝ) < 2 ^ (exp - q) := by positivity
      have chosen := (roundAt_chosen hq hsh mode neg x hr).scale pos
      rw [down, down, down] at chosen
      have small : ((sig % 2 ^ sh : ℕ) : ℝ) < 2 ^ sh := by exact_mod_cast Nat.mod_lt sig (by positivity)
      have some : (0 : ℝ) < (sig % 2 ^ sh : ℕ) := by exact_mod_cast Nat.pos_of_ne_zero hr
      refine ⟨fun h => absurd (h.symm.trans (roundAt_inexact hq hsh mode neg x hr)) nofun, fun _ => ⟨sig / 2 ^ sh, ?_, ?_, chosen⟩⟩
      · rw [← down (sig / 2 ^ sh : ℕ)]
        exact mul_lt_mul_of_pos_right (by linarith) pos
      · rw [← down ((sig / 2 ^ sh : ℕ) + 1)]
        exact mul_lt_mul_of_pos_right (by linarith) pos

/-! A sticky last bit: an odd number that stands for the numbers next to it is rounded as they are, once two more bits go (R84). -/

/-- Two numbers on one side of the middle are rounded alike. -/
theorem Chosen.of_same_side {mode : RMode} {neg : Bool} {even : Prop} {A B Y Z W : ℝ} (h : Chosen mode neg even A B Y W)
    (side : (A + B) / 2 < Y ∧ (A + B) / 2 < Z ∨ Y < (A + B) / 2 ∧ Z < (A + B) / 2) : Chosen mode neg even A B Z W := by
  cases mode with
  | rne =>
    obtain ⟨near, -⟩ := h
    rcases side with ⟨hY, hZ⟩ | ⟨hY, hZ⟩
    · exact ⟨near.imp (fun ⟨_, d⟩ => by linarith) fun ⟨w, _⟩ => ⟨w, by linarith⟩, fun e => by linarith⟩
    · exact ⟨near.imp (fun ⟨w, _⟩ => ⟨w, by linarith⟩) (fun ⟨_, d⟩ => by linarith), fun e => by linarith⟩
  | rna =>
    rcases side with ⟨hY, hZ⟩ | ⟨hY, hZ⟩
    · exact Or.imp (fun ⟨_, d⟩ => by linarith) (fun ⟨w, _⟩ => ⟨w, by linarith⟩) h
    · exact Or.imp (fun ⟨w, _⟩ => ⟨w, by linarith⟩) (fun ⟨_, d⟩ => by linarith) h
  | rtz => exact h
  | rup => exact h
  | rdn => exact h
  | sr => exact h

/-- No half of a whole number lies between an odd multiple of a unit and the numbers next to it, where a whole has two more bits. -/
theorem half_beside_sticky {sig : ℕ} (odd : sig % 2 = 1) {y u : ℝ} (near : |y - sig| < 1) {sh : ℕ} (hu : 2 ^ (sh + 2) * u = 1) (a : ℕ) :
    (a / 2 : ℝ) < sig * u ∧ (a / 2 : ℝ) < y * u ∨ sig * u < (a / 2 : ℝ) ∧ y * u < (a / 2 : ℝ) := by
  have pos : 0 < u := by
    by_contra h
    nlinarith [pow_pos (two_pos : (0 : ℝ) < 2) (sh + 2)]
  have grid : (a / 2 : ℝ) = (2 * (a * 2 ^ sh) : ℕ) * u := by
    have : (a / 2 : ℝ) = a / 2 * (2 ^ (sh + 2) * u) := by rw [hu, mul_one]
    rw [this]
    push_cast
    ring
  obtain ⟨lower, upper⟩ := abs_lt.mp near
  rw [grid]
  rcases lt_or_gt_of_ne (show 2 * (a * 2 ^ sh) ≠ sig by omega) with h | h
  · have : ((2 * (a * 2 ^ sh) : ℕ) : ℝ) + 1 ≤ sig := by exact_mod_cast h
    exact .inl ⟨mul_lt_mul_of_pos_right (by linarith) pos, mul_lt_mul_of_pos_right (by linarith) pos⟩
  · have : (sig : ℝ) + 1 ≤ (2 * (a * 2 ^ sh) : ℕ) := by exact_mod_cast h
    exact .inr ⟨mul_lt_mul_of_pos_right (by linarith) pos, mul_lt_mul_of_pos_right (by linarith) pos⟩

theorem RoundsTo.of_sticky {mode : RMode} {neg : Bool} {sig : ℕ} {exp q : ℤ} {r : ℕ × Bool} (h : RoundsTo mode neg (sig * 2 ^ (exp - q)) r)
    (odd : sig % 2 = 1) (room : exp + 2 ≤ q) {y : ℝ} (near : |y - sig| < 1) : RoundsTo mode neg (y * 2 ^ (exp - q)) r := by
  obtain ⟨sh, hsh⟩ : ∃ sh : ℕ, q - exp = (sh + 2 : ℕ) := ⟨(q - exp - 2).toNat, by omega⟩
  have side := half_beside_sticky odd near (pow_mul_zpow_sub hsh)
  have whole : ∀ a : ℕ, ((2 * a : ℕ) / 2 : ℝ) = a := fun a => by push_cast; ring
  refine ⟨fun e => ?_, fun e => ?_⟩
  · have same := h.exact e
    rcases side (2 * r.1) with s | s <;> rw [whole] at s <;> linarith [s.1]
  · obtain ⟨lo, below, above, chosen⟩ := h.inexact e
    have next := side (2 * (lo + 1))
    have this := side (2 * lo)
    have mid := side (2 * lo + 1)
    rw [whole] at next this
    push_cast at next mid
    refine ⟨lo, ?_, ?_, chosen.of_same_side ?_⟩
    · rcases this with s | s
      · exact s.2
      · linarith [s.1]
    · rcases next with s | s
      · linarith [s.1]
      · exact s.2
    · rw [show ((lo + (lo + 1)) / 2 : ℝ) = (2 * lo + 1) / 2 by ring]
      exact mid

end Sys2Proof.Machine
end

section
/-! PROOFS. The wide formats (R74): which values their codes have, and the code of a value. -/

namespace Sys2Proof.Machine

/-! The wide formats (R74): which values they have, and the code of a value. -/

/-- The sign of a number as a factor. -/
def signOf (neg : Bool) : ℝ := if neg then -1 else 1
@[simp] theorem signOf_true : signOf true = -1 := rfl
@[simp] theorem signOf_false : signOf false = 1 := rfl
@[simp] theorem abs_signOf (neg : Bool) : |signOf neg| = 1 := by cases neg <;> simp
/-- The value of a finite number as a real number. -/
noncomputable def FVal.real (v : FVal) : ℝ := (v.value : ℚ)
theorem FVal.real_fin (neg : Bool) (sig : ℕ) (exp : ℤ) : (FVal.fin neg sig exp).real = signOf neg * (sig * 2 ^ exp) := by
  cases neg <;> simp [FVal.real, FVal.value]
/-- A finite number is its sign, significand and exponent. -/
theorem FVal.exists_fin {v : FVal} (h : v.isFin = true) : ∃ neg sig exp, v = .fin neg sig exp := by
  cases v with
  | fin neg sig exp => exact ⟨neg, sig, exp, rfl⟩
  | inf neg => simp [FVal.isFin] at h
  | nan s => simp [FVal.isFin] at h

/-- The exponent of the units of a format's subnormal numbers (R74). -/
def Fmt.unitExp (f : Fmt) : ℤ := 1 - (f.bias : ℤ) - f.frac
/-- The exponent of the last place of a format's greatest numbers (R74). -/
def Fmt.topExp (f : Fmt) : ℤ := 2 ^ (f.size - 1 - f.frac) - 2 - (f.bias : ℤ) - f.frac
/-- A format with a sign, infinities and NaNs as IEEE 754 has them, no wider than FP32 (R74). -/
structure Fmt.Wide (f : Fmt) : Prop where
  ieee : f.spec = .ieee
  sgn : f.sgn = true
  frac : 1 ≤ f.frac ∧ f.frac ≤ 23
  exps : f.frac + 3 ≤ f.size
  max : f.maxFin = (2 ^ (f.frac + 1) - 1, f.topExp)

theorem ftypeFmt_wide (ty : FType) : (ftypeFmt ty).Wide := by
  cases ty <;> exact ⟨rfl, rfl, by decide, by decide, by decide⟩

section
variable {f : Fmt} (hf : f.Wide)
include hf

/-- The code of a sign and a magnitude. -/
theorem Fmt.Wide.decode_signed (neg : Bool) {mag : ℕ} (hm : mag < 2 ^ (f.size - 1)) (he : mag / 2 ^ f.frac ≠ 2 ^ (f.size - 1 - f.frac) - 1) :
    f.decode ((if neg then 2 ^ (f.size - 1) else 0) + mag) = f.finite neg (mag / 2 ^ f.frac) (mag % 2 ^ f.frac) := by
  have low : ((if neg then 2 ^ (f.size - 1) else 0) + mag) % 2 ^ (f.size - 1) = mag := by
    cases neg <;> simp [Nat.mod_eq_of_lt hm]
  have sign : bitAt ((if neg then 2 ^ (f.size - 1) else 0) + mag) (f.size - 1) = neg := by
    have p : 0 < 2 ^ (f.size - 1) := by positivity
    cases neg <;> simp [bitAt, Nat.div_eq_of_lt hm, Nat.add_div_left, p]
  simp [Fmt.decode, hf.ieee, hf.sgn, low, sign, he]

/-- A finite code's fields. -/
theorem Fmt.Wide.decode_finite {c : ℕ} (h : (f.decode c).isFin = true) : ∃ neg e fr, f.decode c = f.finite neg e fr ∧ fr < 2 ^ f.frac ∧
    e < 2 ^ (f.size - 1 - f.frac) - 1 := by
  have frac := hf.frac
  have exps := hf.exps
  refine ⟨bitAt c (f.size - 1), c % 2 ^ (f.size - 1) / 2 ^ f.frac, c % 2 ^ (f.size - 1) % 2 ^ f.frac, ?_, Nat.mod_lt _ (by positivity), ?_⟩
  · unfold Fmt.decode at h ⊢
    simp only [hf.ieee, hf.sgn, Bool.true_and, if_true] at h ⊢
    split_ifs at h ⊢
    · simp [FVal.isFin] at h
    · simp [FVal.isFin] at h
    · rfl
  · have lt : c % 2 ^ (f.size - 1) / 2 ^ f.frac < 2 ^ (f.size - 1 - f.frac) := by
      rw [Nat.div_lt_iff_lt_mul (by positivity), ← pow_add, Nat.sub_add_cancel (by omega)]
      exact Nat.mod_lt _ (by positivity)
    have ne : c % 2 ^ (f.size - 1) / 2 ^ f.frac ≠ 2 ^ (f.size - 1 - f.frac) - 1 := by
      intro e
      unfold Fmt.decode at h
      simp only [hf.ieee, hf.sgn, Bool.true_and, if_true, e] at h
      split_ifs at h <;> simp [FVal.isFin] at h
    omega
theorem Fmt.Wide.unitExp_le_topExp : f.unitExp ≤ f.topExp := by
  have exps := hf.exps
  have : (2 : ℤ) ^ 2 ≤ 2 ^ (f.size - 1 - f.frac) := pow_le_pow_right₀ (by norm_num) (by omega)
  unfold Fmt.unitExp Fmt.topExp
  omega
/-- The magnitude of a finite code is a multiple, of no more digits than the format has, of a power of two in its range. -/
theorem Fmt.Wide.finite_magnitude {c : ℕ} (h : (f.decode c).isFin = true) : ∃ (m : ℕ) (j : ℤ),
    |(f.decode c).real| = m * 2 ^ j ∧ m < 2 ^ (f.frac + 1) ∧ f.unitExp ≤ j ∧ j ≤ f.topExp := by
  obtain ⟨neg, e, fr, hc, hfr, he⟩ := hf.decode_finite h
  have top : (e : ℤ) + 2 ≤ 2 ^ (f.size - 1 - f.frac) := by
    have : e + 2 ≤ 2 ^ (f.size - 1 - f.frac) := by omega
    exact_mod_cast this
  have abs_value : ∀ sig exp, |(FVal.fin neg sig exp).real| = sig * 2 ^ exp := fun sig exp => by
    rw [FVal.real_fin, abs_mul, abs_signOf, one_mul, abs_of_nonneg (by positivity)]
  rw [hc, Fmt.finite]
  split
  · exact ⟨fr, f.unitExp, abs_value _ _, by rw [pow_succ]; omega, le_rfl, hf.unitExp_le_topExp⟩
  · refine ⟨2 ^ f.frac + fr, e - f.bias - f.frac, abs_value _ _, by rw [pow_succ]; omega, ?_, ?_⟩
    · unfold Fmt.unitExp; omega
    · unfold Fmt.topExp; omega

/-- Max finite as a real number. -/
noncomputable def Fmt.maxValue (f : Fmt) : ℝ := f.maxFin.1 * 2 ^ f.maxFin.2
theorem Fmt.Wide.le_maxValue {c : ℕ} (h : (f.decode c).isFin = true) : |(f.decode c).real| ≤ f.maxValue := by
  obtain ⟨m, j, hc, hm, -, hj⟩ := hf.finite_magnitude h
  rw [hc, Fmt.maxValue, hf.max]
  have : (m : ℝ) ≤ (2 ^ (f.frac + 1) - 1 : ℕ) := by exact_mod_cast Nat.le_sub_one_of_lt hm
  exact mul_le_mul this (zpow_le_zpow_right₀ (by norm_num) hj) (by positivity) (by positivity)
/-- No finite value lies between neighbouring multiples of a quantum no finer than the format has there. -/
theorem Fmt.Wide.no_value_between {c : ℕ} (h : (f.decode c).isFin = true) {q : ℤ} {lo : ℕ} (hq : q = f.unitExp ∨ 2 ^ f.frac ≤ lo) :
    |(f.decode c).real| ≤ lo * 2 ^ q ∨ (lo + 1) * 2 ^ q ≤ |(f.decode c).real| := by
  obtain ⟨m, j, hc, hm, hj, -⟩ := hf.finite_magnitude h
  rw [hc]
  by_cases le : q ≤ j
  · have grid : (m * 2 ^ j : ℝ) = (m * 2 ^ (j - q).toNat : ℕ) * 2 ^ q := by
      rw [Nat.cast_mul, Nat.cast_pow, Nat.cast_ofNat, mul_assoc, zpow_mul_pow_toNat le]
    rw [grid]
    rcases Nat.lt_or_ge lo (m * 2 ^ (j - q).toNat) with h | h
    · exact .inr (mul_le_mul_of_nonneg_right (by exact_mod_cast h) (by positivity))
    · exact .inl (mul_le_mul_of_nonneg_right (by exact_mod_cast h) (by positivity))
  · have wide : 2 ^ f.frac ≤ lo := hq.resolve_left (by omega)
    left
    calc (m * 2 ^ j : ℝ) ≤ 2 ^ (f.frac + 1) * 2 ^ (q - 1) :=
          mul_le_mul (by exact_mod_cast hm.le) (zpow_le_zpow_right₀ (by norm_num) (by omega)) (by positivity) (by positivity)
      _ = 2 ^ f.frac * 2 ^ q := by rw [pow_succ, zpow_sub_one₀ (by norm_num)]; ring
      _ ≤ lo * 2 ^ q := mul_le_mul_of_nonneg_right (by exact_mod_cast wide) (by positivity)

end

/-- magLt compares the magnitudes. -/
theorem magLt_iff (a b : ℕ) (i j : ℤ) : magLt a i b j = true ↔ (a * 2 ^ i : ℝ) < b * 2 ^ j := by
  have scaled : ∀ (m : ℕ) {k : ℤ}, min i j ≤ k → (m * 2 ^ k : ℝ) = (m * 2 ^ (k - min i j).toNat : ℕ) * 2 ^ min i j := fun m k h => by
    rw [Nat.cast_mul, Nat.cast_pow, Nat.cast_ofNat, mul_assoc, zpow_mul_pow_toNat h]
  rw [scaled a (min_le_left i j), scaled b (min_le_right i j), mul_lt_mul_iff_of_pos_right (by positivity), Nat.cast_lt]
  simp [magLt]

/-- The significand that Fmt.pack makes of a normal number. -/
def normalSig (frac n : ℕ) : ℕ := if log2 n ≤ frac then n * 2 ^ (frac - log2 n) else n / 2 ^ (log2 n - frac)
/-- It has the format's digits, the number's value at its own exponent, and its parity where that is the last place. -/
theorem normalSig_spec {frac n : ℕ} (hfr : 1 ≤ frac) (hn : n ≠ 0) (hle : n ≤ 2 ^ (frac + 1)) (q : ℤ) :
    2 ^ frac ≤ normalSig frac n ∧ normalSig frac n < 2 ^ (frac + 1) ∧ (normalSig frac n * 2 ^ (q + log2 n - frac) : ℝ) = n * 2 ^ q ∧
      (2 ^ frac ≤ n → normalSig frac n % 2 = n % 2) := by
  have lower : 2 ^ log2 n ≤ n := Nat.log2_self_le hn
  have upper : n < 2 ^ (log2 n + 1) := Nat.lt_log2_self
  by_cases h : log2 n ≤ frac
  · have hs : normalSig frac n = n * 2 ^ (frac - log2 n) := if_pos h
    have cut : ∀ a, 2 ^ a * 2 ^ (frac - log2 n) = 2 ^ (a + (frac - log2 n)) := fun a => (pow_add ..).symm
    have lo := Nat.mul_le_mul_right (2 ^ (frac - log2 n)) lower
    have hi := Nat.mul_lt_mul_of_pos_right upper (show 0 < 2 ^ (frac - log2 n) by positivity)
    rw [cut, Nat.add_sub_cancel' h] at lo
    rw [cut, show log2 n + 1 + (frac - log2 n) = frac + 1 by omega] at hi
    refine ⟨hs ▸ lo, hs ▸ hi, ?_, fun wide => ?_⟩
    · rw [hs, Nat.cast_mul, mul_assoc, Nat.cast_pow, Nat.cast_ofNat, ← zpow_natCast, ← zpow_add₀ (by norm_num)]
      congr 2
      omega
    · have : log2 n = frac := le_antisymm h ((Nat.le_log2 hn).mpr wide)
      rw [hs, this, Nat.sub_self, pow_zero, mul_one]
  · have eq : n = 2 ^ (frac + 1) := le_antisymm hle (le_trans (Nat.pow_le_pow_right (by norm_num) (by omega)) lower)
    have hl : log2 n = frac + 1 := by rw [eq]; exact Nat.log2_two_pow
    have hs : normalSig frac n = 2 ^ frac := by
      rw [normalSig, if_neg h, hl, Nat.add_sub_cancel_left, eq, pow_succ]
      omega
    refine ⟨hs.ge, hs ▸ Nat.pow_lt_pow_right (by norm_num) (by omega), ?_, fun _ => ?_⟩
    · rw [hs, hl, eq]
      push_cast
      rw [← zpow_natCast, ← zpow_natCast, ← zpow_add₀ (by norm_num), ← zpow_add₀ (by norm_num)]
      congr 1
      push_cast; ring
    · rw [hs, eq, two_pow_even (by omega), two_pow_even (by omega)]

section
variable {f : Fmt} (hf : f.Wide)
include hf

theorem Fmt.Wide.code_lt {mag : ℕ} (neg : Bool) (hm : mag < 2 ^ (f.size - 1)) : (if neg then 2 ^ (f.size - 1) else 0) + mag < 2 ^ f.size := by
  have := hf.exps
  have twice : 2 ^ f.size = 2 * 2 ^ (f.size - 1) := by rw [← pow_succ']; congr 1; omega
  cases neg <;> simp only [if_true, Bool.false_eq_true, if_false] <;> omega
theorem Fmt.Wide.even_sign (neg : Bool) : (if neg then 2 ^ (f.size - 1) else 0) % 2 = 0 := by
  have := hf.exps
  cases neg
  · rfl
  · exact two_pow_even (by omega)

/-- c is the code of n x 2^q of a sign, even where n is. -/
structure Fmt.Codes (f : Fmt) (neg : Bool) (n : ℕ) (q : ℤ) (c : ℕ) : Prop where
  lt : c < 2 ^ f.size
  fin : (f.decode c).isFin = true
  value : (f.decode c).real = signOf neg * (n * 2 ^ q)
  even : q = f.unitExp ∨ 2 ^ f.frac ≤ n → c % 2 = n % 2

theorem Fmt.Wide.zero_codes (neg : Bool) (q : ℤ) : f.Codes neg 0 q (f.zero neg) := by
  have exps := hf.exps
  have zero : f.zero neg = (if neg then 2 ^ (f.size - 1) else 0) + 0 := by simp [Fmt.zero, hf.ieee]
  have low : (0 : ℕ) < 2 ^ (f.size - 1) := by positivity
  have field : 0 / 2 ^ f.frac ≠ 2 ^ (f.size - 1 - f.frac) - 1 := by
    rw [Nat.zero_div]
    have : 2 ^ 1 ≤ 2 ^ (f.size - 1 - f.frac) := Nat.pow_le_pow_right (by norm_num) (by omega)
    omega
  have decoded := hf.decode_signed neg low field
  rw [← zero, Nat.zero_div, Nat.zero_mod, Fmt.finite, if_pos rfl] at decoded
  refine ⟨zero ▸ hf.code_lt neg low, ?_, ?_, fun _ => ?_⟩
  · rw [decoded]; rfl
  · rw [decoded, FVal.real_fin, Nat.cast_zero, zero_mul, zero_mul]
  · rw [zero, Nat.add_zero, hf.even_sign]

/-- A number below the normal ones is packed as it stands. -/
theorem Fmt.Wide.pack_subnormal (neg : Bool) {n : ℕ} {q : ℤ} (hq : f.unitExp ≤ q) (low : q + (log2 n : ℤ) < 1 - (f.bias : ℤ)) :
    f.Codes neg n q (f.pack neg n q) := by
  have exps := hf.exps
  obtain ⟨k, hk⟩ : ∃ k : ℕ, q - f.unitExp = k := ⟨(q - f.unitExp).toNat, by omega⟩
  have small : n * 2 ^ k < 2 ^ f.frac :=
    calc n * 2 ^ k < 2 ^ (n.log2 + 1) * 2 ^ k := Nat.mul_lt_mul_of_pos_right Nat.lt_log2_self (by positivity)
      _ = 2 ^ (n.log2 + 1 + k) := (pow_add ..).symm
      _ ≤ 2 ^ f.frac := Nat.pow_le_pow_right (by norm_num) (by unfold Fmt.unitExp at hk; unfold log2 at low; omega)
  have code : f.pack neg n q = (if neg then 2 ^ (f.size - 1) else 0) + n * 2 ^ k := by
    unfold Fmt.unitExp at hk
    simp [Fmt.pack, hf.sgn, low, hk]
  have inside : n * 2 ^ k < 2 ^ (f.size - 1) := small.trans_le (Nat.pow_le_pow_right (by norm_num) (by omega))
  have field : n * 2 ^ k / 2 ^ f.frac = 0 := Nat.div_eq_of_lt small
  have two : 2 ^ 1 ≤ 2 ^ (f.size - 1 - f.frac) := Nat.pow_le_pow_right (by norm_num) (by omega)
  have decoded := hf.decode_signed neg inside (by omega)
  rw [field, Nat.mod_eq_of_lt small, Fmt.finite, if_pos rfl, ← code] at decoded
  refine ⟨code ▸ hf.code_lt neg inside, ?_, ?_, fun h => ?_⟩
  · rw [decoded]; rfl
  · rw [decoded, FVal.real_fin]
    have : (2 : ℝ) ^ k * 2 ^ f.unitExp = 2 ^ q := by rw [← zpow_mul_pow_toNat hq, hk]; rfl
    rw [← this]
    push_cast
    rw [mul_assoc]; rfl
  · have k0 : k = 0 := by
      rcases h with h | h
      · omega
      · by_contra
        have : n * 1 ≤ n * 2 ^ k := Nat.mul_le_mul_left n (Nat.one_le_two_pow)
        omega
    rw [code, k0, Nat.add_mod, hf.even_sign]
    simp

/-- A normal significand of a number no greater than max finite has no greater exponent than max finite has. -/
theorem Fmt.Wide.exp_le_top {sig : ℕ} {j : ℤ} (lower : 2 ^ f.frac ≤ sig) (hmax : (sig * 2 ^ j : ℝ) ≤ f.maxValue) : j ≤ f.topExp := by
  have below : (2 : ℝ) ^ (f.frac + j) < 2 ^ (f.frac + (f.topExp + 1)) :=
    calc (2 : ℝ) ^ (f.frac + j) = 2 ^ f.frac * 2 ^ j := by rw [zpow_add₀ (by norm_num), zpow_natCast]
      _ ≤ sig * 2 ^ j := mul_le_mul_of_nonneg_right (by exact_mod_cast lower) (by positivity)
      _ ≤ f.maxValue := hmax
      _ < 2 ^ (f.frac + 1) * 2 ^ f.topExp := by
          rw [Fmt.maxValue, hf.max]
          refine mul_lt_mul_of_pos_right ?_ (by positivity)
          exact_mod_cast Nat.sub_lt (show 0 < 2 ^ (f.frac + 1) by positivity) one_pos
      _ = 2 ^ (f.frac + (f.topExp + 1)) := by rw [zpow_add₀ (by norm_num), zpow_add_one₀ (by norm_num), zpow_natCast, pow_succ]; ring
  have := (zpow_lt_zpow_iff_right₀ (by norm_num)).mp below
  omega
/-- A normal number no greater than max finite is packed into its fields. -/
theorem Fmt.Wide.pack_normal (neg : Bool) {n : ℕ} {q : ℤ} (hn : n ≠ 0) (hle : n ≤ 2 ^ (f.frac + 1)) (hmax : (n * 2 ^ q : ℝ) ≤ f.maxValue)
    (high : ¬ q + (log2 n : ℤ) < 1 - (f.bias : ℤ)) : f.Codes neg n q (f.pack neg n q) := by
  have exps := hf.exps
  obtain ⟨lower, upper, value, even⟩ := normalSig_spec hf.frac.1 hn hle q
  obtain ⟨e, he⟩ : ∃ e : ℕ, q + (log2 n : ℤ) + f.bias = (e + 1 : ℕ) := ⟨(q + (log2 n : ℤ) + f.bias - 1).toNat, by omega⟩
  have code : f.pack neg n q = (if neg then 2 ^ (f.size - 1) else 0) + ((e + 1) * 2 ^ f.frac + (normalSig f.frac n - 2 ^ f.frac)) := by
    simp only [Fmt.pack, high, hf.sgn, he, Bool.true_and, if_false, Int.toNat_natCast, Nat.add_assoc]
    rfl
  generalize normalSig f.frac n = sig at lower upper value even code
  have fr : sig - 2 ^ f.frac < 2 ^ f.frac := by rw [pow_succ] at upper; omega
  have p : 0 < 2 ^ f.frac := by positivity
  have field : ((e + 1) * 2 ^ f.frac + (sig - 2 ^ f.frac)) / 2 ^ f.frac = e + 1 := by
    rw [Nat.mul_comm, Nat.mul_add_div p, Nat.div_eq_of_lt fr, Nat.add_zero]
  have rest : ((e + 1) * 2 ^ f.frac + (sig - 2 ^ f.frac)) % 2 ^ f.frac = sig - 2 ^ f.frac := by
    rw [Nat.mul_comm, Nat.mul_add_mod, Nat.mod_eq_of_lt fr]
  have bound := hf.exp_le_top lower (value ▸ hmax)
  have inside : e + 1 < 2 ^ (f.size - 1 - f.frac) - 1 := by
    have : ((e + 1 : ℕ) : ℤ) + 1 < (2 ^ (f.size - 1 - f.frac) : ℕ) := by
      push_cast
      unfold Fmt.topExp at bound
      omega
    omega
  have mag : (e + 1) * 2 ^ f.frac + (sig - 2 ^ f.frac) < 2 ^ (f.size - 1) :=
    calc (e + 1) * 2 ^ f.frac + (sig - 2 ^ f.frac) < (e + 1) * 2 ^ f.frac + 2 ^ f.frac := by omega
      _ = (e + 2) * 2 ^ f.frac := by ring
      _ ≤ 2 ^ (f.size - 1 - f.frac) * 2 ^ f.frac := Nat.mul_le_mul_right _ (by omega)
      _ = 2 ^ (f.size - 1) := by rw [← pow_add]; congr 1; omega
  have decoded := hf.decode_signed neg mag (by omega)
  rw [field, rest, ← code, Fmt.finite, if_neg (Nat.succ_ne_zero e), Nat.add_sub_cancel' lower] at decoded
  refine ⟨code ▸ hf.code_lt neg mag, ?_, ?_, fun h => ?_⟩
  · rw [decoded]; rfl
  · rw [decoded, FVal.real_fin, ← value]
    congr 3
    omega
  · have wide : 2 ^ f.frac ≤ n := by
      refine h.elim (fun h => ?_) id
      unfold Fmt.unitExp at h
      have long : f.frac ≤ log2 n := by omega
      exact (Nat.pow_le_pow_right (by norm_num) long).trans (Nat.log2_self_le hn)
    have sign := hf.even_sign neg
    have power : 2 ^ f.frac % 2 = 0 := two_pow_even (by have := hf.frac; omega)
    have : (e + 1) * 2 ^ f.frac % 2 = 0 := by rw [Nat.mul_mod, power, Nat.mul_zero, Nat.zero_mod]
    have := even wide
    omega
theorem Fmt.Wide.pack_codes (neg : Bool) {n : ℕ} {q : ℤ} (hn : n ≠ 0) (hle : n ≤ 2 ^ (f.frac + 1)) (hmax : (n * 2 ^ q : ℝ) ≤ f.maxValue)
    (hq : f.unitExp ≤ q) : f.Codes neg n q (f.pack neg n q) := by
  by_cases h : q + (log2 n : ℤ) < 1 - (f.bias : ℤ)
  · exact hf.pack_subnormal neg hq h
  · exact hf.pack_normal neg hn hle hmax h
end

end Sys2Proof.Machine
end

section
/-! PROOFS. Correct rounding to a wide format (R84 to R87, R90): the code delivered names the value that the mode takes among all of the format's. -/

namespace Sys2Proof.Machine

/-! A magnitude Y between neighbours A and B, and a number v whose own magnitude is not between them. -/

section
variable {A B Y W v : ℝ}

theorem outside_gap (hv : |v| ≤ A ∨ B ≤ |v|) : (-A ≤ v ∧ v ≤ A) ∨ B ≤ v ∨ v ≤ -B :=
  hv.imp abs_le.mp fun h => (le_abs.mp h).imp id fun h => by linarith

variable (hA : 0 ≤ A) (hAY : A < Y) (hYB : Y < B)
include hAY hYB

/-- The distance to the nearer neighbour. -/
theorem dist_nearer (near : W = A ∧ Y - A ≤ B - Y ∨ W = B ∧ B - Y ≤ Y - A) : |W - Y| = min (Y - A) (B - Y) := by
  rcases near with ⟨rfl, d⟩ | ⟨rfl, d⟩
  · rw [min_eq_left d, abs_of_neg (by linarith)]; ring
  · rw [min_eq_right d, abs_of_pos (by linarith)]

variable (hv : |v| ≤ A ∨ B ≤ |v|)
include hA hv

theorem le_lower (h : v ≤ Y) : v ≤ A := by
  rcases outside_gap hv with ⟨_, _⟩ | h | h <;> linarith
theorem upper_le (h : Y ≤ v) : B ≤ v := by
  rcases outside_gap hv with ⟨_, _⟩ | h | h <;> linarith
theorem min_dist_le : min (Y - A) (B - Y) ≤ |v - Y| := by
  rcases outside_gap hv with ⟨h1, h2⟩ | h | h
  · exact (min_le_left _ _).trans (le_abs.mpr (.inr (by linarith)))
  · exact (min_le_right _ _).trans (le_abs.mpr (.inl (by linarith)))
  · exact (min_le_left _ _).trans (le_abs.mpr (.inr (by linarith)))
/-- A number as far from Y as the nearer neighbour is that neighbour, or both neighbours are as far. -/
theorem tie_of_same_dist (near : W = A ∧ Y - A ≤ B - Y ∨ W = B ∧ B - Y ≤ Y - A) (same : |W - Y| = |v - Y|) (hne : v ≠ W) : Y - A = B - Y := by
  by_contra tie
  refine hne ?_
  rcases near with ⟨rfl, d⟩ | ⟨rfl, d⟩
  · rw [abs_of_neg (by linarith)] at same
    rcases outside_gap hv with ⟨h1, h2⟩ | h | h
    · rw [abs_of_neg (by linarith)] at same; linarith
    · rw [abs_of_pos (by linarith)] at same; exact absurd (by linarith) tie
    · rw [abs_of_neg (by linarith)] at same; linarith
  · rw [abs_of_pos (by linarith)] at same
    rcases outside_gap hv with ⟨h1, h2⟩ | h | h
    · rw [abs_of_neg (by linarith)] at same; exact absurd (by linarith) tie
    · rw [abs_of_pos (by linarith)] at same; linarith
    · rw [abs_of_neg (by linarith)] at same; linarith
/-- No number as far from Y is greater in magnitude than the neighbour that takes ties away from zero. -/
theorem abs_le_of_same_dist (away : W = A ∧ Y - A < B - Y ∨ W = B ∧ B - Y ≤ Y - A) (same : |W - Y| = |v - Y|) : |v| ≤ W := by
  have reach : |v| ≤ Y + |v - Y| := by
    have := abs_add_le Y (v - Y)
    rwa [add_sub_cancel, abs_of_pos (by linarith : 0 < Y)] at this
  rcases away with ⟨rfl, d⟩ | ⟨rfl, d⟩
  · rw [← same, abs_of_neg (by linarith : W - Y < 0)] at reach
    exact hv.resolve_right (by linarith)
  · rw [← same, abs_of_pos (by linarith : 0 < W - Y)] at reach
    linarith
theorem not_between (ends : W = A ∨ W = B) : ¬ (min W Y < v ∧ v < max W Y) := by
  rintro ⟨h1, h2⟩
  rcases ends with rfl | rfl
  · rw [min_eq_left hAY.le] at h1
    rw [max_eq_right hAY.le] at h2
    exact absurd (le_lower hA hAY hYB hv h2.le) (not_le.mpr h1)
  · rw [min_eq_right hYB.le] at h1
    rw [max_eq_left hYB.le] at h2
    exact absurd (upper_le hA hAY hYB hv h1.le) (not_le.mpr h2)
end

/-! Both sides multiplied by one sign. -/

theorem signOf_signOf (neg : Bool) (a : ℝ) : signOf neg * (signOf neg * a) = a := by cases neg <;> simp
theorem signOf_mul_inj {neg : Bool} {a b : ℝ} (h : signOf neg * a = signOf neg * b) : a = b := by
  rw [← signOf_signOf neg a, h, signOf_signOf]
theorem abs_signOf_mul (neg : Bool) (a : ℝ) : |signOf neg * a| = |a| := by rw [abs_mul, abs_signOf, one_mul]
theorem abs_sub_signOf (neg : Bool) (v Y : ℝ) : |v - signOf neg * Y| = |signOf neg * v - Y| := by
  rw [← abs_signOf_mul neg, mul_sub, signOf_signOf]
theorem between_signOf {neg : Bool} {v W Y : ℝ} (h : min (signOf neg * W) (signOf neg * Y) < v ∧ v < max (signOf neg * W) (signOf neg * Y)) :
    min W Y < signOf neg * v ∧ signOf neg * v < max W Y := by
  cases neg with
  | false => simpa using h
  | true =>
    rw [signOf_true, neg_one_mul, neg_one_mul, min_neg_neg, max_neg_neg] at h
    exact ⟨by rw [signOf_true]; linarith, by rw [signOf_true]; linarith⟩

/-! The rounding among all of a format's values (R84). -/

section
variable {f : Fmt} {mode : RMode} {c : ℕ} (hc : c < 2 ^ f.size) (fin : (f.decode c).isFin = true)
include hc fin

/-- A code that names the number itself is its rounding in every mode. -/
theorem roundedTo_self : RoundedTo f mode (f.decode c).real c := by
  refine ⟨⟨hc, fin⟩, ?_⟩
  unfold FVal.real
  dsimp only
  cases mode with
  | rne =>
    rw [sub_self, abs_zero]
    exact ⟨fun u _ => abs_nonneg _, fun u _ hne e => absurd (sub_eq_zero.mp (abs_eq_zero.mp e.symm)) hne⟩
  | rna =>
    rw [sub_self, abs_zero]
    exact ⟨fun u _ => abs_nonneg _, fun u _ e => by rw [sub_eq_zero.mp (abs_eq_zero.mp e.symm)]⟩
  | rtz => exact ⟨mul_self_nonneg _, le_rfl, fun u _ _ h => h⟩
  | rup => exact ⟨le_rfl, fun u _ h => h⟩
  | rdn => exact ⟨le_rfl, fun u _ h => h⟩
  | sr => exact fun u _ h => by rw [min_self, max_self] at h; exact lt_asymm h.1 h.2

/-- A code that names the neighbour that the mode takes is the rounding, where no value lies between the neighbours. -/
theorem roundedTo_of_gap {neg : Bool} {A B Y W : ℝ} (hw : (f.decode c).real = signOf neg * W) (hA : 0 ≤ A) (hAY : A < Y) (hYB : Y < B)
    (gap : ∀ u, (f.decode u).isFin = true → |(f.decode u).real| ≤ A ∨ B ≤ |(f.decode u).real|)
    (chosen : Chosen mode neg (c % 2 = 0) A B Y W) : RoundedTo f mode (signOf neg * Y) c := by
  have signed : ∀ u, (f.decode u).isFin = true → |signOf neg * (f.decode u).real| ≤ A ∨ B ≤ |signOf neg * (f.decode u).real| := fun u hu => by
    rw [abs_signOf_mul]; exact gap u hu
  have dist : |(f.decode c).real - signOf neg * Y| = |W - Y| := by rw [abs_sub_signOf, hw, signOf_signOf]
  refine ⟨⟨hc, fin⟩, ?_⟩
  cases mode with
  | rne =>
    obtain ⟨near, tie⟩ := chosen
    refine ⟨fun u hu => ?_, fun u hu hne same => tie (tie_of_same_dist hA hAY hYB (signed u hu.2) near ?_ fun e => hne ?_)⟩
    · exact (dist.trans (dist_nearer hAY hYB near)).trans_le ((min_dist_le hA hAY hYB (signed u hu.2)).trans_eq (abs_sub_signOf ..).symm)
    · exact dist.symm.trans (same.trans (abs_sub_signOf ..))
    · show (f.decode u).real = (f.decode c).real
      rw [hw, ← e, signOf_signOf]
  | rna =>
    have near := Or.imp_left (And.imp_right le_of_lt) chosen
    refine ⟨fun u hu => ?_, fun u hu same => ?_⟩
    · exact (dist.trans (dist_nearer hAY hYB near)).trans_le ((min_dist_le hA hAY hYB (signed u hu.2)).trans_eq (abs_sub_signOf ..).symm)
    · have le := abs_le_of_same_dist hA hAY hYB (signed u hu.2) chosen (dist.symm.trans (same.trans (abs_sub_signOf ..)))
      show |(f.decode u).real| ≤ |(f.decode c).real|
      rw [hw, abs_signOf_mul, ← abs_signOf_mul neg]
      exact le.trans (le_abs_self W)
  | rtz =>
    obtain rfl : W = A := chosen
    have mag : |(f.decode c).real| = W := by rw [hw, abs_signOf_mul, abs_of_nonneg hA]
    have size : |signOf neg * Y| = Y := by rw [abs_signOf_mul, abs_of_pos (by linarith)]
    refine ⟨?_, mag.trans_le (hAY.le.trans size.ge), fun u hu _ le => ?_⟩
    · show 0 ≤ (f.decode c).real * (signOf neg * Y)
      rw [hw, mul_mul_mul_comm, ← abs_mul_abs_self, abs_signOf, one_mul, one_mul]
      exact mul_nonneg hA (by linarith)
    · exact ((gap u hu.2).resolve_right (not_le.mpr ((le.trans_eq size).trans_lt hYB))).trans mag.ge
  | rup =>
    show _ ≤ (f.decode c).real ∧ ∀ u, _ → _ ≤ (f.decode u).real → (f.decode c).real ≤ (f.decode u).real
    rw [hw]
    cases neg with
    | false =>
      obtain rfl : W = B := chosen
      rw [signOf_false, one_mul, one_mul]
      exact ⟨hYB.le, fun u hu le => upper_le hA hAY hYB (gap u hu.2) le⟩
    | true =>
      obtain rfl : W = A := chosen
      rw [signOf_true, neg_one_mul, neg_one_mul]
      exact ⟨neg_le_neg hAY.le, fun u hu le => neg_le.mp (le_lower hA hAY hYB (by rw [abs_neg]; exact gap u hu.2) (neg_le.mp le))⟩
  | rdn =>
    show (f.decode c).real ≤ _ ∧ ∀ u, _ → (f.decode u).real ≤ _ → (f.decode u).real ≤ (f.decode c).real
    rw [hw]
    cases neg with
    | false =>
      obtain rfl : W = A := chosen
      rw [signOf_false, one_mul, one_mul]
      exact ⟨hAY.le, fun u hu le => le_lower hA hAY hYB (gap u hu.2) le⟩
    | true =>
      obtain rfl : W = B := chosen
      rw [signOf_true, neg_one_mul, neg_one_mul]
      exact ⟨neg_le_neg hYB.le, fun u hu le => le_neg.mp (upper_le hA hAY hYB (by rw [abs_neg]; exact gap u hu.2) (le_neg.mp le))⟩
  | sr =>
    intro u hu between
    have apart : min (signOf neg * W) (signOf neg * Y) < (f.decode u).real ∧ (f.decode u).real < max (signOf neg * W) (signOf neg * Y) := by
      rw [← hw]; exact between
    exact not_between hA hAY hYB (signed u hu.2) chosen (between_signOf apart)
end

/-! Rounding to a wide format without saturation (R85 to R87): the code names the multiple of the quantum that the mode takes. -/

/-- The quantum of a magnitude in a format (R85). -/
def Fmt.quantum (f : Fmt) (sig : ℕ) (exp : ℤ) : ℤ := max (exp + (log2 sig : ℤ) - f.frac) f.unitExp
theorem Fmt.quantise_le_max {f : Fmt} {mode : RMode} {sig : ℕ} {exp : ℤ} (h : ¬ (mode = .sr ∧ f.maxValue < sig * 2 ^ exp))
    (neg : Bool) (x : Word) :
    f.quantise mode neg sig exp x = ((roundAt mode neg sig exp (f.quantum sig exp) x).1, f.quantum sig exp,
      (roundAt mode neg sig exp (f.quantum sig exp) x).2) := by
  unfold Fmt.maxValue at h
  rw [← magLt_iff] at h
  have off : ¬ ((decide (mode = .sr) && magLt f.maxFin.1 f.maxFin.2 sig exp) = true) := by simpa using h
  unfold Fmt.quantise
  rw [if_neg off]
  rfl
theorem Fmt.quantise_above_max {f : Fmt} {sig : ℕ} {exp : ℤ} (h : f.maxValue < sig * 2 ^ exp) (neg : Bool) (x : Word) :
    ∃ n, f.quantise .sr neg sig exp x = (n, f.maxFin.2, true) ∧ (n = f.maxFin.1 ∨ n = f.maxFin.1 + 1) := by
  unfold Fmt.maxValue at h
  rw [← magLt_iff] at h
  unfold Fmt.quantise
  rw [if_pos (by simpa using h)]
  exact ⟨_, rfl, by split <;> simp⟩
/-- In units of its quantum a magnitude has no more digits than the format, and no fewer unless the quantum is the least. -/
theorem Fmt.lt_of_quantum (f : Fmt) {sig : ℕ} (exp : ℤ) : (sig * 2 ^ (exp - f.quantum sig exp) : ℝ) < 2 ^ (f.frac + 1) := by
  calc (sig * 2 ^ (exp - f.quantum sig exp) : ℝ) < 2 ^ (log2 sig + 1) * 2 ^ (exp - f.quantum sig exp) :=
        mul_lt_mul_of_pos_right (by exact_mod_cast Nat.lt_log2_self) (by positivity)
    _ = 2 ^ ((log2 sig + 1 : ℕ) + (exp - f.quantum sig exp)) := by rw [zpow_add₀ (by norm_num), zpow_natCast]
    _ ≤ 2 ^ ((f.frac + 1 : ℕ) : ℤ) := zpow_le_zpow_right₀ (by norm_num) (by unfold quantum; push_cast; omega)
    _ = 2 ^ (f.frac + 1) := zpow_natCast ..
theorem Fmt.le_of_quantum (f : Fmt) {sig : ℕ} {exp : ℤ} {y : ℝ} (h : (2 ^ log2 sig : ℝ) ≤ y) :
    f.quantum sig exp = f.unitExp ∨ (2 ^ f.frac : ℝ) ≤ y * 2 ^ (exp - f.quantum sig exp) := by
  rcases max_choice (exp + (log2 sig : ℤ) - f.frac) f.unitExp with e | e
  · right
    rw [Fmt.quantum, e]
    calc (2 ^ f.frac : ℝ) = 2 ^ log2 sig * 2 ^ (exp - (exp + log2 sig - f.frac)) := by
          rw [← zpow_natCast, ← zpow_natCast, ← zpow_add₀ (by norm_num)]; congr 1; ring
      _ ≤ _ := mul_le_mul_of_nonneg_right h (by positivity)
  · exact .inl e

section
variable {mode : RMode} {neg : Bool} {y : ℝ} {r : ℕ × Bool}
theorem RoundsTo.le (h : RoundsTo mode neg y r) {b : ℕ} (hy : y < b) : r.1 ≤ b := by
  cases e : r.2 with
  | false =>
    have := h.exact e
    exact_mod_cast (this.trans_lt hy).le
  | true =>
    obtain ⟨lo, below, -, chosen⟩ := h.inexact e
    have : lo + 1 ≤ b := by exact_mod_cast below.trans hy
    have := chosen.nat_lower_or_upper
    omega
theorem RoundsTo.inexact_of_zero (h : RoundsTo mode neg y r) (hy : 0 < y) (hr : r.1 = 0) : r.2 = true := by
  by_contra e
  have := h.exact (by simpa using e)
  rw [hr, Nat.cast_zero] at this
  exact hy.ne this
end

section
variable {f : Fmt} (hf : f.Wide) {mode : RMode} {neg : Bool}
include hf

omit hf in
theorem Fmt.maxValue_nonneg (f : Fmt) : 0 ≤ f.maxValue := by unfold Fmt.maxValue; positivity
theorem Fmt.Wide.overflow_flagged (mode : RMode) (neg : Bool) : (f.overflow mode false neg).2 &&& flOverflow ≠ 0 := by
  unfold Fmt.overflow Fmt.infCode
  rw [hf.ieee]
  cases h : towardZero mode neg <;> simp [flOverflow, flInexact]
/-- What Fmt.round makes of its quantised magnitude: where it does not overflow, the code of that multiple, flagged inexact as it is. -/
theorem Fmt.Wide.round_codes {sig : ℕ} {exp : ℤ} {x : Word} {n : ℕ} {q : ℤ} {inx : Bool} (hs : sig ≠ 0)
    (hr : f.quantise mode neg sig exp x = (n, q, inx)) (hn : n ≤ 2 ^ (f.frac + 1)) (hq : f.unitExp ≤ q) (hz : n = 0 → inx = true)
    (fits : (f.round mode false false x (.fin neg sig exp)).2 &&& flOverflow = 0) :
    f.Codes neg n q (f.round mode false false x (.fin neg sig exp)).1 ∧ (n * 2 ^ q : ℝ) ≤ f.maxValue ∧
      ((f.round mode false false x (.fin neg sig exp)).2 &&& flInexact ≠ 0 ↔ inx = true) := by
  have sgn : (neg && !f.sgn) = false := by simp [hf.sgn]
  simp only [Fmt.round, hs, hr, sgn, if_false, Bool.and_false, Bool.false_eq_true] at fits ⊢
  by_cases n0 : n = 0
  · subst n0
    rw [if_pos rfl, hz rfl]
    exact ⟨hf.zero_codes neg q, by simpa using f.maxValue_nonneg, by simp [flInexact, flUnderflow]⟩
  · rw [if_neg n0] at fits ⊢
    by_cases beyond : magLt f.maxFin.1 f.maxFin.2 n q = true
    · rw [if_pos beyond] at fits
      exact absurd fits (hf.overflow_flagged mode neg)
    · rw [if_neg beyond]
      have hmax : (n * 2 ^ q : ℝ) ≤ f.maxValue := not_lt.mp (mt (magLt_iff _ _ _ _).mpr beyond)
      refine ⟨hf.pack_codes neg n0 hn hmax hq, hmax, ?_⟩
      cases inx <;> cases magLt n q 1 (1 - (f.bias : ℤ)) <;> simp [flInexact, flUnderflow]

/-- The code of a number rounded at a quantum is the number rounded to the format. -/
theorem Fmt.Wide.roundedTo_of_roundsTo {y : ℝ} {r : ℕ × Bool} {q : ℤ} {c : ℕ} (h : RoundsTo mode neg y r)
    (hq : q = f.unitExp ∨ (2 ^ f.frac : ℝ) ≤ y) (codes : f.Codes neg r.1 q c) :
    RoundedTo f mode (signOf neg * (y * 2 ^ q)) c ∧ (r.2 = true ↔ (f.decode c).real ≠ signOf neg * (y * 2 ^ q)) := by
  have pos : (0 : ℝ) < 2 ^ q := by positivity
  cases e : r.2 with
  | false =>
    have same : (f.decode c).real = signOf neg * (y * 2 ^ q) := by rw [codes.value, h.exact e]
    exact ⟨same ▸ roundedTo_self codes.lt codes.fin, by simp [same]⟩
  | true =>
    obtain ⟨lo, below, above, chosen⟩ := h.inexact e
    have wide : q = f.unitExp ∨ 2 ^ f.frac ≤ lo := hq.imp id fun h => by
      have : (2 ^ f.frac : ℝ) < lo + 1 := h.trans_lt above
      exact Nat.lt_succ_iff.mp (by exact_mod_cast this)
    have even : (r.1 % 2 = 0) = (c % 2 = 0) := by
      rw [codes.even (wide.imp id fun h => h.trans ?_)]
      have := chosen.nat_lower_or_upper
      omega
    refine ⟨roundedTo_of_gap codes.lt codes.fin codes.value (by positivity) (mul_lt_mul_of_pos_right below pos)
      (mul_lt_mul_of_pos_right above pos) (fun u hu => hf.no_value_between hu wide) (even ▸ chosen.scale pos), iff_of_true rfl ?_⟩
    rw [codes.value]
    intro same
    have : (r.1 : ℝ) = y := mul_right_cancel₀ pos.ne' (signOf_mul_inj same)
    rcases chosen.lower_or_upper with w | w <;> linarith
/-- Max finite is the stochastic rounding of every greater magnitude that does not overflow (R85, R86). -/
theorem Fmt.Wide.roundedTo_max {Y : ℝ} {c : ℕ} (h : f.maxValue < Y) (codes : f.Codes neg f.maxFin.1 f.maxFin.2 c) :
    RoundedTo f .sr (signOf neg * Y) c ∧ (f.decode c).real ≠ signOf neg * Y := by
  refine ⟨roundedTo_of_gap codes.lt codes.fin codes.value f.maxValue_nonneg h (lt_add_one Y) (fun u hu => .inl (hf.le_maxValue hu)) (.inl rfl), ?_⟩
  rw [codes.value]
  exact fun same => h.ne (signOf_mul_inj same)
end

/-! Exact results and results with a sticky bit. -/

/-- sig is the number y, or y with its digits cut off after 64 at the earliest and a last one set that says so. -/
def SigStands (sig : ℕ) (y : ℝ) : Prop := y = sig ∨ sig % 2 = 1 ∧ 2 ^ 64 ≤ sig ∧ |y - sig| < 1
/-- v is the number x, exactly or with a sticky last bit (R84). -/
def FVal.Stands (v : FVal) (x : ℝ) : Prop :=
  ∃ neg sig exp y, v = .fin neg sig exp ∧ x = signOf neg * (y * 2 ^ exp) ∧ SigStands sig y
theorem FVal.stands_real {v : FVal} (h : v.isFin = true) : v.Stands v.real := by
  obtain ⟨neg, sig, exp, rfl⟩ := FVal.exists_fin h
  exact ⟨neg, sig, exp, sig, rfl, FVal.real_fin neg sig exp, Or.inl rfl⟩

section
variable {f : Fmt} (hf : f.Wide) {sig : ℕ} {exp : ℤ} {y : ℝ} (stands : SigStands sig y)
include stands

theorem sticky_le (hs : sig ≠ 0) : (2 ^ log2 sig : ℝ) ≤ y := by
  have lower : 2 ^ log2 sig ≤ sig := Nat.log2_self_le hs
  rcases stands with rfl | ⟨odd, long, near⟩
  · exact_mod_cast lower
  · have digits : 64 ≤ log2 sig := (Nat.le_log2 hs).mpr long
    have : 2 ^ log2 sig ≠ sig := fun e => by
      have := two_pow_even (by omega : log2 sig ≠ 0)
      omega
    have next : (2 ^ log2 sig + 1 : ℝ) ≤ sig := by exact_mod_cast lower.lt_of_ne this
    linarith [(abs_lt.mp near).1]

include hf

theorem Fmt.Wide.roundAt_stands (mode : RMode) (neg : Bool) (x : Word) (hs : sig ≠ 0) :
    RoundsTo mode neg (y * 2 ^ (exp - f.quantum sig exp)) (roundAt mode neg sig exp (f.quantum sig exp) x) := by
  have rounds := roundAt_roundsTo mode neg sig exp (f.quantum sig exp) x
  rcases stands with rfl | ⟨odd, long, near⟩
  · exact rounds
  · refine rounds.of_sticky odd ?_ near
    have digits : 64 ≤ log2 sig := (Nat.le_log2 hs).mpr long
    have := hf.frac.2
    have := le_max_left (exp + (log2 sig : ℤ) - f.frac) f.unitExp
    unfold quantum
    omega
theorem Fmt.Wide.max_lt_stands (h : f.maxValue < sig * 2 ^ exp) : f.maxValue < y * 2 ^ exp := by
  rcases stands with rfl | ⟨odd, long, near⟩
  · exact h
  rw [Fmt.maxValue, hf.max] at h ⊢
  by_cases room : exp + 2 ≤ f.topExp
  · obtain ⟨sh, hsh⟩ : ∃ sh : ℕ, f.topExp - exp = (sh + 2 : ℕ) := ⟨(f.topExp - exp - 2).toNat, by omega⟩
    have split : ∀ a : ℝ, a * 2 ^ exp = a * 2 ^ (exp - f.topExp) * 2 ^ f.topExp := fun a => by
      rw [mul_assoc, ← zpow_add₀ (by norm_num), sub_add_cancel]
    have top : (0 : ℝ) < 2 ^ f.topExp := by positivity
    have side := half_beside_sticky odd near (pow_mul_zpow_sub hsh) (2 * (2 ^ (f.frac + 1) - 1))
    rw [show ((2 * (2 ^ (f.frac + 1) - 1) : ℕ) / 2 : ℝ) = (2 ^ (f.frac + 1) - 1 : ℕ) by rw [Nat.cast_mul]; ring] at side
    rw [split] at h ⊢
    exact mul_lt_mul_of_pos_right (side.resolve_right fun s => lt_asymm s.1 (lt_of_mul_lt_mul_right h top.le)).2 top
  · have long' : (2 ^ 64 : ℝ) ≤ sig := by exact_mod_cast long
    have digits : (2 : ℝ) ^ (f.frac + 1) ≤ 2 ^ 24 := pow_le_pow_right₀ (by norm_num) (by have := hf.frac.2; omega)
    have cut : ((2 ^ (f.frac + 1) - 1 : ℕ) : ℝ) ≤ 2 ^ (f.frac + 1) := by exact_mod_cast Nat.sub_le _ _
    have short : (2 : ℝ) ^ 25 + 1 < 2 ^ 64 := by norm_num
    calc (((2 ^ (f.frac + 1) - 1 : ℕ) : ℝ) * 2 ^ f.topExp) ≤ 2 ^ 24 * 2 ^ (exp + 1) :=
          mul_le_mul (cut.trans digits) (zpow_le_zpow_right₀ (by norm_num) (by omega)) (by positivity) (by positivity)
      _ = 2 ^ 25 * 2 ^ exp := by rw [zpow_add_one₀ (by norm_num)]; ring
      _ < y * 2 ^ exp := mul_lt_mul_of_pos_right (by linarith [(abs_lt.mp near).1]) (by positivity)
end

/-- A code and its flags are the correct rounding of a number: the code is the rounding, flagged inexact where it differs (R84, R90). -/
def Fmt.Correct (f : Fmt) (mode : RMode) (t : ℝ) (r : ℕ × FFlags) : Prop :=
  RoundedTo f mode t r.1 ∧ (r.2 &&& flInexact ≠ 0 ↔ (f.decode r.1).real ≠ t)

section
variable {f : Fmt} (hf : f.Wide)
include hf

theorem Fmt.Wide.round_zero_correct (mode : RMode) (neg : Bool) (exp : ℤ) (x : Word) :
    f.Correct mode 0 (f.round mode false false x (.fin neg 0 exp)) := by
  have zero : f.round mode false false x (.fin neg 0 exp) = (f.zero neg, 0) := by simp [Fmt.round]
  have codes := hf.zero_codes neg 0
  have same : (f.decode (f.zero neg)).real = 0 := by rw [codes.value]; simp
  rw [zero]
  exact ⟨same ▸ roundedTo_self codes.lt codes.fin, by simp [same]⟩

variable {sig : ℕ} {exp : ℤ} {y : ℝ} (hs : sig ≠ 0) (stands : SigStands sig y) {neg : Bool} {x : Word}
include hs stands

/-- Under SR a magnitude above max finite that does not overflow is delivered as max finite. -/
theorem Fmt.Wide.round_above_max_correct (above : f.maxValue < sig * 2 ^ exp)
    (fits : (f.round .sr false false x (.fin neg sig exp)).2 &&& flOverflow = 0) :
    f.Correct .sr (signOf neg * (y * 2 ^ exp)) (f.round .sr false false x (.fin neg sig exp)) := by
  obtain ⟨n, hn, near⟩ := f.quantise_above_max above neg x
  have next : f.maxFin.1 + 1 = 2 ^ (f.frac + 1) := by rw [hf.max]; exact Nat.sub_add_cancel Nat.one_le_two_pow
  have range : f.unitExp ≤ f.maxFin.2 := by rw [hf.max]; exact hf.unitExp_le_topExp
  obtain ⟨codes, le, flag⟩ := hf.round_codes hs hn (by omega) range (fun _ => rfl) fits
  obtain rfl : n = f.maxFin.1 := by
    refine near.resolve_right fun e => absurd le (not_le.mpr ?_)
    rw [Fmt.maxValue, e]
    exact mul_lt_mul_of_pos_right (by push_cast; linarith) (by positivity)
  obtain ⟨rounded, differs⟩ := hf.roundedTo_max (hf.max_lt_stands stands above) codes
  exact ⟨rounded, flag.trans (iff_of_true rfl differs)⟩
/-- Every other magnitude is rounded to a multiple of its quantum. -/
theorem Fmt.Wide.round_quantum_correct {mode : RMode} (within : ¬ (mode = .sr ∧ f.maxValue < sig * 2 ^ exp))
    (fits : (f.round mode false false x (.fin neg sig exp)).2 &&& flOverflow = 0) :
    f.Correct mode (signOf neg * (y * 2 ^ exp)) (f.round mode false false x (.fin neg sig exp)) := by
  have own := roundAt_roundsTo mode neg sig exp (f.quantum sig exp) x
  have small : (roundAt mode neg sig exp (f.quantum sig exp) x).1 ≤ 2 ^ (f.frac + 1) := own.le (by exact_mod_cast f.lt_of_quantum exp)
  have some : 0 < (sig * 2 ^ (exp - f.quantum sig exp) : ℝ) := mul_pos (by exact_mod_cast Nat.pos_of_ne_zero hs) (by positivity)
  obtain ⟨codes, -, flag⟩ := hf.round_codes hs (Fmt.quantise_le_max within neg x) small (le_max_right _ _) (own.inexact_of_zero some) fits
  obtain ⟨rounded, differs⟩ := hf.roundedTo_of_roundsTo (hf.roundAt_stands stands mode neg x hs) (f.le_of_quantum (sticky_le stands hs)) codes
  rw [mul_assoc y, ← zpow_add₀ (by norm_num), sub_add_cancel] at rounded differs
  exact ⟨rounded, flag.trans differs⟩
end

/-- Fmt.round rounds correctly whatever number its argument stands for (R84, R85, R90). -/
theorem Fmt.Wide.round_correct {f : Fmt} (hf : f.Wide) (mode : RMode) (x : Word) {v : FVal} {t : ℝ} (h : v.Stands t)
    (fits : (f.round mode false false x v).2 &&& flOverflow = 0) : f.Correct mode t (f.round mode false false x v) := by
  obtain ⟨neg, sig, exp, y, rfl, rfl, stands⟩ := h
  by_cases hs : sig = 0
  · subst hs
    obtain rfl : y = 0 := Or.elim stands (fun h => h.trans Nat.cast_zero) fun ⟨odd, _⟩ => absurd odd (by norm_num)
    rw [zero_mul, mul_zero]
    exact hf.round_zero_correct mode neg exp x
  · by_cases above : mode = .sr ∧ f.maxValue < sig * 2 ^ exp
    · obtain ⟨rfl, above⟩ := above
      exact hf.round_above_max_correct hs stands above fits
    · exact hf.round_quantum_correct hs stands above fits

end Sys2Proof.Machine
end

section
/-! PROOFS. The arithmetic (R98, R173, R174): sums and products are exact, quotients and roots are with a sticky bit, and all are rounded correctly. -/

namespace Sys2Proof.Machine

/-! Sums and products are exact (R98, R174). -/

theorem scaledAt_value (neg : Bool) (sig : ℕ) {exp lo : ℤ} (h : lo ≤ exp) :
    (scaledAt neg sig exp lo : ℚ) * 2 ^ lo = (FVal.fin neg sig exp).value := by
  have scale : (2 : ℚ) ^ (exp - lo).toNat * 2 ^ lo = 2 ^ exp := by
    rw [← zpow_natCast, Int.toNat_of_nonneg (by omega), ← zpow_add₀ (by norm_num), sub_add_cancel]
  simp only [scaledAt, FVal.value]
  rw [← scale]
  cases neg
  · simp; ring
  · simp; ring

section
variable {a b : FVal} (ha : a.isFin = true) (hb : b.isFin = true)
include ha hb

theorem FVal.mul_fin : (a.mul b).1.isFin = true ∧ (a.mul b).2 = 0 ∧ (a.mul b).1.value = a.value * b.value := by
  obtain ⟨m, s, e, rfl⟩ := FVal.exists_fin ha
  obtain ⟨n, t, g, rfl⟩ := FVal.exists_fin hb
  refine ⟨rfl, rfl, ?_⟩
  have sign : (if (m != n) = true then -1 else 1 : ℚ) = (if m = true then -1 else 1) * (if n = true then -1 else 1) := by
    cases m <;> cases n <;> simp
  simp only [FVal.mul, FVal.value, Nat.cast_mul]
  rw [sign, zpow_add₀ (by norm_num)]
  ring
theorem FVal.add_fin (mode : RMode) : (a.add mode b).1.isFin = true ∧ (a.add mode b).2 = 0 ∧ (a.add mode b).1.value = a.value + b.value := by
  obtain ⟨m, s, e, rfl⟩ := FVal.exists_fin ha
  obtain ⟨n, t, g, rfl⟩ := FVal.exists_fin hb
  rw [← scaledAt_value m s (min_le_left e g), ← scaledAt_value n t (min_le_right e g), ← add_mul, ← Int.cast_add]
  simp only [FVal.add]
  generalize scaledAt m s e (min e g) + scaledAt n t g (min e g) = x
  split
  case isTrue h => exact ⟨rfl, rfl, by simp [FVal.value, h]⟩
  case isFalse h =>
    refine ⟨rfl, rfl, ?_⟩
    simp only [FVal.value, Nat.cast_natAbs, decide_eq_true_eq]
    congr 1
    split
    case isTrue neg => rw [abs_of_neg neg]; simp
    case isFalse pos => rw [abs_of_nonneg (by omega)]; simp
end
theorem FVal.negate_fin {a : FVal} (ha : a.isFin = true) : a.negate.isFin = true ∧ a.negate.value = -a.value := by
  obtain ⟨m, s, e, rfl⟩ := FVal.exists_fin ha
  refine ⟨rfl, ?_⟩
  cases m <;> simp [FVal.negate, FVal.value]

/-! Quotients and roots keep more than 64 bits and a sticky one (R173). -/

/-- A number cut off to a whole one, then given a last bit that says whether anything was cut off. -/
theorem sticky_of_floor {q : ℕ} {z : ℝ} {exact : Prop} [Decidable exact] (hq : 2 ^ 63 ≤ q) (le : (q : ℝ) ≤ z) (lt : z < q + 1)
    (he : exact ↔ (q : ℝ) = z) : SigStands (2 * q + if exact then 0 else 1) (2 * z) := by
  by_cases h : exact
  · refine Or.inl ?_
    rw [if_pos h, ← he.mp h]
    push_cast; ring
  · rw [if_neg h]
    have : (q : ℝ) < z := lt_of_le_of_ne le fun e => h (he.mpr e)
    have near : |2 * z - (2 * q + 1 : ℕ)| < 1 := abs_lt.mpr ⟨by push_cast; linarith, by push_cast; linarith⟩
    exact Or.inr ⟨by omega, by omega, near⟩

theorem quotient_stands (neg : Bool) {n d : ℕ} (hn : n ≠ 0) (hd : d ≠ 0) (e : ℤ) :
    (quotient neg n d e).Stands (signOf neg * (n / d * 2 ^ e)) := by
  have dpos : 0 < d := Nat.pos_of_ne_zero hd
  have long : 2 ^ 63 ≤ n * 2 ^ (120 + log2 d) / d := by
    rw [Nat.le_div_iff_mul_le dpos]
    calc 2 ^ 63 * d ≤ 2 ^ 63 * 2 ^ (log2 d + 1) := Nat.mul_le_mul_left _ (Nat.lt_log2_self (n := d)).le
      _ = 2 ^ (64 + log2 d) := by rw [← pow_add]; congr 1; omega
      _ ≤ 2 ^ (120 + log2 d) := Nat.pow_le_pow_right (by norm_num) (by omega)
      _ ≤ n * 2 ^ (120 + log2 d) := Nat.le_mul_of_pos_left _ (Nat.pos_of_ne_zero hn)
  have scale : (2 : ℝ) * 2 ^ (120 + log2 d) * 2 ^ (e - (120 + log2 d : ℕ) - 1) = 2 ^ e := by
    rw [← pow_succ', ← zpow_natCast, ← zpow_add₀ (by norm_num)]
    congr 1
    push_cast; ring
  refine ⟨neg, _, _, 2 * ((n * 2 ^ (120 + log2 d) : ℕ) / d), rfl, ?value, sticky_of_floor long Nat.cast_div_le ?below ?exact⟩
  case value =>
    rw [← scale]
    push_cast
    ring
  case below =>
    rw [← Nat.floor_div_eq_div (K := ℝ)]
    exact Nat.lt_floor_add_one _
  case exact =>
    rw [eq_div_iff (Nat.cast_ne_zero.mpr hd), ← Nat.dvd_iff_mod_eq_zero, Nat.dvd_iff_div_mul_eq]
    norm_cast

/-- The bisection of rootLoop keeps the root between its bits so far and the weight of the next. -/
theorem rootLoop_eq_sqrt : ∀ (i n s : ℕ), s * s ≤ n → n < (s + 2 ^ i) * (s + 2 ^ i) → rootLoop i n s = Nat.sqrt n
  | 0, n, s, le, lt => Nat.eq_sqrt.mpr ⟨le, lt⟩
  | i + 1, n, s, le, lt => by
    rw [rootLoop]
    split
    case isTrue h => exact rootLoop_eq_sqrt i n _ h (by rwa [add_assoc, ← two_mul, ← pow_succ'])
    case isFalse h => exact rootLoop_eq_sqrt i n s le (not_le.mp h)
theorem isqrt_eq_sqrt (n : ℕ) : isqrt n = Nat.sqrt n := by
  refine rootLoop_eq_sqrt _ n 0 (Nat.zero_le n) ?_
  rw [zero_add, ← pow_add]
  exact Nat.lt_log2_self.trans_le (Nat.pow_le_pow_right (by norm_num) (by unfold log2; omega))

/-- squareRoot works with a significand n and an even exponent 2 k. -/
theorem squareRoot_eq (sig : ℕ) (exp : ℤ) : ∃ (n : ℕ) (k : ℤ), squareRoot sig exp =
    .fin false (2 * isqrt (n * 2 ^ 256) + (if isqrt (n * 2 ^ 256) * isqrt (n * 2 ^ 256) = n * 2 ^ 256 then 0 else 1)) (k - 128 - 1) ∧
      (sig * 2 ^ exp : ℝ) = n * 2 ^ (2 * k) ∧ (n = 0 → sig = 0) := by
  rcases Int.emod_two_eq_zero_or_one exp with h | h
  · refine ⟨sig, exp / 2, by simp [squareRoot, h], ?_, id⟩
    rw [Int.mul_ediv_cancel' (Int.dvd_of_emod_eq_zero h)]
  · refine ⟨2 * sig, (exp - 1) / 2, by simp [squareRoot, h], ?_, by omega⟩
    rw [Int.mul_ediv_cancel' (by omega), zpow_sub_one₀ (by norm_num)]
    push_cast; ring
theorem squareRoot_stands {sig : ℕ} (hs : sig ≠ 0) (exp : ℤ) : (squareRoot sig exp).Stands (Real.sqrt (sig * 2 ^ exp)) := by
  obtain ⟨n, k, root, same, zero⟩ := squareRoot_eq sig exp
  have npos : 1 ≤ n := Nat.one_le_iff_ne_zero.mpr fun h => hs (zero h)
  rw [root, same, isqrt_eq_sqrt]
  have long : 2 ^ 63 ≤ Nat.sqrt (n * 2 ^ 256) := by
    rw [Nat.le_sqrt, ← pow_add]
    exact (Nat.pow_le_pow_right (by norm_num) (by norm_num)).trans (Nat.le_mul_of_pos_left _ npos)
  refine ⟨false, _, _, 2 * Real.sqrt (n * 2 ^ 256 : ℕ), rfl, ?value, sticky_of_floor long Real.nat_sqrt_le_real_sqrt ?below ?exact⟩
  case value =>
    rw [signOf_false, one_mul, Nat.cast_mul, Real.sqrt_mul (by positivity), Real.sqrt_mul (by positivity)]
    have half : Real.sqrt (2 ^ (2 * k)) = 2 ^ k := by
      rw [mul_comm, zpow_mul]
      exact Real.sqrt_sq (by positivity)
    have big : Real.sqrt ((2 ^ 256 : ℕ) : ℝ) = 2 ^ 128 := by
      rw [show (((2 ^ 256 : ℕ) : ℝ)) = (2 ^ 128) ^ 2 by norm_num]
      exact Real.sqrt_sq (by positivity)
    rw [half, big, zpow_sub_one₀ (by norm_num), zpow_sub₀ (by norm_num)]
    norm_num
    ring
  case below => exact Real.real_sqrt_lt_nat_sqrt_succ
  case exact =>
    rw [eq_comm, eq_comm (b := Real.sqrt _), Real.sqrt_eq_iff_mul_self_eq (by positivity) (by positivity)]
    norm_cast

/-! The arithmetic (R173): what each operation's result stands for. -/

theorem signOf_div (m n : Bool) : signOf m / signOf n = signOf (m != n) := by cases m <;> cases n <;> simp

section
variable {a b : FVal} (ha : a.isFin = true) (hb : b.isFin = true)
include ha

theorem FVal.sqrt_stands (h : 0 ≤ a.real) : a.sqrt.2 = 0 ∧ a.sqrt.1.Stands (Real.sqrt a.real) := by
  obtain ⟨neg, sig, exp, rfl⟩ := FVal.exists_fin ha
  rw [FVal.real_fin] at h ⊢
  by_cases hs : sig = 0
  · subst hs
    refine ⟨rfl, neg, 0, exp, 0, rfl, by simp, Or.inl Nat.cast_zero.symm⟩
  · have pos : (0 : ℝ) < sig * 2 ^ exp := mul_pos (by exact_mod_cast Nat.pos_of_ne_zero hs) (by positivity)
    cases neg with
    | true => rw [signOf_true] at h; linarith
    | false =>
      have root : (FVal.fin false sig exp).sqrt = (squareRoot sig exp, 0) := by simp [FVal.sqrt, hs]
      rw [root, signOf_false, one_mul]
      exact ⟨rfl, squareRoot_stands hs exp⟩

include hb

theorem FVal.add_stands (mode : RMode) : (a.add mode b).2 = 0 ∧ (a.add mode b).1.Stands (a.real + b.real) := by
  obtain ⟨fin, flags, value⟩ := FVal.add_fin ha hb mode
  have sum : (a.add mode b).1.real = a.real + b.real := by simp [FVal.real, value]
  exact ⟨flags, sum ▸ FVal.stands_real fin⟩
theorem FVal.mul_stands : (a.mul b).2 = 0 ∧ (a.mul b).1.Stands (a.real * b.real) := by
  obtain ⟨fin, flags, value⟩ := FVal.mul_fin ha hb
  have product : (a.mul b).1.real = a.real * b.real := by simp [FVal.real, value]
  exact ⟨flags, product ▸ FVal.stands_real fin⟩
theorem FVal.sub_stands (mode : RMode) : (a.add mode b.negate).2 = 0 ∧ (a.add mode b.negate).1.Stands (a.real - b.real) := by
  obtain ⟨fin, value⟩ := FVal.negate_fin hb
  have negated : b.negate.real = -b.real := by simp [FVal.real, value]
  rw [sub_eq_add_neg, ← negated]
  exact FVal.add_stands ha fin mode
theorem FVal.fma_stands (mode : RMode) {c : FVal} (hc : c.isFin = true) : (a.mul b).2 ||| ((a.mul b).1.add mode c).2 = 0 ∧
    ((a.mul b).1.add mode c).1.Stands (a.real * b.real + c.real) := by
  obtain ⟨fin, flags, value⟩ := FVal.mul_fin ha hb
  have product : (a.mul b).1.real = a.real * b.real := by simp [FVal.real, value]
  obtain ⟨flags', stands⟩ := FVal.add_stands fin hc mode
  exact ⟨by rw [flags, flags']; rfl, product ▸ stands⟩
theorem FVal.div_stands (h : b.real ≠ 0) : (a.div b).2 = 0 ∧ (a.div b).1.Stands (a.real / b.real) := by
  obtain ⟨m, s, e, rfl⟩ := FVal.exists_fin ha
  obtain ⟨n, t, g, rfl⟩ := FVal.exists_fin hb
  rw [FVal.real_fin] at h
  have ht : t ≠ 0 := by
    rintro rfl
    simp at h
  have quot : (FVal.fin m s e).real / (FVal.fin n t g).real = signOf (m != n) * (s / t * 2 ^ (e - g)) := by
    rw [FVal.real_fin, FVal.real_fin, mul_div_mul_comm, signOf_div, mul_div_mul_comm, zpow_sub₀ (by norm_num)]
  rw [quot]
  by_cases hs : s = 0
  · subst hs
    have zero : (FVal.fin m 0 e).div (.fin n t g) = (.fin (m != n) 0 e, 0) := by simp [FVal.div, ht]
    rw [zero]
    exact ⟨rfl, m != n, 0, e, 0, rfl, by simp, Or.inl Nat.cast_zero.symm⟩
  · have div : (FVal.fin m s e).div (.fin n t g) = (quotient (m != n) s t (e - g), 0) := by simp [FVal.div, ht, hs]
    rw [div]
    exact ⟨rfl, quotient_stands _ hs ht _⟩
end

/-- Settles O15: every operation's result stands for the real one, and Fmt.round rounds correctly what its argument stands for. -/
theorem arithmeticIsCorrectlyRounded : Obligations.ArithmeticIsCorrectlyRounded := by
  unfold Obligations.ArithmeticIsCorrectlyRounded
  intro ty mode x ca cb cc f a b c val correct _ _ _ ha hb hc
  have of_stands : ∀ {v : FVal × FFlags} {t : ℝ}, v.2 = 0 ∧ v.1.Stands t → correct v t := fun ⟨flags, stands⟩ fits =>
    ⟨flags, (ftypeFmt_wide ty).round_correct mode x stands fits⟩
  exact ⟨of_stands (FVal.add_stands ha hb mode), of_stands (FVal.sub_stands ha hb mode), of_stands (FVal.mul_stands ha hb),
    of_stands (FVal.fma_stands ha hb mode hc), fun h => of_stands (FVal.div_stands ha hb h), fun h => of_stands (FVal.sqrt_stands ha h)⟩

end Sys2Proof.Machine
end

section
/-! PROOFS. Conversions (R86, R87, R181 to R184): CVT and the rounding to an integer type. -/

namespace Sys2Proof.Machine

/-! Rounding to a whole number, and to an integer type (R84, R87, R90). -/

/-- A whole number of a sign. -/
def signedInt (neg : Bool) (n : ℕ) : ℤ := if neg then -n else n
theorem signedInt_cast (neg : Bool) (n : ℕ) : ((signedInt neg n : ℤ) : ℝ) = signOf neg * n := by cases neg <;> simp [signedInt]

/-- What each mode promises of the whole number k that it makes of v. -/
structure WholeOf (mode : RMode) (k : ℤ) (v : ℝ) : Prop where
  near : |(k : ℝ) - v| < 1
  up : mode = .rup → v ≤ k
  down : mode = .rdn → (k : ℝ) ≤ v
  zero : mode = .rtz → |(k : ℝ)| ≤ |v|
  half : mode = .rne ∨ mode = .rna → |(k : ℝ) - v| ≤ 1 / 2
  even : mode = .rne → |(k : ℝ) - v| = 1 / 2 → k % 2 = 0

theorem WholeOf.refl (mode : RMode) (k : ℤ) : WholeOf mode k k where
  near := by simp
  up _ := le_rfl
  down _ := le_rfl
  zero _ := le_rfl
  half _ := by simp
  even _ h := by norm_num at h

section
variable {mode : RMode} {neg : Bool} {y : ℝ} {n lo : ℕ}

/-- The neighbour that a mode takes keeps the mode's promise. -/
theorem wholeOf_chosen (below : (lo : ℝ) < y) (above : y < lo + 1) (chosen : Chosen mode neg (n % 2 = 0) lo (lo + 1) y n) :
    WholeOf mode (signedInt neg n) (signOf neg * y) := by
  have y0 : (0 : ℝ) ≤ y := le_trans (by positivity) below.le
  have dist : |((signedInt neg n : ℤ) : ℝ) - signOf neg * y| = |(n : ℝ) - y| := by
    rw [signedInt_cast, ← mul_sub, abs_mul, abs_signOf, one_mul]
  have ends : |(n : ℝ) - y| = y - lo ∨ |(n : ℝ) - y| = lo + 1 - y := by
    rcases chosen.lower_or_upper with w | w
    · rw [w, abs_of_neg (by linarith)]; left; ring
    · rw [w, abs_of_pos (by linarith)]; right; ring
  refine ⟨?near, ?up, ?down, ?zero, ?half, ?even⟩
  case near => rw [dist]; rcases ends with e | e <;> linarith
  case up =>
    rintro rfl
    rw [signedInt_cast, show (n : ℝ) = _ from chosen]
    cases neg <;> simp <;> linarith
  case down =>
    rintro rfl
    rw [signedInt_cast, show (n : ℝ) = _ from chosen]
    cases neg <;> simp <;> linarith
  case zero =>
    rintro rfl
    rw [signedInt_cast, show (n : ℝ) = _ from chosen, abs_mul, abs_mul, abs_signOf, one_mul, one_mul, abs_of_nonneg y0, abs_of_nonneg (by positivity)]
    exact below.le
  case half =>
    rw [dist]
    rintro (rfl | rfl)
    · obtain ⟨⟨w, d⟩ | ⟨w, d⟩, -⟩ := chosen
      · rw [w, abs_of_neg (by linarith)]; linarith
      · rw [w, abs_of_pos (by linarith)]; linarith
    · obtain ⟨w, d⟩ | ⟨w, d⟩ := chosen
      · rw [w, abs_of_neg (by linarith)]; linarith
      · rw [w, abs_of_pos (by linarith)]; linarith
  case even =>
    rintro rfl e
    rw [dist] at e
    have tie : n % 2 = 0 := chosen.2 (by rcases ends with h | h <;> linarith)
    unfold signedInt
    split <;> omega
theorem RoundsTo.wholeOf {r : ℕ × Bool} (h : RoundsTo mode neg y r) : WholeOf mode (signedInt neg r.1) (signOf neg * y) ∧
    (r.2 = true ↔ ((signedInt neg r.1 : ℤ) : ℝ) ≠ signOf neg * y) := by
  cases e : r.2 with
  | false =>
    rw [← h.exact e, ← signedInt_cast]
    exact ⟨WholeOf.refl mode _, by simp⟩
  | true =>
    obtain ⟨lo, below, above, chosen⟩ := h.inexact e
    refine ⟨wholeOf_chosen below above chosen, iff_of_true rfl ?_⟩
    rw [signedInt_cast]
    intro same
    have : (r.1 : ℝ) = y := signOf_mul_inj same
    rcases chosen.lower_or_upper with w | w <;> linarith
end

/-- The least and the greatest value of an integer type of n bits. -/
def intLow (n : ℕ) (sgn : Bool) : ℤ := if sgn then -(2 ^ (n - 1) : ℕ) else 0
def intHigh (n : ℕ) (sgn : Bool) : ℤ := if sgn then (2 ^ (n - 1) : ℕ) - 1 else (2 ^ n : ℕ) - 1
theorem intLow_le_intHigh (n : ℕ) (sgn : Bool) : intLow n sgn ≤ intHigh n sgn := by
  have := Nat.one_le_two_pow (n := n)
  have := Nat.one_le_two_pow (n := n - 1)
  unfold intLow intHigh
  cases sgn <;> simp only [Bool.false_eq_true, if_false, if_true] <;> omega

theorem roundInt_nan (n : ℕ) (sgn : Bool) (mode : RMode) (x : Word) (q : Bool) : roundInt n sgn mode x (.nan q) = (0, flInvalid) := rfl
theorem roundInt_inf (n : ℕ) (sgn : Bool) (mode : RMode) (x : Word) (neg : Bool) :
    roundInt n sgn mode x (.inf neg) = (if neg then intLow n sgn else intHigh n sgn, flInvalid) := rfl
theorem roundInt_fin (n : ℕ) (sgn : Bool) (mode : RMode) (x : Word) (neg : Bool) (sig : ℕ) (exp : ℤ) :
    let k := signedInt neg (roundAt mode neg sig exp 0 x).1
    roundInt n sgn mode x (.fin neg sig exp) = (max (intLow n sgn) (min (intHigh n sgn) k),
      (if (roundAt mode neg sig exp 0 x).2 then flInexact else 0) |||
        (if k < intLow n sgn ∨ intHigh n sgn < k then flInvalid ||| flInexact else 0)) := by
  intro k
  have range := intLow_le_intHigh n sgn
  have clamp : roundInt n sgn mode x (.fin neg sig exp) =
      if k < intLow n sgn then (intLow n sgn, (if (roundAt mode neg sig exp 0 x).2 then flInexact else 0) ||| flInvalid ||| flInexact)
      else if intHigh n sgn < k then (intHigh n sgn, (if (roundAt mode neg sig exp 0 x).2 then flInexact else 0) ||| flInvalid ||| flInexact)
      else (k, if (roundAt mode neg sig exp 0 x).2 then flInexact else 0) := rfl
  rw [clamp]
  generalize (if (roundAt mode neg sig exp 0 x).2 = true then flInexact else 0) = fl
  by_cases low : k < intLow n sgn
  · rw [if_pos low, if_pos (.inl low), min_eq_right (low.trans_le range).le, max_eq_left low.le, BitVec.or_assoc]
  · by_cases high : intHigh n sgn < k
    · rw [if_neg low, if_pos high, if_pos (.inr high), min_eq_left high.le, max_eq_right range, BitVec.or_assoc]
    · rw [if_neg low, if_neg high, if_neg (not_or.mpr ⟨low, high⟩), min_eq_right (not_lt.mp high), max_eq_right (not_lt.mp low)]
      exact congrArg (Prod.mk k) BitVec.or_zero.symm

/-- Rounding a finite number to an integer type: a whole number k that the mode makes of it, clamped, with the flags of R90. -/
theorem roundInt_wholeOf (n : ℕ) (sgn : Bool) (mode : RMode) (x : Word) (neg : Bool) (sig : ℕ) (exp : ℤ) :
    ∃ k : ℤ, WholeOf mode k (FVal.fin neg sig exp).real ∧
      roundInt n sgn mode x (.fin neg sig exp) = (max (intLow n sgn) (min (intHigh n sgn) k),
        (if (k : ℚ) = (FVal.fin neg sig exp).value then 0 else flInexact) |||
          (if k < intLow n sgn ∨ intHigh n sgn < k then flInvalid ||| flInexact else 0)) := by
  obtain ⟨whole, inexact⟩ := (roundAt_roundsTo mode neg sig exp 0 x).wholeOf
  rw [sub_zero, ← FVal.real_fin] at whole inexact
  unfold FVal.real at inexact
  refine ⟨_, whole, ?_⟩
  have flag : (if (roundAt mode neg sig exp 0 x).2 = true then flInexact else 0) =
      if ((signedInt neg (roundAt mode neg sig exp 0 x).1 : ℤ) : ℚ) = (FVal.fin neg sig exp).value then 0 else flInexact := by
    have differs : (roundAt mode neg sig exp 0 x).2 = true ↔
        ¬ ((signedInt neg (roundAt mode neg sig exp 0 x).1 : ℤ) : ℚ) = (FVal.fin neg sig exp).value := by exact_mod_cast inexact
    rw [if_congr differs rfl rfl, ite_not]
  rw [roundInt_fin, flag]

/-! Instructions that draw in every guarded lane and then write (R86). -/

/-- Where each lane's body draws for n elements and writes what w makes of the words that it meets, the signature has that effect. -/
theorem runLanes_drawn {s : State} {h : Head} (mode : RMode) (n : ℕ) (body : State → Lane → State) (w : (ℕ → Word) → Lane → LaneWrite)
    (hi : s.Issued)
    (hbody : ∀ (t : State) (l : Lane) (k : ℕ), (t.fibre? l).isSome = true → t.fibre? l = s.fibre? l → t.now = s.now → t.seq = s.seq →
      (∀ c, t.coreAt c = coreDrawn s (s.team s.sig.tid).coreKey k c) →
      Wrote t (body t l) l (s.team s.sig.tid).coreKey (drawsOf mode n)
        (w (fun j => if mode = .sr then times xorshift (k + j) (s.coreAt (s.team s.sig.tid).coreKey).srng else 0) l)) :
    RegisterEffect s (s.runLanes h (fun t l => .done (body t l))) h (drawsOf mode n) (fun l => w (s.drawn h l mode n) l) := by
  have effect := runLanes_effect s h (drawsOf mode n) body
    (fun k l => w (fun j => if mode = .sr then times xorshift (k + j) (s.coreAt (s.team s.sig.tid).coreKey).srng else 0) l) hi
    (fun t l k _ hp he hn hq _ _ hc => hbody t l k hp he hn hq hc)
  have words : ∀ l, (fun j => if mode = .sr then times xorshift (drawsOf mode n * (s.guarded h).idxOf l + j)
      (s.coreAt (s.team s.sig.tid).coreKey).srng else 0) = s.drawn h l mode n := by
    intro l
    funext j
    unfold State.drawn drawsOf
    split <;> rfl
  simpa only [words] using effect

theorem LaneWrite.nil_and (w : LaneWrite) : LaneWrite.and { } w = w := by
  obtain ⟨regs, last, flags⟩ := w
  cases last <;> rfl
theorem flags_zero_or (fl : FFlags) : 0 ||| fl = fl := BitVec.zero_or
theorem State.draw_fibre? (s : State) (key : ℕ) (mode : RMode) (l : Lane) : (s.draw key mode).2.fibre? l = s.fibre? l := by
  unfold State.draw
  split <;> rfl
/-- A result under an integer type and its flags. -/
theorem writeInt_raiseFlags_wrote (s0 s : State) (l : Lane) (key : ℕ) (fld : Field) (ty : IType) (x : ℤ) (fl : FFlags) (lat : Option ℕ)
    (hl : (s.fibre? l).isSome = true) (he : s.fibre? l = s0.fibre? l) (hn : s.now = s0.now) (hq : s.seq = s0.seq) :
    Wrote s ((s.writeInt l fld ty x lat).raiseFlags l fl lat) l key 0 { s0.intWrite l fld ty x with flags := s0.flagNote l fl lat } := by
  have wrote := writeInt_wrote s0 s l key fld ty x lat hl he
  have both := wrote.trans (raiseFlags_wrote s0 _ l key fl lat (wrote.now.trans hn) (wrote.seq.trans hq))
  have e : (s0.intWrite l fld ty x).and { flags := s0.flagNote l fl lat } = { s0.intWrite l fld ty x with flags := s0.flagNote l fl lat } := by
    unfold State.intWrite
    split <;> rfl
  rwa [e] at both

/-! CVT (R181 to R184). -/

section
variable {s : State} (h : Head) (m : ConvMod) (hi : s.Issued)

theorem elemD_eq {code : BitVec 6} {e : Elem} (he : elemOf code.toNat = some e) : elemD code = e := by simp [elemD, he]

include hi

theorem execCvt_int (hd : m.dint = true) : ∃ t, execCvt h m s = .next t ∧ RegisterEffect s t h (drawsOf (s.modeOf m.rnd) 1) (fun l =>
    let r := roundInt (width m.dity) (signed m.dity) (s.modeOf m.rnd) (s.drawn h l (s.modeOf m.rnd) 1 1) (s.convSource l h m)
    { s.intWrite l h.dst m.dity r.1 with flags := s.flagNote l r.2 (some 4) }) := by
  refine ⟨_, rfl, ?_⟩
  rw [runLanes_congr s h _ fun t l =>
    let d := t.draw (s.team s.sig.tid).coreKey (s.modeOf m.rnd)
    let r := roundInt (width m.dity) (signed m.dity) (s.modeOf m.rnd) d.1 (s.convSource l h m)
    .done ((d.2.writeInt l h.dst m.dity r.1 (some 4)).raiseFlags l r.2 (some 4))]
  · refine runLanes_drawn (s.modeOf m.rnd) 1 _ (fun word l =>
      let r := roundInt (width m.dity) (signed m.dity) (s.modeOf m.rnd) (word 1) (s.convSource l h m)
      { s.intWrite l h.dst m.dity r.1 with flags := s.flagNote l r.2 (some 4) }) hi fun t l k hp he hn hq hc => ?_
    have drawn := draw_wrote t l (s.team s.sig.tid).coreKey (s.modeOf m.rnd)
    have same := State.draw_fibre? t (s.team s.sig.tid).coreKey (s.modeOf m.rnd) l
    dsimp only
    rw [← draw_word s t _ k _ hc, ← LaneWrite.nil_and (LaneWrite.mk _ _ _)]
    exact drawn.trans (writeInt_raiseFlags_wrote s _ l _ h.dst m.dity _ _ (some 4) (same ▸ hp) (same.trans he) (drawn.now.trans hn) (drawn.seq.trans hq))
  · intro t l hl
    dsimp only
    rw [if_pos hd, guarded_tid s h l hl]
    rfl
theorem execCvt_float (hd : m.dint = false) {f : Fmt} (hf : elemOf m.dfmt.toNat = some (.float f)) :
    ∃ t, execCvt h m s = .next t ∧ RegisterEffect s t h (drawsOf (s.modeOf m.rnd) 1) (fun l =>
      let r := f.round (s.modeOf m.rnd) (m.sat && f.size != 32) (m.ftz && f.frac > 6) (s.drawn h l (s.modeOf m.rnd) 1 1) (s.convSource l h m)
      s.floatWrite l h.dst r.1 r.2 (some 4)) := by
  refine ⟨_, rfl, ?_⟩
  rw [runLanes_congr s h _ fun t l => .done (t.deliverRound l h.dst f (s.modeOf m.rnd) (m.sat && f.size != 32) (m.ftz && f.frac > 6)
    (s.convSource l h m, 0) (some 4))]
  · have effect := deliverRound_effect s h f (s.modeOf m.rnd) (m.sat && f.size != 32) (m.ftz && f.frac > 6) (fun l => (s.convSource l h m, 0)) (some 4) hi
    simpa only [flags_zero_or] using effect
  · intro t l hl
    dsimp only
    rw [if_neg (by simp [hd]), elemD_eq hf, guarded_tid s h l hl]
    rfl
theorem execCvt_elemInt (hd : m.dint = false) {n : ℕ} (hn : elemOf m.dfmt.toNat = some (.int n)) :
    ∃ t, execCvt h m s = .next t ∧ RegisterEffect s t h (drawsOf (s.modeOf m.rnd) 1) (fun l =>
      let r := roundInt n true (s.modeOf m.rnd) (s.drawn h l (s.modeOf m.rnd) 1 1) (s.convSource l h m)
      s.floatWrite l h.dst (wrap n r.1) r.2 (some 4)) := by
  refine ⟨_, rfl, ?_⟩
  rw [runLanes_congr s h _ fun t l =>
    let d := t.draw (s.team s.sig.tid).coreKey (s.modeOf m.rnd)
    let r := roundInt n true (s.modeOf m.rnd) d.1 (s.convSource l h m)
    .done (d.2.deliver l h.dst (wrap n r.1) r.2 (some 4))]
  · exact drawDeliver_effect s h (s.modeOf m.rnd) (fun _ _ => (s.team s.sig.tid).coreKey)
      (fun l x => let r := roundInt n true (s.modeOf m.rnd) x (s.convSource l h m); (wrap n r.1, r.2)) (some 4) hi (fun _ _ _ _ => rfl)
  · intro t l hl
    dsimp only
    rw [if_neg (by simp [hd]), elemD_eq hn, guarded_tid s h l hl]
    rfl
theorem execCvt_table (hd : m.dint = false) (ht : elemOf m.dfmt.toNat = some .table) :
    ∃ t, execCvt h m s = .next t ∧ RegisterEffect s t h 0 (fun l =>
      let r := tableIndex ((s.coreAt (s.team l.tid).coreKey).table m.cti.toNat) (s.convSource l h m)
      s.floatWrite l h.dst r.1 r.2 (some 4)) := by
  refine ⟨_, rfl, ?_⟩
  rw [runLanes_congr s h _ fun t l =>
    let r := tableIndex ((s.coreAt (s.team l.tid).coreKey).table m.cti.toNat) (s.convSource l h m)
    .done (t.deliver l h.dst r.1 r.2 (some 4))]
  · exact deliver_effect s h _ _ (some 4) hi
  · intro t l hl
    dsimp only
    rw [if_neg (by simp [hd]), elemD_eq ht]
end

/-- Settles O19: each destination is the lemma of its name; the rounding to an integer type is roundInt_wholeOf. -/
theorem cvtResult : Obligations.CvtResult := by
  unfold Obligations.CvtResult
  refine ⟨fun s h m hi => ⟨fun hd => execCvt_int h m hi hd, fun hd f hf => execCvt_float h m hi hd hf, fun hd n hn => ?_,
    fun hd ht => execCvt_table h m hi hd ht⟩, fun n sgn mode x => ⟨fun _ => rfl, fun _ => rfl, fun neg sig exp => ?_⟩⟩
  · have effect := execCvt_elemInt h m hi hd hn
    simp only [wrap, Nat.cast_pow, Nat.cast_ofNat] at effect
    exact effect
  · obtain ⟨k, whole, result⟩ := roundInt_wholeOf n sgn mode x neg sig exp
    unfold FVal.real at whole
    refine ⟨k, ?_, fun e => ?_, fun e => ?_, fun e => ?_, fun e => ?_, fun e h => ?_, result⟩
    · exact_mod_cast whole.near
    · exact_mod_cast whole.up e
    · exact_mod_cast whole.down e
    · exact_mod_cast whole.zero e
    · rify
      exact whole.half e
    · refine whole.even e ?_
      rify at h
      exact h

end Sys2Proof.Machine
end

section
/-! PROOFS. Packed arithmetic and dot products (R98, R171, R189). -/

namespace Sys2Proof.Machine

/-! The sum of a dot product is exact (R98). -/

theorem FVal.isFin_not_nan {v : FVal} (h : v.isFin = true) : v.isNan = false := by
  obtain ⟨neg, sig, exp, rfl⟩ := FVal.exists_fin h
  rfl
theorem foldl_add_fin (mode : RMode) {vs : List FVal} (h : ∀ v ∈ vs, v.isFin = true) {a : FVal} (ha : a.isFin = true) :
    (vs.foldl (fun a b => (a.add mode b).1) a).isFin = true ∧
      (vs.foldl (fun a b => (a.add mode b).1) a).value = a.value + (vs.map FVal.value).sum := by
  induction vs generalizing a with
  | nil => exact ⟨ha, by simp⟩
  | cons v r ih =>
    obtain ⟨fin, -, value⟩ := FVal.add_fin ha (h v (by simp)) mode
    obtain ⟨hfin, hvalue⟩ := ih (fun w hw => h w (by simp [hw])) fin
    exact ⟨hfin, by rw [List.foldl_cons, hvalue, value, List.map_cons, List.sum_cons, add_assoc]⟩
theorem sumAll_fin (mode : RMode) {vs : List FVal} (h : ∀ v ∈ vs, v.isFin = true) :
    (sumAll mode vs).2 = 0 ∧ (sumAll mode vs).1.isFin = true ∧ (sumAll mode vs).1.value = (vs.map FVal.value).sum := by
  have nan : vs.any (·.isNan) = false := by simpa using fun v hv => FVal.isFin_not_nan (h v hv)
  have inf : vs.contains (.inf false) = false := by
    rw [Bool.eq_false_iff, Ne, List.contains_iff_mem]
    exact fun hv => absurd (h _ hv) (by simp [FVal.isFin])
  unfold sumAll
  rw [nan, inf]
  cases vs with
  | nil => exact ⟨rfl, rfl, by simp [FVal.value]⟩
  | cons v r =>
    obtain ⟨fin, value⟩ := foldl_add_fin mode (fun w hw => h w (List.mem_cons_of_mem v hw)) (h v List.mem_cons_self)
    exact ⟨rfl, fin, value⟩
theorem dotSum_fin (mode : RMode) {ps : List (FVal × FVal)} {c : FVal} (hp : ∀ p ∈ ps, p.1.isFin = true ∧ p.2.isFin = true) (hc : c.isFin = true) :
    (dotSum mode ps c).2 = 0 ∧ (dotSum mode ps c).1.isFin = true ∧
      (dotSum mode ps c).1.value = c.value + (ps.map (fun p => p.1.value * p.2.value)).sum := by
  have products : ∀ p ∈ ps, (p.1.mul p.2).1.isFin = true ∧ (p.1.mul p.2).2 = 0 ∧ (p.1.mul p.2).1.value = p.1.value * p.2.value :=
    fun p h => FVal.mul_fin (hp p h).1 (hp p h).2
  have all : ∀ v ∈ (ps.map (fun p => p.1.mul p.2)).map (·.1) ++ [c], v.isFin = true := by
    simp only [List.mem_append, List.mem_map, List.mem_singleton]
    rintro v (⟨-, ⟨p, h, rfl⟩, rfl⟩ | rfl)
    · exact (products p h).1
    · exact hc
  obtain ⟨flags, fin, value⟩ := sumAll_fin mode all
  refine ⟨?_, fin, value.trans ?_⟩
  · show (ps.map (fun p => p.1.mul p.2)).foldl (fun f p => f ||| p.2) _ = 0
    rw [flags, List.foldl_map]
    exact foldl_idle fun p h => by rw [(products p h).2.1]; rfl
  · have values : (ps.map (fun p => (p.1.mul p.2).1.value)) = ps.map (fun p => p.1.value * p.2.value) :=
      List.map_congr_left fun p h => (products p h).2.2
    rw [List.map_append, List.sum_append, List.map_map, List.map_map, ← values, add_comm]
    simp [Function.comp_def]

/-! Packed arithmetic (R171, R189). -/

section
variable {s : State} (h : Head) (m : ConvMod) (hi : s.Issued)

/-- One half of a register read in the format of a packed instruction. -/
def State.readHalf (s : State) (l : Lane) (pos : Pos) (fld : Field) (m : ConvMod) (k : ℕ) : FVal :=
  (packedFmt m.sfmt).operand m.ftz ((s.readReg l pos fld).toNat / 2 ^ (16 * k) % 2 ^ 16)

/-- Two exact halves rounded and delivered, the low half first (R171, R189). -/
def State.deliverHalves (t : State) (l : Lane) (dst : Field) (f : Fmt) (mode : RMode) (sat ftz : Bool) (key : ℕ) (v : ℕ → FVal × FFlags) : State :=
  let d0 := t.draw key mode
  let r0 := f.round mode sat ftz d0.1 (v 0).1
  let d1 := d0.2.draw key mode
  let r1 := f.round mode sat ftz d1.1 (v 1).1
  d1.2.deliver l dst (r0.1 + 2 ^ 16 * r1.1) ((v 0).2 ||| (v 1).2 ||| r0.2 ||| r1.2) (some 4)
/-- What it writes, where element j meets the word `word j`. -/
def State.halvesWrite (s : State) (l : Lane) (dst : Field) (f : Fmt) (mode : RMode) (sat ftz : Bool) (word : ℕ → Word) (v : ℕ → FVal × FFlags) :
    LaneWrite :=
  let r := fun k => f.round mode sat ftz (word (k + 1)) (v k).1
  s.floatWrite l dst ((r 0).1 + 2 ^ 16 * (r 1).1) ((v 0).2 ||| (v 1).2 ||| (r 0).2 ||| (r 1).2) (some 4)
theorem deliverHalves_wrote {s t : State} {l : Lane} {key k : ℕ} (dst : Field) (f : Fmt) (mode : RMode) (sat ftz : Bool) (v : ℕ → FVal × FFlags)
    (hp : (t.fibre? l).isSome = true) (he : t.fibre? l = s.fibre? l) (hn : t.now = s.now) (hq : t.seq = s.seq)
    (hc : ∀ c, t.coreAt c = coreDrawn s key k c) : Wrote t (t.deliverHalves l dst f mode sat ftz key v) l key (drawsOf mode 2)
      (s.halvesWrite l dst f mode sat ftz (fun j => if mode = .sr then times xorshift (k + j) (s.coreAt key).srng else 0) v) := by
  have draw0 := draw_wrote t l key mode
  have draw1 := draw_wrote (t.draw key mode).2 l key mode
  have hc' : ∀ c, (t.draw key mode).2.coreAt c = coreDrawn s key (k + drawsOf mode 1) c := by
    intro c
    rw [draw0.cores, coreDrawn, hc, coreDrawn, coreDrawn]
    split
    · rw [← times_add]
    · rfl
  have word1 : ((t.draw key mode).2.draw key mode).1 = if mode = .sr then times xorshift (k + 2) (s.coreAt key).srng else 0 := by
    rw [draw_word s _ key _ mode hc']
    by_cases sr : mode = .sr
    · simp [sr, drawsOf]
    · simp [sr]
  have fibre : ((t.draw key mode).2.draw key mode).2.fibre? l = t.fibre? l := by rw [State.draw_fibre?, State.draw_fibre?]
  have draws : drawsOf mode 1 + drawsOf mode 1 = drawsOf mode 2 := by unfold drawsOf; split <;> rfl
  have both := draw0.trans draw1
  rw [draws, LaneWrite.nil_and] at both
  unfold State.deliverHalves State.halvesWrite
  dsimp only
  rw [← word1, ← draw_word s t key k mode hc, ← LaneWrite.nil_and (State.floatWrite _ _ _ _ _ _)]
  exact both.trans (deliver_wrote s _ l key dst _ _ (some 4) (fibre ▸ hp) (fibre.trans he) (both.now.trans hn) (both.seq.trans hq))

include hi

theorem packedHalves_effect (g : RMode → FVal → FVal → FVal → FVal × FFlags) :
    ∃ t, packedHalves h m g s = .next t ∧ RegisterEffect s t h (drawsOf (s.modeOf m.rnd) 2) (fun l =>
      let v := fun k => g (s.modeOf m.rnd) (s.readHalf l .sa h.sa m k) (s.readHalf l .sb h.sb m k) (s.readHalf l .sc h.sc m k)
      let r := fun k => (packedFmt m.sfmt).round (s.modeOf m.rnd) m.sat m.ftz (s.drawn h l (s.modeOf m.rnd) 2 (k + 1)) (v k).1
      s.floatWrite l h.dst ((r 0).1 + 2 ^ 16 * (r 1).1) ((v 0).2 ||| (v 1).2 ||| (r 0).2 ||| (r 1).2) (some 4)) := by
  refine ⟨_, rfl, ?_⟩
  rw [runLanes_congr s h _ fun t l => .done (t.deliverHalves l h.dst (packedFmt m.sfmt) (s.modeOf m.rnd) m.sat m.ftz (s.team s.sig.tid).coreKey
    (fun k => g (s.modeOf m.rnd) (s.readHalf l .sa h.sa m k) (s.readHalf l .sb h.sb m k) (s.readHalf l .sc h.sc m k)))]
  · exact runLanes_drawn (s.modeOf m.rnd) 2 _ (fun word l => s.halvesWrite l h.dst (packedFmt m.sfmt) (s.modeOf m.rnd) m.sat m.ftz word
      (fun k => g (s.modeOf m.rnd) (s.readHalf l .sa h.sa m k) (s.readHalf l .sb h.sb m k) (s.readHalf l .sc h.sc m k))) hi
      fun t l k hp he hn hq hc => deliverHalves_wrote h.dst _ _ _ _ _ hp he hn hq hc
  · intro t l hl
    dsimp only
    rw [guarded_tid s h l hl]
    rfl
theorem dotFloat_effect (n : ℕ) : ∃ t, dotFloat h m n s = .next t ∧ RegisterEffect s t h (drawsOf (s.modeOf m.rnd) 1) (fun l =>
    let e := elemD m.sfmt
    let elem := fun pos fld k => elemValue e [] m.ftz ((s.readReg l pos fld).toNat / 2 ^ (e.bits * k) % 2 ^ e.bits)
    let v := dotSum (s.modeOf m.rnd) ((List.range n).map (fun k => (elem .sa h.sa k, elem .sb h.sb k))) (s.readFloat l .sc h.sc fmtF32 m.ftz)
    let r := fmtF32.round (s.modeOf m.rnd) false m.ftz (s.drawn h l (s.modeOf m.rnd) 1 1) v.1
    s.floatWrite l h.dst r.1 (v.2 ||| r.2) (some 4)) := by
  refine ⟨_, rfl, ?_⟩
  rw [runLanes_congr s h _ fun t l => .done (t.deliverRound l h.dst fmtF32 (s.modeOf m.rnd) false m.ftz (dotSum (s.modeOf m.rnd)
    ((List.range n).map (fun k =>
      (elemValue (elemD m.sfmt) [] m.ftz ((s.readReg l .sa h.sa).toNat / 2 ^ ((elemD m.sfmt).bits * k) % 2 ^ (elemD m.sfmt).bits),
        elemValue (elemD m.sfmt) [] m.ftz ((s.readReg l .sb h.sb).toNat / 2 ^ ((elemD m.sfmt).bits * k) % 2 ^ (elemD m.sfmt).bits))))
    (s.readFloat l .sc h.sc fmtF32 m.ftz)) (some 4))]
  · exact deliverRound_effect s h fmtF32 (s.modeOf m.rnd) false m.ftz _ (some 4) hi
  · intro t l hl
    dsimp only
    rw [guarded_tid s h l hl]
    rfl
end

/-! The integer dot product (R189). -/

/-- A byte of a register as a signed number. -/
theorem toSigned_byte (w : Word) (k : ℕ) : toSigned 8 (w.toNat / 2 ^ (8 * k)) = ((w >>> (8 * k)).setWidth 8).toInt := by
  have byte : w.toNat / 2 ^ (8 * k) % 2 ^ 8 = ((w >>> (8 * k)).setWidth 8).toNat := by
    rw [BitVec.toNat_setWidth, BitVec.toNat_ushiftRight, Nat.shiftRight_eq_div_pow]
  simp only [toSigned, byte, BitVec.toInt_eq_toNat_cond]
  norm_num
  split_ifs <;> omega

theorem execDot4_int {s : State} (h : Head) (m : ConvMod) (hi : s.Issued) (hd : m.dint = true) :
    ∃ t, execDot4 h m s = .next t ∧ RegisterEffect s t h 0 (fun l =>
      let byte := fun pos fld (k : Nat) => ((s.readReg l pos fld >>> (8 * k)).setWidth 8).toInt
      s.wordWrite l h.dst (BitVec.ofInt 32 ((s.readReg l .sc h.sc).toInt + byte .sa h.sa 0 * byte .sb h.sb 0 +
        byte .sa h.sa 1 * byte .sb h.sb 1 + byte .sa h.sa 2 * byte .sb h.sb 2 + byte .sa h.sa 3 * byte .sb h.sb 3))) := by
  rw [execDot4, if_pos hd]
  refine ⟨_, rfl, ?_⟩
  refine (result32_effect s h (some 4) _ hi).congr fun l _ _ => ?_
  simp only [toSigned_byte, List.range_succ, List.range_zero, List.nil_append, List.cons_append, List.foldl_cons, List.foldl_nil]

/-- Settles O21: each instruction is the lemma of its name; the sum of a dot product is dotSum_fin. -/
theorem packedAndDotResults : Obligations.PackedAndDotResults := by
  unfold Obligations.PackedAndDotResults
  refine ⟨fun s h m hi => ⟨?packed, ?dot, execDot4_int h m hi⟩, fun mode ps c hp hc => dotSum_fin mode hp hc⟩
  case packed =>
    simp only [List.forall_mem_cons]
    refine ⟨?_, ?_, by simp⟩
    · exact packedHalves_effect h m hi (fun mode a b _ => a.add mode b)
    · exact packedHalves_effect h m hi (fun mode a b c => (((a.mul b).1.add mode c).1, (a.mul b).2 ||| ((a.mul b).1.add mode c).2))
  case dot =>
    simp only [List.forall_mem_cons]
    refine ⟨fun _ => dotFloat_effect h m hi 2, fun hd => ?_, by simp⟩
    have answers : exec (.dot4 h m) s = dotFloat h m 4 s := by simp [execDot4, hd]
    rw [answers]
    exact dotFloat_effect h m hi 4

end Sys2Proof.Machine
end

section
/-! PROOFS. The encoding tables (R111, R118 to R124): every entry of the opcode map encodes back to its slot, and decoding is the inverse. -/

namespace Sys2Proof.Machine

/-! The opcode map (R123): what each of its entries encodes to. -/

/-- MOD as a layout reads it and writes it again (R118). -/
def rereadMod : Layout → BitVec 37 → BitVec 37
  | .int, m => intBits (readInt m)
  | .imm, m => immBits (readImm m)
  | .cmpImm, m => cmpImmBits (readCmpImm m)
  | .special, m => specialBits (readSpecial m)
  | .float, m => floatBits (readFloat m)
  | .floatImm, m => floatImmBits (readFloatImm m)
  | .conv, m => convBits (readConv m)
  | .global, m => globalBits (readGlobal m)
  | .scratch, m => scratchBits (readScratch m)
  | .atomic, m => atomicBits (readAtomic m)
  | .engine, m => engineBits (readEngine m)
  | .branch, m => branchBits (readBranch m)
  | .sync, m => syncBits (readSync m)
  | .fold, m => foldBits (readFold m)
  | .system, m => systemBits (readSystem m)
/-- A layout that meets none of its reserved bits and codes loses no bit of MOD (R118 to R121). -/
theorem rereadMod_eq {l : Layout} {m : BitVec 37} (h : ∀ c ∈ rawChecks l m, c.2 = false) : rereadMod l m = m := by
  cases l with
  | int => exact intBits_readInt m h
  | imm => exact immBits_readImm m h
  | cmpImm => exact cmpImmBits_readCmpImm m h
  | special => exact specialBits_readSpecial m h
  | float => exact floatBits_readFloat m h
  | floatImm => exact floatImmBits_readFloatImm m h
  | conv => exact convBits_readConv m h
  | global => exact globalBits_readGlobal m h
  | scratch => exact scratchBits_readScratch m h
  | atomic => exact atomicBits_readAtomic m h
  | engine => exact engineBits_readEngine m h
  | branch => exact branchBits_readBranch m h
  | sync => exact syncBits_readSync m h
  | fold => exact foldBits_readFold m h
  | system => exact systemBits_readSystem m h

/-- An entry of the opcode map for an opcode, common fields and MOD: its instruction has those fields, and is encoded with that opcode and
with MOD as the layout reads it. -/
def Recodes (n : Nat) (h : Head) (m : BitVec 37) (e : Instr × Layout) : Prop :=
  headOf e.1 = some h ∧ encode e.1 = some (Sys2Proof.slotOf (BitVec.ofNat 10 n) h (rereadMod e.2 m))

section
variable {n : Nat} {h : Head} {m : BitVec 37} {e : Instr × Layout}

theorem intGroupOf_recodes (he : intGroupOf n h m = some e) : Recodes n h m e := by
  unfold intGroupOf at he
  split at he <;> cases he <;> exact ⟨rfl, rfl⟩
theorem floatGroupOf_recodes (he : floatGroupOf n h m = some e) : Recodes n h m e := by
  unfold floatGroupOf at he
  split at he <;> cases he <;> exact ⟨rfl, rfl⟩
theorem convGroupOf_recodes (he : convGroupOf n h m = some e) : Recodes n h m e := by
  unfold convGroupOf at he
  split at he <;> cases he <;> exact ⟨rfl, rfl⟩
theorem memoryGroupOf_recodes (he : memoryGroupOf n h m = some e) : Recodes n h m e := by
  unfold memoryGroupOf at he
  split at he <;> cases he <;> exact ⟨rfl, rfl⟩
theorem atomicGroupOf_recodes (he : atomicGroupOf n h m = some e) : Recodes n h m e := by
  unfold atomicGroupOf at he
  split at he <;> cases he <;> exact ⟨rfl, rfl⟩
theorem engineGroupOf_recodes (he : engineGroupOf n h m = some e) : Recodes n h m e := by
  unfold engineGroupOf at he
  split at he <;> cases he <;> exact ⟨rfl, rfl⟩
/-- A choice of the sub-operation recodes where each side does. -/
theorem Recodes.choice {c : Prop} [Decidable c] {i j : Instr} {l : Layout} (hi : Recodes n h m (i, l)) (hj : Recodes n h m (j, l)) :
    Recodes n h m (if c then i else j, l) := by
  split
  · exact hi
  · exact hj
theorem syncGroupOf_recodes (he : syncGroupOf n h m = some e) : Recodes n h m e := by
  unfold syncGroupOf at he
  split at he <;> cases he <;> (repeat' apply Recodes.choice) <;> exact ⟨rfl, rfl⟩
theorem systemGroupOf_recodes (he : systemGroupOf n h m = some e) : Recodes n h m e := by
  unfold systemGroupOf at he
  split at he <;> cases he <;> (repeat' apply Recodes.choice) <;> exact ⟨rfl, rfl⟩
theorem opcodeMap_recodes (he : opcodeMap n h m = some e) : Recodes n h m e := by
  unfold opcodeMap at he
  split at he
  · exact intGroupOf_recodes he
  · exact floatGroupOf_recodes he
  · exact convGroupOf_recodes he
  · exact memoryGroupOf_recodes he
  · exact atomicGroupOf_recodes he
  · exact engineGroupOf_recodes he
  · exact syncGroupOf_recodes he
  · exact systemGroupOf_recodes he
  · cases he
end

/-- Which opcodes the map has depends on neither the common fields nor MOD. -/
theorem opcodeMap_isSome_congr (n : Nat) (h k : Head) (m b : BitVec 37) : (opcodeMap n h m).isSome = (opcodeMap n k b).isSome := by
  unfold opcodeMap
  split
  · unfold intGroupOf; split <;> rfl
  · unfold floatGroupOf; split <;> rfl
  · unfold convGroupOf; split <;> rfl
  · unfold memoryGroupOf; split <;> rfl
  · unfold atomicGroupOf; split <;> rfl
  · unfold engineGroupOf; split <;> rfl
  · unfold syncGroupOf; split <;> rfl
  · unfold systemGroupOf; split <;> rfl
  · rfl
/-- Common fields that are all zero. -/
def zeroHead : Head := ⟨0, 0, false, 0, 0, 0, 0⟩
theorem opcodeMap_isSome_zero : ∀ n < 1024, (opcodeMap n zeroHead 0).isSome = opcodeAssigned n := by decide +kernel
/-- The map has an entry for exactly the assigned opcodes (R123, R124). -/
theorem opcodeMap_isSome {n : Nat} (hn : n < 1024) (h : Head) (m : BitVec 37) : (opcodeMap n h m).isSome = opcodeAssigned n :=
  (opcodeMap_isSome_congr n h zeroHead m 0).trans (opcodeMap_isSome_zero n hn)
theorem opcodeOf_lt (w : BitVec 96) : opcodeOf w < 1024 := (w.extractLsb' 86 10).isLt

/-! The decoder by what its opcode meets in the map. -/

/-- An accepted slot is that of an unassigned opcode, or its entry of the map passes every check. -/
theorem decode_ok_cases {w : BitVec 96} {i : Instr} (hd : decode w = .ok i) :
    (opcodeAssigned (opcodeOf w) = false ∧ i = .unassignedOpcode w) ∨
    ∃ l, opcodeMap (opcodeOf w) (readHead w) (readMod w) = some (i, l) ∧
      ∀ c ∈ rawChecks l (readMod w) ++ modChecks i ++ unusedChecks (readHead w) (uses i), c.2 = false := by
  have assigned := opcodeMap_isSome (opcodeOf_lt w) (readHead w) (readMod w)
  unfold decode at hd
  split at hd
  next none =>
    cases hd
    rw [none] at assigned
    exact .inl ⟨assigned.symm, rfl⟩
  next j l entry =>
    split at hd
    next => cases hd
    next passes =>
      cases hd
      exact .inr ⟨l, entry, (lowestBad_eq_none _).mp passes⟩
theorem decode_unassigned {w : BitVec 96} (h : opcodeAssigned (opcodeOf w) = false) : decode w = .ok (.unassignedOpcode w) := by
  rw [decode, Laws.Recoded.unassigned h]
/-- An accepted slot is the encoding of what it decodes to. -/
theorem encode_of_decode {w : BitVec 96} {i : Instr} (hd : decode w = .ok i) : encode i = some w := by
  obtain ⟨-, rfl⟩ | ⟨l, entry, passes⟩ := decode_ok_cases hd
  · rfl
  · obtain ⟨-, recoded⟩ := opcodeMap_recodes entry
    have raw : rereadMod l (readMod w) = readMod w :=
      rereadMod_eq fun c hc => passes c (List.mem_append_left _ (List.mem_append_left _ hc))
    rw [recoded, raw, opcodeOf, BitVec.ofNat_toNat, BitVec.setWidth_eq, slotOf_read]
theorem wf_of_headOf {i : Instr} {h : Head} (hh : headOf i = some h) : i.wf = ((modFault i).isNone && (operandFault 256 i).isNone) := by
  unfold Instr.wf
  split
  · cases hh
  · rfl
/-- An accepted slot's instruction is well formed where its operands are (R125). -/
theorem wf_of_decode {w : BitVec 96} {i : Instr} (hd : decode w = .ok i) (ho : operandFault 256 i = none) : i.wf = true := by
  obtain ⟨unassigned, rfl⟩ | ⟨l, entry, passes⟩ := decode_ok_cases hd
  · exact congrArg (!·) unassigned
  · obtain ⟨head, -⟩ := opcodeMap_recodes entry
    have mods : modFault i = none := by
      rw [modFault, head]
      refine (lowestBad_eq_none _).mpr fun c hc => passes c ?_
      rw [List.append_assoc]
      exact List.mem_append_right _ hc
    rw [wf_of_headOf head, mods, ho]
    rfl
/-- Exactly the instructions of a program have a slot: those with common fields, and the unassigned opcode. -/
theorem encode_isSome (i : Instr) : (encode i).isSome = !isMachineStep i := by
  cases i <;> rfl

end Sys2Proof.Machine

namespace Sys2Proof.Laws.Recoded

/-- Every constructor's slot decodes to it: the lemma of its own name, but for the machine steps, which have none. -/
theorem decodes_encoding (i : Instr) : Statement i := by
  cases i with
  | mov => exact mov _ _ | movi => exact movi _ _ | movhi => exact movhi _ _ | rds => exact rds _ _ | add => exact add _ _
  | addImm => exact addImm _ _ | addc => exact addc _ _ | sub => exact sub _ _ | subImm => exact subImm _ _ | subb => exact subb _ _
  | mul => exact mul _ _ | mulImm => exact mulImm _ _ | mulhi => exact mulhi _ _ | mulhiImm => exact mulhiImm _ _ | mad => exact mad _ _
  | madImm => exact madImm _ _ | madw => exact madw _ _ | madwImm => exact madwImm _ _ | div => exact div _ _ | divImm => exact divImm _ _
  | rem => exact rem _ _ | remImm => exact remImm _ _ | abs => exact abs _ _ | neg => exact neg _ _ | min => exact min _ _
  | minImm => exact minImm _ _ | max => exact max _ _ | maxImm => exact maxImm _ _ | clamp => exact clamp _ _ | and => exact and _ _
  | andImm => exact andImm _ _ | or => exact or _ _ | orImm => exact orImm _ _ | xor => exact xor _ _ | xorImm => exact xorImm _ _
  | andn => exact andn _ _ | andnImm => exact andnImm _ _ | orn => exact orn _ _ | ornImm => exact ornImm _ _ | shl => exact shl _ _
  | shlImm => exact shlImm _ _ | shr => exact shr _ _ | shrImm => exact shrImm _ _ | sar => exact sar _ _ | sarImm => exact sarImm _ _
  | rotl => exact rotl _ _ | rotlImm => exact rotlImm _ _ | fshl => exact fshl _ _ | fshlImm => exact fshlImm _ _ | bfx => exact bfx _ _
  | bfxImm => exact bfxImm _ _ | bfi => exact bfi _ _ | bfiImm => exact bfiImm _ _ | brev => exact brev _ _ | popc => exact popc _ _
  | clz => exact clz _ _ | ctz => exact ctz _ _ | bytep => exact bytep _ _ | bytepImm => exact bytepImm _ _ | sel => exact sel _ _
  | cmp => exact cmp _ _ | cmpImm => exact cmpImm _ _ | pand => exact pand _ _ | por => exact por _ _ | pxor => exact pxor _ _
  | pnot => exact pnot _ _ | lea => exact lea _ _ | leaImm => exact leaImm _ _ | fadd => exact fadd _ _ | faddImm => exact faddImm _ _
  | fsub => exact fsub _ _ | fsubImm => exact fsubImm _ _ | fmul => exact fmul _ _ | fmulImm => exact fmulImm _ _ | ffma => exact ffma _ _
  | ffmaImm => exact ffmaImm _ _ | fmin => exact fmin _ _ | fmax => exact fmax _ _ | fcmp => exact fcmp _ _ | fclass => exact fclass _ _
  | fdiv => exact fdiv _ _ | fsqrt => exact fsqrt _ _ | frcp => exact frcp _ _ | frsq => exact frsq _ _ | fexp2 => exact fexp2 _ _
  | flog2 => exact flog2 _ _ | fsin => exact fsin _ _ | fcos => exact fcos _ _ | ftanh => exact ftanh _ _ | frnd => exact frnd _ _
  | fscale => exact fscale _ _ | fabs => exact fabs _ _ | fneg => exact fneg _ _ | cvt => exact cvt _ _ | cvtblk => exact cvtblk _ _
  | deqblk => exact deqblk _ _ | hadd2 => exact hadd2 _ _ | hfma2 => exact hfma2 _ _ | dot2 => exact dot2 _ _ | dot4 => exact dot4 _ _
  | ld => exact ld _ _ | st => exact st _ _ | ldb => exact ldb _ _ | lds => exact lds _ _ | sts => exact sts _ _ | ldn => exact ldn _ _
  | tld => exact tld _ _ | tst => exact tst _ _ | pref => exact pref _ _ | cwb => exact cwb _ _ | leafwt => exact leafwt _ _
  | leaftst => exact leaftst _ _ | atom => exact atom _ _ | cas => exact cas _ _ | red => exact red _ _ | fence => exact fence _ _
  | obres => exact obres _ _ | obrel => exact obrel _ _ | mma => exact mma _ _ | accz => exact accz _ _ | accrd => exact accrd _ _
  | ctab => exact ctab _ _ | tcopy => exact tcopy _ _ | tgath => exact tgath _ _ | qpush => exact qpush _ _ | ctradd => exact ctradd _ _
  | ctrwait => exact ctrwait _ _ | ctrtest => exact ctrtest _ _ | bra => exact bra _ _ | brx => exact brx _ _ | call => exact call _ _
  | callx => exact callx _ _ | ret => exact ret _ _ | nop => exact nop _ _ | yieldN => exact yieldN _ _ | sleep => exact sleep _ _
  | sleepReg => exact sleepReg _ _ | voteAny => exact voteAny _ _ | voteAll => exact voteAll _ _ | voteBallot => exact voteBallot _ _
  | voteCount => exact voteCount _ _ | shfl => exact shfl _ _ | breduce => exact breduce _ _ | bscan => exact bscan _ _
  | matchLead => exact matchLead _ _ | matchUni => exact matchUni _ _ | bsync => exact bsync _ _ | bsyncMask => exact bsyncMask _ _
  | baralloc => exact baralloc _ _ | barallocImm => exact barallocImm _ _ | barfree => exact barfree _ _ | bararv => exact bararv _ _
  | barwt => exact barwt _ _ | barsync => exact barsync _ _ | futset => exact futset _ _ | futsetFail => exact futsetFail _ _
  | futwaitPark => exact futwaitPark _ _ | futwaitCont => exact futwaitCont _ _ | futtest => exact futtest _ _ | fspawn => exact fspawn _ _
  | ffork => exact ffork _ _ | fforkImm => exact fforkImm _ _ | fend => exact fend _ _ | grow => exact grow _ _ | shrink => exact shrink _ _
  | launch => exact launch _ _ | phregCreate => exact phregCreate _ _ | phregJoin => exact phregJoin _ _ | phdrop => exact phdrop _ _
  | phsig => exact phsig _ _ | phwait => exact phwait _ _ | phany => exact phany _ _ | phtest => exact phtest _ _ | phtestRd => exact phtestRd _ _
  | trap => exact trap _ _ | sysc => exact sysc _ _ | rett => exact rett _ _ | rettNext => exact rettNext _ _ | mts => exact mts _ _
  | mfs => exact mfs _ _ | evpop => exact evpop _ _ | wfe => exact wfe _ _ | icinv => exact icinv _ _ | xinv => exact xinv _ _
  | jksave => exact jksave _ _ | jkload => exact jkload _ _ | bkpt => exact bkpt _ _ | haltc => exact haltc _ _
  | unassignedOpcode => exact unassignedOpcode _
  | _ => exact fun _ _ e => by cases e

end Sys2Proof.Laws.Recoded

namespace Sys2Proof.Machine

/-- Settles O4: Recoded.decodes_encoding, encode_of_decode with wf_of_decode, and encode_isSome. -/
theorem encodeThenDecode : Obligations.EncodeThenDecode :=
  ⟨Laws.Recoded.decodes_encoding, fun _ _ hd => ⟨encode_of_decode hd, wf_of_decode hd⟩, encode_isSome⟩

/-- Settles O3: each word is read field by field. -/
theorem decodeWords : Obligations.DecodeWords := by
  unfold Obligations.DecodeWords
  exact ⟨rfl, rfl, rfl, rfl, rfl, rfl, rfl, rfl, rfl, rfl, rfl, rfl, rfl⟩

end Sys2Proof.Machine
end

section
/-! PROOFS. Traps of several lanes, one after another (R124, R329): what a trap leaves of what routes the next one, and the unassigned
opcodes. -/

namespace Sys2Proof.Machine

/-! What routes a trap. -/

/-- t routes a trap as s does: the clock, the teams apart from their fibres, the delegation and the vectors of the partitions, and the
monitor's vectors are those of s (R328, R329). -/
structure State.RoutesAs (s t : State) : Prop where
  now : t.now = s.now
  teams : t.teams.map (fun x => { x with fibres := [] }) = s.teams.map (fun x => { x with fibres := [] })
  parts : ∀ p, (t.partAt p).mdeleg = (s.partAt p).mdeleg ∧ (t.partAt p).stvec = (s.partAt p).stvec
  pkgs : ∀ g, (t.pkgAt g).mtvec = (s.pkgAt g).mtvec

namespace State.RoutesAs

variable {s t u : State}

theorem refl (s : State) : s.RoutesAs s := ⟨rfl, rfl, fun _ => ⟨rfl, rfl⟩, fun _ => rfl⟩
theorem trans (h : s.RoutesAs t) (k : t.RoutesAs u) : s.RoutesAs u :=
  ⟨k.now.trans h.now, k.teams.trans h.teams, fun p => ⟨(k.parts p).1.trans (h.parts p).1, (k.parts p).2.trans (h.parts p).2⟩,
    fun g => (k.pkgs g).trans (h.pkgs g)⟩

/-! The steps of taking a trap. -/

theorem modFibre (s : State) (l : Lane) (g : Fibre → Fibre) : s.RoutesAs (s.modFibre l g) :=
  ⟨rfl, State.modFibre_bare s l g, fun _ => ⟨rfl, rfl⟩, fun _ => rfl⟩
theorem modPkg (s : State) (p : Nat) {f : Pkg → Pkg} (hf : ∀ k, (f k).mtvec = k.mtvec) : s.RoutesAs (s.modPkg p f) where
  now := rfl
  teams := rfl
  parts := fun _ => ⟨rfl, rfl⟩
  pkgs := fun g => by
    rw [State.pkgAt_modPkg]
    split
    · exact hf _
    · rfl
theorem modPart (s : State) (p : Nat) {f : Part → Part} (hf : ∀ k, (f k).mdeleg = k.mdeleg ∧ (f k).stvec = k.stvec) :
    s.RoutesAs (s.modPart p f) where
  now := rfl
  teams := rfl
  parts := fun q => by
    rw [State.partAt_modPart]
    split
    · exact hf _
    · exact ⟨rfl, rfl⟩
  pkgs := fun _ => rfl
theorem logEvent (s : State) (pkg part : Nat) (e : Event) : s.RoutesAs (s.logEvent pkg part e) := by
  have recorded : ∀ k : Pkg, (k.record s.now part e).mtvec = k.mtvec := by
    intro k
    unfold Pkg.record
    split <;> rfl
  unfold State.logEvent
  split
  · refine modPkg s pkg fun k => ?_
    dsimp only
    split
    · exact recorded k
    · exact recorded k
  · exact refl s
theorem sendEvent (s : State) (part : Nat) (e : Event) : s.RoutesAs (s.sendEvent part e) := by
  unfold State.sendEvent
  split
  · exact (logEvent s _ _ e).trans (modPart _ _ fun _ => ⟨rfl, rfl⟩)
  · exact (logEvent s _ _ e).trans (modPkg _ _ fun _ => rfl)
theorem haltFibre (s : State) (l : Lane) : s.RoutesAs (s.haltFibre l) := (modFibre s l _).trans (sendEvent _ _ _)

/-! What a trap reads. -/

/-- Of the team of a number, everything but its fibres. -/
theorem team (h : s.RoutesAs t) (i : Nat) : { t.team i with fibres := [] } = { s.team i with fibres := [] } := by
  have bare : ∀ v : State, ((v.teams.map (fun x : Team => { x with fibres := [] })).find? (fun x => x.tid == i)).getD { tid := i } =
      { v.team i with fibres := [] } := by
    intro v
    unfold State.team
    rw [List.find?_map]
    show ((v.team? i).map _).getD _ = _
    cases v.team? i <;> rfl
  rw [← bare t, ← bare s, h.teams]
theorem delegated (h : s.RoutesAs t) (p : Nat) (c : Cause.Code) : t.delegated p c = s.delegated p c := by
  unfold State.delegated
  rw [(h.parts p).1]
theorem handlerLevel (h : s.RoutesAs t) (i : Nat) (lv : Level) (c : Cause.Code) :
    t.handlerLevel (t.team i) lv c = s.handlerLevel (s.team i) lv c := by
  have key : (t.team i).partKey = (s.team i).partKey := (congrArg Team.partKey (h.team i) :)
  have sdeleg : (t.team i).sdeleg = (s.team i).sdeleg := (congrArg Team.sdeleg (h.team i) :)
  have utvec : (t.team i).utvec = (s.team i).utvec := (congrArg Team.utvec (h.team i) :)
  unfold State.handlerLevel
  rw [h.delegated, key, sdeleg, utvec]
theorem vector (h : s.RoutesAs t) (i : Nat) (lv : Level) : t.vector (t.team i) lv = s.vector (s.team i) lv := by
  cases lv with
  | user => exact (congrArg Team.utvec (h.team i) :)
  | supervisor =>
    have key : (t.team i).partKey = (s.team i).partKey := (congrArg Team.partKey (h.team i) :)
    show (t.partAt _).stvec = (s.partAt _).stvec
    rw [(h.parts _).2, key]
  | monitor =>
    have pkg : (t.team i).pkg = (s.team i).pkg := (congrArg Team.pkg (h.team i) :)
    show (t.pkgAt _).mtvec = (s.pkgAt _).mtvec
    rw [h.pkgs, pkg]

end State.RoutesAs

/-! One lane's trap, for a cause without a recorded fault. -/

/-- A fibre enters the handler of a level (R329): the copy of the level filled, the level and the vector taken up. -/
def Fibre.entered (h : Level) (vec : Dword) (c : Cause.Code) (v : Dword) (now : Nat) (f : Fibre) : Fibre :=
  { (f.settle.setCopy h { epc := f.pc, cause := c, val := v, ppriv := f.level, nest := true }) with
    level := h, pc := vec, readyAt := max f.readyAt (now + 1), readySince := max f.readyAt (now + 1) }
theorem Fibre.entered_fid (h : Level) (vec : Dword) (c : Cause.Code) (v : Dword) (now : Nat) (f : Fibre) :
    (f.entered h vec c v now).fid = f.fid := by simp [Fibre.entered]
/-- A lane enters the handler of a level, and is halted where that level's trap is not over or its vector is zero (R329). -/
def State.enter (s : State) (l : Lane) (h : Level) (vec : Dword) (c : Cause.Code) (v : Dword) : State :=
  if ((s.fibre l).copy h).nest then s.haltFibre l
  else if vec = 0 then (s.modFibre l (Fibre.entered h vec c v s.now)).haltFibre l
  else s.modFibre l (Fibre.entered h vec c v s.now)
theorem State.takeTrap_enter (s : State) (l : Lane) (c : Cause.Code) (v : Dword) (h1 : c ≠ Cause.storeDeferred) (h2 : c ≠ Cause.engFault) :
    s.takeTrap l c v =
      let h0 := s.handlerLevel (s.team l.tid) (s.fibre l).level c
      if ((s.fibre l).copy h0).nest && h0 ≠ .monitor then
        s.enter l .monitor (s.vector (s.team l.tid) .monitor) Cause.doubleTrap (c.zeroExtend 64)
      else s.enter l h0 (s.vector (s.team l.tid) h0) c v := by
  unfold State.takeTrap
  rw [lostEvents_other s l c h1 h2]
  dsimp only
  split <;> rfl

theorem State.enter_routes (s : State) (l : Lane) (h : Level) (vec : Dword) (c : Cause.Code) (v : Dword) : s.RoutesAs (s.enter l h vec c v) := by
  unfold State.enter
  split
  · exact .haltFibre s l
  · split
    · exact (State.RoutesAs.modFibre s l _).trans (.haltFibre _ l)
    · exact .modFibre s l _
theorem State.enter_other {s : State} {l k : Lane} (hk : k ≠ l) (h : Level) (vec : Dword) (c : Cause.Code) (v : Dword) :
    (s.enter l h vec c v).fibre? k = s.fibre? k := by
  unfold State.enter
  split
  · rw [haltFibre_fibre?, if_neg hk]
  · split
    · rw [haltFibre_fibre?, if_neg hk, State.fibre?_modFibre _ _ _ (Fibre.entered_fid h vec c v _), if_neg hk]
    · rw [State.fibre?_modFibre _ _ _ (Fibre.entered_fid h vec c v _), if_neg hk]
/-- What becomes of the lane depends on its fibre and the clock only. -/
theorem State.enter_congr {s t : State} {l : Lane} (hf : t.fibre? l = s.fibre? l) (he : t.fibre l = s.fibre l) (hn : t.now = s.now)
    (h : Level) (vec : Dword) (c : Cause.Code) (v : Dword) : (t.enter l h vec c v).fibre? l = (s.enter l h vec c v).fibre? l := by
  have entered : (t.modFibre l (Fibre.entered h vec c v t.now)).fibre? l = (s.modFibre l (Fibre.entered h vec c v s.now)).fibre? l := by
    rw [State.fibre?_modFibre _ _ _ (Fibre.entered_fid h vec c v _), State.fibre?_modFibre _ _ _ (Fibre.entered_fid h vec c v _), hf, hn]
  unfold State.enter
  rw [he]
  split
  · rw [haltFibre_fibre?, haltFibre_fibre?, hf]
  · split
    · rw [haltFibre_fibre?, haltFibre_fibre?, entered]
    · exact entered

/-- A fibre that has issued: its next issue is not before n (R114). -/
def Fibre.readyFrom (n : Nat) (f : Fibre) : Fibre := { f with readyAt := n }
theorem State.fibre?_readyFrom (s : State) (l : Lane) (n : Nat) (k : Lane) :
    (s.modFibre l (Fibre.readyFrom n)).fibre? k = if k = l then (s.fibre? k).map (Fibre.readyFrom n) else s.fibre? k :=
  State.fibre?_modFibre s l (Fibre.readyFrom n) (fun _ => rfl) k
theorem State.trapped_eq (s : State) (l : Lane) (h : Head) (c : Cause.Code) (v : Dword) :
    s.trapped l h c v = (s.modFibre l (Fibre.readyFrom (s.now + max h.stall.toNat 1))).takeTrap l c v := rfl

section
variable {c : Cause.Code} (h1 : c ≠ Cause.storeDeferred) (h2 : c ≠ Cause.engFault)
include h1 h2

theorem State.trapped_routes (s : State) (l : Lane) (h : Head) (v : Dword) : s.RoutesAs (s.trapped l h c v) := by
  refine (State.RoutesAs.modFibre s l (Fibre.readyFrom (s.now + max h.stall.toNat 1))).trans ?_
  rw [State.trapped_eq, State.takeTrap_enter _ _ _ _ h1 h2]
  dsimp only
  split <;> exact State.enter_routes ..
theorem State.trapped_other {s : State} {l k : Lane} (hk : k ≠ l) (h : Head) (v : Dword) : (s.trapped l h c v).fibre? k = s.fibre? k := by
  rw [State.trapped_eq, State.takeTrap_enter _ _ _ _ h1 h2]
  dsimp only
  split <;> rw [State.enter_other hk, State.fibre?_readyFrom, if_neg hk]
/-- A lane's trap is the same in every state that routes traps alike. -/
theorem State.trapped_congr {s t : State} {l : Lane} (hr : s.RoutesAs t) {f : Fibre} (hs : s.fibre? l = some f) (ht : t.fibre? l = some f)
    (h : Head) (v : Dword) : (t.trapped l h c v).fibre? l = (s.trapped l h c v).fibre? l := by
  rw [State.trapped_eq, State.trapped_eq, hr.now]
  generalize s.now + max h.stall.toNat 1 = n
  have issued : ∀ u : State, u.fibre? l = some f → (u.modFibre l (Fibre.readyFrom n)).fibre? l = some (f.readyFrom n) := fun u hu => by
    rw [State.fibre?_readyFrom, if_pos rfl, hu, Option.map_some]
  have routed : (s.modFibre l (Fibre.readyFrom n)).RoutesAs (t.modFibre l (Fibre.readyFrom n)) :=
    ⟨hr.now, by rw [State.modFibre_bare, State.modFibre_bare, hr.teams], hr.parts, hr.pkgs⟩
  have fs := State.fibre_eq _ _ _ (issued s hs)
  have ft := State.fibre_eq _ _ _ (issued t ht)
  have same := State.enter_congr ((issued t ht).trans (issued s hs).symm) (ft.trans fs.symm) routed.now
  rw [State.takeTrap_enter _ _ _ _ h1 h2, State.takeTrap_enter _ _ _ _ h1 h2]
  dsimp only
  rw [ft, fs, routed.handlerLevel, routed.vector, routed.vector]
  split <;> exact same ..

/-- The lanes of a list trapped one after another, where no result is in flight: each as if it were alone. -/
theorem State.foldl_trapped {s0 : State} (h : Head) (v : Dword) : ∀ (ls : List Lane) (s : State), ls.Nodup → s0.RoutesAs s →
    (∀ l ∈ ls, s.fibre? l = some (s0.fibre l) ∧ s0.fibre? l = some (s0.fibre l)) →
    let u := ls.foldl (fun t l => t.finish l h (.trap c v)) s
    (∀ l ∈ ls, u.fibre? l = if (s0.fibre l).inFlight then s0.fibre? l else (s0.trapped l h c v).fibre? l) ∧
      ∀ l, l ∉ ls → u.fibre? l = s.fibre? l
  | [], _, _, _, _ => ⟨by simp, fun _ _ => rfl⟩
  | a :: ls, s, hn, hr, hf => by
    obtain ⟨ha, hn⟩ := List.nodup_cons.mp hn
    obtain ⟨found, found0⟩ := hf a (by simp)
    have own : s.fibre a = s0.fibre a := State.fibre_eq s a _ found
    have finished : s.finish a h (.trap c v) = if (s0.fibre a).inFlight then s else s.trapped a h c v := by rw [finish_trap, own]
    have routed : s0.RoutesAs (s.finish a h (.trap c v)) := by
      rw [finished]
      split
      · exact hr
      · exact hr.trans (State.trapped_routes h1 h2 s a h v)
    have others : ∀ k, k ≠ a → (s.finish a h (.trap c v)).fibre? k = s.fibre? k := fun k hk => by
      rw [finished]
      split
      · rfl
      · exact State.trapped_other h1 h2 hk h v
    have first : (s.finish a h (.trap c v)).fibre? a = if (s0.fibre a).inFlight then s0.fibre? a else (s0.trapped a h c v).fibre? a := by
      rw [finished]
      split
      · rw [found, found0]
      · exact State.trapped_congr h1 h2 hr found0 found h v
    have hne : ∀ l ∈ ls, l ≠ a := fun l hl e => ha (e ▸ hl)
    obtain ⟨inside, outside⟩ := State.foldl_trapped h v ls _ hn routed fun l hl => by
      rw [others l (hne l hl)]
      exact hf l (by simp [hl])
    refine ⟨List.forall_mem_cons.mpr ⟨(outside a ha).trans first, inside⟩, fun l hl => ?_⟩
    obtain ⟨hla, hl⟩ := not_or.mp (mt List.mem_cons.mpr hl)
    exact (outside l hl).trans (others l hla)
end

/-! The unassigned opcodes. -/

/-- An assigned opcode's slot is never read as an unassigned one's: the entries of the map have common fields. -/
theorem decode_assigned {w : BitVec 96} (h : opcodeAssigned (opcodeOf w) = true) (v : BitVec 96) : decode w ≠ .ok (.unassignedOpcode v) := by
  intro hd
  obtain ⟨unassigned, -⟩ | ⟨l, entry, -⟩ := decode_ok_cases hd
  · rw [unassigned] at h
    cases h
  · obtain ⟨head, -⟩ := opcodeMap_recodes entry
    cases head
/-- ILLEGAL_OP in every fibre of the signature whose results have arrived (R124, R116). -/
theorem execUnassignedOpcode_fibres {s : State} (hi : s.Issued) (w : BitVec 96) : ∃ u, exec (.unassignedOpcode w) s = .next u ∧
    ∀ l ∈ s.sigLanes, u.fibre? l = if (s.fibre l).inFlight then s.fibre? l
      else (s.trapped l (readHead w) Cause.illegalOp (BitVec.ofNat 64 (opcodeOf w))).fibre? l := by
  have found : ∀ l ∈ s.sigLanes, s.fibre? l = some (s.fibre l) := fun l hl => State.fibre?_of_isSome s l (hi.present hl)
  exact ⟨_, rfl, (State.foldl_trapped (by decide) (by decide) (readHead w) _ s.sigLanes s (sigLanes_nodup s hi.1) (.refl s)
    fun l hl => ⟨found l hl, found l hl⟩).1⟩

/-- Settles O5: decode_unassigned, decode_assigned and execUnassignedOpcode_fibres; that the listed opcodes are unassigned is arithmetic. -/
theorem unassignedOpcodes : Obligations.UnassignedOpcodes := by
  unfold Obligations.UnassignedOpcodes
  refine ⟨fun w => ⟨decode_unassigned, decode_assigned⟩, fun n hn => ?_, fun s w hi => execUnassignedOpcode_fibres hi w⟩
  simp only [List.mem_cons, List.not_mem_nil, or_false] at hn
  simp only [opcodeAssigned, Bool.or_eq_false_iff, Bool.and_eq_false_iff, decide_eq_false_iff_not, bne_eq_false_iff_eq]
  omega

end Sys2Proof.Machine
end

section
/-! PROOFS. The lines that transfers read (R104, R154, R361): using a line reads nothing of the teams and changes nothing of them. -/

namespace Sys2Proof.Machine

/-- A state with other teams. -/
def State.withTeams (s : State) (ts : List Team) : State := { s with teams := ts }
/-- A step that neither reads nor changes the teams. -/
def TeamBlind (f : State → State) : Prop := ∀ (s : State) (ts : List Team), f (s.withTeams ts) = (f s).withTeams ts

theorem TeamBlind.comp {f g : State → State} (hg : TeamBlind g) (hf : TeamBlind f) : TeamBlind (fun s => g (f s)) := fun s ts =>
  (congrArg g (hf s ts)).trans (hg (f s) ts)
theorem TeamBlind.foldl {α : Type} {f : State → α → State} (hf : ∀ x, TeamBlind (fun s => f s x)) (l : List α) :
    TeamBlind (fun s => l.foldl f s) := by
  intro s ts
  induction l generalizing s with
  | nil => rfl
  | cons x r ih =>
    exact (congrArg (fun u => r.foldl f u) (hf x s ts)).trans (ih (f s x))

/-! Reading a table or a cache. -/

section
variable (s : State) (ts : List Team)

@[simp] theorem walkFrom_withTeams (pkg off n level table : Nat) :
    (s.withTeams ts).walkFrom pkg off n level table = s.walkFrom pkg off n level table := by
  induction n generalizing level table with
  | zero => rfl
  | succ n ih => simp only [State.walkFrom, ih]; rfl
@[simp] theorem walk_withTeams (part off : Nat) : (s.withTeams ts).walk part off = s.walk part off := walkFrom_withTeams s ts ..
@[simp] theorem lookup_withTeams (part off : Nat) : (s.withTeams ts).lookup part off = s.lookup part off := by
  unfold State.lookup
  rw [walk_withTeams]
  rfl
@[simp] theorem sysKey_withTeams (sp ia : Nat) : (s.withTeams ts).sysKey sp ia = s.sysKey sp ia := by
  unfold State.sysKey
  rw [lookup_withTeams]
  rfl
theorem cachedAt_withTeams (key n : Nat) (owned : Bool) : (s.withTeams ts).cachedAt key n owned = s.cachedAt key n owned := by
  unfold State.cachedAt
  simp only [sysKey_withTeams]
  rfl
end

/-! The steps of using a line, in the order in which the model builds them. -/

namespace TeamBlind

theorem modPkg (p : Nat) (f : Pkg → Pkg) : TeamBlind (fun s => s.modPkg p f) := fun _ _ => rfl
theorem hbmNote (sp ia : Nat) (w : Bool) : TeamBlind (fun s => s.hbmNote sp ia w) := by
  intro s ts
  have noted : (s.withTeams ts).hbm = s.hbm := rfl
  simp only [State.hbmNote, sysKey_withTeams, noted]
  cases s.sysKey sp ia with
  | none => rfl
  | some k => dsimp only; generalize HbmReq.mk _ _ _ _ _ = r; split <;> rfl
theorem writeSys (sp ia : Nat) (v : Byte) : TeamBlind (fun s => s.writeSys sp ia v) := by
  intro s ts
  simp only [State.writeSys, sysKey_withTeams]
  cases s.sysKey sp ia with
  | none => rfl
  | some k => exact hbmNote sp ia true { s with mem := Memory.set s.mem k v, memCache := dropByte s.memCache sp ia } ts
theorem supersede (sp ia : Nat) (pt : Point) (p core : Option Nat) (slice : Bool) : TeamBlind (fun s => s.supersede sp ia pt p core slice) :=
  fun _ _ => rfl
theorem backHome (p : Nat) (b : CByte) : TeamBlind (fun s => s.backHome p b) := by
  intro s ts
  simp only [State.backHome, sysKey_withTeams]
  split
  · rfl
  · split
    · rfl
    · exact congrArg (fun u : State => u.modPkg p _)
        (writeSys b.sp b.ia b.val ({ s with seq := s.seq + 1 }.supersede b.sp b.ia .system (some p) none true) ts)
theorem drawIn (p sp ia : Nat) : TeamBlind (fun s => s.drawIn p sp ia) := by
  intro s ts
  have core : (s.withTeams ts).coreOwner p sp ia = s.coreOwner p sp ia := rfl
  have far : (s.withTeams ts).farOwner p sp ia = s.farOwner p sp ia := rfl
  simp only [State.drawIn, core, far]
  split
  · rfl
  · split
    · rfl
    · split <;> rfl
theorem flushSys (sp ia : Nat) : TeamBlind (fun s => s.flushSys sp ia) := by
  intro s ts
  have slice : (s.withTeams ts).pkgAt (homePkg ia) = s.pkgAt (homePkg ia) := rfl
  simp only [State.flushSys, slice]
  split
  · split
    · exact backHome _ _ s ts
    · rfl
  · rfl
theorem flushPhys (key n : Nat) : TeamBlind (fun s => s.flushPhys key n) := by
  intro s ts
  simp only [State.flushPhys, cachedAt_withTeams]
  exact foldl (fun x => (flushSys x.1 x.2).comp (drawIn (homePkg x.2) x.1 x.2)) (s.cachedAt key n true) s ts
theorem writePhys (key : Nat) (bs : List Byte) : TeamBlind (fun s => s.writePhys key bs) := by
  intro s ts
  have superseded := foldl (fun x => supersede x.1 x.2 .system none none false) (s.cachedAt key bs.length false) s ts
  dsimp only at superseded
  simp only [State.writePhys, cachedAt_withTeams]
  rw [superseded]
  rfl
theorem updateEntry (key : Nat) (g : Nat → Nat) : TeamBlind (fun s => s.updateEntry key g) := by
  intro s ts
  have flushed := flushPhys key 8 s ts
  dsimp only at flushed
  simp only [State.updateEntry, flushed]
  exact writePhys key _ (s.flushPhys key 8) ts
theorem touchPage (part ia : Nat) : TeamBlind (fun s => s.touchPage part ia) := by
  intro s ts
  have home : (s.withTeams ts).homePart part ia = s.homePart part ia := rfl
  simp only [State.touchPage, home, walk_withTeams]
  cases s.homePart part ia with
  | none => rfl
  | some hp =>
    dsimp only
    cases s.walk hp (iaOff ia) with
    | leaf e addr lvl =>
      have updated := updateEntry (physKey 1 (hp / 96) addr) (fun e => if bitAt e 6 then e else e + 64) s ts
      dsimp only at updated ⊢
      rw [updated]
      split
      · exact modPkg _ _ s ts
      · exact modPkg _ _ (s.updateEntry _ _) ts
    | absent => rfl
    | invalid => rfl
    | format => rfl
theorem touchCode (t : Team) (level : Level) (pc : Dword) : TeamBlind (fun s => s.touchCode t level pc) := by
  intro s ts
  have range : (s.withTeams ts).rangeCheck t.partKey level .exec (lineOf pc) = s.rangeCheck t.partKey level .exec (lineOf pc) := rfl
  simp only [State.touchCode, range]
  split
  · exact touchPage _ _ s ts
  · rfl
theorem useLine (t : Team) (level : Level) (pc : Dword) (line : List Byte) : TeamBlind (fun s => s.useLine t level pc line) := by
  intro s ts
  have core : (s.withTeams ts).coreAt t.coreKey = s.coreAt t.coreKey := rfl
  simp only [State.useLine, core]
  split
  · split <;> rfl
  · exact touchCode t level pc s ts

end TeamBlind

end Sys2Proof.Machine
end

section
/-! PROOFS. Transfers (R122, R154, R155): each guarded lane's line is used, its link written and its PC moved, lane after lane; that leaves
what the lines used first and the lanes moved after them leave. -/

namespace Sys2Proof.Machine

/-! A line used. -/

/-- A step such as the use of a line: it neither reads nor changes the teams, and moves bytes only. -/
structure LineUse (f : State → State) : Prop where
  blind : TeamBlind f
  rest : ∀ s, (f s).besideBytes = s.besideBytes

namespace LineUse

variable {f : State → State} (hf : LineUse f)

theorem comp {g : State → State} (hg : LineUse g) (hf : LineUse f) : LineUse (fun s => g (f s)) :=
  ⟨hg.blind.comp hf.blind, fun s => (hg.rest (f s)).trans (hf.rest s)⟩
theorem foldl {α : Type} {f : State → α → State} (hf : ∀ x, LineUse (fun s => f s x)) (l : List α) : LineUse (fun s => l.foldl f s) where
  blind := TeamBlind.foldl (fun x => (hf x).blind) l
  rest s := by
    induction l generalizing s with
    | nil => rfl
    | cons x r ih => exact (ih (f s x)).trans ((hf x).rest s)
theorem useLine (t : Team) (level : Level) (pc : Dword) (line : List Byte) : LineUse (fun s => s.useLine t level pc line) where
  blind := .useLine t level pc line
  rest s := by
    unfold State.useLine
    split
    · split <;> rfl
    · exact (State.MovesBytes.touchCode s t level pc).rest
include hf
theorem teams (s : State) : (f s).teams = s.teams := (congrArg State.teams (hf.rest s) :)
theorem now (s : State) : (f s).now = s.now := (congrArg State.now (hf.rest s) :)
theorem sig (s : State) : (f s).sig = s.sig := (congrArg State.sig (hf.rest s) :)
theorem freeCtr (s : State) : (f s).freeCtr = s.freeCtr := (congrArg State.freeCtr (hf.rest s) :)
theorem team (s : State) (i : Nat) : (f s).team i = s.team i := by
  unfold State.team State.team?
  rw [hf.teams]
theorem fibre (s : State) (l : Lane) : (f s).fibre l = s.fibre l := congrArg (Team.fibre · l.fid) (hf.team s l.tid)
theorem fibre? (s : State) (l : Lane) : (f s).fibre? l = s.fibre? l := fibre?_of_teams _ _ (hf.teams s) l
theorem sigLanes (s : State) : (f s).sigLanes = s.sigLanes := by
  unfold State.sigLanes
  rw [hf.sig]
theorem guard (s : State) (h : Head) : (f s).guard h = s.guard h := by
  funext l
  unfold State.guard State.readPred State.readName
  rw [hf.team, hf.fibre, hf.now, hf.freeCtr]
theorem issued {s : State} (hi : s.Issued) : (f s).Issued := by
  unfold State.Issued
  simp only [hf.sig, hf.team, hf.fibre, hf.fibre?]
  exact hi
end LineUse

/-! Steps that change only the teams, and read only them and the clock. -/

/-- The teams and the clock alone. -/
def State.teamPart (s : State) : State := { State.reset with teams := s.teams, now := s.now }
/-- A step that changes only the teams, reading no more than them and the clock. -/
def TeamsOnly (g : State → State) : Prop := ∀ s, g s = s.withTeams (g s.teamPart).teams
theorem TeamsOnly.comm {f g : State → State} (hg : TeamsOnly g) (hf : LineUse f) (s : State) : f (g s) = g (f s) := by
  have part : (f s).teamPart = s.teamPart := by
    unfold State.teamPart
    rw [hf.teams, hf.now]
  rw [hg s, hg (f s), hf.blind, part]
theorem TeamsOnly.comp {f g : State → State} (hg : TeamsOnly g) (hf : TeamsOnly f) : TeamsOnly (fun s => g (f s)) := by
  intro s
  have inner : f s.teamPart = s.teamPart.withTeams (f s.teamPart).teams := hf s.teamPart
  have part : (f s).teamPart = (f s.teamPart).teamPart := by
    rw [hf s, inner]
    rfl
  have outer := hg (f s.teamPart)
  show g (f s) = s.withTeams (g (f s.teamPart)).teams
  rw [hg (f s), part, outer, hf s]
  rfl
theorem setPc_teamsOnly (l : Lane) (st : BitVec 4) (pc : Dword) : TeamsOnly (fun s => s.setPc l st pc) := fun _ => rfl

/-! The link (R155). -/

/-- The link of a transfer that has one. -/
def State.linked (t : State) (l : Lane) (fld : Field) (v : Dword) (link : Bool) : State := if link then t.writePair l fld v none else t
/-- The same under the number of another producer. -/
def State.linkedAs (t : State) (n : Nat) (l : Lane) (fld : Field) (v : Dword) (link : Bool) : State :=
  { ({ t with seq := n }.linked l fld v link) with seq := t.seq }
/-- What a link leaves in its lane. -/
def linkWrite (fld : Field) (v : Dword) (link : Bool) : LaneWrite :=
  if link then { regs := [(regName fld.file fld.idx, v.lo), (regName fld.file (fld.idx + 1), v.hi)] } else { }

section
variable (t : State) (n : Nat) (l : Lane) (fld : Field) (v : Dword) (link : Bool)

theorem linked_wrote (key : Nat) : Wrote t (t.linked l fld v link) l key 0 (linkWrite fld v link) := by
  cases link with
  | false => exact Wrote.refl t l key
  | true => exact writePair_wrote t l key fld v none
theorem linkedAs_wrote (key : Nat) : Wrote t (t.linkedAs n l fld v link) l key 0 (linkWrite fld v link) := by
  obtain ⟨fibre, others, teams, cores, rest⟩ := linked_wrote { t with seq := n } l fld v link key
  exact ⟨fibre, others, teams, cores, congrArg (fun u : State => { u with seq := t.seq }) rest⟩
theorem linkedAs_own : t.linkedAs t.seq l fld v link = t.linked l fld v link := by
  have number : (t.linked l fld v link).seq = t.seq := (linked_wrote t l fld v link 0).seq
  show { t.linked l fld v link with seq := t.seq } = t.linked l fld v link
  rw [← number]
theorem linkedAs_teamsOnly : TeamsOnly (fun t => t.linkedAs n l fld v link) := by
  intro t
  cases link with
  | false => rfl
  | true =>
    unfold State.linkedAs State.linked State.writePair regName
    cases fld.file <;> rfl
end

/-! One lane after another. -/

theorem State.fibre_getD (s : State) (l : Lane) : s.fibre l = (s.fibre? l).getD { fid := l.fid } := by
  unfold State.fibre State.fibre? State.team
  cases s.team? l.tid <;> rfl
/-- A lane linked, under a producer's number, and its PC moved. -/
def State.laneMoved (t : State) (l : Lane) (h : Head) (n : Nat) (v : Dword) (link : Bool) (pc : Dword) : State :=
  (t.linkedAs n l h.dst v link).setPc l h.stall pc
theorem laneMoved_teamsOnly (l : Lane) (h : Head) (n : Nat) (v : Dword) (link : Bool) (pc : Dword) :
    TeamsOnly (fun t => t.laneMoved l h n v link pc) :=
  (setPc_teamsOnly l h.stall pc).comp (linkedAs_teamsOnly n l h.dst v link)
/-- Another lane has no single step due afterwards, if it had none before. -/
theorem State.Unstepped.laneMoved {t : State} {a l : Lane} (hs : t.Unstepped l) (hl : l ≠ a) (h : Head) (n : Nat) (v : Dword) (link : Bool)
    (pc : Dword) : (t.laneMoved a h n v link pc).Unstepped l := by
  have wrote := linkedAs_wrote t n a h.dst v link 0
  have found : (t.laneMoved a h n v link pc).fibre? l = t.fibre? l := by
    unfold State.laneMoved
    rw [setPc_eq, State.fibre?_modFibre _ _ (fun f => f.movedTo ..) (fun _ => rfl), if_neg hl, wrote.others l hl]
  have debug : ((t.laneMoved a h n v link pc).team l.tid).dbgctl = (t.team l.tid).dbgctl :=
    (State.team_dbgctl_of_bare l.tid (State.modFibre_bare _ a _)).trans (wrote.dbgctl l.tid)
  unfold State.Unstepped
  rw [State.fibre_getD, found, ← State.fibre_getD, debug]
  exact hs
theorem LineUse.unstepped {f : State → State} (hf : LineUse f) {t : State} {l : Lane} (hs : t.Unstepped l) : (f t).Unstepped l := by
  unfold State.Unstepped
  rw [hf.fibre, hf.team]
  exact hs
/-- A lane that completes without a single step due moves its PC and nothing else. -/
theorem State.finish_goto_unstepped {t u : State} {l : Lane} (hs : t.Unstepped l) (hd : (u.team l.tid).dbgctl = (t.team l.tid).dbgctl) (h : Head)
    (pc : Dword) : t.finish l h (.goto pc u) = u.setPc l h.stall pc :=
  complete_unstepped u l h.stall (t.fibre l).level pc fun e => hd ▸ hs e

section
variable (h : Head) (g : Lane → Bool) (pc v : Lane → Dword) (link : Bool) (use : Lane → State → State)

/-- A lane of a transfer: where its guard is true it uses its line, links and goes to its target; else it goes on (R113, R154, R155). -/
def State.transferLane (t : State) (l : Lane) : State :=
  t.finish l h (if g l then .goto (pc l) ((use l t).linked l h.dst (v l) link) else .done t)
/-- The same, the line used already, its link written under a producer's number. -/
def State.moveLane (q : Lane → Nat) (t : State) (l : Lane) : State :=
  t.finish l h (if g l then .goto (pc l) (t.linkedAs (q l) l h.dst (v l) link) else .done t)
/-- Where a lane of a transfer goes (R103, R113). -/
def laneTarget (t : State) (l : Lane) : Dword := if g l then pc l else nextPc (t.fibre l).pc
/-- The use of a lane's line, where its guard is true. -/
def laneUse (l : Lane) (t : State) : State := if g l then use l t else t

theorem moveLane_eq (q : Lane → Nat) {t : State} {l : Lane} (hs : t.Unstepped l) :
    t.moveLane h g pc v link q l = t.laneMoved l h (q l) (v l) (link && g l) (laneTarget g pc t l) := by
  unfold State.moveLane laneTarget State.laneMoved
  cases hg : g l with
  | true =>
    rw [Bool.and_true]
    exact State.finish_goto_unstepped hs ((linkedAs_wrote t (q l) l h.dst (v l) link 0).dbgctl l.tid) h (pc l)
  | false =>
    rw [Bool.and_false]
    exact State.finish_goto_unstepped hs rfl h _

variable (hu : ∀ l, LineUse (use l))
include hu

theorem laneUse_lineUse (l : Lane) : LineUse (laneUse g use l) := by
  unfold laneUse
  cases g l with
  | true => exact hu l
  | false => exact ⟨fun _ _ => rfl, fun _ => rfl⟩
theorem transferLane_eq {t : State} {l : Lane} (hs : t.Unstepped l) :
    t.transferLane h g pc v link use l =
      (laneUse g use l t).laneMoved l h (use l t).seq (v l) (link && g l) (laneTarget g pc t l) := by
  unfold State.transferLane laneTarget laneUse State.laneMoved
  cases hg : g l with
  | true =>
    have debug := (linked_wrote (use l t) l h.dst (v l) link 0).dbgctl l.tid
    rw [(hu l).team] at debug
    simp only [if_true, Bool.and_true]
    rw [linkedAs_own]
    exact State.finish_goto_unstepped hs debug h (pc l)
  | false =>
    rw [Bool.and_false]
    exact State.finish_goto_unstepped hs rfl h _

/-- The lanes of a transfer one after another leave what the lines used first, and the lanes moved after them, leave; only under which
numbers the links are noted depends on the order. -/
theorem foldl_transferLane : ∀ (ls : List Lane) (t : State), ls.Nodup → (∀ l ∈ ls, t.Unstepped l) → ∃ q : Lane → Nat,
    ls.foldl (State.transferLane h g pc v link use) t =
      ls.foldl (State.moveLane h g pc v link q) (ls.foldl (fun u l => laneUse g use l u) t)
  | [], _, _, _ => ⟨fun _ => 0, rfl⟩
  | a :: ls, t, hn, hs => by
    obtain ⟨ha, hn⟩ := List.nodup_cons.mp hn
    have own := hs a (by simp)
    have first := transferLane_eq h g pc v link use hu own
    have hne : ∀ l ∈ ls, l ≠ a := fun l hl e => ha (e ▸ hl)
    obtain ⟨q, hq⟩ := foldl_transferLane ls (t.transferLane h g pc v link use a) hn fun l hl => by
      rw [first]
      exact ((laneUse_lineUse g use hu a).unstepped (hs l (by simp [hl]))).laneMoved (hne l hl) _ _ _ _ _
    have uses : LineUse (fun u => ls.foldl (fun u l => laneUse g use l u) u) := .foldl (laneUse_lineUse g use hu) ls
    have all := uses.comp (laneUse_lineUse g use hu a)
    refine ⟨Function.update q a (use a t).seq, ?_⟩
    have same (u : State) : ls.foldl (State.moveLane h g pc v link (Function.update q a (use a t).seq)) u =
        ls.foldl (State.moveLane h g pc v link q) u := by
      refine List.foldl_ext _ _ _ fun u l hl => ?_
      unfold State.moveLane
      rw [Function.update_of_ne (hne l hl)]
    have target : laneTarget g pc (ls.foldl (fun u l => laneUse g use l u) (laneUse g use a t)) a = laneTarget g pc t a := by
      unfold laneTarget
      rw [all.fibre]
    have swapped := (laneMoved_teamsOnly a h (use a t).seq (v a) (link && g a) (laneTarget g pc t a)).comm uses (laneUse g use a t)
    rw [List.foldl_cons, List.foldl_cons, List.foldl_cons, hq, same, moveLane_eq h g pc v link _ (all.unstepped own), target, Function.update_self,
      first]
    exact congrArg (fun u => ls.foldl (State.moveLane h g pc v link q) u) swapped
end

/-! A transfer (R154). -/

theorem State.Issued.unstepped {s : State} (hi : s.Issued) {l : Lane} (hl : l ∈ s.sigLanes) : s.Unstepped l := by
  obtain ⟨htid, hfid⟩ := (mem_sigLanes s l).mp hl
  obtain ⟨-, -, stepped⟩ := hi
  have own := stepped l.fid hfid
  rw [← htid] at own
  exact own
/-- The line of a lane's target used, as the lane's team and level stand at issue (R104, R361). -/
def State.useTarget (s : State) (target : Lane → Dword) (lines : Lane → List Byte) (l : Lane) (u : State) : State :=
  u.useLine (s.team l.tid) (s.fibre l).level (target l) (lines l)
/-- s with the lines of the guarded lanes' targets used. -/
def State.usedTargets (s : State) (h : Head) (target : Lane → Dword) (lines : Lane → List Byte) : State :=
  (s.guarded h).foldl (fun u l => s.useTarget target lines l u) s

section
variable {s : State} {h : Head} {lines : Lane → List Byte}

theorem laneUse_usedTargets (target : Lane → Dword) :
    s.sigLanes.foldl (fun u l => laneUse (s.guard h) (s.useTarget target lines) l u) s = s.usedTargets h target lines := by
  unfold State.usedTargets State.guarded
  rw [List.foldl_filter]
  rfl
/-- A transfer whose targets pass their checks, lane by lane. -/
theorem transfer_run {target : State → Lane → Dword} (link : Bool)
    (hc : ∀ l ∈ s.guarded h, s.targetAway (s.team l.tid) (s.fibre l).level (target s l) = none ∧
      s.targetCheck (s.team l.tid) (s.fibre l).level (target s l) = .ok (lines l)) :
    transfer h target link s = .next (s.sigLanes.foldl (State.transferLane h (s.guard h) (target s) (fun l => nextPc (s.fibre l).pc) link
      (s.useTarget (target s) lines)) s) := by
  refine congrArg Host.Outcome.next ((runLanes_congr s h _ (fun t l =>
    .goto (target s l) ((s.useTarget (target s) lines l t).linked l h.dst (nextPc (s.fibre l).pc) link)) fun t l hl => ?_).trans rfl)
  obtain ⟨near, passes⟩ := hc l hl
  simp only [near, passes]
  rfl
/-- Where each guarded lane's line is at hand and passes every check, each goes to its target, and a link pair holds the next PC. -/
theorem transfer_effect {target : State → Lane → Dword} (link : Bool) (hi : s.Issued)
    (hc : ∀ l ∈ s.guarded h, s.targetAway (s.team l.tid) (s.fibre l).level (target s l) = none ∧
      s.targetCheck (s.team l.tid) (s.fibre l).level (target s l) = .ok (lines l)) :
    ∃ t, transfer h target link s = .next t ∧
      TransferEffect (s.usedTargets h (target s) lines) t h (fun l => linkWrite h.dst (nextPc (s.fibre l).pc) link) (target s) := by
  have hu : ∀ l, LineUse (s.useTarget (target s) lines l) := fun l => .useLine ..
  have uses : LineUse (fun u => (s.guarded h).foldl (fun u l => s.useTarget (target s) lines l u) u) := .foldl hu _
  obtain ⟨q, swapped⟩ := foldl_transferLane h (s.guard h) (target s) (fun l => nextPc (s.fibre l).pc) link (s.useTarget (target s) lines) hu
    s.sigLanes s (sigLanes_nodup s hi.1) fun l hl => hi.unstepped hl
  refine ⟨_, transfer_run link hc, ?_⟩
  rw [swapped, laneUse_usedTargets, ← uses.sigLanes s, ← uses.guard s h]
  exact runLanes_goto (s.usedTargets h (target s) lines) h 0 (fun t l => t.linkedAs (q l) l h.dst (nextPc (s.fibre l).pc) link)
    (fun _ l => target s l) (target s) (fun _ l => linkWrite h.dst (nextPc (s.fibre l).pc) link) (uses.issued hi) (fun _ _ _ _ => rfl)
    (fun t l _ _ _ _ _ _ _ _ _ => linkedAs_wrote t (q l) l h.dst _ link _)
end

theorem branchTarget_eq (pc : Dword) (m : BranchMod) :
    branchTarget pc m = BitVec.ofInt 64 (pc.toNat / 64 * 64 + 64 * m.ldisp.toInt + 12 * m.tslot.toNat) := by
  rw [branchTarget, mul_comm m.ldisp.toInt]

/-- Settles O22: each transfer is transfer_effect, with a link or without; a direct target is branchTarget_eq. -/
theorem transferResults : Obligations.TransferResults := by
  unfold Obligations.TransferResults
  intro s h lines hi
  simp only [← branchTarget_eq]
  refine ⟨fun m hc => ?_, fun m hc => ?_, fun hc m => ?_, fun hc m => ?_, fun hc m => ?_⟩
  · exact transfer_effect (target := fun s l => branchTarget (s.fibre l).pc m) false hi hc
  · exact transfer_effect (target := fun s l => branchTarget (s.fibre l).pc m) true hi hc
  · exact transfer_effect (target := fun s l => s.readPair l .sa h.sa) false hi hc
  · exact transfer_effect (target := fun s l => s.readPair l .sa h.sa) true hi hc
  · exact transfer_effect (target := fun s l => s.readPair l .sa h.sa) false hi hc

end Sys2Proof.Machine
end

section
/-! PROOFS. The move and arithmetic group (R140, R141, R144, R145): each instruction is a register form or an immediate form of the function that
the rules give. -/

namespace Sys2Proof.Machine

/-! The functions, as the rules write them. -/

/-- The modulus of an N-bit pattern, as a number cast and as an integer. -/
theorem two_pow_cast (n : Nat) : ((2 ^ n : Nat) : Int) = 2 ^ n := Nat.cast_pow 2 n
theorem mulHigh_eq (ty : IType) (a b : Int) : mulHigh ty a b = a * b / 2 ^ width ty := by rw [mulHigh, two_pow_cast]
theorem divide_eq (ty : IType) (a b : Int) : divide ty a b = if b = 0 then (if 0 ≤ a then maxV ty else minV ty)
    else if signed ty = true ∧ a = minV ty ∧ b = -1 then minV ty else a.tdiv b := by
  simp only [divide, Bool.and_eq_true, decide_eq_true_eq, and_assoc]
theorem remainder_eq (ty : IType) (a b : Int) : remainder ty a b = if b = 0 then a
    else if signed ty = true ∧ a = minV ty ∧ b = -1 then 0 else a - a.tdiv b * b := by
  simp only [remainder, Bool.and_eq_true, decide_eq_true_eq, and_assoc]

/-! The value of an immediate (R140). -/

/-- The low bits of a pattern read as a signed number are its balanced remainder. -/
theorem toSigned_eq_bmod {n : Nat} (hn : 0 < n) (x : Nat) : toSigned n x = (x : Int).bmod (2 ^ n) := by
  have half : 2 ^ n = 2 * 2 ^ (n - 1) := by rw [← Nat.pow_succ']; congr 1; omega
  unfold toSigned Int.bmod
  rw [if_neg (Nat.ne_of_gt hn), ← two_pow_cast, ← Int.natCast_mod]
  dsimp only
  split <;> split <;> omega
theorem immAs_eq (ty : IType) (imm : Word) : immAs ty imm =
    if signed ty then (if width ty = 64 then imm.toInt else imm.toInt.bmod (2 ^ width ty)) else (imm.toNat % 2 ^ width ty : Nat) := by
  unfold immAs
  by_cases wide : width ty = 64
  · have small : imm.toNat % 2 ^ 64 = imm.toNat := Nat.mod_eq_of_lt (by omega)
    rw [if_pos wide, if_pos wide, wide, small]
  · have narrow : width ty ≤ 32 := by cases ty <;> simp [width] at wide ⊢
    rw [if_neg wide, if_neg wide, readAs, toSigned_eq_bmod (width_pos ty), BitVec.toInt_eq_toNat_bmod,
      Int.bmod_bmod_of_dvd (Nat.pow_dvd_pow 2 narrow)]

/-! The results. -/

section
variable (h : Head) (s : State)

theorem execMulhi_eq (m : IntMod) : execMulhi h m s = intReg h m (some 4) (fun a b _ => a * b / 2 ^ width m.ty) s := by
  simp only [execMulhi, mulHigh_eq]
theorem execMulhiImm_eq (m : ImmMod) : execMulhiImm h m s = intImm h m (some 4) (fun a b _ => a * b / 2 ^ width m.ty) s := by
  simp only [execMulhiImm, mulHigh_eq]
theorem execDiv_eq (m : IntMod) : execDiv h m s = intReg h m none (fun a b _ => if b = 0 then (if 0 ≤ a then maxV m.ty else minV m.ty)
    else if signed m.ty = true ∧ a = minV m.ty ∧ b = -1 then minV m.ty else a.tdiv b) s := by
  simp only [execDiv, divide_eq]
theorem execDivImm_eq (m : ImmMod) : execDivImm h m s = intImm h m none (fun a b _ => if b = 0 then (if 0 ≤ a then maxV m.ty else minV m.ty)
    else if signed m.ty = true ∧ a = minV m.ty ∧ b = -1 then minV m.ty else a.tdiv b) s := by
  simp only [execDivImm, divide_eq]
theorem execRem_eq (m : IntMod) : execRem h m s = intReg h m none (fun a b _ => if b = 0 then a
    else if signed m.ty = true ∧ a = minV m.ty ∧ b = -1 then 0 else a - a.tdiv b * b) s := by
  simp only [execRem, remainder_eq]
theorem execRemImm_eq (m : ImmMod) : execRemImm h m s = intImm h m none (fun a b _ => if b = 0 then a
    else if signed m.ty = true ∧ a = minV m.ty ∧ b = -1 then 0 else a - a.tdiv b * b) s := by
  simp only [execRemImm, remainder_eq]
theorem execAbs_eq (m : IntMod) : execAbs h m s = intReg h m (some 2) (fun a _ _ => |a|) s := by
  simp only [execAbs, Int.natCast_natAbs]
end

/-- Settles O8: each instruction is a register form of its function, and intReg_spec says what such a form leaves. -/
theorem integerRegisterResults : Obligations.IntegerRegisterResults := by
  unfold Obligations.IntegerRegisterResults
  intro p hp s h m hi
  obtain ⟨lat, form⟩ : ∃ lat, exec (p.1 h m) s = intReg h m lat (p.2 m.ty) s := by
    simp only [List.mem_cons, List.not_mem_nil, or_false] at hp
    rcases hp with rfl | rfl | rfl | rfl | rfl | rfl | rfl | rfl | rfl | rfl | rfl | rfl | rfl
    exacts [⟨_, rfl⟩, ⟨_, rfl⟩, ⟨_, rfl⟩, ⟨_, rfl⟩, ⟨_, execMulhi_eq h s m⟩, ⟨_, rfl⟩, ⟨_, execDiv_eq h s m⟩, ⟨_, execRem_eq h s m⟩,
      ⟨_, execAbs_eq h s m⟩, ⟨_, rfl⟩, ⟨_, rfl⟩, ⟨_, rfl⟩, ⟨_, rfl⟩]
  rw [form]
  exact intReg_spec s h m lat (p.2 m.ty) hi

/-- Settles O9: each instruction is an immediate form of its function; immAs_eq reads the immediate as R140 has it, and intImm_spec says what
such a form leaves. -/
theorem integerImmediateResults : Obligations.IntegerImmediateResults := by
  unfold Obligations.IntegerImmediateResults
  intro p hp s h m hi
  obtain ⟨lat, form⟩ : ∃ lat, exec (p.1 h m) s = intImm h m lat (p.2 m.ty) s := by
    simp only [List.mem_cons, List.not_mem_nil, or_false] at hp
    rcases hp with rfl | rfl | rfl | rfl | rfl | rfl | rfl | rfl | rfl | rfl
    exacts [⟨_, rfl⟩, ⟨_, rfl⟩, ⟨_, rfl⟩, ⟨_, rfl⟩, ⟨_, execMulhiImm_eq h s m⟩, ⟨_, rfl⟩, ⟨_, execDivImm_eq h s m⟩,
      ⟨_, execRemImm_eq h s m⟩, ⟨_, rfl⟩, ⟨_, rfl⟩]
  rw [form, ← immAs_eq]
  exact intImm_spec s h m lat (p.2 m.ty) hi

end Sys2Proof.Machine
end

section
/-! PROOFS. Logic, shifts, bit fields and counts (R140, R147 to R149): the bits of each function of bit patterns, and of the logic instructions'
operands and immediates. -/

namespace Sys2Proof.Machine

/-! The bits of an integer's pattern. -/

theorem pattern_eq_wrap (s : State) (l : Lane) (pos : Pos) (fld : Field) (ty : IType) :
    s.pattern l pos fld ty = wrap (width ty) (s.readInt l pos fld ty) := by
  unfold State.pattern wrap
  rw [two_pow_cast]
/-- A narrower pattern has the low bits of a wider one. -/
theorem wrap_testBit_of_le {n m i : Nat} (hi : i < n) (hm : n ≤ m) (x : Int) : (wrap n x).testBit i = (wrap m x).testBit i := by
  have low : wrap n x = wrap m x % 2 ^ n := by
    have dvd : ((2 ^ n : Nat) : Int) ∣ (2 ^ m : Nat) := by exact_mod_cast Nat.pow_dvd_pow 2 hm
    zify
    rw [wrap_cast, wrap_cast, ← two_pow_cast, Int.emod_emod_of_dvd x dvd]
  rw [low, Nat.testBit_mod_two_pow, decide_eq_true hi, Bool.true_and]
theorem wrap_eq_toNat_ofInt (n : Nat) (x : Int) : wrap n x = (BitVec.ofInt n x).toNat := (BitVec.toNat_ofInt x).symm
theorem wrap_toInt_testBit {w n i : Nat} (hi : i < n) (hn : n ≤ w) (y : BitVec w) : (wrap n y.toInt).testBit i = y.getLsbD i := by
  rw [wrap_testBit_of_le hi hn, wrap_eq_toNat_ofInt, BitVec.ofInt_toInt]
  rfl
theorem ofInt_getLsbD {n i : Nat} (hi : i < n) (hn : n ≤ 64) (x : Int) : (BitVec.ofInt 64 x).getLsbD i = (wrap n x).testBit i := by
  rw [wrap_testBit_of_le hi hn, wrap_eq_toNat_ofInt]
  rfl
/-- The low bits of a pattern read as a signed number: a bit vector's value. -/
theorem toSigned_eq_toInt {n : Nat} (hn : 0 < n) (x : Nat) : toSigned n x = (BitVec.ofNat n x).toInt := by
  rw [toSigned_eq_bmod hn, BitVec.toInt_eq_toNat_bmod, BitVec.toNat_ofNat, Int.natCast_mod, Int.emod_bmod]

/-! Logic (R147). -/

/-- f computes each bit from the same bits of its operands, as op does. -/
def Bitwise (f : BitVec 64 → BitVec 64 → BitVec 64) (op : Bool → Bool → Bool) : Prop :=
  ∀ x y i, i < 64 → (f x y).getLsbD i = op (x.getLsbD i) (y.getLsbD i)
theorem Bitwise.hasBits {f : BitVec 64 → BitVec 64 → BitVec 64} {op : Bool → Bool → Bool} (hf : Bitwise f op) {ty : IType} (a b : Int)
    {bit : Nat → Bool} (hb : ∀ i < width ty, (BitVec.ofInt 64 b).getLsbD i = bit i) :
    HasBits ty (narrow ty false (f (BitVec.ofInt 64 a) (BitVec.ofInt 64 b)).toInt) (fun i => op ((wrap (width ty) a).testBit i) (bit i)) := by
  refine hasBits_of_testBit ty _ _ fun i hi => ?_
  have narrowed := wrap_toInt_testBit hi (width_le ty) (f (BitVec.ofInt 64 a) (BitVec.ofInt 64 b))
  rw [hf _ _ i (hi.trans_le (width_le ty)), ofInt_getLsbD hi (width_le ty) a, hb i hi] at narrowed
  exact narrowed
/-- The bits of an immediate under a type (R140): those of IMM, and above them its sign for a signed type. -/
theorem immAs_getLsbD {ty : IType} {i : Nat} (hi : i < width ty) (imm : Word) :
    (BitVec.ofInt 64 (immAs ty imm)).getLsbD i = if i < 32 then imm.getLsbD i else (signed ty && imm.msb) := by
  unfold immAs
  by_cases wide : width ty = 64
  · rw [if_pos wide]
    rw [wide] at hi
    cases hs : signed ty with
    | true =>
      have extended : (BitVec.ofInt 64 imm.toInt).getLsbD i = (decide (i < 64) && if i < 32 then imm.getLsbD i else imm.msb) :=
        BitVec.getLsbD_signExtend imm
      rw [decide_eq_true hi, Bool.true_and] at extended
      simp only [if_true, Bool.true_and, extended]
    | false =>
      have low : (BitVec.ofInt 64 imm.toNat).getLsbD i = imm.getLsbD i := by
        rw [BitVec.ofInt_natCast, BitVec.getLsbD_ofNat, decide_eq_true hi, Bool.true_and]
        rfl
      simp only [Bool.false_eq_true, if_false, low, Bool.false_and]
      split
      · rfl
      · exact BitVec.getLsbD_of_ge imm i (by omega)
  · have small : width ty ≤ 32 := by cases ty <;> simp [width] at wide ⊢
    obtain ⟨-, -, same⟩ := readAs_bits ty imm.toNat
    have same := same i hi
    rw [← two_pow_cast] at same
    rw [if_neg wide, if_pos (hi.trans_le small), ofInt_getLsbD hi (width_le ty)]
    exact same

/-- The register form and the immediate form of a bitwise function. -/
structure LogicForms (reg : Head → IntMod → Instr) (imm : Head → ImmMod → Instr) (f : BitVec 64 → BitVec 64 → BitVec 64)
    (op : Bool → Bool → Bool) : Prop where
  reg : ∀ h m s, exec (reg h m) s = logicReg h m f s
  imm : ∀ h m s, exec (imm h m) s = logicImm h m f s
  bits : Bitwise f op

section
variable {reg : Head → IntMod → Instr} {imm : Head → ImmMod → Instr} {f : BitVec 64 → BitVec 64 → BitVec 64} {op : Bool → Bool → Bool}
  (hl : LogicForms reg imm f op) {s : State} (hi : s.Issued) (h : Head)
include hl hi

theorem LogicForms.reg_spec {m : IntMod} (hm : m.sat = false) : ∃ (t : State) (v : Lane → Int), exec (reg h m) s = .next t ∧
    RegisterEffect s t h 0 (fun l => s.intWrite l h.dst m.ty (v l)) ∧ ∀ l ∈ s.guarded h, HasBits m.ty (v l)
      (fun i => op ((s.pattern l .sa h.sa m.ty).testBit i) ((s.pattern l .sb h.sb m.ty).testBit i)) := by
  rw [hl.reg]
  refine ⟨_, _, rfl, writeInt_effect s h m.ty (some 2) _ hi, fun l _ => ?_⟩
  rw [hm, pattern_eq_wrap, pattern_eq_wrap]
  exact hl.bits.hasBits _ _ fun i hi => ofInt_getLsbD hi (width_le m.ty) _
theorem LogicForms.imm_spec {m : ImmMod} (hm : m.sat = false) : ∃ (t : State) (v : Lane → Int), exec (imm h m) s = .next t ∧
    RegisterEffect s t h 0 (fun l => s.intWrite l h.dst m.ty (v l)) ∧ ∀ l ∈ s.guarded h, HasBits m.ty (v l)
      (fun i => op ((s.pattern l .sa h.sa m.ty).testBit i) (if i < 32 then m.imm.getLsbD i else (signed m.ty && m.imm.msb))) := by
  rw [hl.imm]
  refine ⟨_, _, rfl, writeInt_effect s h m.ty (some 2) _ hi, fun l _ => ?_⟩
  rw [hm, pattern_eq_wrap]
  exact hl.bits.hasBits _ _ fun i hi => immAs_getLsbD hi m.imm
end

theorem execAnd_bits : LogicForms .and .andImm (fun a b => a &&& b) (fun a b => a && b) :=
  ⟨fun _ _ _ => rfl, fun _ _ _ => rfl, fun _ _ _ _ => BitVec.getLsbD_and⟩
theorem execOr_bits : LogicForms .or .orImm (fun a b => a ||| b) (fun a b => a || b) :=
  ⟨fun _ _ _ => rfl, fun _ _ _ => rfl, fun _ _ _ _ => BitVec.getLsbD_or⟩
theorem execXor_bits : LogicForms .xor .xorImm (fun a b => a ^^^ b) (fun a b => a ^^ b) :=
  ⟨fun _ _ _ => rfl, fun _ _ _ => rfl, fun _ _ _ _ => BitVec.getLsbD_xor⟩
theorem execAndn_bits : LogicForms .andn .andnImm (fun a b => a &&& ~~~ b) (fun a b => a && !b) :=
  ⟨fun _ _ _ => rfl, fun _ _ _ => rfl, fun _ _ _ hi => by simp [hi]⟩
theorem execOrn_bits : LogicForms .orn .ornImm (fun a b => a ||| ~~~ b) (fun a b => a || !b) :=
  ⟨fun _ _ _ => rfl, fun _ _ _ => rfl, fun _ _ _ hi => by simp [hi]⟩

/-! Shifts, rotate and funnel shift (R147), c being the count. -/

section
variable {n a i : Nat} (b : Nat)

theorem shiftLeft_testBit (hi : i < n) : (shiftLeft n a b).testBit i = (decide (b % 256 ≤ i) && a.testBit (i - b % 256)) := by
  unfold shiftLeft
  dsimp only
  split
  · rw [Nat.zero_testBit, decide_eq_false (by omega), Bool.false_and]
  · rw [Nat.testBit_mod_two_pow, Nat.testBit_mul_two_pow, decide_eq_true hi, Bool.true_and]
theorem shiftRight_testBit (ha : a < 2 ^ n) : (shiftRight n a b).testBit i = a.testBit (i + b % 256) := by
  unfold shiftRight
  dsimp only
  split
  · rw [Nat.zero_testBit, Nat.testBit_lt_two_pow (ha.trans_le (Nat.pow_le_pow_right (by decide) (by omega)))]
  · rw [Nat.testBit_div_two_pow]
theorem fillBit_testBit (hi : i < n) (c : Bool) : (fillBit n c).testBit i = c := by
  cases c with
  | true => exact (Nat.testBit_two_pow_sub_one n i).trans (decide_eq_true hi)
  | false => exact Nat.zero_testBit i
theorem shiftArith_testBit (hi : i < n) : (shiftArith n a b).testBit i = a.testBit (min (i + b % 256) (n - 1)) := by
  unfold shiftArith
  dsimp only
  split
  · rw [fillBit_testBit hi, bitAt_eq_testBit, min_eq_right (by omega)]
  · have read : ∀ j, j < n → (BitVec.ofNat n a).getLsbD j = a.testBit j := fun j hj => by
      rw [BitVec.getLsbD_ofNat, decide_eq_true hj, Bool.true_and]
    rw [toSigned_eq_toInt (by omega), ← Int.shiftRight_eq_div_pow, ← BitVec.toInt_sshiftRight, wrap_toInt_testBit hi le_rfl,
      BitVec.getLsbD_sshiftRight, decide_eq_false (by omega), Bool.not_false, Bool.true_and]
    split
    · rw [read _ (by omega), min_eq_left (by omega), Nat.add_comm]
    · rw [BitVec.msb_eq_getLsbD_last, read _ (by omega), min_eq_right (by omega)]
theorem rotateLeft_testBit (hi : i < n) (ha : a < 2 ^ n) :
    (rotateLeft n a b).testBit i = a.testBit ((i + n - b % 256 % n) % n) := by
  unfold rotateLeft
  dsimp only
  have hk : b % 256 % n < n := Nat.mod_lt _ (by omega)
  generalize b % 256 % n = k at hk
  have top : a / 2 ^ (n - k) < 2 ^ k := by
    rw [Nat.div_lt_iff_lt_mul (Nat.two_pow_pos _), ← Nat.pow_add, Nat.add_sub_cancel' hk.le]
    exact ha
  rw [Nat.testBit_mod_two_pow, decide_eq_true hi, Bool.true_and, Nat.mul_comm, Nat.testBit_two_pow_mul_add _ top, Nat.testBit_div_two_pow]
  split
  · rw [Nat.mod_eq_of_lt (by omega), Nat.add_sub_assoc hk.le]
  · rw [show i + n - k = i - k + n by omega, Nat.add_mod_right, Nat.mod_eq_of_lt (by omega)]
theorem funnel_testBit {c : Nat} (hi : i < n) (hc : c < 2 ^ n) : (funnel n a b c).testBit i =
    if i < b % 256 % n then c.testBit (n - b % 256 % n + i) else a.testBit (i - b % 256 % n) := by
  unfold funnel
  dsimp only
  have hk : b % 256 % n < n := Nat.mod_lt _ (by omega)
  generalize b % 256 % n = k at hk
  rw [Nat.testBit_mod_two_pow, decide_eq_true hi, Bool.true_and, Nat.testBit_div_two_pow, Nat.testBit_mul_two_pow, decide_eq_true (by omega),
    Bool.true_and, Nat.mul_comm, Nat.testBit_two_pow_mul_add _ hc]
  by_cases low : i < k
  · rw [if_pos low, if_pos (by omega)]
    congr 1
    omega
  · rw [if_neg low, if_neg (by omega)]
    congr 1
    omega
end

/-! Functions of bit patterns with a register form and an immediate form. -/

/-- The register form and the immediate form of a function f of bit patterns, whose result has the bits b: b takes the type, B, and the
patterns of A and C. -/
structure BitForms (reg : Head → IntMod → Instr) (imm : Head → ImmMod → Instr) (f : IType → Nat → Nat → Nat → Nat → Nat)
    (b : IType → Nat → Nat → Nat → Nat → Bool) : Prop where
  reg : ∀ h m s, exec (reg h m) s = bitReg h m (f m.ty) s
  imm : ∀ h m s, exec (imm h m) s = bitImm h m (f m.ty) s
  bits : ∀ ty a x c, ∀ i < width ty, a < 2 ^ width ty → c < 2 ^ width ty → (f ty (width ty) a x c).testBit i = b ty x a c i

section
variable {reg : Head → IntMod → Instr} {imm : Head → ImmMod → Instr} {f : IType → Nat → Nat → Nat → Nat → Nat}
  {b : IType → Nat → Nat → Nat → Nat → Bool} (hb : BitForms reg imm f b) {s : State} (hi : s.Issued) (h : Head)
include hb hi

theorem BitForms.reg_spec (m : IntMod) : ∃ (t : State) (v : Lane → Int), exec (reg h m) s = .next t ∧
    RegisterEffect s t h 0 (fun l => s.intWrite l h.dst m.ty (v l)) ∧ ∀ l ∈ s.guarded h, HasBits m.ty (v l)
      (b m.ty (s.readReg l .sb h.sb).toNat (s.pattern l .sa h.sa m.ty) (s.pattern l .sc h.sc m.ty)) := by
  rw [hb.reg]
  exact bitReg_spec s h m (f m.ty) (fun a x c => b m.ty x a c) (hb.bits m.ty) hi
theorem BitForms.imm_spec (m : ImmMod) : ∃ (t : State) (v : Lane → Int), exec (imm h m) s = .next t ∧
    RegisterEffect s t h 0 (fun l => s.intWrite l h.dst m.ty (v l)) ∧ ∀ l ∈ s.guarded h, HasBits m.ty (v l)
      (b m.ty m.imm.toNat (s.pattern l .sa h.sa m.ty) (s.pattern l .sc h.sc m.ty)) := by
  rw [hb.imm]
  exact bitImm_spec s h m (f m.ty) (fun a x c => b m.ty x a c) (hb.bits m.ty) hi
end

theorem execShl_bits : BitForms .shl .shlImm (fun _ n a b _ => shiftLeft n a b)
    (fun _ b a _ i => decide (b % 256 ≤ i) && a.testBit (i - b % 256)) :=
  ⟨fun _ _ _ => rfl, fun _ _ _ => rfl, fun _ _ b _ _ hi _ _ => shiftLeft_testBit b hi⟩
theorem execShr_bits : BitForms .shr .shrImm (fun _ n a b _ => shiftRight n a b) (fun _ b a _ i => a.testBit (i + b % 256)) :=
  ⟨fun _ _ _ => rfl, fun _ _ _ => rfl, fun _ _ b _ _ _ ha _ => shiftRight_testBit b ha⟩
theorem execSar_bits : BitForms .sar .sarImm (fun _ n a b _ => shiftArith n a b)
    (fun ty b a _ i => a.testBit (min (i + b % 256) (width ty - 1))) :=
  ⟨fun _ _ _ => rfl, fun _ _ _ => rfl, fun _ _ b _ _ hi _ _ => shiftArith_testBit b hi⟩
theorem execRotl_bits : BitForms .rotl .rotlImm (fun _ n a b _ => rotateLeft n a b)
    (fun ty b a _ i => a.testBit ((i + width ty - b % 256 % width ty) % width ty)) :=
  ⟨fun _ _ _ => rfl, fun _ _ _ => rfl, fun _ _ b _ _ hi ha _ => rotateLeft_testBit b hi ha⟩
theorem execFshl_bits : BitForms .fshl .fshlImm (fun _ => funnel)
    (fun ty b a c i => if i < b % 256 % width ty then c.testBit (width ty - b % 256 % width ty + i) else a.testBit (i - b % 256 % width ty)) :=
  ⟨fun _ _ _ => rfl, fun _ _ _ => rfl, fun _ _ b _ _ hi _ hc => funnel_testBit b hi hc⟩

/-- Settles O10: the logic instructions are forms of bitwise functions (LogicForms), the shifts are forms of functions of bit patterns with the
bits that the lemma of each name gives (BitForms). -/
theorem logicAndShiftResults : Obligations.LogicAndShiftResults := by
  unfold Obligations.LogicAndShiftResults
  constructor
  case left =>
    intro p hp
    obtain ⟨f, hl⟩ : ∃ f, LogicForms p.1 p.2.1 f p.2.2 := by
      simp only [List.mem_cons, List.not_mem_nil, or_false] at hp
      rcases hp with rfl | rfl | rfl | rfl | rfl
      · exact ⟨_, execAnd_bits⟩
      · exact ⟨_, execOr_bits⟩
      · exact ⟨_, execXor_bits⟩
      · exact ⟨_, execAndn_bits⟩
      · exact ⟨_, execOrn_bits⟩
    exact ⟨fun s h m hi hm => hl.reg_spec hi h hm, fun s h m hi hm => hl.imm_spec hi h hm⟩
  case right =>
    intro p hp
    obtain ⟨f, hb⟩ : ∃ f, BitForms p.1 p.2.1 f (fun ty x a c => p.2.2 (width ty) (x % 256) a c) := by
      simp only [List.mem_cons, List.not_mem_nil, or_false] at hp
      rcases hp with rfl | rfl | rfl | rfl | rfl
      · exact ⟨_, execShl_bits⟩
      · exact ⟨_, execShr_bits⟩
      · exact ⟨_, execSar_bits⟩
      · exact ⟨_, execRotl_bits⟩
      · exact ⟨_, execFshl_bits⟩
    exact ⟨fun s h m hi => hb.reg_spec hi h m, fun s h m hi => hb.imm_spec hi h m⟩

end Sys2Proof.Machine
end

section
/-! PROOFS. Bit fields, reversal, byte permutation and counts (R147 to R149): the bits of each function, and the bounds of each count. -/

namespace Sys2Proof.Machine

/-! Bit fields (R148), x being the control word: pos = x[7:0], len = x[15:8]. -/

/-- The width of the field that a control word names in an n-bit pattern, as much of it as lies in the pattern. -/
def fieldWidth (n x : Nat) : Nat := min (x / 256 % 256) (n - x % 256)
theorem fieldWidth_eq_zero {n x : Nat} : (x / 256 % 256 = 0 ∨ n ≤ x % 256) ↔ fieldWidth n x = 0 := by
  unfold fieldWidth
  omega

section
variable {n a x i : Nat} (hi : i < n)
include hi

/-- A field of w bits read as a signed number: its own bits, and above them its highest. -/
theorem wrap_toSigned_testBit {w : Nat} (hw : 0 < w) :
    (wrap n (toSigned w a)).testBit i = if i < w then a.testBit i else a.testBit (w - 1) := by
  have read : ∀ j, j < w → (BitVec.ofNat w a).getLsbD j = a.testBit j := fun j hj => by
    rw [BitVec.getLsbD_ofNat, decide_eq_true hj, Bool.true_and]
  have extended : (BitVec.ofInt n (BitVec.ofNat w a).toInt).getLsbD i =
      (decide (i < n) && if i < w then (BitVec.ofNat w a).getLsbD i else (BitVec.ofNat w a).msb) :=
    BitVec.getLsbD_signExtend (BitVec.ofNat w a)
  rw [toSigned_eq_toInt hw, wrap_eq_toNat_ofInt]
  refine extended.trans ?_
  rw [decide_eq_true hi, Bool.true_and, BitVec.msb_eq_getLsbD_last, read (w - 1) (by omega)]
  split
  · exact read i ‹_›
  · rfl
theorem fieldExtract_testBit (ty : IType) : (fieldExtract ty n a x).testBit i =
    if fieldWidth n x = 0 then false else if i < fieldWidth n x then a.testBit (x % 256 + i)
      else signed ty && a.testBit (x % 256 + fieldWidth n x - 1) := by
  unfold fieldExtract
  simp only [Bool.or_eq_true, decide_eq_true_eq, fieldWidth_eq_zero]
  change (if fieldWidth n x = 0 then 0 else if signed ty then wrap n (toSigned (fieldWidth n x) (a / 2 ^ (x % 256) % 2 ^ fieldWidth n x))
    else a / 2 ^ (x % 256) % 2 ^ fieldWidth n x).testBit i = _
  by_cases empty : fieldWidth n x = 0
  · rw [if_pos empty, if_pos empty, Nat.zero_testBit]
  · have field : ∀ j, (a / 2 ^ (x % 256) % 2 ^ fieldWidth n x).testBit j = (decide (j < fieldWidth n x) && a.testBit (x % 256 + j)) :=
      fun j => by rw [Nat.testBit_mod_two_pow, Nat.testBit_div_two_pow, Nat.add_comm]
    rw [if_neg empty, if_neg empty]
    cases signed ty with
    | true =>
      rw [if_pos rfl, wrap_toSigned_testBit hi (by omega), field, field, decide_eq_true (by omega : fieldWidth n x - 1 < fieldWidth n x),
        Bool.true_and, Bool.true_and, Nat.add_sub_assoc (by omega)]
      split
      · rw [decide_eq_true ‹_›, Bool.true_and]
      · rfl
    | false =>
      rw [if_neg (by decide), field, Bool.false_and]
      split
      · rw [decide_eq_true ‹_›, Bool.true_and]
      · rw [decide_eq_false ‹_›, Bool.false_and]
end

theorem insertBits_testBit (c f pos w i : Nat) : (insertBits c f pos w).testBit i =
    if pos ≤ i ∧ i < pos + w then f.testBit (i - pos) else c.testBit i := by
  have low : c % 2 ^ pos < 2 ^ pos := Nat.mod_lt _ (Nat.two_pow_pos _)
  have field : f % 2 ^ w < 2 ^ w := Nat.mod_lt _ (Nat.two_pow_pos _)
  have lower : 2 ^ pos * (f % 2 ^ w) + c % 2 ^ pos < 2 ^ (pos + w) := by
    calc 2 ^ pos * (f % 2 ^ w) + c % 2 ^ pos < 2 ^ pos * (f % 2 ^ w + 1) := by rw [Nat.mul_add, Nat.mul_one]; omega
      _ ≤ 2 ^ (pos + w) := by rw [Nat.pow_add]; exact Nat.mul_le_mul_left _ field
  have parts : insertBits c f pos w = 2 ^ (pos + w) * (c / 2 ^ (pos + w)) + (2 ^ pos * (f % 2 ^ w) + c % 2 ^ pos) := by
    unfold insertBits
    rw [Nat.mul_comm (f % 2 ^ w), Nat.mul_comm (c / _)]
    omega
  rw [parts, Nat.testBit_two_pow_mul_add _ lower, Nat.testBit_two_pow_mul_add _ low, Nat.testBit_mod_two_pow, Nat.testBit_mod_two_pow,
    Nat.testBit_div_two_pow]
  by_cases below : i < pos
  · rw [if_pos (by omega), if_pos below, if_neg (by omega), decide_eq_true below, Bool.true_and]
  · by_cases inside : i < pos + w
    · rw [if_pos inside, if_neg below, if_pos (by omega), decide_eq_true (by omega), Bool.true_and]
    · rw [if_neg inside, if_neg (by omega), Nat.sub_add_cancel (by omega)]
theorem fieldInsert_testBit {n i : Nat} (hi : i < n) (a x c : Nat) : (fieldInsert n a x c).testBit i =
    if x % 256 ≤ i ∧ i < x % 256 + fieldWidth n x then a.testBit (i - x % 256) else c.testBit i := by
  unfold fieldInsert
  simp only [Bool.or_eq_true, decide_eq_true_eq, fieldWidth_eq_zero]
  split
  · rw [if_neg (by omega)]
  · rw [Nat.testBit_mod_two_pow, decide_eq_true hi, Bool.true_and]
    exact insertBits_testBit c a (x % 256) (fieldWidth n x) i

/-! Reversal (R147) and byte permutation (R149). -/

theorem reverseBits_lt : ∀ n x : Nat, reverseBits n x < 2 ^ n
  | 0, _ => Nat.one_pos
  | n + 1, x => by
    have rest := reverseBits_lt n (x / 2)
    have head : x % 2 * 2 ^ n ≤ 2 ^ n := (Nat.mul_le_mul_right _ (by omega)).trans_eq (Nat.one_mul _)
    rw [reverseBits, Nat.pow_succ]
    omega
theorem reverseBits_testBit : ∀ {n i : Nat} (x : Nat), i < n → (reverseBits n x).testBit i = x.testBit (n - 1 - i)
  | n + 1, i, x, hi => by
    rw [reverseBits, Nat.mul_comm, Nat.testBit_two_pow_mul_add _ (reverseBits_lt n (x / 2))]
    split
    · next lower => rw [reverseBits_testBit (x / 2) lower, ← Nat.testBit_add_one, show n - 1 - i + 1 = n + 1 - 1 - i by omega]
    · rw [show i - n = 0 by omega, show n + 1 - 1 - i = 0 by omega, Nat.testBit_zero, Nat.testBit_zero, Nat.mod_mod]

/-- The byte of src that a selector names: zero from 8 up. -/
def selectedByte (src sel : Nat) : Nat := if 8 ≤ sel then 0 else src / 256 ^ sel % 256
theorem selectedByte_lt (src sel : Nat) : selectedByte src sel < 2 ^ 8 := by
  unfold selectedByte
  split <;> omega
theorem selectedByte_testBit {a c sel j : Nat} (ha : a < 2 ^ 32) (hj : j < 8) : (selectedByte (a + c * 2 ^ 32) sel).testBit j =
    if 8 ≤ sel then false else if sel < 4 then a.testBit (8 * sel + j) else c.testBit (8 * (sel - 4) + j) := by
  unfold selectedByte
  split
  · exact Nat.zero_testBit j
  · rw [show 256 = 2 ^ 8 from rfl, ← Nat.pow_mul, Nat.testBit_mod_two_pow, decide_eq_true hj, Bool.true_and, Nat.testBit_div_two_pow,
      Nat.add_comm a, Nat.mul_comm c, Nat.testBit_two_pow_mul_add _ ha]
    by_cases low : sel < 4
    · rw [if_pos low, if_pos (by omega), Nat.add_comm]
    · rw [if_neg low, if_neg (by omega)]
      congr 1
      omega
/-- The bits of four bytes put together. -/
theorem fourBytes_testBit {b : Nat → Nat} (hb : ∀ k, b k < 2 ^ 8) {i : Nat} (hi : i < 32) :
    (b 0 + 256 * b 1 + 65536 * b 2 + 16777216 * b 3).testBit i = (b (i / 8)).testBit (i % 8) := by
  have h0 := hb 0
  have h1 := hb 1
  have h2 := hb 2
  have parts : b 0 + 256 * b 1 + 65536 * b 2 + 16777216 * b 3 = 2 ^ 24 * b 3 + (2 ^ 16 * b 2 + (2 ^ 8 * b 1 + b 0)) := by omega
  rw [parts, Nat.testBit_two_pow_mul_add _ (by omega), Nat.testBit_two_pow_mul_add _ (by omega), Nat.testBit_two_pow_mul_add _ h0]
  split
  · split
    · split
      · rw [show i / 8 = 0 by omega, show i % 8 = i by omega]
      · rw [show i / 8 = 1 by omega, show i % 8 = i - 8 by omega]
    · rw [show i / 8 = 2 by omega, show i % 8 = i - 16 by omega]
  · rw [show i / 8 = 3 by omega, show i % 8 = i - 24 by omega]
/-- The bits of a permutation, x being the selectors. -/
def permutedBit (x a c i : Nat) : Bool :=
  let sel := x / 2 ^ (4 * (i / 8)) % 16
  if 8 ≤ sel then false else if sel < 4 then a.testBit (8 * sel + i % 8) else c.testBit (8 * (sel - 4) + i % 8)
theorem bytePermute_testBit {a c i : Nat} (ha : a < 2 ^ 32) (hi : i < 32) (x : Nat) : (bytePermute a x c).testBit i = permutedBit x a c i := by
  refine (fourBytes_testBit (b := fun k => selectedByte (a + c * 2 ^ 32) (x / 16 ^ k % 16)) (fun k => selectedByte_lt _ _) hi).trans ?_
  rw [selectedByte_testBit ha (by omega), show 16 = 2 ^ 4 from rfl, ← Nat.pow_mul]
  rfl

/-! Counts (R147). -/

theorem popcount_eq : ∀ n x : Nat, popcount n x = ((List.range n).filter (fun i => x.testBit i)).length
  | 0, _ => rfl
  | n + 1, x => by
    have rest : ((List.range n).map Nat.succ).filter (fun i => x.testBit i) = ((List.range n).filter (fun i => (x / 2).testBit i)).map Nat.succ := by
      rw [List.filter_map]
      congr 2
      funext i
      exact Nat.testBit_succ x i
    rw [popcount, popcount_eq n (x / 2), List.range_succ_eq_map, List.filter_cons, rest, Nat.testBit_zero]
    by_cases odd : x % 2 = 1
    · rw [if_pos (decide_eq_true odd), List.length_cons, List.length_map, odd, Nat.add_comm]
    · rw [if_neg (by simpa using odd), List.length_map, show x % 2 = 0 by omega, Nat.zero_add]
/-- x is an n-bit number with k zeros at its top, and k is n or a one stands below them. -/
theorem leadingZeros_bounds : ∀ {n x : Nat}, x < 2 ^ n → leadingZeros n x ≤ n ∧ x < 2 ^ (n - leadingZeros n x) ∧
    (leadingZeros n x < n → 2 ^ (n - leadingZeros n x - 1) ≤ x)
  | 0, _, hx => ⟨le_rfl, hx, fun h => absurd h (Nat.not_lt_zero 0)⟩
  | n + 1, x, hx => by
    rw [leadingZeros, bitAt_eq_testBit]
    cases top : x.testBit n with
    | true => exact ⟨Nat.zero_le _, hx, fun _ => Nat.ge_two_pow_of_testBit top⟩
    | false =>
      have below : x < 2 ^ n := by
        refine Nat.lt_pow_two_of_testBit x fun i hi => ?_
        rcases hi.lt_or_eq with above | rfl
        · exact Nat.testBit_lt_two_pow (hx.trans_le (Nat.pow_le_pow_right (by decide) above))
        · exact top
      obtain ⟨h1, h2, h3⟩ := leadingZeros_bounds below
      rw [if_neg (by decide), show n + 1 - (1 + leadingZeros n x) = n - leadingZeros n x by omega]
      exact ⟨by omega, h2, fun h => h3 (by omega)⟩
/-- 2 to the number of zeros at the bottom divides x, and that number is n or the next power does not. -/
theorem trailingZeros_bounds : ∀ n x : Nat, trailingZeros n x ≤ n ∧ 2 ^ trailingZeros n x ∣ x ∧
    (trailingZeros n x < n → ¬ 2 ^ (trailingZeros n x + 1) ∣ x)
  | 0, x => ⟨le_rfl, one_dvd x, fun h => absurd h (Nat.not_lt_zero 0)⟩
  | n + 1, x => by
    rw [trailingZeros]
    by_cases odd : x % 2 = 1
    · rw [if_pos odd]
      exact ⟨Nat.zero_le _, one_dvd x, fun _ => by rw [Nat.zero_add, pow_one]; omega⟩
    · obtain ⟨h1, h2, h3⟩ := trailingZeros_bounds n (x / 2)
      have half : ∀ k, 2 ^ (1 + k) ∣ x ↔ 2 ^ k ∣ x / 2 := fun k => by
        rw [Nat.add_comm, Nat.pow_succ', Nat.dvd_div_iff_mul_dvd (by omega)]
      rw [if_neg odd, half, Nat.add_assoc, half]
      exact ⟨by omega, h2, fun h => h3 (by omega)⟩

/-! The results. -/

theorem execBfx_bits : BitForms .bfx .bfxImm (fun ty n a b _ => fieldExtract ty n a b) (fun ty b a _ i =>
    if fieldWidth (width ty) b = 0 then false else if i < fieldWidth (width ty) b then a.testBit (b % 256 + i)
      else signed ty && a.testBit (b % 256 + fieldWidth (width ty) b - 1)) :=
  ⟨fun _ _ _ => rfl, fun _ _ _ => rfl, fun ty _ _ _ _ hi _ _ => fieldExtract_testBit hi ty⟩
theorem execBfi_bits : BitForms .bfi .bfiImm (fun _ => fieldInsert) (fun ty b a c i =>
    if b % 256 ≤ i ∧ i < b % 256 + fieldWidth (width ty) b then a.testBit (i - b % 256) else c.testBit i) :=
  ⟨fun _ _ _ => rfl, fun _ _ _ => rfl, fun _ a b c _ hi _ _ => fieldInsert_testBit hi a b c⟩

theorem pattern_lt (s : State) (l : Lane) (pos : Pos) (fld : Field) (ty : IType) : s.pattern l pos fld ty < 2 ^ width ty := by
  rw [pattern_eq_wrap]
  exact wrap_lt _ _

/-- Settles O11: the bit fields are BitForms; BREV and BYTEP are bitReg_spec and bitImm_spec with the bits of their function; the counts are
countReg_spec with what each count is. -/
theorem bitFieldAndCountResults : Obligations.BitFieldAndCountResults := by
  unfold Obligations.BitFieldAndCountResults
  refine ⟨⟨fun p hp => ?fields, fun s h m hi => ?brev, fun s h m hi hm => ?bytep, fun s h m hi hm => ?bytepImm⟩, fun s h m hi => ⟨?popc, ?clz, ?ctz⟩⟩
  case fields =>
    simp only [List.mem_cons, List.not_mem_nil, or_false] at hp
    rcases hp with rfl | rfl
    · exact ⟨fun s h m hi => execBfx_bits.reg_spec hi h m, fun s h m hi => execBfx_bits.imm_spec hi h m⟩
    · exact ⟨fun s h m hi => execBfi_bits.reg_spec hi h m, fun s h m hi => execBfi_bits.imm_spec hi h m⟩
  case brev =>
    exact bitReg_spec s h m (fun n a _ _ => reverseBits n a) (fun a _ _ i => a.testBit (width m.ty - 1 - i))
      (fun a _ _ i hi _ _ => reverseBits_testBit a hi) hi
  case bytep =>
    rw [← hm]
    exact bitReg_spec s h m (fun _ => bytePermute) (fun a x c => permutedBit x a c)
      (fun a x c i hi ha _ => by rw [hm] at hi ha; exact bytePermute_testBit ha hi x) hi
  case bytepImm =>
    rw [← hm]
    exact bitImm_spec s h m (fun _ => bytePermute) (fun a x c => permutedBit x a c)
      (fun a x c i hi ha _ => by rw [hm] at hi ha; exact bytePermute_testBit ha hi x) hi
  case popc =>
    obtain ⟨t, run, effect⟩ := countReg_spec s h m popcount hi
    exact ⟨t, _, run, effect, fun l _ => popcount_eq _ _⟩
  case clz =>
    obtain ⟨t, run, effect⟩ := countReg_spec s h m leadingZeros hi
    exact ⟨t, _, run, effect, fun l _ => leadingZeros_bounds (pattern_lt s l .sa h.sa m.ty)⟩
  case ctz =>
    obtain ⟨t, run, effect⟩ := countReg_spec s h m trailingZeros hi
    exact ⟨t, _, run, effect, fun l _ => trailingZeros_bounds _ _⟩

end Sys2Proof.Machine
end

section
/-! PROOFS. Compares, SEL and predicate logic (R143, R150, R151), and the results that span a pair or carry (R144, R146, R152). -/

namespace Sys2Proof.Machine

/-! Conditions (R119, R150). -/

theorem condHolds_eq (c : Cond) (a b : Int) : condHolds c a b = match c with
    | .eq => decide (a = b) | .ne => decide (a ≠ b) | .lt => decide (a < b)
    | .le => decide (a ≤ b) | .gt => decide (a > b) | .ge => decide (a ≥ b) := by
  cases c with
  | ne => exact decide_not.symm
  | _ => rfl

/-! Words and dwords as numbers of a type. -/

theorem toSigned_toNat {n : Nat} (hn : 0 < n) (x : BitVec n) : toSigned n x.toNat = x.toInt := by
  rw [toSigned_eq_toInt hn, BitVec.ofNat_toNat, BitVec.setWidth_eq]
/-- A 64-bit addend (R144). -/
theorem readInt_wide64 (s : State) (l : Lane) (pos : Pos) (fld : Field) (ty : IType) : s.readInt l pos fld (wide64 ty) =
    if signed ty then (s.readPair l pos fld).toInt else (s.readPair l pos fld).toNat := by
  unfold wide64
  cases signed ty with
  | true => exact toSigned_toNat (show 0 < 64 by decide) _
  | false => exact congrArg Nat.cast (Nat.mod_eq_of_lt (s.readPair l pos fld).isLt)
/-- An immediate under a type of 32 bits (R140). -/
theorem immAs_of_width {ty : IType} (hw : width ty = 32) (imm : Word) : immAs ty imm = if signed ty then imm.toInt else imm.toNat := by
  unfold immAs readAs
  rw [if_neg (by omega), hw, toSigned_toNat (by decide), Nat.mod_eq_of_lt imm.isLt]
/-- An immediate of a compare (R140, R150). -/
theorem immAs_ctypeOf (ty : CType) (imm : Word) : immAs (ctypeOf ty) imm =
    match ty with | .s32 => imm.toInt | .s64 => imm.toInt | _ => imm.toNat := by
  cases ty with
  | s32 => exact immAs_of_width rfl imm
  | n32 => exact immAs_of_width rfl imm
  | s64 => rfl
  | n64 => rfl

/-! Sums modulo a power of two. -/

theorem leaSum_eq (s : State) (l : Lane) (h : Head) (ty : IType) (stride : Word) : s.leaSum l h ty stride.toNat =
    s.readPair l .sa h.sa + BitVec.ofInt 64 (s.readInt l .sc h.sc ty) * stride.setWidth 64 := by
  unfold State.leaSum
  rw [BitVec.ofInt_add, BitVec.ofInt_mul, BitVec.ofInt_natCast, BitVec.ofInt_natCast, BitVec.ofNat_toNat, BitVec.ofNat_toNat, BitVec.setWidth_eq]
theorem ofNat_addc (a b : Word) (c : Nat) : BitVec.ofNat 32 (a.toNat + b.toNat + c) = a + b + BitVec.ofNat 32 c := by
  rw [BitVec.ofNat_add, BitVec.ofNat_add, BitVec.ofNat_toNat, BitVec.ofNat_toNat, BitVec.setWidth_eq, BitVec.setWidth_eq]
theorem ofInt_subb (a b : Word) (c : Nat) : BitVec.ofInt 32 (a.toNat - b.toNat - c) = a - b - BitVec.ofNat 32 c := by
  rw [Int.sub_eq_add_neg, Int.sub_eq_add_neg, BitVec.ofInt_add, BitVec.ofInt_add, BitVec.ofInt_neg, BitVec.ofInt_neg, BitVec.ofInt_natCast,
    BitVec.ofInt_natCast, BitVec.ofInt_natCast, BitVec.ofNat_toNat, BitVec.ofNat_toNat, BitVec.setWidth_eq, BitVec.setWidth_eq,
    BitVec.sub_eq_add_neg, BitVec.sub_eq_add_neg]

/-! The results. -/

section
variable {s : State} (hi : s.Issued) (h : Head)
include hi

theorem execMadw_effect (m : IntMod) : ∃ t, execMadw h m s = .next t ∧ RegisterEffect s t h 0 (fun l =>
    pairWrite h.dst (BitVec.ofInt 64 (s.readInt l .sa h.sa m.ty * s.readInt l .sb h.sb m.ty +
      (if signed m.ty then (s.readPair l .sc h.sc).toInt else (s.readPair l .sc h.sc).toNat)))) := by
  simp only [← readInt_wide64]
  exact ⟨_, rfl, result64_effect s h (some 4) _ hi⟩
theorem execMadwImm_effect {m : ImmMod} (hw : width m.ty = 32) : ∃ t, execMadwImm h m s = .next t ∧ RegisterEffect s t h 0 (fun l =>
    pairWrite h.dst (BitVec.ofInt 64 (s.readInt l .sa h.sa m.ty * (if signed m.ty then m.imm.toInt else m.imm.toNat) +
      (if signed m.ty then (s.readPair l .sc h.sc).toInt else (s.readPair l .sc h.sc).toNat)))) := by
  simp only [← readInt_wide64, ← immAs_of_width hw]
  exact ⟨_, rfl, result64_effect s h (some 4) _ hi⟩
theorem execLea_effect (m : IntMod) : ∃ t, execLea h m s = .next t ∧ RegisterEffect s t h 0 (fun l =>
    pairWrite h.dst (s.readPair l .sa h.sa + BitVec.ofInt 64 (s.readInt l .sc h.sc m.ty) * (s.readReg l .sb h.sb).setWidth 64)) := by
  simp only [← leaSum_eq]
  exact ⟨_, rfl, result64_effect s h (some 2) _ hi⟩
theorem execLeaImm_effect (m : ImmMod) : ∃ t, execLeaImm h m s = .next t ∧ RegisterEffect s t h 0 (fun l =>
    pairWrite h.dst (s.readPair l .sa h.sa + BitVec.ofInt 64 (s.readInt l .sc h.sc m.ty) * m.imm.setWidth 64)) := by
  simp only [← leaSum_eq]
  exact ⟨_, rfl, result64_effect s h (some 2) _ hi⟩
theorem execAddc_effect (m : IntMod) : ∃ t, execAddc h m s = .next t ∧ RegisterEffect s t h 0 (fun l =>
    (s.wordWrite l h.dst (s.readReg l .sa h.sa + s.readReg l .sb h.sb + BitVec.ofNat 32 (s.carryIn l m))).and
      (predWrite h.sc.pred (decide (2 ^ 32 ≤ (s.readReg l .sa h.sa).toNat + (s.readReg l .sb h.sb).toNat + s.carryIn l m)))) := by
  simp only [← ofNat_addc]
  exact ⟨_, rfl, result32Pred_effect s h (some 2) h.sc.pred _ _ hi⟩
theorem execSubb_effect (m : IntMod) : ∃ t, execSubb h m s = .next t ∧ RegisterEffect s t h 0 (fun l =>
    (s.wordWrite l h.dst (s.readReg l .sa h.sa - s.readReg l .sb h.sb - BitVec.ofNat 32 (s.carryIn l m))).and
      (predWrite h.sc.pred (decide ((s.readReg l .sa h.sa).toNat < (s.readReg l .sb h.sb).toNat + s.carryIn l m)))) := by
  have borrow : ∀ a b c : Nat, decide (a < b + c) = decide ((a : Int) - b - c < 0) := fun a b c => decide_eq_decide.mpr (by omega)
  simp only [← ofInt_subb, borrow]
  exact ⟨_, rfl, result32Pred_effect s h (some 2) h.sc.pred _ _ hi⟩
end

/-- Settles O12: each instruction writes one predicate, one result under its type, one pair, or a word and a predicate in every guarded lane. -/
theorem predicateAndPairResults : Obligations.PredicateAndPairResults := by
  unfold Obligations.PredicateAndPairResults
  refine ⟨⟨?compare, ?compareImm, ?predicates⟩, fun s h m hi => execMadw_effect hi h m, fun s h m hi hw => execMadwImm_effect hi h hw,
    fun s h m hi => execLea_effect hi h m, fun s h m hi => execLeaImm_effect hi h m, fun s h m hi => movhi_spec s h m hi,
    fun s h m hi => ⟨execAddc_effect hi h m, execSubb_effect hi h m⟩⟩
  case compare =>
    intro s h m hi holds
    refine ⟨⟨_, rfl, (writePred_effect s h (some 2) _ hi).congr fun l _ _ => ?_⟩, ⟨_, rfl, writeInt_effect s h m.ty (some 2) _ hi⟩⟩
    exact congrArg (fun c => predWrite h.dst.pred (c && s.predIn l m.pred m.pinv)) (condHolds_eq m.cond _ _)
  case compareImm =>
    intro s h m hi
    refine ⟨_, rfl, (writePred_effect s h (some 2) _ hi).congr fun l _ _ => ?_⟩
    rw [immAs_ctypeOf]
    exact congrArg (predWrite h.dst.pred) (condHolds_eq m.cond _ _)
  case predicates =>
    intro p hp s h m hi
    simp only [List.mem_cons, List.not_mem_nil, or_false] at hp
    rcases hp with rfl | rfl | rfl | rfl
    · exact predOp_spec s h (fun a b => a && b) hi
    · exact predOp_spec s h (fun a b => a || b) hi
    · exact predOp_spec s h (fun a b => a ^^ b) hi
    · exact predOp_spec s h (fun a _ => !a) hi

end Sys2Proof.Machine
end

section
/-! PROOFS. The checks of a transfer's target (R33, R103, R104, R154), and a lane whose target fails them or must come over the fabric first. -/

namespace Sys2Proof.Machine

/-! The checks, in their order. -/

theorem addrHighBad_eq_true {a : Dword} (h : 2 ^ 56 ≤ a.toNat) : addrHighBad a = true :=
  bne_iff_ne.mpr (Nat.ne_of_gt (Nat.div_pos h (Nat.two_pow_pos 56)))
theorem addrHighBad_eq_false {a : Dword} (h : a.toNat < 2 ^ 56) : addrHighBad a = false :=
  bne_eq_false_iff_eq.mpr (Nat.div_eq_of_lt h)
theorem pcSlotOk_eq_false_iff (pc : Dword) : pcSlotOk pc = false ↔
    pc.toNat % 64 ≠ 0 ∧ pc.toNat % 64 ≠ 12 ∧ pc.toNat % 64 ≠ 24 ∧ pc.toNat % 64 ≠ 36 ∧ pc.toNat % 64 ≠ 48 := by
  simp [pcSlotOk, and_assoc]

section
variable {s : State} {t : Team} {level : Level} {pc : Dword}

theorem State.targetCheck_addrHigh (h : 2 ^ 56 ≤ pc.toNat) : s.targetCheck t level pc = .error (0x10, pc) :=
  if_pos (addrHighBad_eq_true h)

section
variable (low : pc.toNat < 2 ^ 56)
include low

theorem State.targetCheck_pcSlot (h : pcSlotOk pc = false) : s.targetCheck t level pc = .error (0x05, pc) := by
  unfold State.targetCheck
  rw [addrHighBad_eq_false low, h]
  rfl

variable (slot : pcSlotOk pc = true)
include slot

theorem State.targetCheck_fetchFault {v : Dword} (h : s.targetLine t level pc = .error v) : s.targetCheck t level pc = .error (0x11, v) := by
  unfold State.targetCheck
  rw [addrHighBad_eq_false low, slot, h]
  rfl
theorem State.targetCheck_brTarget {line : List Byte} (h : s.targetLine t level pc = .ok line)
    (no : lineTgt line (slotOf pc) = false) : s.targetCheck t level pc = .error (0x04, pc) := by
  unfold State.targetCheck
  rw [addrHighBad_eq_false low, slot, h]
  dsimp only
  rw [no]
  rfl
theorem State.targetCheck_ok {line : List Byte} (h : s.targetLine t level pc = .ok line)
    (yes : lineTgt line (slotOf pc) = true) : s.targetCheck t level pc = .ok line := by
  unfold State.targetCheck
  rw [addrHighBad_eq_false low, slot, h]
  dsimp only
  rw [yes]
  rfl
end

/-- The line read: the one that an issue would take, or, where the core caches none, the one that the package holds. -/
theorem State.targetLine_eq {r : Except Dword (List Byte)}
    (h : (∃ line, s.issueLine t level pc = some line ∧ r = .ok line) ∨ (s.issueLine t level pc = none ∧ r = s.fetchLine t level pc)) :
    s.targetLine t level pc = r := by
  unfold State.targetLine
  rcases h with ⟨line, issued, rfl⟩ | ⟨none, rfl⟩
  · rw [issued]
  · rw [none]
end

/-! A transfer of one lane. -/

section
variable {s : State} {h : Head} {l : Lane} (ha : s.Alone h l) {target : State → Lane → Dword} (link : Bool)
include ha

theorem State.Alone.transfer_traps {c : Cause.Code} {v : Dword} (fails : (s.fibre l).inFlight = false ∧
    s.targetAway (s.team l.tid) (s.fibre l).level (target s l) = none ∧
    s.targetCheck (s.team l.tid) (s.fibre l).level (target s l) = .error (c, v)) :
    transfer h target link s = .next (s.trapped l h c v) := by
  obtain ⟨settled, near, bad⟩ := fails
  unfold transfer
  rw [ha.runLanes]
  dsimp only
  rw [near, bad]
  exact congrArg Host.Outcome.next (State.finish_trap_settled settled h c v)
theorem State.Alone.transfer_awaits {ia : Nat} (away : s.targetAway (s.team l.tid) (s.fibre l).level (target s l) = some ia) :
    transfer h target link s = .next (s.awaitLine l (target s l) ia) := by
  unfold transfer
  rw [ha.runLanes]
  dsimp only
  rw [away]
  rfl
end

/-- Settles O23: the checks one by one, and each transfer as transfer_traps and transfer_awaits have it, its target direct or indirect. -/
theorem transferTraps : Obligations.TransferTraps := by
  unfold Obligations.TransferTraps
  constructor
  case left =>
    intro s t level pc bad target
    have slot : ¬ bad → pcSlotOk pc = true := fun h => Bool.eq_true_of_not_eq_false fun no => h ((pcSlotOk_eq_false_iff pc).mp no)
    refine ⟨State.targetCheck_addrHigh, fun low h => ?_, fun low h v hl => ?_, fun low h line hl => ?_, fun low h line hl => ?_⟩
    · exact State.targetCheck_pcSlot low ((pcSlotOk_eq_false_iff pc).mpr h)
    · exact State.targetCheck_fetchFault low (slot h) (State.targetLine_eq hl)
    · exact State.targetCheck_brTarget low (slot h) (State.targetLine_eq hl)
    · exact State.targetCheck_ok low (slot h) (State.targetLine_eq hl)
  case right =>
    intro s h l m n c v ia ha
    refine ⟨fun fails => ⟨?_, ?_⟩, fun fails => ⟨?_, ?_, ?_⟩, fun away => ⟨?_, ?_⟩, fun away => ⟨?_, ?_, ?_⟩⟩
    · exact ha.transfer_traps (target := fun s l => branchTarget (s.fibre l).pc m) false fails
    · exact ha.transfer_traps (target := fun s l => branchTarget (s.fibre l).pc m) true fails
    · exact ha.transfer_traps (target := fun s l => s.readPair l .sa h.sa) false fails
    · exact ha.transfer_traps (target := fun s l => s.readPair l .sa h.sa) true fails
    · exact ha.transfer_traps (target := fun s l => s.readPair l .sa h.sa) false fails
    · exact ha.transfer_awaits (target := fun s l => branchTarget (s.fibre l).pc m) false away
    · exact ha.transfer_awaits (target := fun s l => branchTarget (s.fibre l).pc m) true away
    · exact ha.transfer_awaits (target := fun s l => s.readPair l .sa h.sa) false away
    · exact ha.transfer_awaits (target := fun s l => s.readPair l .sa h.sa) true away
    · exact ha.transfer_awaits (target := fun s l => s.readPair l .sa h.sa) false away

end Sys2Proof.Machine
end

section
/-! PROOFS. NOP, YIELD and SLEEP (R156, R157), and the single step after an instruction (R328, R329, R334). -/

namespace Sys2Proof.Machine

/-! YIELD and SLEEP, with every argument. -/

theorem State.alters_refl {t : State} {l : Lane} {f : Fibre} (hl : t.fibre? l = some f) : t.Alters t l f := ⟨hl, fun _ _ => rfl, rfl, rfl⟩

/-- A fibre at a SLEEP of n clk (R157): it goes on where the wait is met or n is 0, begins its wait, or goes on waiting. -/
def Fibre.slept (f : Fibre) (now : Nat) (stall : BitVec 4) (n : Nat) : Fibre :=
  match f.wait with
  | none => if n = 0 then f.moved now stall else { f with wait := some { on := .sleep (now + n), since := now }, waitAt := 0, turn := none }
  | some w => if w.met then f.moved now stall else f

section
variable {s : State} {h : Head}

/-- A lane that has become f and completes goes on from where it stood. -/
theorem State.finish_done_moved {t u : State} {l : Lane} {f : Fibre} (hf : t.fibre? l = some (s.fibre l)) (hn : t.now = s.now)
    (hs : t.Unstepped l) (ha : t.Alters u l f) (hpc : f.pc = (s.fibre l).pc) :
    t.Alters (t.finish l h (.done u)) l (f.moved s.now h.stall) := by
  have done := t.finish_done_alters h ha hs
  rw [State.fibre_eq t l _ hf, hn, ← hpc] at done
  exact done
/-- One lane of a SLEEP. -/
theorem State.finish_sleepLane_alters {t : State} {l : Lane} (hf : t.fibre? l = some (s.fibre l)) (hn : t.now = s.now) (hs : t.Unstepped l)
    (n : Nat) : t.Alters (t.finish l h (sleepLane s t l n)) l ((s.fibre l).slept s.now h.stall n) := by
  unfold sleepLane Fibre.slept
  cases (s.fibre l).wait with
  | none =>
    dsimp only
    split
    · exact State.finish_done_moved hf hn hs (State.alters_refl hf) rfl
    · rw [← hn]
      exact State.alters_modFibre hf fun _ => rfl
  | some w =>
    dsimp only
    split
    · have resumed : t.Alters (t.resume l) l { s.fibre l with wait := none } := State.alters_modFibre hf fun _ => rfl
      exact (State.finish_done_moved hf hn hs resumed rfl :)
    · exact State.alters_refl hf

variable (hi : s.Issued)
include hi

theorem runLanes_sleepLane_effect (n : Lane → Nat) : FibreEffect s (s.runLanes h (fun t l => sleepLane s t l (n l))) h
    (fun l f => f.slept s.now h.stall (n l)) :=
  State.runLanes_fibreEffect hi fun _ l _ hf hn hs => State.finish_sleepLane_alters hf hn hs (n l)
theorem execYieldN_any_effect (m : SyncMod) : ∃ t, execYieldN h m s = .next t ∧ FibreEffect s t h (fun _ f =>
    { f.moved s.now h.stall with hold := if m.imm24 = 0 then f.hold else some (.yield (s.now + m.imm24.toNat)) }) := by
  refine ⟨_, rfl, State.runLanes_fibreEffect hi fun t l _ hf hn hs => ?_⟩
  have held : t.Alters (if m.imm24 = 0 then t else t.modFibre l (fun f => { f with hold := some (.yield (s.now + m.imm24.toNat)) })) l
      { s.fibre l with hold := if m.imm24 = 0 then (s.fibre l).hold else some (.yield (s.now + m.imm24.toNat)) } := by
    split
    · exact State.alters_refl hf
    · exact State.alters_modFibre hf fun _ => rfl
  exact State.finish_done_moved hf hn hs held rfl
end

/-! The single step. -/

theorem State.watchStep_takes {s : State} {l : Lane} {f : Fibre} (hl : s.fibre? l = some f) (due : f.stepDue = true) (settled : f.inFlight = false) :
    s.watchStep l.tid f = s.takeTrap l 0x0C 0 := by
  have own := (State.mem_fibres_of_isSome (Option.isSome_of_eq_some hl)).2
  rw [State.fibre_eq s l f hl] at own
  unfold State.watchStep
  rw [due, settled, own]
  rfl
/-- A lane that completes with a single step due (R334): the STEP trap, put off while results of the fibre are in flight (R329). -/
theorem State.complete_stepped {s : State} {l : Lane} (found : (s.fibre? l).isSome = true) (debug : (s.team l.tid).dbgctl.getLsbD 1 = true)
    (st : BitVec 4) (pc : Dword) :
    let u := s.modFibre l (fun f => f.movedTo pc s.now st)
    s.complete l st .user pc = if (s.fibre l).inFlight then u.modFibre l (fun f => { f with stepDue := true }) else u.takeTrap l 0x0C 0 := by
  intro u
  have moved : u.fibre l = (s.fibre l).movedTo pc s.now st := State.fibre_eq u l _ <| by
    rw [State.fibre?_modFibre _ _ (fun f => f.movedTo pc s.now st) (fun _ => rfl), if_pos rfl, State.fibre?_of_isSome s l found, Option.map_some]
  have watched : (u.team l.tid).dbgctl.getLsbD 1 = true := by rw [State.team_dbgctl_of_bare l.tid (State.modFibre_bare s l _), debug]
  show u.stepTrap l .user = _
  unfold State.stepTrap
  rw [watched, moved]
  rfl

/-- Settles O24: NOP is execNop_effect, YIELD and SLEEP change only their fibres, and a lane that completes with a single step due is
complete_stepped. -/
theorem nopYieldSleepAndStepResults : Obligations.NopYieldSleepAndStepResults := by
  unfold Obligations.NopYieldSleepAndStepResults
  refine ⟨fun s h hi => ⟨fun m => execNop_effect h hi m, fun m => execYieldN_any_effect hi m, fun m => ⟨?sleep, ?sleepReg⟩⟩,
    fun s h m l htid hfids hg found user debug => ⟨?step, fun f hl due settled => State.watchStep_takes hl due settled⟩⟩
  case sleep => exact ⟨_, rfl, runLanes_sleepLane_effect hi (fun _ => m.imm24.toNat)⟩
  case sleepReg => exact ⟨_, rfl, runLanes_sleepLane_effect hi (fun l => (s.readReg l .sa h.sa).toNat)⟩
  case step =>
    have one : s.sigLanes = [l] := by
      unfold State.sigLanes
      rw [htid, hfids]
      rfl
    have run : execNop h m s = .next (s.complete l h.stall (s.fibre l).level (nextPc (s.fibre l).pc)) := by
      unfold execNop State.runLanes
      rw [one]
      show Host.Outcome.next (s.finish l h (if s.guard h l then .done s else .done s)) = _
      rw [if_pos hg]
      rfl
    rw [exec_nop, run, user, State.complete_stepped found debug]

end Sys2Proof.Machine
end

section
/-! PROOFS. RDS (R23, R49, R153, R326, R327): the value of each special register at issue. -/

namespace Sys2Proof.Machine

/-! The registers of a team's levels and of a trap copy, as the rules give them. -/

/-- $LVLn (R49). -/
theorem Team.lvl_eq (t : Team) (fid n : Nat) : t.lvl fid n = if t.levels.length ≤ n then 0
    else if n < t.tlevel then
      let d := fid / ((t.levels.take n).map Lvl.extent).prod
      if n + 1 = t.tlevel then d else d % ((t.levels[n]?).map Lvl.extent).getD 1
    else (t.upper.getD (n - t.tlevel) 0).toNat := by
  have product : (t.levels.take n).foldl (fun a x => a * x.extent) 1 = ((t.levels.take n).map Lvl.extent).prod := by
    rw [List.prod_eq_foldl, List.foldl_map]
  have extent : (t.levels.getD n ⟨1, 0, .core⟩).extent = ((t.levels[n]?).map Lvl.extent).getD 1 := by
    rw [List.getD_eq_getElem?_getD]
    cases t.levels[n]? <;> rfl
  rw [Team.lvl, product, extent]
/-- $EXTn (R48). -/
theorem Team.ext_eq (t : Team) (n : Nat) :
    t.ext n = if t.card = true ∧ n = t.tlevel then 0 else ((t.levels[n]?).map Lvl.extent).getD 0 := by
  unfold Team.ext
  simp only [Bool.and_eq_true, decide_eq_true_eq]
  congr 1
  cases t.levels[n]? <;> rfl
/-- $TSTAT (R327). -/
theorem Fibre.tstat_toNat (f : Fibre) (l : Level) :
    (f.tstat l).toNat = f.level.num + 4 * (f.copy l).ppriv.num + (if (f.copy l).nest then 16 else 0) := by
  have small : ∀ v : Level, v.num < 3 := fun v => by cases v <;> decide
  have own := small f.level
  have before := small (f.copy l).ppriv
  unfold Fibre.tstat
  rw [BitVec.toNat_ofNat, Nat.mod_eq_of_lt]
  split <;> omega

theorem State.lowSreg_lvl (s : State) (l : Lane) {n : Nat} (hn : n < 8) : s.lowSreg l (0x10 + n) = (s.team l.tid).lvl l.fid n := by
  unfold State.lowSreg
  dsimp only
  repeat rw [if_neg (by omega)]
  rw [if_pos (by omega), Nat.add_sub_cancel_left]
theorem State.lowSreg_ext (s : State) (l : Lane) {n : Nat} (hn : n < 8) : s.lowSreg l (0x18 + n) = (s.team l.tid).ext n := by
  unfold State.lowSreg
  dsimp only
  repeat rw [if_neg (by omega)]
  rw [if_pos (by omega), Nat.add_sub_cancel_left]

/-! The effect. -/

/-- The next producer has a fresh number afterwards. -/
theorem LaneEffect.bump {s u : State} {ls : List Lane} {g : Lane → Bool} {stall : BitVec 4} {draws : Nat} {w : Lane → LaneWrite}
    {pc : Lane → Dword} (he : LaneEffect s u ls g stall draws w pc) :
    u.bump.seq = s.seq + 1 ∧ LaneEffect s { u.bump with seq := s.seq } ls g stall draws w pc := by
  have seq : u.seq = s.seq := (congrArg State.seq he.rest :)
  have same : { u.bump with seq := s.seq } = u := by rw [← seq]; rfl
  exact ⟨congrArg (· + 1) seq, same ▸ he⟩

section
variable {s : State} (hi : s.Issued) (h : Head) {m : SpecialMod} {n : Nat} (hm : m.sreg.toNat = n) (low : n < 0x40)
include hi hm low

theorem execRds_word (narrow : sregWide n = false) {v : Lane → Nat} (hv : ∀ l, s.lowSreg l n = v l) :
    ∃ t, execRds h m s = .next t ∧ t.seq = s.seq + 1 ∧
      RegisterEffect s { t with seq := s.seq } h 0 (fun l => s.wordWrite l h.dst (BitVec.ofNat 32 (v l))) := by
  have run : execRds h m s = .next (s.runLanes h (fun t l => .done (t.result32 l h.dst (BitVec.ofNat 32 (v l)) none))).bump := by
    simp only [execRds, hm, narrow, hv, if_neg (Nat.not_le.mpr low), Bool.false_eq_true, if_false]
  exact ⟨_, run, (result32_effect s h none _ hi).bump⟩
theorem execRds_dword (wide : sregWide n = true) {v : Lane → Nat} (hv : ∀ l, s.lowSreg l n = v l) :
    ∃ t, execRds h m s = .next t ∧ t.seq = s.seq + 1 ∧
      RegisterEffect s { t with seq := s.seq } h 0 (fun l => pairWrite h.dst (BitVec.ofNat 64 (v l))) := by
  have run : execRds h m s = .next (s.runLanes h (fun t l => .done (t.result64 l h.dst (BitVec.ofNat 64 (v l)) none))).bump := by
    simp only [execRds, hm, wide, hv, if_neg (Nat.not_le.mpr low), if_true]
  exact ⟨_, run, (result64_effect s h none _ hi).bump⟩
end

/-- Settles O27: a register below 0x40 is read into a word or a pair (execRds_word, execRds_dword), its value being what lowSreg has at its
index; one from 0x40 up traps. -/
theorem rdsResults : Obligations.RdsResults := by
  unfold Obligations.RdsResults
  intro s h m team core own words dwords
  refine ⟨fun hi => ⟨fun p hp hm => ?words, fun p hp hm => ?dwords, fun n hn hm => ?ext, fun n hn hm => ?lvl⟩, fun l ha settled high => ?trap⟩
  case words =>
    simp only [words, List.mem_cons, List.not_mem_nil, or_false] at hp
    obtain ⟨low, narrow, value⟩ : p.1 < 0x40 ∧ sregWide p.1 = false ∧ ∀ l, s.lowSreg l p.1 = p.2 l := by
      rcases hp with rfl | rfl | rfl | rfl | rfl | rfl | rfl | rfl | rfl | rfl | rfl | rfl | rfl <;>
        refine ⟨by norm_num, rfl, fun l => ?_⟩
      exacts [rfl, rfl, rfl, rfl, BitVec.toNat_ofNat ((s.team l.tid).core + 65536 * (s.team l.tid).pkg) 32, rfl, rfl, rfl, rfl, rfl, rfl, rfl,
        (s.fibre l).tstat_toNat (s.fibre l).level]
    exact execRds_word hi h hm low narrow value
  case dwords =>
    simp only [dwords, List.mem_cons, List.not_mem_nil, or_false] at hp
    obtain ⟨low, wide, value⟩ : p.1 < 0x40 ∧ sregWide p.1 = true ∧ ∀ l, s.lowSreg l p.1 = p.2 l := by
      rcases hp with rfl | rfl | rfl <;> exact ⟨by norm_num, rfl, fun _ => rfl⟩
    exact execRds_dword hi h hm low wide value
  case ext =>
    have narrow : ∀ n < 8, sregWide (0x18 + n) = false := by decide
    exact execRds_word hi h hm (by omega) (narrow n hn) fun l => (s.lowSreg_ext l hn).trans (Team.ext_eq _ n)
  case lvl =>
    have narrow : ∀ n < 8, sregWide (0x10 + n) = false := by decide
    exact execRds_word hi h hm (by omega) (narrow n hn) fun l => (s.lowSreg_lvl l hn).trans (Team.lvl_eq _ l.fid n)
  case trap =>
    have run : execRds h m s = .next (s.finish l h (privSreg m.sreg.toNat)).bump := by
      unfold execRds
      dsimp only
      rw [ha.runLanes, if_pos high]
    rw [exec_rds, run]
    exact congrArg (fun t => Host.Outcome.next (State.bump t)) (State.finish_trap_settled settled h _ _)

end Sys2Proof.Machine
end

section
/-! PROOFS. Floating-point arithmetic (R167 to R173): each instruction is a register form or an immediate form of its function. -/

namespace Sys2Proof.Machine

/-- Settles O13: each instruction is a register form of its function, and floatReg_spec says what such a form leaves; FSCALE delivers the
rounded value of its two operands by deliverRound_effect. -/
theorem floatArithmeticResults : Obligations.FloatArithmeticResults := by
  unfold Obligations.FloatArithmeticResults
  refine ⟨fun p hp s h m hi => ?forms, fun s h m hi => ⟨_, rfl, ?scale⟩⟩
  case forms =>
    have form : exec (p.1 h m) s = floatReg h m p.2.1 p.2.2 s := by
      simp only [List.mem_cons, List.not_mem_nil, or_false] at hp
      rcases hp with rfl | rfl | rfl | rfl | rfl | rfl | rfl <;> rfl
    rw [form]
    exact floatReg_spec h m p.2.1 p.2.2 s hi
  case scale =>
    rw [runLanes_congr s h _ fun t l => .done (t.deliverRound l h.dst (ftypeFmt m.ty) (s.modeOf m.rnd) false m.ftz
      ((s.readFloat l .sa h.sa (ftypeFmt m.ty) m.ftz).scaleBy (s.readReg l .sb h.sb).toInt) (some 4))]
    · exact deliverRound_effect s h (ftypeFmt m.ty) (s.modeOf m.rnd) false m.ftz
        (fun l => (s.readFloat l .sa h.sa (ftypeFmt m.ty) m.ftz).scaleBy (s.readReg l .sb h.sb).toInt) (some 4) hi
    · intro t l hl
      dsimp only
      rw [guarded_tid s h l hl]
      rfl

/-- Settles O14: each instruction is an immediate form of its function, and floatImm_spec says what such a form leaves. -/
theorem floatImmediateResults : Obligations.FloatImmediateResults := by
  unfold Obligations.FloatImmediateResults
  intro p hp s h m hi
  have form : exec (p.1 h m) s = floatImm h m p.2 s := by
    simp only [List.mem_cons, List.not_mem_nil, or_false] at hp
    rcases hp with rfl | rfl | rfl | rfl <;> rfl
  rw [form]
  exact floatImm_spec h m p.2 s hi

end Sys2Proof.Machine
end

section
/-! PROOFS. The block conversions (R92, R185 to R188): sixteen elements rounded in order under a scale, and the run of registers written. -/

namespace Sys2Proof.Machine

theorem splitElems_length (bits : ℕ) : ∀ n x, (splitElems bits n x).length = n
  | 0, _ => rfl
  | n + 1, x => congrArg (· + 1) (splitElems_length bits n (x / 2 ^ bits))

/-- A run of registers and flags written, where elements have been converted before. -/
theorem convertAll_run_wrote {s t : State} {l : Lane} {key k : ℕ} {mode : RMode} (g : Word → FVal → ℕ × FFlags) {vs : List FVal} {n : ℕ}
    (hvs : vs.length = n) (fld : Field) (ws : List Word) (fl : FFlags) (hn : t.now = s.now) (hq : t.seq = s.seq)
    (hc : ∀ c, t.coreAt c = coreDrawn s key k c) :
    Wrote t (((t.convertAll key mode g vs).1.writeRun l fld ws).raiseFlags l fl none) l key (drawsOf mode n)
      (runWrite fld ws (s.flagNote l fl none)) := by
  obtain ⟨drawn, -, -⟩ := convertAll_spec s l key mode g vs t k hc
  rw [hvs] at drawn
  have run := drawn.trans (writeRun_wrote _ l key fld ws)
  have both := run.trans (raiseFlags_wrote s _ l key fl none (run.now.trans hn) (run.seq.trans hq))
  have write : (LaneWrite.and { } (runWrite fld ws [])).and { flags := s.flagNote l fl none } = runWrite fld ws (s.flagNote l fl none) := by
    simp [LaneWrite.and, runWrite]
  rwa [write] at both

/-- What each of the elements gives in order, where element j (from 1) meets `word j`: the codes, and the flags together. -/
def convertedCodes (g : Word → FVal → ℕ × FFlags) (word : ℕ → Word) (vs : List FVal) : List ℕ :=
  vs.zipIdx.map (fun p => (g (word (p.2 + 1)) p.1).1)
def convertedFlags (g : Word → FVal → ℕ × FFlags) (word : ℕ → Word) (vs : List FVal) : FFlags :=
  (vs.zipIdx.map (fun p => (g (word (p.2 + 1)) p.1).2)).foldr (· ||| ·) 0

/-- A body that converts 16 elements and writes what `ws` makes of the codes, and what `fl` makes of the flags. -/
theorem convertRun_effect {s : State} {h : Head} (hi : s.Issued) (mode : RMode) (g : Lane → Word → FVal → ℕ × FFlags) {vs : Lane → List FVal}
    (hvs : ∀ l, (vs l).length = 16) (ws : Lane → List ℕ → List Word) (fl : Lane → FFlags → FFlags) :
    RegisterEffect s (s.runLanes h (fun t l =>
      let r := t.convertAll (s.team s.sig.tid).coreKey mode (g l) (vs l)
      .done ((r.1.writeRun l h.dst (ws l r.2.1)).raiseFlags l (fl l r.2.2) none))) h (drawsOf mode 16) (fun l =>
        runWrite h.dst (ws l (convertedCodes (g l) (s.drawn h l mode 16) (vs l)))
          (s.flagNote l (fl l (convertedFlags (g l) (s.drawn h l mode 16) (vs l))) none)) := by
  refine runLanes_drawn mode 16 _ (fun word l => runWrite h.dst (ws l (convertedCodes (g l) word (vs l)))
    (s.flagNote l (fl l (convertedFlags (g l) word (vs l))) none)) hi fun t l k _ _ hn hq hc => ?_
  obtain ⟨-, codes, flags⟩ := convertAll_spec s l (s.team s.sig.tid).coreKey mode (g l) (vs l) t k hc
  rw [convertedCodes, convertedFlags, ← codes, ← flags]
  exact convertAll_run_wrote (g l) (hvs l) h.dst _ _ hn hq hc

/-! CVTBLK (R92, R185). -/

/-- The scale that R92 chooses for finite values. -/
def blockScale (e : Elem) (vs : List FVal) : ℤ := match topExponent vs with | none => 127 | some k => min (max (k - elemEmax e + 127) 0) 254
/-- What CVTBLK makes of one element, of the codes' words and of the flags: a block of which some value is not finite has the scale of NaN and
no elements (R92). -/
def blockElem (e : Elem) (mode : RMode) (vs : List FVal) (x : Word) (v : FVal) : ℕ × FFlags :=
  if vs.all (·.isFin) then roundElem e mode x (v.scale (127 - blockScale e vs)) else (0, 0)
def blockWords (e : Elem) (vs : List FVal) (codes : List ℕ) : List Word :=
  splitWords (packedRegs e.bits) (packElems e.bits codes) ++ [BitVec.ofNat 32 (if vs.all (·.isFin) then (blockScale e vs).toNat else 0xFF)]
def blockFlags (vs : List FVal) (fl : FFlags) : FFlags := if vs.all (·.isFin) then fl else flInvalid

theorem quantiseBlock_finite (t : State) (core : ℕ) (e : Elem) (mode : RMode) {vs : List FVal} (fin : vs.all (·.isFin) = true) :
    t.quantiseBlock core e mode vs =
      let r := t.convertAll core mode (fun x v => roundElem e mode x (v.scale (127 - blockScale e vs))) vs
      (r.1, (blockScale e vs).toNat, r.2.1, r.2.2) := by
  refine if_neg fun some => ?_
  obtain ⟨v, hv, other⟩ := List.any_eq_true.mp some
  obtain ⟨neg, sig, exp, rfl⟩ := FVal.exists_fin (List.all_eq_true.mp fin v hv)
  exact absurd other Bool.false_ne_true
theorem quantiseBlock_unfinished (t : State) (core : ℕ) (e : Elem) (mode : RMode) {vs : List FVal} (fin : ¬ vs.all (·.isFin) = true) :
    t.quantiseBlock core e mode vs =
      let r := t.convertAll core mode (fun _ _ => (0, 0)) vs
      (r.1, 0xFF, r.2.1, flInvalid) := by
  refine if_pos (List.any_eq_true.mpr ?_)
  simp only [List.all_eq_true, not_forall] at fin
  obtain ⟨v, hv, other⟩ := fin
  refine ⟨v, hv, ?_⟩
  cases v with
  | fin neg sig exp => exact absurd rfl other
  | inf neg => rfl
  | nan sig => rfl
/-- The block's state, words and flags are those of its elements converted in order. -/
theorem quantiseBlock_eq (t : State) (core : ℕ) (e : Elem) (mode : RMode) (vs : List FVal) :
    let q := t.quantiseBlock core e mode vs
    let r := t.convertAll core mode (blockElem e mode vs) vs
    q.1 = r.1 ∧ splitWords (packedRegs e.bits) (packElems e.bits q.2.2.1) ++ [BitVec.ofNat 32 q.2.1] = blockWords e vs r.2.1 ∧
      q.2.2.2 = blockFlags vs r.2.2 := by
  by_cases fin : vs.all (·.isFin) = true
  · have elem : blockElem e mode vs = fun x v => roundElem e mode x (v.scale (127 - blockScale e vs)) := by
      funext x v; exact if_pos fin
    simp only [quantiseBlock_finite t core e mode fin, elem, blockWords, blockFlags, if_pos fin, and_self]
  · have elem : blockElem e mode vs = fun _ _ => (0, 0) := by
      funext x v; exact if_neg fin
    simp only [quantiseBlock_unfinished t core e mode fin, elem, blockWords, blockFlags, if_neg fin, and_self]

/-- What CVTBLK leaves in a lane. -/
theorem blockWrite_eq {s : State} (l : Lane) (fld : Field) (e : Elem) (mode : RMode) (word : ℕ → Word) {vs : List FVal} (hvs : vs.length = 16) :
    runWrite fld (blockWords e vs (convertedCodes (blockElem e mode vs) word vs))
      (s.flagNote l (blockFlags vs (convertedFlags (blockElem e mode vs) word vs)) none) =
    let rs := vs.zipIdx.map (fun p => roundElem e mode (word (p.2 + 1)) (p.1.scale (127 - blockScale e vs)))
    let words := fun (codes : List Nat) (scale : Nat) => splitWords (packedRegs e.bits) (packElems e.bits codes) ++ [BitVec.ofNat 32 scale]
    if vs.all (·.isFin) then runWrite fld (words (rs.map (·.1)) (blockScale e vs).toNat) (s.flagNote l ((rs.map (·.2)).foldr (· ||| ·) 0) none)
    else runWrite fld (words (List.replicate 16 0) 0xFF) (s.flagNote l flInvalid none) := by
  by_cases fin : vs.all (·.isFin) = true
  · simp only [blockWords, blockFlags, convertedCodes, convertedFlags, blockElem, if_pos fin, List.map_map, Function.comp_def]
  · have none : convertedCodes (blockElem e mode vs) word vs = List.replicate 16 0 := by
      simp [convertedCodes, blockElem, fin, hvs]
    simp only [none, blockWords, blockFlags, if_neg fin]

section
variable {s : State} (hi : s.Issued) (h : Head) (m : ConvMod)

/-- The values that CVTBLK reads in a lane. -/
def State.blockValues (s : State) (l : Lane) (h : Head) (f : Fmt) (ftz : Bool) : List FVal :=
  (splitElems f.size 16 (joinWords (s.readRun l h.sa (wideRun f)))).map (f.operand ftz)
theorem State.blockValues_length (l : Lane) (f : Fmt) (ftz : Bool) : (s.blockValues l h f ftz).length = 16 := by
  simp [State.blockValues, splitElems_length]

include hi

theorem execCvtblk_effect {f : Fmt} (hf : elemOf m.sfmt.toNat = some (.float f)) : ∃ t, execCvtblk h m s = .next t ∧
    RegisterEffect s t h (drawsOf (s.modeOf m.rnd) 16) (fun l =>
      let e := elemD m.dfmt
      let vs := s.blockValues l h f m.ftz
      let rs := vs.zipIdx.map (fun p => roundElem e (s.modeOf m.rnd) (s.drawn h l (s.modeOf m.rnd) 16 (p.2 + 1)) (p.1.scale (127 - blockScale e vs)))
      let words := fun (codes : List Nat) (scale : Nat) => splitWords (packedRegs e.bits) (packElems e.bits codes) ++ [BitVec.ofNat 32 scale]
      if vs.all (·.isFin) then
        runWrite h.dst (words (rs.map (·.1)) (blockScale e vs).toNat) (s.flagNote l ((rs.map (·.2)).foldr (· ||| ·) 0) none)
      else runWrite h.dst (words (List.replicate 16 0) 0xFF) (s.flagNote l flInvalid none)) := by
  refine ⟨_, rfl, ?_⟩
  rw [runLanes_congr s h _ fun t l =>
    let vs := s.blockValues l h f m.ftz
    let r := t.convertAll (s.team s.sig.tid).coreKey (s.modeOf m.rnd) (blockElem (elemD m.dfmt) (s.modeOf m.rnd) vs) vs
    .done ((r.1.writeRun l h.dst (blockWords (elemD m.dfmt) vs r.2.1)).raiseFlags l (blockFlags vs r.2.2) none)]
  · refine (convertRun_effect hi (s.modeOf m.rnd) (fun l => blockElem (elemD m.dfmt) (s.modeOf m.rnd) (s.blockValues l h f m.ftz))
      (vs := fun l => s.blockValues l h f m.ftz) (fun l => State.blockValues_length h l f m.ftz)
      (fun l => blockWords (elemD m.dfmt) (s.blockValues l h f m.ftz)) (fun l => blockFlags (s.blockValues l h f m.ftz))).congr fun l _ _ => ?_
    exact blockWrite_eq l h.dst (elemD m.dfmt) (s.modeOf m.rnd) _ (State.blockValues_length h l f m.ftz)
  · intro t l hl
    obtain ⟨state, words, flags⟩ := quantiseBlock_eq t (s.team s.sig.tid).coreKey (elemD m.dfmt) (s.modeOf m.rnd) (s.blockValues l h f m.ftz)
    dsimp only
    rw [elemD_eq hf, guarded_tid s h l hl, ← state, ← words, ← flags]
    rfl

/-! DEQBLK (R91, R186). -/

/-- What DEQBLK makes of one element under a scale code. -/
def deqElem (f : Fmt) (mode : RMode) (sat ftz : Bool) (scale : ℕ) (x : Word) (v : FVal) : ℕ × FFlags :=
  if scale = 0xFF then ((f.nanCode false).getD 0, 0) else f.round mode sat ftz x (v.scale (scale - 127))
/-- The values that DEQBLK reads in a lane, before their scale. -/
def State.deqValues (s : State) (l : Lane) (h : Head) (m : ConvMod) : List FVal :=
  (splitElems (elemD m.sfmt).bits 16 (joinWords (s.readRun l h.sa (packedRegs (elemD m.sfmt).bits)))).map
    (elemValue (elemD m.sfmt) ((s.coreAt (s.team l.tid).coreKey).table m.cti.toNat) false)
omit hi in
theorem State.deqValues_length (l : Lane) : (s.deqValues l h m).length = 16 := by simp [State.deqValues, splitElems_length]
omit hi in
/-- The run's last word is the one after its elements. -/
theorem readRun_succ (l : Lane) (fld : Field) (n : ℕ) :
    (s.readRun l fld (n + 1)).take n = s.readRun l fld n ∧ (s.readRun l fld (n + 1)).getD n 0 = s.readOff l .sa fld n := by
  simp [State.readRun, List.range_succ]

theorem execDeqblk_effect {f : Fmt} (hf : elemOf m.dfmt.toNat = some (.float f)) : ∃ t, execDeqblk h m s = .next t ∧
    RegisterEffect s t h (drawsOf (s.modeOf m.rnd) 16) (fun l =>
      let scale := (s.readOff l .sa h.sa (packedRegs (elemD m.sfmt).bits)).toNat % 256
      let rs := (s.deqValues l h m).zipIdx.map (fun p =>
        deqElem f (s.modeOf m.rnd) m.sat m.ftz scale (s.drawn h l (s.modeOf m.rnd) 16 (p.2 + 1)) p.1)
      runWrite h.dst (splitWords (wideRun f) (packElems f.size (rs.map (·.1)))) (s.flagNote l ((rs.map (·.2)).foldr (· ||| ·) 0) none)) := by
  refine ⟨_, rfl, ?_⟩
  rw [runLanes_congr s h _ fun t l =>
    let scale := (s.readOff l .sa h.sa (packedRegs (elemD m.sfmt).bits)).toNat % 256
    let r := t.convertAll (s.team s.sig.tid).coreKey (s.modeOf m.rnd) (deqElem f (s.modeOf m.rnd) m.sat m.ftz scale) (s.deqValues l h m)
    .done ((r.1.writeRun l h.dst (splitWords (wideRun f) (packElems f.size r.2.1))).raiseFlags l r.2.2 none)]
  · refine (convertRun_effect hi (s.modeOf m.rnd)
      (fun l => deqElem f (s.modeOf m.rnd) m.sat m.ftz ((s.readOff l .sa h.sa (packedRegs (elemD m.sfmt).bits)).toNat % 256))
      (vs := fun l => s.deqValues l h m) (fun l => State.deqValues_length h m l)
      (fun _ codes => splitWords (wideRun f) (packElems f.size codes)) (fun _ fl => fl)).congr fun l _ _ => ?_
    simp only [convertedCodes, convertedFlags, List.map_map, Function.comp_def]
  · intro t l hl
    obtain ⟨elems, last⟩ := readRun_succ (s := s) l h.sa (packedRegs (elemD m.sfmt).bits)
    have elem : ∀ sc : ℕ, (fun (x : Word) (v : FVal) => match scaleExp sc with
        | none => ((f.nanCode false).getD 0, (0 : FFlags))
        | some k => f.round (s.modeOf m.rnd) m.sat m.ftz x (v.scale k)) = deqElem f (s.modeOf m.rnd) m.sat m.ftz sc := by
      intro sc
      funext x v
      unfold scaleExp deqElem
      split_ifs <;> rfl
    dsimp only
    rw [elemD_eq hf, guarded_tid s h l hl, ← elem]
    dsimp only
    rw [elems, last, State.deqValues, guarded_tid s h l hl]
    rfl
end

/-- Settles O20: each conversion is the lemma of its name. -/
theorem blockConversionResults : Obligations.BlockConversionResults := by
  unfold Obligations.BlockConversionResults
  intro s h m hi mode orAll
  exact ⟨fun f hf => execCvtblk_effect hi h m hf, fun f hf => execDeqblk_effect hi h m hf⟩

end Sys2Proof.Machine
end

section
/-! PROOFS. Minimum, maximum, sign operations, compare and class (R175 to R178), and the order that they use. -/

namespace Sys2Proof.Machine

/-! The order of finite numbers is the order of their values. -/

section
variable {a b : FVal} (ha : a.isFin = true) (hb : b.isFin = true)
include ha hb

theorem FVal.lt_iff_value : a.lt b = true ↔ a.value < b.value := by
  obtain ⟨m, s, e, rfl⟩ := FVal.exists_fin ha
  obtain ⟨n, t, g, rfl⟩ := FVal.exists_fin hb
  rw [← scaledAt_value m s (min_le_left e g), ← scaledAt_value n t (min_le_right e g), mul_lt_mul_iff_of_pos_right (by positivity), Int.cast_lt]
  exact decide_eq_true_iff
theorem FVal.eq_iff_value : a.eq b = true ↔ a.value = b.value := by
  have less := FVal.lt_iff_value ha hb
  have greater := FVal.lt_iff_value hb ha
  have neither : a.value = b.value ↔ ¬ a.value < b.value ∧ ¬ b.value < a.value := by rw [not_lt, not_lt, le_antisymm_iff, and_comm]
  rw [neither, ← less, ← greater]
  simp [FVal.eq, FVal.isFin_not_nan ha, FVal.isFin_not_nan hb]
end

/-! The functions, as the rules write them. -/

/-- The sign of a number, as pickFloat reads it. -/
def FVal.minus : FVal → Bool
  | .fin n _ _ => n
  | .inf n => n
  | .nan _ => false
theorem pickFloat_eq (f : Fmt) (larger : Bool) (ca cb : ℕ) (a b : FVal) : pickFloat f larger ca cb a b =
    if a.isNan && b.isNan then (f.nanCode false).getD 0 else if a.isNan then cb else if b.isNan then ca
    else if larger then (if a.lt b || (a.eq b && a.minus && !b.minus) then cb else ca)
    else (if a.lt b || (a.eq b && a.minus && !b.minus) then ca else cb) := by
  have body : pickFloat f larger ca cb a b = match a.isNan, b.isNan with
      | true, true => (f.nanCode false).getD 0
      | true, false => cb
      | false, true => ca
      | false, false => if (a.lt b || (a.eq b && a.minus && !b.minus)) != larger then ca else cb := by
    cases a <;> cases b <;> rfl
  rw [body]
  cases a.isNan <;> cases b.isNan <;> cases larger <;> cases (a.lt b || (a.eq b && a.minus && !b.minus)) <;> rfl

/-- No number is ordered with a NaN. -/
theorem FVal.lt_nan {a b : FVal} (h : (a.isNan || b.isNan) = true) : a.lt b = false ∧ b.lt a = false := by
  cases a with
  | nan s => cases b <;> exact ⟨rfl, rfl⟩
  | fin n s e => cases b with
    | nan t => exact ⟨rfl, rfl⟩
    | fin m t g => exact absurd h Bool.false_ne_true
    | inf m => exact absurd h Bool.false_ne_true
  | inf n => cases b with
    | nan t => exact ⟨rfl, rfl⟩
    | fin m t g => exact absurd h Bool.false_ne_true
    | inf m => exact absurd h Bool.false_ne_true

/-- A relation of R177, from whether the operands are unordered, and whether the first is less or greater. -/
def fcondRelates (c : FCond) (un less greater : Bool) : Bool :=
  match c with
  | .eq => !un && !less && !greater
  | .ne => un || less || greater
  | .lt => !un && less
  | .le => !un && !greater
  | .gt => !un && greater
  | .ge => !un && !less
  | .un => un
  | .ord => !un
/-- The relations that set invalid for a NaN of either kind (R177). -/
def fcondOrdered (c : FCond) : Bool := match c with | .lt => true | .le => true | .gt => true | .ge => true | _ => false

theorem fcondHolds_eq (c : FCond) (a b : FVal) : fcondHolds c a b = fcondRelates c (a.isNan || b.isNan) (a.lt b) (b.lt a) := by
  have equal : a.eq b = (!(a.isNan || b.isNan) && !a.lt b && !b.lt a) := by rw [FVal.eq, Bool.not_or]
  cases un : (a.isNan || b.isNan) with
  | true =>
    obtain ⟨less, greater⟩ := FVal.lt_nan un
    cases c <;> simp [fcondHolds, fcondRelates, equal, un, less, greater]
  | false => cases c <;> simp [fcondHolds, fcondRelates, equal, un]
theorem fcondFlags_eq (c : FCond) (a b : FVal) : fcondFlags c a b =
    if fcondOrdered c && (a.isNan || b.isNan) then flInvalid else if a.isSnan || b.isSnan then flInvalid else 0 := by
  have quiet : (a.isNan || b.isNan) = false → (a.isSnan || b.isSnan) = false := by
    cases a <;> cases b <;> simp [FVal.isNan, FVal.isSnan]
  cases un : (a.isNan || b.isNan) with
  | true => cases c <;> simp [fcondFlags, fcondOrdered, un]
  | false => cases c <;> simp [fcondFlags, fcondOrdered, un, quiet un]

/-- The bit of the class mask of R178. -/
def classBit (f : Fmt) : FVal → ℕ
  | .nan sig => if sig then 8 else 9
  | .inf n => if n then 0 else 7
  | .fin n sig _ => if sig = 0 then (if n then 3 else 4) else if sig < 2 ^ f.frac then (if n then 2 else 5) else (if n then 1 else 6)
theorem classMask_eq (f : Fmt) (v : FVal) : classMask f v = 2 ^ classBit f v := by
  cases v with
  | nan sig => cases sig <;> rfl
  | inf n => cases n <;> rfl
  | fin n sig exp =>
    simp only [classMask, classBit]
    split_ifs <;> rfl

/-! The effect of each. -/

section
variable {s : State} (hi : s.Issued) (h : Head) (m : FloatMod)
include hi

theorem floatPick_effect (larger : Bool) : ∃ t, floatPick h m larger s = .next t ∧ RegisterEffect s t h 0 (fun l =>
    let f := ftypeFmt m.ty
    let a := s.readFloat l .sa h.sa f m.ftz
    let b := s.readFloat l .sb h.sb f m.ftz
    s.floatWrite l h.dst (pickFloat f larger (f.round .rne false false 0 a).1 (f.round .rne false false 0 b).1 a b)
      (if a.isSnan || b.isSnan then flInvalid else 0) (some 4)) :=
  ⟨_, rfl, deliver_effect s h _ _ (some 4) hi⟩
/-- A predicate and flags, in every guarded lane (R177). -/
theorem writePredFlags_effect (v : Lane → Bool) (fl : Lane → FFlags) (lat : Option ℕ) :
    RegisterEffect s (s.runLanes h (fun t l => .done ((t.writePred l h.dst.pred (v l) lat).raiseFlags l (fl l) lat))) h 0
      (fun l => { predWrite h.dst.pred (v l) with flags := s.flagNote l (fl l) lat }) := by
  refine runLanes_effect s h 0 (fun t l => (t.writePred l h.dst.pred (v l) lat).raiseFlags l (fl l) lat)
    (fun _ l => { predWrite h.dst.pred (v l) with flags := s.flagNote l (fl l) lat }) hi fun t l _ _ _ _ hn hq _ _ _ => ?_
  have pred := writePred_wrote t l (s.team s.sig.tid).coreKey h.dst.pred (v l) lat
  have both := pred.trans (raiseFlags_wrote s _ l _ (fl l) lat (pred.now.trans hn) (pred.seq.trans hq))
  have write : (predWrite h.dst.pred (v l)).and { flags := s.flagNote l (fl l) lat } =
      { predWrite h.dst.pred (v l) with flags := s.flagNote l (fl l) lat } := by
    unfold predWrite
    split <;> rfl
  rwa [write] at both
theorem execFcmp_effect : ∃ t, execFcmp h m s = .next t ∧ RegisterEffect s t h 0 (fun l =>
    let a := s.readFloat l .sa h.sa (ftypeFmt m.ty) m.ftz
    let b := s.readFloat l .sb h.sb (ftypeFmt m.ty) m.ftz
    { predWrite h.dst.pred (fcondHolds m.fcond a b) with flags := s.flagNote l (fcondFlags m.fcond a b) (some 2) }) :=
  ⟨_, rfl, writePredFlags_effect hi h _ _ (some 2)⟩
end

/-- Settles O17: each instruction is the lemma of its function; the order is FVal.lt_iff_value. -/
theorem floatSelectAndCompareResults : Obligations.FloatSelectAndCompareResults := by
  unfold Obligations.FloatSelectAndCompareResults
  refine ⟨fun s h m hi => ?_, fun a b ha hb => ⟨FVal.lt_iff_value ha hb, FVal.eq_iff_value ha hb⟩⟩
  have pick := floatPick_effect hi h m
  have compare := execFcmp_effect hi h m
  simp only [pickFloat_eq] at pick
  simp only [fcondHolds_eq, fcondFlags_eq] at compare
  refine ⟨pick false, pick true, ⟨_, rfl, deliver_effect s h _ _ (some 4) hi⟩, ⟨_, rfl, deliver_effect s h _ _ (some 4) hi⟩, compare,
    ⟨_, rfl, (deliver_effect s h _ _ (some 4) hi).congr fun l _ _ => ?_⟩⟩
  exact congrArg (fun c => s.floatWrite l h.dst c 0 (some 4)) (classMask_eq _ _)

end Sys2Proof.Machine
end

section
/-! PROOFS. Representable values (R73, R74, R77, R78, R81, R85): the fields of a finite code in every float format, and that its value rounds to
the code itself. -/

namespace Sys2Proof.Machine

/-! A value that its quantum divides is packed as it is (R85). -/

theorem Fmt.round_exact {f : Fmt} {neg : Bool} {sig : ℕ} {exp : ℤ} (hs : sig ≠ 0) (signed : neg = true → f.sgn = true)
    (within : (sig * 2 ^ exp : ℝ) ≤ f.maxValue) (hq : f.quantum sig exp ≤ exp) (mode : RMode) (sat : Bool) (x : Word) :
    f.round mode sat false x (.fin neg sig exp) =
      (f.pack neg (sig * 2 ^ (exp - f.quantum sig exp).toNat) (f.quantum sig exp), 0) := by
  have quantised := Fmt.quantise_le_max (mode := mode) (fun h => absurd within (not_le.mpr h.2)) neg x
  rw [roundAt_whole mode neg sig x hq] at quantised
  have some : sig * 2 ^ (exp - f.quantum sig exp).toNat ≠ 0 := by positivity
  have scaled : ((sig * 2 ^ (exp - f.quantum sig exp).toNat : ℕ) * 2 ^ f.quantum sig exp : ℝ) = sig * 2 ^ exp := by
    rw [Nat.cast_mul, Nat.cast_pow, Nat.cast_ofNat, mul_assoc, zpow_mul_pow_toNat hq]
  have fits : ¬ magLt f.maxFin.1 f.maxFin.2 (sig * 2 ^ (exp - f.quantum sig exp).toNat) (f.quantum sig exp) = true := by
    rw [magLt_iff, scaled]
    exact not_lt.mpr within
  have own : (neg && !f.sgn) = false := by
    cases neg with
    | false => rfl
    | true => rw [signed rfl]; rfl
  simp [Fmt.round, hs, quantised, own, some, fits]

/-! The fields of a code (R74): its value's significand and exponent, in units of the least one. -/

section
variable (f : Fmt) (mag : ℕ)

/-- The significand that a magnitude's fields give. -/
def Fmt.fieldSig : ℕ := if mag / 2 ^ f.frac = 0 then mag % 2 ^ f.frac else 2 ^ f.frac + mag % 2 ^ f.frac
/-- How many places its exponent lies above the least. -/
def Fmt.fieldShift : ℕ := mag / 2 ^ f.frac - 1
/-- The magnitude's value in units of the least subnormal. -/
def Fmt.fieldUnits : ℕ := f.fieldSig mag * 2 ^ f.fieldShift mag

theorem Fmt.finite_eq (neg : Bool) :
    f.finite neg (mag / 2 ^ f.frac) (mag % 2 ^ f.frac) = .fin neg (f.fieldSig mag) (f.unitExp + f.fieldShift mag) := by
  unfold Fmt.finite Fmt.fieldSig Fmt.fieldShift Fmt.unitExp
  split
  case isTrue h => simp [h]
  case isFalse h =>
    generalize mag / 2 ^ f.frac = e at h ⊢
    congr 1
    omega
theorem Fmt.fieldSig_subnormal (h : mag / 2 ^ f.frac = 0) : f.fieldSig mag = mag := by
  rw [Fmt.fieldSig, if_pos h]
  simpa [h] using Nat.div_add_mod mag (2 ^ f.frac)
theorem Fmt.fieldSig_lt : f.fieldSig mag < 2 ^ (f.frac + 1) := by
  have := Nat.mod_lt mag (show 0 < 2 ^ f.frac by positivity)
  unfold Fmt.fieldSig
  split <;> omega
theorem Fmt.fieldSig_normal (h : mag / 2 ^ f.frac ≠ 0) : 2 ^ f.frac ≤ f.fieldSig mag := by
  rw [Fmt.fieldSig, if_neg h]
  exact Nat.le_add_right _ _
theorem Fmt.fieldSig_eq_zero (h : f.fieldSig mag = 0) : mag = 0 := by
  by_cases sub : mag / 2 ^ f.frac = 0
  · rwa [f.fieldSig_subnormal mag sub] at h
  · have := f.fieldSig_normal mag sub
    have : 0 < 2 ^ f.frac := by positivity
    omega
theorem Fmt.fieldUnits_real : (f.fieldSig mag * 2 ^ (f.unitExp + f.fieldShift mag) : ℝ) = f.fieldUnits mag * 2 ^ f.unitExp := by
  rw [Fmt.fieldUnits, zpow_add₀ (by norm_num), zpow_natCast]
  push_cast
  ring

/-- A number with a greater exponent field is greater. -/
theorem Fmt.fieldUnits_le : f.fieldUnits mag ≤ 2 ^ f.frac * 2 ^ (mag / 2 ^ f.frac) := by
  unfold Fmt.fieldUnits Fmt.fieldShift
  by_cases sub : mag / 2 ^ f.frac = 0
  · have := Nat.mod_lt mag (show 0 < 2 ^ f.frac by positivity)
    simp only [Fmt.fieldSig, sub, if_true, Nat.zero_sub, pow_zero, mul_one]
    exact this.le
  · obtain ⟨e, he⟩ := Nat.exists_eq_succ_of_ne_zero sub
    rw [he, Nat.succ_sub_one, Nat.pow_succ', ← mul_assoc, ← pow_succ]
    exact Nat.mul_le_mul_right _ (f.fieldSig_lt mag).le
theorem Fmt.le_fieldUnits (h : mag / 2 ^ f.frac ≠ 0) : 2 ^ f.frac * 2 ^ (mag / 2 ^ f.frac - 1) ≤ f.fieldUnits mag :=
  Nat.mul_le_mul_right _ (f.fieldSig_normal mag h)
end

/-- The codes of a sign are in the order of their magnitudes. -/
theorem Fmt.fieldUnits_mono (f : Fmt) {a b : ℕ} (h : a ≤ b) : f.fieldUnits a ≤ f.fieldUnits b := by
  rcases (Nat.div_le_div_right (c := 2 ^ f.frac) h).lt_or_eq with lt | eq
  · have below : a / 2 ^ f.frac ≤ b / 2 ^ f.frac - 1 := Nat.le_sub_one_of_lt lt
    calc f.fieldUnits a ≤ 2 ^ f.frac * 2 ^ (a / 2 ^ f.frac) := f.fieldUnits_le a
      _ ≤ 2 ^ f.frac * 2 ^ (b / 2 ^ f.frac - 1) := Nat.mul_le_mul_left _ (Nat.pow_le_pow_right (by norm_num) below)
      _ ≤ f.fieldUnits b := f.le_fieldUnits b (Nat.ne_zero_of_lt lt)
  · have frac : a % 2 ^ f.frac ≤ b % 2 ^ f.frac := by
      have := Nat.div_add_mod a (2 ^ f.frac)
      have := Nat.div_add_mod b (2 ^ f.frac)
      rw [eq] at *
      omega
    unfold Fmt.fieldUnits Fmt.fieldSig Fmt.fieldShift
    rw [eq]
    refine Nat.mul_le_mul_right _ ?_
    split <;> omega

/-- The quantum of a magnitude's value is its own last place. -/
theorem Fmt.quantum_field (f : Fmt) {mag : ℕ} (h : mag ≠ 0) :
    f.quantum (f.fieldSig mag) (f.unitExp + f.fieldShift mag) = f.unitExp + f.fieldShift mag := by
  have some : f.fieldSig mag ≠ 0 := mt (f.fieldSig_eq_zero mag) h
  have digits : log2 (f.fieldSig mag) < f.frac + 1 := (Nat.log2_lt some).mpr (f.fieldSig_lt mag)
  unfold Fmt.quantum
  by_cases sub : mag / 2 ^ f.frac = 0
  · have : f.fieldShift mag = 0 := by simp [Fmt.fieldShift, sub]
    rw [this]
    omega
  · have : f.frac ≤ log2 (f.fieldSig mag) := (Nat.le_log2 some).mpr (f.fieldSig_normal mag sub)
    omega
/-- Packing a magnitude's value gives the magnitude back. -/
theorem Fmt.pack_field (f : Fmt) {neg : Bool} (signed : neg = true → f.sgn = true) {mag : ℕ} (h : mag ≠ 0) :
    f.pack neg (f.fieldSig mag) (f.unitExp + f.fieldShift mag) = (if neg then 2 ^ (f.size - 1) else 0) + mag := by
  have some : f.fieldSig mag ≠ 0 := mt (f.fieldSig_eq_zero mag) h
  have digits : log2 (f.fieldSig mag) < f.frac + 1 := (Nat.log2_lt some).mpr (f.fieldSig_lt mag)
  have sign : (if (f.sgn && neg) = true then 2 ^ (f.size - 1) else 0) = if neg then 2 ^ (f.size - 1) else 0 := by
    cases neg with
    | false => simp
    | true => simp [signed rfl]
  have parts := Nat.div_add_mod' mag (2 ^ f.frac)
  unfold Fmt.pack
  by_cases sub : mag / 2 ^ f.frac = 0
  · have low : log2 (f.fieldSig mag) < f.frac := by
      refine (Nat.log2_lt some).mpr ?_
      rw [f.fieldSig_subnormal mag sub]
      exact (Nat.div_eq_zero_iff.mp sub).resolve_left (by positivity)
    have shift : f.fieldShift mag = 0 := by simp [Fmt.fieldShift, sub]
    have below : f.unitExp + ((0 : ℕ) : ℤ) + (log2 (f.fieldSig mag) : ℤ) < 1 - f.bias := by unfold Fmt.unitExp; omega
    dsimp only
    rw [shift, if_pos below, sign, f.fieldSig_subnormal mag sub]
    unfold Fmt.unitExp
    simp
  · have long : log2 (f.fieldSig mag) = f.frac := le_antisymm (by omega) ((Nat.le_log2 some).mpr (f.fieldSig_normal mag sub))
    have above : ¬ f.unitExp + (f.fieldShift mag : ℤ) + (f.frac : ℤ) < 1 - f.bias := by unfold Fmt.unitExp; omega
    have field : (f.unitExp + (f.fieldShift mag : ℤ) + (f.frac : ℤ) + f.bias).toNat = mag / 2 ^ f.frac := by
      unfold Fmt.unitExp Fmt.fieldShift
      generalize mag / 2 ^ f.frac = e at sub ⊢
      omega
    have rest : f.fieldSig mag - 2 ^ f.frac = mag % 2 ^ f.frac := by rw [Fmt.fieldSig, if_neg sub, Nat.add_sub_cancel_left]
    dsimp only
    rw [long, if_neg above, if_pos le_rfl, Nat.sub_self, pow_zero, mul_one, field, rest, sign]
    omega

/-! The finite codes of a format: a sign, if the format has one, and a magnitude up to that of max finite (R74, R77, R78, R81). -/

/-- The sign and the magnitude of a code. -/
def Fmt.signBit (f : Fmt) (c : ℕ) : Bool := f.sgn && bitAt c (f.size - 1)
def Fmt.magBits (f : Fmt) (c : ℕ) : ℕ := if f.sgn then c % 2 ^ (f.size - 1) else c % 2 ^ f.size

/-- A code names its fields' value or a special one. -/
theorem Fmt.decode_cases (f : Fmt) (c : ℕ) : (f.decode c).isFin = false ∨
    f.decode c = f.finite (f.signBit c) (f.magBits c / 2 ^ f.frac) (f.magBits c % 2 ^ f.frac) := by
  unfold Fmt.decode Fmt.signBit Fmt.magBits
  dsimp only
  cases f.spec <;> dsimp only <;> split_ifs <;> simp [FVal.isFin]
theorem Fmt.decode_of_isFin {f : Fmt} {c : ℕ} (h : (f.decode c).isFin = true) :
    f.decode c = .fin (f.signBit c) (f.fieldSig (f.magBits c)) (f.unitExp + f.fieldShift (f.magBits c)) := by
  rw [← Fmt.finite_eq]
  exact (f.decode_cases c).resolve_left (by simp [h])

/-- The codes that a finite P3109 code is not (R78). -/
theorem Fmt.p3109_not_special {f : Fmt} {ext : Bool} (hs : f.spec = .p3109 ext) {c : ℕ} (fin : (f.decode c).isFin = true) :
    c % 256 ≠ (if f.sgn then 0x80 else 0xFF) ∧ (ext = true → c % 256 ≠ (if f.sgn then 0x7F else 0xFE)) ∧
      (ext = true → f.sgn = true → c % 256 ≠ 0xFF) := by
  unfold Fmt.decode at fin
  simp only [hs] at fin
  refine ⟨fun h => ?_, fun he h => ?_, fun he hn h => ?_⟩
  · rw [if_pos h] at fin
    exact absurd fin Bool.false_ne_true
  · rw [if_neg (by rw [h]; cases f.sgn <;> decide), if_pos (by simp [he, h])] at fin
    exact absurd fin Bool.false_ne_true
  · rw [if_neg (by simp [h, hn]), if_neg (by simp [h, hn]), if_pos (by simp [he, h, hn])] at fin
    exact absurd fin Bool.false_ne_true
theorem Fmt.sgn_of_signBit {f : Fmt} {c : ℕ} (h : f.signBit c = true) : f.sgn = true := (Bool.and_eq_true_iff.mp h).1

/-- A format of R73: the bits that its special codes leave to it, and its max finite as the code of it says. -/
structure Fmt.Listed (f : Fmt) : Prop where
  shape : match f.spec with
    | .ieee => f.sgn = true ∧ f.frac + 1 ≤ f.size
    | .e4m3 => f.sgn = true ∧ f.size = 8
    | .plain => f.sgn = true ∧ 1 ≤ f.size
    | .p3109 _ => f.size = 8
  max : f.maxFin = (f.fieldSig f.maxCode, f.unitExp + f.fieldShift f.maxCode)

theorem fmtP3109_listed {p : ℕ} (h0 : p ≠ 0) (h8 : p < 8) (u ext : Bool) : (fmtP3109 p u ext).Listed := by
  have max : ∀ p < 8, p ≠ 0 → ∀ u ext, (fmtP3109 p u ext).maxFin =
      ((fmtP3109 p u ext).fieldSig (fmtP3109 p u ext).maxCode, (fmtP3109 p u ext).unitExp + (fmtP3109 p u ext).fieldShift (fmtP3109 p u ext).maxCode) := by
    decide
  exact ⟨rfl, max p h8 h0 u ext⟩
theorem elemOf_p3109 {code : ℕ} {f : Fmt} (hc : 11 ≤ code) (h : elemOf code = some (.float f)) :
    code % 8 ≠ 0 ∧ f = fmtP3109 (code % 8) (bitAt code 4) (!bitAt code 3) := by
  unfold elemOf at h
  repeat rw [if_neg (by omega)] at h
  split at h
  case isTrue range => exact ⟨range.2.2, (Elem.float.inj (Option.some.inj h)).symm⟩
  case isFalse => exact absurd h nofun
theorem elemOf_listed {code : ℕ} {f : Fmt} (h : elemOf code = some (.float f)) : f.Listed := by
  rcases Nat.lt_or_ge code 8 with low | high
  · interval_cases code <;> obtain rfl := Elem.float.inj (Option.some.inj h) <;> exact ⟨And.intro rfl (by decide), by decide⟩
  rcases Nat.lt_or_ge code 11 with mid | top
  · interval_cases code <;> exact absurd (Option.some.inj h) nofun
  obtain ⟨precision, rfl⟩ := elemOf_p3109 top h
  exact fmtP3109_listed precision (Nat.mod_lt _ (by norm_num)) _ _

section
variable {f : Fmt} (hf : f.Listed) {c : ℕ} (hc : c < 2 ^ f.size)
include hf

theorem Fmt.Listed.size_pos : 1 ≤ f.size := by
  have shape := hf.shape
  cases hs : f.spec <;> simp only [hs] at shape <;> omega

include hc

/-- A code is its sign and its magnitude. -/
theorem Fmt.Listed.code_eq : (if f.signBit c then 2 ^ (f.size - 1) else 0) + f.magBits c = c := by
  have pos := hf.size_pos
  unfold Fmt.signBit Fmt.magBits
  cases f.sgn with
  | false => simp [Nat.mod_eq_of_lt hc]
  | true =>
    have two : 2 ^ f.size = 2 * 2 ^ (f.size - 1) := by rw [← pow_succ']; congr 1; omega
    have bit : c / 2 ^ (f.size - 1) < 2 := Nat.div_lt_of_lt_mul (by rwa [mul_comm, ← two])
    have parts := Nat.div_add_mod c (2 ^ (f.size - 1))
    rcases Nat.lt_succ_iff_lt_or_eq.mp bit with h | h
    · have zero : c / 2 ^ (f.size - 1) = 0 := Nat.lt_one_iff.mp h
      simpa [bitAt, zero] using parts
    · simpa [bitAt, h] using parts
omit hc in
/-- No finite code has a greater magnitude than max finite (R74, R78, R81). -/
theorem Fmt.Listed.magBits_le (fin : (f.decode c).isFin = true) : f.magBits c ≤ f.maxCode := by
  have shape := hf.shape
  unfold Fmt.magBits Fmt.maxCode
  cases hs : f.spec with
  | ieee =>
    unfold Fmt.decode at fin
    simp only [hs] at shape fin ⊢
    obtain ⟨sgn, size⟩ := shape
    simp only [sgn, if_true] at fin ⊢
    have field : c % 2 ^ (f.size - 1) / 2 ^ f.frac ≠ 2 ^ (f.size - 1 - f.frac) - 1 := by
      intro special
      rw [if_pos special] at fin
      split at fin <;> exact absurd fin Bool.false_ne_true
    have whole : 2 ^ (f.size - 1) = 2 ^ (f.size - 1 - f.frac) * 2 ^ f.frac := by rw [← pow_add]; congr 1; omega
    have below : c % 2 ^ (f.size - 1) / 2 ^ f.frac < 2 ^ (f.size - 1 - f.frac) := by
      rw [Nat.div_lt_iff_lt_mul (by positivity), ← whole]
      exact Nat.mod_lt c (by positivity)
    have room : c % 2 ^ (f.size - 1) < (2 ^ (f.size - 1 - f.frac) - 1) * 2 ^ f.frac :=
      (Nat.div_lt_iff_lt_mul (by positivity)).mp (lt_of_le_of_ne (Nat.le_sub_one_of_lt below) field)
    rw [Nat.sub_one_mul, ← whole] at room
    exact Nat.le_sub_one_of_lt room
  | e4m3 =>
    unfold Fmt.decode at fin
    simp only [hs] at shape fin ⊢
    obtain ⟨sgn, size⟩ := shape
    simp only [sgn, size, if_true] at fin ⊢
    have nan : c % 2 ^ (8 - 1) ≠ 0x7F := by
      intro special
      rw [if_pos special] at fin
      exact absurd fin Bool.false_ne_true
    omega
  | plain =>
    simp only [hs] at shape ⊢
    simp only [shape.1, if_true]
    exact Nat.le_sub_one_of_lt (Nat.mod_lt c (by positivity))
  | p3109 ext =>
    obtain ⟨nan, inf, negInf⟩ := Fmt.p3109_not_special hs fin
    simp only [hs] at shape ⊢
    rw [shape]
    cases hn : f.sgn <;> cases ext <;> simp [hn] at nan inf negInf ⊢ <;> omega
/-- Zero of a sign is its code (R85). -/
theorem Fmt.Listed.zero_eq (fin : (f.decode c).isFin = true) (h : f.magBits c = 0) : f.zero (f.signBit c) = c := by
  have code := hf.code_eq hc
  rw [h, Nat.add_zero] at code
  unfold Fmt.zero
  cases hs : f.spec with
  | p3109 ext =>
    obtain ⟨nan, -, -⟩ := Fmt.p3109_not_special hs fin
    have shape := hf.shape
    simp only [hs] at shape ⊢
    rw [shape] at code
    cases sign : f.signBit c with
    | false => simpa [sign] using code
    | true =>
      rw [sign, if_pos rfl] at code
      rw [Fmt.sgn_of_signBit sign, if_pos rfl, ← code] at nan
      exact absurd rfl nan
  | _ => exact code

/-- A finite code's value rounds to the code, exactly and without a flag. -/
theorem Fmt.Listed.round_decode (fin : (f.decode c).isFin = true) (mode : RMode) (sat : Bool) (x : Word) :
    f.round mode sat false x (f.decode c) = (c, 0) := by
  rw [Fmt.decode_of_isFin fin]
  by_cases zero : f.magBits c = 0
  · have none : f.fieldSig (f.magBits c) = 0 := by simp [zero, Fmt.fieldSig]
    rw [none]
    exact congrArg (·, 0) (hf.zero_eq hc fin zero)
  · have within : (f.fieldSig (f.magBits c) * 2 ^ (f.unitExp + f.fieldShift (f.magBits c)) : ℝ) ≤ f.maxValue := by
      rw [Fmt.maxValue, hf.max, Fmt.fieldUnits_real, Fmt.fieldUnits_real]
      exact mul_le_mul_of_nonneg_right (by exact_mod_cast f.fieldUnits_mono (hf.magBits_le fin)) (by positivity)
    have own := f.quantum_field zero
    rw [Fmt.round_exact (mt (f.fieldSig_eq_zero _) zero) Fmt.sgn_of_signBit within own.le, own, sub_self, Int.toNat_zero, pow_zero, mul_one,
      f.pack_field Fmt.sgn_of_signBit zero, hf.code_eq hc]

end

theorem ftypeFmt_listed (ty : FType) : (ftypeFmt ty).Listed := by
  cases ty with
  | f32 => exact elemOf_listed (code := 0) rfl
  | f16 => exact elemOf_listed (code := 1) rfl
  | bf16 => exact elemOf_listed (code := 2) rfl

end Sys2Proof.Machine
end

section
/-! PROOFS. FRND (R173): a number rounded at the units, and that the format represents the result. -/

namespace Sys2Proof.Machine

theorem FVal.integral_of_nonneg (mode : RMode) (x : Word) (neg : Bool) (sig : ℕ) {exp : ℤ} (h : 0 ≤ exp) :
    FVal.integral mode x (.fin neg sig exp) = (.fin neg sig exp, 0) := by
  simp [FVal.integral, roundAt_whole mode neg sig x h, h]
theorem FVal.integral_of_neg (mode : RMode) (x : Word) (neg : Bool) (sig : ℕ) {exp : ℤ} (h : ¬ 0 ≤ exp) :
    FVal.integral mode x (.fin neg sig exp) =
      (.fin neg (roundAt mode neg sig exp 0 x).1 0, if (roundAt mode neg sig exp 0 x).2 then flInexact else 0) := by
  simp [FVal.integral, h]
/-- The rounding at the units delivers the whole number that roundAt makes of the magnitude, with its sign. -/
theorem FVal.integral_value (mode : RMode) (x : Word) (neg : Bool) (sig : ℕ) (exp : ℤ) :
    (FVal.integral mode x (.fin neg sig exp)).1.value = signedInt neg (roundAt mode neg sig exp 0 x).1 := by
  by_cases h : 0 ≤ exp
  · have whole : (2 : ℚ) ^ exp = 2 ^ exp.toNat := by rw [← zpow_natCast, Int.toNat_of_nonneg h]
    rw [FVal.integral_of_nonneg mode x neg sig h, roundAt_whole mode neg sig x h, sub_zero]
    cases neg <;> simp [FVal.value, signedInt, whole]
  · rw [FVal.integral_of_neg mode x neg sig h]
    cases neg <;> simp [FVal.value, signedInt]
/-- What each mode promises of that number, and that it is flagged inexact where it differs (R173). -/
theorem FVal.integral_whole (mode : RMode) (x : Word) {a : FVal} (fin : a.isFin = true) :
    ∃ n : ℤ, (a.integral mode x).1.value = n ∧ WholeOf mode n a.real ∧ (a.integral mode x).2 = if (n : ℚ) = a.value then 0 else flInexact := by
  obtain ⟨neg, sig, exp, rfl⟩ := FVal.exists_fin fin
  obtain ⟨whole, inexact⟩ := (roundAt_roundsTo mode neg sig exp 0 x).wholeOf
  rw [sub_zero, ← FVal.real_fin] at whole inexact
  refine ⟨_, FVal.integral_value mode x neg sig exp, whole, ?_⟩
  have differs : (roundAt mode neg sig exp 0 x).2 = true ↔
      ¬ ((signedInt neg (roundAt mode neg sig exp 0 x).1 : ℤ) : ℚ) = (FVal.fin neg sig exp).value := by
    unfold FVal.real at inexact
    exact_mod_cast inexact
  rw [← ite_not, ← if_congr differs rfl rfl]
  rfl

/-- Whole numbers of the format's digits are among its values: its units are finer, its greatest numbers coarser than 1. -/
theorem ftypeFmt_units (ty : FType) : (ftypeFmt ty).unitExp ≤ 0 ∧ 0 ≤ (ftypeFmt ty).topExp := by
  cases ty <;> decide
theorem Fmt.Wide.round_whole {f : Fmt} (hf : f.Wide) (units : f.unitExp ≤ 0) (top : 0 ≤ f.topExp) {n : ℕ} (hn : n ≤ 2 ^ f.frac) (mode : RMode)
    (neg : Bool) (x : Word) : (f.decode (f.round mode false false x (.fin neg n 0)).1).real = signOf neg * n := by
  by_cases n0 : n = 0
  · subst n0
    have zero : f.round mode false false x (.fin neg 0 0) = (f.zero neg, 0) := rfl
    rw [zero, (hf.zero_codes neg 0).value, Nat.cast_zero, zero_mul]
  have twice : 2 ^ (f.frac + 1) = 2 * 2 ^ f.frac := pow_succ' 2 f.frac
  have one : 0 < 2 ^ f.frac := by positivity
  have within : (n * 2 ^ (0 : ℤ) : ℝ) ≤ f.maxValue := by
    rw [Fmt.maxValue, hf.max]
    refine mul_le_mul ?_ (zpow_le_zpow_right₀ (by norm_num) top) (by positivity) (by positivity)
    exact_mod_cast (by omega : n ≤ 2 ^ (f.frac + 1) - 1)
  have digits : log2 n ≤ f.frac := by
    refine (Nat.pow_le_pow_iff_right (a := 2) (by norm_num)).mp ((Nat.log2_self_le n0).trans hn)
  have fine : f.quantum n 0 ≤ 0 := max_le (by omega) units
  have quantum := f.lt_of_quantum (sig := n) 0
  have scaled : ((n * 2 ^ (0 - f.quantum n 0).toNat : ℕ) * 2 ^ f.quantum n 0 : ℝ) = n * 2 ^ (0 : ℤ) := by
    rw [Nat.cast_mul, Nat.cast_pow, Nat.cast_ofNat, mul_assoc, zpow_mul_pow_toNat fine]
  have small : n * 2 ^ (0 - f.quantum n 0).toNat ≤ 2 ^ (f.frac + 1) := by
    have power : (2 : ℝ) ^ (0 - f.quantum n 0) = 2 ^ (0 - f.quantum n 0).toNat := by rw [← zpow_natCast, Int.toNat_of_nonneg (by omega)]
    rw [power] at quantum
    exact_mod_cast quantum.le
  rw [Fmt.round_exact n0 (fun _ => hf.sgn) within fine, (hf.pack_codes neg (by positivity) small (scaled.trans_le within) (le_max_right _ _)).value,
    scaled, zpow_zero, mul_one]

/-- The integral value of a code is among the format's values. -/
theorem round_integral (ty : FType) (mode : RMode) (x : Word) {c : ℕ} (hc : c < 2 ^ (ftypeFmt ty).size)
    (fin : ((ftypeFmt ty).decode c).isFin = true) :
    let v := FVal.integral mode x ((ftypeFmt ty).decode c)
    ((ftypeFmt ty).decode ((ftypeFmt ty).round .rtz false false 0 v.1).1).value = v.1.value := by
  intro v
  obtain ⟨neg, sig, exp, value, digits⟩ : ∃ neg sig exp, (ftypeFmt ty).decode c = .fin neg sig exp ∧ sig < 2 ^ ((ftypeFmt ty).frac + 1) :=
    ⟨_, _, _, Fmt.decode_of_isFin fin, (ftypeFmt ty).fieldSig_lt _⟩
  by_cases whole : 0 ≤ exp
  · have same : v.1 = (ftypeFmt ty).decode c := by
      simp only [v, value, FVal.integral_of_nonneg mode x neg sig whole]
    rw [same, (ftypeFmt_listed ty).round_decode hc fin]
  · have rounded : v.1 = .fin neg (roundAt mode neg sig exp 0 x).1 0 := by
      simp only [v, value, FVal.integral_of_neg mode x neg sig whole]
    have half : sig * (2 : ℝ) ^ (exp - 0) < (2 ^ (ftypeFmt ty).frac : ℕ) :=
      calc sig * (2 : ℝ) ^ (exp - 0) ≤ sig * 2 ^ (-1 : ℤ) :=
            mul_le_mul_of_nonneg_left (zpow_le_zpow_right₀ (by norm_num) (by omega)) (by positivity)
        _ < 2 ^ ((ftypeFmt ty).frac + 1) * 2 ^ (-1 : ℤ) := mul_lt_mul_of_pos_right (by exact_mod_cast digits) (by positivity)
        _ = (2 ^ (ftypeFmt ty).frac : ℕ) := by
            rw [pow_succ, zpow_neg_one, Nat.cast_pow, Nat.cast_ofNat, mul_assoc, mul_inv_cancel₀ (by norm_num), mul_one]
    have small := (roundAt_roundsTo mode neg sig exp 0 x).le half
    have units := ftypeFmt_units ty
    have delivered := (ftypeFmt_wide ty).round_whole units.1 units.2 small .rtz neg 0
    rw [← rounded] at delivered
    have real : v.1.real = signOf neg * (roundAt mode neg sig exp 0 x).1 := by rw [rounded, FVal.real_fin, zpow_zero, mul_one]
    exact Rat.cast_injective (delivered.trans real.symm)

/-- Settles O16: FRND delivers what FVal.integral_whole and round_integral say; that a value rounds to its own code is Fmt.Listed.round_decode. -/
theorem frndAndRepresentableResults : Obligations.FrndAndRepresentableResults := by
  unfold Obligations.FrndAndRepresentableResults
  refine ⟨⟨fun s h m hi => execFrnd_effect h hi m, fun ty mode x ca => ?_⟩,
    fun code f hf c hc fin mode sat x => (elemOf_listed hf).round_decode hc fin mode sat x⟩
  intro f a v hc fin
  refine ⟨?_, round_integral ty mode x hc fin⟩
  obtain ⟨n, value, whole, flag⟩ := FVal.integral_whole mode x fin
  unfold FVal.real at whole
  refine ⟨n, value, ?_, flag, fun e => ?_, fun e => ?_, fun e => ?_, fun e => ?_⟩
  · exact_mod_cast whole.near
  · exact_mod_cast whole.up e
  · exact_mod_cast whole.down e
  · exact_mod_cast whole.zero e
  · rify
    exact whole.half e

end Sys2Proof.Machine
end

section
/-! PROOFS. The approximate functions (R179, R180): the special operands, and what the free offset leaves of a rounded result. -/

namespace Sys2Proof.Machine

/-! One lane: the exact cases, the 16-bit types, and FP32. -/

section
variable {g : Approx} {f : Fmt} {ftz : Bool} {op : Word} {a : FVal} (ha : f.operand ftz (op.toNat % 2 ^ f.size) = a)
include ha

theorem Approx.eval_exact (exact : (g.value a).2.2 = true) :
    g.eval f ftz op = ((f.round .rne false ftz 0 (g.value a).1).1, (g.value a).2.1 ||| (f.round .rne false ftz 0 (g.value a).1).2) := by
  unfold Approx.eval
  rw [ha]
  exact if_pos exact
theorem Approx.eval_narrow (hf : f ≠ fmtF32) : (g.eval f ftz op).1 = (f.round .rne false ftz 0 (g.value a).1).1 := by
  by_cases exact : (g.value a).2.2 = true
  · rw [Approx.eval_exact ha exact]
  · unfold Approx.eval
    dsimp only
    rw [ha, if_neg exact, if_neg hf]
omit ha in
/-- The free offset moves the rounded code to one within the bound, or nowhere (log 9). -/
theorem Approx.choose_inBound (g : Approx) (op : Word) (a x : FVal) (c : ℕ) :
    g.choose op a x c = c ∨ g.inBound a x (fmtF32.decode (g.choose op a x c)) = true := by
  unfold Approx.choose
  split
  case h_1 c' _ =>
    split
    case isTrue near => exact .inr near
    case isFalse => exact .inl rfl
  case h_2 => exact .inl rfl
theorem Approx.eval_inBound (hz : ftz = false) : (g.eval f ftz op).1 = (f.round .rne false ftz 0 (g.value a).1).1 ∨
    g.inBound a (g.value a).1 (f.decode (g.eval f ftz op).1) = true := by
  by_cases hf : f = fmtF32
  · by_cases exact : (g.value a).2.2 = true
    · rw [Approx.eval_exact ha exact]
      exact .inl rfl
    · have chosen : (g.eval f ftz op).1 = g.choose op a (g.value a).1 (f.round .rne false ftz 0 (g.value a).1).1 := by
        unfold Approx.eval
        dsimp only
        rw [ha, if_neg exact, if_pos hf, hz, Bool.and_false]
        rfl
      rw [chosen, hf]
      exact Approx.choose_inBound g op a _ _
  · exact .inl (Approx.eval_narrow ha hf)
end

/-- The values that special operands give are delivered without a flag of the rounding. -/
def specialValues : List FVal := [.nan false, .inf false, .inf true, .fin false 0 0, .fin true 0 0, .fin false 1 0, .fin true 1 0]
theorem specialValues_unflagged (ty : FType) (ftz : Bool) : ∀ v ∈ specialValues, ((ftypeFmt ty).round .rne false ftz 0 v).2 = 0 := by
  cases ty <;> cases ftz <;> decide
theorem Approx.eval_special {g : Approx} {ty : FType} {ftz : Bool} {op : Word} {a v : FVal} {e : FFlags}
    (ha : (ftypeFmt ty).operand ftz (op.toNat % 2 ^ (ftypeFmt ty).size) = a) (hv : g.value a = (v, e, true)) (mem : v ∈ specialValues) :
    (g.eval (ftypeFmt ty) ftz op).1 = ((ftypeFmt ty).round .rne false ftz 0 v).1 ∧ (g.eval (ftypeFmt ty) ftz op).2 = e := by
  rw [Approx.eval_exact ha (by rw [hv]), hv]
  refine ⟨rfl, ?_⟩
  dsimp only
  rw [specialValues_unflagged ty ftz v mem]
  exact BitVec.or_zero
/-- An operand that is not special. -/
theorem Approx.eval_general {g : Approx} {ty : FType} {ftz : Bool} {op : Word} {a : FVal}
    (ha : (ftypeFmt ty).operand ftz (op.toNat % 2 ^ (ftypeFmt ty).size) = a) :
    let c := (g.eval (ftypeFmt ty) ftz op).1
    let r := (ftypeFmt ty).round .rne false ftz 0 (g.value a).1
    (ty ≠ .f32 ∨ (g.value a).2.2 = true → c = r.1) ∧
      (ftz = false → c = r.1 ∨ g.inBound a (g.value a).1 ((ftypeFmt ty).decode c) = true) := by
  refine ⟨fun plain => ?_, Approx.eval_inBound ha⟩
  rcases plain with narrow | exact
  · refine Approx.eval_narrow ha ?_
    cases ty with
    | f32 => exact absurd rfl narrow
    | f16 => decide
    | bf16 => decide
  · rw [Approx.eval_exact ha exact]

end Sys2Proof.Machine
end

section
/-! PROOFS. The reciprocal root (R179): it keeps more than 64 bits and a sticky one, and FRSQ delivers a number within one unit in the last
place of it. -/

namespace Sys2Proof.Machine

/-! The reciprocal root with its sticky bit. -/

theorem sqrt_zpow_two_mul (k : ℤ) : Real.sqrt (2 ^ (2 * k)) = 2 ^ k := by
  rw [mul_comm, zpow_mul]
  exact Real.sqrt_sq (by positivity)

/-- recipRoot works with a significand n and an even exponent 2 k. -/
theorem recipRoot_eq (sig : ℕ) (exp : ℤ) : ∃ (n : ℕ) (k : ℤ), recipRoot sig exp =
    .fin false (2 * isqrt (2 ^ 512 / n) + (if isqrt (2 ^ 512 / n) * isqrt (2 ^ 512 / n) * n = 2 ^ 512 then 0 else 1)) (-k - 256 - 1) ∧
      (sig * 2 ^ exp : ℝ) = n * 2 ^ (2 * k) ∧ sig ≤ n ∧ n ≤ 2 * sig := by
  rcases Int.emod_two_eq_zero_or_one exp with h | h
  · refine ⟨sig, exp / 2, by simp only [recipRoot, h, if_true], ?_, le_rfl, by omega⟩
    rw [Int.mul_ediv_cancel' (Int.dvd_of_emod_eq_zero h)]
  · refine ⟨2 * sig, (exp - 1) / 2, by simp only [recipRoot, h, one_ne_zero, if_false], ?_, by omega, le_rfl⟩
    rw [Int.mul_ediv_cancel' (by omega), zpow_sub_one₀ (by norm_num)]
    push_cast; ring

/-- The root of the quotient cut off is the reciprocal root cut off. -/
theorem isqrt_div_bounds (m n : ℕ) : (isqrt (m / n) : ℝ) ≤ Real.sqrt (m / n) ∧ Real.sqrt (m / n) < isqrt (m / n) + 1 := by
  rw [isqrt_eq_sqrt]
  constructor
  · refine Real.le_sqrt_of_sq_le ?_
    calc ((Nat.sqrt (m / n) : ℝ)) ^ 2 ≤ (m / n : ℕ) := by exact_mod_cast Nat.sqrt_le' (m / n)
      _ ≤ m / n := Nat.cast_div_le
  · rw [Real.sqrt_lt' (by positivity)]
    have next : m / n + 1 ≤ (Nat.sqrt (m / n) + 1) ^ 2 := Nat.lt_succ_sqrt' (m / n)
    calc (m / n : ℝ) < ((m / n : ℕ) : ℝ) + 1 := by
          rw [← Nat.floor_div_eq_div (K := ℝ)]
          exact Nat.lt_floor_add_one _
      _ ≤ (Nat.sqrt (m / n) + 1) ^ 2 := by exact_mod_cast next

theorem sticky_of_isqrt_div {m n : ℕ} (hn : 0 < n) (h : 2 ^ 126 * n ≤ m) :
    SigStands (2 * isqrt (m / n) + if isqrt (m / n) * isqrt (m / n) * n = m then 0 else 1) (2 * Real.sqrt (m / n)) ∧ 2 ^ 63 ≤ isqrt (m / n) := by
  have long : 2 ^ 63 ≤ isqrt (m / n) := by
    rw [isqrt_eq_sqrt, Nat.le_sqrt, Nat.le_div_iff_mul_le hn]
    exact h
  obtain ⟨le, lt⟩ := isqrt_div_bounds m n
  refine ⟨sticky_of_floor long le lt ?_, long⟩
  rw [← mul_self_inj (Nat.cast_nonneg _) (Real.sqrt_nonneg _), Real.mul_self_sqrt (by positivity), eq_div_iff (Nat.cast_ne_zero.mpr hn.ne')]
  norm_cast
theorem recipRoot_stands {sig : ℕ} (hs : sig ≠ 0) (small : sig < 2 ^ 24) (exp : ℤ) :
    ∃ (S : ℕ) (X : ℤ) (y : ℝ), recipRoot sig exp = .fin false S X ∧
    1 / Real.sqrt (sig * 2 ^ exp) = y * 2 ^ X ∧ SigStands S y ∧ 2 ^ 64 ≤ S := by
  obtain ⟨n, k, root, same, lower, upper⟩ := recipRoot_eq sig exp
  obtain ⟨stands, long⟩ := sticky_of_isqrt_div (m := 2 ^ 512) (show 0 < n by omega)
    (((Nat.mul_le_mul_left _ (show n ≤ 2 ^ 25 by omega)).trans_eq (pow_add 2 126 25).symm).trans (Nat.pow_le_pow_right two_pos (by omega)))
  refine ⟨_, _, _, root, ?value, stands, ?long⟩
  case long => exact le_add_right ((pow_succ' 2 63).trans_le (Nat.mul_le_mul_left 2 long))
  case value =>
    have big : Real.sqrt ((2 ^ 512 : ℕ) : ℝ) = 2 ^ 256 := by
      rw [Nat.cast_pow, Nat.cast_ofNat, show 512 = 256 * 2 by norm_num, pow_mul]
      exact Real.sqrt_sq (by positivity)
    have scale : (2 : ℝ) * 2 ^ 256 * 2 ^ (-k - 256 - 1) = (2 ^ k)⁻¹ := by
      rw [← pow_succ', ← zpow_natCast, ← zpow_add₀ (by norm_num), ← zpow_neg]
      congr 1
      push_cast; ring
    rw [same, Real.sqrt_mul (by positivity), sqrt_zpow_two_mul, Real.sqrt_div (by positivity), big, one_div, mul_inv, ← scale]
    ring

/-! Numbers within a number of units of one another. -/

/-- Adding a finite number to one that is not gives one that is not. -/
theorem FVal.isFin_of_add {a b : FVal} (mode : RMode) (hb : b.isFin = true) (h : (a.add mode b).1.isFin = true) : a.isFin = true := by
  obtain ⟨n, t, g, rfl⟩ := FVal.exists_fin hb
  cases a with
  | fin m s e => rfl
  | inf m => exact absurd h Bool.false_ne_true
  | nan s => exact absurd h Bool.false_ne_true
/-- `within` bounds the difference. -/
theorem within_spec {a b : FVal} {n : ℕ} {q : ℤ} (hb : b.isFin = true) (h : within a b n q = true) :
    a.isFin = true ∧ |a.real - b.real| ≤ n * 2 ^ q := by
  obtain ⟨negated, value⟩ := FVal.negate_fin hb
  unfold within at h
  have fin : (a.add .rne b.negate).1.isFin = true := by
    revert h
    cases (a.add .rne b.negate).1 <;> simp [FVal.isFin]
  have ha := FVal.isFin_of_add .rne negated fin
  obtain ⟨-, -, sum⟩ := FVal.add_fin ha negated .rne
  have difference : a.real - b.real = (a.add .rne b.negate).1.real := by
    unfold FVal.real
    rw [sum, value]
    push_cast; ring
  obtain ⟨m, s, e, shape⟩ := FVal.exists_fin fin
  rw [shape] at h
  refine ⟨ha, ?_⟩
  rw [difference, shape, FVal.real_fin, abs_mul, abs_signOf, one_mul, abs_of_nonneg (by positivity)]
  rw [Bool.not_eq_true', ← Bool.not_eq_true, magLt_iff, not_lt] at h
  exact h

/-- A whole number that is even lies as near to what an odd one stands for as to the odd one itself, in even steps. -/
theorem near_of_sticky {S : ℕ} (odd : S % 2 = 1) {y : ℝ} (near : |y - S| < 1) {v t : ℤ} (h : |((2 * v : ℤ) : ℝ) - S| ≤ (2 * t : ℤ)) :
    |((2 * v : ℤ) : ℝ) - y| ≤ (2 * t : ℤ) := by
  have whole : |2 * v - (S : ℤ)| ≤ 2 * t := by exact_mod_cast h
  have strict : |2 * v - (S : ℤ)| + 1 ≤ 2 * t := by
    rcases abs_cases (2 * v - (S : ℤ)) with ⟨e, _⟩ | ⟨e, _⟩ <;> omega
  have real : |((2 * v : ℤ) : ℝ) - S| + 1 ≤ (2 * t : ℤ) := by exact_mod_cast strict
  have := abs_sub_le ((2 * v : ℤ) : ℝ) S y
  rw [abs_sub_comm (S : ℝ) y] at this
  linarith

/-! The nearest value to a number within its binade. -/

theorem sticky_lt {S : ℕ} {y : ℝ} (stands : SigStands S y) : y < 2 ^ (log2 S + 1) := by
  have upper : S + 1 ≤ 2 ^ (log2 S + 1) := Nat.lt_log2_self
  have real : (S + 1 : ℝ) ≤ 2 ^ (log2 S + 1) := by exact_mod_cast upper
  rcases stands with rfl | ⟨-, -, near⟩
  · linarith
  · linarith [(abs_lt.mp near).2]
theorem intLog_eq {R : ℝ} {L : ℤ} (le : (2 : ℝ) ^ L ≤ R) (lt : R < 2 ^ (L + 1)) : Int.log 2 R = L := by
  have pos : 0 < R := lt_of_lt_of_le (by positivity) le
  have lower := (Int.zpow_le_iff_le_log one_lt_two pos).mp (by exact_mod_cast le)
  have upper := (Int.lt_zpow_iff_log_lt one_lt_two pos).mp (by exact_mod_cast lt)
  omega

section
variable {f : Fmt} (hf : f.Wide)
include hf

/-- A number below a power of two that the format reaches is rounded without overflow. -/
theorem Fmt.Wide.round_fits {mode : RMode} (hm : mode ≠ .sr) {neg : Bool} {sig : ℕ} {exp k : ℤ} (hs : sig ≠ 0)
    (below : (sig * 2 ^ exp : ℝ) < 2 ^ k) (hk : f.unitExp ≤ k) (hmax : (2 ^ k : ℝ) ≤ f.maxValue) (x : Word) :
    (f.round mode false false x (.fin neg sig exp)).2 &&& flOverflow = 0 := by
  have quantised := Fmt.quantise_le_max (f := f) (mode := mode) (sig := sig) (exp := exp) (fun h => hm h.1) neg x
  have digits : exp + (log2 sig : ℤ) < k := by
    have : (2 : ℝ) ^ ((log2 sig : ℤ) + exp) < 2 ^ k :=
      calc (2 : ℝ) ^ ((log2 sig : ℤ) + exp) = 2 ^ log2 sig * 2 ^ exp := by rw [zpow_add₀ (by norm_num), zpow_natCast]
        _ ≤ sig * 2 ^ exp := mul_le_mul_of_nonneg_right (by exact_mod_cast Nat.log2_self_le hs) (by positivity)
        _ < 2 ^ k := below
    have := (zpow_lt_zpow_iff_right₀ (by norm_num)).mp this
    omega
  have coarse : f.quantum sig exp ≤ k := max_le (by omega) hk
  obtain ⟨d, hd⟩ : ∃ d : ℕ, k - f.quantum sig exp = d := ⟨(k - f.quantum sig exp).toNat, by omega⟩
  have units : sig * (2 : ℝ) ^ (exp - f.quantum sig exp) < (2 ^ d : ℕ) := by
    rw [zpow_sub₀ (by norm_num), ← mul_div_assoc, div_lt_iff₀ (by positivity), Nat.cast_pow, Nat.cast_ofNat, ← zpow_natCast,
      ← zpow_add₀ (by norm_num), ← hd, sub_add_cancel]
    exact below
  have rounded := (roundAt_roundsTo mode neg sig exp (f.quantum sig exp) x).le units
  have fits : ¬ magLt f.maxFin.1 f.maxFin.2 (roundAt mode neg sig exp (f.quantum sig exp) x).1 (f.quantum sig exp) = true := by
    rw [magLt_iff, not_lt]
    calc ((roundAt mode neg sig exp (f.quantum sig exp) x).1 * 2 ^ f.quantum sig exp : ℝ) ≤ (2 ^ d : ℕ) * 2 ^ f.quantum sig exp :=
          mul_le_mul_of_nonneg_right (by exact_mod_cast rounded) (by positivity)
      _ = 2 ^ k := by rw [Nat.cast_pow, Nat.cast_ofNat, ← zpow_natCast, ← zpow_add₀ (by norm_num), ← hd, sub_add_cancel]
      _ ≤ f.maxValue := hmax
  simp only [Fmt.round, hs, quantised, hf.sgn, fits, Bool.not_true, Bool.and_false, Bool.false_eq_true, if_false]
  split_ifs <;> simp [flUnderflow, flInexact, flOverflow]

variable {R : ℝ} {L : ℤ} (lower : (2 : ℝ) ^ L ≤ R) (upper : R < 2 ^ (L + 1)) (normal : f.unitExp ≤ L - f.frac)
  (hmax : (2 ^ (L + 1) : ℝ) ≤ f.maxValue)
include lower upper normal hmax

/-- A normal number has a value of the format next below it, itself where it is a power of two. -/
theorem Fmt.Wide.exists_code_below : ∃ c, (c < 2 ^ f.size ∧ (f.decode c).isFin = true) ∧ |(f.decode c).real - R| ≤ 2 ^ (L - f.frac) ∧
    (R = 2 ^ L → (f.decode c).real = R) := by
  have unit : (0 : ℝ) < 2 ^ (L - f.frac) := by positivity
  have power : (2 : ℝ) ^ L = (2 ^ f.frac : ℕ) * 2 ^ (L - f.frac) := by
    rw [Nat.cast_pow, Nat.cast_ofNat, ← zpow_natCast, ← zpow_add₀ (by norm_num), add_sub_cancel]
  have next : (2 : ℝ) ^ (L + 1) = (2 ^ (f.frac + 1) : ℕ) * 2 ^ (L - f.frac) := by
    rw [zpow_add_one₀ (by norm_num), power, pow_succ]
    push_cast; ring
  obtain ⟨z, rfl⟩ : ∃ z, R = z * 2 ^ (L - f.frac) := ⟨R / 2 ^ (L - f.frac), (div_mul_cancel₀ R unit.ne').symm⟩
  have least : ((2 ^ f.frac : ℕ) : ℝ) ≤ z := le_of_mul_le_mul_right (power ▸ lower) unit
  have most : z < (2 ^ (f.frac + 1) : ℕ) := lt_of_mul_lt_mul_right (next ▸ upper) unit.le
  have pos : 0 ≤ z := (Nat.cast_nonneg _).trans least
  have floor := Nat.floor_le pos
  have whole : 2 ^ f.frac ≤ ⌊z⌋₊ := Nat.le_floor least
  have n0 : ⌊z⌋₊ ≠ 0 := (lt_of_lt_of_le (by positivity) whole).ne'
  have small : ⌊z⌋₊ < 2 ^ (f.frac + 1) := (Nat.floor_lt pos).mpr most
  have within : (⌊z⌋₊ * 2 ^ (L - f.frac) : ℝ) ≤ f.maxValue :=
    (mul_le_mul_of_nonneg_right floor unit.le).trans (upper.le.trans hmax)
  obtain ⟨lt, fin, value, -⟩ := hf.pack_codes false n0 small.le within normal
  rw [signOf_false, one_mul] at value
  refine ⟨_, ⟨lt, fin⟩, ?_, fun same => ?_⟩
  · rw [value, ← sub_mul, abs_mul, abs_of_pos unit, abs_sub_comm, abs_of_nonneg (by linarith)]
    exact mul_le_of_le_one_left unit.le (by linarith [Nat.lt_floor_add_one z])
  · rw [power, mul_left_inj' unit.ne'] at same
    rw [value, same, Nat.floor_natCast]
/-- So the nearest value lies within one unit in the last place, and is the number where that is a power of two. -/
theorem Fmt.Wide.nearest_within {c : ℕ} (rounded : RoundedTo f .rne R c) :
    |(f.decode c).real - R| ≤ 2 ^ (L - f.frac) ∧ (R = 2 ^ L → (f.decode c).real = R) := by
  obtain ⟨u, finite, near, power⟩ := hf.exists_code_below lower upper normal hmax
  obtain ⟨-, nearest, -⟩ := rounded
  have closer : |(f.decode c).real - R| ≤ |(f.decode u).real - R| := nearest u finite
  refine ⟨closer.trans near, fun same => ?_⟩
  rw [power same, sub_self, abs_zero] at closer
  exact sub_eq_zero.mp (abs_nonpos_iff.mp closer)

omit lower upper normal hmax in
/-- A value of the format as great as a power of two is a multiple of that power's last place. -/
theorem Fmt.Wide.exists_multiple {c : ℕ} (fin : (f.decode c).isFin = true) {k : ℤ} (h : (2 : ℝ) ^ k ≤ |(f.decode c).real|) :
    ∃ v : ℤ, (f.decode c).real = v * 2 ^ (k - f.frac) := by
  obtain ⟨m, j, magnitude, digits, -, -⟩ := hf.finite_magnitude fin
  have coarse : k - f.frac ≤ j := by
    have : (2 : ℝ) ^ k < 2 ^ ((f.frac + 1 : ℕ) + j) :=
      calc (2 : ℝ) ^ k ≤ m * 2 ^ j := h.trans_eq magnitude
        _ < 2 ^ (f.frac + 1) * 2 ^ j := mul_lt_mul_of_pos_right (by exact_mod_cast digits) (by positivity)
        _ = 2 ^ ((f.frac + 1 : ℕ) + j) := by rw [zpow_add₀ (by norm_num), zpow_natCast]
    have := (zpow_lt_zpow_iff_right₀ (by norm_num)).mp this
    omega
  have split : (m * 2 ^ j : ℝ) = ((m * 2 ^ (j - (k - f.frac)).toNat : ℕ) : ℤ) * 2 ^ (k - f.frac) := by
    rw [Int.cast_natCast, Nat.cast_mul, Nat.cast_pow, Nat.cast_ofNat, mul_assoc, zpow_mul_pow_toNat coarse]
  rcases abs_choice (f.decode c).real with sign | sign
  · exact ⟨_, by rw [← sign, magnitude, split]⟩
  · refine ⟨-((m * 2 ^ (j - (k - f.frac)).toNat : ℕ) : ℤ), ?_⟩
    rw [Int.cast_neg, neg_mul, ← split, ← magnitude, sign, neg_neg]
omit lower upper normal hmax in
/-- A value within one unit in the last place of a number with a sticky bit lies within it of what that number stands for. -/
theorem Fmt.Wide.within_stands {c : ℕ} (fin : (f.decode c).isFin = true) {S : ℕ} {X : ℤ} {y : ℝ} (stands : SigStands S y)
    (long : 2 ^ 64 ≤ S) (h : |(f.decode c).real - S * 2 ^ X| ≤ 2 ^ (X + log2 S - f.frac)) :
    |(f.decode c).real - y * 2 ^ X| ≤ 2 ^ (X + log2 S - f.frac) := by
  rcases stands with rfl | ⟨odd, -, near⟩
  · exact h
  have narrow := hf.frac
  have S0 : S ≠ 0 := by omega
  have digits : 64 ≤ log2 S := (Nat.le_log2 S0).mpr long
  obtain ⟨d, hd⟩ : ∃ d : ℕ, log2 S = d + f.frac + 2 := ⟨log2 S - f.frac - 2, by omega⟩
  have unit : (0 : ℝ) < 2 ^ X := by positivity
  have place : (2 : ℝ) ^ (X + log2 S - f.frac) = (2 * 2 ^ (d + 1) : ℤ) * 2 ^ X := by
    rw [hd, show X + ((d + f.frac + 2 : ℕ) : ℤ) - f.frac = ((d + 1 + 1 : ℕ) : ℤ) + X by push_cast; ring, zpow_add₀ (by norm_num), zpow_natCast,
      pow_succ]
    push_cast; ring
  have great : (2 : ℝ) ^ (X + log2 S) ≤ S * 2 ^ X := by
    rw [add_comm, zpow_add₀ (by norm_num), zpow_natCast]
    exact mul_le_mul_of_nonneg_right (by exact_mod_cast Nat.log2_self_le S0) unit.le
  have half : (2 : ℝ) ^ (X + log2 S - 1) ≤ |(f.decode c).real| := by
    have finer : (2 : ℝ) ^ (X + log2 S - f.frac) ≤ 2 ^ (X + log2 S - 1) := zpow_le_zpow_right₀ (by norm_num) (by omega)
    have twice : (2 : ℝ) ^ (X + log2 S) = 2 ^ (X + log2 S - 1) * 2 := by rw [← zpow_add_one₀ (by norm_num), sub_add_cancel]
    have := (abs_le.mp h).1
    exact le_trans (by linarith) (le_abs_self _)
  obtain ⟨v, hv⟩ := hf.exists_multiple fin half
  have even : (f.decode c).real = ((2 * (v * 2 ^ d) : ℤ) : ℝ) * 2 ^ X := by
    rw [hv, hd, show X + ((d + f.frac + 2 : ℕ) : ℤ) - 1 - f.frac = ((d + 1 : ℕ) : ℤ) + X by push_cast; ring, zpow_add₀ (by norm_num),
      zpow_natCast, pow_succ]
    push_cast; ring
  rw [even, place, ← sub_mul, abs_mul, abs_of_pos unit] at h ⊢
  exact mul_le_mul_of_nonneg_right (near_of_sticky odd near (le_of_mul_le_mul_right h unit)) unit.le
end

/-! FRSQ of a positive normal operand (R179). -/

/-- The fields of a positive normal FP32 code. -/
theorem fmtF32_normal {c : ℕ} (low : 0x00800000 ≤ c) (high : c < 0x7F800000) : ∃ sig exp, fmtF32.decode c = .fin false sig exp ∧
    2 ^ 23 ≤ sig ∧ sig < 2 ^ 24 ∧ -149 ≤ exp ∧ exp ≤ 104 := by
  have decoded : fmtF32.decode (0 + c) = fmtF32.finite false (c / 2 ^ 23) (c % 2 ^ 23) :=
    (ftypeFmt_wide .f32).decode_signed false (show c < 2 ^ 31 by omega) (show c / 2 ^ 23 ≠ 2 ^ 8 - 1 by omega)
  have normal : fmtF32.finite false (c / 2 ^ 23) (c % 2 ^ 23) = .fin false (2 ^ 23 + c % 2 ^ 23) ((c / 2 ^ 23 : ℕ) - 127 - 23) :=
    if_neg (by omega)
  rw [zero_add, normal] at decoded
  exact ⟨_, _, decoded, by omega, by omega, by omega, by omega⟩

/-- The reciprocal root of a normal FP32 number lies in these binades. -/
theorem rsqrt_range {sig : ℕ} {exp : ℤ} (lower : 2 ^ 23 ≤ sig) (upper : sig < 2 ^ 24) (least : -149 ≤ exp) (most : exp ≤ 104) :
    (2 : ℝ) ^ (-64 : ℤ) < 1 / Real.sqrt (sig * 2 ^ exp) ∧ 1 / Real.sqrt (sig * 2 ^ exp) ≤ 2 ^ (63 : ℤ) := by
  have small : (2 : ℝ) ^ (-126 : ℤ) ≤ sig * 2 ^ exp :=
    calc (2 : ℝ) ^ (-126 : ℤ) = (2 ^ 23 : ℕ) * 2 ^ (-149 : ℤ) := by
          rw [Nat.cast_pow, Nat.cast_ofNat, ← zpow_natCast, ← zpow_add₀ (by norm_num)]; norm_num
      _ ≤ sig * 2 ^ exp := mul_le_mul (by exact_mod_cast lower) (zpow_le_zpow_right₀ (by norm_num) least) (by positivity) (by positivity)
  have great : (sig * 2 ^ exp : ℝ) < 2 ^ (128 : ℤ) :=
    calc (sig * 2 ^ exp : ℝ) < (2 ^ 24 : ℕ) * 2 ^ exp := mul_lt_mul_of_pos_right (by exact_mod_cast upper) (by positivity)
      _ ≤ (2 ^ 24 : ℕ) * 2 ^ (104 : ℤ) := mul_le_mul_of_nonneg_left (zpow_le_zpow_right₀ (by norm_num) most) (by positivity)
      _ = 2 ^ (128 : ℤ) := by rw [Nat.cast_pow, Nat.cast_ofNat, ← zpow_natCast, ← zpow_add₀ (by norm_num)]; norm_num
  have root_pos : 0 < Real.sqrt (sig * 2 ^ exp) := Real.sqrt_pos.mpr (lt_of_lt_of_le (by positivity) small)
  have square : ∀ k : ℤ, ((2 : ℝ) ^ k) ^ 2 = 2 ^ (2 * k) := fun k => by rw [← zpow_natCast, ← zpow_mul, mul_comm]; norm_cast
  constructor
  · rw [lt_one_div (by positivity) root_pos, one_div, ← zpow_neg, Real.sqrt_lt' (by positivity), square]
    exact great
  · rw [one_div_le root_pos (by positivity), one_div, ← zpow_neg]
    exact Real.le_sqrt_of_sq_le (square _ ▸ small)

/-- A power of two is its own leading digit. -/
theorem powerOfTwo_of_eq {sig : ℕ} {exp k : ℤ} (hs : sig ≠ 0) (h : (sig * 2 ^ exp : ℝ) = 2 ^ k) :
    powerOfTwo sig = true ∧ exp + (log2 sig : ℤ) = k := by
  have unit : (0 : ℝ) < 2 ^ exp := by positivity
  have value : (sig : ℝ) = 2 ^ (k - exp) := by rw [zpow_sub₀ (by norm_num), eq_div_iff unit.ne', h]
  have one : (2 : ℝ) ^ (0 : ℤ) ≤ 2 ^ (k - exp) := by
    rw [← value, zpow_zero]
    exact_mod_cast Nat.one_le_iff_ne_zero.mpr hs
  have nonneg := (zpow_le_zpow_iff_right₀ (by norm_num : (1 : ℝ) < 2)).mp one
  obtain ⟨n, hn⟩ : ∃ n : ℕ, k - exp = n := ⟨(k - exp).toNat, by omega⟩
  have nat : sig = 2 ^ n := by
    rw [hn, zpow_natCast] at value
    exact_mod_cast value
  have digits : log2 sig = n := by rw [nat]; exact Nat.log2_two_pow
  refine ⟨?_, by omega⟩
  unfold powerOfTwo
  rw [digits, ← nat]
  simp [hs]

/-- The operand of a lane that has no flushing. -/
theorem Fmt.operand_unflushed (f : Fmt) (c : ℕ) : f.operand false c = f.decode c := by
  unfold Fmt.operand Fmt.flushIn
  cases f.decode c <;> rfl
theorem rsq_value {sig : ℕ} (hs : sig ≠ 0) (exp : ℤ) : Approx.value .rsq (.fin false sig exp) =
    (recipRoot sig exp, 0, powerOfTwo sig && decide ((exp + (log2 sig : ℤ)) % 2 = 0)) := by
  simp [Approx.value, hs]

section
variable {R : ℝ} {S : ℕ} {X : ℤ} {y : ℝ} (value : R = y * 2 ^ X) (stands : SigStands S y) (long : 2 ^ 64 ≤ S)
include value stands long

/-- The binade of what a number with a sticky bit stands for. -/
theorem sticky_binade : (2 : ℝ) ^ (X + log2 S) ≤ R ∧ R < 2 ^ (X + log2 S + 1) := by
  have unit : (0 : ℝ) < 2 ^ X := by positivity
  have split : ∀ n : ℕ, (2 : ℝ) ^ (X + n) = 2 ^ n * 2 ^ X := fun n => by rw [add_comm, zpow_add₀ (by norm_num), zpow_natCast]
  have next : X + (log2 S : ℤ) + 1 = X + ((log2 S + 1 : ℕ) : ℤ) := by push_cast; ring
  rw [next, split, split, value]
  exact ⟨mul_le_mul_of_nonneg_right (sticky_le stands (by omega)) unit.le, mul_lt_mul_of_pos_right (sticky_lt stands) unit⟩

variable (low : -64 ≤ X + log2 S) (high : X + log2 S ≤ 63)
include low high

/-- The FP32 code nearest to it lies within one unit in the last place, and is it where it is a power of two. -/
theorem fmtF32_nearest : |(fmtF32.decode (fmtF32.round .rne false false 0 (.fin false S X)).1).real - R| ≤ 2 ^ (X + log2 S - 23) ∧
    (R = 2 ^ (X + log2 S) → (fmtF32.decode (fmtF32.round .rne false false 0 (.fin false S X)).1).real = R) := by
  have hf : fmtF32.Wide := ftypeFmt_wide .f32
  obtain ⟨lower, upper⟩ := sticky_binade value stands long
  obtain ⟨lower', upper'⟩ := sticky_binade (R := S * 2 ^ X) rfl (Or.inl rfl) long
  have reach : (2 : ℝ) ^ (X + log2 S + 1) ≤ fmtF32.maxValue := by
    have max : fmtF32.maxFin = (2 ^ 24 - 1, 104) := by decide
    rw [Fmt.maxValue, max]
    calc (2 : ℝ) ^ (X + log2 S + 1) ≤ 2 ^ (104 : ℤ) := zpow_le_zpow_right₀ (by norm_num) (by omega)
      _ ≤ (2 ^ 24 - 1 : ℕ) * 2 ^ (104 : ℤ) := le_mul_of_one_le_left (by positivity) (by norm_num)
  have units : fmtF32.unitExp = -149 := by decide
  have number : (FVal.fin false S X).Stands R := ⟨false, S, X, y, rfl, by rw [value, signOf_false, one_mul], stands⟩
  have fits := hf.round_fits (mode := .rne) (neg := false) nofun (by omega) upper' (by rw [units]; omega) reach 0
  exact hf.nearest_within lower upper (by rw [units]; show _ ≤ X + (log2 S : ℤ) - 23; omega) reach (hf.round_correct .rne 0 number fits).1
end

/-- The reciprocal root of a normal FP32 number, and its binade. -/
theorem recipRoot_binade {sig : ℕ} {exp : ℤ} (lower : 2 ^ 23 ≤ sig) (upper : sig < 2 ^ 24) (least : -149 ≤ exp) (most : exp ≤ 104) :
    ∃ (S : ℕ) (X : ℤ) (y : ℝ), recipRoot sig exp = .fin false S X ∧ 1 / Real.sqrt (sig * 2 ^ exp) = y * 2 ^ X ∧ SigStands S y ∧ 2 ^ 64 ≤ S ∧
      -64 ≤ X + (log2 S : ℤ) ∧ X + (log2 S : ℤ) ≤ 63 := by
  obtain ⟨S, X, y, root, value, stands, long⟩ := recipRoot_stands (show sig ≠ 0 by omega) upper exp
  obtain ⟨above, below⟩ := rsqrt_range lower upper least most
  obtain ⟨le, lt⟩ := sticky_binade value stands long
  have low := (zpow_lt_zpow_iff_right₀ (by norm_num : (1 : ℝ) < 2)).mp (above.trans lt)
  have high := (zpow_le_zpow_iff_right₀ (by norm_num : (1 : ℝ) < 2)).mp (le.trans below)
  exact ⟨S, X, y, root, value, stands, long, by omega, high⟩

section
variable {op : Word} {sig : ℕ} {exp : ℤ} (operand : fmtF32.operand false (op.toNat % 2 ^ fmtF32.size) = .fin false sig exp) (hs : sig ≠ 0)
  {S : ℕ} {X : ℤ} (root : recipRoot sig exp = .fin false S X)
include operand hs root

/-- FRSQ delivers the rounded reciprocal root or a number within one unit in the last place of it, as it stands with its sticky bit. -/
theorem rsq_rounded_or_within (low : -64 ≤ X + (log2 S : ℤ)) :
    (Approx.eval .rsq fmtF32 false op).1 = (fmtF32.round .rne false false 0 (.fin false S X)).1 ∨
      within (fmtF32.decode (Approx.eval .rsq fmtF32 false op).1) (.fin false S X) 1 (X + log2 S - 23) = true := by
  have number := rsq_value hs exp
  have unit : max (X + (log2 S : ℤ) - 23) (-149) = X + log2 S - 23 := max_eq_left (by omega)
  have delivered := Approx.eval_inBound (g := .rsq) operand rfl
  rw [number, root] at delivered
  rw [← unit]
  exact delivered
/-- For a power of four it is the rounded one. -/
theorem rsq_rounded (two : powerOfTwo sig = true) (even : (exp + (log2 sig : ℤ)) % 2 = 0) :
    (Approx.eval .rsq fmtF32 false op).1 = (fmtF32.round .rne false false 0 (.fin false S X)).1 := by
  have number := rsq_value hs exp
  rw [root, two, even] at number
  rw [Approx.eval_exact operand (by rw [number]; rfl), number]
end

/-- FRSQ of a positive normal operand lies within one unit in the last place of the reciprocal root, and is it for a power of four (R179). -/
theorem rsq_within (op : Word) (low : 0x00800000 ≤ op.toNat) (high : op.toNat < 0x7F800000) :
    let a := (fmtF32.decode op.toNat).real
    let v := (fmtF32.decode (Approx.eval .rsq fmtF32 false op).1).real
    let r := 1 / Real.sqrt a
    |v - r| ≤ (2 : ℝ) ^ (Int.log 2 r - 23) ∧ ((∃ j : ℤ, a = (4 : ℝ) ^ j) → v = r) := by
  obtain ⟨sig, exp, decoded, lower, upper, least, most⟩ := fmtF32_normal low high
  have hs : sig ≠ 0 := by omega
  have operand : fmtF32.operand false (op.toNat % 2 ^ fmtF32.size) = .fin false sig exp := by
    rw [Fmt.operand_unflushed, show op.toNat % 2 ^ fmtF32.size = op.toNat from Nat.mod_eq_of_lt op.isLt, decoded]
  obtain ⟨S, X, y, root, value, stands, long, L0, L1⟩ := recipRoot_binade lower upper least most
  obtain ⟨le, lt⟩ := sticky_binade value stands long
  obtain ⟨near, power⟩ := fmtF32_nearest value stands long L0 L1
  dsimp only
  rw [decoded, FVal.real_fin, signOf_false, one_mul]
  refine ⟨?within, fun ⟨j, hj⟩ => ?exact⟩
  case within =>
    rw [intLog_eq le lt]
    rcases rsq_rounded_or_within operand hs root L0 with rounded | bound
    · rw [rounded]
      exact near
    · obtain ⟨fin, close⟩ := within_spec rfl bound
      rw [Nat.cast_one, one_mul, FVal.real_fin, signOf_false, one_mul] at close
      rw [value]
      exact (ftypeFmt_wide .f32).within_stands fin stands long close
  case exact =>
    have square : (sig * 2 ^ exp : ℝ) = 2 ^ (2 * j) := by rw [hj, zpow_mul]; norm_num
    obtain ⟨two, digits⟩ := powerOfTwo_of_eq hs square
    have inverse : 1 / Real.sqrt (sig * 2 ^ exp) = 2 ^ (-j) := by rw [square, sqrt_zpow_two_mul, one_div, zpow_neg]
    have binade : -j = X + log2 S := by
      have lower := (zpow_le_zpow_iff_right₀ (by norm_num : (1 : ℝ) < 2)).mp (le.trans_eq inverse)
      have upper := (zpow_lt_zpow_iff_right₀ (by norm_num : (1 : ℝ) < 2)).mp (inverse.symm.trans_lt lt)
      omega
    rw [rsq_rounded operand hs root two (by omega)]
    exact power (binade ▸ inverse)

/-- Settles O18: a special operand is Approx.eval_special, any other Approx.eval_general; FRSQ's bound is rsq_within. -/
theorem approximateFunctionResults : Obligations.ApproximateFunctionResults := by
  unfold Obligations.ApproximateFunctionResults
  refine ⟨fun p hp s h m hi => ?_, rsq_within⟩
  have form : exec (p.1 h m) s = floatApprox h m p.2 s := by
    simp only [List.mem_cons, List.not_mem_nil, or_false] at hp
    rcases hp with rfl | rfl | rfl | rfl | rfl | rfl <;> rfl
  obtain ⟨t, run, effect⟩ := floatApprox_effect h hi m p.2
  rw [← form] at run
  refine ⟨t, _, _, run, effect, fun l _ => ?_⟩
  have ha : (ftypeFmt m.ty).operand m.ftz ((s.readReg l .sa h.sa).toNat % 2 ^ (ftypeFmt m.ty).size) = s.readFloat l .sa h.sa (ftypeFmt m.ty) m.ftz := rfl
  dsimp only
  generalize s.readFloat l .sa h.sa (ftypeFmt m.ty) m.ftz = a at ha ⊢
  generalize p.2 = g
  cases a with
  | nan sig => exact Approx.eval_special ha rfl (by decide)
  | inf n => cases g <;> cases n <;> exact Approx.eval_special ha rfl (by decide)
  | fin n sig exp =>
    cases sig with
    | zero => cases g <;> cases n <;> exact Approx.eval_special ha rfl (by decide)
    | succ k =>
      cases g with
      | rsq => cases n with
        | true => exact Approx.eval_special ha rfl (by decide)
        | false => exact Approx.eval_general ha
      | log2 => cases n with
        | true => exact Approx.eval_special ha rfl (by decide)
        | false => exact Approx.eval_general ha
      | _ => cases n <;> exact Approx.eval_general ha

end Sys2Proof.Machine
end

section
/-! PROOFS. What an atomic leaves in an n-bit word (R220): the order that its least and greatest take, and each operation's value. -/

namespace Sys2Proof.Machine

/-- The integer that an n-bit word stands for, in two's complement where it is signed (R220). -/
def wordValue (sgn : Bool) (n x : Nat) : Int := if sgn = true ∧ 2 ^ (n - 1) ≤ x then (x : Int) - 2 ^ n else (x : Int)

section
variable {n old b : Nat} {sgn : Bool} (c : Nat) (hn : 0 < n) (hold : old < 2 ^ n) (hb : b < 2 ^ n)
include hn

theorem toSigned_eq_wordValue {x : Nat} (hx : x < 2 ^ n) : (if sgn then toSigned n x else (x : Int)) = wordValue sgn n x := by
  unfold toSigned wordValue
  rw [Nat.mod_eq_of_lt hx]
  cases sgn
  · simp
  · by_cases below : x < 2 ^ (n - 1)
    · simp [hn.ne', below, Nat.not_le.mpr below]
    · simp [hn.ne', below, Nat.not_lt.mp below]

include hold hb

theorem atomicOp_min : atomicOp .min sgn false n old b c = if wordValue sgn n old ≤ wordValue sgn n b then old else b := by
  rw [← toSigned_eq_wordValue hn hold, ← toSigned_eq_wordValue hn hb]
  rfl
theorem atomicOp_max : atomicOp .max sgn false n old b c = if wordValue sgn n old ≤ wordValue sgn n b then b else old := by
  rw [← toSigned_eq_wordValue hn hold, ← toSigned_eq_wordValue hn hb]
  rfl
/-- The least is one of the two words, and neither of them is less. -/
theorem atomicOp_min_least (m : Nat) (hm : atomicOp .min sgn false n old b c = m) :
    (m = old ∨ m = b) ∧ wordValue sgn n m ≤ wordValue sgn n old ∧ wordValue sgn n m ≤ wordValue sgn n b := by
  rw [atomicOp_min c hn hold hb] at hm
  split at hm <;> subst hm
  · exact ⟨.inl rfl, le_rfl, by assumption⟩
  · exact ⟨.inr rfl, by omega, le_rfl⟩
/-- The greatest is one of the two words, and neither of them is greater. -/
theorem atomicOp_max_greatest (m : Nat) (hm : atomicOp .max sgn false n old b c = m) :
    (m = old ∨ m = b) ∧ wordValue sgn n old ≤ wordValue sgn n m ∧ wordValue sgn n b ≤ wordValue sgn n m := by
  rw [atomicOp_max c hn hold hb] at hm
  split at hm <;> subst hm
  · exact ⟨.inr rfl, by assumption, le_rfl⟩
  · exact ⟨.inl rfl, le_rfl, by omega⟩
end

theorem atomicOp_incw (sgn : Bool) (n old b c : Nat) : atomicOp .incw sgn false n old b c = if b ≤ old then 0 else old + 1 := rfl
theorem atomicOp_decw (sgn : Bool) (n old b c : Nat) : atomicOp .decw sgn false n old b c = if old = 0 ∨ b < old then b else old - 1 := rfl
theorem atomicOp_cas (op : Aop) (sgn : Bool) (n old b c : Nat) : atomicOp op sgn true n old b c = if old = b then c else old := rfl

/-- Settles O39: the least and the greatest by atomicOp_min_least and atomicOp_max_greatest, the others by their equations. -/
theorem atomicOperationValues : Obligations.AtomicOperationValues := by
  unfold Obligations.AtomicOperationValues
  intro n old b c sgn hn hold hb _
  obtain ⟨lesser, lower, lower'⟩ := atomicOp_min_least (sgn := sgn) c hn hold hb _ rfl
  obtain ⟨greater, upper, upper'⟩ := atomicOp_max_greatest (sgn := sgn) c hn hold hb _ rfl
  refine ⟨rfl, lesser, lower, lower', greater, upper, upper', fun i _ => ?bits, rfl, fun h => ?_, fun h => ?_, fun h => ?_, fun h h' => ?_, fun a => ?cas⟩
  case bits => exact ⟨Nat.testBit_and old b i, Nat.testBit_or old b i, Nat.testBit_xor old b i⟩
  case cas => exact ⟨fun h => (atomicOp_cas ..).trans (if_pos h), fun h => (atomicOp_cas ..).trans (if_neg h)⟩
  · exact (atomicOp_incw ..).trans (if_pos h)
  · exact (atomicOp_incw ..).trans (if_neg (by omega))
  · exact (atomicOp_decw ..).trans (if_pos h)
  · dsimp only
    rw [atomicOp_decw, if_neg (by omega)]
    omega

end Sys2Proof.Machine
end

section
/-! PROOFS. The checks of a global access (R193, R195, R199, R353, R360): what each of them refuses, and that LD, ST and the atomics take the
trap that theirs name. -/

namespace Sys2Proof.Machine

open Host (Outcome)

/-! The orders (R120). -/

theorem Ord.releases_iff (o : Ord) : o.releases = true ↔ o = .rel ∨ o = .ar := by cases o <;> decide
theorem Ord.acquires_iff (o : Ord) : o.acquires = true ↔ o = .acq ∨ o = .ar := by cases o <;> decide

/-! The checks in their order (R193). -/

section
variable {s : State} {t : Team} {f : Fibre} {lv n : Nat} {va : Dword} {ks : List Acc}

theorem Team.point_undeclared (h : t.levels[lv]? = none) : t.point lv = .error (Cause.scopeUndecl, BitVec.ofNat 64 lv) := by
  rw [Team.point, h]
theorem Team.point_declared {pt : Point} (h : (t.levels[lv]?).map Lvl.pt = some pt) : t.point lv = .ok pt := by
  obtain ⟨x, hx, rfl⟩ := Option.map_eq_some_iff.mp h
  rw [Team.point, hx]
theorem formChecks_undeclared (h : t.levels[lv]? = none) : formChecks t lv va n = .error (Cause.scopeUndecl, BitVec.ofNat 64 lv) := by
  rw [formChecks, Team.point_undeclared h]
theorem formChecks_high {pt : Point} (h : t.point lv = .ok pt) (hv : 2 ^ 56 ≤ va.toNat) : formChecks t lv va n = .error (Cause.addrHigh, va) := by
  rw [formChecks, h]
  exact if_pos ((addrHighBad_iff va).mpr hv)
theorem formChecks_misaligned {pt : Point} (h : t.point lv = .ok pt) (hv : va.toNat < 2 ^ 56) (hn : va.toNat % n ≠ 0) :
    formChecks t lv va n = .error (Cause.misaligned, va) := by
  rw [formChecks, h]
  exact (if_neg (not_addrHighBad hv)).trans (if_pos hn)
theorem formChecks_ok {pt : Point} (h : t.point lv = .ok pt) (hv : va.toNat < 2 ^ 56) (hn : va.toNat % n = 0) : formChecks t lv va n = .ok pt := by
  rw [formChecks, h]
  exact (if_neg (not_addrHighBad hv)).trans (if_neg (not_not.mpr hn))

/-- What a check of a kind of access refuses: its cause, with the address. -/
def refusal (check : Acc → Except Cause.Code Nat) (va : Dword) (k : Acc) : Option (Cause.Code × Dword) :=
  match check k with
  | .error c => some (c, va)
  | .ok _ => none
/-- The first kind of a list that a check refuses. -/
theorem findSome?_refused {check : Acc → Except Cause.Code Nat} {before after : List Acc} {k : Acc} {c : Cause.Code}
    (hb : ∀ j ∈ before, ∃ ia, check j = .ok ia) (hk : check k = .error c) : (before ++ k :: after).findSome? (refusal check va) = some (c, va) := by
  have passed : before.findSome? (refusal check va) = none := by
    rw [List.findSome?_eq_none_iff]
    intro j hj
    obtain ⟨ia, hia⟩ := hb j hj
    rw [refusal, hia]
  rw [List.findSome?_append, passed, List.findSome?_cons, refusal, hk]
  rfl
theorem findSome?_passed {check : Acc → Except Cause.Code Nat} (h : ∀ k ∈ ks, ∃ ia, check k = .ok ia) : ks.findSome? (refusal check va) = none := by
  rw [List.findSome?_eq_none_iff]
  intro k hk
  obtain ⟨ia, hia⟩ := h k hk
  rw [refusal, hia]

theorem State.rangeCheck_of_preciseCheck {part : Nat} {level : Level} {k : Acc} {a ia : Nat} (h : s.preciseCheck part level k a = .ok ia) :
    s.rangeCheck part level k a = .ok ia := by
  unfold State.preciseCheck at h
  split at h
  · cases h
  · rename_i ja hr
    rw [hr]
    split at h <;> cases h <;> rfl

/-- The ranges first, then the pages, then the watched word (R193, R334). -/
theorem State.kindChecks_eq : s.kindChecks t f ks va n =
    match ks.findSome? (refusal (s.rangeCheck t.partKey f.level · va.toNat) va), ks.findSome? (refusal (s.preciseCheck t.partKey f.level · va.toNat) va),
      s.rangeCheck t.partKey f.level (ks.headD .read) va.toNat with
    | some c, _, _ => .error c
    | none, some c, _ => .error c
    | none, none, .error c => .error (c, va)
    | none, none, .ok ia => if t.watched f ks va.toNat n then .error (Cause.watch, va) else .ok ia := rfl
theorem State.kindChecks_range {before after : List Acc} {k : Acc} {c : Cause.Code} (hks : ks = before ++ k :: after)
    (hb : ∀ j ∈ before, ∃ ia, s.rangeCheck t.partKey f.level j va.toNat = .ok ia) (hk : s.rangeCheck t.partKey f.level k va.toNat = .error c) :
    s.kindChecks t f ks va n = .error (c, va) := by
  rw [State.kindChecks_eq, hks, findSome?_refused hb hk]
theorem State.kindChecks_page {ia : Nat} {before after : List Acc} {k : Acc} {c : Cause.Code} (hks : ks = before ++ k :: after)
    (hr : ∀ k ∈ ks, s.rangeCheck t.partKey f.level k va.toNat = .ok ia)
    (hb : ∀ j ∈ before, s.preciseCheck t.partKey f.level j va.toNat = .ok ia) (hk : s.preciseCheck t.partKey f.level k va.toNat = .error c) :
    s.kindChecks t f ks va n = .error (c, va) := by
  rw [State.kindChecks_eq, findSome?_passed (fun k hk => ⟨ia, hr k hk⟩), hks, findSome?_refused (fun j hj => ⟨ia, hb j hj⟩) hk]
/-- Every kind reaches the address: only the watched word can still trap. -/
theorem State.kindChecks_reached {ia : Nat} (hne : ks ≠ []) (hp : ∀ k ∈ ks, s.preciseCheck t.partKey f.level k va.toNat = .ok ia) :
    s.kindChecks t f ks va n = if t.watched f ks va.toNat n then .error (Cause.watch, va) else .ok ia := by
  have head : ks.headD .read ∈ ks := by
    obtain ⟨k, r, rfl⟩ := List.exists_cons_of_ne_nil hne
    simp
  rw [State.kindChecks_eq, findSome?_passed (fun k hk => ⟨ia, State.rangeCheck_of_preciseCheck (hp k hk)⟩),
    findSome?_passed (fun k hk => ⟨ia, hp k hk⟩), State.rangeCheck_of_preciseCheck (hp _ head)]

theorem State.accessChecks_form {c : Cause.Code × Dword} (h : formChecks t lv va n = .error c) : s.accessChecks t f lv ks va n = .error c := by
  rw [State.accessChecks, h]
theorem State.accessChecks_refused {pt : Point} {c : Cause.Code × Dword} (h : formChecks t lv va n = .ok pt)
    (hk : s.kindChecks t f ks va n = .error c) : s.accessChecks t f lv ks va n = .error c := by
  unfold State.accessChecks
  simp only [h, hk]
theorem State.accessChecks_passed {pt : Point} {ia : Nat} (h : formChecks t lv va n = .ok pt)
    (hk : s.kindChecks t f ks va n = .ok ia) : s.accessChecks t f lv ks va n = .ok (pt, ia) := by
  unfold State.accessChecks
  simp only [h, hk]
theorem State.storeChecks_form {c : Cause.Code × Dword} (h : formChecks t lv va n = .error c) : s.storeChecks t f lv va n = .error c := by
  rw [State.storeChecks, h]
theorem State.storeChecks_range {pt : Point} {c : Cause.Code} (h : formChecks t lv va n = .ok pt)
    (hr : s.rangeCheck t.partKey f.level .write va.toNat = .error c) : s.storeChecks t f lv va n = .error (c, va) := by
  rw [State.storeChecks, h]
  simp only [hr]
theorem State.storeChecks_reached {pt : Point} {ia : Nat} (h : formChecks t lv va n = .ok pt)
    (hr : s.rangeCheck t.partKey f.level .write va.toNat = .ok ia) :
    s.storeChecks t f lv va n = if t.watched f [.write] va.toNat n then .error (Cause.watch, va) else .ok (pt, ia) := by
  rw [State.storeChecks, h]
  simp only [hr]
end

/-! What the instructions do with them. -/

theorem answered_unsuspended {f : Fibre} (h : f.wait = none) (k : List Byte → LaneRes) (other : LaneRes) : answered f k other = other := by
  rw [answered, h]
theorem afterAcquire_idle {t : State} {l : Lane} (h : t.acquiring l = false) (k : LaneRes) : afterAcquire t l k = k := by
  rw [afterAcquire, h]
  rfl
theorem State.acquiring_idle {s : State} {l : Lane} (h : ∀ q ∈ s.reqs, ¬ (q.tid = l.tid ∧ q.fid = l.fid)) : s.acquiring l = false := by
  unfold State.acquiring
  rw [List.any_eq_false]
  intro q hq
  simp only [Bool.and_eq_true, decide_eq_true_eq]
  exact fun ⟨own, _⟩ => h q hq own
theorem afterDeferred_recorded {f : Fibre} {v : Dword} (h : f.storeFault = some v) (k : LaneRes) :
    afterDeferred f true k = .trap Cause.storeDeferred v := by
  simp only [afterDeferred, Fibre.deferred, h]
theorem afterDeferred_unrecorded {f : Fibre} {releases : Bool} (h : f.storeFault = none ∨ releases = false) (he : f.engineFault = none) (k : LaneRes) :
    afterDeferred f releases k = k := by
  cases releases
  · rfl
  · have none : f.storeFault = none := h.resolve_right (by simp)
    simp only [afterDeferred, Fibre.deferred, none, Fibre.engFaulted, he, Option.map_none]

/-- A lane whose fibre is free to issue a global access: not suspended, held by nothing, with no engine fault and no access pending. -/
structure State.Clear (s : State) (l : Lane) : Prop where
  wait : (s.fibre l).wait = none
  hold : (s.fibre l).hold = none
  engine : (s.fibre l).engineFault = none
  reqs : ∀ q ∈ s.reqs, ¬ (q.tid = l.tid ∧ q.fid = l.fid)

section
variable {s : State} {h : Head} {l : Lane} (hc : s.Clear l)
include hc

theorem State.Clear.acquiring : s.acquiring l = false := State.acquiring_idle hc.reqs

theorem ldLane_refused {m : GlobalMod} {c : Cause.Code × Dword}
    (hb : ∀ pt ia, formChecks (s.team l.tid) m.scope.toNat (s.globalVa l h.sa m.off) m.size.bytes = .ok pt →
      s.rangeCheck (s.team l.tid).partKey (s.fibre l).level .read (s.globalVa l h.sa m.off).toNat = .ok ia →
      s.blockAt (s.team l.tid).partKey (s.fibre l).level .read ia = none)
    (hk : s.accessChecks (s.team l.tid) (s.fibre l) m.scope.toNat [.read] (s.globalVa l h.sa m.off) m.size.bytes = .error c) :
    ldLane h m s s l = .trap c.1 c.2 := by
  unfold ldLane
  dsimp only
  rw [answered_unsuspended hc.wait, afterAcquire_idle hc.acquiring]
  unfold State.accessChecks at hk
  split at hk
  · cases hk
    rfl
  · rename_i pt form
    have memory : (s.rangeCheck (s.team l.tid).partKey (s.fibre l).level .read (s.globalVa l h.sa m.off).toNat).toOption.bind
        (s.blockAt (s.team l.tid).partKey (s.fibre l).level .read) = none := by
      cases hr : s.rangeCheck (s.team l.tid).partKey (s.fibre l).level .read (s.globalVa l h.sa m.off).toNat with
      | error c => rfl
      | ok ia => exact hb pt ia form hr
    simp only [memory]
    split at hk
    · cases hk
      rfl
    · cases hk

variable {releases : Bool} (hd : (s.fibre l).storeFault = none ∨ releases = false)
include hd

theorem stLane_refused {m : GlobalMod} {c : Cause.Code × Dword} (hm : m.ord.releases = releases)
    (hk : s.storeChecks (s.team l.tid) (s.fibre l) m.scope.toNat (s.globalVa l h.sa m.off) m.size.bytes = .error c) :
    stLane h m s s l = .trap c.1 c.2 := by
  unfold stLane
  dsimp only
  rw [afterAcquire_idle hc.acquiring, hm, afterDeferred_unrecorded hd hc.engine]
  simp only [hk]
theorem atomicLane_refused {m : AtomicMod} {ks : List Acc} {dst : Option Field} {cas : Bool} {c : Cause.Code × Dword} (hm : m.ord.releases = releases)
    (hk : s.accessChecks (s.team l.tid) (s.fibre l) m.scope.toNat ks (s.globalVa l h.sa m.off) m.size.bytes = .error c) :
    atomicLane h m ks dst cas s s l = .trap c.1 c.2 := by
  unfold atomicLane
  dsimp only
  rw [answered_unsuspended hc.wait, afterAcquire_idle hc.acquiring, hm, afterDeferred_unrecorded hd hc.engine]
  simp only [hk]
end

section
variable {s : State} {h : Head} {l : Lane} {v : Dword} (hc : s.Clear l) (hv : (s.fibre l).storeFault = some v)
include hc hv

theorem stLane_deferred {m : GlobalMod} (hm : m.ord.releases = true) : stLane h m s s l = .trap Cause.storeDeferred v := by
  unfold stLane
  dsimp only
  rw [afterAcquire_idle hc.acquiring, hm, afterDeferred_recorded hv]
theorem atomicLane_deferred {m : AtomicMod} {ks : List Acc} {dst : Option Field} {cas : Bool} (hm : m.ord.releases = true) :
    atomicLane h m ks dst cas s s l = .trap Cause.storeDeferred v := by
  unfold atomicLane
  dsimp only
  rw [answered_unsuspended hc.wait, afterAcquire_idle hc.acquiring, hm, afterDeferred_recorded hv]
end

/-! The traps of an instruction that makes an access. -/

/-- An instruction that makes an access under an order: with a store fault recorded a release traps; else what its checks refuse is its trap.
`precise` says whether the page is among the checks. -/
structure State.Checked (s : State) (h : Head) (l : Lane) (i : Instr) (o : Ord) (lv n : Nat) (va : Dword) (ks : List Acc) (precise : Bool) : Prop where
  deferred : ∀ v, o.releases = true → (s.fibre l).storeFault = some v → exec i s = .next (s.trapped l h Cause.storeDeferred v)
  refused : (s.fibre l).storeFault = none ∨ o.releases = false →
    (ks = [.read] → ∀ pt ia, formChecks (s.team l.tid) lv va n = .ok pt → s.rangeCheck (s.team l.tid).partKey (s.fibre l).level .read va.toNat = .ok ia →
      s.blockAt (s.team l.tid).partKey (s.fibre l).level .read ia = none) →
    ∀ c, (if precise then s.accessChecks (s.team l.tid) (s.fibre l) lv ks va n else s.storeChecks (s.team l.tid) (s.fibre l) lv va n) = .error c →
      exec i s = .next (s.trapped l h c.1 c.2)

section
variable {s : State} {h : Head} {l : Lane} (ha : s.Alone h l) (hf : (s.fibre l).inFlight = false)
include ha hf

/-- A lane alone whose instruction traps. -/
theorem State.Alone.traps {body : State → Lane → LaneRes} {c : Cause.Code} {v : Dword} (hb : body s l = .trap c v) :
    (Outcome.next (s.runLanes h body) : Outcome State Fault Refusal) = .next (s.trapped l h c v) := by
  rw [ha.runLanes, hb, State.finish_trap_settled hf]

variable (hc : s.Clear l)
include hc

theorem State.Alone.ld_checked (m : GlobalMod) :
    s.Checked h l (.ld h m) .rlx m.scope.toNat m.size.bytes (s.globalVa l h.sa m.off) [.read] true where
  deferred := fun _ hr => absurd hr (by decide)
  refused := fun _ hb _ hk => ha.traps hf (ldLane_refused hc (hb rfl) hk)
theorem State.Alone.st_checked (m : GlobalMod) :
    s.Checked h l (.st h m) m.ord m.scope.toNat m.size.bytes (s.globalVa l h.sa m.off) [.write] false where
  deferred := fun _ hr hv => ha.traps hf (stLane_deferred hc hv hr)
  refused := fun hd _ _ hk => ha.traps hf (stLane_refused hc hd rfl hk)
theorem State.Alone.atomic_checked (m : AtomicMod) {i : Instr} {ks : List Acc} {dst : Option Field} {cas : Bool}
    (hi : exec i s = .next (s.runLanes h (atomicLane h m ks dst cas s))) :
    s.Checked h l i m.ord m.scope.toNat m.size.bytes (s.globalVa l h.sa m.off) ks true where
  deferred := fun _ hr hv => hi.trans (ha.traps hf (atomicLane_deferred hc hv hr))
  refused := fun hd _ _ hk => hi.trans (ha.traps hf (atomicLane_refused hc hd rfl hk))
end

section
variable {s : State} {h : Head} {l : Lane} {i : Instr} {o : Ord} {lv n : Nat} {va : Dword} {ks : List Acc} {precise : Bool}
  (hx : s.Checked h l i o lv n va ks precise) (hd : (s.fibre l).storeFault = none ∨ o.releases = false)
include hx hd

theorem State.Checked.form {c : Cause.Code × Dword} (hf : formChecks (s.team l.tid) lv va n = .error c) :
    exec i s = .next (s.trapped l h c.1 c.2) := by
  refine hx.refused hd (fun _ pt ia ok => ?_) c ?_
  · rw [hf] at ok
    cases ok
  · cases precise
    · exact State.storeChecks_form hf
    · exact State.accessChecks_form hf

variable {pt : Point} (hf : formChecks (s.team l.tid) lv va n = .ok pt) (hks : precise = false → ks = [.write])
include hf hks

theorem State.Checked.range {before after : List Acc} {k : Acc} {c : Cause.Code} (hb : ks = before ++ k :: after)
    (hr : ∀ j ∈ before, ∃ ia, s.rangeCheck (s.team l.tid).partKey (s.fibre l).level j va.toNat = .ok ia)
    (hk : s.rangeCheck (s.team l.tid).partKey (s.fibre l).level k va.toNat = .error c) : exec i s = .next (s.trapped l h c va) := by
  have inside : k ∈ ks := by simp [hb]
  refine hx.refused hd (fun one pt ia _ reached => ?_) (c, va) ?_
  · obtain rfl : k = .read := by simpa [one] using inside
    rw [hk] at reached
    cases reached
  · cases precise
    · obtain rfl : k = .write := by simpa [hks rfl] using inside
      exact State.storeChecks_range hf hk
    · exact State.accessChecks_refused hf (State.kindChecks_range hb hr hk)

variable {ia : Nat} (hne : ks ≠ []) (hr : ∀ k ∈ ks, s.rangeCheck (s.team l.tid).partKey (s.fibre l).level k va.toNat = .ok ia)
  (hb : s.blockAt (s.team l.tid).partKey (s.fibre l).level (ks.headD .read) ia = none)
include hne hr hb

theorem State.Checked.page {before after : List Acc} {k : Acc} {c : Cause.Code} (hp : precise = true) (hs : ks = before ++ k :: after)
    (hj : ∀ j ∈ before, s.preciseCheck (s.team l.tid).partKey (s.fibre l).level j va.toNat = .ok ia)
    (hk : s.preciseCheck (s.team l.tid).partKey (s.fibre l).level k va.toNat = .error c) : exec i s = .next (s.trapped l h c va) := by
  subst hp
  refine hx.refused hd (fun one _ ja _ reached => ?_) (c, va) (State.accessChecks_refused hf (State.kindChecks_page hs hr hj hk))
  subst one
  rw [hr .read (by simp)] at reached
  cases reached
  exact hb
theorem State.Checked.watched (hp : precise = true → ∀ k ∈ ks, s.preciseCheck (s.team l.tid).partKey (s.fibre l).level k va.toNat = .ok ia)
    (hw : (s.team l.tid).watched (s.fibre l) ks va.toNat n = true) : exec i s = .next (s.trapped l h Cause.watch va) := by
  refine hx.refused hd (fun one _ ja _ reached => ?_) (Cause.watch, va) ?_
  · subst one
    rw [hr .read (by simp)] at reached
    cases reached
    exact hb
  · cases precise
    · obtain rfl := hks rfl
      exact (State.storeChecks_reached hf (hr .write (by simp))).trans (if_pos hw)
    · exact State.accessChecks_refused hf ((State.kindChecks_reached hne (hp rfl)).trans (if_pos hw))
end

/-- Settles O35: each of the five instructions is Checked, and a Checked instruction takes the trap of the first check that refuses it. -/
theorem accessTraps : Obligations.AccessTraps := by
  unfold Obligations.AccessTraps
  intro s h m a l ha hf hwait hhold hengine hreqs
  have hc : s.Clear l := ⟨hwait, hhold, hengine, hreqs⟩
  intro t forms x hx
  obtain ⟨checked, stores, some⟩ : s.Checked h l x.1 x.2.1 x.2.2.1.toNat x.2.2.2.1 x.2.2.2.2.1 x.2.2.2.2.2.1 x.2.2.2.2.2.2 ∧
      (x.2.2.2.2.2.2 = false → x.2.2.2.2.2.1 = [.write]) ∧ x.2.2.2.2.2.1 ≠ [] := by
    simp only [forms, List.mem_cons, List.not_mem_nil, or_false] at hx
    rcases hx with rfl | rfl | rfl | rfl | rfl
    · exact ⟨ha.ld_checked hf hc m, by simp, by simp⟩
    · exact ⟨ha.st_checked hf hc m, by simp, by simp⟩
    · exact ⟨ha.atomic_checked hf hc a rfl, by simp, by simp⟩
    · exact ⟨ha.atomic_checked hf hc a rfl, by simp, by simp⟩
    · exact ⟨ha.atomic_checked hf hc a rfl, by simp, by simp⟩
  obtain ⟨i, o, scope, n, va, ks, precise⟩ := x
  dsimp only at checked stores some ⊢
  refine ⟨fun v hr hv => checked.deferred v ((Ord.releases_iff o).mpr hr) hv, fun hd => ?_⟩
  have plain : (s.fibre l).storeFault = none ∨ o.releases = false :=
    hd.imp id fun hr => Bool.eq_false_iff.mpr fun e => hr ((Ord.releases_iff o).mp e)
  have declared : t.levels[scope.toNat]? ≠ none → ∃ pt, t.point scope.toNat = .ok pt := fun hl => by
    obtain ⟨y, hy⟩ := Option.ne_none_iff_exists'.mp hl
    exact ⟨y.pt, Team.point_declared (by rw [hy]; rfl)⟩
  refine ⟨fun hl => ?undeclared, fun hl hv => ?high, fun hl hv hn => ?misaligned, fun hl hv hn => ?reaches⟩
  case undeclared =>
    have traps := checked.form plain (formChecks_undeclared hl)
    exact traps
  case high =>
    obtain ⟨pt, point⟩ := declared hl
    have traps := checked.form plain (formChecks_high point hv)
    exact traps
  case misaligned =>
    obtain ⟨pt, point⟩ := declared hl
    have traps := checked.form plain (formChecks_misaligned point hv hn)
    exact traps
  case reaches =>
    obtain ⟨pt, point⟩ := declared hl
    have form := formChecks_ok point hv hn
    refine ⟨fun before k after c hs hb hk => checked.range plain form stores hs hb hk, fun ia hr hblock => ⟨fun hp before k after c hs hb hk => ?_, fun hp hw => ?_⟩⟩
    · exact checked.page plain form stores some hr hblock hp hs hb hk
    · exact checked.watched plain form stores some hr hblock hp hw

end Sys2Proof.Machine
end

section
/-! PROOFS. An issue of one lane that goes on, and its accesses at issue (R192, R197, R219, R291, R403): LD, ST, ATOM, CAS, RED and CTRADD. -/

namespace Sys2Proof.Machine

open Host (Outcome)

/-! One fibre changed, and changed again. -/

theorem State.modFibre_modFibre (s : State) (l : Lane) (f g : Fibre → Fibre) (hf : ∀ x, (f x).fid = x.fid) :
    (s.modFibre l f).modFibre l g = s.modFibre l (fun x => g (f x)) := by
  unfold State.modFibre
  rw [State.modTeam_modTeam _ _ _ _ (by intro _; rfl)]
  congr 1
  funext t
  unfold Team.modFibre
  rw [List.map_map]
  congr 1
  apply List.map_congr_left
  intro x _
  by_cases h : x.fid = l.fid <;> simp [h, hf]
theorem State.foldl_modFibre {α : Type} (l : Lane) (g : α → Fibre → Fibre) (hg : ∀ a x, (g a x).fid = x.fid) (as : List α) (s : State) :
    as.foldl (fun t a => t.modFibre l (g a)) s = s.modFibre l (fun f => as.foldl (fun f a => g a f) f) := by
  induction as generalizing s with
  | nil =>
    simp [State.modFibre, State.modTeam, Team.modFibre]
  | cons a r ih => rw [List.foldl_cons, ih, State.modFibre_modFibre _ _ _ _ (hg a)]; rfl
theorem State.team_modFibre (s : State) (l : Lane) (g : Fibre → Fibre) (i : Nat) :
    (s.modFibre l g).team i = if i = l.tid then (s.team i).modFibre l.fid g else s.team i :=
  State.team_modTeam s l.tid (fun t => t.modFibre l.fid g) (fun _ => rfl) rfl i
theorem State.fibre_modFibre (s : State) (l : Lane) (g : Fibre → Fibre) (hg : ∀ x, (g x).fid = x.fid) (hl : (s.fibre? l).isSome = true) :
    (s.modFibre l g).fibre l = g (s.fibre l) := by
  apply State.fibre_eq
  rw [State.fibre?_modFibre _ _ _ hg, if_pos rfl, State.fibre?_of_isSome s l hl, Option.map_some]
theorem State.modFibre_dbgctl (s : State) (l : Lane) (g : Fibre → Fibre) (i : Nat) : ((s.modFibre l g).team i).dbgctl = (s.team i).dbgctl :=
  State.team_dbgctl_of_bare i (State.modFibre_bare s l g)

/-! A lane that goes on (R103, R114). -/

section
variable {s : State} {h : Head} {l : Lane} (ha : s.Alone h l)
include ha

theorem State.Alone.present : (s.fibre? l).isSome = true := by rw [ha.found]; rfl
theorem State.Alone.finish_done {u : State} (hd : (u.team l.tid).dbgctl = (s.team l.tid).dbgctl) : s.finish l h (.done u) = s.onward u l h := by
  rw [State.finish, complete_unstepped _ _ _ _ _ (by rw [hd]; exact ha.unstepped), setPc_eq]
  rfl
/-- A lane alone whose instruction is done. -/
theorem State.Alone.done {body : State → Lane → LaneRes} {u : State} (hb : body s l = .done u) (hd : (u.team l.tid).dbgctl = (s.team l.tid).dbgctl) :
    (Outcome.next (s.runLanes h body) : Outcome State Fault Refusal) = .next (s.onward u l h) := by
  rw [ha.runLanes, hb, ha.finish_done hd]
/-- A lane alone that stays at its instruction. -/
theorem State.Alone.stays {body : State → Lane → LaneRes} {u : State} (hb : body s l = .stay u) :
    (Outcome.next (s.runLanes h body) : Outcome State Fault Refusal) = .next u := by
  rw [ha.runLanes, hb]
  rfl
/-- A lane alone that writes only registers. -/
theorem State.Alone.writes {u : State} {w : LaneWrite} (hw : Wrote s u l (s.team s.sig.tid).coreKey 0 w) :
    RegisterEffect s (s.onward u l h) h 0 (fun _ => w) := by
  obtain ⟨-, -, -, guarded⟩ := id ha
  obtain ⟨tid, -⟩ := id ha
  obtain ⟨fibre, others, teams, cores, rest⟩ := finish_goto s u l h (nextPc (s.fibre l).pc) _ 0 w hw ha.present ha.unstepped
  have only : s.sigLanes.filter (s.guard h) = [l] := by rw [ha.sigLanes]; simp [guarded]
  rw [← ha.finish_done (hw.dbgctl l.tid), finish_done_eq]
  refine ⟨fun k hk _ => ?_, fun k hk hg => ?_, fun k hk => ?_, ?_, fun c => ?_, rest⟩
  · obtain rfl : k = l := by simpa [ha.sigLanes] using hk
    exact fibre
  · obtain rfl : k = l := by simpa [ha.sigLanes] using hk
    rw [guarded] at hg
    cases hg
  · exact others k (by simpa [ha.sigLanes] using hk)
  · rw [only, teams, tid]
    simp only [List.foldl_cons, List.foldl_nil, List.flatMap_cons, List.flatMap_nil, List.append_nil]
    rfl
  · rw [cores c, coreDrawn]
    simp only [Nat.zero_mul]
end

/-! A Wait ended: it changes no register, and nothing that a lane reads (R64). -/

theorem put_unsuspended (f : Fibre) (r : RegName) (v : Word) : Fibre.put { f with wait := none } r v = { Fibre.put f r v with wait := none } := by
  cases r with
  | pred i => by_cases h : i = 0 <;> simp [Fibre.put, h]
  | _ => rfl
theorem onFibre_unsuspended (w : LaneWrite) (f : Fibre) : w.onFibre { f with wait := none } = { w.onFibre f with wait := none } := by
  have regs : ∀ (rs : List (RegName × Word)) (f : Fibre), rs.foldl (fun f p => f.put p.1 p.2) { f with wait := none } =
      { rs.foldl (fun f p => f.put p.1 p.2) f with wait := none } := by
    intro rs
    induction rs with
    | nil => exact fun _ => rfl
    | cons p r ih => intro f; rw [List.foldl_cons, List.foldl_cons, put_unsuspended, ih]
  unfold LaneWrite.onFibre
  rw [regs]
  cases w.last <;> rfl

section
variable {s : State} {l : Lane}

theorem State.fibre?_resume (s : State) (l k : Lane) : (s.resume l).fibre? k = if k = l then (s.fibre? k).map (fun f => { f with wait := none }) else s.fibre? k :=
  State.fibre?_modFibre _ _ _ (by intro _; rfl) k
theorem State.fibre_resume (hl : (s.fibre? l).isSome = true) : (s.resume l).fibre l = { s.fibre l with wait := none } :=
  State.fibre_modFibre s l _ (by intro _; rfl) hl
theorem teamsAfter_modFibre (s : State) (l : Lane) (g : Fibre → Fibre) (i : Nat) (sc : List Word → List Word) (fl : List FlagPend) :
    teamsAfter i sc fl (s.modFibre l g).teams = teamsAfter i sc fl s.teams := by
  simp only [teamsAfter, State.modFibre, State.modTeam, List.map_map]
  apply List.map_congr_left
  intro x _
  simp only [Function.comp]
  split <;> rfl
/-- A lane resumed before and after what it writes. -/
theorem Wrote.resume {t : State} {key n : Nat} {w : LaneWrite} (hw : Wrote s t l key n w) : Wrote (s.resume l) (t.resume l) l key n w where
  fibre := fun f hf => by
    rw [State.fibre?_resume, if_pos rfl] at hf
    obtain ⟨g, hg, rfl⟩ := Option.map_eq_some_iff.mp hf
    obtain ⟨p, hp⟩ := hw.fibre g hg
    exact ⟨p, by rw [State.fibre?_resume, if_pos rfl, hp, onFibre_unsuspended]; rfl⟩
  others := fun k hk => by rw [State.fibre?_resume, State.fibre?_resume, if_neg hk, if_neg hk]; exact hw.others k hk
  teams := by
    rw [State.resume, State.resume, State.modFibre_outlines, teamsAfter_modFibre]
    exact hw.teams
  cores := hw.cores
  rest := hw.rest
/-- A lane that was not suspended is as it was once resumed. -/
theorem resume_wrote (key : Nat) (hw : (s.fibre l).wait = none) : Wrote s (s.resume l) l key 0 { } where
  fibre := fun f hf => by
    have same := State.fibre_eq s l f hf
    exact ⟨f.pend, by rw [State.fibre?_resume, if_pos rfl, hf, Option.map_some, ← same, ← hw]; rfl⟩
  others := fun k hk => by rw [State.fibre?_resume, if_neg hk]
  teams := by
    rw [State.resume, State.modFibre_outlines]
    exact (Wrote.refl s l key).teams
  cores := fun c => (coreDrawn_zero s key c).symm
  rest := rfl
theorem State.readName_resume (hl : (s.fibre? l).isSome = true) (pos : Pos) (off : Nat) (r : RegName) :
    (s.resume l).readName l pos off r = s.readName l pos off r := by
  unfold State.readName
  rw [State.fibre_resume hl]
  have team : (s.resume l).team l.tid = (s.team l.tid).modFibre l.fid (fun f => { f with wait := none }) :=
    (State.team_modFibre s l _ l.tid).trans (if_pos rfl)
  rw [team]
  cases r <;> rfl
theorem State.Alone.resume {h : Head} (ha : s.Alone h l) : (s.resume l).Alone h l := by
  have present := ha.present
  obtain ⟨tid, fids, ⟨nodup, exist, unstepped⟩, guard⟩ := ha
  refine ⟨tid, fids, ⟨nodup, fun f hf => ?_, fun f hf hlevel => ?_⟩, ?_⟩
  · obtain rfl : f = l.fid := by simpa [State.resume, fids] using hf
    show ((s.resume l).fibre? ⟨s.sig.tid, l.fid⟩).isSome = true
    rw [tid, State.fibre?_resume, if_pos rfl]
    simpa using present
  · obtain rfl : f = l.fid := by simpa [State.resume, fids] using hf
    have own : (⟨s.sig.tid, l.fid⟩ : Lane) = l := by rw [tid]
    show ((s.resume l).team s.sig.tid).dbgctl.getLsbD 1 = false
    rw [State.resume, State.modFibre_dbgctl]
    refine unstepped l.fid (by simp [fids]) ?_
    have level : ((s.resume l).fibre ⟨s.sig.tid, l.fid⟩).level = .user := hlevel
    rw [own, State.fibre_resume present] at level
    rw [own]
    exact level
  · rw [← guard]
    unfold State.guard State.readPred
    rw [State.readName_resume present]
end

/-! Words (R7, R192). -/

theorem toBytes_eq_map (n d : Nat) : toBytes n d = (List.range n).map (fun i => BitVec.ofNat 8 (d / 2 ^ (8 * i))) := by
  induction n generalizing d with
  | zero => rfl
  | succ n ih =>
    rw [toBytes, ih, List.range_succ_eq_map, List.map_cons, List.map_map]
    simp only [Nat.mul_zero, Nat.pow_zero, Nat.div_one, Function.comp_def, Nat.div_div_eq_div_mul]
    congr 2
    funext i
    rw [Nat.succ_eq_add_one, Nat.mul_add, Nat.pow_add, Nat.mul_comm (2 ^ (8 * i))]
theorem toBytes_mod (n d : Nat) : toBytes n (d % 2 ^ (8 * n)) = toBytes n d := by
  induction n generalizing d with
  | zero => rfl
  | succ n ih =>
    rw [toBytes, toBytes, show 2 ^ (8 * (n + 1)) = 256 * 2 ^ (8 * n) by rw [Nat.mul_add, Nat.pow_add, Nat.mul_comm], Nat.mod_mul_right_div_self, ih]
    congr 1
    apply BitVec.eq_of_toNat_eq
    simp only [BitVec.toNat_ofNat]
    exact Nat.mod_mul_right_mod d 256 (2 ^ (8 * n))
/-- The bytes of a data operand: those of its register, pair or quad (R192). -/
theorem toBytes_readData (s : State) (l : Lane) (pos : Pos) (fld : Field) (n : Nat) : toBytes n (s.readData l pos fld n) =
    (List.range n).map (fun i => BitVec.ofNat 8 ((if n ≤ 4 then (s.readReg l pos fld).toNat else if n = 8 then (s.readPair l pos fld).toNat
      else (s.readQuad l pos fld).toNat) / 2 ^ (8 * i))) := by
  rw [← toBytes_eq_map]
  unfold State.readData
  split
  · exact toBytes_mod n _
  · rfl
theorem writeWords_wrote (s : State) (l : Lane) (key : Nat) (fld : Field) (ws : List Word) :
    Wrote s (s.writeWords l fld ws) l key 0 { regs := ws.zipIdx.map (fun p => (regName fld.file (fld.idx + p.2), p.1)) } := by
  have written := writeNames_wrote l key none (ws.zipIdx.map (fun p => (regName fld.file (fld.idx + p.2), p.1))) s
  rw [List.foldl_map] at written
  exact written

end Sys2Proof.Machine
end

section
/-! PROOFS. Global accesses at issue (R192, R197, R198, R219, R291, R403): LD, ST, ATOM, CAS, RED and CTRADD that pass their checks, and the
answers that they take. -/

namespace Sys2Proof.Machine

open Host (Outcome)

/-! The destination noted (R116). -/

/-- A fibre that expects results in registers, of a producer's number. -/
def Fibre.expect (f : Fibre) (now : Nat) (t : Team) (rs : List RegName) (id : Nat) : Fibre :=
  rs.foldl (fun f r => f.note now r (t.stored f r) none id) f
theorem Fibre.expect_eq (f : Fibre) (now : Nat) (t : Team) (rs : List RegName) (id : Nat) : ∃ p, f.expect now t rs id = { f with pend := p } := by
  unfold Fibre.expect
  induction rs generalizing f with
  | nil => exact ⟨f.pend, rfl⟩
  | cons r rs ih =>
    obtain ⟨p, hp⟩ := ih (f.note now r (t.stored f r) none id)
    exact ⟨p, hp⟩
theorem State.expectWords_eq (s : State) (l : Lane) (fld : Field) (n id : Nat) : s.expectWords l fld n id =
    s.modFibre l (fun f => f.expect s.now (s.team l.tid) ((List.range n).map (fun i => regName fld.file (fld.idx + i))) id) := by
  unfold State.expectWords Fibre.expect
  rw [State.foldl_modFibre l (fun i f => f.note s.now (regName fld.file (fld.idx + i)) ((s.team l.tid).stored f (regName fld.file (fld.idx + i))) none id)
    (fun _ _ => rfl)]
  simp only [List.foldl_map]

/-- A lane that goes on with an access pending; of its fibre only what is on its way has changed. -/
theorem State.Alone.movedOn {s : State} {h : Head} {l : Lane} (ha : s.Alone h l) {g : Fibre → Fibre} (hg : ∀ f, ∃ p, g f = { f with pend := p }) (q : Req) :
    MovedOn s (s.withReq q) (s.onward ((s.modFibre l g).withReq q) l h) h l := by
  have gfid : ∀ f, (g f).fid = f.fid := fun f => by obtain ⟨p, hp⟩ := hg f; rw [hp]
  have looks : ∀ k, (s.onward ((s.modFibre l g).withReq q) l h).fibre? k =
      if k = l then (if k = l then (s.fibre? k).map g else s.fibre? k).map (fun f => f.movedTo (nextPc (s.fibre l).pc) s.now h.stall)
      else if k = l then (s.fibre? k).map g else s.fibre? k := by
    intro k
    have inner : ((s.modFibre l g).withReq q).fibre? k = if k = l then (s.fibre? k).map g else s.fibre? k := State.fibre?_modFibre s l g gfid k
    rw [State.onward, State.fibre?_modFibre _ _ _ (by intro _; rfl), inner]
    rfl
  refine ⟨?_, fun k hk => ?_, ?_, rfl⟩
  · obtain ⟨p, hp⟩ := hg (s.fibre l)
    exact ⟨p, by rw [looks, if_pos rfl, if_pos rfl, ha.found, Option.map_some, Option.map_some, hp]; rfl⟩
  · rw [looks, if_neg hk, if_neg hk]
  · rw [State.onward, State.modFibre_outlines]
    exact State.modFibre_outlines s l g

/-! The checks passed (R193). -/

theorem State.poisonedFor_clean {s : State} {core sp ia n : Nat} (own : Nat → Option Byte) (hp : s.poisoned core sp ia n = false) :
    s.poisonedFor core own sp ia n = false := by
  unfold State.poisoned State.poisonedFor at hp
  unfold State.poisonedFor
  simp only [Bool.and_eq_false_iff, List.any_eq_false, Bool.and_eq_true, not_and, Option.isNone_none, and_true] at hp ⊢
  exact hp.imp id fun hp i hi poison => hp i hi poison.1

section
variable {s : State} {h : Head} {l : Lane} {lv n : Nat} {va : Dword} {ks : List Acc} {pt : Point} {ia : Nat}

theorem State.Passes.form (hp : s.Passes l lv ks va n pt ia) : formChecks (s.team l.tid) lv va n = .ok pt :=
  formChecks_ok (Team.point_declared hp.point) hp.low hp.aligned
theorem State.Passes.kinds (hp : s.Passes l lv ks va n pt ia) (hne : ks ≠ []) : s.kindChecks (s.team l.tid) (s.fibre l) ks va n = .ok ia := by
  rw [State.kindChecks_reached hne hp.reached, hp.unwatched]
  rfl
theorem State.Passes.access (hp : s.Passes l lv ks va n pt ia) (hne : ks ≠ []) :
    s.accessChecks (s.team l.tid) (s.fibre l) lv ks va n = .ok (pt, ia) := State.accessChecks_passed hp.form (hp.kinds hne)
theorem State.Calm.unrecorded (hc : s.Calm l) (releases : Bool) (k : LaneRes) : afterDeferred (s.fibre l) releases k = k :=
  afterDeferred_unrecorded (.inl hc.store) hc.engine k

/-! LD (R197). -/

/-- What a load records at issue. -/
def State.loadReq (s : State) (h : Head) (m : GlobalMod) (l : Lane) (pt : Point) (ia : Nat) : Req :=
  { s.access l .load (s.globalVa l h.sa m.off) ia m.size.bytes pt with dst := some h.dst, sx := m.sx, acq := m.ord.acquires, evict := m.evict }

section
variable {m : GlobalMod} (hc : s.Calm l) (hp : s.Passes l m.scope.toNat [.read] (s.globalVa l h.sa m.off) m.size.bytes pt ia)
  (hb : s.blockAt (s.team l.tid).partKey (s.fibre l).level .read ia = none)
include hc hp hb

theorem ldLane_issues : ldLane h m s s l = (if (s.loadReq h m l pt ia).hard then s else
    s.expectWords l h.dst (loadWords m.size.bytes m.sx 0).length s.seq).issueReq l (s.loadReq h m l pt ia) := by
  have range := State.rangeCheck_of_preciseCheck (hp.reached .read (by simp))
  unfold ldLane
  dsimp only
  rw [answered_unsuspended hc.wait, afterAcquire_idle hc.acquiring]
  simp only [hp.form, range, Except.toOption, Option.bind_some, hb, hp.kinds (by simp), State.poisonedFor_clean _ hp.clean, Bool.false_eq_true, if_false]
  rfl
end
end

/-! An access made (R403). -/

theorem State.modFibre_self (s : State) (l : Lane) : s.modFibre l (fun f => f) = s := by
  simp [State.modFibre, State.modTeam, Team.modFibre]

section
variable {s : State} {h : Head} {l : Lane} (ha : s.Alone h l) {i : Instr} {q : Req} {g : Fibre → Fibre}
  (hi : exec i s = .next (s.finish l h ((if q.hard then s else s.modFibre l g).issueReq l q))) (hq : q.id = s.seq)
include hi hq

include ha in
/-- An access whose home is the lane's own package lets the lane go on. -/
theorem State.Alone.issues_near (hg : ∀ f, ∃ p, g f = { f with pend := p }) (near : homePkg q.ia = corePkg q.core) :
    ∃ u, exec i s = .next u ∧ MovedOn s (s.withReq q) u h l := by
  have soft : q.hard = false := by simp [Req.hard, near]
  have added : (s.modFibre l g).addReq q = (s.modFibre l g).withReq q := by
    unfold State.addReq State.withReq
    rw [State.modFibre_seq, ← hq]
  refine ⟨_, ?_, ha.movedOn hg q⟩
  rw [hi, soft, if_neg (by simp), State.issueReq, soft, if_neg (by simp), added]
  exact congrArg Outcome.next (ha.finish_done (State.modFibre_dbgctl s l g l.tid))
/-- An access of another package's memory suspends the lane at its instruction. -/
theorem State.Alone.issues_far (far : homePkg q.ia ≠ corePkg q.core) :
    exec i s = .next ((s.withReq q).modFibre l (fun f => { f with wait := some { on := .parked s.seq, since := s.now }, waitAt := q.va })) := by
  have hard : q.hard = true := by simp [Req.hard, far]
  have added : s.addReq q = s.withReq q := by
    unfold State.addReq State.withReq
    rw [← hq]
  rw [hi, hard, if_pos rfl, State.issueReq, hard, if_pos rfl, added]
  rfl
end

/-! An access answered (R403). -/

section
variable {s : State} {h : Head} {l : Lane} (ha : s.Alone h l)
include ha

/-- A lane whose answered access writes its words goes on as one that was never suspended and writes them. -/
theorem State.Alone.answered_writes {body : State → Lane → LaneRes} {fld : Field} {ws : List Word}
    (hb : body s l = .done ((s.writeWords l fld ws).resume l)) : ∃ u, (Outcome.next (s.runLanes h body) : Outcome State Fault Refusal) = .next u ∧
      RegisterEffect (s.resume l) u h 0 (fun _ => { regs := ws.zipIdx.map (fun p => (regName fld.file (fld.idx + p.2), p.1)) }) := by
  have written := writeWords_wrote s l (s.team s.sig.tid).coreKey fld ws
  refine ⟨_, ha.done hb ?_, ?_⟩
  · rw [State.resume, State.modFibre_dbgctl, written.dbgctl]
  · have key : ((s.resume l).team s.sig.tid).coreKey = (s.team s.sig.tid).coreKey := by
      rw [State.resume, State.team_modFibre]
      split <;> rfl
    have effect := ha.resume.writes (key ▸ written.resume)
    have pc : ((s.resume l).fibre l).pc = (s.fibre l).pc := by rw [State.fibre_resume ha.present]
    rw [State.onward, pc] at effect
    exact effect
end


section
variable {s : State} {h : Head} {l : Lane} {bs : List Byte} {met : Bool} {since : Nat} (hw : (s.fibre l).wait = some ⟨.answer bs, met, since⟩)
include hw

theorem ldLane_answered {m : GlobalMod} (hm : m.ord.acquires = false) :
    ldLane h m s s l = .done ((s.writeWords l h.dst (loadWords m.size.bytes m.sx (ofBytes bs))).resume l) := by
  unfold ldLane
  simp only [answered, hw, hm]
  rfl
theorem atomicLane_answered {m : AtomicMod} {ks : List Acc} {cas : Bool} (hm : m.ord.acquires = false) :
    atomicLane h m ks (some h.dst) cas s s l = .done ((s.writeWords l h.dst (loadWords m.size.bytes false (ofBytes bs))).resume l) := by
  unfold atomicLane
  simp only [answered, hw, hm]
  rfl
end

/-! The words of a load (R192, R197). -/

theorem Size.bytes_pos (z : Size) : 0 < z.bytes := by cases z <;> decide
theorem loadWords_eq {n : Nat} (hn : 0 < n) (sx : Bool) (v : Nat) : loadWords n sx v =
    if n < 4 then [if sx = true ∧ 2 ^ (8 * n - 1) ≤ v % 2 ^ (8 * n) then BitVec.ofInt 32 ((v % 2 ^ (8 * n) : Nat) - 2 ^ (8 * n) : Int)
      else BitVec.ofNat 32 (if sx then v % 2 ^ (8 * n) else v)]
    else (List.range (n / 4)).map (fun i => BitVec.ofNat 32 (v / 2 ^ (32 * i))) := by
  unfold loadWords
  split
  · cases sx
    · rfl
    · simp only [toSigned, show ¬ 8 * n = 0 by omega, if_true, if_false, true_and, List.cons.injEq, and_true]
      by_cases low : v % 2 ^ (8 * n) < 2 ^ (8 * n - 1)
      · rw [if_pos low, if_neg (by omega), BitVec.ofInt_natCast]
      · rw [if_neg low, if_pos (by omega)]
  · rfl

/-! ST (R197, R198). -/

theorem withRelease_ready {t : State} {l : Lane} {releases : Bool} {pt : Point} (hh : (t.fibre l).hold = none)
    (hr : releases = true → t.releaseReady l t.seq pt = true) (k : State → LaneRes) : withRelease t l releases pt k = k t := by
  cases releases
  · rfl
  · simp only [withRelease, if_true, State.holdRelease, hh, hr rfl]

section
variable {s : State} {h : Head} {l : Lane} {m : GlobalMod} {pt : Point} {ia : Nat}

/-- What a store puts into the write queue. -/
def State.storeEntry (s : State) (h : Head) (m : GlobalMod) (l : Lane) (pt : Point) (ia : Nat) : WEntry :=
  { id := s.seq, core := (s.team l.tid).coreKey, tid := l.tid, fid := l.fid, order := s.seq, part := (s.team l.tid).partKey
    sp := s.space (s.team l.tid).partKey ia, ia := ia, pt := pt, va := s.globalVa l h.sa m.off, level := (s.fibre l).level
    bytes := toBytes m.size.bytes (s.readData l .sb h.sb m.size.bytes), evict := m.evict }

theorem stLane_stores (hc : s.Calm l) (hf : formChecks (s.team l.tid) m.scope.toNat (s.globalVa l h.sa m.off) m.size.bytes = .ok pt)
    (hr : s.rangeCheck (s.team l.tid).partKey (s.fibre l).level .write (s.globalVa l h.sa m.off).toNat = .ok ia)
    (hw : (s.team l.tid).watched (s.fibre l) [.write] (s.globalVa l h.sa m.off).toNat m.size.bytes = false)
    (hb : s.blockAt (s.team l.tid).partKey (s.fibre l).level .write ia = none)
    (hrel : m.ord.releases = true → s.releaseReady l s.seq pt = true) :
    stLane h m s s l = .done { s with seq := s.seq + 1, wq := s.wq ++ [s.storeEntry h m l pt ia] } := by
  unfold stLane
  dsimp only
  rw [afterAcquire_idle hc.acquiring, hc.unrecorded, State.storeChecks_reached hf hr, hw]
  simp only [Bool.false_eq_true, if_false]
  rw [withRelease_ready hc.hold hrel, hb]
  rfl
end

/-- Settles O36: a load issues its access (ldLane_issues) or takes its answer (ldLane_answered), a store enters the write queue
(stLane_stores). -/
theorem loadStoreResults : Obligations.LoadStoreResults := by
  unfold Obligations.LoadStoreResults
  intro s h m l ha
  refine ⟨fun pt ia hc hp hb => ?load, fun bs met since hw hm => ?answer, fun pt ia hc hpoint hlow haligned hr hw hb hrel => ?store⟩
  case load =>
    have issued : exec (.ld h m) s = .next (s.finish l h (ldLane h m s s l)) := congrArg Outcome.next (ha.runLanes _)
    rw [ldLane_issues hc hp hb, State.expectWords_eq] at issued
    exact ⟨ha.issues_near issued rfl fun f => f.expect_eq .., State.Alone.issues_far issued rfl⟩
  case answer =>
    obtain ⟨u, run, effect⟩ := ha.answered_writes (ldLane_answered hw hm)
    rw [loadWords_eq (Size.bytes_pos m.size)] at effect
    exact ⟨u, run, effect⟩
  case store =>
    have stored := ha.done (stLane_stores hc (formChecks_ok (Team.point_declared hpoint) hlow haligned) hr hw hb hrel) rfl
    rw [State.storeEntry, toBytes_readData] at stored
    exact stored

/-! ATOM, CAS, RED and CTRADD (R219, R257). -/

section
variable {s : State} {h : Head} {l : Lane} {m : AtomicMod} {ks : List Acc} {dst : Option Field} {cas : Bool} {pt : Point} {ia : Nat}

/-- What an atomic records at issue. -/
def State.atomicReq (s : State) (h : Head) (m : AtomicMod) (l : Lane) (dst : Option Field) (cas : Bool) (pt : Point) (ia : Nat) : Req :=
  { s.access l .atomic (s.globalVa l h.sa m.off) ia m.size.bytes pt with
    dst := dst, acq := m.ord.acquires, aop := m.aop, sgn := m.sgn, cas := cas
    b := BitVec.ofNat 128 (s.readData l .sb h.sb m.size.bytes), c := if cas then BitVec.ofNat 128 (s.readData l .sc h.sc m.size.bytes) else 0 }
/-- What a fibre notes as it issues an atomic: its destination, if it has one. -/
def State.atomicNote (s : State) (m : AtomicMod) (l : Lane) : Option Field → Fibre → Fibre
  | some d, f => f.expect s.now (s.team l.tid) ((List.range (m.size.bytes / 4)).map (fun i => regName d.file (d.idx + i))) s.seq
  | none, f => f
theorem State.atomicNote_eq (s : State) (m : AtomicMod) (l : Lane) (dst : Option Field) (f : Fibre) : ∃ p, s.atomicNote m l dst f = { f with pend := p } := by
  cases dst with
  | some d => exact f.expect_eq ..
  | none => exact ⟨f.pend, rfl⟩

theorem atomicLane_issues (hc : s.Calm l) (hp : s.Passes l m.scope.toNat ks (s.globalVa l h.sa m.off) m.size.bytes pt ia) (hks : ks ≠ [])
    (hm : m.ord.releases = false) : atomicLane h m ks dst cas s s l =
      (if (s.atomicReq h m l dst cas pt ia).hard then s else s.modFibre l (s.atomicNote m l dst)).issueReq l (s.atomicReq h m l dst cas pt ia) := by
  unfold atomicLane
  dsimp only
  rw [answered_unsuspended hc.wait, afterAcquire_idle hc.acquiring, hc.unrecorded, hp.access hks]
  simp only [hp.clean, hm, Bool.false_eq_true, if_false]
  cases dst with
  | some d =>
    simp only [State.expectWords_eq]
    rfl
  | none =>
    have same : s.modFibre l (s.atomicNote m l none) = s := State.modFibre_self s l
    rw [same, ite_self]
    rfl
/-- An atomic that passes its checks: its access stands, and its lane goes on where the home is its own package. -/
theorem State.Alone.atomic_issues (ha : s.Alone h l) {i : Instr} (hi : exec i s = .next (s.runLanes h (atomicLane h m ks dst cas s)))
    (hc : s.Calm l) (hp : s.Passes l m.scope.toNat ks (s.globalVa l h.sa m.off) m.size.bytes pt ia) (hks : ks ≠ []) (hm : m.ord = .rlx ∨ m.ord = .acq) :
    (homePkg ia = corePkg (s.team l.tid).coreKey → ∃ u, exec i s = .next u ∧ MovedOn s (s.withReq (s.atomicReq h m l dst cas pt ia)) u h l) ∧
    (homePkg ia ≠ corePkg (s.team l.tid).coreKey → exec i s = .next ((s.withReq (s.atomicReq h m l dst cas pt ia)).modFibre l (fun f =>
      { f with wait := some { on := .parked s.seq, since := s.now }, waitAt := s.globalVa l h.sa m.off }))) := by
  have unreleasing : m.ord.releases = false := by rcases hm with e | e <;> rw [e] <;> rfl
  rw [ha.runLanes, atomicLane_issues hc hp hks unreleasing] at hi
  exact ⟨ha.issues_near hi rfl (s.atomicNote_eq m l dst), State.Alone.issues_far hi rfl⟩
end

theorem State.globalVa_zero (s : State) (l : Lane) (fld : Field) : s.globalVa l fld (0 : BitVec 21) = s.readPair l .sa fld := by
  unfold State.globalVa
  rw [show BitVec.signExtend 64 (0 : BitVec 21) = 0#64 by decide, BitVec.add_zero]

/-- Settles O38: each of the four is an atomic with its own operands (State.Alone.atomic_issues); an answer is taken by atomicLane_answered. -/
theorem atomicInstructionResults : Obligations.AtomicInstructionResults := by
  unfold Obligations.AtomicInstructionResults
  intro s h m c l pt ia ha t forms
  refine ⟨fun x hx hc n va ks dst hn hva hks hdst hp hord => ?issue, fun bs met since hw hm i hi => ?answer⟩
  case issue =>
    subst hn hva hks hdst
    simp only [forms, List.mem_cons, List.not_mem_nil, or_false] at hx
    rcases hx with rfl | rfl | rfl | rfl
    · exact ha.atomic_issues (m := m) rfl hc hp (by simp) hord
    · exact ha.atomic_issues (m := m) rfl hc hp (by simp) hord
    · exact ha.atomic_issues (m := m) rfl hc hp (by simp) hord
    · have issued := ha.atomic_issues (m := ⟨c.ord, c.scope, c.evict, .b8, false, .add, 0⟩) (i := .ctradd h c) (ks := [.read, .write]) (dst := none)
        (cas := false) (pt := pt) (ia := ia) rfl hc (by rw [State.globalVa_zero]; exact hp) (by simp) hord
      simp only [State.atomicReq, State.globalVa_zero] at issued
      exact issued
  case answer =>
    simp only [List.mem_cons, List.not_mem_nil, or_false] at hi
    rcases hi with rfl | rfl
    · exact ha.answered_writes (atomicLane_answered hw hm)
    · exact ha.answered_writes (atomicLane_answered hw hm)

end Sys2Proof.Machine
end

section
/-! PROOFS. The scratchpad (R25, R26, R27, R204, R205, R207): the checks of a range of leaves, and LDS, STS, LDN, LEAFWT and LEAFTST. -/

namespace Sys2Proof.Machine

open Host (Outcome)

/-! A range of leaves (R25, R26). -/

theorem leafRange_inside {leaves off n : Nat} (h : n = 0 ∨ off + n ≤ 2048 * leaves) : leafRange leaves off n = none := if_pos h
theorem leafRange_outside {leaves off n : Nat} (hn : 0 < n) (h : 2048 * leaves < off + n) :
    leafRange leaves off n = some (Cause.leafRange, BitVec.ofNat 64 (max off (2048 * leaves))) := if_neg (by omega)
theorem leafSpan_eq {off n : Nat} (hn : 0 < n) : leafSpan off n = (off / 2048, (off + n - 1) / 2048 + 1) := if_neg (by omega)
/-- A range is free where it lies in the leaves and no leaf of it is engine-owned. -/
theorem Team.leafFree_iff (t : Team) (off n : Nat) :
    t.leafFree off n ↔ (n = 0 ∨ off + n ≤ 2048 * t.leaves) ∧ t.engineOwned (leafSpan off n) = false := by
  refine ⟨fun h => ⟨h.1, h.thread_owned⟩, fun ⟨range, own⟩ => ⟨range, fun c hc i hi => ?_⟩⟩
  rintro ⟨hn, lower, upper⟩
  rw [leafSpan_eq (by omega), Team.engineOwned, List.any_eq_false] at own
  have free := own c hc
  rw [Bool.not_eq_true, List.any_eq_false] at free
  exact free i hi (by simp only [Bool.and_eq_true, decide_eq_true_eq]; omega)

section
variable {t : State} {l : Lane} {owner leaves off n : Nat} {k : State → LaneRes}

theorem State.withLeaves_owned (hn : 0 < n) (ho : (t.team owner).engineOwned (leafSpan off n) = true) :
    t.withLeaves l owner off n k = t.suspend l (.leaf (off / 2048) ((off + n - 1) / 2048 + 1)) (BitVec.ofNat 64 off) := by
  unfold State.withLeaves
  dsimp only
  rw [ho, if_pos rfl, leafSpan_eq hn]
theorem leafAccess_outside (hn : 0 < n) (h : 2048 * leaves < off + n) :
    leafAccess t l owner leaves off n k = .trap Cause.leafRange (BitVec.ofNat 64 (max off (2048 * leaves))) := by
  rw [leafAccess, leafRange_outside hn h]
theorem leafAccess_misaligned (h : n = 0 ∨ off + n ≤ 2048 * leaves) (ha : off % n ≠ 0) :
    leafAccess t l owner leaves off n k = .trap Cause.misaligned (BitVec.ofNat 64 off) := by
  rw [leafAccess, leafRange_inside h]
  exact if_pos ha
theorem leafAccess_aligned (h : n = 0 ∨ off + n ≤ 2048 * leaves) (ha : off % n = 0) :
    leafAccess t l owner leaves off n k = t.withLeaves l owner off n k := by
  rw [leafAccess, leafRange_inside h]
  exact if_neg (not_not.mpr ha)
theorem leafAccess_free (hl : (t.team owner).leafFree off n) (he : leaves = (t.team owner).leaves) (ha : off % n = 0) :
    leafAccess t l owner leaves off n k = k (t.resume l) := by
  rw [leafAccess_aligned (he ▸ hl.1) ha, State.withLeaves_free hl]
end

theorem State.modTeam_dbgctl (s : State) (i : Nat) (f : Team → Team) (hf : ∀ t, (f t).tid = t.tid) (hd : ∀ t, (f t).dbgctl = t.dbgctl) (j : Nat) :
    ((s.modTeam i f).team j).dbgctl = (s.team j).dbgctl := by
  unfold State.team
  rw [State.team?_modTeam s i f hf]
  cases s.team? j with
  | none => split <;> rfl
  | some t =>
    split
    · exact hd t
    · rfl

/-! LDS, STS and LDN (R204, R205). -/

section
variable {s : State} {h : Head} {l : Lane} {m : ScratchMod}

variable (ha : s.Alone h l) (hq : s.acquiring l = false)
include ha hq

/-- A load of free leaves of a team writes their bytes. -/
theorem State.Alone.leafLoad_writes {body : State → Lane → LaneRes} {i off leaves : Nat} (hw : (s.fibre l).wait = none)
    (hb : body s l = afterAcquire s l (leafAccess s l i leaves off m.size.bytes (fun t =>
      .done (t.writeWords l h.dst (loadWords m.size.bytes m.sx (ofBytes ((t.team i).readLeaf off m.size.bytes)))))))
    (hl : (s.team i).leafFree off m.size.bytes) (he : leaves = (s.team i).leaves) (ho : off % m.size.bytes = 0) :
    ∃ u, (Outcome.next (s.runLanes h body) : Outcome State Fault Refusal) = .next u ∧ RegisterEffect s u h 0 (fun _ =>
      { regs := (loadWords m.size.bytes m.sx (ofBytes ((s.team i).leafBytes off m.size.bytes))).zipIdx.map (fun p =>
        (regName h.dst.file (h.dst.idx + p.2), p.1)) }) := by
  rw [afterAcquire_idle hq, leafAccess_free hl he ho, Team.readLeaf_eq, State.resume_leafBytes] at hb
  have written := (resume_wrote (s.team s.sig.tid).coreKey hw).trans (writeWords_wrote (s.resume l) l (s.team s.sig.tid).coreKey h.dst
    (loadWords m.size.bytes m.sx (ofBytes ((s.team i).leafBytes off m.size.bytes))))
  exact ⟨_, ha.done hb (written.dbgctl l.tid), ha.writes written⟩

variable {i : Instr} {k : State → LaneRes} {off n : Nat}
  (hi : exec i s = .next (s.finish l h (afterAcquire s l (leafAccess s l l.tid (s.team l.tid).leaves off n k))))
include hi

omit ha in
/-- An access to leaves of which an engine owns one waits at its instruction (R26). -/
theorem leafAccess_waits (hn : 0 < n) (ho : off % n = 0) (hr : off + n ≤ 2048 * (s.team l.tid).leaves) (hl : ¬ (s.team l.tid).leafFree off n) :
    exec i s = .next (s.modFibre l (fun f =>
      { f with wait := some { on := .leaf (off / 2048) ((off + n - 1) / 2048 + 1), since := s.now }, waitAt := BitVec.ofNat 64 off, turn := none })) := by
  have owned : (s.team l.tid).engineOwned (leafSpan off n) = true := by
    rw [Team.leafFree_iff] at hl
    simpa [hr] using hl
  rw [hi, afterAcquire_idle hq, leafAccess_aligned (.inr hr) ho, State.withLeaves_owned hn owned]
  rfl
variable (hf : (s.fibre l).inFlight = false)
include hf

omit ha in
theorem leafAccess_traps_misaligned (hr : off + n ≤ 2048 * (s.team l.tid).leaves) (ho : off % n ≠ 0) :
    exec i s = .next (s.trapped l h Cause.misaligned (BitVec.ofNat 64 off)) := by
  rw [hi, afterAcquire_idle hq, leafAccess_misaligned (.inr hr) ho, State.finish_trap_settled hf]
omit ha in
theorem leafAccess_traps_outside (hn : 0 < n) (hr : 2048 * (s.team l.tid).leaves < off + n) :
    exec i s = .next (s.trapped l h Cause.leafRange (BitVec.ofNat 64 (max off (2048 * (s.team l.tid).leaves)))) := by
  rw [hi, afterAcquire_idle hq, leafAccess_outside hn hr, State.finish_trap_settled hf]
end

section
variable {s : State} {h : Head} {l : Lane} {m : ScratchMod} (ha : s.Alone h l)
include ha

theorem State.Alone.exec_lds : exec (.lds h m) s = .next (s.finish l h (afterAcquire s l (leafAccess s l l.tid (s.team l.tid).leaves
    (s.leafOff l h.sa m.off) m.size.bytes (fun t => .done (t.writeWords l h.dst (loadWords m.size.bytes m.sx
      (ofBytes ((t.team l.tid).readLeaf (s.leafOff l h.sa m.off) m.size.bytes)))))))) := congrArg Outcome.next (ha.runLanes _)
theorem State.Alone.exec_sts : exec (.sts h m) s = .next (s.finish l h (afterAcquire s l (leafAccess s l l.tid (s.team l.tid).leaves
    (s.leafOff l h.sa m.off) m.size.bytes (fun t => .done (t.modTeam l.tid (·.writeLeaf (s.leafOff l h.sa m.off)
      (toBytes m.size.bytes (s.readData l .sb h.sb m.size.bytes)))))))) := congrArg Outcome.next (ha.runLanes _)

variable (hq : s.acquiring l = false)
include hq

theorem State.Alone.sts_stores (hl : (s.team l.tid).leafFree (s.leafOff l h.sa m.off) m.size.bytes) (ho : s.leafOff l h.sa m.off % m.size.bytes = 0) :
    exec (.sts h m) s = .next (s.onward ((s.resume l).modTeam l.tid (·.writeLeaf (s.leafOff l h.sa m.off)
      (toBytes m.size.bytes (s.readData l .sb h.sb m.size.bytes)))) l h) := by
  have dbgctl := State.modTeam_dbgctl (s.resume l) l.tid (·.writeLeaf (s.leafOff l h.sa m.off) (toBytes m.size.bytes (s.readData l .sb h.sb m.size.bytes)))
    (fun _ => rfl) (fun _ => rfl) l.tid
  rw [ha.exec_sts, afterAcquire_idle hq, leafAccess_free hl rfl ho, ha.finish_done (dbgctl.trans (State.modFibre_dbgctl s l _ l.tid))]
theorem State.Alone.ldn_undeclared (hf : (s.fibre l).inFlight = false) (hb : (s.team l.tid).clusterBound = false) :
    exec (.ldn h m) s = .next (s.trapped l h Cause.scopeUndecl 8) := by
  refine ha.traps hf ?_
  rw [afterAcquire_idle hq, hb]
  rfl

variable (hb : (s.team l.tid).clusterBound = true) {y : Nat} {z : Team} (hn : (s.team l.tid).neighbour m.cidx.toNat = some y) (hz : s.team? y = some z)
include hb hn hz

omit ha hq hb hn in
theorem State.team_of_team? : z.tid = y ∧ s.team y = z :=
  ⟨by simpa using List.find?_some hz, by rw [State.team, hz]; rfl⟩
theorem State.Alone.ldn_waits (hj : z.inJacket = true) : exec (.ldn h m) s = .next (s.modFibre l (fun f =>
    { f with wait := some { on := .ldn y, since := s.now }, waitAt := 0, turn := none })) := by
  obtain ⟨tid, -⟩ := State.team_of_team? hz
  refine ha.stays ?_
  rw [afterAcquire_idle hq, hb, hn]
  simp only [Option.bind_some, hz, hj, if_true, tid]
  rfl
theorem State.Alone.ldn_reads (hw : (s.fibre l).wait = none) (hj : z.inJacket = false) (ho : s.leafOff l h.sa m.off % m.size.bytes = 0)
    (hl : z.leafFree (s.leafOff l h.sa m.off) m.size.bytes) : ∃ u, exec (.ldn h m) s = .next u ∧ RegisterEffect s u h 0 (fun _ =>
      { regs := (loadWords m.size.bytes m.sx (ofBytes (z.leafBytes (s.leafOff l h.sa m.off) m.size.bytes))).zipIdx.map (fun p =>
        (regName h.dst.file (h.dst.idx + p.2), p.1)) }) := by
  obtain ⟨tid, rfl⟩ := State.team_of_team? hz
  refine ha.leafLoad_writes (m := m) hq (i := y) (leaves := (s.team y).leaves) hw ?_ hl rfl ho
  dsimp only
  rw [hb, hn]
  simp only [Option.bind_some, hz, hj, tid]
  rfl
end

/-! LEAFWT and LEAFTST (R207). -/

theorem afterEngine_unfaulted {f : Fibre} (h : f.engineFault = none) (k : LaneRes) : afterEngine f k = k := by
  simp only [afterEngine, Fibre.engFaulted, h, Option.map_none]

section
variable {s : State} {h : Head} {l : Lane} {m : ScratchMod} (ha : s.Alone h l) (he : (s.fibre l).engineFault = none) {off k : Nat}
  (hoff : s.leafOff l h.sa m.off = off) (hk : (s.readReg l .sb h.sb).toNat = k)
include ha he hoff hk

theorem State.Alone.leafwt_passes (hl : (s.team l.tid).leafFree off k) : exec (.leafwt h m) s = .next (s.onward (s.resume l) l h) := by
  refine ha.done ?_ (State.modFibre_dbgctl s l _ l.tid)
  rw [hoff, hk, afterEngine_unfaulted he, leafRange_inside hl.1]
  exact State.withLeaves_free hl
theorem State.Alone.leafwt_waits (hpos : 0 < k) (hr : off + k ≤ 2048 * (s.team l.tid).leaves) (hl : ¬ (s.team l.tid).leafFree off k) :
    exec (.leafwt h m) s = .next (s.modFibre l (fun f =>
      { f with wait := some { on := .leaf (off / 2048) ((off + k - 1) / 2048 + 1), since := s.now }, waitAt := BitVec.ofNat 64 off, turn := none })) := by
  have owned : (s.team l.tid).engineOwned (leafSpan off k) = true := by
    rw [Team.leafFree_iff] at hl
    simpa [hr] using hl
  refine ha.stays ?_
  rw [hoff, hk, afterEngine_unfaulted he, leafRange_inside (.inr hr)]
  exact State.withLeaves_owned hpos owned
theorem State.Alone.leaftst_answers (hr : k = 0 ∨ off + k ≤ 2048 * (s.team l.tid).leaves) : ∃ b u, (b = true ↔ (s.team l.tid).leafFree off k) ∧
    exec (.leaftst h m) s = .next u ∧ RegisterEffect s u h 0 (fun _ => predWrite h.dst.pred b) := by
  have written := writePred_wrote s l (s.team s.sig.tid).coreKey h.dst.pred (!(s.team l.tid).engineOwned (leafSpan off k)) none
  refine ⟨!(s.team l.tid).engineOwned (leafSpan off k), _, ?_, ha.done ?_ (written.dbgctl l.tid), ha.writes written⟩
  · rw [Team.leafFree_iff]
    simp [hr]
  · rw [hoff, hk, afterEngine_unfaulted he, leafRange_inside hr]
/-- LEAFWT and LEAFTST of a range past the leaves. -/
theorem State.Alone.leafwt_leaftst_trap (hf : (s.fibre l).inFlight = false) (hpos : 0 < k) (hr : 2048 * (s.team l.tid).leaves < off + k) :
    ∀ i ∈ [Instr.leafwt h m, .leaftst h m], exec i s = .next (s.trapped l h Cause.leafRange (BitVec.ofNat 64 (max off (2048 * (s.team l.tid).leaves)))) := by
  intro i hi
  simp only [List.mem_cons, List.not_mem_nil, or_false] at hi
  rcases hi with rfl | rfl
  · refine ha.traps hf ?_
    rw [hoff, hk, afterEngine_unfaulted he, leafRange_outside hpos hr]
  · refine ha.traps hf ?_
    rw [hoff, hk, afterEngine_unfaulted he, leafRange_outside hpos hr]
end

/-- Settles O37: LDS and STS are accesses to the team's own leaves, LDN to a neighbour's, LEAFWT and LEAFTST ask for the owner bits. -/
theorem scratchpadResults : Obligations.ScratchpadResults := by
  unfold Obligations.ScratchpadResults
  intro s h m l ha hw he hq
  have pos := Size.bytes_pos m.size
  refine ⟨fun ho hl => ⟨?lds, ?sts⟩, fun ho hr hl => ⟨?_, ?_⟩, fun ho hr hf i hi => ?misaligned, fun hr hf i hi => ?outside,
    fun hb hf => ha.ldn_undeclared hq hf hb, fun hb y z hn hz hj ho hl => ha.ldn_reads hq hb hn hz hw hj ho hl,
    fun hb y z hn hz hj => ha.ldn_waits hq hb hn hz hj, fun hl => ha.leafwt_passes he rfl rfl hl,
    fun hpos hr hl => ha.leafwt_waits he rfl rfl hpos hr hl, fun hr => ha.leaftst_answers he rfl rfl hr,
    fun hpos hr hf i hi => ha.leafwt_leaftst_trap he rfl rfl hf hpos hr i hi⟩
  case lds => exact ha.leafLoad_writes hq hw rfl hl rfl ho
  case sts =>
    have stored := ha.sts_stores hq hl ho
    rw [toBytes_readData] at stored
    exact stored
  · exact leafAccess_waits hq ha.exec_lds pos ho hr hl
  · exact leafAccess_waits hq ha.exec_sts pos ho hr hl
  case misaligned =>
    simp only [List.mem_cons, List.not_mem_nil, or_false] at hi
    rcases hi with rfl | rfl
    · exact leafAccess_traps_misaligned hq ha.exec_lds hf hr ho
    · exact leafAccess_traps_misaligned hq ha.exec_sts hf hr ho
  case outside =>
    simp only [List.mem_cons, List.not_mem_nil, or_false] at hi
    rcases hi with rfl | rfl
    · exact leafAccess_traps_outside hq ha.exec_lds hf pos hr
    · exact leafAccess_traps_outside hq ha.exec_sts hf pos hr

end Sys2Proof.Machine
end
section
/-! PROOFS. What the caches do by themselves (R31, R196, R198, R289, R363, R386): bytes written back, drawn in and filled, lines that make
room for others, stores discarded on the way. All of it leaves the clock, the queues of stores, accesses and commands and, of a fibre, all
but its recorded faults; and it comes to the same before and after a collective has gathered its lanes (R44). -/

namespace Sys2Proof.Machine

/-! Faults recorded, and what reads no team. -/

/-- A fibre without its recorded faults (R198, R232). -/
def Fibre.unfaulted (f : Fibre) : Fibre := { f with storeFault := none, storesLost := 0, engineFault := none, abortsLost := 0 }
/-- A team whose fibres are without their recorded faults. -/
def Team.unfaulted (t : Team) : Team := { t with fibres := t.fibres.map Fibre.unfaulted }
/-- The state without what the caches and their messages may change by themselves. -/
def State.besideCaches (s : State) : State :=
  { s.besideBytes with teams := s.teams.map Team.unfaulted, parts := [], regs := [], msgs := [], eseqs := [] }
/-- A reading of the state that no team has a part in. -/
def Blind {α : Type} (a : State → α) : Prop := ∀ (s : State) (ts : List Team), a (s.withTeams ts) = a s

theorem Team.modFibre_comm (t : Team) (i j : Nat) (f g : Fibre → Fibre) (hf : ∀ x, (f x).fid = x.fid) (hg : ∀ x, (g x).fid = x.fid)
    (hfg : ∀ x, f (g x) = g (f x)) : (t.modFibre i f).modFibre j g = (t.modFibre j g).modFibre i f := by
  simp only [Team.modFibre, List.map_map]
  congr 1
  refine List.map_congr_left fun x _ => ?_
  simp only [Function.comp]
  split <;> split <;> simp_all
/-- Changes of fibres that commute, whichever lanes they are of. -/
theorem State.modFibre_comm (s : State) (k l : Lane) (f g : Fibre → Fibre) (hf : ∀ x, (f x).fid = x.fid) (hg : ∀ x, (g x).fid = x.fid)
    (hfg : ∀ x, f (g x) = g (f x)) : (s.modFibre k f).modFibre l g = (s.modFibre l g).modFibre k f := by
  simp only [State.modFibre, State.modTeam, List.map_map]
  congr 1
  refine List.map_congr_left fun t _ => ?_
  simp only [Function.comp]
  split <;> split <;> simp_all [Team.modFibre_comm _ _ _ f g hf hg hfg]
/-- A store's fault recorded in a fibre (R198): the first is kept, the others are counted. -/
def Fibre.storeFails (va : Dword) (f : Fibre) : Fibre :=
  match f.storeFault with
  | none => { f with storeFault := some va }
  | some _ => { f with storesLost := f.storesLost + 1 }
/-- An engine's fault recorded in a fibre (R232): the first is kept, the others are counted. -/
def Fibre.engineFails (v : Dword) (f : Fibre) : Fibre :=
  match f.engineFault with
  | none => { f with engineFault := some v }
  | some _ => { f with abortsLost := f.abortsLost + 1 }

theorem Fibre.storeFails_fid (va : Dword) (f : Fibre) : (f.storeFails va).fid = f.fid := by
  unfold Fibre.storeFails; split <;> rfl
theorem Fibre.engineFails_fid (v : Dword) (f : Fibre) : (f.engineFails v).fid = f.fid := by
  unfold Fibre.engineFails; split <;> rfl
theorem Fibre.storeFails_unfaulted (va : Dword) (f : Fibre) : (f.storeFails va).unfaulted = f.unfaulted := by
  unfold Fibre.storeFails; split <;> rfl
theorem Fibre.engineFails_unfaulted (v : Dword) (f : Fibre) : (f.engineFails v).unfaulted = f.unfaulted := by
  unfold Fibre.engineFails; split <;> rfl
theorem Fibre.storeFails_atCollective (va : Dword) (f : Fibre) : f.atCollective.storeFails va = (f.storeFails va).atCollective := by
  have same : f.atCollective.storeFault = f.storeFault := rfl
  unfold Fibre.storeFails
  rw [same]
  cases f.storeFault <;> rfl
theorem Fibre.engineFails_atCollective (v : Dword) (f : Fibre) : f.atCollective.engineFails v = (f.engineFails v).atCollective := by
  have same : f.atCollective.engineFault = f.engineFault := rfl
  unfold Fibre.engineFails
  rw [same]
  cases f.engineFault <;> rfl
theorem State.recordStoreFault_eq (s : State) (tid fid part : Nat) (va : Dword) : s.recordStoreFault tid fid part va =
    if (s.fibre? ⟨tid, fid⟩).isSome then s.modFibre ⟨tid, fid⟩ (Fibre.storeFails va)
    else s.supervisorEvent part ((s.team tid).event fid Cause.storeLost 0 va) := by
  unfold State.recordStoreFault
  cases s.fibre? ⟨tid, fid⟩ <;> rfl
theorem State.recordEngineFault_eq (s : State) (tid fid part : Nat) (v : Dword) : s.recordEngineFault tid fid part v =
    if (s.fibre? ⟨tid, fid⟩).isSome then s.modFibre ⟨tid, fid⟩ (Fibre.engineFails v)
    else s.supervisorEvent part ((s.team tid).event fid Cause.engTeam 0 v) := by
  unfold State.recordEngineFault
  cases s.fibre? ⟨tid, fid⟩ <;> rfl
theorem State.fibre?_gather_isSome (s : State) (l k : Lane) : ((s.modFibre l Fibre.atCollective).fibre? k).isSome = (s.fibre? k).isSome := by
  rw [State.fibre?_modFibre s l Fibre.atCollective (fun _ => rfl)]
  split
  · exact Option.isSome_map
  · rfl
theorem State.event_gather (s : State) (l : Lane) (tid fid : Nat) (c : Cause.Code) (a : Word) (v : Dword) :
    ((s.modFibre l Fibre.atCollective).team tid).event fid c a v = (s.team tid).event fid c a v := by
  rw [State.team_modFibre]
  split <;> rfl
theorem State.modFibre_unfaulted (s : State) (l : Lane) (g : Fibre → Fibre) (hg : ∀ f, (g f).unfaulted = f.unfaulted) :
    (s.modFibre l g).besideCaches = s.besideCaches := by
  have teams : (s.modFibre l g).teams.map Team.unfaulted = s.teams.map Team.unfaulted := by
    simp only [State.modFibre, State.modTeam, List.map_map]
    refine List.map_congr_left fun t _ => ?_
    simp only [Function.comp]
    split
    · simp only [Team.unfaulted, Team.modFibre, List.map_map]
      congr 1
      refine List.map_congr_left fun f _ => ?_
      simp only [Function.comp]
      split
      · exact hg f
      · rfl
    · rfl
  exact congrArg (fun ts => { s.besideBytes with teams := ts, parts := [], regs := [], msgs := [], eseqs := [] }) teams
theorem supervisorEvent_gather (s : State) (l : Lane) (p : Nat) (e : Event) :
    (s.modFibre l Fibre.atCollective).supervisorEvent p e = (s.supervisorEvent p e).modFibre l Fibre.atCollective := by
  unfold State.supervisorEvent State.logEvent
  split <;> rfl
theorem supervisorEvent_besideCaches (s : State) (p : Nat) (e : Event) : (s.supervisorEvent p e).besideCaches = s.besideCaches := by
  unfold State.supervisorEvent State.logEvent
  split <;> rfl

/-! What a discarded store takes with it (R198). -/

/-- The entries discarded with a store, in program order. -/
def State.lostEntries (s : State) (e : WEntry) : List WEntry :=
  (s.lostWith e.core e.sp s.regs.length [e]).foldl (fun acc x => insertEntry x acc) []
/-- The other writers of the owned bytes that go with some entries' words. -/
def lostWriters (e : WEntry) (es : List WEntry) (l1 : List CByte) : List Writer :=
  ((l1.filter (fun b => (b.sp = e.sp && (entryWords es).contains (wordOf b.ia)) && b.isOwned)).flatMap (·.wr)).foldl (fun (acc : List Writer) w =>
    if acc.contains w || es.any (fun x => x.tid = w.tid && x.fid = w.fid && x.va = w.va) then acc else acc ++ [w]) []
/-- The fault of a discarded entry recorded. -/
def State.recordEntry (s : State) (x : WEntry) : State :=
  if x.cmd.isSome then s.recordEngineFault x.tid x.fid x.part x.va else s.recordStoreFault x.tid x.fid x.part x.va
/-- The fault of a writer whose bytes are discarded recorded. -/
def State.recordWriter (s : State) (w : Writer) : State :=
  if w.cmd then s.recordEngineFault w.tid w.fid w.part w.va else s.recordStoreFault w.tid w.fid w.part w.va
/-- The words and the registrations of some entries gone. -/
def State.dropEntries (s : State) (e : WEntry) (es : List WEntry) : State :=
  let s := s.modCore e.core (fun c => { c with l1 := c.l1.filter (fun b => !(b.sp = e.sp && (entryWords es).contains (wordOf b.ia))) })
  { s with regs := s.regs.filter (fun r => !es.any (fun x => x.id = r.entry.id)) }

theorem State.discard_eq (s : State) (e : WEntry) : s.discard e =
    (lostWriters e (s.lostEntries e) (s.coreAt e.core).l1).foldl State.recordWriter
      ((s.lostEntries e).foldl State.recordEntry (s.dropEntries e (s.lostEntries e))) := rfl
theorem lostWith_withTeams (s : State) (ts : List Team) (core sp n : Nat) (es : List WEntry) :
    (s.withTeams ts).lostWith core sp n es = s.lostWith core sp n es := by
  induction n generalizing es with
  | zero => rfl
  | succ n ih => simp only [State.lostWith, ih]; rfl
theorem lostEntries_blind (e : WEntry) : Blind (fun s => s.lostEntries e) := fun s ts => by
  simp only [State.lostEntries, lostWith_withTeams]
  rfl
theorem pageCheck_withTeams (s : State) (ts : List Team) (part : Nat) (level : Level) (k : Option Acc) (ia : Nat) :
    (s.withTeams ts).pageCheck part level k ia = s.pageCheck part level k ia := by
  unfold State.pageCheck
  have home : (s.withTeams ts).homePart part ia = s.homePart part ia := rfl
  simp only [home, lookup_withTeams]
  rfl
theorem backCheck_blind (b : CByte) : Blind (fun s => s.backCheck b) := fun s ts => by
  simp only [State.backCheck, pageCheck_withTeams, sysKey_withTeams]

/-! A message's and a byte's way up. -/

/-- A message queued on its channel, once its flit is kept. -/
def State.post (s : State) (src dst : Nat) (op : MsgOp) : State :=
  let key := 256 * src + dst
  let n := lookupD 0 key s.eseqs
  { s with
    seq := s.seq + 1
    eseqs := insertAt key ((n + 1) % 2 ^ 32) s.eseqs
    msgs := s.msgs ++ [{ id := s.seq, src := src, dst := dst, eseq := n, epoch := (s.pkgAt src).fepoch, op := op, sentAt := s.now }] }
/-- An owned byte of an L1 sent up, parked or discarded, as its page says (R198, R289, R363). -/
def State.sendUp (t : State) (ck : Nat) (b : CByte) : State :=
  if !((t.coreAt ck).l1.contains b) then t
  else match t.backCheck b with
  | .place _ => if b.pt = .core && t.replayDue b.sp b.ia t.seq then t.parkWord ck b false
      else (t.backL1 ck b).touchPage ((b.wr.head?.map (·.part)).getD b.sp) b.ia
  | .absent => t.parkWord ck b true
  | .held => t.parkWord ck b false
  | .fail _ => t.discard (b.asEntry t.seq ck b.ia [b.val] .core)

theorem State.send_eq (s : State) (a b : Nat) (op : MsgOp) : s.send a b op = (s.keepFlit a b s.seq).post a b op := by
  have kept : ∃ f, s.keepFlit a b s.seq = s.modPkg a f ∨ s.keepFlit a b s.seq = s := by
    unfold State.keepFlit
    split
    · exact ⟨fun p => p, .inr rfl⟩
    · split
      · exact ⟨fun p => p, .inr rfl⟩
      · exact ⟨_, .inl rfl⟩
  obtain ⟨f, kept | kept⟩ := kept <;> rw [State.send, kept] <;> rfl

/-- The line that leaves an L1 for another, none where there is a way free (R31). -/
def State.roomL1 (s : State) (core sp ia : Nat) (ev : Evict) (store : Bool) : Option CLine :=
  let c := s.coreAt core
  if !c.l1Lines.any (fun x => x.sp = sp && x.line = ia / 128) then
    victim ((liveLines c.l1Lines c.l1).filter (fun x => x.line % 256 = ia / 128 % 256 && !(x.sp = sp && x.line = ia / 128))) 8 ev store
  else none
/-- The line that leaves a slice for another, none where there is a way free (R386). -/
def State.roomSlice (s : State) (p sp ia : Nat) (ev : Evict) : Option CLine :=
  let k := s.pkgAt p
  if !k.llcLines.any (fun x => x.sp = sp && x.line = ia / 128) && 16 ≤ k.llcLines.length then
    victim ((liveLines k.llcLines k.llc).filter (fun x => s.llcSet p x.sp x.line = s.llcSet p sp (ia / 128))) 16 ev true
  else none

theorem State.useL1_eq (s : State) (core sp ia : Nat) (ev : Evict) (store : Bool) : s.useL1 core sp ia ev store =
    (match s.roomL1 core sp ia ev store with | some x => s.evictL1 core x | none => s).modCore core (fun c =>
      { c with l1Lines := useLines c.l1Lines sp (ia / 128) ev store }) := rfl
theorem State.useSlice_eq (s : State) (p sp ia : Nat) (ev : Evict) : s.useSlice p sp ia ev =
    (match s.roomSlice p sp ia ev with | some x => s.evictSlice p x | none => s).modPkg p (fun k =>
      { k with llcLines := useLines (if !(s.pkgAt p).llcLines.any (fun x => x.sp = sp && x.line = ia / 128) then liveLines k.llcLines k.llc
        else k.llcLines) sp (ia / 128) ev true }) := rfl

/-! What a fill brings. -/

/-- The line of a byte is to come whole from a memory-side cache (R287). -/
def State.farWhole (s : State) (h sp ia : Nat) (own : Bool) (k : Nat) : Bool :=
  farKey h k && !own && (List.range 128).all (fun i => (findByte s.memCache sp (ia / 128 * 128 + i)).isSome)
/-- The valid bytes that a fill of a line brings to its home's slice (R289). -/
def State.lineFill (s : State) (h sp ia : Nat) (own : Bool) (k : Nat) : List CByte :=
  let base := ia / 128 * 128
  let v := s.seq
  let held := fun (i : Nat) => findByte s.memCache sp (base + i)
  let whole := farKey h k && !own && (List.range 128).all (fun i => (held i).isSome)
  let busy := s.ownedBelow h sp base ++ ((s.pkgAt h).llc.filter (fun b => b.within sp base 128 && b.st = .owned)).map (·.ia)
  (List.range 128).filterMap (fun i =>
    if busy.contains (base + i) || s.poison.contains ((k + i) / 4) then none
    else
      let val := match whole, held i with | true, some b => b.val | _, _ => Memory.byte s.mem (k + i)
      some ({ sp := sp, ia := base + i, st := .valid, val := val, filled := s.now, ver := v } : CByte))
/-- The memory-side cache of a switch keeps the line that passes it. -/
def State.memFill (s : State) (h sp ia : Nat) (own : Bool) (k : Nat) (new : List CByte) : State :=
  { s with seq := s.seq + 1
           memCache := if farKey h k && !s.farWhole h sp ia own k then new ++ dropCopies s.memCache sp (ia / 128 * 128) 128 else s.memCache }
/-- A fill from a place of memory. -/
def State.fillFrom (s : State) (h sp ia : Nat) (own : Bool) (k : Nat) : State :=
  ((s.memFill h sp ia own k (s.lineFill h sp ia own k)).hbmNote sp (ia / 128 * 128) false).modPkg h (fun p =>
    { p with llc := s.lineFill h sp ia own k ++ dropCopies p.llc sp (ia / 128 * 128) 128 })
/-- The bytes of a range that a slice holds. -/
def State.held (s : State) (p sp ia n : Nat) : List CByte := (List.range n).filterMap (fun i => findByte (s.pkgAt p).llc sp (ia + i))
/-- Filled bytes kept in an L1 under a number, where the EVICT code keeps them there (R196, R289). -/
def State.keepL1 (s : State) (core sp ia : Nat) (ev : Evict) (bs : List CByte) (n : Nat) : State :=
  let v := match bs.find? (fun b => b.st ≠ .owned) with | some b => b.ver | none => n
  let out := ev = .llc || ev = .stream || ev = .last
  s.modCore core (fun c =>
    let l := dropCopies c.l1 sp ia bs.length
    { c with l1 := if out then l else
        ((bs.filter (fun b => (findByte l sp b.ia).isNone)).map (fun b => ({ sp := sp, ia := b.ia, st := .valid, val := b.val, filled := s.now, ver := v } : CByte))) ++ l })

theorem State.fillHome_eq (s : State) (h sp ia : Nat) (own : Bool) (k : Nat) (hk : s.sysKey sp (ia / 128 * 128) = some k) :
    s.fillHome h sp ia own = s.fillFrom h sp ia own k := by
  simp only [State.fillHome, hk]
  rfl

/-! The parts of a read step and of a write-back. -/

/-- The bytes of a range that a reader's own entries do not give (R291). -/
def needed (rd : Reader) (ia n : Nat) : List Nat := (List.range n).filter (fun i => (rd.own (ia + i)).isNone)
/-- The L1 gives a reader all that it needs, as one copy (R200, R291, R292). -/
def State.l1Gives (s : State) (core : Nat) (rd : Reader) (sp ia n : Nat) : Bool :=
  let copies := (needed rd ia n).filterMap (fun i => findByte (s.coreAt core).l1 sp (ia + i))
  copies.length = (needed rd ia n).length && coherent copies && copies.all (fun b => b.isOwned || decide (rd.floor b.ia ≤ b.ver))
/-- The bytes of a range as a reader and an L1 give them. -/
def State.l1Bytes (s : State) (core : Nat) (rd : Reader) (sp ia n : Nat) : List Byte :=
  (List.range n).map (fun i => (rd.own (ia + i)).getD (((findByte (s.coreAt core).l1 sp (ia + i)).map (·.val)).getD 0))
/-- The bytes of a range as a reader, an L1's owned bytes and the slice give them. -/
def State.filled (t : State) (core : Nat) (rd : Reader) (sp ia : Nat) (cs : List CByte) : List Byte :=
  cs.zipIdx.map (fun c => (rd.own (ia + c.2)).getD
    (match (findByte (t.coreAt core).l1 sp (ia + c.2)).filter CByte.isOwned with | some b => b.val | none => c.1.val))
/-- A read step that the L1 gives. -/
def State.takeL1 (s : State) (core : Nat) (rd : Reader) (sp ia : Nat) (pt : Point) (ev : Evict) (n : Nat) : State × Option (List Byte) :=
  let t := if (needed rd ia n).isEmpty then s else (s.useL1 core sp ia ev false).dropLast core sp ia ev
  ((if (ev = .llc || ev = .stream) && pt.wide && homePkg ia ≠ corePkg core then t.placeLine core sp ia n ev else t), some (s.l1Bytes core rd sp ia n))
/-- A read step from a slice to which its bytes have been brought. -/
def State.takeSlice (t : State) (core : Nat) (rd : Reader) (sp ia : Nat) (pt : Point) (ev : Evict) (n : Nat) : State × Option (List Byte) :=
  match t.sliceBytes (corePkg core) sp ia n pt rd.floor with
  | none => (t, none)
  | some cs => ((t.keepBytes core sp ia ev cs).dropLast core sp ia ev, some (t.filled core rd sp ia cs))
/-- A read step by a fill. -/
def State.takeFill (s : State) (core : Nat) (rd : Reader) (sp ia : Nat) (pt : Point) (ev : Evict) (n : Nat) : State × Option (List Byte) :=
  (s.bring (corePkg core) sp ia n pt).takeSlice core rd sp ia pt ev n
/-- One line's part of a read step that goes over several (R201). -/
def takePiece (core : Nat) (rd : Reader) (sp : Nat) (pt : Point) (ev : Evict) (acc : State × Option (List Byte)) (x : Nat × Nat) :
    State × Option (List Byte) :=
  let r := acc.1.takeLine core rd sp x.1 pt ev x.2
  (r.1, match acc.2, r.2 with | some a, some b => some (a ++ b) | _, _ => none)
/-- An owned byte of an L1 written back toward a point (R218). -/
def State.raiseL1 (s : State) (core sp ia : Nat) (pt : Point) : State :=
  match findByte (s.coreAt core).l1 sp ia with
  | some b => if b.isOwned && pt ≠ .core then s.writeBackWord (corePkg core) (core % Config.coresPerPkg) ia else s
  | none => s
/-- An owned byte of a slice written back toward a wide point (R218). -/
def State.raiseSlice (s : State) (p sp ia : Nat) (pt : Point) : State :=
  match findByte (s.pkgAt p).llc sp ia with
  | some b =>
    if b.isOwned && pt.wide then (if homePkg ia ≠ p then s.backPeer p b else if !b.pt.wide then s.backHome p b else s) else s
  | none => s

theorem State.takeLine_eq (s : State) (core : Nat) (rd : Reader) (sp ia : Nat) (pt : Point) (ev : Evict) (n : Nat) :
    s.takeLine core rd sp ia pt ev n =
      if s.l1Gives core rd sp ia n then s.takeL1 core rd sp ia pt ev n else s.takeFill core rd sp ia pt ev n := rfl

/-- A step of the caches: it leaves what is beside them, and comes to the same once a lane has been gathered as before. -/
structure Settles (f : State → State) : Prop where
  rest : ∀ s, (f s).besideCaches = s.besideCaches
  gathers : ∀ (s : State) (l : Lane), f (s.modFibre l Fibre.atCollective) = (f s).modFibre l Fibre.atCollective

namespace Settles

variable {f g : State → State}

theorem id : Settles (fun s => s) := ⟨fun _ => rfl, fun _ _ => rfl⟩
theorem comp (hg : Settles g) (hf : Settles f) : Settles (fun s => g (f s)) where
  rest s := (hg.rest (f s)).trans (hf.rest s)
  gathers s l := (congrArg g (hf.gathers s l)).trans (hg.gathers (f s) l)
theorem foldl {α : Type} {f : State → α → State} (hf : ∀ x, Settles (fun s => f s x)) (l : List α) : Settles (fun s => l.foldl f s) where
  rest s := by
    induction l generalizing s with
    | nil => rfl
    | cons x r ih => exact (ih (f s x)).trans ((hf x).rest s)
  gathers s k := by
    induction l generalizing s with
    | nil => rfl
    | cons x r ih => exact (congrArg (fun u => r.foldl f u) ((hf x).gathers s k)).trans (ih (f s x))
/-- A step that goes by a reading which no team has a part in, for each value of the reading. -/
theorem reading {α : Type} {a : State → α} (ha : Blind a) (hf : ∀ x, ∃ g, Settles g ∧ ∀ s, a s = x → f s = g s) : Settles f where
  rest s := by
    obtain ⟨g, hg, same⟩ := hf (a s)
    rw [same s rfl]
    exact hg.rest s
  gathers s l := by
    obtain ⟨g, hg, same⟩ := hf (a s)
    rw [same s rfl, same (s.modFibre l Fibre.atCollective) (ha s _)]
    exact hg.gathers s l
theorem ite {c : State → Prop} [∀ s, Decidable (c s)] (hc : ∀ s ts, c (s.withTeams ts) = c s) (hf : Settles f) (hg : Settles g) :
    Settles (fun s => if c s then f s else g s) := by
  refine reading (a := c) hc (fun x => ?_)
  by_cases hx : x
  · exact ⟨f, hf, fun s h => if_pos (h ▸ hx)⟩
  · exact ⟨g, hg, fun s h => if_neg (h ▸ hx)⟩
theorem when {c : Prop} [Decidable c] (hf : Settles f) (hg : Settles g) : Settles (fun s => if c then f s else g s) :=
  ite (c := fun _ => c) (fun _ _ => rfl) hf hg
/-- A step that moves bytes and does not look at the teams. -/
theorem moving (hm : ∀ s, State.MovesBytes s (f s)) (hb : TeamBlind f) : Settles f where
  rest s := by
    have rest := (hm s).rest
    simp only [State.besideCaches, rest, (hm s).teams]
  gathers s l := by
    refine (hb s _).trans ?_
    rw [State.modFibre, State.modTeam, (hm s).teams]
    rfl
theorem backHome (p : Nat) (b : CByte) : Settles (fun s => s.backHome p b) := moving (fun s => .backHome s p b) (.backHome p b)
theorem drawIn (p sp ia : Nat) : Settles (fun s => s.drawIn p sp ia) := moving (fun s => .drawIn s p sp ia) (.drawIn p sp ia)
theorem flushSys (sp ia : Nat) : Settles (fun s => s.flushSys sp ia) := moving (fun s => .flushSys s sp ia) (.flushSys sp ia)
theorem touchPage (part ia : Nat) : Settles (fun s => s.touchPage part ia) := moving (fun s => .touchPage s part ia) (.touchPage part ia)
theorem hbmNote (sp ia : Nat) (w : Bool) : Settles (fun s => s.hbmNote sp ia w) := moving (fun s => .hbmNote s sp ia w) (.hbmNote sp ia w)
theorem writePhys (k : Nat) (bs : List Byte) : Settles (fun s => s.writePhys k bs) := moving (fun s => .writePhys s k bs) (.writePhys k bs)
theorem updateEntry (k : Nat) (g : Nat → Nat) : Settles (fun s => s.updateEntry k g) := moving (fun s => .updateEntry s k g) (.updateEntry k g)
theorem modPkg (p : Nat) (f : Pkg → Pkg) : Settles (fun s => s.modPkg p f) := ⟨fun _ => rfl, fun _ _ => rfl⟩
theorem modCore (c : Nat) (f : Core → Core) : Settles (fun s => s.modCore c f) := ⟨fun _ => rfl, fun _ _ => rfl⟩

theorem pageRequest (sp ia kind core : Nat) : Settles (fun s => s.pageRequest sp ia kind core) := by
  refine reading (a := fun s => ((s.partAt sp).prqbase.toNat % 2 ^ 52 / 4096 * 4096, s.mem)) (fun _ _ => rfl) (fun x => ?_)
  by_cases hx : x.1 = 0
  · refine ⟨_, id, fun s h => ?_⟩
    subst h
    exact if_pos hx
  · refine ⟨_, (updateEntry (physKey 1 (sp / 96) (x.1 + 4096)) (· + 1)).comp (writePhys (physKey 1 (sp / 96)
      (x.1 + 16 * (ofBytes (Memory.read x.2 (physKey 1 (sp / 96) (x.1 + 4096)) 8) % 256)))
      (toBytes 8 (ia % 2 ^ 60 / 65536 * 65536 + kind * 2 ^ 60) ++ toBytes 8 core)), fun s h => ?_⟩
    subst h
    exact if_neg hx
theorem parkReg (e : WEntry) (absent : Bool) : Settles (fun s => s.parkReg e absent) := by
  refine reading (a := fun s => s.parkedOn e.sp (pageOf e.ia)) (fun _ _ => rfl) (fun x => ?_)
  have parked : Settles (fun s : State =>
    { s with regs := s.regs.map (fun r => if r.entry.id = e.id && r.parked.isNone then { r with parked := some s.now } else r) }) :=
    ⟨fun _ => rfl, fun _ _ => rfl⟩
  refine ⟨_, when (c := (!x && absent) = true) ((pageRequest e.sp e.ia (if e.cmd.isSome then 1 else 0)
    (e.core % Config.coresPerPkg)).comp parked) parked, fun s h => ?_⟩
  subst h
  rfl
theorem parkWord (ck : Nat) (b : CByte) (absent : Bool) : Settles (fun s => s.parkWord ck b absent) := by
  refine ite (fun _ _ => rfl) id ?_
  refine reading (a := State.seq) (fun _ _ => rfl) (fun n => ?_)
  have queued : Settles (fun s : State =>
    { s with seq := s.seq + 1, regs := s.regs ++ [{ entry := b.asEntry n ck (wordOf b.ia) [0, 0, 0, 0] .package }] }) :=
    ⟨fun _ => rfl, fun _ _ => rfl⟩
  refine ⟨_, (parkReg (b.asEntry n ck (wordOf b.ia) [0, 0, 0, 0] .package) absent).comp queued, fun s h => ?_⟩
  subst h
  rfl

theorem recordStoreFault (tid fid part : Nat) (va : Dword) : Settles (fun s => s.recordStoreFault tid fid part va) where
  rest s := by
    rw [State.recordStoreFault_eq]
    split
    · exact State.modFibre_unfaulted s _ _ (Fibre.storeFails_unfaulted va)
    · exact supervisorEvent_besideCaches s _ _
  gathers s l := by
    simp only [State.recordStoreFault_eq, State.fibre?_gather_isSome, State.event_gather]
    split
    · exact (State.modFibre_comm s _ _ _ Fibre.atCollective (Fibre.storeFails_fid va) (fun _ => rfl) (Fibre.storeFails_atCollective va)).symm
    · exact supervisorEvent_gather s l _ _
theorem recordEngineFault (tid fid part : Nat) (v : Dword) : Settles (fun s => s.recordEngineFault tid fid part v) where
  rest s := by
    rw [State.recordEngineFault_eq]
    split
    · exact State.modFibre_unfaulted s _ _ (Fibre.engineFails_unfaulted v)
    · exact supervisorEvent_besideCaches s _ _
  gathers s l := by
    simp only [State.recordEngineFault_eq, State.fibre?_gather_isSome, State.event_gather]
    split
    · exact (State.modFibre_comm s _ _ _ Fibre.atCollective (Fibre.engineFails_fid v) (fun _ => rfl) (Fibre.engineFails_atCollective v)).symm
    · exact supervisorEvent_gather s l _ _
theorem discard (e : WEntry) : Settles (fun s => s.discard e) := by
  refine reading (a := fun s => (s.lostEntries e, (s.coreAt e.core).l1))
    (fun s ts => Prod.ext (lostEntries_blind e s ts) rfl) (fun x => ?_)
  have entry (x : WEntry) : Settles (fun s => s.recordEntry x) := when (recordEngineFault ..) (recordStoreFault ..)
  have writer (w : Writer) : Settles (fun s => s.recordWriter w) := when (recordEngineFault ..) (recordStoreFault ..)
  have dropped : Settles (fun s => s.dropEntries e x.1) := ⟨fun _ => rfl, fun _ _ => rfl⟩
  refine ⟨_, (foldl writer (lostWriters e x.1 x.2)).comp ((foldl entry x.1).comp dropped), fun s h => ?_⟩
  subst h
  exact s.discard_eq e

/-! Bytes and lines that go up (R289). -/

theorem backL1 (core : Nat) (b : CByte) : Settles (fun s => s.backL1 core b) := ⟨fun _ => rfl, fun _ _ => rfl⟩
theorem backPeer (p : Nat) (b : CByte) : Settles (fun s => s.backPeer p b) := ⟨fun _ => rfl, fun _ _ => rfl⟩
theorem keepFlit (a b i : Nat) : Settles (fun s => s.keepFlit a b i) where
  rest s := by
    unfold State.keepFlit
    split
    · rfl
    · split <;> rfl
  gathers s l := by
    have same (p : Nat) : (s.modFibre l Fibre.atCollective).pkgAt p = s.pkgAt p := rfl
    unfold State.keepFlit
    simp only [same]
    split
    · rfl
    · split <;> rfl
theorem send (a b : Nat) (op : MsgOp) : Settles (fun s => s.send a b op) := by
  refine reading (a := State.seq) (fun _ _ => rfl) (fun n => ?_)
  have posted : Settles (fun s => s.post a b op) := ⟨fun _ => rfl, fun _ _ => rfl⟩
  refine ⟨_, posted.comp (keepFlit a b n), fun s h => ?_⟩
  subst h
  exact s.send_eq a b op
/-- One word's owned bytes sent up, from an L1 or from a slice. -/
theorem writeBackWord (p core ia : Nat) : Settles (fun s => s.writeBackWord p core ia) := by
  have up (ck : Nat) (b : CByte) : Settles (fun s => s.sendUp ck b) := by
    refine ite (fun _ _ => rfl) id (reading (backCheck_blind b) (fun r => ?_))
    cases r with
    | place k =>
      refine ⟨_, ite (c := fun s => (b.pt = .core && s.replayDue b.sp b.ia s.seq) = true) (fun _ _ => rfl) (parkWord ck b false)
        ((touchPage ((b.wr.head?.map (·.part)).getD b.sp) b.ia).comp (backL1 ck b)), fun s h => ?_⟩
      simp only [h]
    | absent => exact ⟨_, parkWord ck b true, fun s h => by simp only [h]⟩
    | held => exact ⟨_, parkWord ck b false, fun s h => by simp only [h]⟩
    | fail c =>
      refine ⟨_, reading (a := State.seq) (f := fun s => s.discard (b.asEntry s.seq ck b.ia [b.val] .core)) (fun _ _ => rfl)
        (fun n => ⟨_, discard (b.asEntry n ck b.ia [b.val] .core), fun s h => by rw [h]⟩), fun s h => ?_⟩
      simp only [h]
  refine reading (a := fun s => (((s.coreAt (Config.coresPerPkg * p + core)).l1.filter (fun c => c.isOwned && wordOf c.ia = wordOf ia)),
    (s.pkgAt p).llc.filter (fun c => c.isOwned && wordOf c.ia = wordOf ia))) (fun _ _ => rfl) (fun x => ?_)
  by_cases hc : core < Config.coresPerPkg
  · refine ⟨_, foldl (fun b => up (Config.coresPerPkg * p + core) b) x.1, fun s h => ?_⟩
    subst h
    exact if_pos hc
  · cases hx : x.2 with
    | nil =>
      refine ⟨_, id, fun s h => ?_⟩
      subst h
      dsimp only at hx
      simp only [State.writeBackWord, if_neg hc, hx]
    | cons b r =>
      refine ⟨_, when (c := homePkg ia = p) (foldl (fun b => backHome p b) x.2) (ite (c := fun s => s.msgs.any (fun m => m.src = p &&
        (match m.op with | .wb sp a _ => sp = b.sp && wordOf a = wordOf ia | _ => false)) = true) (fun _ _ => rfl) id
        (send p (homePkg ia) (.wb b.sp ia x.2))), fun s h => ?_⟩
      subst h
      dsimp only at hx
      simp only [State.writeBackWord, if_neg hc, hx] <;> rfl

/-! Lines that make room (R31, R196, R386). -/

theorem evictL1 (core : Nat) (x : CLine) : Settles (fun s => s.evictL1 core x) := by
  refine reading (a := fun s => State.evictL1.dedupWords
    (((s.coreAt core).l1.filter (fun b => b.within x.sp (128 * x.line) 128 && b.isOwned)).map (fun b => wordOf b.ia)))
    (fun _ _ => rfl) (fun ws => ?_)
  refine ⟨_, (modCore core (fun c => { c with
    l1 := dropCopies c.l1 x.sp (128 * x.line) 128
    l1Lines := liveLines c.l1Lines (dropCopies c.l1 x.sp (128 * x.line) 128) })).comp
      (foldl (fun w => writeBackWord (corePkg core) (core % Config.coresPerPkg) w) ws), fun s h => ?_⟩
  subst h
  rfl
theorem useL1 (core sp ia : Nat) (ev : Evict) (store : Bool) : Settles (fun s => s.useL1 core sp ia ev store) := by
  refine reading (a := fun s => s.roomL1 core sp ia ev store) (fun _ _ => rfl) (fun x => ?_)
  have used := modCore core (fun c => { c with l1Lines := useLines c.l1Lines sp (ia / 128) ev store })
  cases x with
  | none => exact ⟨_, used, fun s h => by rw [State.useL1_eq, h]⟩
  | some x => exact ⟨_, used.comp (evictL1 core x), fun s h => by rw [State.useL1_eq, h]⟩
theorem dropLast (core sp ia : Nat) (ev : Evict) : Settles (fun s => s.dropLast core sp ia ev) := when (evictL1 core _) id
theorem evictSlice (p : Nat) (x : CLine) : Settles (fun s => s.evictSlice p x) := by
  refine reading (a := fun s => (s.pkgAt p).llc.filter (fun b => b.within x.sp (128 * x.line) 128 && b.isOwned))
    (fun _ _ => rfl) (fun bs => ?_)
  refine ⟨_, (modPkg p (fun k => { k with llc := dropCopies k.llc x.sp (128 * x.line) 128 })).comp
    (when (c := homePkg (128 * x.line) = p) (foldl (fun b => backHome p { b with pt := .pod }) bs)
      (foldl (fun b => writeBackWord p 384 b.ia) bs)), fun s h => ?_⟩
  subst h
  rfl
theorem useSlice (p sp ia : Nat) (ev : Evict) : Settles (fun s => s.useSlice p sp ia ev) := by
  refine reading (a := fun s => (s.roomSlice p sp ia ev, (s.pkgAt p).llcLines.any (fun x => x.sp = sp && x.line = ia / 128)))
    (fun _ _ => rfl) (fun x => ?_)
  have used := modPkg p (fun k =>
    { k with llcLines := useLines (if !x.2 then liveLines k.llcLines k.llc else k.llcLines) sp (ia / 128) ev true })
  obtain ⟨room, here⟩ := x
  cases room with
  | none =>
    refine ⟨_, used, fun s h => ?_⟩
    obtain ⟨hr, hh⟩ := Prod.ext_iff.mp h
    dsimp only at hr hh
    rw [State.useSlice_eq, hr, hh]
  | some x =>
    refine ⟨_, used.comp (evictSlice p x), fun s h => ?_⟩
    obtain ⟨hr, hh⟩ := Prod.ext_iff.mp h
    dsimp only at hr hh
    rw [State.useSlice_eq, hr, hh]
theorem endIngress (p sp ia n : Nat) : Settles (fun s => s.endIngress p sp ia n) := ite (fun _ _ => rfl) (modPkg p _) id
theorem placeLine (core sp ia n : Nat) (ev : Evict) : Settles (fun s => s.placeLine core sp ia n ev) := ⟨fun _ => rfl, fun _ _ => rfl⟩

/-! Fills and reads (R289, R291, R200). -/

theorem fillHome (h sp ia : Nat) (own : Bool) : Settles (fun s => s.fillHome h sp ia own) := by
  refine reading (a := fun s => s.sysKey sp (ia / 128 * 128)) (fun s ts => sysKey_withTeams s ts ..) (fun k => ?_)
  cases k with
  | none => exact ⟨_, id, fun s h => by simp only [State.fillHome, h]⟩
  | some k =>
    refine ⟨_, reading (a := fun s => s.lineFill h sp ia own k) (f := fun s => s.fillFrom h sp ia own k) (fun _ _ => rfl) (fun new => ?_),
      fun s hk => s.fillHome_eq h sp ia own k hk⟩
    have kept : Settles (fun s => s.memFill h sp ia own k new) := ⟨fun _ => rfl, fun _ _ => rfl⟩
    refine ⟨_, (modPkg h (fun p => { p with llc := new ++ dropCopies p.llc sp (ia / 128 * 128) 128 })).comp
      ((hbmNote sp (ia / 128 * 128) false).comp kept), fun s h => ?_⟩
    subst h
    rfl
theorem bring (p sp ia n : Nat) (pt : Point) : Settles (fun s => s.bring p sp ia n pt) := by
  have drawn := foldl (fun i => drawIn p sp (ia + i)) (List.range n)
  by_cases hp : homePkg ia ≠ p
  · exact reading (a := fun _ => ()) (fun _ _ => rfl) (fun _ => ⟨_, drawn, fun s _ => if_pos hp⟩)
  have flushed := (endIngress p sp ia 1).comp (when (c := pt = .system) (foldl (fun i => flushSys sp (ia + i)) (List.range n)) id)
  have filled := (useSlice p sp ia .default).comp (fillHome p sp ia (pt = .system))
  have last := ite (c := fun s => (pt = .system || (s.held p sp ia n).length < n || !coherent (s.held p sp ia n)) = true)
    (fun _ _ => rfl) filled id
  exact reading (a := fun _ => ()) (fun _ _ => rfl) (fun _ => ⟨_, last.comp (flushed.comp drawn), fun s _ => if_neg hp⟩)
theorem keepBytes (core sp ia : Nat) (ev : Evict) (bs : List CByte) : Settles (fun s => s.keepBytes core sp ia ev bs) := by
  refine reading (a := State.seq) (fun _ _ => rfl) (fun n => ?_)
  have numbered : Settles (fun s : State => { s with seq := s.seq + 1 }) := ⟨fun _ => rfl, fun _ _ => rfl⟩
  have kept : Settles (fun s => s.keepL1 core sp ia ev bs n) := ⟨fun _ => rfl, fun _ _ => rfl⟩
  refine ⟨_, (when (c := (ev = .stream && homePkg ia ≠ corePkg core) = true)
    (modPkg (corePkg core) (fun k => { k with llc := dropCopies k.llc sp ia bs.length }))
    (when (c := ev = .last) (modPkg (corePkg core) (fun k => { k with llcLines := useLines k.llcLines sp (ia / 128) .last false })) id)).comp
      (kept.comp ((when (c := (ev = .llc || ev = .stream || ev = .last : Bool)) id (useL1 core sp ia ev false)).comp numbered)), fun s h => ?_⟩
  subst h
  rfl
theorem raiseByte (core sp ia : Nat) (pt : Point) : Settles (fun s => s.raiseByte core sp ia pt) := by
  have first : Settles (fun s => s.raiseL1 core sp ia pt) := by
    refine reading (a := fun s => findByte (s.coreAt core).l1 sp ia) (fun _ _ => rfl) (fun x => ?_)
    cases x with
    | none => exact ⟨_, id, fun s h => by simp only [State.raiseL1, h]⟩
    | some b =>
      exact ⟨_, when (c := (b.isOwned && pt ≠ .core) = true) (writeBackWord (corePkg core) (core % Config.coresPerPkg) ia) id,
        fun s h => by simp only [State.raiseL1, h]⟩
  have second : Settles (fun s => s.raiseSlice (corePkg core) sp ia pt) := by
    refine reading (a := fun s => findByte (s.pkgAt (corePkg core)).llc sp ia) (fun _ _ => rfl) (fun x => ?_)
    cases x with
    | none => exact ⟨_, id, fun s h => by simp only [State.raiseSlice, h]⟩
    | some b =>
      exact ⟨_, when (c := (b.isOwned && pt.wide) = true) (when (c := homePkg ia ≠ corePkg core) (backPeer (corePkg core) b)
        (when (c := (!b.pt.wide) = true) (backHome (corePkg core) b) id)) id, fun s h => by simp only [State.raiseSlice, h]⟩
  exact (when (c := pt = .system) ((flushSys sp ia).comp (drawIn (homePkg ia) sp ia)) id).comp (second.comp first)
theorem cwbWrite (core : Nat) (pt : Point) (ev : Evict) (runs : List (Nat × Nat × Nat)) : Settles (fun s => s.cwbWrite core pt ev runs) := by
  refine foldl (fun x => ?_) runs
  have raised : Settles (fun s => (s.ownedIn core x.1 pt x.2).foldl (fun u b => u.raiseByte core b.1 b.2 pt) s) :=
    reading (a := fun s => s.ownedIn core x.1 pt x.2) (fun _ _ => rfl)
      (fun bs => ⟨_, foldl (fun b => raiseByte core b.1 b.2 pt) bs, fun s h => by rw [h]⟩)
  have written := ite (c := fun s => s.sysKey x.1 x.2.1 = none) (fun s ts => by rw [sysKey_withTeams]) id raised
  have placed (ps : List (Nat × Nat)) : Settles (fun s => ps.foldl (fun u y => u.placeLine core x.1 y.1 y.2 ev) s) := by
    refine foldl ?_ ps
    exact fun y => placeLine core x.1 y.1 y.2 ev
  exact (when (c := (ev = .default || ev = .ro) = true) id (placed _)).comp written

end Settles

/-! Reading through the caches (R200, R291). -/

/-- A step of the caches that answers: it settles, and its answer does not hang on lanes gathered before. -/
structure Reads {α : Type} (f : State → State × α) : Prop where
  rest : ∀ s, (f s).1.besideCaches = s.besideCaches
  gathers : ∀ (s : State) (l : Lane), f (s.modFibre l Fibre.atCollective) = ((f s).1.modFibre l Fibre.atCollective, (f s).2)

namespace Reads

variable {α : Type}

theorem pair {f : State → State} {a : State → α} (hf : Settles f) (ha : Blind a) : Reads (fun s => (f s, a s)) :=
  ⟨hf.rest, fun s l => Prod.ext (hf.gathers s l) (ha s _)⟩
theorem after {f : State → State × α} {g : State → State} (hf : Reads f) (hg : Settles g) : Reads (fun s => f (g s)) where
  rest s := (hf.rest (g s)).trans (hg.rest s)
  gathers s l := (congrArg f (hg.gathers s l)).trans (hf.gathers (g s) l)
theorem reading {β : Type} {f : State → State × α} {a : State → β} (ha : Blind a)
    (hf : ∀ x, ∃ g, Reads g ∧ ∀ s, a s = x → f s = g s) : Reads f where
  rest s := by
    obtain ⟨g, hg, same⟩ := hf (a s)
    rw [same s rfl]
    exact hg.rest s
  gathers s l := by
    obtain ⟨g, hg, same⟩ := hf (a s)
    rw [same s rfl, same (s.modFibre l Fibre.atCollective) (ha s _)]
    exact hg.gathers s l
theorem ite {c : State → Prop} [∀ s, Decidable (c s)] {f g : State → State × α} (hc : ∀ s ts, c (s.withTeams ts) = c s) (hf : Reads f)
    (hg : Reads g) : Reads (fun s => if c s then f s else g s) := by
  refine reading (a := c) hc (fun x => ?_)
  by_cases hx : x
  · exact ⟨f, hf, fun s h => if_pos (h ▸ hx)⟩
  · exact ⟨g, hg, fun s h => if_neg (h ▸ hx)⟩
/-- What the L1 gives. -/
theorem takeL1 (core : Nat) (rd : Reader) (sp ia : Nat) (pt : Point) (ev : Evict) (n : Nat) : Reads (fun s => s.takeL1 core rd sp ia pt ev n) := by
  have used := (Settles.dropLast core sp ia ev).comp (Settles.useL1 core sp ia ev false)
  have placed := Settles.when (c := ((ev = .llc || ev = .stream) && pt.wide && homePkg ia ≠ corePkg core) = true)
    (Settles.placeLine core sp ia n ev) Settles.id
  exact pair (placed.comp (Settles.when (c := (needed rd ia n).isEmpty = true) Settles.id used)) (fun _ _ => rfl)
/-- What a fill gives. -/
theorem takeFill (core : Nat) (rd : Reader) (sp ia : Nat) (pt : Point) (ev : Evict) (n : Nat) : Reads (fun s => s.takeFill core rd sp ia pt ev n) := by
  refine after (f := fun t => t.takeSlice core rd sp ia pt ev n) ?_ (Settles.bring (corePkg core) sp ia n pt)
  refine reading (a := fun t => t.sliceBytes (corePkg core) sp ia n pt rd.floor) (fun s ts => ?_) (fun x => ?_)
  · simp only [State.sliceBytes, State.sysByte, sysKey_withTeams]
    rfl
  cases x with
  | none => exact ⟨_, pair Settles.id (fun _ _ => rfl), fun t h => by simp only [State.takeSlice, h]; rfl⟩
  | some cs =>
    refine ⟨_, pair (a := fun t => some (t.filled core rd sp ia cs)) ((Settles.dropLast core sp ia ev).comp (Settles.keepBytes core sp ia ev cs))
      (fun _ _ => rfl), fun t h => ?_⟩
    simp only [State.takeSlice, h]
theorem takeLine (core : Nat) (rd : Reader) (sp ia : Nat) (pt : Point) (ev : Evict) (n : Nat) :
    Reads (fun s => s.takeLine core rd sp ia pt ev n) := by
  simp only [State.takeLine_eq]
  exact ite (fun _ _ => rfl) (takeL1 ..) (takeFill ..)
theorem takeAll (core : Nat) (rd : Reader) (sp ia : Nat) (pt : Point) (ev : Evict) (n : Nat) :
    Reads (fun s => s.takeAll core rd sp ia pt ev n) := by
  have pieces (ps : List (Nat × Nat)) (acc : State × Option (List Byte)) :
      (ps.foldl (takePiece core rd sp pt ev) acc).1.besideCaches = acc.1.besideCaches ∧
      ∀ l, ps.foldl (takePiece core rd sp pt ev) (acc.1.modFibre l Fibre.atCollective, acc.2) =
        ((ps.foldl (takePiece core rd sp pt ev) acc).1.modFibre l Fibre.atCollective, (ps.foldl (takePiece core rd sp pt ev) acc).2) := by
    induction ps generalizing acc with
    | nil => exact ⟨rfl, fun _ => rfl⟩
    | cons x ps ih =>
      obtain ⟨rest, gathers⟩ := ih (takePiece core rd sp pt ev acc x)
      have line := takeLine core rd sp x.1 pt ev x.2
      refine ⟨rest.trans (line.rest acc.1), fun l => ?_⟩
      have piece : takePiece core rd sp pt ev (acc.1.modFibre l Fibre.atCollective, acc.2) x =
          ((takePiece core rd sp pt ev acc x).1.modFibre l Fibre.atCollective, (takePiece core rd sp pt ev acc x).2) := by
        simp only [takePiece, line.gathers]
      rw [List.foldl_cons, piece]
      exact gathers l
  exact ⟨fun s => (pieces (linePieces ia n) (s, some [])).1, fun s l => (pieces (linePieces ia n) (s, some [])).2 l⟩

end Reads

end Sys2Proof.Machine
end
section
/-! PROOFS. Tiles, prefetches, write-backs and fences at issue (R211, R217, R218, R224, R294): TLD, TST, PREF, CWB and FENCE. -/

namespace Sys2Proof.Machine

open Host (Outcome)

/-! Teams that differ in recorded faults alone. -/

/-- The teams of two states differ in the recorded faults of their fibres alone. -/
def State.AlikeTeams (s u : State) : Prop := u.teams.map Team.unfaulted = s.teams.map Team.unfaulted

theorem State.AlikeTeams.of_besideCaches {s u : State} (h : u.besideCaches = s.besideCaches) : s.AlikeTeams u := congrArg State.teams h
theorem State.AlikeTeams.trans {s u v : State} (h : s.AlikeTeams u) (h' : u.AlikeTeams v) : s.AlikeTeams v := Eq.trans h' h
theorem State.now_of_besideCaches {s u : State} (h : u.besideCaches = s.besideCaches) : u.now = s.now := (congrArg State.now h :)
theorem State.wq_of_besideCaches {s u : State} (h : u.besideCaches = s.besideCaches) : u.wq = s.wq := (congrArg State.wq h :)
theorem State.reqs_of_besideCaches {s u : State} (h : u.besideCaches = s.besideCaches) : u.reqs = s.reqs := (congrArg State.reqs h :)
theorem State.sig_of_besideCaches {s u : State} (h : u.besideCaches = s.besideCaches) : u.sig = s.sig := (congrArg State.sig h :)

namespace State.AlikeTeams

variable {s u : State} (ht : s.AlikeTeams u)
include ht

theorem team? (i : Nat) : (u.team? i).map Team.unfaulted = (s.team? i).map Team.unfaulted := by
  have find (v : State) : (v.team? i).map Team.unfaulted = (v.teams.map Team.unfaulted).find? (fun t => t.tid == i) := by
    rw [List.find?_map]
    rfl
  rw [find, find, ht]
theorem team (i : Nat) : (u.team i).unfaulted = (s.team i).unfaulted := by
  have same := ht.team? i
  unfold State.team
  cases hu : u.team? i <;> cases hs : s.team? i <;> rw [hu, hs] at same
  · cases same
  · cases same
  · exact Option.some.inj same
theorem dbgctl (i : Nat) : (u.team i).dbgctl = (s.team i).dbgctl := (congrArg Team.dbgctl (ht.team i) :)
theorem coreKey (i : Nat) : (u.team i).coreKey = (s.team i).coreKey := (congrArg Team.coreKey (ht.team i) :)
theorem outlines : u.teams.map Team.outline = s.teams.map Team.outline := by
  have same := congrArg (List.map Team.outline) ht
  rwa [List.map_map, List.map_map] at same
theorem unfaulted (k : Lane) : (u.fibre? k).map Fibre.unfaulted = (s.fibre? k).map Fibre.unfaulted := by
  have within (t : Team) : (t.fibre? k.fid).map Fibre.unfaulted = (t.unfaulted.fibres).find? (fun f => f.fid == k.fid) := by
    unfold Team.unfaulted
    rw [List.find?_map]
    rfl
  have same := ht.team? k.tid
  unfold State.fibre?
  cases hu : u.team? k.tid <;> cases hs : s.team? k.tid <;> rw [hu, hs] at same
  · cases same
  · cases same
  · rw [Option.bind_some, Option.bind_some, within, within, Option.some.inj same]
/-- A fibre differs in its recorded faults alone. -/
theorem fibre? (k : Lane) : ∃ a b c d, u.fibre? k = (s.fibre? k).map (fun f =>
    { f with storeFault := a, storesLost := b, engineFault := c, abortsLost := d }) := by
  have same := ht.unfaulted k
  cases hu : u.fibre? k <;> cases hs : s.fibre? k <;> rw [hu, hs] at same
  · exact ⟨none, 0, none, 0, rfl⟩
  · cases same
  · cases same
  · rename_i f g
    exact ⟨f.storeFault, f.storesLost, f.engineFault, f.abortsLost, congrArg (fun x : Fibre => some
      { x with storeFault := f.storeFault, storesLost := f.storesLost, engineFault := f.engineFault, abortsLost := f.abortsLost })
      (Option.some.inj same)⟩
theorem present (k : Lane) : (u.fibre? k).isSome = (s.fibre? k).isSome := by
  obtain ⟨a, b, c, d, e⟩ := ht.fibre? k
  rw [e, Option.isSome_map]
end State.AlikeTeams

/-! One lane gone on. -/

theorem State.onward_resume (s u : State) (l : Lane) (h : Head) : s.onward (u.resume l) l h = s.onward u l h :=
  State.modFibre_modFibre u l _ _ (fun _ => rfl)
theorem State.onward_outlines (s u : State) (l : Lane) (h : Head) : (s.onward u l h).teams.map Team.outline = u.teams.map Team.outline :=
  State.modFibre_outlines u l _
theorem State.onward_fibre? (s u : State) (l : Lane) (h : Head) (k : Lane) : (s.onward u l h).fibre? k =
    if k = l then (u.fibre? k).map (fun f => f.movedTo (nextPc (s.fibre l).pc) u.now h.stall) else u.fibre? k :=
  State.fibre?_modFibre u l (fun f => f.movedTo (nextPc (s.fibre l).pc) u.now h.stall) (fun _ => rfl) k

/-! TLD and TST (R211). -/

section
variable {s : State} {h : Head} {m : GlobalMod} {l : Lane}

/-- A tile's access gone, with what held its fibre. -/
def State.tileGone (t : State) (l : Lane) (id : Nat) : State := (t.dropReq id).modFibre l (fun f => { f with hold := none })

section
variable {id : Nat} {q : Req} (hw : (s.fibre l).wait = none) (hh : (s.fibre l).hold = some (.tile id true)) (hq : s.req? id = some q)
include hw hh hq

theorem tileLane_stored : tileLane h m true s s l = .done (s.tileGone l id) := by
  unfold tileLane
  dsimp only
  rw [answered_unsuspended hw]
  simp only [hh, hq]
  rfl
theorem tileLane_loaded (hacq : q.acq = false) (hl : (s.team l.tid).leafFree q.off q.data.length) :
    tileLane h m false s s l = .done (((s.resume l).tileGone l id).modTeam l.tid (·.writeLeaf q.off q.data)) := by
  unfold tileLane
  dsimp only
  rw [answered_unsuspended hw]
  simp only [hh, hq, hacq]
  rw [if_neg (by simp), if_neg (by simp), State.withLeaves_free hl]
  rfl
theorem State.Alone.tst_goes_on (ha : s.Alone h l) : exec (.tst h m) s = .next (s.onward (s.tileGone l id) l h) :=
  ha.done (tileLane_stored hw hh hq) (State.modFibre_dbgctl _ l _ l.tid)
theorem State.Alone.tld_goes_on (ha : s.Alone h l) (hacq : q.acq = false) (hl : (s.team l.tid).leafFree q.off q.data.length) :
    exec (.tld h m) s = .next (s.onward (((s.resume l).tileGone l id).modTeam l.tid (·.writeLeaf q.off q.data)) l h) := by
  refine ha.done (tileLane_loaded hw hh hq hacq hl) ?_
  rw [State.modTeam_dbgctl _ _ (·.writeLeaf q.off q.data) (fun _ => rfl) (fun _ => rfl)]
  exact (State.modFibre_dbgctl _ l _ l.tid).trans (State.modFibre_dbgctl s l _ l.tid)
end

/-- What a tile load records as it begins. -/
def State.tileLoadReq (s : State) (h : Head) (m : GlobalMod) (l : Lane) (x : Shape) (pt : Point) (segs : List (Nat × Nat × Nat)) : Req :=
  { s.access l .tileLoad (s.globalVa l h.sa m.off) (segs.headD (0, 0, 0)).2.1 (x.rows * x.rowb) pt with
    off := (s.readReg l .sb h.sb).toNat, segs := segs, acq := m.ord.acquires }

section
variable {x : Shape} {pt : Point} {segs : List (Nat × Nat × Nat)} (hc : s.Calm l) (hm : m.ord.releases = false)
  (hx : tileChecks (s.team l.tid) m.scope.toNat (s.readPair l .sc h.sc) (s.globalVa l h.sa m.off) (s.readReg l .sb h.sb).toNat = .ok (x, pt))
  (hp : s.tileProbe (s.team l.tid) (s.fibre l) .read (x.runs (s.globalVa l h.sa m.off).toNat) = .ok segs)
  (hw : (x.runs (s.globalVa l h.sa m.off).toNat).any (fun r => (s.team l.tid).watched (s.fibre l) [.read] r.1 r.2) = false)
  (hh : s.heldRun (s.team l.tid) (s.fibre l) .read segs = none)
include hc hm hx hp hw hh

theorem tileLane_load_begins : tileLane h m false s s l = .stay ((((s.resume l).addReq (s.tileLoadReq h m l x pt segs)).modFibre l (fun f =>
    { f with hold := some (.tile s.seq false) })).claimNext (s.tileLoadReq h m l x pt segs)) := by
  unfold tileLane
  dsimp only
  rw [answered_unsuspended hc.wait]
  simp only [hc.hold]
  rw [afterAcquire_idle hc.acquiring, hm, afterDeferred_unreleasing]
  simp only [hx, reduceIte, hp, hw, Bool.false_eq_true, hh]
  rfl
/-- TLD begins its tile: the fibre is held by it, and the access stands. -/
theorem State.Alone.tld_begins (ha : s.Alone h l) : ∃ u, exec (.tld h m) s = .next u ∧
    u.fibre? l = some { s.fibre l with hold := some (.tile s.seq false) } ∧ u.reqs = s.reqs ++ [s.tileLoadReq h m l x pt segs] := by
  refine ⟨_, ha.stays (tileLane_load_begins hc hm hx hp hw hh), ?_, State.claimNext_reqs _ _⟩
  have resumed : (s.resume l).fibre? l = some (s.fibre l) := by
    rw [State.fibre?_resume, if_pos rfl, ha.found, Option.map_some, ← hc.wait]
  rw [fibre?_of_teams _ _ (State.claimNext_teams _ _), State.fibre?_modFibre _ _ _ (by intro _; rfl), if_pos rfl]
  exact congrArg (Option.map _) resumed
end

/-! PREF (R217). -/

theorem State.prefetch_keeps (s : State) (tm : Team) (va : Dword) (ia : Nat) (pt : Point) (ev : Evict) :
    s.AlikeTeams (s.prefetch s tm l va ia pt ev) ∧ (s.prefetch s tm l va ia pt ev).now = s.now := by
  unfold State.prefetch
  dsimp only
  split
  · exact ⟨rfl, rfl⟩
  have line := (Reads.takeLine tm.coreKey ⟨fun _ => none, fun _ => 0⟩ (s.space tm.partKey ia) (ia / 128 * 128) pt ev 128).rest s
  generalize s.takeLine _ _ _ _ _ _ _ = taken at line ⊢
  obtain ⟨u, bs⟩ := taken
  have kept : ∀ v : State, v.besideCaches = u.besideCaches → s.AlikeTeams v ∧ v.now = s.now := fun v hv =>
    ⟨.of_besideCaches (hv.trans line), State.now_of_besideCaches (hv.trans line)⟩
  cases bs with
  | some bs => exact kept _ ((Settles.touchPage tm.partKey ia).rest u)
  | none =>
    obtain ⟨alike, now⟩ := kept u rfl
    have sent (q : Req) (op : MsgOp) (a b : Nat) := (Settles.send a b op).rest (u.addReq q)
    have asked (q : Req) : u.AlikeTeams (u.addReq q) := rfl
    exact ⟨alike.trans ((asked _).trans (.of_besideCaches (sent ..))), (State.now_of_besideCaches (sent ..)).trans now⟩

/-- PREF where its access would trap, or asks for no copy. -/
theorem State.Alone.pref_idle (ha : s.Alone h l) (hi : m.evict = .stream ∨
    ∃ c, s.accessChecks (s.team l.tid) (s.fibre l) m.scope.toNat [.read] (s.globalVa l h.sa m.off) 1 = .error c) :
    exec (.pref h m) s = .next (s.onward s l h) := by
  refine ha.done ?_ rfl
  dsimp only
  cases hk : s.accessChecks (s.team l.tid) (s.fibre l) m.scope.toNat [.read] (s.globalVa l h.sa m.off) 1 with
  | error c => rfl
  | ok r =>
    have streamed : m.evict = .stream := hi.resolve_right fun ⟨c, hc⟩ => by rw [hk] at hc; cases hc
    exact if_pos streamed
/-- What PREF leaves: the lane gone on, in teams whose recorded faults alone may differ. -/
theorem State.Alone.pref_goes_on (ha : s.Alone h l) : ∃ v, exec (.pref h m) s = .next (s.onward v l h) ∧ s.AlikeTeams v ∧ v.now = s.now := by
  cases hk : s.accessChecks (s.team l.tid) (s.fibre l) m.scope.toNat [.read] (s.globalVa l h.sa m.off) 1 with
  | error c => exact ⟨s, ha.pref_idle (.inr ⟨c, hk⟩), rfl, rfl⟩
  | ok r =>
    obtain ⟨pt, ia⟩ := r
    by_cases hs : m.evict = .stream
    · exact ⟨s, ha.pref_idle (.inl hs), rfl, rfl⟩
    · have keeps := s.prefetch_keeps (l := l) (s.team l.tid) (s.globalVa l h.sa m.off) ia pt m.evict
      refine ⟨_, ha.done ?_ (keeps.1.dbgctl l.tid), keeps⟩
      dsimp only
      rw [hk]
      exact if_neg hs
theorem State.Alone.pref_frame (ha : s.Alone h l) : ∃ u, exec (.pref h m) s = .next u ∧ u.teams.map Team.outline = s.teams.map Team.outline ∧
    (∃ a b c d, u.fibre? l = some { (s.fibre l).moved s.now h.stall with storeFault := a, storesLost := b, engineFault := c, abortsLost := d }) ∧
    ∀ k, k ≠ l → ∃ a b c d, u.fibre? k = (s.fibre? k).map (fun f =>
      { f with storeFault := a, storesLost := b, engineFault := c, abortsLost := d }) := by
  obtain ⟨v, step, alike, now⟩ := ha.pref_goes_on (m := m)
  refine ⟨_, step, (State.onward_outlines s v l h).trans alike.outlines, ?_, fun k hk => ?_⟩
  · obtain ⟨a, b, c, d, e⟩ := alike.fibre? l
    refine ⟨a, b, c, d, ?_⟩
    rw [State.onward_fibre?, if_pos rfl, e, ha.found, now]
    rfl
  · rw [State.onward_fibre?, if_neg hk]
    exact alike.fibre? k

/-! FENCE and CWB (R218, R224, R294). -/

section
variable {pt : Point} (hc : s.Calm l) (hp : ((s.team l.tid).levels[m.scope.toNat]?).map Lvl.pt = some pt)
  (hr : m.ord.releases = true → s.releaseReady l s.seq pt = true)
include hc hp hr

theorem State.Alone.fence_goes_on (ha : s.Alone h l) : exec (.fence h m) s =
    .next (s.onward (if m.ord = .acq ∨ m.ord = .ar then s.acquire (s.team l.tid).coreKey pt else s) l h) := by
  have unloaded : s.loading l = false := by
    rw [State.loading, List.any_eq_false]
    intro q hq
    simp only [Bool.and_eq_true, decide_eq_true_eq]
    exact fun own => hc.reqs q hq own.1
  refine ha.done ?_ ?_
  · dsimp only
    rw [afterAcquire_idle hc.acquiring, hc.unrecorded, Team.point_declared hp]
    dsimp only
    rw [withRelease_ready hc.hold hr]
    by_cases acq : m.ord.acquires = true
    · rw [if_pos acq, unloaded, if_pos ((Ord.acquires_iff _).mp acq)]
      rfl
    · rw [if_neg acq, if_neg (fun h => acq ((Ord.acquires_iff _).mpr h))]
  · split
    · rw [State.team, State.team?, State.acquire_teams]
      rfl
    · rfl
theorem State.Alone.cwb_goes_on (ha : s.Alone h l) {runs : List (Nat × Nat)}
    (hn : s.cwbRuns (s.team l.tid).partKey 65538 (s.globalVa l h.sa m.off).toNat (s.readReg l .sb h.sb).toNat = .ok runs)
    (hh : ∀ x ∈ runs.map (fun x => (s.space (s.team l.tid).partKey x.1, x)),
      s.pageCheck (s.team l.tid).partKey (s.fibre l).level (some .write) x.2.1 ≠ .held) :
    exec (.cwb h m) s = .next (s.onward (s.cwbWrite (s.team l.tid).coreKey pt m.evict
      (runs.map (fun x => (s.space (s.team l.tid).partKey x.1, x)))) l h) := by
  have written := State.AlikeTeams.of_besideCaches ((Settles.cwbWrite (s.team l.tid).coreKey pt m.evict
    (runs.map (fun x => (s.space (s.team l.tid).partKey x.1, x)))).rest s)
  rw [← State.onward_resume]
  refine ha.done ?_ ((State.modFibre_dbgctl _ l _ l.tid).trans (written.dbgctl l.tid))
  have free : (runs.map (fun x => (s.space (s.team l.tid).partKey x.1, x))).find? (fun x =>
      s.cwbHeld (s.team l.tid) (s.fibre l) x.2.1 && !(s.ownedIn (s.team l.tid).coreKey x.1 pt x.2).isEmpty) = none := by
    rw [List.find?_eq_none]
    intro x hx
    simp only [State.cwbHeld, Bool.and_eq_true, decide_eq_true_eq, not_and]
    exact fun held => absurd held (hh x hx)
  dsimp only
  rw [afterAcquire_idle hc.acquiring, hc.unrecorded, Team.point_declared hp]
  dsimp only
  rw [hn]
  dsimp only
  rw [withRelease_ready hc.hold hr, free]
end
end

end Sys2Proof.Machine
end
section
/-! PROOFS. LDB (R201, R202): one read step for a whole band, its words written lane by lane, and every participant gone on. -/

namespace Sys2Proof.Machine

open Host (Outcome)

/-! Registers written in one lane after another. -/

theorem State.writeName_teams (s : State) (l : Lane) (r : RegName) (v : Word) (lat : Option Nat) :
    ∃ ts, s.writeName l r v lat = s.withTeams ts := by
  cases r <;> exact ⟨_, rfl⟩
theorem State.foldl_teams {α : Type} {f : State → α → State} (hf : ∀ (t : State) (x : α), ∃ ts, f t x = t.withTeams ts) (xs : List α) (s : State) :
    ∃ ts, xs.foldl f s = s.withTeams ts := by
  induction xs generalizing s with
  | nil => exact ⟨s.teams, rfl⟩
  | cons x r ih =>
    obtain ⟨ts, e⟩ := hf s x
    obtain ⟨us, e'⟩ := ih (f s x)
    exact ⟨us, by rw [List.foldl_cons, e', e]; rfl⟩
theorem State.writeWords_teams (s : State) (l : Lane) (fld : Field) (ws : List Word) : ∃ ts, s.writeWords l fld ws = s.withTeams ts :=
  State.foldl_teams (fun t _ => t.writeName_teams l _ _ none) _ s
theorem onFibre_kept (w : LaneWrite) (f : Fibre) : (w.onFibre f).pc = f.pc ∧ (w.onFibre f).level = f.level := by
  have regs (rs : List (RegName × Word)) (f : Fibre) : (rs.foldl (fun f p => f.put p.1 p.2) f).pc = f.pc ∧
      (rs.foldl (fun f p => f.put p.1 p.2) f).level = f.level := by
    induction rs generalizing f with
    | nil => exact ⟨rfl, rfl⟩
    | cons p r ih =>
      obtain ⟨pc, level⟩ := ih (f.put p.1 p.2)
      exact ⟨pc.trans (put_pc ..), level.trans (put_level ..)⟩
  unfold LaneWrite.onFibre
  cases w.last <;> exact regs w.regs f
theorem teamsAfter_none (i : Nat) (ts : List Team) : teamsAfter i (fun c => c) [] ts = ts.map Team.outline := by
  refine List.map_congr_left fun x _ => ?_
  split
  · rw [List.append_nil]; rfl
  · rfl
theorem teamsAfter_append (i : Nat) (f g : List Word → List Word) (a b : List FlagPend) (s : State) (ts : List Team)
    (h : s.teams.map Team.outline = teamsAfter i f a ts) : teamsAfter i g b s.teams = teamsAfter i (fun c => g (f c)) (a ++ b) ts := by
  have outlined : teamsAfter i g b s.teams = (s.teams.map Team.outline).map (fun x =>
      if x.tid = i then { x with scalars := g x.scalars, flagPend := x.flagPend ++ b } else x) := by
    rw [List.map_map]
    refine List.map_congr_left fun x _ => ?_
    by_cases hx : x.tid = i <;> simp [hx, Team.outline]
  rw [outlined, h]
  unfold teamsAfter
  rw [List.map_map]
  refine List.map_congr_left fun x _ => ?_
  by_cases hx : x.tid = i <;> simp [hx, Team.outline]

/-- What lanes of one team that each write registers leave. -/
theorem foldl_wrote {body : State → Lane → State} {key T : Nat} {w : Lane → LaneWrite}
    (hbody : ∀ (t : State) (l : Lane), Wrote t (body t l) l key 0 (w l)) (ls : List Lane) (s : State) (hnd : ls.Nodup) (hT : ∀ l ∈ ls, l.tid = T) :
    (∀ l ∈ ls, ∀ f, s.fibre? l = some f → ∃ p, (ls.foldl body s).fibre? l = some { (w l).onFibre f with pend := p }) ∧
    (∀ l, l ∉ ls → (ls.foldl body s).fibre? l = s.fibre? l) ∧
    (ls.foldl body s).teams.map Team.outline = teamsAfter T (fun c => ls.foldl (fun c l => (w l).onScalars c) c) (ls.flatMap (fun l => (w l).flags)) s.teams ∧
    ∀ i, ((ls.foldl body s).team i).dbgctl = (s.team i).dbgctl := by
  induction ls generalizing s with
  | nil => exact ⟨fun _ h => absurd h (List.not_mem_nil), fun _ _ => rfl, (teamsAfter_none T s.teams).symm, fun _ => rfl⟩
  | cons a r ih =>
    obtain ⟨hna, hnr⟩ := List.nodup_cons.mp hnd
    have head := hbody s a
    obtain ⟨written, others, teams, dbgctl⟩ := ih (body s a) hnr (fun l hl => hT l (List.mem_cons_of_mem a hl))
    refine ⟨fun l hl f hf => ?_, fun l hl => ?_, ?_, fun i => (dbgctl i).trans (head.dbgctl i)⟩
    · rcases List.mem_cons.mp hl with rfl | hl
      · obtain ⟨p, hp⟩ := head.fibre f hf
        exact ⟨p, (others l hna).trans hp⟩
      · exact written l hl f ((head.others l (fun e => hna (e ▸ hl))).trans hf)
    · obtain ⟨hla, hlr⟩ := List.ne_and_not_mem_of_not_mem_cons hl
      exact (others l hlr).trans (head.others l hla)
    · rw [List.foldl_cons, teams, teamsAfter_append T _ _ _ _ (body s a) s.teams (hT a (by simp) ▸ head.teams)]
      rfl

/-- What lanes of one team that all go on leave. -/
theorem foldl_passed (h : Head) {T : Nat} (ls : List Lane) (s : State) (hnd : ls.Nodup) (hT : ∀ l ∈ ls, l.tid = T)
    (hp : ∀ l ∈ ls, (s.fibre? l).isSome = true) (hs : ∀ l ∈ ls, (s.fibre l).level = .user → (s.team l.tid).dbgctl.getLsbD 1 = false) :
    let u := ls.foldl (fun u l => u.finish l h (.done u)) s
    (∀ l ∈ ls, u.fibre? l = some ((s.fibre l).moved s.now h.stall)) ∧ (∀ l, l ∉ ls → u.fibre? l = s.fibre? l) ∧
    u.teams.map Team.outline = s.teams.map Team.outline ∧ (∀ c, u.coreAt c = s.coreAt c) ∧
    { u with teams := [], cores := [] } = { s with teams := [], cores := [] } := by
  obtain ⟨-, passed, others, teams, cores, rest⟩ := foldl_lanes h (fun _ => false) (fun t _ => t) (fun _ _ => 0) (fun _ => 0) 0 0 T
    (fun _ _ => { }) s (fun _ _ _ _ => rfl) (fun t l _ _ _ _ _ _ _ _ _ => Wrote.refl t l 0) ls s 0 hnd hT hp (fun _ _ => rfl) hs rfl rfl
    (fun _ => rfl) (fun _ => rfl) (fun c => (coreDrawn_zero s 0 c).symm)
  refine ⟨fun l hl => passed l hl rfl, others, ?_, fun c => (cores c).trans ?_, rest⟩
  · have none : ls.filter (fun _ => false) = [] := by simp
    rw [none] at teams
    exact teams.trans (teamsAfter_none T s.teams)
  · rw [Nat.zero_mul, coreDrawn_zero]

/-! A band that has read: its lanes write, and all of it goes on. -/

section
variable {s v : State} {b : Nat} (hv : v.besideCaches = s.besideCaches)
include hv

theorem State.sigLanes_of_besideCaches : v.sigLanes = s.sigLanes := by
  unfold State.sigLanes
  rw [State.sig_of_besideCaches hv]
/-- The gathering and the caches leave of a fibre of the band where it is and at which level. -/
theorem State.bandLanes_kept {l : Lane} (hl : l ∈ s.bandLanes b) : (v.fibre? l).isSome = true ∧ (v.reach.fibre? l).isSome = true ∧
    (v.reach.fibre l).pc = (s.fibre l).pc ∧ (v.reach.fibre l).level = (s.fibre l).level := by
  have alike := State.AlikeTeams.of_besideCaches hv
  have present : (v.fibre? l).isSome = true := (alike.present l).trans (State.bandLanes_present hl)
  obtain ⟨a, b', c, d, e⟩ := alike.fibre? l
  rw [State.fibre?_of_isSome s l (State.bandLanes_present hl), State.fibre?_of_isSome v l present, Option.map_some, Option.some_inj] at e
  have own : (v.fibre l).pc = (s.fibre l).pc ∧ (v.fibre l).level = (s.fibre l).level := by rw [e]; exact ⟨rfl, rfl⟩
  refine ⟨present, ?_, ?_⟩
  · rw [State.fibre?_reach]
    split
    · rwa [Option.isSome_map]
    · exact present
  · rcases State.fibre_reach_or v l with reached | reached <;> rw [reached] <;> exact own
variable (hw : s.Whole b) (h : Head)

omit hv in
/-- A fibre moved on is not at a collective, gathered before or not. -/
theorem onFibre_movedTo_reach (v : State) (l : Lane) (g : LaneWrite) (pc : Dword) (now : Nat) (st : BitVec 4) :
    (g.onFibre (v.reach.fibre l)).movedTo pc now st = (g.onFibre (v.fibre l)).movedTo pc now st := by
  rcases State.fibre_reach_or v l with reached | reached <;> rw [reached]
  rw [onFibre_atCollective, movedTo_atCollective]
omit hv in
theorem State.fibre_reach_pc (v : State) (l : Lane) : (v.reach.fibre l).pc = (v.fibre l).pc := by
  rcases State.fibre_reach_or v l with reached | reached
  · rw [reached]
  · rw [reached]; rfl
include hw

/-- The effect of a band's read, from the state its bytes were read in. -/
theorem State.bandRead_effect {body : State → Lane → State} {w : Lane → LaneWrite}
    (hbody : ∀ (t : State) (l : Lane), Wrote t (body t l) l (s.team s.sig.tid).coreKey 0 (w l))
    (hteams : ∀ (t : State) (l : Lane), ∃ ts, body t l = t.withTeams ts) (part ia : Nat) :
    LaneEffect (v.touchPage part ia) ((s.bandLanes b).foldl (fun u l => u.finish l h (.done u))
      ((((s.bandLanes b).filter (s.guard h)).foldl body v.reach).touchPage part ia))
      (s.bandLanes b) (s.guard h) h.stall 0 w (fun l => nextPc (s.fibre l).pc) := by
  have sig := State.sig_of_besideCaches hv
  have lanes := State.sigLanes_of_besideCaches hv
  have tid : ∀ l ∈ s.bandLanes b, l.tid = s.sig.tid := fun l hl => (State.bandLanes_band hl).1
  -- the lanes that contribute write their words
  obtain ⟨written, others, teams, dbgctl⟩ := foldl_wrote hbody ((s.bandLanes b).filter (s.guard h)) v.reach (hw.nodup.filter _)
    (fun l hl => tid l (List.mem_filter.mp hl).1)
  obtain ⟨ts, hts⟩ := State.foldl_teams hteams ((s.bandLanes b).filter (s.guard h)) v.reach
  have reached : v.reach = v.withTeams v.reach.teams := by rw [State.reach_eq]; rfl
  -- the page's use leaves the teams
  have touched : (((s.bandLanes b).filter (s.guard h)).foldl body v.reach).touchPage part ia = (v.touchPage part ia).withTeams ts := by
    rw [hts, reached]
    exact TeamBlind.touchPage part ia v ts
  have used := State.MovesBytes.touchPage v part ia
  generalize ((s.bandLanes b).filter (s.guard h)).foldl body v.reach = u at written others teams dbgctl hts touched
  subst hts
  rw [touched]
  generalize v.touchPage part ia = x at used
  have kept (l : Lane) (hl : l ∈ s.bandLanes b) := State.bandLanes_kept hv hl
  -- each lane before it goes on
  have before (l : Lane) (hl : l ∈ s.bandLanes b) : ∃ p, (x.withTeams ts).fibre? l = some (if s.guard h l then
      { (w l).onFibre (v.reach.fibre l) with pend := p } else v.reach.fibre l) := by
    obtain ⟨-, present, -, -⟩ := kept l hl
    have found := State.fibre?_of_isSome v.reach l present
    cases hg : s.guard h l with
    | true => exact written l (List.mem_filter.mpr ⟨hl, hg⟩) _ found
    | false => exact ⟨[], (others l (fun hm => by simp [hg] at hm)).trans found⟩
  have place (l : Lane) (hl : l ∈ s.bandLanes b) : ((x.withTeams ts).fibre l).pc = (s.fibre l).pc ∧
      ((x.withTeams ts).fibre l).level = (s.fibre l).level := by
    obtain ⟨-, -, pc, level⟩ := kept l hl
    obtain ⟨p, hp⟩ := before l hl
    obtain ⟨pc', level'⟩ := onFibre_kept (w l) (v.reach.fibre l)
    rw [State.fibre_eq _ l _ hp]
    split
    · exact ⟨pc'.trans pc, level'.trans level⟩
    · exact ⟨pc, level⟩
  have now : x.now = v.now := (congrArg State.now used.rest :)
  -- and the whole band after it
  obtain ⟨gone, stayed, outlines, cores, rest⟩ := foldl_passed h (s.bandLanes b) (x.withTeams ts) hw.nodup tid
    (fun l hl => by obtain ⟨p, hp⟩ := before l hl; rw [hp]; rfl)
    (fun l hl hlv => by
      have bits : ((x.withTeams ts).team l.tid).dbgctl = (s.team l.tid).dbgctl := by
        refine (dbgctl l.tid).trans ?_
        rw [State.team_reach]
        split <;> exact (State.AlikeTeams.of_besideCaches hv).dbgctl l.tid
      rw [bits, tid l hl]
      exact hw.steps l hl ((place l hl).2 ▸ hlv))
  have same (l : Lane) : x.fibre l = v.fibre l := by
    rw [State.fibre_eq_getD, State.fibre_eq_getD, fibre?_of_teams _ _ used.teams]
  have moves (l : Lane) (g : LaneWrite) : (g.onFibre (v.reach.fibre l)).movedTo (nextPc (s.fibre l).pc) x.now h.stall =
      (g.onFibre (x.fibre l)).movedTo (nextPc (s.fibre l).pc) x.now h.stall := by
    rw [onFibre_movedTo_reach, same l]
  refine ⟨fun l hl hg => ?_, fun l hl hg => ?_, fun l hl => ?_, ?_, fun c => ?_, rest⟩
  · obtain ⟨p, hp⟩ := before l hl
    rw [hg, if_pos rfl] at hp
    have gone := gone l hl
    rw [Fibre.moved, (place l hl).1, State.fibre_eq _ l _ hp] at gone
    exact ⟨p, gone.trans (congrArg (fun f : Fibre => some { f with pend := p }) (moves l (w l)))⟩
  · obtain ⟨p, hp⟩ := before l hl
    rw [hg, if_neg (by simp)] at hp
    have gone := gone l hl
    have pc : (x.fibre l).pc = (s.fibre l).pc := by
      obtain ⟨-, -, pc, -⟩ := kept l hl
      rw [same, ← State.fibre_reach_pc, pc]
    rw [Fibre.moved, (place l hl).1, State.fibre_eq _ l _ hp] at gone
    rw [Fibre.moved, pc]
    exact gone.trans (congrArg some (moves l { }))
  · rw [stayed l hl, fibre?_of_teams v x used.teams]
    refine (others l (fun hm => hl (List.mem_filter.mp hm).1)).trans ?_
    rw [State.fibre?_reach, if_neg (fun hm => hl (hw.sigLanes_subset (lanes ▸ hm)))]
  · have xsig : x.sig = v.sig := (congrArg State.sig used.rest :)
    rw [outlines, used.teams, xsig, sig]
    exact teams.trans (by rw [← sig]; exact teamsAfter_reach v _ _)
  · rw [cores c]
    split
    · rw [Nat.zero_mul]; rfl
    · rfl
end

/-- A read answers the same before and after the gathering, and what it leaves is gathered as well. -/
theorem Reads.reach {α : Type} {f : State → State × α} (hf : Reads f) (s : State) : f s.reach = ((f s).1.reach, (f s).2) := by
  have lanes (ls : List Lane) (t : State) : f (ls.foldl (fun t l => t.modFibre l Fibre.atCollective) t) =
      (ls.foldl (fun t l => t.modFibre l Fibre.atCollective) (f t).1, (f t).2) := by
    induction ls generalizing t with
    | nil => rfl
    | cons l r ih => rw [List.foldl_cons, List.foldl_cons, ih, hf.gathers]
  have same := lanes s.sigLanes s
  rw [← State.sigLanes_of_besideCaches (hf.rest s)] at same
  rw [← show (f s).1.reach = (f s).1.sigLanes.foldl (fun t l => t.modFibre l Fibre.atCollective) (f s).1 from rfl] at same
  rw [← same, State.sigLanes_of_besideCaches (hf.rest s)]
  rfl

/-! LDB. -/

section
variable {s : State} {h : Head} {m : GlobalMod} {b : Nat} {pt : Point} {ia : Nat} {first : Lane} (hw : s.Whole b)
include hw

theorem execLdb_ofBand : execLdb h m s = .next (ldbBand h m s s.reach b) := by
  have bands : s.sigBands = [b] := dedup_constant (by simpa using hw.some) (by simpa [bandOf] using fun i hi => (hw.band i hi).1)
  cases hfind : s.sig.fids.find? (fun i => bandOf i = b) with
  | none =>
    obtain ⟨i, hi⟩ := List.exists_mem_of_ne_nil _ hw.some
    exact absurd (show bandOf i = b from (hw.band i hi).1) (by simpa using List.find?_eq_none.mp hfind i hi)
  | some i =>
    unfold execLdb
    simp only [bands, List.foldl_cons, List.foldl_nil, hfind, hw.bandAt (List.mem_of_find?_eq_some hfind), if_true]

/-- One lane's words of a block. -/
def ldbWords (m : GlobalMod) (bs : List Byte) (l : Lane) : List Word :=
  loadWords m.size.bytes m.sx (ofBytes ((bs.drop (l.fid % 32 * m.size.bytes)).take m.size.bytes))

variable {v : State} {bs : List Byte}
  (hf : ((s.bandLanes b).filter (s.guard h)).head? = some first) (hm : m.ord = .rlx) (hq : ∀ q ∈ s.reqs, q.tid ≠ s.sig.tid)
  (hp : formChecks (s.team s.sig.tid) m.scope.toNat (s.globalVa first h.sa m.off) (32 * m.size.bytes) = .ok pt)
  (hi : s.rangeCheck (s.team s.sig.tid).partKey (s.fibre first).level .read (s.globalVa first h.sa m.off).toNat = .ok ia)
  (hb : s.blockChecks (s.team s.sig.tid) (s.fibre first)
    (fun sp => (s.ldbReader ((s.bandLanes b).filter (s.guard h)) sp ia m.size.bytes).own) (s.globalVa first h.sa m.off) (m.size.bytes / 4) 0 = .ok ())
  (hh : s.pageCheck (s.team s.sig.tid).partKey (s.fibre first).level (some .read) ia ≠ .held)
  (hr : ∀ r ∈ s.regs, r.entry.sp ≠ s.space (s.team s.sig.tid).partKey ia)
  (ht : s.takeAll (s.team s.sig.tid).coreKey
    (s.ldbReader ((s.bandLanes b).filter (s.guard h)) (s.space (s.team s.sig.tid).partKey ia) ia m.size.bytes)
    (s.space (s.team s.sig.tid).partKey ia) ia pt m.evict (32 * m.size.bytes) = (v, some bs))
include hf hm hq hp hi hb hh hr ht

theorem ldbBand_reads : ldbBand h m s s.reach b = (s.bandLanes b).foldl (fun u l => u.finish l h (.done u))
    ((((s.bandLanes b).filter (s.guard h)).foldl (fun u l => u.writeWords l h.dst (ldbWords m bs l)) v.reach).touchPage
      (s.team s.sig.tid).partKey ia) := by
  have read := (Reads.takeAll (s.team s.sig.tid).coreKey
    (s.ldbReader ((s.bandLanes b).filter (s.guard h)) (s.space (s.team s.sig.tid).partKey ia) ia m.size.bytes)
    (s.space (s.team s.sig.tid).partKey ia) ia pt m.evict (32 * m.size.bytes)).reach s
  rw [ht] at read
  obtain ⟨rest, hc⟩ : ∃ rest, (s.bandLanes b).filter (s.guard h) = first :: rest := by
    cases hc : (s.bandLanes b).filter (s.guard h) with
    | nil => rw [hc] at hf; cases hf
    | cons a r => rw [hc] at hf; exact ⟨r, by rw [Option.some.inj hf]⟩
  have reqs : s.reach.reqs = s.reqs := by rw [State.reach_eq]; rfl
  have idle : ((s.bandLanes b).filter (s.guard h)).any (fun l => s.reach.acquiring l || (m.ord.acquires && s.reach.loading l)) = false := by
    rw [List.any_eq_false]
    intro l hl
    have none_ : s.reach.acquiring l = false := by
      rw [State.acquiring, reqs, List.any_eq_false]
      intro q hq'
      have tid := (State.bandLanes_band (List.mem_filter.mp hl).1).1
      simp [tid, hq q hq']
    rw [none_, hm]
    simp [Ord.acquires]
  have unseen (l : Lane) (a n : Nat) : s.witnessed (s.team s.sig.tid).coreKey l.tid l.fid (s.space (s.team s.sig.tid).partKey ia) a n = [] := by
    rw [State.witnessed, List.map_eq_nil_iff, List.filter_eq_nil_iff]
    intro r hr'
    simp [hr r hr']
  have parts : ((s.reach.team s.sig.tid).enrolled b).map (fun i => (⟨s.sig.tid, i⟩ : Lane)) = s.bandLanes b := by rw [hw.enrolled_reach]; rfl
  unfold ldbBand
  dsimp only
  rw [parts]
  rw [hc] at hb read idle ⊢
  dsimp only
  rw [idle, List.findSome?_eq_none_iff.mpr ?unfailed, hp]
  case unfailed =>
    intro l hl
    rw [(hw.met l hl).1]
  dsimp only
  rw [hi]
  dsimp only
  rw [hb]
  dsimp only
  rw [if_neg hh, read, hm]
  simp only [unseen]
  rfl
/-- An LDB of a whole band writes to each contributing lane its own place of the block. -/
theorem execLdb_effect : ∃ u, exec (.ldb h m) s = .next u ∧
    LaneEffect (v.touchPage (s.team s.sig.tid).partKey ia) u (s.bandLanes b) (s.guard h) h.stall 0
      (fun l => { regs := (ldbWords m bs l).zipIdx.map (fun p => (regName h.dst.file (h.dst.idx + p.2), p.1)) }) (fun l => nextPc (s.fibre l).pc) := by
  refine ⟨_, (execLdb_ofBand hw).trans (congrArg Outcome.next (ldbBand_reads hw hf hm hq hp hi hb hh hr ht)), ?_⟩
  have rest := (Reads.takeAll (s.team s.sig.tid).coreKey
    (s.ldbReader ((s.bandLanes b).filter (s.guard h)) (s.space (s.team s.sig.tid).partKey ia) ia m.size.bytes)
    (s.space (s.team s.sig.tid).partKey ia) ia pt m.evict (32 * m.size.bytes)).rest s
  rw [ht] at rest
  exact State.bandRead_effect rest hw h (fun t l => writeWords_wrote t l _ h.dst (ldbWords m bs l))
    (fun t l => t.writeWords_teams l h.dst (ldbWords m bs l)) _ ia
end

/-- Settles O40: TLD, TST, PREF, FENCE and CWB by what their one lane does; LDB by one read step for the band, which comes to the same
before and after the gathering. -/
theorem tileBlockAndFenceResults : Obligations.TileBlockAndFenceResults := by
  unfold Obligations.TileBlockAndFenceResults
  refine ⟨fun s h m l ha => ⟨fun id q hw hh hq => ⟨ha.tst_goes_on hw hh hq, ha.tld_goes_on hw hh hq⟩,
    fun x pt segs hc hm hx hp hw hh => ?_, ha.pref_frame, ha.pref_idle, fun pt hc hp hr => ⟨ha.fence_goes_on hc hp hr, fun runs hn hh => ?_⟩⟩, ?_⟩
  · have relaxed : m.ord.releases = false := by rcases hm with hm | hm <;> rw [hm] <;> rfl
    exact ha.tld_begins hc relaxed hx hp hw hh
  · exact ha.cwb_goes_on hc hp hr hn hh
  · intro s h m b pt ia first hw t parts contrib n bb reader hf hm hq hp hlow haligned hi hb hh hr v bs ht
    exact execLdb_effect hw hf hm hq (formChecks_ok (Team.point_declared hp) hlow haligned) hi hb hh hr ht

end Sys2Proof.Machine
end
section
/-! PROOFS. Draining and reading (R286, R289, R290, R291, R200): a drained entry's bytes in its core's L1, and what a read step answers. -/

namespace Sys2Proof.Machine

/-! A byte put into a cache, and the bytes of an entry one after another. -/

theorem findByte_putByte (l : List CByte) (c : CByte) (sp ia : Nat) :
    findByte (putByte l c) sp ia = if c.sp = sp ∧ c.ia = ia then some c else findByte l sp ia := by
  unfold findByte putByte
  by_cases here : c.sp = sp ∧ c.ia = ia
  · rw [if_pos here, List.find?_cons_of_pos (by simpa using here)]
  · rw [if_neg here, List.find?_cons_of_neg (by simpa using here), List.find?_filter]
    congr 1
    funext d
    have apart : d.sp = sp ∧ d.ia = ia → ¬ (d.sp = c.sp ∧ d.ia = c.ia) := fun ⟨hs, hi⟩ ⟨hs', hi'⟩ => here ⟨hs'.symm.trans hs, hi'.symm.trans hi⟩
    rw [Bool.eq_iff_iff]
    simp only [Bool.and_eq_true, Bool.not_eq_true', Bool.and_eq_false_iff, decide_eq_true_eq, decide_eq_false_iff_not]
    exact ⟨fun h => h.2, fun h => ⟨not_and_or.mp (apart h), h⟩⟩
/-- What the bytes of an entry drained in order leave in an L1 (R289 Drain). -/
def drainBytes (l1 : List CByte) (e : WEntry) (now : Nat) (ps : List (Byte × Nat)) : List CByte :=
  ps.foldl (fun l p => drainByte l e now p.2 p.1) l1

theorem findByte_drainByte (l1 : List CByte) (e : WEntry) (now i : Nat) (v : Byte) (sp ia : Nat) :
    (¬ (sp = e.sp ∧ ia = e.ia + i) → findByte (drainByte l1 e now i v) sp ia = findByte l1 sp ia) ∧
    ∃ c, findByte (drainByte l1 e now i v) e.sp (e.ia + i) = some c ∧ c.st = .owned ∧ c.val = v := by
  unfold drainByte
  refine ⟨fun h => ?_, ?_⟩
  · rw [findByte_putByte, if_neg (fun ⟨hs, hi⟩ => h ⟨hs.symm, hi.symm⟩)]
  · rw [findByte_putByte, if_pos ⟨rfl, rfl⟩]
    exact ⟨_, rfl, rfl, rfl⟩
theorem findByte_drainBytes_other (e : WEntry) (now : Nat) (sp ia : Nat) (ps : List (Byte × Nat)) (l1 : List CByte)
    (h : ∀ p ∈ ps, ¬ (sp = e.sp ∧ ia = e.ia + p.2)) : findByte (drainBytes l1 e now ps) sp ia = findByte l1 sp ia := by
  induction ps generalizing l1 with
  | nil => rfl
  | cons p r ih =>
    refine (ih _ (fun q hq => h q (List.mem_cons_of_mem p hq))).trans ?_
    exact (findByte_drainByte l1 e now p.2 p.1 sp ia).1 (h p (List.mem_cons_self ..))
theorem findByte_drainBytes_own (e : WEntry) (now i : Nat) (ps : List (Byte × Nat)) (l1 : List CByte) (h : ∃ p ∈ ps, p.2 = i) :
    ∃ c p, p ∈ ps ∧ p.2 = i ∧ findByte (drainBytes l1 e now ps) e.sp (e.ia + i) = some c ∧ c.st = .owned ∧ c.val = p.1 := by
  induction ps generalizing l1 with
  | nil => obtain ⟨p, hp, -⟩ := h; cases hp
  | cons p r ih =>
    by_cases later : ∃ q ∈ r, q.2 = i
    · obtain ⟨c, q, hq, rest⟩ := ih (drainByte l1 e now p.2 p.1) later
      exact ⟨c, q, List.mem_cons_of_mem p hq, rest⟩
    · have here : p.2 = i := by
        obtain ⟨q, hq, hi⟩ := h
        rcases List.mem_cons.mp hq with rfl | hq
        · exact hi
        · exact absurd ⟨q, hq, hi⟩ later
      subst here
      obtain ⟨c, hc, owned⟩ := (findByte_drainByte l1 e now p.2 p.1 e.sp (e.ia + p.2)).2
      refine ⟨c, p, List.mem_cons_self .., rfl, ?_, owned⟩
      refine (findByte_drainBytes_other e now e.sp (e.ia + p.2) r _ (fun q hq hi => later ⟨q, hq, ?_⟩)).trans hc
      omega

/-! A message leaves the caches of the cores, memory and the registrations as they are. -/

/-- The state without what a message changes as it goes. -/
def State.besideMail (s : State) : State := { s with seq := 0, msgs := [], eseqs := [], pkgs := [] }

theorem State.send_besideMail (s : State) (a b : Nat) (op : MsgOp) : (s.send a b op).besideMail = s.besideMail := by
  unfold State.send State.keepFlit
  split
  · rfl
  · split <;> rfl

/-! DRAIN (R289, R290). -/

section
variable {s : State} {e : WEntry}

/-- An entry's line used in its L1, the entry out of the queue. -/
def State.drainRoom (s : State) (e : WEntry) : State := { s with wq := s.wq.filter (fun d => d.id ≠ e.id) }.useL1 e.core e.sp e.ia e.evict true
/-- An entry's bytes put into its L1. -/
def State.drainL1 (s : State) (e : WEntry) : State :=
  (s.drainRoom e).modCore e.core (fun c => { c with l1 := drainBytes c.l1 e (s.drainRoom e).now e.bytes.zipIdx })

theorem State.drainEntry_eq (s : State) (e : WEntry) : s.drainEntry e = if e.pt = .core then s.drainL1 e
    else if homePkg e.ia ≠ corePkg e.core && e.pt ≠ .package then
      State.send { s.drainL1 e with regs := (s.drainL1 e).regs ++ [{ entry := e }] } (corePkg e.core) (homePkg e.ia) (.reg e.id)
    else { s.drainL1 e with regs := (s.drainL1 e).regs ++ [{ entry := e }] } := rfl
/-- What the drain of an entry leaves beside its registration. -/
theorem State.drainEntry_fields (s : State) (e : WEntry) : (s.drainEntry e).wq = (s.drainL1 e).wq ∧ (s.drainEntry e).mem = (s.drainL1 e).mem ∧
    (s.drainEntry e).cores = (s.drainL1 e).cores ∧
    (s.drainEntry e).regs = if e.pt = .core then (s.drainL1 e).regs else (s.drainL1 e).regs ++ [{ entry := e }] := by
  rw [State.drainEntry_eq]
  by_cases hc : e.pt = .core
  · simp only [if_pos hc, and_self]
  · have rest := State.send_besideMail { s.drainL1 e with regs := (s.drainL1 e).regs ++ [{ entry := e }] } (corePkg e.core) (homePkg e.ia) (.reg e.id)
    simp only [if_neg hc]
    split
    · exact ⟨(congrArg State.wq rest :), (congrArg State.mem rest :), (congrArg State.cores rest :), (congrArg State.regs rest :)⟩
    · exact ⟨rfl, rfl, rfl, rfl⟩
theorem State.drainEntry_coreAt (s : State) (e : WEntry) (k : Nat) : (s.drainEntry e).coreAt k = (s.drainL1 e).coreAt k := by
  rw [State.coreAt, (s.drainEntry_fields e).2.2.1, State.coreAt]
theorem State.drainEntry_wq (s : State) (e : WEntry) : (s.drainEntry e).wq = s.wq.filter (fun d => d.id ≠ e.id) := by
  rw [(s.drainEntry_fields e).1]
  exact State.wq_of_besideCaches ((Settles.useL1 e.core e.sp e.ia e.evict true).rest { s with wq := s.wq.filter (fun d => d.id ≠ e.id) })
/-- Each byte of a drained entry is owned by its L1. -/
theorem State.drainEntry_byte (s : State) (e : WEntry) {i : Nat} (hi : i < e.bytes.length) :
    ∃ c, findByte ((s.drainEntry e).coreAt e.core).l1 e.sp (e.ia + i) = some c ∧ c.st = .owned ∧ some c.val = e.bytes[i]? := by
  have listed : ∃ p ∈ e.bytes.zipIdx, p.2 = i := ⟨(e.bytes[i], i), by simp [List.mem_zipIdx_iff_getElem?, hi], rfl⟩
  rw [State.drainEntry_coreAt, State.drainL1, State.coreAt_modCore, if_pos rfl]
  obtain ⟨c, p, hp, rfl, found, owned, value⟩ := findByte_drainBytes_own e (s.drainRoom e).now i e.bytes.zipIdx ((s.drainRoom e).coreAt e.core).l1 listed
  refine ⟨c, found, owned, ?_⟩
  rw [value]
  exact (List.mem_zipIdx_iff_getElem?.mp hp).symm
/-- The set of a line has a way for a store: the line is there, or fewer than eight are. -/
theorem State.roomL1_store {core sp ia : Nat} {ev : Evict} (h : (∃ x ∈ (s.coreAt core).l1Lines, x.sp = sp ∧ x.line = ia / 128) ∨
    ((s.coreAt core).l1Lines.filter (fun x => x.line % 256 = ia / 128 % 256)).length < 8) : s.roomL1 core sp ia ev true = none := by
  unfold State.roomL1
  dsimp only
  by_cases here : (s.coreAt core).l1Lines.any (fun x => x.sp = sp && x.line = ia / 128) = true
  · rw [here]; rfl
  · rw [if_pos (by simp only [here]; rfl)]
    rcases h with ⟨x, hx, hs, hl⟩ | few
    · exact absurd (List.any_eq_true.mpr ⟨x, hx, by simp [hs, hl]⟩) here
    · unfold victim
      dsimp only
      rw [if_neg (by simp), if_pos]
      refine lt_of_le_of_lt (List.Sublist.length_le ?_) few
      unfold liveLines
      rw [List.filter_filter]
      refine List.monotone_filter_right _ (fun x hx => ?_)
      rw [Bool.and_eq_true, Bool.and_eq_true] at hx
      exact hx.1.1
/-- Where its line has a way, a drain touches only its entry's bytes and registration. -/
theorem State.drainEntry_alone (s : State) (e : WEntry) (h : (∃ x ∈ (s.coreAt e.core).l1Lines, x.sp = e.sp ∧ x.line = e.ia / 128) ∨
    ((s.coreAt e.core).l1Lines.filter (fun x => x.line % 256 = e.ia / 128 % 256)).length < 8) :
    (s.drainEntry e).mem = s.mem ∧ (∀ k, k ≠ e.core → (s.drainEntry e).coreAt k = s.coreAt k) ∧
    (s.drainEntry e).regs = (if e.pt = .core then s.regs else s.regs ++ [{ entry := e }]) ∧
    ∀ sp ia, ¬ (sp = e.sp ∧ e.ia ≤ ia ∧ ia < e.ia + e.bytes.length) →
      findByte ((s.drainEntry e).coreAt e.core).l1 sp ia = findByte (s.coreAt e.core).l1 sp ia := by
  have room : s.drainRoom e = { s with wq := s.wq.filter (fun d => d.id ≠ e.id) }.modCore e.core (fun c =>
      { c with l1Lines := useLines c.l1Lines e.sp (e.ia / 128) e.evict true }) := by
    have free : { s with wq := s.wq.filter (fun d => d.id ≠ e.id) }.roomL1 e.core e.sp e.ia e.evict true = none := State.roomL1_store h
    rw [State.drainRoom, State.useL1_eq, free]
  obtain ⟨-, mem, -, regs⟩ := s.drainEntry_fields e
  refine ⟨mem.trans ?_, fun k hk => ?_, regs.trans ?_, fun sp ia hia => ?_⟩
  · rw [State.drainL1, room]; rfl
  · rw [State.drainEntry_coreAt, State.drainL1, State.coreAt_modCore, if_neg hk, room, State.coreAt_modCore, if_neg hk]; rfl
  · rw [State.drainL1, room]; rfl
  · rw [State.drainEntry_coreAt, State.drainL1, State.coreAt_modCore, if_pos rfl]
    refine (findByte_drainBytes_other e _ sp ia e.bytes.zipIdx _ (fun p hp ⟨hs, hi⟩ => hia ⟨hs, ?_⟩)).trans ?_
    · obtain ⟨inside, -⟩ := List.getElem?_eq_some_iff.mp (List.mem_zipIdx_iff_getElem?.mp hp)
      omega
    · rw [room, State.coreAt_modCore, if_pos rfl]; rfl
end

/-! The answer of a read step (R200, R291). -/

section
variable {s v : State} {core sp ia n : Nat} {rd : Reader} {pt : Point} {ev : Evict} {bs : List Byte}

theorem State.sliceBytes_length {t : State} {p : Nat} {floor : Nat → Nat} {cs : List CByte} (h : t.sliceBytes p sp ia n pt floor = some cs) :
    cs.length = n := by
  unfold State.sliceBytes at h
  dsimp only at h
  generalize hL : (List.range n).map _ = L at h
  have length : L.length = n := by rw [← hL, List.length_map, List.length_range]
  split at h
  · next whole =>
    obtain rfl := Option.some.inj h
    rw [Bool.and_eq_true, List.all_eq_true] at whole
    exact (List.filterMap_length_eq_length.mpr (fun a ha => whole.1 a ha)).trans length
  · cases h
theorem State.filled_getElem? (t : State) {cs : List CByte} {i : Nat} {x : Byte} (hi : i < cs.length) (hx : rd.own (ia + i) = some x) :
    (t.filled core rd sp ia cs)[i]? = some x := by
  rw [State.filled, List.getElem?_map, List.getElem?_zipIdx, List.getElem?_eq_getElem hi]
  simp [hx]
theorem State.l1Bytes_getElem? (s : State) {i : Nat} (hi : i < n) : (s.l1Bytes core rd sp ia n)[i]? =
    some ((rd.own (ia + i)).getD (((findByte (s.coreAt core).l1 sp (ia + i)).map (·.val)).getD 0)) := by
  rw [State.l1Bytes, List.getElem?_map, List.getElem?_range hi]
  rfl
/-- A read step that answers: from the L1 where that gives all, else from a slice that holds every byte. -/
theorem State.takeLine_answer (h : s.takeLine core rd sp ia pt ev n = (v, some bs)) :
    bs = s.l1Bytes core rd sp ia n ∧ s.l1Gives core rd sp ia n = true ∨
    s.l1Gives core rd sp ia n = false ∧ ∃ (t : State) (cs : List CByte), cs.length = n ∧ bs = t.filled core rd sp ia cs := by
  rw [State.takeLine_eq] at h
  split at h
  · next gives => exact .inl ⟨(Option.some.inj (congrArg Prod.snd h)).symm, gives⟩
  · next gives =>
    refine .inr ⟨Bool.eq_false_iff.mpr gives, s.bring (corePkg core) sp ia n pt, ?_⟩
    rw [State.takeFill, State.takeSlice] at h
    split at h
    · cases h
    · next cs hcs => exact ⟨cs, State.sliceBytes_length hcs, (Option.some.inj (congrArg Prod.snd h)).symm⟩
theorem State.takeLine_length (h : s.takeLine core rd sp ia pt ev n = (v, some bs)) : bs.length = n := by
  rcases State.takeLine_answer h with ⟨rfl, -⟩ | ⟨-, t, cs, rfl, rfl⟩
  · simp [State.l1Bytes]
  · simp [State.filled]
/-- The reader's own entries come first. -/
theorem State.takeLine_own (h : s.takeLine core rd sp ia pt ev n = (v, some bs)) {i : Nat} (hi : i < n) {x : Byte} (hx : rd.own (ia + i) = some x) :
    bs[i]? = some x := by
  rcases State.takeLine_answer h with ⟨rfl, -⟩ | ⟨-, t, cs, hn, rfl⟩
  · rw [State.l1Bytes_getElem? s hi, hx]; rfl
  · exact t.filled_getElem? (by omega) hx

/-- The copies that an L1 has of the bytes a reader needs give them where they are all there, new enough, and of one fill. -/
theorem State.l1Gives_of_held (hall : ∀ i, i < n → rd.own (ia + i) = none → ∃ c, findByte (s.coreAt core).l1 sp (ia + i) = some c ∧
      (c.st = .owned ∨ rd.floor c.ia ≤ c.ver))
    (hone : ∀ i j c d, i < n → rd.own (ia + i) = none → findByte (s.coreAt core).l1 sp (ia + i) = some c → j < n → rd.own (ia + j) = none →
      findByte (s.coreAt core).l1 sp (ia + j) = some d → c.st ≠ .owned → d.st ≠ .owned → c.ver = d.ver) : s.l1Gives core rd sp ia n = true := by
  have need (i : Nat) : i ∈ needed rd ia n ↔ i < n ∧ rd.own (ia + i) = none := by simp [needed]
  have copy (c : CByte) : c ∈ (needed rd ia n).filterMap (fun i => findByte (s.coreAt core).l1 sp (ia + i)) ↔
      ∃ i, i < n ∧ rd.own (ia + i) = none ∧ findByte (s.coreAt core).l1 sp (ia + i) = some c := by
    simp only [List.mem_filterMap, need, and_assoc]
  unfold State.l1Gives
  dsimp only
  rw [Bool.and_eq_true, Bool.and_eq_true]
  refine ⟨⟨?_, ?_⟩, ?_⟩
  · rw [decide_eq_true_eq, List.filterMap_length_eq_length]
    intro i hi
    obtain ⟨c, found, -⟩ := hall i ((need i).mp hi).1 ((need i).mp hi).2
    rw [found]; rfl
  · unfold coherent
    split
    · next x hx =>
      obtain ⟨i, hi, own, found⟩ := (copy x).mp (List.mem_of_find?_eq_some hx)
      have stale : x.st ≠ .owned := by simpa using List.find?_some hx
      rw [List.all_eq_true]
      intro c hc
      obtain ⟨j, hj, own', found'⟩ := (copy c).mp hc
      by_cases st : c.st = .owned
      · simp [st]
      · simp [hone j i c x hj own' found' hi own found st stale]
    · rfl
  · rw [List.all_eq_true]
    intro c hc
    obtain ⟨i, hi, own, found⟩ := (copy c).mp hc
    obtain ⟨d, found', fresh⟩ := hall i hi own
    rw [found] at found'
    obtain rfl := Option.some.inj found'
    rcases fresh with st | fresh
    · simp [CByte.isOwned, st]
    · simp [fresh]
theorem State.takeLine_held (h : s.takeLine core rd sp ia pt ev n = (v, some bs)) (hg : s.l1Gives core rd sp ia n = true) {i : Nat} (hi : i < n)
    {c : CByte} (hown : rd.own (ia + i) = none) (hc : findByte (s.coreAt core).l1 sp (ia + i) = some c) : bs[i]? = some c.val := by
  rcases State.takeLine_answer h with ⟨rfl, -⟩ | ⟨no, -⟩
  · rw [State.l1Bytes_getElem? s hi, hown, hc]; rfl
  · rw [hg] at no; cases no
end

end Sys2Proof.Machine
end
section
/-! PROOFS. The steps of the ordering machine (R198, R212, R219, R223, R286 to R297, R319, R363, R366, R367). -/

namespace Sys2Proof.Machine

open Host (Outcome)

/-! Words that land in a fibre's registers (R116, R197). -/

/-- A word lands in a main register of a fibre, where its load is the one expected there. -/
def Fibre.landMain (id i : Nat) (v : Word) (f : Fibre) : Fibre :=
  if f.pend.any (fun p => p.reg = .main i && p.id = id) then { f with regs := f.regs.set i v } else f
/-- A run of words lands. -/
def Fibre.landRun (id base : Nat) (ps : List (Word × Nat)) (f : Fibre) : Fibre := ps.foldl (fun f p => f.landMain id (base + p.2) p.1) f

theorem Fibre.landMain_kept (id i : Nat) (v : Word) (f : Fibre) : (f.landMain id i v).fid = f.fid ∧ (f.landMain id i v).pend = f.pend ∧
    (f.landMain id i v).regs.length = f.regs.length := by
  unfold Fibre.landMain
  split
  · exact ⟨rfl, rfl, List.length_set⟩
  · exact ⟨rfl, rfl, rfl⟩
theorem Fibre.landMain_other (id : Nat) {i j : Nat} (h : i ≠ j) (v : Word) (f : Fibre) : (f.landMain id i v).regs[j]? = f.regs[j]? := by
  unfold Fibre.landMain
  split
  · exact List.getElem?_set_ne h
  · rfl
theorem Fibre.landMain_same {id i : Nat} {f : Fibre} (hp : f.pend.any (fun p => p.reg = .main i && p.id = id) = true) (hi : i < f.regs.length) (v : Word) :
    (f.landMain id i v).regs[i]? = some v := by
  rw [Fibre.landMain.eq_def, if_pos hp]
  exact List.getElem?_set_self hi
theorem Fibre.landRun_fid (id base : Nat) (ps : List (Word × Nat)) (f : Fibre) : (f.landRun id base ps).fid = f.fid := by
  induction ps generalizing f with
  | nil => rfl
  | cons p r ih => exact (ih _).trans (Fibre.landMain_kept ..).1
theorem Fibre.landRun_other (id base : Nat) {i : Nat} (ps : List (Word × Nat)) (f : Fibre) (hne : ∀ p ∈ ps, p.2 ≠ i) :
    (f.landRun id base ps).regs[base + i]? = f.regs[base + i]? := by
  induction ps generalizing f with
  | nil => rfl
  | cons p r ih =>
    have apart := hne p (List.mem_cons_self ..)
    exact (ih _ (fun q hq => hne q (List.mem_cons_of_mem p hq))).trans (Fibre.landMain_other id (by omega) p.1 f)
/-- Each expected word of a run is there once all have landed. -/
theorem Fibre.landRun_getElem? {id base i : Nat} (ps : List (Word × Nat)) (f : Fibre) (hi : base + i < f.regs.length)
    (hp : f.pend.any (fun p => p.reg = .main (base + i) && p.id = id) = true) (hu : (ps.map Prod.snd).Nodup) {w : Word} (hw : (w, i) ∈ ps) :
    (f.landRun id base ps).regs[base + i]? = some w := by
  induction ps generalizing f with
  | nil => cases hw
  | cons p r ih =>
    obtain ⟨fresh, distinct⟩ := List.nodup_cons.mp hu
    rcases List.mem_cons.mp hw with rfl | hw
    · exact (Fibre.landRun_other id base r _ (fun q hq e => fresh (List.mem_map.mpr ⟨q, hq, e⟩))).trans (Fibre.landMain_same hp hi w)
    · obtain ⟨-, pend, length⟩ := f.landMain_kept id (base + p.2) p.1
      exact ih _ (by rw [length]; exact hi) (by rw [pend]; exact hp) distinct hw

theorem State.landWords_teams (s : State) (l : Lane) (fld : Field) (ws : List Word) (id : Nat) : ∃ ts, s.landWords l fld ws id = s.withTeams ts := by
  refine State.foldl_teams (fun t p => ?_) _ s
  unfold State.land
  split
  · split
    · exact ⟨t.teams, rfl⟩
    · exact ⟨_, rfl⟩
  · exact ⟨_, rfl⟩
theorem State.landWords_main (s : State) (l : Lane) {fld : Field} (hf : fld.file = .main) (ws : List Word) (id : Nat) :
    s.landWords l fld ws id = s.modFibre l (Fibre.landRun id fld.idx ws.zipIdx) := by
  have runs := State.foldl_modFibre l (fun (p : Word × Nat) => Fibre.landMain id (fld.idx + p.2) p.1) (fun p f => (f.landMain_kept ..).1) ws.zipIdx s
  refine Eq.trans ?_ runs
  unfold State.landWords
  rw [hf]
  rfl
/-- A load's words land where its fibre expects them. -/
theorem State.landWords_getElem? {s : State} {l : Lane} {fld : Field} {ws : List Word} {id i : Nat} (hl : (s.fibre? l).isSome = true)
    (hf : fld.file = .main) (hi : fld.idx + i < (s.fibre l).regs.length) (hp : ∃ p ∈ (s.fibre l).pend, p.reg = .main (fld.idx + i) ∧ p.id = id)
    (hw : i < ws.length) : ((s.landWords l fld ws id).fibre l).regs[fld.idx + i]? = ws[i]? := by
  rw [State.landWords_main s l hf, State.fibre_modFibre s l _ (Fibre.landRun_fid id fld.idx ws.zipIdx) hl, List.getElem?_eq_getElem hw]
  refine Fibre.landRun_getElem? _ _ hi ?_ ?_ ?_
  · obtain ⟨p, hm, hr, he⟩ := hp
    exact List.any_eq_true.mpr ⟨p, hm, by simp [hr, he]⟩
  · rw [List.zipIdx_map_snd]
    exact List.nodup_range'
  · simp [List.mem_zipIdx_iff_getElem?, hw]
/-- Fibres that differ in recorded faults alone have the same registers and the same results on their way. -/
theorem State.AlikeTeams.fibre {s u : State} (ht : s.AlikeTeams u) (l : Lane) : (u.fibre l).regs = (s.fibre l).regs ∧ (u.fibre l).pend = (s.fibre l).pend := by
  obtain ⟨a, b, c, d, e⟩ := ht.fibre? l
  rw [State.fibre_eq_getD, State.fibre_eq_getD, e]
  cases s.fibre? l <;> exact ⟨rfl, rfl⟩

/-! A load finished (R197, R291, R293). -/

theorem State.noteSeen_keeps (s : State) (l : Lane) (ids : List Nat) :
    (∃ ts, s.noteSeen l ids = s.withTeams ts) ∧ ∀ k, ((s.noteSeen l ids).fibre? k).isSome = (s.fibre? k).isSome ∧
      ((s.noteSeen l ids).fibre k).regs = (s.fibre k).regs ∧ ((s.noteSeen l ids).fibre k).pend = (s.fibre k).pend := by
  unfold State.noteSeen
  split
  · exact ⟨⟨s.teams, rfl⟩, fun _ => ⟨rfl, rfl, rfl⟩⟩
  · refine ⟨⟨_, rfl⟩, fun k => ?_⟩
    have look := State.fibre?_modFibre s l (fun f => { f with seen := f.seen ++ ids.filter (fun i => !f.seen.contains i) }) (fun _ => rfl) k
    rw [State.fibre_eq_getD, State.fibre_eq_getD s, look]
    split <;> cases s.fibre? k <;> exact ⟨rfl, rfl, rfl⟩
section
variable {s : State} {q : Req} {bs : List Byte} {d : Field} {i : Nat} (hh : q.hard = false) (ha : q.acq = false) (hd : q.dst = some d)
include hh ha hd

theorem State.finishLoad_eq : s.finishLoad q bs = ((s.noteSeen ⟨q.tid, q.fid⟩ (s.witnessed q.core q.tid q.fid q.sp q.ia q.size)).landWords
    ⟨q.tid, q.fid⟩ d (loadWords q.size q.sx (ofBytes bs)) q.order).dropReq q.id := by
  unfold State.finishLoad State.thenAcquire
  rw [hh, ha, hd]
  rfl
theorem State.finishLoad_queues : (s.finishLoad q bs).reqs = s.reqs.filter (fun x => x.id ≠ q.id) ∧ (s.finishLoad q bs).wq = s.wq := by
  rw [State.finishLoad_eq hh ha hd]
  obtain ⟨ts, noted⟩ := (s.noteSeen_keeps ⟨q.tid, q.fid⟩ (s.witnessed q.core q.tid q.fid q.sp q.ia q.size)).1
  obtain ⟨us, landed⟩ := State.landWords_teams (s.noteSeen ⟨q.tid, q.fid⟩ (s.witnessed q.core q.tid q.fid q.sp q.ia q.size)) ⟨q.tid, q.fid⟩ d
    (loadWords q.size q.sx (ofBytes bs)) q.order
  rw [landed, noted]
  exact ⟨rfl, rfl⟩
theorem State.finishLoad_register (hl : (s.fibre? ⟨q.tid, q.fid⟩).isSome = true) (hf : d.file = .main)
    (hi : d.idx + i < (s.fibre ⟨q.tid, q.fid⟩).regs.length)
    (hp : ∃ p ∈ (s.fibre ⟨q.tid, q.fid⟩).pend, p.reg = .main (d.idx + i) ∧ p.id = q.order) (hw : i < (loadWords q.size q.sx (ofBytes bs)).length) :
    ((s.finishLoad q bs).fibre ⟨q.tid, q.fid⟩).regs[d.idx + i]? = (loadWords q.size q.sx (ofBytes bs))[i]? := by
  rw [State.finishLoad_eq hh ha hd]
  obtain ⟨present, regs, pend⟩ := (s.noteSeen_keeps ⟨q.tid, q.fid⟩ (s.witnessed q.core q.tid q.fid q.sp q.ia q.size)).2 ⟨q.tid, q.fid⟩
  exact State.landWords_getElem? (present.trans hl) hf (by rw [regs]; exact hi) (by rw [pend]; exact hp) hw
end
theorem loadWords_length (n : Nat) (sx : Bool) (v w : Nat) : (loadWords n sx v).length = (loadWords n sx w).length := by
  unfold loadWords
  split
  · rfl
  · rw [List.length_map, List.length_map]

/-! The read step of a load, and a fill (R289, R291). -/

section
variable {s v : State} {q : Req} {bs : List Byte}

theorem State.take_rest (ht : s.take q.core q.tid q.fid q.order q.sp q.ia q.pt q.evict q.size = (v, some bs)) :
    (v.touchPage q.part q.ia).besideCaches = s.besideCaches := by
  have line := (Reads.takeLine q.core (s.reader q.tid q.fid q.order q.sp) q.sp q.ia q.pt q.evict q.size).rest s
  rw [State.take] at ht
  rw [ht] at line
  exact ((Settles.touchPage q.part q.ia).rest v).trans line
theorem execRead_load (hq : s.req? q.id = some q) (hk : q.kind = .load) (hz : q.size ≠ 0) (hb : s.behind q = false) (hh : s.loadHeld q = false)
    (hx : s.asksHome q = true → s.barred (corePkg q.core) q.sp q.ia = false)
    (ht : s.take q.core q.tid q.fid q.order q.sp q.ia q.pt q.evict q.size = (v, some bs)) :
    exec (.read q.id) s = .next ((v.touchPage q.part q.ia).finishLoad q bs) := by
  have open_ : (s.asksHome q && s.barred (corePkg q.core) q.sp q.ia) = false := by
    cases asks : s.asksHome q with
    | false => rfl
    | true => rw [hx asks]; rfl
  show execRead q.id s = _
  unfold execRead
  rw [hq]
  simp only [hk]
  unfold State.readLoad
  rw [if_neg hz, hb, hh, open_, ht]
  rfl
theorem execFill_takes {pkg core ia : Nat} (hq : s.reqs.find? (fun q => q.kind = .load && q.core = 384 * pkg + core && decide (q.size ≠ 0) &&
      wordOf q.ia = wordOf ia) = some q) (hh : s.loadHeld q = false) (hb : s.barred pkg q.sp q.ia = false)
    (ht : s.take (384 * pkg + core) q.tid q.fid q.order q.sp q.ia q.pt q.evict q.size = (v, some bs)) :
    exec (.fill pkg core ia) s = .next (v.touchPage q.part q.ia) := by
  have found : s.reqs.find? (fun q => q.kind = .load && q.core = Config.coresPerPkg * pkg + core && decide (q.size ≠ 0) &&
      wordOf q.ia = wordOf ia) = some q := hq
  have taken : s.take (Config.coresPerPkg * pkg + core) q.tid q.fid q.order q.sp q.ia q.pt q.evict q.size = (v, some bs) := ht
  show execFill pkg core ia s = _
  unfold execFill
  dsimp only
  rw [found]
  dsimp only
  rw [hh, hb, taken]
  rfl
end

/-! Registrations, and bytes that age out or go up (R289). -/

section
variable {s : State} {r : Reg} (hr : s.regs.find? (fun x => x.entry.id = r.entry.id) = some r) (hl : r.entry.remote = false)
include hr hl

theorem execRegister_arrives (hn : r.registered = false) (hp : r.parked = none) (hf : s.readParked r.entry.sp r.entry.ia s.seq = false)
    (hb : r.entry.pt.wide = true → s.barred (corePkg r.entry.core) r.entry.sp r.entry.ia = false) : exec (.register r.entry.id) s = .next
      ((s.arriveReg r.entry).cleanWords r.entry.sp r.entry.ia r.entry.bytes.length) := by
  have open_ : (r.entry.pt.wide && s.barred (corePkg r.entry.core) r.entry.sp r.entry.ia) = false := by
    cases wide : r.entry.pt.wide with
    | false => rfl
    | true => rw [hb wide]; rfl
  show execRegister r.entry.id s = _
  unfold execRegister
  rw [hr]
  dsimp only
  rw [hn, hp, hl, hf, open_]
  rfl
theorem execAcknowledge_counts (hn : r.registered = true) : exec (.acknowledge r.entry.id) s = .next (s.acknowledged r.entry.id) := by
  show execAcknowledge r.entry.id s = _
  unfold execAcknowledge
  rw [hr]
  dsimp only
  rw [hn, hl]
  rfl
end
theorem execWriteBack_idle {s : State} {pkg core ia : Nat} (h : ∀ b ∈ (s.coreAt (384 * pkg + core)).l1, b.ia / 4 = ia / 4 → b.st ≠ .owned)
    (hc : core < 384) : exec (.writeBack pkg core ia) s = .next s := by
  have none_ : (s.coreAt (Config.coresPerPkg * pkg + core)).l1.filter (fun c => c.isOwned && wordOf c.ia = wordOf ia) = [] := by
    rw [List.filter_eq_nil_iff]
    intro b hb
    rw [Bool.and_eq_true, CByte.isOwned, decide_eq_true_eq, decide_eq_true_eq]
    rintro ⟨own, word⟩
    unfold wordOf at word
    exact h b hb (by omega) own
  show Outcome.next (s.writeBackWord pkg core ia) = _
  unfold State.writeBackWord
  dsimp only
  rw [if_pos (show core < Config.coresPerPkg from hc), none_]
  rfl

end Sys2Proof.Machine
end
section
/-! PROOFS. Atomics, tiles, releases, clasps and parked requests (R212, R219, R222, R223, R293, R296, R297, R319, R363 to R367). -/

namespace Sys2Proof.Machine

open Host (Outcome)

/-! ATOMIC_STEP (R296). -/

/-- The read-modify-write of an atomic at its home, step by step (R219, R289, R296). -/
theorem State.applyAtomic_eq (t : State) (q : Req) : t.applyAtomic q =
    let taken := t.homeTake q.core q.sp q.ia q.size
    let old := ofBytes taken.1
    let put := (taken.2.homePut (some q.core) q.sp q.ia (toBytes q.size (atomicOp q.aop q.sgn q.cas (8 * q.size) old q.b.toNat q.c.toNat))
      [{ tid := q.tid, fid := q.fid, va := q.va, part := q.part, level := q.level }]).cleanWords q.sp q.ia q.size
    let up := if q.pt = .system then (List.range q.size).foldl (fun t i => t.flushSys q.sp (q.ia + i)) put else put
    (old, up.touchPage q.part q.ia) := rfl
/-- An atomic that may take its step at its home, where none takes it up, applies and ends (R219, R296). -/
theorem execAtomicStep_applies {s : State} {q : Req} (hq : s.req? q.id = some q) (hk : q.kind = .atomic) (hr : s.atomicReady q = true)
    (ha : q.aop ≠ .faddAny) (hh : q.hard = false) (hi : q.into = none) {p : Nat} (hp : homePkg q.ia = p) : exec (.atomicStep q.id) s =
      .next (((s.endIngress p q.sp q.ia).applyAtomic q).2.finishAtomic q ((s.endIngress p q.sp q.ia).applyAtomic q).1) := by
  subst hp
  have alone : s.mergeable q = none := by
    unfold State.mergeable
    exact if_pos (by simp [Req.merges, ha])
  show execAtomicStep q.id s = _
  unfold execAtomicStep
  rw [hq]
  dsimp only
  rw [hk, hi, hr, alone, hh]
  rfl

/-! TILE_STEP (R297): the fibre is still there when its tile has moved. -/

/-- A step that leaves the fibres of a state where they are. -/
def Stays (f : State → State) : Prop := ∀ s k, ((f s).fibre? k).isSome = (s.fibre? k).isSome

namespace Stays

theorem of_teams {f : State → State} (h : ∀ s, (f s).teams = s.teams) : Stays f := fun s k => by rw [fibre?_of_teams _ _ (h s)]
theorem moving {f : State → State} (h : ∀ s, State.MovesBytes s (f s)) : Stays f := of_teams (fun s => (h s).teams)
theorem settling {f : State → State} (h : Settles f) : Stays f := fun s k => (State.AlikeTeams.of_besideCaches (h.rest s)).present k
theorem comp {f g : State → State} (hg : Stays g) (hf : Stays f) : Stays (fun s => g (f s)) := fun s k => (hg (f s) k).trans (hf s k)
theorem foldl {α : Type} {f : State → α → State} (hf : ∀ x, Stays (fun s => f s x)) (l : List α) : Stays (fun s => l.foldl f s) := by
  intro s k
  induction l generalizing s with
  | nil => rfl
  | cons x r ih => exact (ih (f s x)).trans (hf x s k)
theorem modFibre (l : Lane) (g : State → Fibre → Fibre) (hg : ∀ s f, (g s f).fid = f.fid) : Stays (fun s => s.modFibre l (g s)) := by
  intro s k
  rw [State.fibre?_modFibre s l (g s) (hg s)]
  split
  · exact Option.isSome_map
  · rfl
theorem ite {c : State → Prop} [∀ s, Decidable (c s)] {f g : State → State} (hf : Stays f) (hg : Stays g) :
    Stays (fun s => if c s then f s else g s) := by
  intro s k
  dsimp only
  split
  · exact hf s k
  · exact hg s k
theorem noteSeen (l : Lane) (ids : State → List Nat) : Stays (fun s => s.noteSeen l (ids s)) := fun s k => ((s.noteSeen_keeps l (ids s)).2 k).1
theorem raiseFloor (l : Lane) (core sp ia n : Nat) : Stays (fun s => s.raiseFloor l core sp ia n) :=
  ite (c := fun _ => homePkg ia = corePkg core) (fun _ _ => rfl)
    (modFibre l (fun s f => { f with floor := (sp, ia, n, s.seq) :: f.floor.filter (fun x => !(x.1 = sp && x.2.1 = ia && x.2.2.1 = n)) }) (fun _ _ => rfl))

end Stays

/-- One line's clasp of a tile released. -/
def State.unclaspLine (q : Req) (t : State) (x : Nat × Nat) : State :=
  if homePkg (x.2 * 128) = corePkg q.core then
    t.modPkg (homePkg (x.2 * 128)) (fun p => { p with clasps := p.clasps.filter (fun c => c.req ≠ q.id || c.line ≠ x.2 || c.sp ≠ x.1) })
  else t.send (corePkg q.core) (homePkg (x.2 * 128)) (.unclasp q.id x.1 x.2)
/-- One run of a tile store written (R297). -/
def tileRun (q : Req) (acc : State × List Byte) (x : Nat × Nat × Nat) : State × List Byte :=
  ((acc.1.writeRange q.core x.1 x.2.1 q.pt (acc.2.take x.2.2) [q.writer]).cleanWords x.1 x.2.1 x.2.2, acc.2.drop x.2.2)
/-- The pages of a tile used, and what the core's path owns of it written back to its point. -/
def State.tileRaised (s : State) (q : Req) : State :=
  q.segs.foldl (fun t x => (List.range x.2.2).foldl (fun t i => t.raiseByte q.core x.1 (x.2.1 + i) q.pt) t)
    (q.segs.foldl (fun t x => t.touchPage q.part x.2.1) s)
/-- What a tile's fibre has met at its home (R292). -/
def State.tileMet (s : State) (q : Req) : State :=
  if q.pt.wide then q.segs.foldl (fun t x => t.raiseFloor ⟨q.tid, q.fid⟩ q.core x.1 x.2.1 x.2.2) s else s
/-- The registrations that a tile's fibre has seen. -/
def State.tileSeen (s : State) (q : Req) (t : State) : State :=
  q.segs.foldl (fun t x => t.noteSeen ⟨q.tid, q.fid⟩ (s.witnessed q.core q.tid q.fid x.1 x.2.1 x.2.2)) t
/-- The state once a tile store has moved, its clasps still held. -/
def State.tileMoved (s : State) (q : Req) : State := s.tileSeen q ((q.segs.foldl (tileRun q) (s.tileRaised q, q.data)).1.tileMet q)

theorem State.unclaspAll_eq (s : State) (q : Req) : s.unclaspAll q = q.tileLines.foldl (State.unclaspLine q) s := rfl
theorem State.moveTile_store (s : State) {q : Req} (hk : q.kind = .tileStore) :
    s.moveTile q = ((q.segs.foldl (tileRun q) (s.tileRaised q, q.data)).1.tileMet q, q.data) := by
  unfold State.moveTile
  dsimp only
  rw [if_neg (by rw [hk]; decide)]
  rfl

namespace Stays

theorem unclaspAll (q : Req) : Stays (fun s => s.unclaspAll q) := by
  simp only [State.unclaspAll_eq]
  refine foldl (fun x => of_teams (fun s => ?_)) q.tileLines
  unfold State.unclaspLine
  split
  · rfl
  · exact (congrArg State.teams (s.send_besideMail _ _ (.unclasp q.id x.1 x.2)) :)
theorem tileRaised (q : Req) : Stays (fun s => s.tileRaised q) := by
  have touched : Stays (fun s => q.segs.foldl (fun t x => t.touchPage q.part x.2.1) s) := by
    refine foldl ?_ q.segs
    exact fun x => moving (fun t => .touchPage t q.part x.2.1)
  have raised : Stays (fun s => q.segs.foldl (fun t x => (List.range x.2.2).foldl (fun t i => t.raiseByte q.core x.1 (x.2.1 + i) q.pt) t) s) := by
    refine foldl ?_ q.segs
    intro x
    refine foldl ?_ (List.range x.2.2)
    exact fun i => settling (Settles.raiseByte q.core x.1 (x.2.1 + i) q.pt)
  exact raised.comp touched
theorem tileMet (q : Req) : Stays (fun s => s.tileMet q) := by
  have floors : Stays (fun s => q.segs.foldl (fun t x => t.raiseFloor ⟨q.tid, q.fid⟩ q.core x.1 x.2.1 x.2.2) s) := by
    refine foldl ?_ q.segs
    exact fun x => raiseFloor _ q.core x.1 x.2.1 x.2.2
  exact ite (c := fun _ => q.pt.wide = true) floors (fun _ _ => rfl)
theorem tileSeen (s : State) (q : Req) : Stays (fun t => s.tileSeen q t) := by
  unfold State.tileSeen
  refine foldl ?_ q.segs
  exact fun x => noteSeen _ (fun _ => s.witnessed q.core q.tid q.fid x.1 x.2.1 x.2.2)
theorem tileRuns (q : Req) (data : List Byte) : Stays (fun s => (q.segs.foldl (tileRun q) (s, data)).1) := by
  have runs (segs : List (Nat × Nat × Nat)) (acc : State × List Byte) (k : Lane) :
      ((segs.foldl (tileRun q) acc).1.fibre? k).isSome = (acc.1.fibre? k).isSome := by
    induction segs generalizing acc with
    | nil => rfl
    | cons x r ih =>
      have written := (State.MovesBytes.writeRange acc.1 q.core x.1 x.2.1 q.pt (acc.2.take x.2.2) [q.writer]).trans (.cleanWords _ x.1 x.2.1 x.2.2)
      exact (ih _).trans (congrArg Option.isSome (fibre?_of_teams acc.1 (tileRun q acc x).1 written.teams k))
  exact fun s k => runs q.segs (s, data) k

end Stays

/-- A tile store that may move moves its own bytes, and its fibre goes on. -/
theorem execTileStep_store {s : State} {q : Req} (hq : s.req? q.id = some q) (hk : q.kind = .tileStore) (hc : s.holdsClasps q = true)
    (hm : ∀ m ∈ s.msgs, m.op ≠ .ack q.id ∧ ∀ b, m.op ≠ .data q.id b) (hb : s.tileBehind q = false) : ∃ u, exec (.tileStep q.id) s = .next u ∧
      (∀ x ∈ u.reqs, x.id = q.id → x.data = q.data) ∧
      ((s.fibre? ⟨q.tid, q.fid⟩).isSome = true → (u.fibre ⟨q.tid, q.fid⟩).hold = some (.tile q.id true)) := by
  have present : (((s.tileMoved q).unclaspAll q).fibre? ⟨q.tid, q.fid⟩).isSome = (s.fibre? ⟨q.tid, q.fid⟩).isSome :=
    ((Stays.unclaspAll q).comp ((Stays.tileSeen s q).comp ((Stays.tileMet q).comp ((Stays.tileRuns q q.data).comp (Stays.tileRaised q))))) s _
  have step : ∃ (v : State) (now : Nat), (v.fibre? ⟨q.tid, q.fid⟩).isSome = (s.fibre? ⟨q.tid, q.fid⟩).isSome ∧ exec (.tileStep q.id) s =
      .next ((v.modReq q.id (fun x => { x with data := q.data, moved := true })).modFibre ⟨q.tid, q.fid⟩ (fun f =>
        { f with hold := some (.tile q.id true), readySince := max f.readyAt now })) := by
    refine ⟨_, (s.tileMoved q).now, present, ?_⟩
    show execTileStep q.id s = _
    unfold execTileStep
    rw [hq]
    dsimp only
    rw [if_neg, s.moveTile_store hk]
    · rfl
    · simp [hk, hc, hb]
      intro m hm'
      obtain ⟨ack, data⟩ := hm m hm'
      cases ho : m.op <;> simp_all
  obtain ⟨v, now, present, step⟩ := step
  refine ⟨_, step, fun x hx hid => ?_, fun here => ?_⟩
  · obtain ⟨y, -, rfl⟩ := List.mem_map.mp hx
    by_cases hy : y.id = q.id
    · rw [if_pos hy]
    · rw [if_neg hy] at hid
      exact absurd hid hy
  · refine (congrArg Fibre.hold (State.fibre_modFibre _ _ _ ?_ (present.trans here))).trans ?_
    · exact fun _ => rfl
    · rfl

/-! RELEASE_COMPLETE (R293). -/

/-- A fibre one of whose releases is over. -/
def State.released (s : State) (seq : Nat) (f : Fibre) : Fibre :=
  { f with
    rels := f.rels.filter (fun x => x.seq ≠ seq)
    hold := if f.hold = some (.release seq false) then some (.release seq true) else f.hold
    seen := if f.rels.length = 1 then f.seen.filter (fun i => s.regs.any (fun x => x.entry.id = i)) else f.seen
    readySince := if f.hold = some (.release seq false) then max f.readyAt s.now else f.readySince }

theorem execReleaseComplete_completes {s : State} {l : Lane} {r : Release} (hl : (s.fibre? l).isSome = true)
    (hr : (s.fibre l).rels.find? (fun x => x.seq = r.seq) = some r) (hd : s.releaseReady l r.seq r.pt = true)
    (hq : ∀ q ∈ s.reqs, q.kind = .tileStore → q.rel ≠ some r.seq) (hh : (s.fibre l).hold = some (.release r.seq false)) :
    ∃ u sn, exec (.releaseComplete l.tid l.fid r.seq) s = .next u ∧ u.fibre? l = some { s.fibre l with
      rels := (s.fibre l).rels.filter (fun x => x.seq ≠ r.seq), hold := some (.release r.seq true), seen := sn
      readySince := max (s.fibre l).readyAt s.now } := by
  have first : (s.relsOf l.tid l.fid).find? (fun x => x.seq = r.seq) = some r := by
    rw [State.relsOf, List.find?_append, hr]
    rfl
  have tiles : s.reqs.find? (fun q => q.kind = .tileStore && q.tid = l.tid && q.fid = l.fid && q.rel = some r.seq) = none := by
    rw [List.find?_eq_none]
    intro q hm
    simp only [Bool.and_eq_true, decide_eq_true_eq, not_and, and_imp]
    exact fun kind _ _ => hq q hm kind
  have step : exec (.releaseComplete l.tid l.fid r.seq) s = .next ((s.endTailRelease l.tid l.fid r.seq).modFibre l (s.released r.seq)) := by
    show execReleaseComplete l.tid l.fid r.seq s = _
    unfold execReleaseComplete
    dsimp only
    rw [first]
    dsimp only
    rw [hd, if_neg (by simp)]
    refine congrArg Outcome.next ?_
    split
    · next q found => rw [show s.reqs.find? _ = some q from found] at tiles; cases tiles
    · rfl
  refine ⟨_, (s.released r.seq (s.fibre l)).seen, step, ?_⟩
  have kept : (s.endTailRelease l.tid l.fid r.seq).fibre? l = some (s.fibre l) := State.fibre?_of_isSome s l hl
  rw [State.fibre?_modFibre _ _ _ (by intro _; rfl), if_pos rfl, kept, Option.map_some]
  simp only [State.released, hh, if_true]

/-! CLASP_GRANT (R319). -/

theorem insertAt_insertAt {α : Type} (k : Nat) (v w : α) (l : List (Nat × α)) : insertAt k v (insertAt k w l) = insertAt k v l := by
  induction l with
  | nil => simp [insertAt]
  | cons x r ih =>
    obtain ⟨k', v'⟩ := x
    by_cases h : k' = k <;> simp [insertAt, h, ih]
theorem State.modPkg_modPkg (s : State) (p : Nat) (f g : Pkg → Pkg) : (s.modPkg p f).modPkg p g = s.modPkg p (fun k => g (f k)) := by
  unfold State.modPkg State.pkgAt
  dsimp only
  rw [insertAt_insertAt, lookupD_insertAt, if_pos rfl]
/-- A line's record in an ingress atomic cache is gone, whether it was there or not, before another change of its package. -/
theorem State.endIngress_modPkg (s : State) (p sp line : Nat) (g : Pkg → Pkg) : (s.endIngress p sp (128 * line)).modPkg p g =
    s.modPkg p (fun k => g { k with ingress := k.ingress.filter (fun x => !(x.1 = sp && x.2.1 = line)) }) := by
  have here (x : Nat × Nat × Nat) : (x.1 = sp && decide (128 * line / 128 ≤ x.2.1) && decide (x.2.1 ≤ (128 * line + 1 - 1) / 128)) =
      (decide (x.1 = sp) && decide (x.2.1 = line)) := by
    rw [Bool.eq_iff_iff]
    simp only [Bool.and_eq_true, decide_eq_true_eq]
    constructor
    · rintro ⟨⟨hs, low⟩, high⟩; exact ⟨hs, by omega⟩
    · rintro ⟨hs, hl⟩; exact ⟨⟨hs, by omega⟩, by omega⟩
  unfold State.endIngress
  simp only [here]
  split
  · exact State.modPkg_modPkg s p _ g
  · next gone =>
    have same : (s.pkgAt p).ingress.filter (fun x => !(x.1 = sp && x.2.1 = line)) = (s.pkgAt p).ingress := by
      rw [List.filter_eq_self]
      intro x hx
      rw [List.any_eq_true, not_exists] at gone
      rw [Bool.not_eq_true', Bool.eq_false_iff]
      exact fun taken => gone x ⟨hx, taken⟩
    exact State.modPkg_congr (congrArg (fun i => g { s.pkgAt p with ingress := i }) same.symm)
theorem execClaspGrant_shared {s : State} {pkg line : Nat} {c : Clasp} (hc : (s.pkgAt pkg).clasps.find? (fun c => c.line = line && !c.held &&
      !(s.pkgAt pkg).clasps.any (fun d => d.held && d.line = line && d.sp = c.sp)) = some c) (hr : s.reqs = []) (he : c.excl = false) :
    exec (.claspGrant pkg line) s = .next (s.modPkg pkg (fun p => { p with
      clasps := p.clasps.map (fun d => if d = c then { d with held := true } else d)
      ingress := p.ingress.filter (fun x => !(x.1 = c.sp && x.2.1 = line)) })) := by
  show execClaspGrant pkg line s = _
  unfold execClaspGrant
  dsimp only
  rw [hc]
  dsimp only
  rw [State.endIngress_modPkg, he]
  have unasked : (s.modPkg pkg (fun p => { p with
      clasps := p.clasps.map (fun d => if d = c then { d with held := true } else d)
      ingress := p.ingress.filter (fun x => !(x.1 = c.sp && x.2.1 = line)) })).req? c.req = none := by
    rw [State.req?, show (s.modPkg pkg _).reqs = s.reqs from rfl, hr]
    rfl
  rw [if_neg (by simp), unasked]

/-! Requests that stay parked (R367). -/

theorem execParkLimit_idle {s : State} {pkg page : Nat} (h : ∀ q, q < 96 → s.oldestParked (96 * pkg + q) page = none) :
    exec (.parkLimit pkg page) s = .next s := by
  have fixed (qs : List Nat) (hq : ∀ q ∈ qs, q < 96) : qs.foldl (State.limitStep pkg page) s = s := by
    induction qs with
    | nil => rfl
    | cons q r ih =>
      rw [List.foldl_cons, State.limitStep_none (h q (hq q (List.mem_cons_self ..)))]
      exact ih (fun x hx => hq x (List.mem_cons_of_mem q hx))
  exact (execParkLimit_eq pkg page s).trans (congrArg Outcome.next (fixed (List.range 96) (fun q hq => List.mem_range.mp hq)))

theorem execPgready_ready {s : State} {pkg part page : Nat} (h : homePkg (page * 65536) = pkg) :
    exec (.pgready pkg part page) s = .next (s.pageReady (96 * pkg + part) page) := by
  show execPgready pkg part page s = _
  unfold execPgready
  rw [if_pos h]

/-- Settles O53: each step by what its own definition does; a read by what the L1 and the slice answer, and what the caches leave beside. -/
theorem orderingStepResults : Obligations.OrderingStepResults := by
  unfold Obligations.OrderingStepResults
  refine ⟨fun s e he hd => ?_, fun s r hr hl => ⟨execRegister_arrives hr hl, execAcknowledge_counts hr hl⟩, ?_, ?_, ?_, fun s pkg core ia =>
    ⟨rfl, execWriteBack_idle⟩, ?_, fun s q hq hk hc hm hb => execTileStep_store hq hk hc hm hb, fun s l r => execReleaseComplete_completes,
    fun s pkg line c hc hr he => execClaspGrant_shared hc hr he, fun s pkg page => execParkLimit_idle, fun s pkg part page hp => ?_, fun _ _ _ => rfl⟩
  · refine ⟨s.drainEntry e, ?_, s.drainEntry_wq e, fun i hi => s.drainEntry_byte e hi, s.drainEntry_alone e⟩
    show execDrain e.id s = _
    unfold execDrain
    rw [he]
    dsimp only
    rw [hd]
    rfl
  · intro s v q bs d i hq hk hz hb hh hd ha hdst hx ht
    have rest := State.take_rest ht
    have alike := State.AlikeTeams.of_besideCaches rest
    obtain ⟨reqs, wq⟩ := State.finishLoad_queues (s := v.touchPage q.part q.ia) (bs := bs) hd ha hdst
    refine ⟨_, execRead_load hq hk hz hb hh hx ht, reqs.trans (by rw [State.reqs_of_besideCaches rest]), wq.trans (State.wq_of_besideCaches rest), ?_⟩
    intro hw hf hi hl hp
    obtain ⟨regs, pend⟩ := alike.fibre ⟨q.tid, q.fid⟩
    exact State.finishLoad_register hd ha hdst ((alike.present _).trans hl) hf (by rw [regs]; exact hi) (by rw [pend]; exact hp)
      (loadWords_length .. ▸ hw)
  · intro s v core sp ia rd pt ev n bs ht
    refine ⟨State.takeLine_length ht, fun i hi x hx => State.takeLine_own ht hi hx, fun hall hone i c hc => ?_⟩
    obtain ⟨hi, own, found⟩ := hc
    refine State.takeLine_held ht (State.l1Gives_of_held (fun i hi own => ?_) ?_) hi own found
    · obtain ⟨c, hc, fresh⟩ := hall i hi own
      exact ⟨c, hc.2.2, fresh⟩
    · exact fun i j c d hi own found hj own' found' => hone i j c d ⟨hi, own, found⟩ ⟨hj, own', found'⟩
  · intro s v pkg core ia q bs ck hq hh hb ht
    exact execFill_takes hq hh hb ht
  · intro s q hq hk hr ha hh hi
    have home : homePkg q.ia = q.ia / 2 ^ 52 % 2 ^ 8 := by
      rw [homePkg]
      norm_num
    have step := execAtomicStep_applies hq hk hr ha hh hi home
    rw [State.applyAtomic_eq] at step
    exact step
  · have home : homePkg (page * 65536) = pkg := by
      unfold homePkg
      exact hp
    exact execPgready_ready home

end Sys2Proof.Machine
end
section
/-! PROOFS. What a message does at its destination (R289, R407): a slice that lists one byte twice gives a load another byte than DATA
brings. -/

namespace Sys2Proof.Machine

open Host (Outcome)

/-- A load of the byte at address 0 by the one fibre of the one team, into v0. -/
def twiceLoad : Req :=
  { id := 1, kind := .load, tid := 0, fid := 0, core := 0, part := 0, order := 1, va := 0, sp := 0, ia := 0, size := 1, pt := .core,
    dst := some 0 }
/-- The message that brings the load its byte, 5, at its destination. -/
def twiceData : Msg := { id := 0, src := 0, dst := 0, eseq := 0, epoch := 0, op := .data 1 [5], stage := .accepted }
/-- The first record of that byte in the slice: a copy of value 0. -/
def twiceCopy : CByte := { sp := 0, ia := 0, st := .valid, val := 0 }
/-- The second record of it: an owned byte of value 7. -/
def twiceOwned : CByte := { sp := 0, ia := 0, st := .owned, val := 7 }
/-- The machine as the message arrives: the slice lists the byte twice, the copy before the owned one. -/
def twiceState : State :=
  { teams := [{ tid := 0, fibres := [{ fid := 0, regs := [0], pend := [{ reg := .main 0, old := 0, due := none, id := 1 }] }] }]
    reqs := [twiceLoad]
    msgs := [twiceData]
    pkgs := [(0, { llc := [twiceCopy, twiceOwned] })] }

theorem twiceState_accepted : twiceState.Accepted twiceData := ⟨rfl, rfl, rfl⟩
/-- The first record is what a search finds, and it is not owned; the L1 holds nothing. -/
theorem twiceState_unowned {j : Nat} (hj : j < twiceLoad.size) (b : CByte)
    (hb : findByte (twiceState.pkgAt (corePkg twiceLoad.core)).llc twiceLoad.sp (twiceLoad.ia + j) = some b ∨
      findByte (twiceState.coreAt twiceLoad.core).l1 twiceLoad.sp (twiceLoad.ia + j) = some b) : b.st ≠ .owned := by
  obtain rfl : j = 0 := Nat.lt_one_iff.mp hj
  rcases hb with hb | hb
  · obtain rfl : twiceCopy = b := Option.some.inj hb
    decide
  · cases hb
/-- The copy goes as the line arrives (R289), as DATA's byte is not what the home has; the owned byte is left, and stands before what
came (R291). -/
theorem twiceState_reads : ∃ u, exec (.data twiceData.id) twiceState = .next u ∧
    (u.fibre ⟨twiceLoad.tid, twiceLoad.fid⟩).regs[0]? = some 7 := ⟨_, rfl, rfl⟩

/-- Refutes O56: that a search of the slice finds no owned byte does not say that there is none. Where the slice lists a byte twice, a
copy before an owned one, DATA drops the copy, and the load reads the owned byte and not the byte that DATA brings. -/
theorem not_messageResults : ¬ Obligations.MessageResults := by
  unfold Obligations.MessageResults
  intro h
  obtain ⟨-, -, arrives⟩ := h
  obtain ⟨-, -, -, -, -, -, -, -, -, -, -, -, -, -, -, -, -, load, -⟩ := arrives twiceState twiceData twiceState_accepted
  obtain ⟨u, hu, -, brought⟩ := load 1 [5] twiceLoad 0 0 rfl rfl rfl (by decide) (fun j hj b hb => twiceState_unowned hj b hb)
    rfl rfl rfl rfl (by decide) rfl ⟨_, List.mem_singleton.mpr rfl, rfl, rfl⟩ (by decide)
  obtain ⟨v, hv, owned⟩ := twiceState_reads
  cases hu.symm.trans hv
  exact absurd (brought.symm.trans owned) (by decide)

end Sys2Proof.Machine
end
section
/-! PROOFS. The operand buffer (R28, R228, R233 to R237): block operands, and OBRES and OBREL. -/

namespace Sys2Proof.Machine

open Host (Outcome)

/-! Block operands (R228). -/

theorem ofBytes_lt (b : List Byte) : ofBytes b < 256 ^ b.length := by
  induction b with
  | nil => exact Nat.one_pos
  | cons x r ih =>
    have byte : x.toNat < 256 := x.isLt
    rw [ofBytes, List.length_cons, Nat.pow_succ']
    omega
/-- A word of a block has 32 bits. -/
theorem blockWord_lt (b : List Byte) (off : Nat) : blockWord b off < 2 ^ 32 :=
  (ofBytes_lt _).trans_le (Nat.pow_le_pow_right (n := 256) (by decide) (List.length_take_le 4 (b.drop off)))

/-- The state in which an instruction has read its block operand: a Wait for the leaves that it lies in has ended. -/
def State.blockRead (s : State) (l : Lane) (fld : Field) : State := if fld.file = .team then s else s.resume l

theorem State.blockRead_cases (s : State) (l : Lane) (fld : Field) : s.blockRead l fld = s ∨ s.blockRead l fld = s.resume l := by
  unfold State.blockRead
  split
  · exact .inl rfl
  · exact .inr rfl
/-- A block read changes nothing but its fibre. -/
theorem State.blockRead_teams (s : State) (l : Lane) (fld : Field) : ∃ ts, s.blockRead l fld = s.withTeams ts := by
  rcases s.blockRead_cases l fld with e | e <;> exact ⟨_, e⟩
theorem State.blockRead_dbgctl (s : State) (l : Lane) (fld : Field) (i : Nat) : ((s.blockRead l fld).team i).dbgctl = (s.team i).dbgctl := by
  rcases s.blockRead_cases l fld with e | e
  · rw [e]
  · rw [e, State.resume, State.modFibre_dbgctl]
theorem State.blockRead_coreAt (s : State) (l : Lane) (fld : Field) (c : Nat) : (s.blockRead l fld).coreAt c = s.coreAt c := by
  unfold State.blockRead
  split <;> rfl
theorem State.blockRead_modCore (s : State) (l : Lane) (fld : Field) (c : Nat) (f : Core → Core) :
    (s.blockRead l fld).modCore c f = (s.modCore c f).blockRead l fld := by
  unfold State.blockRead
  split <;> rfl
theorem State.blockRead_wrote {s : State} {l : Lane} (key : Nat) (fld : Field) (hw : (s.fibre l).wait = none) :
    Wrote s (s.blockRead l fld) l key 0 { } := by
  rcases s.blockRead_cases l fld with e | e <;> rw [e]
  · exact .refl s l key
  · exact resume_wrote key hw
/-- A block operand that can be read is read. -/
theorem withBlock_ready {s : State} {l : Lane} {pos : Pos} {fld : Field} {n : Nat} (hq : s.acquiring l = false) (hb : s.blockReady l pos fld n)
    (k : State → List Byte → LaneRes) : withBlock s s l pos fld n k = k (s.blockRead l fld) (s.blockBytes l pos fld n) := by
  unfold withBlock State.blockRead State.blockBytes
  by_cases hf : fld.file = .team
  · rw [if_pos hf, if_pos hf, if_pos hf]
  · obtain ⟨aligned, free⟩ := hb.resolve_left hf
    rw [if_neg hf, if_neg hf, if_neg hf]
    dsimp only
    rw [if_neg (not_not.mpr aligned), leafRange_inside free.1, afterAcquire_idle hq, State.withLeaves_free free, Team.readLeaf_eq,
      State.resume_leafBytes]
/-- A lane alone that has read its block operand and writes one register. -/
theorem State.Alone.blockRead_writes {s : State} {h : Head} {l : Lane} (ha : s.Alone h l) (hw : (s.fibre l).wait = none) (blk fld : Field) (v : Word) :
    RegisterEffect s (s.onward ((s.blockRead l blk).writeReg l fld v none) l h) h 0 (fun _ => { regs := [(regName fld.file fld.idx, v)] }) :=
  ha.writes ((State.blockRead_wrote _ blk hw).trans (writeName_wrote ..))

/-! OBRES (R234 to R236). -/

/-- R235: the words of a reservation record that OBRES accepts. -/
def GoodRecord (w0 w2 w3 : Nat) : Prop :=
  let efmt := w0 / 2 ^ 9 % 2 ^ 6
  let sf := w0 / 2 ^ 15 % 2 ^ 2
  let len := w0 % 2 ^ 9
  w0 < 2 ^ 20 ∧ w2 < 2 ^ 18 ∧ w3 = 0 ∧ 1 ≤ len ∧ len ≤ 256 ∧ efmt ≠ 0 ∧ (elemOf efmt).isSome = true ∧ sf < 2 ∧
    ¬ (sf = 1 ∧ (efmt = 1 ∨ efmt = 2)) ∧ ¬ (w0 / 2 ^ 17 % 2 = 1 ∧ sf = 0) ∧ ¬ (w0 / 2 ^ 18 % 2 ^ 2 ≠ 0 ∧ efmt ≠ 0x0A) ∧ ¬ (sf = 1 ∧ len * 1024 ≤ w2)

/-- A 6-bit field and its bit pattern. -/
theorem ofNat_six_eq (n k : Nat) (hk : k < 2 ^ 6) : BitVec.ofNat 6 (n % 2 ^ 6) = BitVec.ofNat 6 k ↔ n % 2 ^ 6 = k := by
  rw [← BitVec.toNat_inj, BitVec.toNat_ofNat, BitVec.toNat_ofNat, Nat.mod_mod, Nat.mod_eq_of_lt hk]
theorem resvBad_iff (b : List Byte) : resvBad b = false ↔ GoodRecord (blockWord b 0) (blockWord b 8) (blockWord b 12) := by
  have high : blockWord b 0 / 2 ^ 20 % 2 ^ 12 = 0 ↔ blockWord b 0 < 2 ^ 20 := by
    have := blockWord_lt b 0
    omega
  have scale : blockWord b 8 / 2 ^ 18 = 0 ↔ blockWord b 8 < 2 ^ 18 := by omega
  have form (k : Nat) (hk : k < 2 ^ 6) : BitVec.ofNat 6 (blockWord b 0 / 2 ^ 9 % 2 ^ 6) = BitVec.ofNat 6 k ↔ blockWord b 0 / 2 ^ 9 % 2 ^ 6 = k :=
    ofNat_six_eq _ k hk
  have unnamed : BitVec.ofNat 6 (blockWord b 0 / 2 ^ 9 % 2 ^ 6) = 0 ↔ _ := form 0 (by decide)
  have first : BitVec.ofNat 6 (blockWord b 0 / 2 ^ 9 % 2 ^ 6) = 1 ↔ _ := form 1 (by decide)
  have second : BitVec.ofNat 6 (blockWord b 0 / 2 ^ 9 % 2 ^ 6) = 2 ↔ _ := form 2 (by decide)
  have table : BitVec.ofNat 6 (blockWord b 0 / 2 ^ 9 % 2 ^ 6) = 10 ↔ _ := form 10 (by decide)
  have code : (BitVec.ofNat 6 (blockWord b 0 / 2 ^ 9 % 2 ^ 6)).toNat = blockWord b 0 / 2 ^ 9 % 2 ^ 6 := by
    rw [BitVec.toNat_ofNat, Nat.mod_mod]
  have past : blockWord b 8 < 2 ^ 18 → blockWord b 8 % 2 ^ 18 = blockWord b 8 := Nat.mod_eq_of_lt
  unfold resvBad GoodRecord readResv bits bitAt
  simp only [Bool.or_eq_false_iff, decide_eq_false_iff_not, Bool.and_eq_false_iff, Nat.reduceAdd, Nat.reduceSub, code, unnamed, first, second, table,
    ne_eq, not_not, high, scale, Option.isNone_eq_false_iff, beq_eq_false_iff_ne]
  clear high scale form unnamed first second table code
  generalize blockWord b 0 / 2 ^ 9 % 2 ^ 6 = efmt, blockWord b 0 / 2 ^ 15 % 2 ^ 2 = sf, blockWord b 0 / 2 ^ 17 % 2 = blkl,
    blockWord b 0 / 2 ^ 18 % 2 ^ 2 = ct, (elemOf _).isSome = listed
  grind

/-- A place of the operand buffer that a reservation of some granules cannot take: past its end, or met by another reservation. -/
def Core.Taken (c : Core) (len base : Nat) : Prop := 256 < base + len ∨ ∃ r ∈ c.resvs, base < r.base + r.len ∧ r.base < base + len

theorem Core.granulesFree_iff (c : Core) (base len : Nat) : c.granulesFree base len = true ↔ ¬ c.Taken len base := by
  simp only [Core.granulesFree, Core.Taken, overlaps, Bool.and_eq_true, decide_eq_true_eq, List.all_eq_true, Bool.not_eq_true', Bool.and_eq_false_iff,
    decide_eq_false_iff_not, not_or, not_lt, not_exists, not_and_or, imp_iff_not_or]
theorem Core.granules_full {c : Core} {len : Nat} (h : ∀ base, c.Taken len base) : (List.range 257).find? (fun base => c.granulesFree base len) = none := by
  rw [List.find?_eq_none]
  intro base _
  rw [Core.granulesFree_iff, not_not]
  exact h base
/-- The lowest place that is not taken. -/
theorem Core.granules_lowest {c : Core} {len base : Nat} (hb : ¬ c.Taken len base) (hlow : ∀ b, b < base → c.Taken len b) :
    (List.range 257).find? (fun base => c.granulesFree base len) = some base := by
  have inside : base < 257 := by
    have : ¬ 256 < base + len := fun h => hb (.inl h)
    omega
  rw [List.find?_range_eq_some]
  refine ⟨(c.granulesFree_iff base len).mpr hb, List.mem_range.mpr inside, fun b h => ?_⟩
  rw [Bool.not_eq_true', Bool.eq_false_iff, ne_eq, Core.granulesFree_iff, not_not]
  exact hlow b h
theorem numbers_full {rs : List Resv} (h : ∀ n, n < 16 → ∃ r ∈ rs, r.num = n) : (List.range 16).find? (fun n => rs.all (fun x => x.num ≠ n)) = none := by
  rw [List.find?_eq_none]
  intro n hn
  obtain ⟨r, hr, e⟩ := h n (List.mem_range.mp hn)
  simp only [List.all_eq_true, not_forall]
  exact ⟨r, hr, by simp [e]⟩
/-- The lowest number that no reservation has. -/
theorem numbers_lowest {rs : List Resv} {num : Nat} (hn : num < 16) (hfree : ∀ r ∈ rs, r.num ≠ num) (hlow : ∀ k, k < num → ∃ r ∈ rs, r.num = k) :
    (List.range 16).find? (fun n => rs.all (fun x => x.num ≠ n)) = some num := by
  rw [List.find?_range_eq_some]
  refine ⟨by simpa using hfree, List.mem_range.mpr hn, fun k hk => ?_⟩
  obtain ⟨r, hr, e⟩ := hlow k hk
  simpa using ⟨r, hr, e⟩

/-- The reservation that a record asks for (R234). -/
def grantedResv (b : List Byte) (num tid base : Nat) : Resv := { readResv b with num := num, tid := tid, base := base }
/-- A core with a reservation made, its bytes cleared (R234). -/
def Core.reserve (c : Core) (r : Resv) : Core :=
  { c with resvs := c.resvs ++ [r], ob := Memory.clear c.ob (1024 * r.base) (1024 * (r.base + r.len)) }

section
variable {s : State} {h : Head} {l : Lane} (hq : s.acquiring l = false) (hb : s.blockReady l .sa h.sa 16)
include hq hb

theorem obresLane_refused (hr : resvBad (s.blockBytes l .sa h.sa 16) = true) :
    obresLane h s s l = .trap Cause.obRecord (BitVec.ofNat 64 (blockWord (s.blockBytes l .sa h.sa 16) 0)) := by
  rw [obresLane, withBlock_ready hq hb, if_pos hr]

variable (hr : resvBad (s.blockBytes l .sa h.sa 16) = false)
include hr

theorem obresLane_numberless (hn : ∀ n, n < 16 → ∃ r ∈ (s.coreAt (s.team l.tid).coreKey).resvs, r.num = n) :
    obresLane h s s l = .done ((s.blockRead l h.sa).writeReg l h.dst 0xFFFFFFFF none) := by
  rw [obresLane, withBlock_ready hq hb, hr, if_neg (by simp)]
  dsimp only
  rw [State.blockRead_coreAt, numbers_full hn]

variable {num : Nat} (hnum : num < 16) (hfree : ∀ r ∈ (s.coreAt (s.team l.tid).coreKey).resvs, r.num ≠ num)
  (hlow : ∀ k, k < num → ∃ r ∈ (s.coreAt (s.team l.tid).coreKey).resvs, r.num = k)
include hnum hfree hlow

theorem obresLane_roomless (hp : ∀ base, (s.coreAt (s.team l.tid).coreKey).Taken (readResv (s.blockBytes l .sa h.sa 16)).len base) :
    obresLane h s s l = .done ((s.blockRead l h.sa).writeReg l h.dst 0xFFFFFFFE none) := by
  rw [obresLane, withBlock_ready hq hb, hr, if_neg (by simp)]
  dsimp only
  rw [State.blockRead_coreAt, numbers_lowest hnum hfree hlow]
  dsimp only
  rw [Core.granules_full hp]
theorem obresLane_grants {base : Nat} (hp : ¬ (s.coreAt (s.team l.tid).coreKey).Taken (readResv (s.blockBytes l .sa h.sa 16)).len base)
    (hlowest : ∀ b, b < base → (s.coreAt (s.team l.tid).coreKey).Taken (readResv (s.blockBytes l .sa h.sa 16)).len b) :
    obresLane h s s l = .done (((s.modCore (s.team l.tid).coreKey (·.reserve (grantedResv (s.blockBytes l .sa h.sa 16) num l.tid base))).blockRead
      l h.sa).writeReg l h.dst (BitVec.ofNat 32 num) none) := by
  rw [obresLane, withBlock_ready hq hb, hr, if_neg (by simp)]
  dsimp only
  rw [State.blockRead_coreAt, numbers_lowest hnum hfree hlow]
  dsimp only
  rw [Core.granules_lowest hp hlowest, ← State.blockRead_modCore]
  rfl
end

/-- A good record's reservation, field by field (R234). -/
theorem grantedResv_eq {b : List Byte} (hb : resvBad b = false) (num tid base : Nat) : grantedResv b num tid base =
    ⟨num, tid, base, blockWord b 0 % 2 ^ 9, BitVec.ofNat 6 (blockWord b 0 / 2 ^ 9 % 2 ^ 6), decide (blockWord b 0 / 2 ^ 15 % 2 ^ 2 = 1),
      decide (blockWord b 0 / 2 ^ 17 % 2 = 1), blockWord b 0 / 2 ^ 18 % 2 ^ 2, blockWord b 4 % 2 ^ 16, blockWord b 4 / 2 ^ 16, blockWord b 8, none⟩ := by
  obtain ⟨-, scale, -⟩ := (resvBad_iff b).mp hb
  unfold grantedResv readResv
  rw [Nat.mod_eq_of_lt scale]
  rfl

/-! OBREL (R237). -/

section
variable {s : State} {h : Head} {m : EngineMod} {l : Lane} (ha : s.Alone h l) (he : (s.fibre l).engineFault = none)
include ha he

theorem State.Alone.obrel_malformed (hf : (s.fibre l).inFlight = false) (hn : 16 ≤ (s.readReg l .sa h.sa).toNat) :
    exec (.obrel h m) s = .next (s.trapped l h Cause.paramBad 0xFFFF) := by
  refine ha.traps hf ?_
  rw [afterEngine_unfaulted he]
  exact if_pos (by omega)

variable (hn : (s.readReg l .sa h.sa).toNat < 16)
include hn

theorem State.Alone.obrel_foreign (hf : (s.fibre l).inFlight = false)
    (hr : (s.coreAt (s.team l.tid).coreKey).liveResv l.tid (s.readReg l .sa h.sa).toNat = none) :
    exec (.obrel h m) s = .next (s.trapped l h Cause.obRes (BitVec.ofNat 64 (s.readReg l .sa h.sa).toNat)) := by
  refine ha.traps hf ?_
  rw [afterEngine_unfaulted he]
  dsimp only
  rw [if_neg (by omega), hr]
theorem State.Alone.obrel_ends {r : Resv} (hr : (s.coreAt (s.team l.tid).coreKey).liveResv l.tid (s.readReg l .sa h.sa).toNat = some r) :
    exec (.obrel h m) s = .next (s.onward (s.modCore (s.team l.tid).coreKey (fun c => { c with
      resvs := c.resvs.map (fun r => if r.num = (s.readReg l .sa h.sa).toNat then { r with gone := some s.seq } else r) })).bump l h) := by
  refine ha.done ?_ rfl
  rw [afterEngine_unfaulted he]
  dsimp only
  rw [if_neg (by omega), hr]
end

theorem State.fibre_of_teams {s u : State} (h : u.teams = s.teams) (l : Lane) : u.fibre l = s.fibre l := by
  simp only [State.fibre, State.team, State.team?, h]
/-- OBRES that answers a word, in a state u with its reservation made. -/
theorem State.Alone.obres_answers {s u : State} {h : Head} {m : EngineMod} {l : Lane} {v : Word} (ha : s.Alone h l) (hu : u.Alone h l)
    (same : u.teams = s.teams) (hw : (s.fibre l).wait = none) (hl : obresLane h s s l = .done ((u.blockRead l h.sa).writeReg l h.dst v none)) :
    ∃ t, exec (.obres h m) s = .next t ∧ RegisterEffect u t h 0 (fun _ => { regs := [(regName h.dst.file h.dst.idx, v)] }) := by
  have fibre : u.fibre l = s.fibre l := State.fibre_of_teams same l
  have dbgctl : (u.team l.tid).dbgctl = (s.team l.tid).dbgctl := by simp only [State.team, State.team?, same]
  have effect := hu.blockRead_writes (fibre ▸ hw) h.sa h.dst v
  have wrote := (State.blockRead_wrote 0 h.sa (fibre ▸ hw)).trans (writeName_wrote (u.blockRead l h.sa) l 0 (regName h.dst.file h.dst.idx) v none)
  rw [State.onward, fibre] at effect
  exact ⟨_, ha.done hl ((wrote.dbgctl l.tid).trans dbgctl), effect⟩

/-- Settles O41: OBRES refuses what resvBad_iff says and else takes the lowest number (numbers_lowest) and the lowest place
(Core.granules_lowest); OBREL is the lemmas of its three outcomes. -/
theorem reservationResults : Obligations.ReservationResults := by
  unfold Obligations.ReservationResults
  intro s h m l ha hc t c word w0 efmt sf blkl ct len good meets gives a
  have hq := hc.acquiring
  have accepted : good ↔ resvBad (s.blockBytes l .sa h.sa 16) = false := (resvBad_iff _).symm
  refine ⟨fun hb => ⟨fun bad hf => ?refused, fun hg hn => ?numberless, fun num hnum hfree hlow hg => ⟨fun hp => ?roomless, fun base hp hlowest => ?grants⟩⟩,
    fun hf hn => ha.obrel_malformed hc.engine hf hn, fun hf hn hr => ha.obrel_foreign hc.engine hn hf hr, fun r hn hr => ha.obrel_ends hc.engine hn hr⟩
  case refused =>
    rw [accepted, Bool.not_eq_false] at bad
    exact ha.traps hf (obresLane_refused hq hb bad)
  case numberless => exact ha.obres_answers ha rfl hc.wait (obresLane_numberless hq hb (accepted.mp hg) hn)
  case roomless => exact ha.obres_answers ha rfl hc.wait (obresLane_roomless hq hb (accepted.mp hg) hnum hfree hlow hp)
  case grants =>
    have granted := obresLane_grants hq hb (accepted.mp hg) hnum hfree hlow hp hlowest
    rw [grantedResv_eq (accepted.mp hg)] at granted
    exact ha.obres_answers ha rfl hc.wait granted

end Sys2Proof.Machine
end
section
/-! PROOFS. Engine commands at issue (R26, R226 to R250): what each captures, and the traps that come first. -/

namespace Sys2Proof.Machine

open Host (Outcome)

/-! What the commands have in common (R26, R229, R230, R232). -/

theorem afterEngine_recorded {f : Fibre} {v : Dword} (h : f.engineFault = some v) (k : LaneRes) : afterEngine f k = .trap Cause.engFault v := by
  simp only [afterEngine, Fibre.engFaulted, h, Option.map_some]
/-- An engine fault recorded, and no store fault: it is raised by a release, and where there is none it comes next. -/
theorem afterDeferred_engine {f : Fibre} {v : Dword} (hs : f.storeFault = none) (he : f.engineFault = some v) (releases : Bool) (k : LaneRes) :
    afterDeferred f releases (afterEngine f k) = .trap Cause.engFault v := by
  cases releases
  · exact afterEngine_recorded he k
  · simp only [afterDeferred, Fibre.deferred, hs, Fibre.engFaulted, he, Option.map_some]

/-- u with a command of a lane at the end of the engine order of s and its data leaves claimed, the lane gone on. -/
def State.issued (s u : State) (l : Lane) (h : Head) (c : Cmd) (leaves : List Nat) : State :=
  s.onward { u.modTeam l.tid (fun t => if leaves = [] then t else { t with claims := t.claims ++ [(u.seq, leaves)] }) with
    seq := u.seq + 1, cmds := s.cmds ++ [{ c with id := u.seq }] } l h

theorem State.issueCmd_eq (u : State) (l : Lane) (c : Cmd) (leaves : List Nat) : u.issueCmd l c leaves =
    { u.modTeam l.tid (fun t => if leaves = [] then t else { t with claims := t.claims ++ [(u.seq, leaves)] }) with
      seq := u.seq + 1, cmds := u.cmds ++ [{ c with id := u.seq }] } := by
  simp only [State.issueCmd, List.isEmpty_iff]
/-- A lane alone that issues a command. -/
theorem State.Alone.issues {s u : State} {h : Head} {l : Lane} (ha : s.Alone h l) {body : State → Lane → LaneRes} {c : Cmd} {leaves : List Nat}
    (hb : body s l = .done (u.issueCmd l c leaves)) (hd : (u.team l.tid).dbgctl = (s.team l.tid).dbgctl) (hc : u.cmds = s.cmds) :
    (Outcome.next (s.runLanes h body) : Outcome State Fault Refusal) = .next (s.issued u l h c leaves) := by
  have dbgctl := State.modTeam_dbgctl u l.tid (fun t => if leaves = [] then t else { t with claims := t.claims ++ [(u.seq, leaves)] })
    (fun _ => by split <;> rfl) (fun _ => by split <;> rfl) l.tid
  rw [State.issueCmd_eq, hc] at hb
  exact ha.done hb (dbgctl.trans hd)
theorem State.issued_leafless (s : State) (l : Lane) (h : Head) (c : Cmd) : s.issued s l h c [] =
    s.onward { s with seq := s.seq + 1, cmds := s.cmds ++ [{ c with id := s.seq }] } l h := by
  simp [State.issued, State.modTeam]
theorem State.issued_claiming {leaves : List Nat} (hl : leaves ≠ []) (s : State) (l : Lane) (h : Head) (c : Cmd) : s.issued s l h c leaves =
    s.onward { s.modTeam l.tid (fun t => { t with claims := t.claims ++ [(s.seq, leaves)] }) with
      seq := s.seq + 1, cmds := s.cmds ++ [{ c with id := s.seq }] } l h := by
  simp only [State.issued, hl, if_false]

/-- The leaves of a byte range, the first to the last that it touches. -/
theorem leavesOf_eq (off n : Nat) : leavesOf off n =
    if n = 0 then [] else (List.range ((off + n - 1) / 2048 + 1 - off / 2048)).map (off / 2048 + ·) := by
  unfold leavesOf leafSpan
  split <;> rfl
theorem leavesOf_ne_nil {n : Nat} (hn : 0 < n) (off : Nat) : leavesOf off n ≠ [] := by
  have first : off / 2048 ≤ (off + n - 1) / 2048 := Nat.div_le_div_right (by omega)
  rw [leavesOf_eq, if_neg (by omega), ne_eq, List.map_eq_nil_iff, List.range_eq_nil]
  omega
/-- The code table version that a command captures (R99, R100). -/
theorem State.tableVersion_eq (s : State) (ck : Nat) (r : Resv) : s.tableVersion ck r = if r.efmt = 0x0A then [((s.coreAt ck).tableVer.getD r.ct 0 +
    (s.cmds.filter (fun d => d.kind = .ctab ∧ d.core = ck ∧ d.arg8 = r.ct)).length) % 2 ^ 16] else [] := by
  simp only [State.tableVersion, Bool.decide_and, Bool.and_assoc, Nat.reducePow]
theorem State.tableVersion_congr {s u : State} {ck : Nat} (hc : u.coreAt ck = s.coreAt ck) (hq : u.cmds = s.cmds) (r : Resv) :
    u.tableVersion ck r = s.tableVersion ck r := by
  rw [State.tableVersion, State.tableVersion, hc, hq]
theorem State.blockRead_cmds (s : State) (l : Lane) (fld : Field) : (s.blockRead l fld).cmds = s.cmds := by
  unfold State.blockRead
  split <;> rfl
theorem State.blockRead_seq (s : State) (l : Lane) (fld : Field) : (s.blockRead l fld).seq = s.seq := by
  unfold State.blockRead
  split <;> rfl

theorem firstBad_none {xs : List (Bool × Nat)} (h : ∀ x ∈ xs, x.1 = false) : firstBad xs = none := by
  rw [firstBad, Option.map_eq_none_iff, List.find?_eq_none]
  intro x hx
  rw [h x hx]
  exact Bool.false_ne_true
theorem State.blockBytes_length (s : State) (l : Lane) (pos : Pos) (fld : Field) {n : Nat} (hn : n % 4 = 0) : (s.blockBytes l pos fld n).length = n := by
  unfold State.blockBytes
  split
  · simp only [List.length_flatMap, toBytes_length, List.map_const', List.length_range, List.sum_replicate, smul_eq_mul]
    omega
  · simp [Team.leafBytes]
/-- The reserved end of a block is zero. -/
theorem drop_any_zero {b : List Byte} {k n : Nat} (hl : b.length = n) (h : ∀ i, k ≤ i → i < n → b.getD i 0 = 0) : (b.drop k).any (· ≠ 0) = false := by
  rw [List.any_eq_false]
  intro x hx
  obtain ⟨i, hi, rfl⟩ := List.getElem_of_mem hx
  rw [List.length_drop] at hi
  have zero := h (k + i) (by omega) (by omega)
  rw [List.getD_eq_getElem _ _ (by omega)] at zero
  simpa using zero

/-! ACCZ and ACCRD (R243, R244). -/

section
variable {tm : Team} {a : Nat}

/-- A tile control operand whose reserved bits are zero (R243). -/
def TileForm (a : Nat) : Prop := a < 2 ^ 14 ∧ a / 2 ^ 6 % 2 ^ 2 = 0

theorem tileForm_iff : TileForm a ↔ ¬ (bits a 7 6 ≠ 0 ∨ a / 2 ^ 14 ≠ 0) := by
  unfold TileForm bits
  omega
theorem tileControl_malformed (h : ¬ TileForm a) : tileControl tm a = .error (Cause.paramBad, 0xFFFF) := by
  rw [tileForm_iff, not_not] at h
  unfold tileControl
  simp only [Bool.or_eq_true, decide_eq_true_eq, h, if_true]
theorem tileControl_formed (h : TileForm a) : tileControl tm a =
    if tm.acct < a % 64 + a / 2 ^ 8 + 1 then .error (Cause.accRange, BitVec.ofNat 64 (max (a % 64) tm.acct)) else .ok (a % 64, a / 2 ^ 8 + 1) := by
  obtain ⟨size, -⟩ := id h
  have count : bits a 13 8 = a / 2 ^ 8 := Nat.mod_eq_of_lt (by omega)
  rw [tileForm_iff] at h
  unfold tileControl
  simp only [Bool.or_eq_true, decide_eq_true_eq, h, if_false, count, Nat.add_assoc]
end

section
variable {s : State} {h : Head} {m : EngineMod} {l : Lane} (ha : s.Alone h l) (he : (s.fibre l).engineFault = none)
include ha he

theorem State.Alone.accz_issues (hf : TileForm (s.readReg l .sa h.sa).toNat)
    (hg : (s.readReg l .sa h.sa).toNat % 64 + (s.readReg l .sa h.sa).toNat / 2 ^ 8 + 1 ≤ (s.team l.tid).acct) : exec (.accz h m) s =
    .next (s.issued s l h { newCmd s l .accz with tile := (s.readReg l .sa h.sa).toNat % 64, tiles := (s.readReg l .sa h.sa).toNat / 2 ^ 8 + 1 } []) := by
  refine ha.issues ?_ rfl rfl
  rw [afterEngine_unfaulted he, tileControl_formed hf, if_neg (by omega)]
theorem State.Alone.accz_refused {c : Cause.Code} {v : Dword} (hf : (s.fibre l).inFlight = false)
    (hc : tileControl (s.team l.tid) (s.readReg l .sa h.sa).toNat = .error (c, v)) : exec (.accz h m) s = .next (s.trapped l h c v) := by
  refine ha.traps hf ?_
  rw [afterEngine_unfaulted he, hc]
theorem State.Alone.accrd_issues (hq : s.acquiring l = false) {off b n : Nat} (hoff : (s.readReg l .sa h.sa).toNat = off)
    (hb : (s.readReg l .sb h.sb).toNat = b) (hn : 1024 * (b / 2 ^ 8 + 1) * accrdSize m.arg8.toNat = n) (hf : TileForm b)
    (hg : b % 64 + b / 2 ^ 8 + 1 ≤ (s.team l.tid).acct) (hr : off + n ≤ 2048 * (s.team l.tid).leaves) (hal : off % accrdSize m.arg8.toNat = 0) :
    exec (.accrd h m) s = .next (s.issued s l h { newCmd s l .accrd with
      tile := b % 64, tiles := b / 2 ^ 8 + 1, off := off, arg8 := m.arg8.toNat } (leavesOf off n)) := by
  refine ha.issues ?_ rfl rfl
  rw [afterAcquire_idle hq, afterEngine_unfaulted he, hoff, hb]
  dsimp only
  rw [tileControl_formed hf, if_neg (by omega)]
  dsimp only
  rw [hn, leafRange_inside (.inr hr)]
  exact if_neg (not_not.mpr hal)
end

/-! CTAB and MMA (R238 to R240). -/

section
variable {s : State} {h : Head} {m : EngineMod} {l : Lane} (ha : s.Alone h l) (hq : s.acquiring l = false) (he : (s.fibre l).engineFault = none)

include ha hq he in
theorem State.Alone.ctab_issues (hb : s.blockReady l .sa h.sa 32) : exec (.ctab h m) s = .next (s.issued (s.blockRead l h.sa) l h
    { newCmd s l .ctab with block := s.blockBytes l .sa h.sa 32, arg8 := m.arg8.toNat % 4 } []) := by
  refine ha.issues ?_ (s.blockRead_dbgctl l h.sa l.tid) (s.blockRead_cmds l h.sa)
  rw [afterEngine_unfaulted he, withBlock_ready hq hb]

/-- R240 items 1 and 2: an MMA parameter block whose reserved bits are zero, its neighbour codes none or a neighbour's. -/
structure MmaForm (b : List Byte) : Prop where
  first : blockWord b 0 < 2 ^ 23
  second : blockWord b 4 < 2 ^ 15
  rest : (b.drop 24).any (· ≠ 0) = false
  loca : (readMma b).loca = 0 ∨ 4 ≤ (readMma b).loca
  locb : (readMma b).locb = 0 ∨ 4 ≤ (readMma b).locb

theorem MmaForm.unrefused {b : List Byte} (hb : MmaForm b) :
    firstBad [(bits (blockWord b 0) 31 23 ≠ 0 || (decide (1 ≤ (readMma b).loca) && decide ((readMma b).loca ≤ 3)) ||
        (decide (1 ≤ (readMma b).locb) && decide ((readMma b).locb ≤ 3)), 0),
      (bits (blockWord b 4) 31 15 ≠ 0, 4), ((b.drop 24).any (· ≠ 0), 24)] = none := by
  obtain ⟨first, second, rest, loca, locb⟩ := hb
  refine firstBad_none fun x hx => ?_
  simp only [List.mem_cons, List.not_mem_nil, or_false] at hx
  rcases hx with rfl | rfl | rfl
  · have high : bits (blockWord b 0) 31 23 = 0 := by
      unfold bits
      omega
    simp only [high, Bool.or_eq_false_iff, Bool.and_eq_false_iff, decide_eq_false_iff_not]
    omega
  · have high : bits (blockWord b 4) 31 15 = 0 := by
      unfold bits
      omega
    simp [high]
  · exact rest

/-- What an MMA captures at issue (R229, R239). -/
def State.mmaCmd (s : State) (l : Lane) (b : List Byte) (ra rb : Resv) : Cmd :=
  { newCmd s l .mma with
    block := b, tile := (readMma b).acc, tiles := (readMma b).m / 32 * ((readMma b).n / 32), resA := some ra, resB := some rb
    versions := s.tableVersion (s.team l.tid).coreKey ra ++ s.tableVersion (s.team l.tid).coreKey rb }

/-- R240 items 3 to 6: the reservations that an MMA names are the team's and hold its operands, its tiles are in the grant, and what it takes
from a neighbour is in reach. -/
structure State.MmaPasses (s : State) (l : Lane) (p : MmaParams) (ra rb : Resv) : Prop where
  heldA : (s.coreAt (s.team l.tid).coreKey).liveResv l.tid p.resa = some ra
  heldB : (s.coreAt (s.team l.tid).coreKey).liveResv l.tid p.resb = some rb
  fitsA : ra.fits p.m p.kept p.k = true
  fitsB : rb.fits p.n 16 p.k = true
  grant : p.acc + p.m / 32 * (p.n / 32) ≤ (s.team l.tid).acct
  nearA : s.neighbourCheck (s.team l.tid) p.loca p.noffa (ra.used p.m p.kept p.k) = none
  nearB : s.neighbourCheck (s.team l.tid) p.locb p.noffb (rb.used p.n 16 p.k) = none

include hq he in
theorem mmaLane_issues {ra rb : Resv} {b : List Byte} (hb : s.blockReady l .sa h.sa 64) (hbytes : s.blockBytes l .sa h.sa 64 = b) (hform : MmaForm b)
    (hp : s.MmaPasses l (readMma b) ra rb) : mmaLane h s s l = .done ((s.blockRead l h.sa).issueCmd l (s.mmaCmd l b ra rb) []) := by
  obtain ⟨heldA, heldB, fitsA, fitsB, grant, nearA, nearB⟩ := hp
  have versions := State.tableVersion_congr (s.blockRead_coreAt l h.sa (s.team l.tid).coreKey) (s.blockRead_cmds l h.sa)
  unfold mmaLane
  dsimp only
  rw [afterAcquire_idle hq, afterEngine_unfaulted he, withBlock_ready hq hb, hbytes]
  rw [hform.unrefused]
  dsimp only
  rw [State.blockRead_coreAt, heldA, heldB]
  dsimp only
  rw [fitsA, fitsB, if_neg (by simp), if_neg (by omega), nearA]
  dsimp only
  rw [nearB, versions, versions]
  rfl

/-! TCOPY (R245, R246). -/

/-- A release begun, where an instruction performs one. -/
def State.releasing (s : State) (l : Lane) (releases : Bool) (pt : Point) : State := if releases then (s.beginRelease l pt).2 else s

theorem State.releasing_cmds (s : State) (l : Lane) (releases : Bool) (pt : Point) : (s.releasing l releases pt).cmds = s.cmds := by
  cases releases <;> rfl
theorem State.releasing_coreAt (s : State) (l : Lane) (releases : Bool) (pt : Point) (c : Nat) : (s.releasing l releases pt).coreAt c = s.coreAt c := by
  cases releases <;> rfl
theorem State.releasing_dbgctl (s : State) (l : Lane) (releases : Bool) (pt : Point) (i : Nat) :
    ((s.releasing l releases pt).team i).dbgctl = (s.team i).dbgctl := by
  cases releases
  · rfl
  · exact State.modFibre_dbgctl s l _ i

/-- What a TCOPY captures at issue (R229, R245). -/
def State.copyCmd (s : State) (l : Lane) (m : EngineMod) (b : List Byte) (pt : Point) (res : Option Resv) : Cmd :=
  { newCmd s l .tcopy with
    block := b, pt := pt, acq := m.ord.acquires, rel := if m.ord.releases then some s.seq else none
    evict := m.evict, resA := res, versions := res.toList.flatMap (s.tableVersion (s.team l.tid).coreKey) }

/-- R246 items 3 to 9: the point, the reservation, the leaves, the alignment and the ranges of a copy's descriptor pass its checks. -/
structure State.CopyPasses (s : State) (l : Lane) (m : EngineMod) (c : Copy) (pt : Point) (res : Option Resv) : Prop where
  point : (if c.dir = 3 then some .core else ((s.team l.tid).levels[m.scope.toNat]?).map Lvl.pt) = some pt
  held : copyResv (s.coreAt (s.team l.tid).coreKey) l.tid c = .ok res
  leaves : c.dir = 2 ∨ c.esz * c.count = 0 ∨ c.loff + c.esz * c.count ≤ 2048 * (s.team l.tid).leaves
  room : ∀ r, res = some r → c.roff + c.esz * c.count ≤ 1024 * r.len
  aligned : ∀ x ∈ c.gbase :: c.dims.map (·.2.2.2), x % c.esz = 0
  ranges : c.dir = 3 ∨ s.copyRange (s.team l.tid) (s.fibre l) c = none

namespace State.CopyPasses

variable {c : Copy} {pt : Point} {res : Option Resv} (hc : s.CopyPasses l m c pt res)
include hc

theorem pointCheck : (if c.dir = 3 then (.ok .core : Chk Point) else (s.team l.tid).point m.scope.toNat) = .ok pt := by
  have point := hc.point
  split at point
  · rw [if_pos ‹_›, Option.some.inj point]
  · rw [if_neg ‹_›, Team.point_declared point]
theorem leafCheck : (if c.dir = 2 then none else leafRange (s.team l.tid).leaves c.loff (c.esz * c.count)) = none := by
  split
  · rfl
  · exact leafRange_inside (hc.leaves.resolve_left ‹_›)
theorem roomCheck : ¬ res.any (fun r => decide (1024 * r.len < c.roff + c.esz * c.count)) = true := by
  cases res with
  | none => simp
  | some r => simpa using hc.room r rfl
theorem alignCheck : (c.gbase :: c.dims.map (·.2.2.2)).find? (fun a => a % c.esz ≠ 0) = none := by
  rw [List.find?_eq_none]
  simpa using hc.aligned
theorem rangeCheck : (if c.dir = 3 then none else s.copyRange (s.team l.tid) (s.fibre l) c) = none := by
  split
  · rfl
  · exact hc.ranges.resolve_left ‹_›

end State.CopyPasses

include hq he in
theorem tcopyLane_issues {pt : Point} {res : Option Resv} {b : List Byte} (hs : (s.fibre l).storeFault = none)
    (hb : s.blockReady l .sa h.sa 128) (hbytes : s.blockBytes l .sa h.sa 128 = b) (hform : copyBad b m = none)
    (hc : s.CopyPasses l m (readCopy b) pt res) :
    tcopyLane h m s s l = .done (((s.blockRead l h.sa).releasing l m.ord.releases pt).issueCmd l (s.copyCmd l m b pt res)
      (if (readCopy b).dir = 2 then [] else leavesOf (readCopy b).loff ((readCopy b).esz * (readCopy b).count))) := by
  have versions : (if m.ord.releases then ((s.blockRead l h.sa).beginRelease l pt).2 else s.blockRead l h.sa).tableVersion (s.team l.tid).coreKey =
      s.tableVersion (s.team l.tid).coreKey := funext fun r =>
    State.tableVersion_congr ((State.releasing_coreAt ..).trans (s.blockRead_coreAt l h.sa _)) ((State.releasing_cmds ..).trans (s.blockRead_cmds l h.sa)) r
  have number : ((s.blockRead l h.sa).beginRelease l pt).1 = s.seq := s.blockRead_seq l h.sa
  unfold tcopyLane
  dsimp only
  rw [afterAcquire_idle hq, afterDeferred_unrecorded (.inl hs) he, afterEngine_unfaulted he, withBlock_ready hq hb, hbytes]
  rw [hform]
  dsimp only
  rw [State.blockRead_coreAt, hc.pointCheck, hc.held]
  dsimp only
  rw [hc.leafCheck]
  dsimp only
  rw [if_neg hc.roomCheck, hc.alignCheck]
  dsimp only
  rw [hc.rangeCheck, versions, number]
  rfl

/-! TGATH (R248, R249). -/

/-- The ranges of leaves that a TGATH writes (R248). -/
def Gather.regions (g : Gather) : List (Nat × Nat) := [(g.ptroff, 4 * (g.nrow + 1)), (g.coloff, 4 * g.cap), (g.valoff, g.vsz * g.cap)]
/-- The leaves in them. -/
def Gather.owned (g : Gather) : List Nat := dedup (g.regions.flatMap (fun x => leavesOf x.1 x.2))

theorem Gather.mem_owned (g : Gather) (i : Nat) : i ∈ g.owned ↔ ∃ x ∈ g.regions, i ∈ leavesOf x.1 x.2 := by
  rw [Gather.owned, mem_dedup, List.mem_flatMap]

/-- R249 item 2: a TGATH descriptor whose counts are in range and whose reserved bits are zero. -/
structure GatherForm (b : List Byte) : Prop where
  some : 1 ≤ (readGather b).nrow
  rows : (readGather b).nrow < 2 ^ 16
  size : blockWord b 0x30 < 4
  rest : (b.drop 0x34).any (· ≠ 0) = false
/-- R249: the point, the alignment and the leaves of a gather's descriptor pass its checks. -/
structure State.GatherPasses (s : State) (l : Lane) (m : EngineMod) (g : Gather) (pt : Point) : Prop where
  point : ((s.team l.tid).levels[m.scope.toNat]?).map Lvl.pt = some pt
  words : ∀ x ∈ [g.rowptr, g.cols, g.ptroff, g.coloff], x % 4 = 0
  values : ∀ x ∈ [g.vals, g.valoff], x % g.vsz = 0
  leaves : ∀ x ∈ g.regions, x.2 = 0 ∨ x.1 + x.2 ≤ 2048 * (s.team l.tid).leaves

theorem GatherForm.unrefused {b : List Byte} (hb : GatherForm b) : firstBad [((readGather b).nrow = 0 || decide (65536 ≤ (readGather b).nrow), 0x1C),
    (blockWord b 0x30 / 4 ≠ 0, 0x30), ((b.drop 0x34).any (· ≠ 0), 0x34)] = none := by
  obtain ⟨some, rows, size, rest⟩ := hb
  refine firstBad_none fun x hx => ?_
  simp only [List.mem_cons, List.not_mem_nil, or_false] at hx
  rcases hx with rfl | rfl | rfl
  · simp only [Bool.or_eq_false_iff, decide_eq_false_iff_not]
    omega
  · simp only [decide_eq_false_iff_not]
    omega
  · exact rest
theorem State.GatherPasses.alignCheck {g : Gather} {pt : Point} (hg : s.GatherPasses l m g pt) :
    [(g.rowptr, 4), (g.cols, 4), (g.vals, g.vsz), (g.ptroff, 4), (g.coloff, 4), (g.valoff, g.vsz)].find? (fun x => x.1 % x.2 ≠ 0) = none := by
  obtain ⟨-, words, values, -⟩ := hg
  simp only [List.forall_mem_cons, List.not_mem_nil, false_imp_iff, implies_true, and_true] at words values
  simp [words, values]
theorem State.GatherPasses.leafCheck {g : Gather} {pt : Point} (hg : s.GatherPasses l m g pt) :
    [(g.ptroff, 4 * (g.nrow + 1)), (g.coloff, 4 * g.cap), (g.valoff, g.vsz * g.cap)].findSome? (fun x => leafRange (s.team l.tid).leaves x.1 x.2) =
      none := by
  rw [List.findSome?_eq_none_iff]
  exact fun x hx => leafRange_inside (hg.leaves x hx)

include hq he in
theorem tgathLane_issues {pt : Point} {b : List Byte} (hb : s.blockReady l .sa h.sa 64) (hbytes : s.blockBytes l .sa h.sa 64 = b)
    (hform : GatherForm b) (hg : s.GatherPasses l m (readGather b) pt) :
    tgathLane h m s s l = .done ((s.blockRead l h.sa).issueCmd l { newCmd s l .tgath with
      block := b, pt := pt, acq := m.ord.acquires, evict := m.evict } (readGather b).owned) := by
  unfold tgathLane
  dsimp only
  rw [afterAcquire_idle hq, afterEngine_unfaulted he, withBlock_ready hq hb, hbytes]
  rw [hform.unrefused]
  dsimp only
  rw [Team.point_declared hg.point]
  dsimp only
  rw [hg.alignCheck]
  dsimp only
  rw [hg.leafCheck]
  rfl
end

/-- Every engine command, and OBREL, at a recorded engine fault (R232). -/
theorem State.Alone.engine_faults {s : State} {h : Head} {l : Lane} (ha : s.Alone h l) (hq : s.acquiring l = false) {v : Dword}
    (he : (s.fibre l).engineFault = some v) (hs : (s.fibre l).storeFault = none) (hf : (s.fibre l).inFlight = false) (m : EngineMod) :
    ∀ i ∈ [Instr.mma h m, .accz h m, .accrd h m, .ctab h m, .tcopy h m, .tgath h m, .obrel h m], exec i s = .next (s.trapped l h Cause.engFault v) := by
  intro i hi
  simp only [List.mem_cons, List.not_mem_nil, or_false] at hi
  rcases hi with rfl | rfl | rfl | rfl | rfl | rfl | rfl
  · exact ha.traps hf ((afterAcquire_idle hq _).trans (afterEngine_recorded he _))
  · exact ha.traps hf (afterEngine_recorded he _)
  · exact ha.traps hf ((afterAcquire_idle hq _).trans (afterEngine_recorded he _))
  · exact ha.traps hf (afterEngine_recorded he _)
  · exact ha.traps hf ((afterAcquire_idle hq _).trans (afterDeferred_engine hs he _ _))
  · exact ha.traps hf ((afterAcquire_idle hq _).trans (afterEngine_recorded he _))
  · exact ha.traps hf (afterEngine_recorded he _)

theorem Ord.acquires_eq (o : Ord) : o.acquires = decide (o = .acq ∨ o = .ar) := by cases o <;> rfl

/-- Settles O42: a recorded fault by State.Alone.engine_faults; each command by what its lane issues (mmaLane_issues, tcopyLane_issues,
tgathLane_issues and their like). -/
theorem engineCommandResults : Obligations.EngineCommandResults := by
  unfold Obligations.EngineCommandResults
  intro s h m l ha hq t f core base version read issued leaves a ctl
  have owned (off n : Nat) : leaves off n = leavesOf off n := (leavesOf_eq off n).symm
  have versions : version = s.tableVersion t.coreKey := funext fun r => (s.tableVersion_eq t.coreKey r).symm
  have whole (n : Nat) (hn : n % 4 = 0) := s.blockBytes_length l .sa h.sa hn
  refine ⟨fun v he hs hf => ha.engine_faults hq he hs hf m, fun he hs hw => ⟨fun hc hg => ?accz, fun hc hg hf => ?past, fun hc hf => ?malformed, ?accrd,
    fun hb => ha.ctab_issues hq he hb, ?mma, ?tcopy, ?tgath⟩⟩
  case accz =>
    have step := ha.accz_issues (m := m) he hc hg
    rw [State.issued_leafless] at step
    exact step
  case past =>
    have refused := (tileControl_formed hc).trans (if_pos hg)
    exact ha.accz_refused he hf refused
  case malformed => exact ha.accz_refused he hf (tileControl_malformed hc)
  case accrd =>
    intro b size n hc hg hr hal
    have step := ha.accrd_issues he hq rfl rfl rfl hc hg hr hal
    rw [State.issued_claiming (leavesOf_ne_nil (by unfold accrdSize; split <;> omega) _)] at step
    rw [owned]
    exact step
  case mma =>
    intro hb ra rb block word p units h0 h1 hz hla hlb hra hrb hfa hfb hg hna hnb
    have form : MmaForm block := ⟨h0, h1, drop_any_zero (whole 64 rfl) hz, hla, hlb⟩
    rw [versions]
    exact ha.issues (mmaLane_issues hq he hb rfl form ⟨hra, hrb, hfa, hfb, hg, hna, hnb⟩) (s.blockRead_dbgctl l h.sa l.tid) (s.blockRead_cmds l h.sa)
  case tcopy =>
    intro hb pt res block c n hform hpt hres hleaf hroom hal hrange
    have lane := tcopyLane_issues hq he hs hb rfl hform ⟨hpt, hres, hleaf, hroom, hal, hrange⟩
    have step := ha.issues lane ((State.releasing_dbgctl ..).trans (s.blockRead_dbgctl l h.sa l.tid)) ((State.releasing_cmds ..).trans (s.blockRead_cmds l h.sa))
    rw [State.copyCmd, Ord.acquires_eq] at step
    rw [owned, versions]
    exact step
  case tgath =>
    intro hb pt block g regions h1 h2 h3 hz hpt hal hval hleaf
    have lane := tgathLane_issues (m := m) hq he hb rfl ⟨h1, h2, h3, drop_any_zero (whole 64 rfl) hz⟩ ⟨hpt, hal, hval, hleaf⟩
    have step := ha.issues lane (s.blockRead_dbgctl l h.sa l.tid) (s.blockRead_cmds l h.sa)
    rw [Ord.acquires_eq] at step
    refine ⟨g.owned, fun i => ?_, step⟩
    simp only [owned]
    exact g.mem_owned i

end Sys2Proof.Machine
end
section
/-! PROOFS. Queues and counters (R219, R251, R257, R258, R296): an operation at its home, QPUSH, CTRWAIT and CTRTEST. -/

namespace Sys2Proof.Machine

open Host (Outcome)

/-! Bytes drawn to their home and written there (R219, R296). -/

namespace Settles

theorem raiseUnless (c : Prop) [Decidable c] (core sp ia : Nat) : Settles (fun s => if c then s else s.raiseByte core sp ia .pod) :=
  when id (raiseByte core sp ia .pod)
theorem gather (core sp ia : Nat) : Settles (fun s => s.gather core sp ia) := by
  have cores : Settles (fun s => s.cores.foldl (fun t kc => if kc.1 = core then t else t.raiseByte kc.1 sp ia .pod) s) := by
    refine reading (a := State.cores) (fun _ _ => rfl) (fun ks => ?_)
    have each := foldl (f := fun t kc => if kc.1 = core then t else t.raiseByte kc.1 sp ia .pod) (fun kc => raiseUnless (kc.1 = core) kc.1 sp ia) ks
    exact ⟨_, each, fun s h => by rw [h]⟩
  have slices : Settles (fun s => s.pkgs.foldl (fun t kp => if kp.1 = corePkg core then t
      else t.raiseByte (Config.coresPerPkg * kp.1) sp ia .pod) s) := by
    refine reading (a := State.pkgs) (fun _ _ => rfl) (fun ks => ?_)
    have each := foldl (f := fun t kp => if kp.1 = corePkg core then t else t.raiseByte (Config.coresPerPkg * kp.1) sp ia .pod)
      (fun kp => raiseUnless (kp.1 = corePkg core) (Config.coresPerPkg * kp.1) sp ia) ks
    exact ⟨_, each, fun s h => by rw [h]⟩
  exact (raiseByte core sp ia .pod).comp (slices.comp (cores.comp (drawIn (homePkg ia) sp ia)))
theorem homeTake (core sp ia n : Nat) : Settles (fun s => (s.homeTake core sp ia n).2) :=
  (foldl (fun i => drawIn (homePkg (ia + i)) sp (ia + i)) (List.range n)).comp (foldl (fun i => gather core sp (ia + i)) (List.range n))

end Settles

/-- A write at its home by a core moves bytes alone. -/
theorem State.MovesBytes.homePutFrom (s : State) (core sp ia : Nat) (bs : List Byte) (w : List Writer) :
    s.MovesBytes (s.homePut (some core) sp ia bs w) :=
  (State.MovesBytes.homePut s sp ia bs w).trans (.modL1 _ core (fun l => l.filter (fun b => !b.within sp ia bs.length)))

section
variable {s : State} {l : Lane} {ia n : Nat} (hc : s.Calm l) (hh : s.Homed l ia n)
include hc hh

/-- An operation whose home is the lane's own package takes its step, whatever the team has become since issue. -/
theorem atHome_homed (ts : List Team) (va : Dword) (pt : Point) (k : State → LaneRes) : atHome s (s.withTeams ts) l va ia n pt k = k (s.withTeams ts) := by
  obtain ⟨near, drained, registered, unbarred, present⟩ := hh
  have queued : (s.withTeams ts).wq.any (fun e => e.tid = l.tid && e.fid = l.fid && e.sp = s.space (s.team l.tid).partKey ia &&
      overlaps e.ia e.bytes.length ia n) = false := by
    rw [List.any_eq_false]
    intro e he
    simpa [and_assoc] using drained e he
  have coming : (s.withTeams ts).regs.any (fun r => !r.registered && (r.entry.tid = l.tid && r.entry.fid = l.fid &&
      r.entry.sp = s.space (s.team l.tid).partKey ia && overlaps r.entry.ia r.entry.bytes.length ia n)) = false := by
    rw [List.any_eq_false]
    intro r hr
    simpa [and_assoc] using registered r hr
  have first (q : Req) (hq : q.tid = l.tid ∧ q.fid = l.fid) : (s.withTeams ts).behind q = false := by
    rw [State.behind, List.any_eq_false]
    intro p hp
    have apart := hc.reqs p hp
    simp only [hq, Bool.and_eq_true, decide_eq_true_eq]
    rintro ⟨⟨⟨⟨⟨tid, fid⟩, -⟩, -⟩, -⟩, -⟩
    exact apart ⟨tid, fid⟩
  have idle (q : Req) (hq : q.tid = l.tid ∧ q.fid = l.fid) : ((s.withTeams ts).wq.any (fun e => e.tid = l.tid && e.fid = l.fid &&
      e.sp = s.space (s.team l.tid).partKey ia && overlaps e.ia e.bytes.length ia n) || (s.withTeams ts).regs.any (fun r => !r.registered &&
      (r.entry.tid = l.tid && r.entry.fid = l.fid && r.entry.sp = s.space (s.team l.tid).partKey ia && overlaps r.entry.ia r.entry.bytes.length ia n)) ||
      (s.withTeams ts).behind q || (s.withTeams ts).barred (corePkg (s.team l.tid).coreKey) (s.space (s.team l.tid).partKey ia) ia) = false := by
    rw [queued, coming, first q hq]
    exact unbarred
  have floor : (s.withTeams ts).raiseFloor l (s.team l.tid).coreKey (s.space (s.team l.tid).partKey ia) ia n = s.withTeams ts := if_pos near
  unfold atHome
  dsimp only
  rw [if_neg, if_neg present, if_neg]
  · exact congrArg k floor
  · simp [Req.hard, newReq, near]
  · exact Bool.eq_false_iff.mp (idle _ ⟨rfl, rfl⟩)
end

/-! CTRWAIT and CTRTEST (R257, R258). -/

theorem State.loading_idle {s : State} {l : Lane} (h : ∀ q ∈ s.reqs, ¬ (q.tid = l.tid ∧ q.fid = l.fid)) : s.loading l = false := by
  rw [State.loading, List.any_eq_false]
  intro q hq
  simp only [Bool.and_eq_true, decide_eq_true_eq]
  exact fun own => h q hq own.1

/-- An acquire made at once, where its order has one (R294). -/
def State.acquired (t : State) (core : Nat) (o : Ord) (pt : Point) : State := if o = .acq ∨ o = .ar then t.acquire core pt else t

theorem State.acquired_teams (t : State) (core : Nat) (o : Ord) (pt : Point) : (t.acquired core o pt).teams = t.teams := by
  unfold State.acquired
  split
  · exact State.acquire_teams t core pt
  · rfl
/-- A fibre with no load pending acquires at once and goes on. -/
theorem State.acquireAnswered_idle {t : State} {l : Lane} (h : t.loading l = false) (core : Nat) (o : Ord) (pt : Point) :
    t.acquireAnswered l core o.acquires (some pt) = .done ((t.acquired core o pt).resume l) := by
  unfold State.acquireAnswered
  rw [h, Bool.and_false]
  cases o <;> rfl

/-- The state in which the counter at an address has been read at its home. -/
def State.counterRead (s : State) (l : Lane) (ia : Nat) : State :=
  (s.homeTake (s.team l.tid).coreKey (s.space (s.team l.tid).partKey ia) ia 8).2.touchPage (s.team l.tid).partKey ia
/-- The value that it had there. -/
def State.counterValue (s : State) (l : Lane) (ia : Nat) : Nat :=
  ofBytes (s.homeTake (s.team l.tid).coreKey (s.space (s.team l.tid).partKey ia) ia 8).1

theorem State.counterRead_rest (s : State) (l : Lane) (ia : Nat) : (s.counterRead l ia).besideCaches = s.besideCaches :=
  ((Settles.touchPage ..).rest _).trans ((Settles.homeTake ..).rest s)
theorem State.counterRead_dbgctl (s : State) (l : Lane) (ia i : Nat) : ((s.counterRead l ia).team i).dbgctl = (s.team i).dbgctl :=
  (State.AlikeTeams.of_besideCaches (s.counterRead_rest l ia)).dbgctl i
theorem State.Calm.counterRead_unloading {s : State} {l : Lane} (hc : s.Calm l) (ia : Nat) {t : State} (ht : t.reqs = (s.counterRead l ia).reqs) :
    t.loading l = false := by
  refine State.loading_idle ?_
  rw [ht, State.reqs_of_besideCaches (s.counterRead_rest l ia)]
  exact hc.reqs

section
variable {s : State} {h : Head} {m : EngineMod} {l : Lane} {pt : Point} {ia : Nat} (hc : s.Calm l)
  (hp : s.Passes l m.scope.toNat [.read] (s.readPair l .sa h.sa) 8 pt ia) (hh : s.Homed l ia 8)
include hc hp hh

theorem counterLane_reads (k : State → Nat → Nat → Bool → (State → LaneRes) → LaneRes) : counterLane h m s s l k =
    k (s.counterRead l ia) (s.space (s.team l.tid).partKey ia) ia (decide ((s.readPair l .sb h.sb).toNat ≤ s.counterValue l ia))
      (fun t => t.acquireAnswered l (s.team l.tid).coreKey m.ord.acquires (some pt)) := by
  unfold counterLane
  dsimp only
  rw [afterAcquire_idle hc.acquiring, hp.access (by simp)]
  dsimp only
  rw [hp.clean, if_neg Bool.false_ne_true]
  exact atHome_homed hc hh s.teams _ pt _

variable (ha : s.Alone h l)
include ha

theorem State.Alone.ctrwait_passes (hv : (s.readPair l .sb h.sb).toNat ≤ s.counterValue l ia) : exec (.ctrwait h m) s =
    .next (s.onward (((s.counterRead l ia).acquired (s.team l.tid).coreKey m.ord pt).resume l) l h) := by
  refine ha.done ?_ ?_
  · rw [hc.wait]
    dsimp only
    rw [counterLane_reads hc hp hh, decide_eq_true hv]
    exact State.acquireAnswered_idle (hc.counterRead_unloading ia rfl) ..
  · rw [State.resume, State.modFibre_dbgctl, State.team, State.team?, State.acquired_teams]
    exact s.counterRead_dbgctl l ia l.tid
theorem State.Alone.ctrwait_waits (hv : s.counterValue l ia < (s.readPair l .sb h.sb).toNat) : exec (.ctrwait h m) s =
    .next ((s.counterRead l ia).modFibre l (fun f => { f with
      wait := some { on := .counter (s.space (s.team l.tid).partKey ia) ia (s.readPair l .sb h.sb), since := (s.counterRead l ia).now }
      waitAt := s.readPair l .sa h.sa, turn := none })) := by
  refine ha.stays ?_
  rw [hc.wait]
  dsimp only
  rw [counterLane_reads hc hp hh, decide_eq_false (by omega)]
  rfl
theorem State.Alone.ctrtest_answers : exec (.ctrtest h m) s = .next (s.onward ((((s.counterRead l ia).writePred l h.dst.pred
    (decide ((s.readPair l .sb h.sb).toNat ≤ s.counterValue l ia)) none).acquired (s.team l.tid).coreKey m.ord pt).resume l) l h) := by
  have written := writePred_wrote (s.counterRead l ia) l 0 h.dst.pred (decide ((s.readPair l .sb h.sb).toNat ≤ s.counterValue l ia)) none
  have reqs : ((s.counterRead l ia).writePred l h.dst.pred (decide ((s.readPair l .sb h.sb).toNat ≤ s.counterValue l ia)) none).reqs =
      (s.counterRead l ia).reqs := (congrArg State.reqs written.rest :)
  refine ha.done ?_ ?_
  · rw [counterLane_reads hc hp hh]
    exact State.acquireAnswered_idle (hc.counterRead_unloading ia reqs) ..
  · rw [State.resume, State.modFibre_dbgctl, State.team, State.team?, State.acquired_teams]
    exact (written.dbgctl l.tid).trans (s.counterRead_dbgctl l ia l.tid)
end

/-! Stores queued one after another (R251, R289). -/

/-- u is t with some stores of a lane queued, and releases of the lane begun on the way; xs are their addresses and bytes. -/
structure State.Queued (t u : State) (l : Lane) (xs : List (Nat × List Byte)) : Prop where
  queue : ∃ es, u.wq = t.wq ++ es ∧ es.map (fun e => (e.ia, e.bytes)) = xs
  fibre : ∀ f, t.fibre? l = some f → ∃ q, u.fibre? l = some { f with rels := q }
  dbgctl : ∀ i, (u.team i).dbgctl = (t.team i).dbgctl
  rest : { u with wq := [], seq := 0, teams := [] } = { t with wq := [], seq := 0, teams := [] }

namespace State.Queued

variable {s t u v : State} {l : Lane} {xs ys : List (Nat × List Byte)}

theorem refl (t : State) (l : Lane) : t.Queued t l [] := ⟨⟨[], (List.append_nil _).symm, rfl⟩, fun f hf => ⟨f.rels, hf⟩, fun _ => rfl, rfl⟩
theorem trans (h : t.Queued u l xs) (h' : u.Queued v l ys) : t.Queued v l (xs ++ ys) where
  queue := by
    obtain ⟨es, he, hx⟩ := h.queue
    obtain ⟨fs, hf, hy⟩ := h'.queue
    exact ⟨es ++ fs, by rw [hf, he, List.append_assoc], by rw [List.map_append, hx, hy]⟩
  fibre f hf := by
    obtain ⟨q, hq⟩ := h.fibre f hf
    obtain ⟨r, hr⟩ := h'.fibre _ hq
    exact ⟨r, hr⟩
  dbgctl i := (h'.dbgctl i).trans (h.dbgctl i)
  rest := h'.rest.trans h.rest
theorem release (t : State) (l : Lane) (pt : Point) : t.Queued (t.beginRelease l pt).2 l [] where
  queue := ⟨[], (List.append_nil _).symm, rfl⟩
  fibre f hf := by
    have begun : (t.beginRelease l pt).2.fibre? l = (t.fibre? l).map (fun f => { f with rels := f.rels ++ [⟨t.seq, pt⟩] }) :=
      (State.fibre?_modFibre t l (fun f => { f with rels := f.rels ++ [⟨t.seq, pt⟩] }) (fun _ => rfl) l).trans (if_pos rfl)
    exact ⟨_, by rw [begun, hf]; rfl⟩
  dbgctl i := State.modFibre_dbgctl t l _ i
  rest := rfl
theorem store (t s : State) (tm : Team) (l : Lane) (va : Dword) (ia : Nat) (pt : Point) (ev : Evict) (bs : List Byte) :
    t.Queued (t.enqueueBytes s tm l va ia pt ev bs) l [(ia, bs)] :=
  ⟨⟨[_], rfl, rfl⟩, fun f hf => ⟨f.rels, hf⟩, fun _ => rfl, rfl⟩
end State.Queued

/-- Stores whose checks pass are all queued; loc gives each its intermediate address. -/
theorem pushStores_queues {s : State} {tm : Team} {l : Lane} {m : EngineMod} {pt : Point} {loc : Nat → Nat} (xs : List (Nat × List Byte))
    (h : ∀ x ∈ xs, s.storeChecks tm (s.fibre l) m.scope.toNat (BitVec.ofNat 64 x.1) 8 = .ok (pt, loc x.1)) (t : State) :
    ∃ u, pushStores s tm l m xs t = (u, none) ∧ t.Queued u l (xs.map (fun x => (loc x.1, x.2))) := by
  induction xs generalizing t with
  | nil => exact ⟨t, rfl, .refl t l⟩
  | cons x r ih =>
    obtain ⟨passed, later⟩ := List.forall_mem_cons.mp h
    obtain ⟨u, pushed, queued⟩ := ih later (t.enqueueBytes s tm l (BitVec.ofNat 64 x.1) (loc x.1) pt m.evict x.2)
    refine ⟨u, ?_, (State.Queued.store ..).trans queued⟩
    rw [pushStores, passed]
    exact pushed

/-- A slot of a queue whose eight dwords a store of the lane may write: in range, low, aligned, not watched (R251). -/
structure State.SlotOpen (s : State) (l : Lane) (slot sia : Nat) : Prop where
  reached : ∀ o, o < 64 → s.rangeCheck (s.team l.tid).partKey (s.fibre l).level .write (slot + o) = .ok (sia + o)
  low : slot + 64 ≤ 2 ^ 56
  aligned : slot % 64 = 0
  unwatched : ∀ i, i < 8 → (s.team l.tid).watched (s.fibre l) [.write] (slot + 8 * i) 8 = false

section
variable {s : State} {h : Head} {m : EngineMod} {l : Lane} {pt : Point} {slot sia : Nat} (hs : s.SlotOpen l slot sia)
  (hp : ((s.team l.tid).levels[m.scope.toNat]?).map Lvl.pt = some pt)
include hs hp

theorem State.SlotOpen.passes {a : Nat} (i : Nat) (hi : i < 8) (ha : slot + 8 * i = a) :
    s.storeChecks (s.team l.tid) (s.fibre l) m.scope.toNat (BitVec.ofNat 64 a) 8 = .ok (pt, sia + (a - slot)) := by
  obtain ⟨reached, low, aligned, unwatched⟩ := hs
  subst ha
  have size : (BitVec.ofNat 64 (slot + 8 * i)).toNat = slot + 8 * i := by
    rw [BitVec.toNat_ofNat]
    exact Nat.mod_eq_of_lt (by omega)
  rw [State.storeChecks_reached (formChecks_ok (Team.point_declared hp) (by omega) (by omega)) (by rw [size]; exact reached (8 * i) (by omega)), size,
    unwatched i hi, if_neg Bool.false_ne_true, Nat.add_sub_cancel_left]
/-- The packet's seven body dwords and then its header are queued. -/
theorem pushPacket_queues (t : State) (idx : Nat) (pkt : List Byte) : ∃ u, pushPacket h s t l m pt slot idx pkt =
      .done (u.writePair l h.dst (BitVec.ofNat 64 idx) none) ∧
    t.Queued u l ((List.range 7).map (fun i => (sia + 8 + 8 * i, (pkt.drop (8 + 8 * i)).take 8)) ++ [(sia, pkt.take 4 ++ toBytes 4 (idx + 1))]) := by
  have place (i : Nat) (hi : i < 7) : (slot + 8 + 8 * i) % 2 ^ 64 = slot + 8 * (i + 1) := by
    have := hs.low
    rw [Nat.mod_eq_of_lt (by omega)]
    omega
  have body (t : State) := pushStores_queues (s := s) (tm := s.team l.tid) (m := m) (pt := pt) (loc := fun a => sia + (a - slot))
    ((List.range 7).map (fun i => ((slot + 8 + 8 * i) % 2 ^ 64, (pkt.drop (8 + 8 * i)).take 8))) (fun x hx => by
      obtain ⟨i, hi, rfl⟩ := List.mem_map.mp hx
      exact hs.passes hp (i + 1) (by have := List.mem_range.mp hi; omega) (place i (List.mem_range.mp hi)).symm) t
  have header (t : State) := pushStores_queues (s := s) (tm := s.team l.tid) (m := m) (pt := pt) (loc := fun a => sia + (a - slot))
    [(slot, pkt.take 4 ++ toBytes 4 (idx + 1))] (fun x hx => by
      obtain rfl := List.mem_singleton.mp hx
      exact hs.passes hp 0 (by omega) rfl) t
  have begun : t.Queued (t.releasing l m.ord.releases pt) l [] := by
    unfold State.releasing
    split
    · exact .release t l pt
    · exact .refl t l
  obtain ⟨u, pushedBody, queuedBody⟩ := body (t.releasing l m.ord.releases pt)
  obtain ⟨v, pushedHeader, queuedHeader⟩ := header (u.beginRelease l pt).2
  have addresses : ((List.range 7).map (fun i => ((slot + 8 + 8 * i) % 2 ^ 64, (pkt.drop (8 + 8 * i)).take 8))).map (fun x => (sia + (x.1 - slot), x.2)) =
      (List.range 7).map (fun i => (sia + 8 + 8 * i, (pkt.drop (8 + 8 * i)).take 8)) := by
    rw [List.map_map]
    refine List.map_congr_left fun i hi => ?_
    simp only [Function.comp, place i (List.mem_range.mp hi)]
    congr 1
    omega
  refine ⟨v, ?_, ?_⟩
  · unfold pushPacket
    dsimp only
    rw [State.releasing] at pushedBody
    rw [pushedBody]
    dsimp only
    rw [pushedHeader]
  · have queued := begun.trans (queuedBody.trans ((State.Queued.release u l pt).trans queuedHeader))
    rw [addresses] at queued
    simpa using queued
end

/-! QPUSH (R251). -/

theorem onFibre_rels (w : LaneWrite) (f : Fibre) (q : List Release) : w.onFibre { f with rels := q } = { w.onFibre f with rels := q } := by
  have put (f : Fibre) (r : RegName) (v : Word) : Fibre.put { f with rels := q } r v = { f.put r v with rels := q } := by
    cases r with
    | pred i => by_cases h : i = 0 <;> simp [Fibre.put, h]
    | _ => rfl
  have regs (rs : List (RegName × Word)) (f : Fibre) : rs.foldl (fun f p => f.put p.1 p.2) { f with rels := q } =
      { rs.foldl (fun f p => f.put p.1 p.2) f with rels := q } := by
    induction rs generalizing f with
    | nil => rfl
    | cons p r ih => rw [List.foldl_cons, List.foldl_cons, put, ih]
  unfold LaneWrite.onFibre
  rw [regs]
  cases w.last <;> rfl

/-- A queue's header as QPUSH reads it at its home, once the packet has been read, and the state after (R251). -/
def State.headerTake (s : State) (l : Lane) (blk : Field) (ia : Nat) : List Byte × State :=
  (s.blockRead l blk).homeTake (s.team l.tid).coreKey (s.space (s.team l.tid).partKey ia) ia 128
/-- The state in which QPUSH has advanced WRITE (R251). -/
def State.headerPut (s : State) (l : Lane) (blk : Field) (va : Dword) (ia wr : Nat) : State :=
  ((s.headerTake l blk ia).2.homePut (some (s.team l.tid).coreKey) (s.space (s.team l.tid).partKey ia) ia (toBytes 8 (wr + 1))
    [{ tid := l.tid, fid := l.fid, va := va, part := (s.team l.tid).partKey, level := (s.fibre l).level }]).touchPage (s.team l.tid).partKey ia

theorem State.headerTake_rest (s : State) (l : Lane) (blk : Field) (ia : Nat) :
    (s.headerTake l blk ia).2.besideCaches = (s.blockRead l blk).besideCaches := (Settles.homeTake ..).rest _
theorem State.headerTake_dbgctl (s : State) (l : Lane) (blk : Field) (ia i : Nat) : ((s.headerTake l blk ia).2.team i).dbgctl = (s.team i).dbgctl :=
  ((State.AlikeTeams.of_besideCaches (s.headerTake_rest l blk ia)).dbgctl i).trans (s.blockRead_dbgctl l blk i)
theorem State.headerTake_wq (s : State) (l : Lane) (blk : Field) (ia : Nat) : (s.headerTake l blk ia).2.wq = s.wq := by
  rw [State.wq_of_besideCaches (s.headerTake_rest l blk ia), State.blockRead]
  split <;> rfl
theorem State.headerTake_present {s : State} {l : Lane} (hl : (s.fibre? l).isSome = true) (blk : Field) (ia : Nat) :
    ((s.headerTake l blk ia).2.fibre? l).isSome = true := by
  rw [(State.AlikeTeams.of_besideCaches (s.headerTake_rest l blk ia)).present l]
  rcases s.blockRead_cases l blk with e | e <;> rw [e]
  · exact hl
  · rw [State.fibre?_resume, if_pos rfl, Option.isSome_map]
    exact hl
theorem State.headerPut_moves (s : State) (l : Lane) (blk : Field) (va : Dword) (ia wr : Nat) :
    (s.headerTake l blk ia).2.MovesBytes (s.headerPut l blk va ia wr) :=
  (State.MovesBytes.homePutFrom ..).trans (.touchPage ..)

section
variable {s : State} {h : Head} {m : EngineMod} {l : Lane} {pt : Point} {ia : Nat} (hc : s.Calm l)
  (hp : s.Passes l m.scope.toNat [.read, .write] (s.readPair l .sa h.sa) 128 pt ia) (hb : s.blockReady l .sb h.sb 64)
include hc hp hb

theorem qpushLane_narrow (hpt : pt = .core) : qpushLane h m s s l = .trap Cause.cmdScope (m.scope.zeroExtend 64) := by
  unfold qpushLane
  dsimp only
  rw [afterAcquire_idle hc.acquiring, hc.unrecorded, withBlock_ready hc.acquiring hb, hp.access (by simp)]
  exact if_pos hpt

variable (hh : s.Homed l ia 128) (hpt : pt ≠ .core)
include hh hpt

/-- QPUSH once the header has been read. -/
theorem qpushLane_reads : qpushLane h m s s l =
    let hd := (s.headerTake l h.sb ia).1
    if queueBad hd then .trap Cause.queueBad (s.readPair l .sa h.sa)
    else if 2 ^ (blockWord hd 0x20 % 32) ≤ (blockDword hd 0 + 2 ^ 64 - blockDword hd 8) % 2 ^ 64 then
      .done (((s.headerTake l h.sb ia).2.resume l).writePair l h.dst 0xFFFFFFFFFFFFFFFF none)
    else pushPacket h s ((s.headerPut l h.sb (s.readPair l .sa h.sa) ia (blockDword hd 0)).resume l) l m pt
      ((blockDword hd 0x18 + 64 * (blockDword hd 0 % 2 ^ (blockWord hd 0x20 % 32))) % 2 ^ 64) (blockDword hd 0) (s.blockBytes l .sb h.sb 64) := by
  obtain ⟨ts, read⟩ := s.blockRead_teams l h.sb
  unfold qpushLane
  dsimp only
  rw [afterAcquire_idle hc.acquiring, hc.unrecorded, withBlock_ready hc.acquiring hb, hp.access (by simp)]
  dsimp only
  rw [if_neg hpt, State.headerPut, State.headerTake, read]
  exact atHome_homed hc hh ts _ pt _

variable (ha : s.Alone h l)
include ha

theorem State.Alone.qpush_bad (hf : (s.fibre l).inFlight = false) (hq : queueBad (s.headerTake l h.sb ia).1 = true) :
    exec (.qpush h m) s = .next (s.trapped l h Cause.queueBad (s.readPair l .sa h.sa)) :=
  ha.traps hf ((qpushLane_reads hc hp hb hh hpt).trans (if_pos hq))

variable (hq : queueBad (s.headerTake l h.sb ia).1 = false)
include hq

theorem State.Alone.qpush_full (hr : ¬ (blockDword (s.headerTake l h.sb ia).1 0 + 2 ^ 64 - blockDword (s.headerTake l h.sb ia).1 8) % 2 ^ 64 <
      2 ^ (blockWord (s.headerTake l h.sb ia).1 0x20 % 32)) : exec (.qpush h m) s =
    .next (s.onward (((s.headerTake l h.sb ia).2.resume l).writePair l h.dst 0xFFFFFFFFFFFFFFFF none) l h) := by
  refine ha.done ((qpushLane_reads hc hp hb hh hpt).trans ?_) ?_
  · dsimp only
    rw [if_neg (by simp [hq]), if_pos (not_lt.mp hr)]
  · rw [(writePair_wrote _ l 0 h.dst _ none).dbgctl, State.resume, State.modFibre_dbgctl]
    exact s.headerTake_dbgctl l h.sb ia l.tid
/-- A QPUSH that has room: the header's WRITE advanced, the packet's stores queued, the index written. -/
theorem State.Alone.qpush_pushes {wr slot sia : Nat} (hwr : blockDword (s.headerTake l h.sb ia).1 0 = wr)
    (hr : (wr + 2 ^ 64 - blockDword (s.headerTake l h.sb ia).1 8) % 2 ^ 64 < 2 ^ (blockWord (s.headerTake l h.sb ia).1 0x20 % 32))
    (hslot : (blockDword (s.headerTake l h.sb ia).1 0x18 + 64 * (wr % 2 ^ (blockWord (s.headerTake l h.sb ia).1 0x20 % 32))) % 2 ^ 64 = slot)
    (hs : s.SlotOpen l slot sia) : ∃ u, exec (.qpush h m) s = .next (s.onward (u.writePair l h.dst (BitVec.ofNat 64 wr) none) l h) ∧
      ((s.headerPut l h.sb (s.readPair l .sa h.sa) ia wr).resume l).Queued u l ((List.range 7).map (fun i =>
        (sia + 8 + 8 * i, ((s.blockBytes l .sb h.sb 64).drop (8 + 8 * i)).take 8)) ++ [(sia, (s.blockBytes l .sb h.sb 64).take 4 ++ toBytes 4 (wr + 1))]) := by
  obtain ⟨u, pushed, queued⟩ := pushPacket_queues (h := h) hs hp.point ((s.headerPut l h.sb (s.readPair l .sa h.sa) ia wr).resume l) wr
    (s.blockBytes l .sb h.sb 64)
  refine ⟨u, ha.done ((qpushLane_reads hc hp hb hh hpt).trans ?_) ?_, queued⟩
  · dsimp only
    rw [if_neg (by simp [hq]), hwr, if_neg (not_le.mpr hr), hslot, pushed]
  · rw [(writePair_wrote u l 0 h.dst _ none).dbgctl, queued.dbgctl, State.resume, State.modFibre_dbgctl, State.team, State.team?,
      (s.headerPut_moves l h.sb _ ia wr).teams]
    exact s.headerTake_dbgctl l h.sb ia l.tid
end

theorem State.writePair_teams (s : State) (l : Lane) (fld : Field) (v : Dword) (lat : Option Nat) : ∃ ts, s.writePair l fld v lat = s.withTeams ts := by
  obtain ⟨ts, first⟩ := s.writeName_teams l (regName fld.file fld.idx) v.lo lat
  obtain ⟨us, second⟩ := (s.withTeams ts).writeName_teams l (regName fld.file (fld.idx + 1)) v.hi lat
  exact ⟨us, by rw [State.writePair, first, second]; rfl⟩
/-- Stores queued, and then a pair written. -/
theorem State.Queued.writePair {t u : State} {l : Lane} {xs : List (Nat × List Byte)} (hu : t.Queued u l xs) {f : Fibre} (hf : t.fibre? l = some f)
    (fld : Field) (v : Dword) :
    { u.writePair l fld v none with wq := [], seq := 0, teams := [] } = { t with wq := [], seq := 0, teams := [] } ∧
    (∃ es : List WEntry, (u.writePair l fld v none).wq = t.wq ++ es ∧ es.map (fun e => (e.ia, e.bytes)) = xs) ∧
    ∃ p q, (u.writePair l fld v none).fibre? l = some { LaneWrite.onFibre { regs := [(regName fld.file fld.idx, v.lo),
      (regName fld.file (fld.idx + 1), v.hi)] } f with pend := p, rels := q } := by
  obtain ⟨q, hq⟩ := hu.fibre f hf
  obtain ⟨p, hp⟩ := (writePair_wrote u l 0 fld v none).fibre _ hq
  rw [onFibre_rels] at hp
  obtain ⟨ts, teams⟩ := u.writePair_teams l fld v none
  exact ⟨by rw [teams]; exact hu.rest, by rw [teams]; exact hu.queue, p, q, hp⟩
/-- Bytes moved leave the fibre that goes on. -/
theorem State.MovesBytes.resume_fibre? {t u : State} (h : t.MovesBytes u) (l : Lane) : (u.resume l).fibre? l = (t.resume l).fibre? l := by
  refine fibre?_of_teams _ _ ?_ l
  simp only [State.resume, State.modFibre, State.modTeam, h.teams]
theorem State.MovesBytes.wq {t u : State} (h : t.MovesBytes u) : u.wq = t.wq := (congrArg State.wq h.rest :)

theorem State.resume_bare (t : State) (l : Lane) : { t.resume l with wq := [], seq := 0, teams := [] } = { t with wq := [], seq := 0, teams := [] } := rfl
theorem State.headerPut_fibre? {s : State} {l : Lane} (hl : (s.fibre? l).isSome = true) (blk : Field) (va : Dword) (ia wr : Nat) :
    ((s.headerPut l blk va ia wr).resume l).fibre? l = some (((s.headerTake l blk ia).2.resume l).fibre l) := by
  rw [(s.headerPut_moves l blk va ia wr).resume_fibre?]
  refine State.fibre?_of_isSome _ l ?_
  rw [State.fibre?_resume, if_pos rfl, Option.isSome_map]
  exact State.headerTake_present hl blk ia
/-- What a QPUSH that has pushed its packet leaves of the machine: the header's bytes, the packet's stores and the index. -/
theorem State.Queued.pushed {s u : State} {l : Lane} {blk : Field} {va : Dword} {ia wr : Nat} {xs : List (Nat × List Byte)}
    (hu : ((s.headerPut l blk va ia wr).resume l).Queued u l xs) (hl : (s.fibre? l).isSome = true) (fld : Field) (v : Dword) :
    { u.writePair l fld v none with wq := [], seq := 0, teams := [] } = { s.headerPut l blk va ia wr with wq := [], seq := 0, teams := [] } ∧
    (∃ es : List WEntry, (u.writePair l fld v none).wq = s.wq ++ es ∧ es.map (fun e => (e.ia, e.bytes)) = xs) ∧
    ∃ p q, (u.writePair l fld v none).fibre? l = some { LaneWrite.onFibre { regs := [(regName fld.file fld.idx, v.lo),
      (regName fld.file (fld.idx + 1), v.hi)] } (((s.headerTake l blk ia).2.resume l).fibre l) with pend := p, rels := q } := by
  obtain ⟨rest, ⟨es, queue, stored⟩, fibre⟩ := hu.writePair (State.headerPut_fibre? hl blk va ia wr) fld v
  have waiting : ((s.headerPut l blk va ia wr).resume l).wq = s.wq := (s.headerPut_moves l blk va ia wr).wq.trans (s.headerTake_wq l blk ia)
  exact ⟨rest.trans (State.resume_bare ..), ⟨es, by rw [queue, waiting], stored⟩, fibre⟩

/-- Settles O43: QPUSH is qpushLane_reads with what its packet queues (pushPacket_queues); CTRWAIT and CTRTEST are counterLane_reads with
what each does with the counter. -/
theorem queueAndCounterResults : Obligations.QueueAndCounterResults := by
  unfold Obligations.QueueAndCounterResults
  intro s h m l ha hc t va dword read
  refine ⟨fun pt ia hp hb hpt hf => ha.traps hf (qpushLane_narrow hc hp hb hpt), fun pt ia hp hh hpt hb => ?qpush, fun pt ia hp hh =>
    ⟨fun hv => State.Alone.ctrwait_passes hc hp hh ha hv, fun hv => State.Alone.ctrwait_waits hc hp hh ha hv, State.Alone.ctrtest_answers hc hp hh ha⟩⟩
  case qpush =>
    intro sp taken hd cap wr written room slot
    refine ⟨fun bad hf => State.Alone.qpush_bad hc hp hb hh hpt ha hf bad, fun good => ⟨fun full => State.Alone.qpush_full hc hp hb hh hpt ha good full,
      fun hroom sia hreach hlow hal hwatch => ?pushes⟩⟩
    case pushes =>
      obtain ⟨u, step, queued⟩ := State.Alone.qpush_pushes (wr := wr) (slot := slot) hc hp hb hh hpt ha good rfl hroom rfl ⟨hreach, hlow, hal, hwatch⟩
      obtain ⟨rest, queue, fibre⟩ := queued.pushed ha.present h.dst (BitVec.ofNat 64 wr)
      exact ⟨_, step, rest, queue, fibre⟩

end Sys2Proof.Machine
end
